-- ==== Sys2Proof/Word.lean ====
section
/-! DEFINITION. The words of the KV8 (R3, R4): registers of 32 and 64 bits, bytes, masks of 32 lanes, and the one
representation of sparse data, an association list with rising keys. -/

namespace Sys2Proof

/-- A 32-bit register word (R234). -/
abbrev Word := BitVec 32

/-- A 64-bit quantity: an s-register, a virtual address, an instruction word (R226, R234). -/
abbrev DWord := BitVec 64

/-- The smallest addressable unit of memory. -/
abbrev Byte := BitVec 8

/-- One bit for each of the 32 lanes of a cohort: bit l for lane l (R146). -/
abbrev LaneMask := BitVec 32

/-- Sparse data by key: keys strictly rising, no entry equal to what an unlisted key reads as. -/
abbrev SMap (α : Type) := List (Nat × α)

end Sys2Proof
end

