-- ==== Sys2Proof/Syntax.lean ====
section
/-! DEFINITION. The steps of the KV8 as abstract syntax: one constructor of `Instr` for each row of
spec/opcode_table.json. The first 144 are Izusk words (R232, R239, R243), the next five are the base-die words of
R332, and the rest are the events of engines, schedulers, walkers, Arbor, the host and the fabric, each one
indivisible step (95_what_each_step_holds.md). -/

namespace Sys2Proof

/-- An operand code of R234: v-register, s-register, integer constant, float constant, special. -/
inductive Opnd where
  | v (n : BitVec 7)
  | s (n : BitVec 6)
  | i (n : BitVec 5)
  | f (n : BitVec 4)
  | x (n : BitVec 4)
  deriving DecidableEq, Repr

/-- The guard of a full word: PRED and PINV (R232, R238). -/
structure Guard where
  p : BitVec 3
  inv : Bool
  deriving DecidableEq, Repr

/-- Rounding codes 0 to 4 (R203). -/
inductive Rnd where
  | rne | rtz | rdn | rup | sr
  deriving DecidableEq, Repr

/-- Flag select (R232); code 3 is reserved. -/
inductive FlagSel where
  | off | a | b
  deriving DecidableEq, Repr

/-- Memory orders (R95). -/
inductive Order where
  | rlx | acq | rel | ar
  deriving DecidableEq, Repr

/-- The kinds of FENCE (R324), coded in the order field. -/
inductive FenceKind where
  | sc | acq | rel | ar
  deriving DecidableEq, Repr

/-- Scopes 0 to 5 (R94). -/
inductive Scope where
  | blk | clu | die | pkg | dom | sys
  deriving DecidableEq, Repr

/-- Memory types 0 to 14 (R237). -/
inductive MType where
  | z8 | s8 | z16 | s16 | z32 | s32 | z64 | s64 | b32 | b64 | b128 | f16 | bf16 | f32 | f64
  deriving DecidableEq, Repr

/-- Address spaces of the M layout, 0 to 4 (R237). -/
inductive Space where
  | gen | scr | peer | reg | vault
  deriving DecidableEq, Repr

/-- ICMP conditions (R263). -/
inductive ICond where
  | eq | ne | lt | le | gt | ge
  deriving DecidableEq, Repr

/-- FCMP conditions (R274). -/
inductive FCond where
  | eq | ne | lt | le | gt | ge | un | orr
  deriving DecidableEq, Repr

/-- CVT types (R277). -/
inductive CvtTy where
  | f32 | bf16 | f16 | e4m3 | e5m2 | s32 | z32 | s64 | z64 | s16 | z16 | z8 | s8 | f64
  deriving DecidableEq, Repr

/-- SHFL modes (R281). -/
inductive ShflMode where
  | idx | up | down | xor
  deriving DecidableEq, Repr

/-- VOTE modes (R282). -/
inductive VoteMode where
  | all | any | uni | ballot
  deriving DecidableEq, Repr

/-- LRED and LSCAN operations (R283). -/
inductive LaneOp where
  | iadd | imin | imax | and | or | xor | fadd | fmin | fmax
  deriving DecidableEq, Repr

/-- Atomic operations 0 to 11 (R318). -/
inductive AOp where
  | add | min | max | and | or | xor | exch | inc | dec | fadd | fmin | fmax
  deriving DecidableEq, Repr

/-- Special registers 0x00 to 0x0F (R307). -/
inductive SpReg where
  | lane | coh | blk | crank | clu | die | pkg | orig | vbase | args | nflags | act | path | meet | part | opp
  deriving DecidableEq, Repr

/-- The guard and operand fields of an R-layout word (R232); an unused field holds `v 0`, code 0x00 (R259). -/
structure R3 where
  g : Guard
  d : Opnd
  a : Opnd
  b : Opnd
  c : Opnd
  deriving DecidableEq, Repr

/-- W, U and SAT of R263. -/
structure IMod where
  w : Bool
  u : Bool
  sat : Bool
  deriving DecidableEq, Repr

/-- RND, FTZ, F64 and SAT of R271. -/
structure FMod where
  rnd : Rnd
  ftz : Bool
  f64 : Bool
  sat : Bool
  deriving DecidableEq, Repr

/-- The fields of an M-layout access that do not depend on the instruction (R232, R237). -/
structure MArgs where
  g : Guard
  base : Opnd
  ty : MType
  ord : Order
  sc : Scope
  f : FlagSel
  sp : Space
  deriving DecidableEq, Repr

/-- The fields of an E-layout command that do not depend on the instruction (R232, R344). -/
structure EArgs where
  g : Guard
  d : BitVec 6
  acq : Bool
  rel : Bool
  sc : Scope
  fs : BitVec 3
  deriving DecidableEq, Repr

/-- A half of a paired word (R239), its fields as encoded: each half is checked only when it has an active lane. -/
structure Half where
  rop : BitVec 6
  p : BitVec 3
  d : BitVec 7
  b : BitVec 8
  m : BitVec 7
  deriving DecidableEq, Repr

/-- What a TLB invalidation names within one address space (R42). -/
inductive InvalWhat where
  | page (va : BitVec 64) (size : Nat)
  | range (lo hi : BitVec 64)
  | space
  deriving DecidableEq, Repr

/-- Who runs a transaction: a lane of a cohort, or a base-die hart. -/
inductive TxWho where
  | lane (coh l : Nat)
  | hart (h : Nat)
  deriving DecidableEq, Repr

/-- A base-die memory operation (R119, R120, R333): RISC-V loads, stores, AMO, LR, SC and FENCE. -/
inductive RvMem where
  | load (rd rs1 : BitVec 5) (imm : BitVec 12) (size : BitVec 2) (uns : Bool)
  | store (rs2 rs1 : BitVec 5) (imm : BitVec 12) (size : BitVec 2)
  | fload (fd rs1 : BitVec 5) (imm : BitVec 12) (size : BitVec 2)
  | fstore (fs2 rs1 : BitVec 5) (imm : BitVec 12) (size : BitVec 2)
  | amo (op : BitVec 5) (rd rs1 rs2 : BitVec 5) (dbl aq rl : Bool)
  | lr (rd rs1 : BitVec 5) (dbl aq rl : Bool)
  | sc (rd rs1 rs2 : BitVec 5) (dbl aq rl : Bool)
  | fence (pred succ : BitVec 4)
  | fenceTso
  | fenceI
  deriving DecidableEq, Repr

/-- What a remote package asks of this one (R390, R391). -/
inductive RemoteKind where
  | load | store | rmw (op : AOp) (ty : MType) | cas
  deriving DecidableEq, Repr

/-- A request that a fabric plane could not deliver (R389): an in-flight lane operation, or an engine command. -/
inductive FlitWhat where
  | op (id : Nat) (lanes : BitVec 32)
  | cmd (core slot : Nat)
  deriving DecidableEq, Repr

/-- Registers written by Arbor that have no row of their own (R5): R30, R81, R128, R168, R175; a die's default point (R183)
and the areas granted to a partition (R190, R382). -/
inductive CtlReg where
  | tctx (n : Nat) | tierctl (p : Nat) | txctl (p : Nat) | stallctl (p : Nat) | schedctl (p : Nat)
  | defPoint (d : Nat) | saveArea (p : Nat) | evictArea (p : Nat)
  /-- where the ring of the error log lies, and how many of its records Arbor takes (R439) -/
  | logRing | logTake
  deriving DecidableEq, Repr

/-- Units that are retired: those that have spares (R441), then those that have none (R9). -/
inductive SpareUnit where
  | core (n : Nat) | slice (die k : Nat) | channel (stack k : Nat) | lane (port : Nat)
  | baseCore (n : Nat) | vault (n : Nat) | agent (die : Nat) | walker (die k : Nat)
  deriving DecidableEq, Repr

/-- The header of one member's collective contribution: what must agree at every member (R397), its time limit in ms (R401),
and whether the member reports that a target check of its own has failed (R398). -/
structure CollHead where
  kind : BitVec 2
  n : Nat
  code : BitVec 4
  wxb : BitVec 10
  wx96 : Bool
  nmem : Nat
  tmo : Nat
  fail : Bool
  deriving DecidableEq, Repr

/-- One step of the device. -/
inductive Instr where
  -- integer arithmetic (R263 to R266)
  | iadd (r : R3) (m : IMod)
  | iadd3 (r : R3) (m : IMod)
  | isub (r : R3) (m : IMod)
  | ineg (r : R3) (m : IMod)
  | iabs (r : R3) (m : IMod)
  | imin (r : R3) (m : IMod)
  | imax (r : R3) (m : IMod)
  | lea (r : R3) (sh : BitVec 4) (u : Bool)
  | icmp (g : Guard) (p : BitVec 3) (a b : Opnd) (c : ICond) (w u : Bool)
  | imul (r : R3) (m : IMod)
  | imulh (r : R3) (m : IMod)
  | imad (r : R3) (m : IMod)
  | imadw (r : R3) (m : IMod)
  | idiv (r : R3) (f : FlagSel) (w u dzt : Bool)
  | irem (r : R3) (f : FlagSel) (w u dzt : Bool)
  | iaddImm (g : Guard) (d a : Opnd) (imm : BitVec 32)
  | imulImm (g : Guard) (d a : Opnd) (imm : BitVec 32)
  | andImm (g : Guard) (d a : Opnd) (imm : BitVec 32)
  | orImm (g : Guard) (d a : Opnd) (imm : BitVec 32)
  | xorImm (g : Guard) (d a : Opnd) (imm : BitVec 32)
  -- logic, shifts, bit fields (R267, R268)
  | and (r : R3) (w : Bool)
  | or (r : R3) (w : Bool)
  | xor (r : R3) (w : Bool)
  | andn (r : R3) (w : Bool)
  | orn (r : R3) (w : Bool)
  | not (r : R3) (w : Bool)
  | shl (r : R3) (w : Bool)
  | shr (r : R3) (w : Bool)
  | sar (r : R3) (w : Bool)
  | rot (r : R3) (w : Bool)
  | funl (r : R3) (w : Bool)
  | bfx (r : R3) (w u : Bool)
  | bfi (r : R3) (w : Bool)
  | popc (r : R3) (w : Bool)
  | clz (r : R3) (w : Bool)
  | ctz (r : R3) (w : Bool)
  | brev (r : R3) (w : Bool)
  | perm (r : R3)
  -- moves and predicates (R269, R270)
  | mov (r : R3) (w : Bool)
  | sel (r : R3) (w : Bool) (p : BitVec 3) (inv : Bool)
  | plog (g : Guard) (p : BitVec 3) (pa pb pc : BitVec 3) (lut : BitVec 8)
  | movi (g : Guard) (d : Opnd) (sx : Bool) (imm : BitVec 32)
  | movw (g : Guard) (d : Opnd) (lo : Bool) (imm : BitVec 32)
  -- floating point (R271 to R276)
  | fadd (r : R3) (m : FMod)
  | fsub (r : R3) (m : FMod)
  | fmul (r : R3) (m : FMod)
  | ffma (r : R3) (m : FMod) (na nc : Bool)
  | fmin (r : R3) (ftz f64 : Bool)
  | fmax (r : R3) (ftz f64 : Bool)
  | fscale (r : R3) (m : FMod)
  | fcmp (g : Guard) (p : BitVec 3) (a b : Opnd) (c : FCond) (ftz f64 : Bool)
  | fclass (r : R3) (f64 : Bool)
  | frint (r : R3) (rnd : Rnd) (ftz f64 : Bool)
  | hadd2 (r : R3) (rnd : Rnd) (ftz sat : Bool)
  | hmul2 (r : R3) (rnd : Rnd) (ftz sat : Bool)
  | hfma2 (r : R3) (rnd : Rnd) (ftz sat : Bool)
  | faddImm (g : Guard) (d a : Opnd) (imm : BitVec 32)
  | fmulImm (g : Guard) (d a : Opnd) (imm : BitVec 32)
  | fminImm (g : Guard) (d a : Opnd) (imm : BitVec 32)
  | fmaxImm (g : Guard) (d a : Opnd) (imm : BitVec 32)
  -- special functions and conversion (R277 to R279)
  | rcp (r : R3) (f : FlagSel) (ftz : Bool)
  | rsq (r : R3) (f : FlagSel) (ftz : Bool)
  | sqrt (r : R3) (f : FlagSel) (ftz : Bool)
  | exp2 (r : R3) (f : FlagSel) (ftz : Bool)
  | log2 (r : R3) (f : FlagSel) (ftz : Bool)
  | sinpi (r : R3) (f : FlagSel) (ftz : Bool)
  | cospi (r : R3) (f : FlagSel) (ftz : Bool)
  | tanh (r : R3) (f : FlagSel) (ftz : Bool)
  | cvt (r : R3) (rnd : Rnd) (sat : Bool) (dt st : CvtTy)
  -- lane instructions (R280 to R285)
  | shfl (r : R3) (mode : ShflMode) (w : Bool)
  | vote (g : Guard) (d : Opnd) (p : BitVec 3) (mode : VoteMode) (pn : Bool)
  | lred (r : R3) (op : LaneOp) (w u : Bool) (rnd : Rnd)
  | lscan (r : R3) (op : LaneOp) (w u : Bool) (rnd : Rnd) (excl : Bool)
  | matchL (r : R3) (w : Bool)
  -- paired words (R239 to R241)
  | pairedCoIssue (h0 h1 : Half)
  | pairedPathSplit (h0 h1 : Half)
  -- control (R287 to R300)
  | bra (g : Guard) (off : BitVec 32) (idx : BitVec 3)
  | call (g : Guard) (link : Opnd) (off : BitVec 32) (idx : BitVec 3)
  | loop (g : Guard) (cnt : BitVec 6) (off : BitVec 32) (idx : BitVec 3)
  | brm (g : Guard) (p : BitVec 3) (inv : Bool) (off : BitVec 32) (idx : BitVec 3)
  | meet (g : Guard) (clr : Bool) (off : BitVec 32) (idx : BitVec 3)
  | spawn (g : Guard) (n : BitVec 8) (off : BitVec 32)
  | brx (g : Guard) (a : Opnd)
  | callx (g : Guard) (link a : Opnd)
  | ret (g : Guard) (a : Opnd)
  | mend (g : Guard)
  | spflush (g : Guard)
  | exit (g : Guard)
  | yield (g : Guard)
  | waitf (g : Guard) (mask : BitVec 12)
  | nop (g : Guard)
  | rnld (m : MArgs) (path : Bool) (idx : Opnd) (off : BitVec 14)
  | bar (g : Guard) (id : BitVec 4)
  | bara (g : Guard) (id : BitVec 4)
  | barw (g : Guard) (id : BitVec 4)
  | cbar (g : Guard) (id : BitVec 2)
  | srd (g : Guard) (d : Opnd) (r : SpReg)
  | swr (g : Guard) (a : Opnd) (r : SpReg)
  | gts (g : Guard) (d : Opnd)
  | clk (g : Guard) (d : Opnd)
  | trap (g : Guard) (a : Opnd) (code : BitVec 8)
  | brkp (g : Guard) (code : BitVec 8)
  -- memory (R311 to R327)
  | ld (m : MArgs) (d idx : Opnd) (off : BitVec 14)
  | st (m : MArgs) (x : Opnd) (off : BitVec 14)
  | ldc (m : MArgs) (d idx : Opnd) (off : BitVec 14)
  | atom (m : MArgs) (op : AOp) (d x : Opnd) (off : BitVec 10)
  | atoms (m : MArgs) (op : AOp) (d x : Opnd) (off : BitVec 10)
  | red (m : MArgs) (op : AOp) (x : Opnd) (off : BitVec 10)
  | cas (m : MArgs) (d x : Opnd) (off : BitVec 14)
  | aflush (g : Guard)
  | fence (g : Guard) (k : FenceKind) (sc : Scope)
  | pref (g : Guard) (l2 : Bool) (base idx : Opnd) (off : BitVec 14)
  | cwb (g : Guard) (all : Bool) (base idx : Opnd) (off : BitVec 14)
  | cinv (g : Guard) (all : Bool) (base idx : Opnd) (off : BitVec 14)
  -- SIMT transactions (R328 to R330)
  | txbeg (g : Guard) (d : BitVec 7) (cls : BitVec 8) (n : BitVec 4) (off : BitVec 29) (idx : BitVec 3)
  | txend (g : Guard)
  | txabt (g : Guard) (code : BitVec 8)
  | txst (g : Guard) (d : BitVec 7)
  -- queues (R334 to R338)
  | qpush (m : MArgs) (st x : Opnd) (q : BitVec 8)
  | qpop (m : MArgs) (d st : Opnd) (wait : Bool) (q : BitVec 8)
  | qcnt (m : MArgs) (d : Opnd) (q : BitVec 8)
  -- engines (R340 to R367)
  | cpy (e : EArgs) (a : BitVec 6)
  | cpyg (e : EArgs) (a : BitVec 6) (b : BitVec 7)
  | cpys (e : EArgs) (a : BitVec 6) (b : BitVec 7)
  | cpym (e : EArgs) (a c : BitVec 6) (slot : BitVec 5)
  | omclm (e : EArgs) (a b : Opnd) (try_ : Bool) (scu : BitVec 2)
  | omrel (e : EArgs) (a b : Opnd)
  | accz (e : EArgs) (acc : BitVec 3)
  | accld (e : EArgs) (a b : BitVec 6) (acc : BitVec 3)
  | accst (e : EArgs) (a b c : BitVec 6) (acc : BitVec 3)
  | accmv (e : EArgs) (slot : BitVec 5) (c : BitVec 6) (acc : BitVec 3) (h : Bool)
  | mma (e : EArgs) (sa sb : BitVec 5) (acc : BitVec 3)
  | mmb (e : EArgs) (sa sb : BitVec 5) (acc : BitVec 3)
  | futw (g : Guard) (d a : Opnd)
  | futt (g : Guard) (p : BitVec 3) (a : Opnd)
  | futc (g : Guard) (a : Opnd)
  | rstl (g : Guard) (ix : BitVec 6) (clr : Bool)
  | coll (e : EArgs) (a b : BitVec 6) (kind : BitVec 2)
  | put (e : EArgs) (a b : BitVec 6)
  | get (e : EArgs) (a b : BitVec 6)
  | qnt (e : EArgs) (a b c : BitVec 6) (wt : BitVec 4)
  | dqnt (e : EArgs) (a b c : BitVec 6) (wt : BitVec 4)
  | amax (g : Guard) (f : FlagSel) (a : Opnd) (ring : BitVec 6) (adv : Bool)
  | sring (g : Guard) (f : FlagSel) (d : Opnd) (ring : BitVec 6)
  -- base-die words (R332)
  | kxBegin (rd rs1 : BitVec 5)
  | kxEnd
  | kxAbort (code : BitVec 8)
  | kxStat (rd : BitVec 5)
  | kxLock (rs1 : BitVec 5)
  -- events
  | flaggedOpComplete (op : Nat) (lanes : BitVec 32)
  | walkComplete (k : Nat)
  | mvWaitTimeout (k : Nat)
  | tlbInvalidate (tctx : Nat) (what : InvalWhat)
  | tlbInvalidateComplete (k : Nat)
  | peerAccessArrive (k : Nat)
  | copyLineLanded (core slot line : Nat)
  | releasePull (k : Nat)
  | pullAck (k : Nat)
  | releaseSetTimeout (core k : Nat)
  | regionMoveComplete (k : Nat)
  | floorWindow
  | txLockWaitEnd (part cls : Nat)
  | txTimeLimit (who : TxWho)
  | spawnCohortForm (block list : Nat)
  | belvedereCheck (coh : Nat)
  | submitEntry (vf : Nat) (record gang tag flags : BitVec 64)
  | dependencePoll
  | railsSettled (die : Nat)
  | clusterPlace (grid e j die clu : Nat) (cores : List Nat)
  | gridRetire (grid : Nat)
  | activePositionHandoff (out into : Nat)
  | cohortEvict (coh : Nat)
  | cohortRestoreEvicted (coh : Nat)
  | launchQueueCohortStart (part q block idx : Nat)
  | powerLimitStepDown
  | powerLimitStepUp
  | trapRecordWrite (part : Nat)
  | trapReply (part : Nat) (w0 newpc edits dumpva : BitVec 64)
  | trapQueueSetup (part : Nat) (base : BitVec 64)
  | trapQueueHeadWrite (part : Nat) (head : BitVec 64)
  | queueSetup (part q : Nat) (ring spill : BitVec 64) (scap : BitVec 32)
  | exportRegion (part region : Nat)
  | memoryGrant (part region : Nat) (on : Bool)
  | floorRequest (part ch : Nat) (units : BitVec 9)
  | sliceEnd (share : Nat)
  | haltComplete (share : Nat)
  | quiesceMarkerReturn (share : Nat)
  | imageSaveComplete (share : Nat)
  | scrubComplete (share : Nat)
  | restoreComplete (share : Nat)
  | engineOpComplete (core slot : Nat)
  | claimGrant (core slot : Nat)
  | fillLanded (core slot : Nat)
  | remoteRequest (src : Nat) (dtid : BitVec 16) (kind : RemoteKind) (off size : Nat) (data : BitVec 128)
  | payloadDelivery (src : Nat) (dtid : BitVec 16) (off : Nat) (bytes : List (BitVec 8)) (rec : Option Nat) (code detail : BitVec 8)
  | collChunkArrival (dtid : BitVec 16) (cid : BitVec 32) (rank : Nat) (head : CollHead) (elems : List Int)
  | collResult (core slot : Nat)
  | collTimeout (dtid : BitVec 16) (cid : BitVec 32)
  | flitReplayExhausted (what : FlitWhat)
  | portOutOfService (port : Nat)
  | gangReady (gid : BitVec 32) (rank : Nat) (digest : BitVec 384)
  | gangGo (gid : BitVec 32)
  | gangCancel (gid : BitVec 32)
  | gangAck (gid : BitVec 32) (rank : Nat)
  | gangAbort (gid : BitVec 32) (missing : List Nat)
  | gangPrepareTimeout (gid : BitVec 32)
  | gangGoTimeout (gid : BitVec 32)
  | gangAckTimeout (gid : BitVec 32)
  | featuresOk (vf : Nat) (features : BitVec 64)
  | vfReset (vf : Nat)
  | cancelLaunch (vf : Nat) (tag : BitVec 64)
  | readAccount (vf : Nat)
  | loadImage (vf : Nat) (va base : BitVec 64)
  | loaderComplete (k : Nat)
  | eventDelivery (vf : Nat)
  | completionEntryWrite (vf : Nat)
  | getVersion (vf : Nat)
  | getCapabilities (vf : Nat)
  | negotiateAlgorithms (vf : Nat)
  | getDigests (vf : Nat)
  | getCertificate (vf : Nat)
  | challenge (vf : Nat) (nonce : BitVec 256)
  | getMeasurements (vf : Nat) (index : Nat)
  | keyExchange (vf : Nat)
  | finish (vf : Nat)
  | endSession (vf : Nat)
  | setImageKey (vf : Nat) (k : Nat) (key : List (BitVec 8))
  | setDtid (vf : Nat) (dtid : BitVec 16)
  | resetRecord (vf : Nat)
  | cshareWrite (n : Nat) (v : BitVec 64)
  | pctlWrite (p : Nat) (v : BitVec 32)
  | registerWrite (r : CtlReg) (v : BitVec 64)
  | arrayScrubPass (unit : BitVec 8) (src : BitVec 16) (bad : List Nat)
  | errorLogRecord (kind unit : BitVec 8) (src : BitVec 16) (part : BitVec 5) (pa : BitVec 64) (count : BitVec 32)
  | spareBringIn (u : SpareUnit)
  | spareSwapComplete (u : SpareUnit)
  | corePowerGate (core : Nat)
  | coreWake (core : Nat)
  | reset (pkg : Nat) (ports : BitVec 18) (failed : List SpareUnit)
  | baseDieMemoryAccess (hart : Nat) (op : RvMem)
  | hartTrap (hart : Nat) (cause : BitVec 64)
  | instructionCacheFill (coh : Nat) (pc : BitVec 64)
  | unknownControlRequest (vf : Nat) (code : BitVec 32)
  deriving DecidableEq, Repr

end Sys2Proof
end

