-- ==== Sys2Proof/WellFormed.lean ====
section
/-! DEFINITION. Which instructions have an encoding (R232, R234, R242 to R244, R257, R259, R287, R311, R314, R328,
R344): the checks that a word passes or fails on its own bits. What depends on the launch (a v-register at or above
VREGS, a renamed register, a flag the header sets to 15) is checked when the word issues. -/

namespace Sys2Proof

/-- The subcode k of R242 where a check fails, 0 where it passes. -/
def chk (k : Nat) (ok : Bool) : Nat := if ok then 0 else k

/-- Of two results of checks the lowest subcode that fails. The manual gives no order among the checks of one word;
the lowest subcode wins (DESIGN CHOICE, notes/assumptions/10.md; unsafe). -/
def lowest (a b : Nat) : Nat := if a = 0 then b else if b = 0 then a else min a b

/-- How an 8-bit operand field of an R-layout word is used: not at all, as a source or as a destination of 32 or 64
bits (`w` true: 64). -/
inductive FieldUse where
  | zero
  | src (w : Bool)
  | dst (w : Bool)
  deriving DecidableEq, Repr

/-- An operand code exists (R234: 0xFD to 0xFF do not). -/
def Opnd.okCode : Opnd → Bool
  | .x n => n.toNat ≤ 12
  | _ => true

/-- A special, 0xF0 to 0xFF (R234). -/
def Opnd.isSpecial : Opnd → Bool
  | .x _ => true
  | _ => false

/-- A 64-bit operand in v-registers names the even register of a pair (R234). -/
def Opnd.evenIf (w : Bool) : Opnd → Bool
  | .v n => !w || n.toNat % 2 == 0
  | _ => true

def Opnd.isV : Opnd → Bool
  | .v _ => true
  | _ => false

def Opnd.isS : Opnd → Bool
  | .s _ => true
  | _ => false

def Opnd.isS0 : Opnd → Bool
  | .s n => n.toNat == 0
  | _ => false

def Opnd.isInt : Opnd → Bool
  | .i _ => true
  | _ => false

def Opnd.isReg (o : Opnd) : Bool := o.isV || o.isS

def Opnd.isQuad : Opnd → Bool
  | .v n => n.toNat % 4 == 0
  | _ => false

/-- An operand passes the check of its field (subcode 3 otherwise, R234, R257). -/
def FieldUse.ok : FieldUse → Opnd → Bool
  | .zero, _ => true
  | .src w, o => o.okCode && o.evenIf w
  | .dst w, o => o.isReg && o.evenIf w

/-- An unused field holds 0x00 (R259). -/
def FieldUse.okZero : FieldUse → Opnd → Bool
  | .zero, o => o == .v 0
  | _, _ => true

/-- The subcode of the fields of an R-layout word, 0 where every field passes. -/
def R3.bad (r : R3) (ud ua ub uc : FieldUse) : Nat :=
  lowest (chk 2 (ud.okZero r.d && ua.okZero r.a && ub.okZero r.b && uc.okZero r.c))
    (chk 3 (ud.ok r.d && ua.ok r.a && ub.ok r.b && uc.ok r.c))

/-- A predicate destination, p0 to p6 (R234). -/
def okPred (p : BitVec 3) : Bool := p.toNat ≤ 6

/-- The C field holds the index operand under SR and 0x00 otherwise (R259). -/
def idxUse (rnd : Rnd) : FieldUse := if rnd = .sr then .src false else .zero

/-- The source of a 64-bit base: an s-register, an even pair, an integer constant or 0xF6 (R313). -/
def Opnd.okBase : Opnd → Bool
  | .v n => n.toNat % 2 == 0
  | .s _ => true
  | .i _ => true
  | .x n => n.toNat == 6
  | .f _ => false

/-- Bytes of a memory type (R237). -/
def MType.bytes : MType → Nat
  | .z8 => 1 | .s8 => 1 | .z16 => 2 | .s16 => 2 | .z32 => 4 | .s32 => 4 | .z64 => 8 | .s64 => 8
  | .b32 => 4 | .b64 => 8 | .b128 => 16 | .f16 => 2 | .bf16 => 2 | .f32 => 4 | .f64 => 8

/-- A register destination by memory type (R314). -/
def MType.okDst (t : MType) (o : Opnd) : Bool :=
  if t = .b128 then o.isQuad else o.isReg && o.evenIf (t.bytes == 8)

/-- A data operand by memory type (R314). -/
def MType.okSrc (t : MType) (o : Opnd) : Bool :=
  if t = .b128 then o.isQuad else o.okCode && o.evenIf (t.bytes == 8)

def MType.isInt : MType → Bool
  | .z32 | .s32 | .z64 | .s64 => true
  | _ => false

/-- The operation and type pairs of R318 for ATOM; RED adds .f16 and .bf16 to fadd and has no exch. -/
def AOp.okTy (op : AOp) (t : MType) (isRed : Bool) : Bool :=
  match op with
  | .add | .min | .max => t.isInt
  | .and | .or | .xor => t.isInt || t == .b32 || t == .b64
  | .exch => !isRed && (t.isInt || t == .b32 || t == .b64 || t == .f32 || t == .f64)
  | .inc | .dec => t == .z32 || t == .z64
  | .fadd => t == .f32 || t == .f64 || (isRed && (t == .f16 || t == .bf16))
  | .fmin | .fmax => t == .f32 || t == .f64

/-- Operations 0 to 5, the ones ATOMS has (R311, R320). -/
def AOp.simple : AOp → Bool
  | .add | .min | .max | .and | .or | .xor => true
  | _ => false

def CvtTy.is64 : CvtTy → Bool
  | .s64 | .z64 | .f64 => true
  | _ => false

def CvtTy.isFloat : CvtTy → Bool
  | .f32 | .bf16 | .f16 | .e4m3 | .e5m2 | .f64 => true
  | _ => false

/-- SAT is 0 on float to integer and RND is 0 on integer to integer (R278). -/
def okCvtMod (rnd : Rnd) (sat : Bool) (dt st : CvtTy) : Bool :=
  if dt.isFloat then true else if st.isFloat then !sat else rnd == .rne

/-- U is used by IMIN and IMAX only, RND by FADD only (R280). -/
def okLaneMod (op : LaneOp) (u : Bool) (rnd : Rnd) : Bool :=
  (!u || op == .imin || op == .imax) && (rnd == .rne || op == .fadd)

def MArgs.okOrd (m : MArgs) (os : List Order) : Bool := os.contains m.ord

/-- The s-register group sA to sA+k ends at s63 (R344, R345). -/
def okGroup (a : BitVec 6) (k : Nat) : Bool := 1 ≤ a.toNat && a.toNat + k ≤ 63

/-- D of an engine command is s1 to s63 (R344). -/
def EArgs.ok (e : EArgs) : Bool := e.d.toNat ≠ 0

/-- "none" in the acquire and release column: bits [10:6] are zero (R344). -/
def EArgs.noOrd (e : EArgs) : Bool := !e.acq && !e.rel && e.sc == .blk

def SpReg.is64 : SpReg → Bool
  | .args | .meet => true
  | _ => false

/-- SWR has two targets; every other register is read-only (R308). -/
def SpReg.writable : SpReg → Bool
  | .nflags | .meet => true
  | _ => false

/-- A computed target: an s-register, an even pair or a constant (R291). -/
def Opnd.okTarget : Opnd → Bool
  | .v n => n.toNat % 2 == 0
  | .s _ => true
  | .i _ => true
  | .f _ => true
  | .x _ => false

/-- A future handle operand of FUTW, FUTT and FUTC (R344). -/
def Opnd.okHandle (o : Opnd) : Bool := o.isReg

/-- The subcode of R242 for a word that holds this instruction, 0 where it has a legal encoding. Events have no
encoding and none is asked of them. -/
def Instr.illegal : Instr → Nat
  | .iadd r m => r.bad (.dst m.w) (.src m.w) (.src m.w) .zero
  | .iadd3 r m => r.bad (.dst m.w) (.src m.w) (.src m.w) (.src m.w)
  | .isub r m => r.bad (.dst m.w) (.src m.w) (.src m.w) .zero
  | .ineg r m => lowest (chk 2 (!m.u)) (r.bad (.dst m.w) (.src m.w) .zero .zero)
  | .iabs r m => lowest (chk 2 (!m.u)) (r.bad (.dst m.w) (.src m.w) .zero .zero)
  | .imin r m => lowest (chk 2 (!m.sat)) (r.bad (.dst m.w) (.src m.w) (.src m.w) .zero)
  | .imax r m => lowest (chk 2 (!m.sat)) (r.bad (.dst m.w) (.src m.w) (.src m.w) .zero)
  | .lea r _ _ => r.bad (.dst true) (.src true) (.src false) .zero
  | .icmp _ p a b _ w _ => chk 3 (okPred p && (FieldUse.src w).ok a && (FieldUse.src w).ok b)
  | .imul r m => r.bad (.dst m.w) (.src m.w) (.src m.w) .zero
  | .imulh r m => lowest (chk 2 (!m.sat)) (r.bad (.dst m.w) (.src m.w) (.src m.w) .zero)
  | .imad r m => r.bad (.dst m.w) (.src m.w) (.src m.w) (.src m.w)
  | .imadw r m => lowest (chk 2 (!m.sat && !m.w)) (r.bad (.dst true) (.src false) (.src false) (.src true))
  | .idiv r _ w _ _ => r.bad (.dst w) (.src w) (.src w) .zero
  | .irem r _ w _ _ => r.bad (.dst w) (.src w) (.src w) .zero
  | .iaddImm _ d a _ => chk 3 (d.isReg && a.okCode)
  | .imulImm _ d a _ => chk 3 (d.isReg && a.okCode)
  | .andImm _ d a _ => chk 3 (d.isReg && a.okCode)
  | .orImm _ d a _ => chk 3 (d.isReg && a.okCode)
  | .xorImm _ d a _ => chk 3 (d.isReg && a.okCode)
  | .and r w => r.bad (.dst w) (.src w) (.src w) .zero
  | .or r w => r.bad (.dst w) (.src w) (.src w) .zero
  | .xor r w => r.bad (.dst w) (.src w) (.src w) .zero
  | .andn r w => r.bad (.dst w) (.src w) (.src w) .zero
  | .orn r w => r.bad (.dst w) (.src w) (.src w) .zero
  | .not r w => r.bad (.dst w) (.src w) .zero .zero
  | .shl r w => r.bad (.dst w) (.src w) (.src w) .zero
  | .shr r w => r.bad (.dst w) (.src w) (.src w) .zero
  | .sar r w => r.bad (.dst w) (.src w) (.src w) .zero
  | .rot r w => r.bad (.dst w) (.src w) (.src w) .zero
  | .funl r w => r.bad (.dst w) (.src w) (.src w) (.src w)
  | .bfx r w _ => r.bad (.dst w) (.src w) (.src w) .zero
  | .bfi r w => r.bad (.dst w) (.src w) (.src w) (.src w)
  | .popc r w => r.bad (.dst w) (.src w) .zero .zero
  | .clz r w => r.bad (.dst w) (.src w) .zero .zero
  | .ctz r w => r.bad (.dst w) (.src w) .zero .zero
  | .brev r w => r.bad (.dst w) (.src w) .zero .zero
  | .perm r => r.bad (.dst false) (.src false) (.src false) (.src false)
  | .mov r w => r.bad (.dst w) (.src w) .zero .zero
  | .sel r w p _ => lowest (chk 2 (okPred p)) (r.bad (.dst w) (.src w) (.src w) .zero)
  | .plog _ p _ _ _ _ => chk 3 (okPred p)
  | .movi _ d sx _ => chk 3 (d.isReg && d.evenIf sx)
  | .movw _ d _ _ => chk 3 (d.isReg && d.evenIf true)
  | .fadd r m => lowest (chk 2 (!(m.ftz && m.f64))) (r.bad (.dst m.f64) (.src m.f64) (.src m.f64) (idxUse m.rnd))
  | .fsub r m => lowest (chk 2 (!(m.ftz && m.f64))) (r.bad (.dst m.f64) (.src m.f64) (.src m.f64) (idxUse m.rnd))
  | .fmul r m => lowest (chk 2 (!(m.ftz && m.f64))) (r.bad (.dst m.f64) (.src m.f64) (.src m.f64) (idxUse m.rnd))
  | .ffma r m _ _ => lowest (chk 2 (!(m.ftz && m.f64))) (r.bad (.dst m.f64) (.src m.f64) (.src m.f64) (.src m.f64))
  | .fmin r ftz f64 => lowest (chk 2 (!(ftz && f64))) (r.bad (.dst f64) (.src f64) (.src f64) .zero)
  | .fmax r ftz f64 => lowest (chk 2 (!(ftz && f64))) (r.bad (.dst f64) (.src f64) (.src f64) .zero)
  | .fscale r m => lowest (chk 2 (!(m.ftz && m.f64))) (r.bad (.dst m.f64) (.src m.f64) (.src false) (idxUse m.rnd))
  | .fcmp _ p a b _ ftz f64 =>
      lowest (chk 2 (!(ftz && f64))) (chk 3 (okPred p && (FieldUse.src f64).ok a && (FieldUse.src f64).ok b))
  | .fclass r f64 => r.bad (.dst false) (.src f64) .zero .zero
  | .frint r rnd ftz f64 => lowest (chk 2 (!(ftz && f64))) (r.bad (.dst f64) (.src f64) .zero (idxUse rnd))
  | .hadd2 r rnd _ _ => r.bad (.dst false) (.src false) (.src false) (idxUse rnd)
  | .hmul2 r rnd _ _ => r.bad (.dst false) (.src false) (.src false) (idxUse rnd)
  | .hfma2 r _ _ _ => r.bad (.dst false) (.src false) (.src false) (.src false)
  | .faddImm _ d a _ => chk 3 (d.isReg && a.okCode)
  | .fmulImm _ d a _ => chk 3 (d.isReg && a.okCode)
  | .fminImm _ d a _ => chk 3 (d.isReg && a.okCode)
  | .fmaxImm _ d a _ => chk 3 (d.isReg && a.okCode)
  | .rcp r _ _ => r.bad (.dst false) (.src false) .zero .zero
  | .rsq r _ _ => r.bad (.dst false) (.src false) .zero .zero
  | .sqrt r _ _ => r.bad (.dst false) (.src false) .zero .zero
  | .exp2 r _ _ => r.bad (.dst false) (.src false) .zero .zero
  | .log2 r _ _ => r.bad (.dst false) (.src false) .zero .zero
  | .sinpi r _ _ => r.bad (.dst false) (.src false) .zero .zero
  | .cospi r _ _ => r.bad (.dst false) (.src false) .zero .zero
  | .tanh r _ _ => r.bad (.dst false) (.src false) .zero .zero
  | .cvt r rnd sat dty sty =>
      lowest (chk 2 (okCvtMod rnd sat dty sty)) (r.bad (.dst dty.is64) (.src sty.is64) .zero (idxUse rnd))
  | .shfl r _ w => r.bad (.dst w) (.src w) (.src false) .zero
  | .vote _ d _ mode _ =>
      chk 3 (if mode = .ballot then d.isReg else (match d with | .v n => n.toNat ≤ 6 | _ => false))
  | .lred r op w u rnd =>
      lowest (chk 2 (okLaneMod op u rnd)) (r.bad (.dst w) (.src w) .zero (if op = .fadd then idxUse rnd else .zero))
  | .lscan r op w u rnd _ =>
      lowest (chk 2 (okLaneMod op u rnd)) (r.bad (.dst w) (.src w) .zero (if op = .fadd then idxUse rnd else .zero))
  | .matchL r w => r.bad (.dst false) (.src w) .zero .zero
  | .pairedCoIssue _ _ => 0
  | .pairedPathSplit _ _ => 0
  | .bra _ _ _ => 0
  | .call _ link _ _ => chk 3 (link.isReg && link.evenIf true)
  | .loop _ cnt _ _ => chk 3 (cnt.toNat ≠ 0)
  | .brm _ _ _ _ _ => 0
  | .meet _ clr off idx => chk 2 (!clr || (off == 0 && idx == 0))
  | .spawn _ n _ => chk 7 (n.toNat ≤ 60)
  | .brx _ a => chk 3 (a.okTarget)
  | .callx _ link a => chk 3 (link.isReg && link.evenIf true && a.okTarget)
  | .ret _ a => chk 3 (a.okTarget)
  | .mend _ | .spflush _ | .exit _ | .yield _ | .waitf _ _ | .nop _ => 0
  | .rnld m _ idx _ => lowest (chk 2 (m.ty == .b128 && m.okOrd [.rlx, .acq])) (chk 3 (m.base.okBase && idx.okCode))
  | .bar _ _ | .bara _ _ | .barw _ _ | .cbar _ _ => 0
  | .srd _ d r => chk 3 (d.isReg && d.evenIf r.is64)
  | .swr _ a r => lowest (chk 3 (a.okCode && a.evenIf r.is64)) (chk 7 (r.writable))
  | .gts _ d => chk 3 (d.isReg && !d.isS0 && d.evenIf true)
  | .clk _ d => chk 3 (d.isReg && !d.isS0 && d.evenIf true)
  | .trap _ a _ => chk 3 (a.okCode && a.evenIf true)
  | .brkp _ _ => 0
  | .ld m d idx _ => lowest (chk 2 (m.okOrd [.rlx, .acq])) (chk 3 (m.base.okBase && idx.okCode && m.ty.okDst d))
  | .st m x _ => lowest (chk 2 (m.okOrd [.rlx, .rel])) (chk 3 (m.base.okBase && m.ty.okSrc x))
  | .ldc m d idx _ =>
      lowest (chk 2 (m.okOrd [.rlx] && m.sc == .blk && m.sp == .gen)) (chk 3 (m.base.okBase && idx.okCode && m.ty.okDst d))
  | .atom m op d x _ =>
      lowest (chk 2 (op.okTy m.ty false)) (chk 3 (m.base.okBase && (d.isS0 || (d.isV && m.ty.okDst d)) && m.ty.okSrc x))
  | .atoms m op d x _ =>
      lowest (chk 2 (op.simple && op.okTy m.ty false && m.sp != .reg)) (chk 3 ((m.base.isS || m.base.isInt) && m.ty.okDst d && m.ty.okSrc x))
  | .red m op x _ =>
      lowest (chk 2 (op.okTy m.ty true && m.okOrd [.rlx, .rel])) (chk 3 (m.base.okBase && m.ty.okSrc x))
  | .cas m d x _ =>
      lowest (chk 2 ([MType.b32, MType.b64, MType.b128].contains m.ty)) (chk 3 (m.base.okBase && m.ty.okDst d && m.ty.okSrc x))
  | .aflush _ => 0
  | .fence _ _ _ => 0
  | .pref _ _ base idx _ => chk 3 (base.okBase && idx.okCode)
  | .cwb _ all base idx off =>
      if all then chk 2 (base == .v 0 && idx == .v 0 && off == 0) else chk 3 (base.okBase && idx.okCode)
  | .cinv _ all base idx off =>
      if all then chk 2 (base == .v 0 && idx == .v 0 && off == 0) else chk 3 (base.okBase && idx.okCode)
  | .txbeg _ _ _ _ _ _ => 0
  | .txend _ => 0
  | .txabt _ _ => 0
  | .txst _ _ => 0
  | .qpush m s x _ =>
      lowest (chk 2 ([MType.b32, MType.b64, MType.b128].contains m.ty && m.okOrd [.rlx, .rel] && m.sp == .gen)) (chk 3 ((m.base.isS || m.base.isInt) && (s.isV || s.isS0) && m.ty.okSrc x))
  | .qpop m d s _ _ =>
      lowest (chk 2 ([MType.b32, MType.b64, MType.b128].contains m.ty && m.okOrd [.rlx, .acq] && m.sp == .gen)) (chk 3 ((m.base.isS || m.base.isInt) && (s.isV || s.isS0) && m.ty.okDst d))
  | .qcnt m d _ =>
      lowest (chk 2 ([MType.z8, MType.b32, MType.b64].contains m.ty && m.okOrd [.rlx, .acq] && m.sp == .gen)) (chk 3 ((m.base.isS || m.base.isInt) && d.isReg && d.evenIf (m.ty == .b64)))
  | .cpy e a => lowest (chk 2 (e.fs == 0)) (chk 3 (e.ok && okGroup a 3))
  | .cpyg e a b => lowest (chk 2 (e.fs == 0)) (chk 3 (e.ok && okGroup a 3 && b.toNat % 2 == 0))
  | .cpys e a b => lowest (chk 2 (e.fs == 0)) (chk 3 (e.ok && okGroup a 3 && b.toNat % 2 == 0))
  | .cpym e a _ _ => lowest (chk 2 (!e.rel)) (chk 3 (e.ok && okGroup a 3))
  | .omclm e a b _ _ =>
      lowest (chk 2 (e.noOrd && e.fs == 0)) (chk 3 (e.ok && (a.isS || a.isInt) && (b.isS || b.isInt)))
  | .omrel e a b => lowest (chk 2 (e.noOrd && e.fs == 0)) (chk 3 (e.ok && (a.isS || a.isInt) && (b.isS || b.isInt)))
  | .accz e _ => lowest (chk 2 (e.noOrd && e.fs == 0)) (chk 3 (e.ok))
  | .accld e a _ _ => lowest (chk 2 (!e.rel)) (chk 3 (e.ok && okGroup a 0))
  | .accst e a _ _ _ => chk 3 (e.ok && okGroup a 1)
  | .accmv e _ _ _ _ => lowest (chk 2 (e.noOrd)) (chk 3 (e.ok))
  | .mma e _ _ _ => lowest (chk 2 (e.noOrd && e.fs == 0)) (chk 3 (e.ok))
  | .mmb e _ _ _ => lowest (chk 2 (e.noOrd && e.fs == 0)) (chk 3 (e.ok))
  | .futw _ d a => chk 3 (d.isReg && !d.isS0 && a.okHandle)
  | .futt _ p a => chk 3 (okPred p && a.okHandle)
  | .futc _ a => chk 3 (a.okHandle)
  | .rstl _ i clr => chk 2 (!clr || i == 0)
  | .coll e a _ _ => chk 3 (e.ok && okGroup a 3)
  | .put e a _ => lowest (chk 2 (e.fs == 0)) (chk 3 (e.ok && okGroup a 2))
  | .get e a _ => lowest (chk 2 (e.fs == 0)) (chk 3 (e.ok && okGroup a 2))
  | .qnt e a _ _ _ => chk 3 (e.ok && okGroup a 2)
  | .dqnt e a _ _ _ => chk 3 (e.ok && okGroup a 2)
  | .amax _ _ a _ _ => chk 3 (!a.isSpecial)
  | .sring _ _ d _ => chk 3 (d.isReg && !d.isS0)
  | _ => 0

/-- The instruction has an encoding. -/
def Instr.wf (i : Instr) : Bool := i.illegal == 0

end Sys2Proof
end

