-- ==== Sys2Proof/Decode.lean ====
section
/-! DEFINITION. From bits to an instruction or a subcode (R232, R242, R243), base-die words (R332), and back. A word
that fails a check is rejected with the subcode of R242; the decoder is total. -/

namespace Sys2Proof

/-! ### Fields of a word -/

/-- Bits [lo+n-1:lo] of a word. -/
def fld (w : DWord) (lo n : Nat) : BitVec n := w.extractLsb' lo n

/-- Bit n of a word. -/
def bit (w : DWord) (n : Nat) : Bool := w.getLsbD n

/-- Bits [lo+n-1:lo] are zero: they are reserved otherwise (subcode 2). -/
def zeros (w : DWord) (lo n : Nat) : Bool := w.extractLsb' lo n == 0

/-- The operand that an 8-bit code names (R234). Codes 0xFD to 0xFF become `x 13` to `x 15`, which no field accepts. -/
def Opnd.ofCode (c : BitVec 8) : Opnd :=
  if c.getLsbD 7 = false then .v (c.extractLsb' 0 7)
  else if c.getLsbD 6 = false then .s (c.extractLsb' 0 6)
  else if c.getLsbD 5 = false then .i (c.extractLsb' 0 5)
  else if c.getLsbD 4 = false then .f (c.extractLsb' 0 4)
  else .x (c.extractLsb' 0 4)

/-- The code of an operand (R234). -/
def Opnd.code : Opnd → BitVec 8
  | .v n => 0#1 ++ n
  | .s n => 2#2 ++ n
  | .i n => 6#3 ++ n
  | .f n => 14#4 ++ n
  | .x n => 15#4 ++ n

def opD (w : DWord) : Opnd := .ofCode (fld w 44 8)
def opA (w : DWord) : Opnd := .ofCode (fld w 36 8)
def opB (w : DWord) : Opnd := .ofCode (fld w 28 8)
def opC (w : DWord) : Opnd := .ofCode (fld w 20 8)

/-- PRED and PINV (R232). -/
def guardOf (w : DWord) : Guard := ⟨fld w 53 3, bit w 52⟩

def r3Of (w : DWord) : R3 := ⟨guardOf w, opD w, opA w, opB w, opC w⟩

/-- Flag select 0 to 2; code 3 is reserved (R232). -/
def flagOf (c : BitVec 2) : FlagSel := if c = 1#2 then .a else if c = 2#2 then .b else .off

def FlagSel.code : FlagSel → BitVec 2
  | .off => 0 | .a => 1 | .b => 2

/-- Flag select of an R-layout word. -/
def flagR (w : DWord) : FlagSel := flagOf (fld w 12 2)

/-- A fixed R-layout word carries flag select 0 (R243). -/
def noFlag (w : DWord) : Nat := chk 2 (zeros w 12 2)

def okFlagR (w : DWord) : Nat := chk 2 (fld w 12 2 != 3#2)

/-- The D field holds a predicate number: D[7:3] = 0 (R234). -/
def okPredD (w : DWord) : Nat := chk 3 (zeros w 47 5)

def predD (w : DWord) : BitVec 3 := fld w 44 3

/-- Rounding codes (R203); 5 to 7 are reserved (R259). -/
def Rnd.ofCode (c : BitVec 3) : Rnd :=
  if c = 1#3 then .rtz else if c = 2#3 then .rdn else if c = 3#3 then .rup else if c = 4#3 then .sr else .rne

def Rnd.code : Rnd → BitVec 3
  | .rne => 0 | .rtz => 1 | .rdn => 2 | .rup => 3 | .sr => 4

def okRnd (c : BitVec 3) : Bool := c.toNat ≤ 4

def Order.ofCode (c : BitVec 2) : Order :=
  if c = 1#2 then .acq else if c = 2#2 then .rel else if c = 3#2 then .ar else .rlx

def Order.code : Order → BitVec 2
  | .rlx => 0 | .acq => 1 | .rel => 2 | .ar => 3

def FenceKind.ofCode (c : BitVec 2) : FenceKind :=
  if c = 1#2 then .acq else if c = 2#2 then .rel else if c = 3#2 then .ar else .sc

def FenceKind.code : FenceKind → BitVec 2
  | .sc => 0 | .acq => 1 | .rel => 2 | .ar => 3

/-- Scope codes; 6 and 7 are reserved (R95). -/
def Scope.ofCode (c : BitVec 3) : Scope :=
  if c = 1#3 then .clu else if c = 2#3 then .die else if c = 3#3 then .pkg else if c = 4#3 then .dom
  else if c = 5#3 then .sys else .blk

def Scope.code : Scope → BitVec 3
  | .blk => 0 | .clu => 1 | .die => 2 | .pkg => 3 | .dom => 4 | .sys => 5

def okScope (c : BitVec 3) : Bool := c.toNat ≤ 5

/-- Memory type codes; 15 is reserved (R237). -/
def MType.ofCode (c : BitVec 4) : MType :=
  match c.toNat with
  | 0 => .z8 | 1 => .s8 | 2 => .z16 | 3 => .s16 | 4 => .z32 | 5 => .s32 | 6 => .z64 | 7 => .s64
  | 8 => .b32 | 9 => .b64 | 10 => .b128 | 11 => .f16 | 12 => .bf16 | 13 => .f32 | _ => .f64

def MType.code : MType → BitVec 4
  | .z8 => 0 | .s8 => 1 | .z16 => 2 | .s16 => 3 | .z32 => 4 | .s32 => 5 | .z64 => 6 | .s64 => 7
  | .b32 => 8 | .b64 => 9 | .b128 => 10 | .f16 => 11 | .bf16 => 12 | .f32 => 13 | .f64 => 14

/-- Space codes; 5 to 7 are reserved (R237). -/
def Space.ofCode (c : BitVec 3) : Space :=
  if c = 1#3 then .scr else if c = 2#3 then .peer else if c = 3#3 then .reg else if c = 4#3 then .vault else .gen

def Space.code : Space → BitVec 3
  | .gen => 0 | .scr => 1 | .peer => 2 | .reg => 3 | .vault => 4

def ICond.ofCode (c : BitVec 3) : ICond :=
  if c = 1#3 then .ne else if c = 2#3 then .lt else if c = 3#3 then .le else if c = 4#3 then .gt
  else if c = 5#3 then .ge else .eq

def ICond.code : ICond → BitVec 3
  | .eq => 0 | .ne => 1 | .lt => 2 | .le => 3 | .gt => 4 | .ge => 5

def FCond.ofCode (c : BitVec 3) : FCond :=
  if c = 1#3 then .ne else if c = 2#3 then .lt else if c = 3#3 then .le else if c = 4#3 then .gt
  else if c = 5#3 then .ge else if c = 6#3 then .un else if c = 7#3 then .orr else .eq

def FCond.code : FCond → BitVec 3
  | .eq => 0 | .ne => 1 | .lt => 2 | .le => 3 | .gt => 4 | .ge => 5 | .un => 6 | .orr => 7

/-- CVT type codes; 14 and 15 are reserved (R277). -/
def CvtTy.ofCode (c : BitVec 4) : CvtTy :=
  match c.toNat with
  | 0 => .f32 | 1 => .bf16 | 2 => .f16 | 3 => .e4m3 | 4 => .e5m2 | 5 => .s32 | 6 => .z32 | 7 => .s64
  | 8 => .z64 | 9 => .s16 | 10 => .z16 | 11 => .z8 | 12 => .s8 | _ => .f64

def CvtTy.code : CvtTy → BitVec 4
  | .f32 => 0 | .bf16 => 1 | .f16 => 2 | .e4m3 => 3 | .e5m2 => 4 | .s32 => 5 | .z32 => 6 | .s64 => 7
  | .z64 => 8 | .s16 => 9 | .z16 => 10 | .z8 => 11 | .s8 => 12 | .f64 => 13

def okCvtTy (c : BitVec 4) : Bool := c.toNat ≤ 13

def ShflMode.ofCode (c : BitVec 4) : ShflMode :=
  if c = 1#4 then .up else if c = 2#4 then .down else if c = 3#4 then .xor else .idx

def ShflMode.code : ShflMode → BitVec 4
  | .idx => 0 | .up => 1 | .down => 2 | .xor => 3

def VoteMode.ofCode (c : BitVec 4) : VoteMode :=
  if c = 1#4 then .any else if c = 2#4 then .uni else if c = 3#4 then .ballot else .all

def VoteMode.code : VoteMode → BitVec 4
  | .all => 0 | .any => 1 | .uni => 2 | .ballot => 3

def LaneOp.ofCode (c : BitVec 4) : LaneOp :=
  match c.toNat with
  | 0 => .iadd | 1 => .imin | 2 => .imax | 3 => .and | 4 => .or | 5 => .xor | 6 => .fadd | 7 => .fmin | _ => .fmax

def LaneOp.code : LaneOp → BitVec 4
  | .iadd => 0 | .imin => 1 | .imax => 2 | .and => 3 | .or => 4 | .xor => 5 | .fadd => 6 | .fmin => 7 | .fmax => 8

/-- Atomic operation codes; 12 to 15 are reserved (R318). -/
def AOp.ofCode (c : BitVec 4) : AOp :=
  match c.toNat with
  | 0 => .add | 1 => .min | 2 => .max | 3 => .and | 4 => .or | 5 => .xor | 6 => .exch | 7 => .inc | 8 => .dec
  | 9 => .fadd | 10 => .fmin | _ => .fmax

def AOp.code : AOp → BitVec 4
  | .add => 0 | .min => 1 | .max => 2 | .and => 3 | .or => 4 | .xor => 5 | .exch => 6 | .inc => 7 | .dec => 8
  | .fadd => 9 | .fmin => 10 | .fmax => 11

def okAOp (c : BitVec 4) : Bool := c.toNat ≤ 11

def SpReg.ofCode (c : BitVec 4) : SpReg :=
  match c.toNat with
  | 0 => .lane | 1 => .coh | 2 => .blk | 3 => .crank | 4 => .clu | 5 => .die | 6 => .pkg | 7 => .orig
  | 8 => .vbase | 9 => .args | 10 => .nflags | 11 => .act | 12 => .path | 13 => .meet | 14 => .part | _ => .opp

def SpReg.code : SpReg → BitVec 4
  | .lane => 0 | .coh => 1 | .blk => 2 | .crank => 3 | .clu => 4 | .die => 5 | .pkg => 6 | .orig => 7
  | .vbase => 8 | .args => 9 | .nflags => 10 | .act => 11 | .path => 12 | .meet => 13 | .part => 14 | .opp => 15

def Bool.b1 (b : Bool) : BitVec 1 := if b then 1#1 else 0#1

/-! ### Layouts -/

/-- What a word parses to: the lowest failing subcode of the checks on fields the instruction does not hold, and
the instruction. -/
abbrev Parsed := Nat × Instr

/-- Subcode 1: no such opcode or function code (R243). -/
def reserved (w : DWord) : Parsed := (1, .nop (guardOf w))

def lowest3 (a b c : Nat) : Nat := lowest a (lowest b c)

def imodOf (w : DWord) : IMod := ⟨bit w 0, bit w 1, bit w 2⟩

/-- Opcode 0x00 (R263): W [0], U [1], SAT [2], COND [5:3], SH [9:6]; the rest is reserved. -/
def parse00 (w : DWord) : Parsed :=
  let k := lowest (noFlag w) (chk 2 (zeros w 3 9))
  match (fld w 14 6).toNat with
  | 0 => (k, .iadd (r3Of w) (imodOf w))
  | 1 => (k, .iadd3 (r3Of w) (imodOf w))
  | 2 => (k, .isub (r3Of w) (imodOf w))
  | 3 => (k, .ineg (r3Of w) (imodOf w))
  | 4 => (k, .iabs (r3Of w) (imodOf w))
  | 5 => (k, .imin (r3Of w) (imodOf w))
  | 6 => (k, .imax (r3Of w) (imodOf w))
  | 7 => (lowest (noFlag w) (chk 2 (!bit w 0 && !bit w 2 && zeros w 3 3 && zeros w 10 2)),
      .lea (r3Of w) (fld w 6 4) (bit w 1))
  | 8 => (lowest3 (noFlag w) (chk 2 (!bit w 2 && (fld w 3 3).toNat ≤ 5 && zeros w 6 6 && zeros w 20 8)) (okPredD w),
      .icmp (guardOf w) (predD w) (opA w) (opB w) (.ofCode (fld w 3 3)) (bit w 0) (bit w 1))
  | _ => reserved w

/-- Opcode 0x01 (R263, R265). -/
def parse01 (w : DWord) : Parsed :=
  let k := lowest (noFlag w) (chk 2 (zeros w 3 9))
  let kd := lowest (okFlagR w) (chk 2 (!bit w 2 && zeros w 4 8))
  match (fld w 14 6).toNat with
  | 0 => (k, .imul (r3Of w) (imodOf w))
  | 1 => (k, .imulh (r3Of w) (imodOf w))
  | 2 => (k, .imad (r3Of w) (imodOf w))
  | 3 => (k, .imadw (r3Of w) (imodOf w))
  | 4 => (kd, .idiv (r3Of w) (flagR w) (bit w 0) (bit w 1) (bit w 3))
  | 5 => (kd, .irem (r3Of w) (flagR w) (bit w 0) (bit w 1) (bit w 3))
  | _ => reserved w

/-- Opcode 0x02 (R267): W [0]. -/
def parse02 (w : DWord) : Parsed :=
  let k := lowest (noFlag w) (chk 2 (zeros w 1 11))
  match (fld w 14 6).toNat with
  | 0 => (k, .and (r3Of w) (bit w 0))
  | 1 => (k, .or (r3Of w) (bit w 0))
  | 2 => (k, .xor (r3Of w) (bit w 0))
  | 3 => (k, .andn (r3Of w) (bit w 0))
  | 4 => (k, .orn (r3Of w) (bit w 0))
  | 5 => (k, .not (r3Of w) (bit w 0))
  | _ => reserved w

/-- Opcode 0x03 (R268): W [0], U [1] for BFX; PERM has W = 0. -/
def parse03 (w : DWord) : Parsed :=
  let k := lowest (noFlag w) (chk 2 (zeros w 1 11))
  match (fld w 14 6).toNat with
  | 0 => (k, .shl (r3Of w) (bit w 0))
  | 1 => (k, .shr (r3Of w) (bit w 0))
  | 2 => (k, .sar (r3Of w) (bit w 0))
  | 3 => (k, .rot (r3Of w) (bit w 0))
  | 4 => (k, .funl (r3Of w) (bit w 0))
  | 5 => (lowest (noFlag w) (chk 2 (zeros w 2 10)), .bfx (r3Of w) (bit w 0) (bit w 1))
  | 6 => (k, .bfi (r3Of w) (bit w 0))
  | 7 => (k, .popc (r3Of w) (bit w 0))
  | 8 => (k, .clz (r3Of w) (bit w 0))
  | 9 => (k, .ctz (r3Of w) (bit w 0))
  | 10 => (k, .brev (r3Of w) (bit w 0))
  | 11 => (lowest (noFlag w) (chk 2 (zeros w 0 12)), .perm (r3Of w))
  | _ => reserved w

/-- Opcode 0x04 (R269). -/
def parse04 (w : DWord) : Parsed :=
  match (fld w 14 6).toNat with
  | 0 => (lowest (noFlag w) (chk 2 (zeros w 1 11)), .mov (r3Of w) (bit w 0))
  | 1 => (lowest (noFlag w) (chk 2 (!bit w 1 && zeros w 6 6)), .sel (r3Of w) (bit w 0) (fld w 2 3) (bit w 5))
  | 2 => (lowest3 (noFlag w) (chk 2 (zeros w 8 4 && zeros w 39 5 && zeros w 31 5 && zeros w 23 5)) (okPredD w),
      .plog (guardOf w) (predD w) (fld w 36 3) (fld w 28 3) (fld w 20 3) (fld w 0 8))
  | _ => reserved w

/-- Opcodes 0x05 and 0x06 (R270): A = 0x00, form in [35:32]. -/
def parse05 (w : DWord) : Parsed :=
  (chk 2 (zeros w 36 8 && zeros w 33 3), .movi (guardOf w) (opD w) (bit w 32) (fld w 0 32))

def parse06 (w : DWord) : Parsed :=
  (chk 2 (zeros w 36 8 && zeros w 33 3), .movw (guardOf w) (opD w) (bit w 32) (fld w 0 32))

/-- Opcode 0x07 (R266). -/
def parse07 (w : DWord) : Parsed :=
  match (fld w 32 4).toNat with
  | 0 => (0, .iaddImm (guardOf w) (opD w) (opA w) (fld w 0 32))
  | 1 => (0, .imulImm (guardOf w) (opD w) (opA w) (fld w 0 32))
  | 2 => (0, .andImm (guardOf w) (opD w) (opA w) (fld w 0 32))
  | 3 => (0, .orImm (guardOf w) (opD w) (opA w) (fld w 0 32))
  | 4 => (0, .xorImm (guardOf w) (opD w) (opA w) (fld w 0 32))
  | _ => reserved w

def fmodOf (w : DWord) : FMod := ⟨.ofCode (fld w 0 3), bit w 3, bit w 4, bit w 5⟩

/-- Opcode 0x10 (R271): RND [2:0], FTZ [3], F64 [4], SAT [5], NA [6], NC [7]. -/
def parse10 (w : DWord) : Parsed :=
  let k := lowest (noFlag w) (chk 2 (okRnd (fld w 0 3) && zeros w 6 6))
  let km := lowest (noFlag w) (chk 2 (zeros w 0 3 && zeros w 5 7))
  match (fld w 14 6).toNat with
  | 0 => (k, .fadd (r3Of w) (fmodOf w))
  | 1 => (k, .fsub (r3Of w) (fmodOf w))
  | 2 => (k, .fmul (r3Of w) (fmodOf w))
  | 3 => (lowest (noFlag w) (chk 2 (okRnd (fld w 0 3) && zeros w 8 4)),
      .ffma (r3Of w) (fmodOf w) (bit w 6) (bit w 7))
  | 4 => (km, .fmin (r3Of w) (bit w 3) (bit w 4))
  | 5 => (km, .fmax (r3Of w) (bit w 3) (bit w 4))
  | 6 => (k, .fscale (r3Of w) (fmodOf w))
  | _ => reserved w

/-- Opcode 0x11 (R271, R274). -/
def parse11 (w : DWord) : Parsed :=
  match (fld w 14 6).toNat with
  | 0 => (lowest3 (noFlag w) (chk 2 (zeros w 5 7 && zeros w 20 8)) (okPredD w),
      .fcmp (guardOf w) (predD w) (opA w) (opB w) (.ofCode (fld w 0 3)) (bit w 3) (bit w 4))
  | 1 => (lowest (noFlag w) (chk 2 (zeros w 0 4 && zeros w 5 7)), .fclass (r3Of w) (bit w 4))
  | 2 => (lowest (noFlag w) (chk 2 (okRnd (fld w 0 3) && zeros w 5 7)),
      .frint (r3Of w) (.ofCode (fld w 0 3)) (bit w 3) (bit w 4))
  | _ => reserved w

/-- Opcode 0x12 (R276): RND [2:0], FTZ [3], SAT [4]. -/
def parse12 (w : DWord) : Parsed :=
  let k := lowest (noFlag w) (chk 2 (okRnd (fld w 0 3) && zeros w 5 7))
  match (fld w 14 6).toNat with
  | 0 => (k, .hadd2 (r3Of w) (.ofCode (fld w 0 3)) (bit w 3) (bit w 4))
  | 1 => (k, .hmul2 (r3Of w) (.ofCode (fld w 0 3)) (bit w 3) (bit w 4))
  | 2 => (k, .hfma2 (r3Of w) (.ofCode (fld w 0 3)) (bit w 3) (bit w 4))
  | _ => reserved w

/-- Opcode 0x13 (R275). -/
def parse13 (w : DWord) : Parsed :=
  match (fld w 32 4).toNat with
  | 0 => (0, .faddImm (guardOf w) (opD w) (opA w) (fld w 0 32))
  | 1 => (0, .fmulImm (guardOf w) (opD w) (opA w) (fld w 0 32))
  | 2 => (0, .fminImm (guardOf w) (opD w) (opA w) (fld w 0 32))
  | 3 => (0, .fmaxImm (guardOf w) (opD w) (opA w) (fld w 0 32))
  | _ => reserved w

/-- Opcode 0x20 (R279): FTZ [0]. -/
def parse20 (w : DWord) : Parsed :=
  let k := lowest (okFlagR w) (chk 2 (zeros w 1 11))
  match (fld w 14 6).toNat with
  | 0 => (k, .rcp (r3Of w) (flagR w) (bit w 0))
  | 1 => (k, .rsq (r3Of w) (flagR w) (bit w 0))
  | 2 => (k, .sqrt (r3Of w) (flagR w) (bit w 0))
  | 3 => (k, .exp2 (r3Of w) (flagR w) (bit w 0))
  | 4 => (k, .log2 (r3Of w) (flagR w) (bit w 0))
  | 5 => (k, .sinpi (r3Of w) (flagR w) (bit w 0))
  | 6 => (k, .cospi (r3Of w) (flagR w) (bit w 0))
  | 7 => (k, .tanh (r3Of w) (flagR w) (bit w 0))
  | _ => reserved w

/-- Opcode 0x21 (R277): RND [2:0], SAT [3], DT [7:4], ST [11:8]. -/
def parse21 (w : DWord) : Parsed :=
  match (fld w 14 6).toNat with
  | 0 => (lowest (noFlag w) (chk 2 (okRnd (fld w 0 3) && okCvtTy (fld w 4 4) && okCvtTy (fld w 8 4))),
      .cvt (r3Of w) (.ofCode (fld w 0 3)) (bit w 3) (.ofCode (fld w 4 4)) (.ofCode (fld w 8 4)))
  | _ => reserved w

/-- Opcode 0x28 (R280): MODE [3:0], U [4], W [5], RND [8:6], EXCL [9], PN [10]. A MODE that the function does not list
is subcode 1. -/
def parse28 (w : DWord) : Parsed :=
  let mode := fld w 0 4
  match (fld w 14 6).toNat with
  | 0 => (lowest3 (noFlag w) (chk 1 (mode.toNat ≤ 3)) (chk 2 (!bit w 4 && zeros w 6 6)),
      .shfl (r3Of w) (.ofCode mode) (bit w 5))
  | 1 => (lowest3 (noFlag w) (chk 1 (mode.toNat ≤ 3))
        (chk 2 (zeros w 4 6 && !bit w 11 && zeros w 39 5 && zeros w 20 16)),
      .vote (guardOf w) (opD w) (fld w 36 3) (.ofCode mode) (bit w 10))
  | 2 => (lowest3 (noFlag w) (chk 1 (mode.toNat ≤ 8)) (chk 2 (okRnd (fld w 6 3) && zeros w 9 3)),
      .lred (r3Of w) (.ofCode mode) (bit w 5) (bit w 4) (.ofCode (fld w 6 3)))
  | 3 => (lowest3 (noFlag w) (chk 1 (mode.toNat ≤ 8)) (chk 2 (okRnd (fld w 6 3) && zeros w 10 2)),
      .lscan (r3Of w) (.ofCode mode) (bit w 5) (bit w 4) (.ofCode (fld w 6 3)) (bit w 9))
  | 4 => (lowest3 (noFlag w) (chk 1 (mode.toNat ≤ 0)) (chk 2 (!bit w 4 && zeros w 6 6)), .matchL (r3Of w) (bit w 5))
  | _ => reserved w

/-- B layout (R232, R287): bit 0 and D are reserved. -/
def zeroB (w : DWord) : Bool := !bit w 0 && zeros w 44 8

def sOf (c : BitVec 8) : BitVec 6 := c.extractLsb' 0 6

/-- The field names an s-register. -/
def isSCode (c : BitVec 8) : Bool := c.extractLsb' 6 2 == 2#2

/-- Opcodes 0x30 to 0x35 (R287). -/
def parse30 (w : DWord) : Parsed :=
  (chk 2 (zeroB w && zeros w 36 8), .bra (guardOf w) (fld w 4 32) (fld w 1 3))

def parse31 (w : DWord) : Parsed :=
  (chk 2 (!bit w 0 && zeros w 36 8), .call (guardOf w) (opD w) (fld w 4 32) (fld w 1 3))

def parse32 (w : DWord) : Parsed :=
  (lowest (chk 2 (!bit w 0 && zeros w 36 8)) (chk 3 (isSCode (fld w 44 8))),
    .loop (guardOf w) (sOf (fld w 44 8)) (fld w 4 32) (fld w 1 3))

def parse33 (w : DWord) : Parsed :=
  (lowest (chk 2 (zeroB w)) (chk 7 (zeros w 40 4)), .brm (guardOf w) (fld w 36 3) (bit w 39) (fld w 4 32) (fld w 1 3))

def parse34 (w : DWord) : Parsed :=
  (lowest (chk 2 (zeroB w)) (chk 7 (zeros w 37 7)), .meet (guardOf w) (bit w 36) (fld w 4 32) (fld w 1 3))

def parse35 (w : DWord) : Parsed :=
  (lowest (chk 2 (zeroB w)) (chk 7 (zeros w 1 3)), .spawn (guardOf w) (fld w 36 8) (fld w 4 32))

/-- B, C and the modifier are zero. -/
def zeroBCM (w : DWord) : Bool := zeros w 20 16 && zeros w 0 12

/-- Opcode 0x36 (R287). -/
def parse36 (w : DWord) : Parsed :=
  match (fld w 14 6).toNat with
  | 0 => (lowest (noFlag w) (chk 2 (zeros w 44 8 && zeroBCM w)), .brx (guardOf w) (opA w))
  | 1 => (lowest (noFlag w) (chk 2 (zeroBCM w)), .callx (guardOf w) (opD w) (opA w))
  | 2 => (lowest (noFlag w) (chk 2 (zeros w 44 8 && zeroBCM w)), .ret (guardOf w) (opA w))
  | _ => reserved w

/-- D, A, B and C are zero. -/
def zeroDABC (w : DWord) : Bool := zeros w 20 32

/-- Opcode 0x37 (R287). -/
def parse37 (w : DWord) : Parsed :=
  let k := lowest (noFlag w) (chk 2 (zeroDABC w && zeros w 0 12))
  match (fld w 14 6).toNat with
  | 0 => (k, .mend (guardOf w))
  | 1 => (k, .spflush (guardOf w))
  | 2 => (k, .exit (guardOf w))
  | 3 => (k, .yield (guardOf w))
  | 4 => (lowest (noFlag w) (chk 2 (zeroDABC w)), .waitf (guardOf w) (fld w 0 12))
  | 5 => (k, .nop (guardOf w))
  | _ => reserved w

/-- The reserved codes of the M layout's type, scope, flag select and space (R95, R232, R237). -/
def okM (w : DWord) : Nat :=
  chk 2 (fld w 24 4 != 15#4 && okScope (fld w 19 3) && fld w 17 2 != 3#2 && (fld w 14 3).toNat ≤ 4)

def margsOf (w : DWord) : MArgs :=
  ⟨guardOf w, opA w, .ofCode (fld w 24 4), .ofCode (fld w 22 2), .ofCode (fld w 19 3), flagOf (fld w 17 2),
    .ofCode (fld w 14 3)⟩

/-- Opcode 0x38 (R287, R296): D holds the raw path number. -/
def parse38 (w : DWord) : Parsed :=
  (lowest (okM w) (chk 7 (zeros w 45 7)), .rnld (margsOf w) (bit w 44) (opB w) (fld w 0 14))

/-- Opcode 0x39 (R287). -/
def parse39 (w : DWord) : Parsed :=
  let k := lowest (noFlag w) (chk 2 (zeroDABC w && zeros w 4 8))
  match (fld w 14 6).toNat with
  | 0 => (k, .bar (guardOf w) (fld w 0 4))
  | 1 => (k, .bara (guardOf w) (fld w 0 4))
  | 2 => (k, .barw (guardOf w) (fld w 0 4))
  | 3 => (lowest (noFlag w) (chk 2 (zeroDABC w && zeros w 2 10)), .cbar (guardOf w) (fld w 0 2))
  | _ => reserved w

/-- Opcode 0x70 (R287, R307): numbers above 0x0F are reserved. -/
def parse70 (w : DWord) : Parsed :=
  match (fld w 14 6).toNat with
  | 0 => (lowest (noFlag w) (chk 2 (zeros w 20 24 && zeros w 4 8)), .srd (guardOf w) (opD w) (.ofCode (fld w 0 4)))
  | 1 => (lowest (noFlag w) (chk 2 (zeros w 44 8 && zeros w 20 16 && zeros w 4 8)),
      .swr (guardOf w) (opA w) (.ofCode (fld w 0 4)))
  | 2 => (lowest (noFlag w) (chk 2 (zeros w 20 24 && zeros w 0 12)), .gts (guardOf w) (opD w))
  | 3 => (lowest (noFlag w) (chk 2 (zeros w 20 24 && zeros w 0 12)), .clk (guardOf w) (opD w))
  | _ => reserved w

/-- Opcode 0x71 (R287). -/
def parse71 (w : DWord) : Parsed :=
  match (fld w 14 6).toNat with
  | 0 => (lowest (noFlag w) (chk 2 (zeros w 44 8 && zeros w 20 16 && zeros w 8 4)), .trap (guardOf w) (opA w) (fld w 0 8))
  | 1 => (lowest (noFlag w) (chk 2 (zeroDABC w && zeros w 8 4)), .brkp (guardOf w) (fld w 0 8))
  | _ => reserved w

/-- Opcodes 0x40 to 0x46 (R311). -/
def parse40 (w : DWord) : Parsed := (okM w, .ld (margsOf w) (opD w) (opB w) (fld w 0 14))

def parse41 (w : DWord) : Parsed := (lowest (okM w) (chk 2 (zeros w 44 8)), .st (margsOf w) (opB w) (fld w 0 14))

def parse42 (w : DWord) : Parsed := (okM w, .ldc (margsOf w) (opD w) (opB w) (fld w 0 14))

def parse43 (w : DWord) : Parsed :=
  (lowest (chk 1 (okAOp (fld w 10 4))) (okM w), .atom (margsOf w) (.ofCode (fld w 10 4)) (opD w) (opB w) (fld w 0 10))

def parse44 (w : DWord) : Parsed :=
  (lowest (chk 1 (okAOp (fld w 10 4))) (okM w), .atoms (margsOf w) (.ofCode (fld w 10 4)) (opD w) (opB w) (fld w 0 10))

def parse45 (w : DWord) : Parsed :=
  (lowest3 (chk 1 (okAOp (fld w 10 4))) (okM w) (chk 2 (zeros w 44 8)),
    .red (margsOf w) (.ofCode (fld w 10 4)) (opB w) (fld w 0 10))

def parse46 (w : DWord) : Parsed := (okM w, .cas (margsOf w) (opD w) (opB w) (fld w 0 14))

/-- Opcode 0x47, AFLUSH: every other field zero (R327). -/
def parse47 (w : DWord) : Parsed :=
  match (fld w 14 6).toNat with
  | 0 => (lowest (noFlag w) (chk 2 (zeroDABC w && zeros w 0 12)), .aflush (guardOf w))
  | _ => reserved w

/-- Opcode 0x48, FENCE: the kind stands in the order field (R324). -/
def parse48 (w : DWord) : Parsed :=
  (chk 2 (okScope (fld w 19 3) && zeros w 24 28 && zeros w 0 19), .fence (guardOf w) (.ofCode (fld w 22 2)) (.ofCode (fld w 19 3)))

/-- What PREF, CWB and CINV hold at zero: D, order, scope, flag select, space; the type is 0 or 1 (R311). -/
def okCtl (w : DWord) : Nat := chk 2 (zeros w 44 8 && zeros w 25 3 && zeros w 14 10)

def parse49 (w : DWord) : Parsed := (okCtl w, .pref (guardOf w) (bit w 24) (opA w) (opB w) (fld w 0 14))
def parse4A (w : DWord) : Parsed := (okCtl w, .cwb (guardOf w) (bit w 24) (opA w) (opB w) (fld w 0 14))
def parse4B (w : DWord) : Parsed := (okCtl w, .cinv (guardOf w) (bit w 24) (opA w) (opB w) (fld w 0 14))

/-- The field names a v-register. -/
def isVCode (c : BitVec 8) : Bool := !c.getLsbD 7

/-- Opcode 0x4C, TXBEG (R328): D a v-register, A a raw class. -/
def parse4C (w : DWord) : Parsed :=
  (chk 3 (isVCode (fld w 44 8)),
    .txbeg (guardOf w) (fld w 44 7) (fld w 36 8) (fld w 32 4) (fld w 3 29) (fld w 0 3))

/-- Opcode 0x4D (R328). -/
def parse4D (w : DWord) : Parsed :=
  match (fld w 14 6).toNat with
  | 0 => (lowest (noFlag w) (chk 2 (zeroDABC w && zeros w 0 12)), .txend (guardOf w))
  | 1 => (lowest (noFlag w) (chk 2 (zeroDABC w && zeros w 8 4)), .txabt (guardOf w) (fld w 0 8))
  | 2 => (lowest3 (noFlag w) (chk 2 (zeros w 20 24 && zeros w 0 12)) (chk 3 (isVCode (fld w 44 8))),
      .txst (guardOf w) (fld w 44 7))
  | _ => reserved w

/-- Opcodes 0x4E to 0x50 (R311). -/
def parse4E (w : DWord) : Parsed :=
  (lowest (okM w) (chk 2 (zeros w 8 6)), .qpush (margsOf w) (opD w) (opB w) (fld w 0 8))

def parse4F (w : DWord) : Parsed :=
  (lowest (okM w) (chk 2 (zeros w 10 4 && !bit w 8)), .qpop (margsOf w) (opD w) (opB w) (bit w 9) (fld w 0 8))

def parse50 (w : DWord) : Parsed :=
  (lowest (okM w) (chk 2 (zeros w 28 8 && zeros w 8 6)), .qcnt (margsOf w) (opD w) (fld w 0 8))

/-- The checks of every E-layout command: the scope is 0 to 5, also without acquire and release (R95), and D is an
s-register (R234). -/
def okE (w : DWord) : Nat := lowest (chk 2 (okScope (fld w 6 3))) (chk 3 (isSCode (fld w 44 8)))

def eargsOf (w : DWord) : EArgs :=
  ⟨guardOf w, sOf (fld w 44 8), bit w 10, bit w 9, .ofCode (fld w 6 3), fld w 11 3⟩

def eA (w : DWord) : BitVec 6 := sOf (fld w 36 8)
def eB (w : DWord) : BitVec 6 := sOf (fld w 28 8)
def eC (w : DWord) : BitVec 6 := sOf (fld w 20 8)
def sA (w : DWord) : Nat := chk 3 (isSCode (fld w 36 8))
def sB (w : DWord) : Nat := chk 3 (isSCode (fld w 28 8))
def sC (w : DWord) : Nat := chk 3 (isSCode (fld w 20 8))

/-- Opcode 0x60 (R344). -/
def parse60 (w : DWord) : Parsed :=
  match (fld w 14 6).toNat with
  | 0 => (lowest3 (okE w) (chk 2 (zeros w 20 16 && zeros w 0 6)) (sA w), .cpy (eargsOf w) (eA w))
  | 1 => (lowest3 (okE w) (chk 2 (zeros w 20 8 && zeros w 0 6)) (lowest (sA w) (chk 3 (isVCode (fld w 28 8)))),
      .cpyg (eargsOf w) (eA w) (fld w 28 7))
  | 2 => (lowest3 (okE w) (chk 2 (zeros w 20 8 && zeros w 0 6)) (lowest (sA w) (chk 3 (isVCode (fld w 28 8)))),
      .cpys (eargsOf w) (eA w) (fld w 28 7))
  | 3 => (lowest3 (okE w) (chk 2 (zeros w 28 8 && !bit w 5)) (lowest (sA w) (sC w)),
      .cpym (eargsOf w) (eA w) (eC w) (fld w 0 5))
  | _ => reserved w

/-- Opcode 0x61 (R344). -/
def parse61 (w : DWord) : Parsed :=
  match (fld w 14 6).toNat with
  | 0 => (lowest (okE w) (chk 2 (zeros w 20 8 && zeros w 3 3)), .omclm (eargsOf w) (opA w) (opB w) (bit w 0) (fld w 1 2))
  | 1 => (lowest (okE w) (chk 2 (zeros w 20 8 && zeros w 0 6)), .omrel (eargsOf w) (opA w) (opB w))
  | 2 => (lowest (okE w) (chk 2 (zeros w 20 24 && zeros w 3 3)), .accz (eargsOf w) (fld w 0 3))
  | 3 => (lowest3 (okE w) (chk 2 (zeros w 20 8 && zeros w 3 3)) (lowest (sA w) (sB w)),
      .accld (eargsOf w) (eA w) (eB w) (fld w 0 3))
  | 4 => (lowest3 (okE w) (chk 2 (zeros w 3 3)) (lowest3 (sA w) (sB w) (sC w)),
      .accst (eargsOf w) (eA w) (eB w) (eC w) (fld w 0 3))
  | 5 => (lowest3 (okE w) (chk 2 (zeros w 41 3 && zeros w 28 8 && zeros w 4 2)) (sC w),
      .accmv (eargsOf w) (fld w 36 5) (eC w) (fld w 0 3) (bit w 3))
  | _ => reserved w

/-- Opcode 0x62 (R344). -/
def parse62 (w : DWord) : Parsed :=
  let k := lowest (okE w) (chk 2 (zeros w 41 3 && zeros w 33 3 && zeros w 23 5 && zeros w 0 6))
  match (fld w 14 6).toNat with
  | 0 => (k, .mma (eargsOf w) (fld w 36 5) (fld w 28 5) (fld w 20 3))
  | 1 => (k, .mmb (eargsOf w) (fld w 36 5) (fld w 28 5) (fld w 20 3))
  | _ => reserved w

/-- Opcode 0x63 (R344). -/
def parse63 (w : DWord) : Parsed :=
  match (fld w 14 6).toNat with
  | 0 => (lowest (noFlag w) (chk 2 (zeroBCM w)), .futw (guardOf w) (opD w) (opA w))
  | 1 => (lowest3 (noFlag w) (chk 2 (zeroBCM w)) (okPredD w), .futt (guardOf w) (predD w) (opA w))
  | 2 => (lowest (noFlag w) (chk 2 (zeros w 44 8 && zeroBCM w)), .futc (guardOf w) (opA w))
  | 3 => (lowest (noFlag w) (chk 2 (zeroDABC w && zeros w 7 5)), .rstl (guardOf w) (fld w 0 6) (bit w 6))
  | _ => reserved w

/-- Opcode 0x64 (R344). -/
def parse64 (w : DWord) : Parsed :=
  let ks := lowest (sA w) (sB w)
  match (fld w 14 6).toNat with
  | 0 => (lowest3 (okE w) (chk 2 (zeros w 20 8 && zeros w 2 4)) ks, .coll (eargsOf w) (eA w) (eB w) (fld w 0 2))
  | 1 => (lowest3 (okE w) (chk 2 (zeros w 20 8 && zeros w 0 6)) ks, .put (eargsOf w) (eA w) (eB w))
  | 2 => (lowest3 (okE w) (chk 2 (zeros w 20 8 && zeros w 0 6)) ks, .get (eargsOf w) (eA w) (eB w))
  | _ => reserved w

/-- Opcode 0x65 (R344). -/
def parse65 (w : DWord) : Parsed :=
  let k := lowest3 (okE w) (chk 2 (zeros w 4 2)) (lowest3 (sA w) (sB w) (sC w))
  match (fld w 14 6).toNat with
  | 0 => (k, .qnt (eargsOf w) (eA w) (eB w) (eC w) (fld w 0 4))
  | 1 => (k, .dqnt (eargsOf w) (eA w) (eB w) (eC w) (fld w 0 4))
  | _ => reserved w

/-- Opcode 0x66 (R344). -/
def parse66 (w : DWord) : Parsed :=
  match (fld w 14 6).toNat with
  | 0 => (lowest (okFlagR w) (chk 2 (zeros w 44 8 && zeros w 20 16 && zeros w 7 5)),
      .amax (guardOf w) (flagR w) (opA w) (fld w 0 6) (bit w 6))
  | 1 => (lowest (okFlagR w) (chk 2 (zeros w 20 24 && zeros w 6 6)), .sring (guardOf w) (flagR w) (opD w) (fld w 0 6))
  | _ => reserved w

/-- A full word by its major opcode (R243). -/
def parseFull (w : DWord) : Parsed :=
  match (fld w 56 7).toNat with
  | 0x00 => parse00 w | 0x01 => parse01 w | 0x02 => parse02 w | 0x03 => parse03 w | 0x04 => parse04 w
  | 0x05 => parse05 w | 0x06 => parse06 w | 0x07 => parse07 w
  | 0x10 => parse10 w | 0x11 => parse11 w | 0x12 => parse12 w | 0x13 => parse13 w
  | 0x20 => parse20 w | 0x21 => parse21 w | 0x28 => parse28 w
  | 0x30 => parse30 w | 0x31 => parse31 w | 0x32 => parse32 w | 0x33 => parse33 w | 0x34 => parse34 w
  | 0x35 => parse35 w | 0x36 => parse36 w | 0x37 => parse37 w | 0x38 => parse38 w | 0x39 => parse39 w
  | 0x40 => parse40 w | 0x41 => parse41 w | 0x42 => parse42 w | 0x43 => parse43 w | 0x44 => parse44 w
  | 0x45 => parse45 w | 0x46 => parse46 w | 0x47 => parse47 w | 0x48 => parse48 w | 0x49 => parse49 w
  | 0x4A => parse4A w | 0x4B => parse4B w | 0x4C => parse4C w | 0x4D => parse4D w | 0x4E => parse4E w
  | 0x4F => parse4F w | 0x50 => parse50 w
  | 0x60 => parse60 w | 0x61 => parse61 w | 0x62 => parse62 w | 0x63 => parse63 w | 0x64 => parse64 w
  | 0x65 => parse65 w | 0x66 => parse66 w
  | 0x70 => parse70 w | 0x71 => parse71 w
  | _ => reserved w

def halfOf (h : BitVec 31) : Half :=
  ⟨h.extractLsb' 25 6, h.extractLsb' 22 3, h.extractLsb' 15 7, h.extractLsb' 7 8, h.extractLsb' 0 7⟩

/-- An Izusk word (R232, R239): its instruction, or the subcode of R242. The halves of a paired word are checked when
it issues, each only where it has an active lane (R242). -/
def decodeWord (w : DWord) : Except Nat Instr :=
  if bit w 63 then
    let h0 := halfOf (fld w 31 31)
    let h1 := halfOf (fld w 0 31)
    .ok (if bit w 62 then .pairedPathSplit h0 h1 else .pairedCoIssue h0 h1)
  else
    let p := parseFull w
    let k := lowest p.1 p.2.illegal
    if k = 0 then .ok p.2 else .error k

/-! ### Base-die words -/

/-- The five words of custom-0 (R332): every field that the table gives as x0 or 0 must be zero. -/
def decodeKx (w : Word) : Option Instr :=
  let rd := w.extractLsb' 7 5
  let f3 := w.extractLsb' 12 3
  let rs1 := w.extractLsb' 15 5
  let rs2 := w.extractLsb' 20 5
  let f7 := w.extractLsb' 25 7
  if w.extractLsb' 0 7 ≠ 0x0B#7 then none
  else if f3 = 0#3 then (if f7 = 0#7 ∧ rs2 = 0#5 then some (.kxBegin rd rs1) else none)
  else if f3 = 1#3 then (if f7 = 0#7 ∧ rs2 = 0#5 ∧ rs1 = 0#5 ∧ rd = 0#5 then some .kxEnd else none)
  else if f3 = 2#3 then
    (if w.extractLsb' 28 4 = 0#4 ∧ rs1 = 0#5 ∧ rd = 0#5 then some (.kxAbort (w.extractLsb' 20 8)) else none)
  else if f3 = 3#3 then (if f7 = 0#7 ∧ rs2 = 0#5 ∧ rs1 = 0#5 then some (.kxStat rd) else none)
  else if f3 = 4#3 then (if f7 = 0#7 ∧ rs2 = 0#5 ∧ rd = 0#5 then some (.kxLock rs1) else none)
  else none

/-- The loads, stores, atomics and fences of the base-die cores, in the encodings of RV64IA (PRESUMED: the manual
refers to the RISC-V documents for them; notes/assumptions/11.md). -/
def decodeRvMem (w : Word) : Option RvMem :=
  let rd := w.extractLsb' 7 5
  let f3 := w.extractLsb' 12 3
  let rs1 := w.extractLsb' 15 5
  let rs2 := w.extractLsb' 20 5
  let aq := w.getLsbD 26
  let rl := w.getLsbD 25
  let dbl := f3 = 3#3
  let op := w.extractLsb' 0 7
  if op = 0x03#7 then
    (if f3 = 7#3 then none else some (.load rd rs1 (w.extractLsb' 20 12) (w.extractLsb' 12 2) (w.getLsbD 14)))
  else if op = 0x23#7 then
    (if w.getLsbD 14 then none
     else some (.store rs2 rs1 (w.extractLsb' 25 7 ++ w.extractLsb' 7 5) (w.extractLsb' 12 2)))
  -- half, single and double; the codes below and above belong to vectors and quads
  else if op = 0x07#7 then
    (if f3 = 1#3 ∨ f3 = 2#3 ∨ f3 = 3#3 then some (.fload rd rs1 (w.extractLsb' 20 12) (w.extractLsb' 12 2)) else none)
  else if op = 0x27#7 then
    (if f3 = 1#3 ∨ f3 = 2#3 ∨ f3 = 3#3 then some (.fstore rs2 rs1 (w.extractLsb' 25 7 ++ w.extractLsb' 7 5) (w.extractLsb' 12 2))
     else none)
  else if op = 0x2F#7 then
    (if f3 = 2#3 ∨ f3 = 3#3 then
      match (w.extractLsb' 27 5).toNat with
      | 2 => if rs2 = 0#5 then some (.lr rd rs1 dbl aq rl) else none
      | 3 => some (.sc rd rs1 rs2 dbl aq rl)
      | 0 | 1 | 4 | 8 | 12 | 16 | 20 | 24 | 28 => some (.amo (w.extractLsb' 27 5) rd rs1 rs2 dbl aq rl)
      | _ => none
    else none)
  else if op = 0x0F#7 then
    (if f3 = 0#3 then
      (if w.extractLsb' 28 4 = 8#4 ∧ w.extractLsb' 20 8 = 0x33#8 then some .fenceTso
       else some (.fence (w.extractLsb' 24 4) (w.extractLsb' 20 4)))
    else if f3 = 1#3 then some .fenceI else none)
  else none

/-! ### Bytes -/

/-- Little-endian bytes as a number (R4). -/
def leNat : List Byte → Nat
  | [] => 0
  | b :: bs => b.toNat + 256 * leNat bs

/-- The n low bytes of a number, least significant first (R4). -/
def leBytes : Nat → Nat → List Byte
  | 0, _ => []
  | n + 1, v => BitVec.ofNat 8 v :: leBytes n (v / 256)

/-- The instruction at the head of a list of bytes that a cohort fetches, with the rest of the list. -/
def decodeBytes (bs : List Byte) : Option (Instr × List Byte) :=
  if bs.length < 8 then none
  else
    match decodeWord (BitVec.ofNat 64 (leNat (bs.take 8))) with
    | .ok i => some (i, bs.drop 8)
    | .error _ => none

/-- The opcode table's numbering of an instruction's bits: 64 bits for an Izusk word, 32 for a base-die word. -/
def decodeTableWord (nbits w : Nat) : Option Instr :=
  if nbits ≤ 32 then decodeKx (BitVec.ofNat 32 (leNat (leBytes 4 w)))
  else (decodeBytes (leBytes 8 w)).map Prod.fst

/-! ### Encoder -/

def encGuard (op : BitVec 7) (g : Guard) : BitVec 12 := 0#1 ++ op ++ g.p ++ Bool.b1 g.inv

/-- R layout (R232). -/
def encR (op : BitVec 7) (g : Guard) (d a b c : BitVec 8) (fn : BitVec 6) (f : BitVec 2) (m : BitVec 12) : DWord :=
  encGuard op g ++ d ++ a ++ b ++ c ++ fn ++ f ++ m

def encR3 (op : BitVec 7) (r : R3) (fn : BitVec 6) (f : BitVec 2) (m : BitVec 12) : DWord :=
  encR op r.g r.d.code r.a.code r.b.code r.c.code fn f m

/-- I layout. -/
def encI (op : BitVec 7) (g : Guard) (d a : BitVec 8) (m : BitVec 4) (imm : BitVec 32) : DWord :=
  encGuard op g ++ d ++ a ++ m ++ imm

/-- B layout. -/
def encB (op : BitVec 7) (g : Guard) (d a : BitVec 8) (off : BitVec 32) (idx : BitVec 3) : DWord :=
  encGuard op g ++ d ++ a ++ off ++ idx ++ 0#1

/-- M layout. -/
def encM (op : BitVec 7) (m : MArgs) (d x : BitVec 8) (off : BitVec 14) : DWord :=
  encGuard op m.g ++ d ++ m.base.code ++ x ++ m.ty.code ++ m.ord.code ++ m.sc.code ++ m.f.code ++ m.sp.code ++ off

/-- E layout. -/
def encE (op : BitVec 7) (e : EArgs) (a b c : BitVec 8) (fn : BitVec 6) (m : BitVec 6) : DWord :=
  encGuard op e.g ++ (2#2 ++ e.d) ++ a ++ b ++ c ++ fn ++ e.fs ++ Bool.b1 e.acq ++ Bool.b1 e.rel ++ e.sc.code ++ m

def encImod (m : IMod) : BitVec 12 := 0#9 ++ Bool.b1 m.sat ++ Bool.b1 m.u ++ Bool.b1 m.w

def encW (w : Bool) : BitVec 12 := 0#11 ++ Bool.b1 w

def encFmod (m : FMod) (na nc : Bool) : BitVec 12 :=
  0#4 ++ Bool.b1 nc ++ Bool.b1 na ++ Bool.b1 m.sat ++ Bool.b1 m.f64 ++ Bool.b1 m.ftz ++ m.rnd.code

/-- Modifier of FMIN, FMAX, FCLASS: FTZ and F64 with RND zero. -/
def encFF (ftz f64 : Bool) (low : BitVec 3) : BitVec 12 := 0#7 ++ Bool.b1 f64 ++ Bool.b1 ftz ++ low

def encH2 (rnd : Rnd) (ftz sat : Bool) : BitVec 12 := 0#7 ++ Bool.b1 sat ++ Bool.b1 ftz ++ rnd.code

def encDiv (w u dzt : Bool) : BitVec 12 := 0#8 ++ Bool.b1 dzt ++ 0#1 ++ Bool.b1 u ++ Bool.b1 w

def encLane (mode : BitVec 4) (u w : Bool) (rnd : BitVec 3) (excl pn : Bool) : BitVec 12 :=
  0#1 ++ Bool.b1 pn ++ Bool.b1 excl ++ rnd ++ Bool.b1 w ++ Bool.b1 u ++ mode

def encHalf (h : Half) : BitVec 31 := h.rop ++ h.p ++ h.d ++ h.b ++ h.m

/-- A raw number in an 8-bit field. -/
def raw3 (p : BitVec 3) : BitVec 8 := 0#5 ++ p
def raw5 (p : BitVec 5) : BitVec 8 := 0#3 ++ p
def sCode (n : BitVec 6) : BitVec 8 := 2#2 ++ n
def vCode (n : BitVec 7) : BitVec 8 := 0#1 ++ n

/-- Offset field of the atomics (R311). -/
def encAOff (op : AOp) (off : BitVec 10) : BitVec 14 := op.code ++ off

/-- The 64-bit word of an Izusk instruction; events and base-die words have none (0). -/
def encode : Instr → DWord
  | .iadd r m => encR3 0x00#7 r 0#6 0#2 (encImod m)
  | .iadd3 r m => encR3 0x00#7 r 1#6 0#2 (encImod m)
  | .isub r m => encR3 0x00#7 r 2#6 0#2 (encImod m)
  | .ineg r m => encR3 0x00#7 r 3#6 0#2 (encImod m)
  | .iabs r m => encR3 0x00#7 r 4#6 0#2 (encImod m)
  | .imin r m => encR3 0x00#7 r 5#6 0#2 (encImod m)
  | .imax r m => encR3 0x00#7 r 6#6 0#2 (encImod m)
  | .lea r sh u => encR3 0x00#7 r 7#6 0#2 (0#2 ++ sh ++ 0#4 ++ Bool.b1 u ++ 0#1)
  | .icmp g p a b c w u =>
      encR 0x00#7 g (raw3 p) a.code b.code 0#8 8#6 0#2 (0#6 ++ c.code ++ 0#1 ++ Bool.b1 u ++ Bool.b1 w)
  | .imul r m => encR3 0x01#7 r 0#6 0#2 (encImod m)
  | .imulh r m => encR3 0x01#7 r 1#6 0#2 (encImod m)
  | .imad r m => encR3 0x01#7 r 2#6 0#2 (encImod m)
  | .imadw r m => encR3 0x01#7 r 3#6 0#2 (encImod m)
  | .idiv r f w u dzt => encR3 0x01#7 r 4#6 f.code (encDiv w u dzt)
  | .irem r f w u dzt => encR3 0x01#7 r 5#6 f.code (encDiv w u dzt)
  | .iaddImm g d a imm => encI 0x07#7 g d.code a.code 0#4 imm
  | .imulImm g d a imm => encI 0x07#7 g d.code a.code 1#4 imm
  | .andImm g d a imm => encI 0x07#7 g d.code a.code 2#4 imm
  | .orImm g d a imm => encI 0x07#7 g d.code a.code 3#4 imm
  | .xorImm g d a imm => encI 0x07#7 g d.code a.code 4#4 imm
  | .and r w => encR3 0x02#7 r 0#6 0#2 (encW w)
  | .or r w => encR3 0x02#7 r 1#6 0#2 (encW w)
  | .xor r w => encR3 0x02#7 r 2#6 0#2 (encW w)
  | .andn r w => encR3 0x02#7 r 3#6 0#2 (encW w)
  | .orn r w => encR3 0x02#7 r 4#6 0#2 (encW w)
  | .not r w => encR3 0x02#7 r 5#6 0#2 (encW w)
  | .shl r w => encR3 0x03#7 r 0#6 0#2 (encW w)
  | .shr r w => encR3 0x03#7 r 1#6 0#2 (encW w)
  | .sar r w => encR3 0x03#7 r 2#6 0#2 (encW w)
  | .rot r w => encR3 0x03#7 r 3#6 0#2 (encW w)
  | .funl r w => encR3 0x03#7 r 4#6 0#2 (encW w)
  | .bfx r w u => encR3 0x03#7 r 5#6 0#2 (0#10 ++ Bool.b1 u ++ Bool.b1 w)
  | .bfi r w => encR3 0x03#7 r 6#6 0#2 (encW w)
  | .popc r w => encR3 0x03#7 r 7#6 0#2 (encW w)
  | .clz r w => encR3 0x03#7 r 8#6 0#2 (encW w)
  | .ctz r w => encR3 0x03#7 r 9#6 0#2 (encW w)
  | .brev r w => encR3 0x03#7 r 10#6 0#2 (encW w)
  | .perm r => encR3 0x03#7 r 11#6 0#2 0#12
  | .mov r w => encR3 0x04#7 r 0#6 0#2 (encW w)
  | .sel r w p inv => encR3 0x04#7 r 1#6 0#2 (0#6 ++ Bool.b1 inv ++ p ++ 0#1 ++ Bool.b1 w)
  | .plog g p pa pb pc lut => encR 0x04#7 g (raw3 p) (raw3 pa) (raw3 pb) (raw3 pc) 2#6 0#2 (0#4 ++ lut)
  | .movi g d sx imm => encI 0x05#7 g d.code 0#8 (0#3 ++ Bool.b1 sx) imm
  | .movw g d lo imm => encI 0x06#7 g d.code 0#8 (0#3 ++ Bool.b1 lo) imm
  | .fadd r m => encR3 0x10#7 r 0#6 0#2 (encFmod m false false)
  | .fsub r m => encR3 0x10#7 r 1#6 0#2 (encFmod m false false)
  | .fmul r m => encR3 0x10#7 r 2#6 0#2 (encFmod m false false)
  | .ffma r m na nc => encR3 0x10#7 r 3#6 0#2 (encFmod m na nc)
  | .fmin r ftz f64 => encR3 0x10#7 r 4#6 0#2 (encFF ftz f64 0#3)
  | .fmax r ftz f64 => encR3 0x10#7 r 5#6 0#2 (encFF ftz f64 0#3)
  | .fscale r m => encR3 0x10#7 r 6#6 0#2 (encFmod m false false)
  | .fcmp g p a b c ftz f64 => encR 0x11#7 g (raw3 p) a.code b.code 0#8 0#6 0#2 (encFF ftz f64 c.code)
  | .fclass r f64 => encR3 0x11#7 r 1#6 0#2 (encFF false f64 0#3)
  | .frint r rnd ftz f64 => encR3 0x11#7 r 2#6 0#2 (encFF ftz f64 rnd.code)
  | .hadd2 r rnd ftz sat => encR3 0x12#7 r 0#6 0#2 (encH2 rnd ftz sat)
  | .hmul2 r rnd ftz sat => encR3 0x12#7 r 1#6 0#2 (encH2 rnd ftz sat)
  | .hfma2 r rnd ftz sat => encR3 0x12#7 r 2#6 0#2 (encH2 rnd ftz sat)
  | .faddImm g d a imm => encI 0x13#7 g d.code a.code 0#4 imm
  | .fmulImm g d a imm => encI 0x13#7 g d.code a.code 1#4 imm
  | .fminImm g d a imm => encI 0x13#7 g d.code a.code 2#4 imm
  | .fmaxImm g d a imm => encI 0x13#7 g d.code a.code 3#4 imm
  | .rcp r f ftz => encR3 0x20#7 r 0#6 f.code (encW ftz)
  | .rsq r f ftz => encR3 0x20#7 r 1#6 f.code (encW ftz)
  | .sqrt r f ftz => encR3 0x20#7 r 2#6 f.code (encW ftz)
  | .exp2 r f ftz => encR3 0x20#7 r 3#6 f.code (encW ftz)
  | .log2 r f ftz => encR3 0x20#7 r 4#6 f.code (encW ftz)
  | .sinpi r f ftz => encR3 0x20#7 r 5#6 f.code (encW ftz)
  | .cospi r f ftz => encR3 0x20#7 r 6#6 f.code (encW ftz)
  | .tanh r f ftz => encR3 0x20#7 r 7#6 f.code (encW ftz)
  | .cvt r rnd sat dty sty => encR3 0x21#7 r 0#6 0#2 (sty.code ++ dty.code ++ Bool.b1 sat ++ rnd.code)
  | .shfl r mode w => encR3 0x28#7 r 0#6 0#2 (encLane mode.code false w 0#3 false false)
  | .vote g d p mode pn =>
      encR 0x28#7 g d.code (raw3 p) 0#8 0#8 1#6 0#2 (encLane mode.code false false 0#3 false pn)
  | .lred r op w u rnd => encR3 0x28#7 r 2#6 0#2 (encLane op.code u w rnd.code false false)
  | .lscan r op w u rnd excl => encR3 0x28#7 r 3#6 0#2 (encLane op.code u w rnd.code excl false)
  | .matchL r w => encR3 0x28#7 r 4#6 0#2 (encLane 0#4 false w 0#3 false false)
  | .pairedCoIssue h0 h1 => 2#2 ++ encHalf h0 ++ encHalf h1
  | .pairedPathSplit h0 h1 => 3#2 ++ encHalf h0 ++ encHalf h1
  | .bra g off idx => encB 0x30#7 g 0#8 0#8 off idx
  | .call g link off idx => encB 0x31#7 g link.code 0#8 off idx
  | .loop g cnt off idx => encB 0x32#7 g (sCode cnt) 0#8 off idx
  | .brm g p inv off idx => encB 0x33#7 g 0#8 (0#4 ++ Bool.b1 inv ++ p) off idx
  | .meet g clr off idx => encB 0x34#7 g 0#8 (0#7 ++ Bool.b1 clr) off idx
  | .spawn g n off => encB 0x35#7 g 0#8 n off 0#3
  | .brx g a => encR 0x36#7 g 0#8 a.code 0#8 0#8 0#6 0#2 0#12
  | .callx g link a => encR 0x36#7 g link.code a.code 0#8 0#8 1#6 0#2 0#12
  | .ret g a => encR 0x36#7 g 0#8 a.code 0#8 0#8 2#6 0#2 0#12
  | .mend g => encR 0x37#7 g 0#8 0#8 0#8 0#8 0#6 0#2 0#12
  | .spflush g => encR 0x37#7 g 0#8 0#8 0#8 0#8 1#6 0#2 0#12
  | .exit g => encR 0x37#7 g 0#8 0#8 0#8 0#8 2#6 0#2 0#12
  | .yield g => encR 0x37#7 g 0#8 0#8 0#8 0#8 3#6 0#2 0#12
  | .waitf g mask => encR 0x37#7 g 0#8 0#8 0#8 0#8 4#6 0#2 mask
  | .nop g => encR 0x37#7 g 0#8 0#8 0#8 0#8 5#6 0#2 0#12
  | .rnld m path idx off => encM 0x38#7 m (0#7 ++ Bool.b1 path) idx.code off
  | .bar g id => encR 0x39#7 g 0#8 0#8 0#8 0#8 0#6 0#2 (0#8 ++ id)
  | .bara g id => encR 0x39#7 g 0#8 0#8 0#8 0#8 1#6 0#2 (0#8 ++ id)
  | .barw g id => encR 0x39#7 g 0#8 0#8 0#8 0#8 2#6 0#2 (0#8 ++ id)
  | .cbar g id => encR 0x39#7 g 0#8 0#8 0#8 0#8 3#6 0#2 (0#10 ++ id)
  | .srd g d r => encR 0x70#7 g d.code 0#8 0#8 0#8 0#6 0#2 (0#8 ++ r.code)
  | .swr g a r => encR 0x70#7 g 0#8 a.code 0#8 0#8 1#6 0#2 (0#8 ++ r.code)
  | .gts g d => encR 0x70#7 g d.code 0#8 0#8 0#8 2#6 0#2 0#12
  | .clk g d => encR 0x70#7 g d.code 0#8 0#8 0#8 3#6 0#2 0#12
  | .trap g a code => encR 0x71#7 g 0#8 a.code 0#8 0#8 0#6 0#2 (0#4 ++ code)
  | .brkp g code => encR 0x71#7 g 0#8 0#8 0#8 0#8 1#6 0#2 (0#4 ++ code)
  | .ld m d idx off => encM 0x40#7 m d.code idx.code off
  | .st m x off => encM 0x41#7 m 0#8 x.code off
  | .ldc m d idx off => encM 0x42#7 m d.code idx.code off
  | .atom m op d x off => encM 0x43#7 m d.code x.code (encAOff op off)
  | .atoms m op d x off => encM 0x44#7 m d.code x.code (encAOff op off)
  | .red m op x off => encM 0x45#7 m 0#8 x.code (encAOff op off)
  | .cas m d x off => encM 0x46#7 m d.code x.code off
  | .aflush g => encR 0x47#7 g 0#8 0#8 0#8 0#8 0#6 0#2 0#12
  | .fence g k sc => encGuard 0x48#7 g ++ 0#28 ++ k.code ++ sc.code ++ 0#19
  | .pref g l2 base idx off => encGuard 0x49#7 g ++ 0#8 ++ base.code ++ idx.code ++ (0#3 ++ Bool.b1 l2) ++ 0#10 ++ off
  | .cwb g all base idx off => encGuard 0x4A#7 g ++ 0#8 ++ base.code ++ idx.code ++ (0#3 ++ Bool.b1 all) ++ 0#10 ++ off
  | .cinv g all base idx off => encGuard 0x4B#7 g ++ 0#8 ++ base.code ++ idx.code ++ (0#3 ++ Bool.b1 all) ++ 0#10 ++ off
  | .txbeg g d cls n off idx => encGuard 0x4C#7 g ++ vCode d ++ cls ++ n ++ off ++ idx
  | .txend g => encR 0x4D#7 g 0#8 0#8 0#8 0#8 0#6 0#2 0#12
  | .txabt g code => encR 0x4D#7 g 0#8 0#8 0#8 0#8 1#6 0#2 (0#4 ++ code)
  | .txst g d => encR 0x4D#7 g (vCode d) 0#8 0#8 0#8 2#6 0#2 0#12
  | .qpush m sr x q => encM 0x4E#7 m sr.code x.code (0#6 ++ q)
  | .qpop m d sr wait q => encM 0x4F#7 m d.code sr.code (0#4 ++ Bool.b1 wait ++ 0#1 ++ q)
  | .qcnt m d q => encM 0x50#7 m d.code 0#8 (0#6 ++ q)
  | .cpy e a => encE 0x60#7 e (sCode a) 0#8 0#8 0#6 0#6
  | .cpyg e a b => encE 0x60#7 e (sCode a) (vCode b) 0#8 1#6 0#6
  | .cpys e a b => encE 0x60#7 e (sCode a) (vCode b) 0#8 2#6 0#6
  | .cpym e a c slot => encE 0x60#7 e (sCode a) 0#8 (sCode c) 3#6 (0#1 ++ slot)
  | .omclm e a b try_ scu => encE 0x61#7 e a.code b.code 0#8 0#6 (0#3 ++ scu ++ Bool.b1 try_)
  | .omrel e a b => encE 0x61#7 e a.code b.code 0#8 1#6 0#6
  | .accz e acc => encE 0x61#7 e 0#8 0#8 0#8 2#6 (0#3 ++ acc)
  | .accld e a b acc => encE 0x61#7 e (sCode a) (sCode b) 0#8 3#6 (0#3 ++ acc)
  | .accst e a b c acc => encE 0x61#7 e (sCode a) (sCode b) (sCode c) 4#6 (0#3 ++ acc)
  | .accmv e slot c acc h => encE 0x61#7 e (raw5 slot) 0#8 (sCode c) 5#6 (0#2 ++ Bool.b1 h ++ acc)
  | .mma e sa sb acc => encE 0x62#7 e (raw5 sa) (raw5 sb) (raw3 acc) 0#6 0#6
  | .mmb e sa sb acc => encE 0x62#7 e (raw5 sa) (raw5 sb) (raw3 acc) 1#6 0#6
  | .futw g d a => encR 0x63#7 g d.code a.code 0#8 0#8 0#6 0#2 0#12
  | .futt g p a => encR 0x63#7 g (raw3 p) a.code 0#8 0#8 1#6 0#2 0#12
  | .futc g a => encR 0x63#7 g 0#8 a.code 0#8 0#8 2#6 0#2 0#12
  | .rstl g i clr => encR 0x63#7 g 0#8 0#8 0#8 0#8 3#6 0#2 (0#5 ++ Bool.b1 clr ++ i)
  | .coll e a b kind => encE 0x64#7 e (sCode a) (sCode b) 0#8 0#6 (0#4 ++ kind)
  | .put e a b => encE 0x64#7 e (sCode a) (sCode b) 0#8 1#6 0#6
  | .get e a b => encE 0x64#7 e (sCode a) (sCode b) 0#8 2#6 0#6
  | .qnt e a b c wt => encE 0x65#7 e (sCode a) (sCode b) (sCode c) 0#6 (0#2 ++ wt)
  | .dqnt e a b c wt => encE 0x65#7 e (sCode a) (sCode b) (sCode c) 1#6 (0#2 ++ wt)
  | .amax g f a ring adv => encR 0x66#7 g 0#8 a.code 0#8 0#8 0#6 f.code (0#5 ++ Bool.b1 adv ++ ring)
  | .sring g f d ring => encR 0x66#7 g d.code 0#8 0#8 0#8 1#6 f.code (0#6 ++ ring)
  | _ => 0#64

/-- The 32-bit word of a base-die transaction instruction (R332). -/
def encodeKx : Instr → Word
  | .kxBegin rd rs1 => 0#12 ++ rs1 ++ 0#3 ++ rd ++ 0x0B#7
  | .kxEnd => 0#12 ++ 0#5 ++ 1#3 ++ 0#5 ++ 0x0B#7
  | .kxAbort code => 0#4 ++ code ++ 0#5 ++ 2#3 ++ 0#5 ++ 0x0B#7
  | .kxStat rd => 0#12 ++ 0#5 ++ 3#3 ++ rd ++ 0x0B#7
  | .kxLock rs1 => 0#12 ++ rs1 ++ 4#3 ++ 0#5 ++ 0x0B#7
  | _ => 0#32

/-- How many bits an instruction's encoding has: 64 for an Izusk word, 32 for a base-die transaction word, none for
an event. -/
def Instr.bits : Instr → Nat
  | .kxBegin _ _ | .kxEnd | .kxAbort _ | .kxStat _ | .kxLock _ => 32
  | .flaggedOpComplete _ _ | .walkComplete _ | .mvWaitTimeout _ | .tlbInvalidate _ _ | .tlbInvalidateComplete _
  | .peerAccessArrive _ | .copyLineLanded _ _ _ | .releasePull _ | .pullAck _ | .releaseSetTimeout _ _
  | .regionMoveComplete _ | .floorWindow | .txLockWaitEnd _ _ | .txTimeLimit _ | .spawnCohortForm _ _
  | .belvedereCheck _ | .submitEntry _ _ _ _ _ | .dependencePoll | .railsSettled _ | .clusterPlace _ _ _ _ _ _
  | .gridRetire _ | .activePositionHandoff _ _ | .cohortEvict _ | .cohortRestoreEvicted _
  | .launchQueueCohortStart _ _ _ _ | .powerLimitStepDown | .powerLimitStepUp | .trapRecordWrite _
  | .trapReply _ _ _ _ _ | .trapQueueSetup _ _ | .trapQueueHeadWrite _ _ | .queueSetup _ _ _ _ _ | .exportRegion _ _
  | .memoryGrant _ _ _ | .floorRequest _ _ _ | .sliceEnd _ | .haltComplete _ | .quiesceMarkerReturn _
  | .imageSaveComplete _ | .scrubComplete _ | .restoreComplete _ | .engineOpComplete _ _ | .claimGrant _ _
  | .fillLanded _ _ | .remoteRequest _ _ _ _ _ _ | .payloadDelivery _ _ _ _ _ _ _ | .collChunkArrival _ _ _ _ _
  | .collResult _ _ | .collTimeout _ _ | .flitReplayExhausted _ | .portOutOfService _ | .gangReady _ _ _ | .gangGo _
  | .gangCancel _ | .gangAck _ _ | .gangAbort _ _ | .gangPrepareTimeout _ | .gangGoTimeout _ | .gangAckTimeout _
  | .featuresOk _ _ | .vfReset _ | .cancelLaunch _ _ | .readAccount _ | .loadImage _ _ _ | .loaderComplete _
  | .eventDelivery _ | .completionEntryWrite _ | .getVersion _ | .getCapabilities _ | .negotiateAlgorithms _
  | .getDigests _ | .getCertificate _ | .challenge _ _ | .getMeasurements _ _ | .keyExchange _ | .finish _
  | .endSession _ | .setImageKey _ _ _ | .setDtid _ _ | .resetRecord _ | .cshareWrite _ _ | .pctlWrite _ _
  | .registerWrite _ _ | .arrayScrubPass _ _ _ | .errorLogRecord _ _ _ _ _ _ | .spareBringIn _
  | .spareSwapComplete _ | .corePowerGate _ | .coreWake _ | .reset _ _ _ | .baseDieMemoryAccess _ _ | .hartTrap _ _
  | .instructionCacheFill _ _ | .unknownControlRequest _ _ => 0
  | _ => 64

end Sys2Proof
end

