-- ==== Sys2Proof/Config.lean ====
section
/-! DEFINITION. What the manual leaves to the part: free values with no body, so that no proof can lean on a number
chosen here, and the counts of units that the manual fixes (R9, R10). -/

namespace Sys2Proof.Config

/-! ### Free values. Each is applied to the counter `fresh` of the state or to the operands it depends on. -/

/-- Nanoseconds that pass between two readings of the clock, less one (R18; notes/assumptions/8.md). -/
opaque gap : Nat → Nat

/-- Core clocks that pass between two readings of one core's CLK (R309). -/
opaque clkGap : Nat → Nat

/-- How far a special function's result lies from the correctly rounded one, in ulp, before the bound of R224 is
applied: a fixed function of the function code and the source bits. -/
opaque ulp : Nat → Word → Int

/-- A signature reports a sector it never saw (R130): by hart, sector and fresh value. -/
opaque sigHit : Nat → Nat → Nat → Bool

/-- For a byte that a copy did not deliver: true where it holds what the copy would have written (R64). -/
opaque delivered : Nat → Bool

/-- A write that an engine command has issued is still on its way when the command goes on (R115). -/
opaque lags : Nat → Bool

/-- The Kiosk's tickets rise by one and this (R125). -/
opaque ticketGap : Nat → Nat

/-- The entry that a full TLB gives up (R39). -/
opaque victim : Nat → Nat

/-- The set of a cluster TLB that an entry goes to, by address space, page size and page (R39: the index is not
stated). -/
opaque tlbSet : Nat → Nat → Nat → Nat

/-- The set of an L2 slice that a line goes to (R72: not architectural). -/
opaque l2Set : Nat → Nat

/-- What a byte of a bank-store row holds after the L1 has used the row: the row of a sector is not stated (R60). -/
opaque rowByte : Nat → Byte

/-- The host completes an access to a bus address with an error (R28). -/
opaque hostReject : Nat → Nat → Bool

/-- A constant-cache line is still held (R317: the cache may have given it up). -/
opaque constKept : Nat → Bool

/-- An unordered choice among enabled alternatives. -/
opaque choose : Nat → Nat

/-- SHA-384 (FIPS 180-4, a published standard the manual does not restate). -/
opaque sha384 : List Byte → BitVec 384

/-- ML-DSA-87 verification of a message under a key (FIPS 204). -/
opaque mlDsaOk : List Byte → List Byte → List Byte → Bool

/-- The content of an SPDM 1.3 response by request code and the requester's data (a published standard). -/
opaque spdm : Nat → List Byte → List Byte

/-- Bytes that the manual calls unpredictable: a queue entry that software overwrote (R196), the area after grid end
(R165). -/
opaque junk : Nat → Byte

/-! ### Counts in service (R9, R10) -/

def dies : Nat := 4
def clustersPerDie : Nat := 24
def coresPerCluster : Nat := 8
def cores : Nat := 768
def harts : Nat := 32
def parts : Nat := 20
def optEntries : Nat := 256
def coreTlbEntries : Nat := 128
def clusterTlbSets : Nat := 512
def clusterTlbWays : Nat := 8
def walkCache : Nat := 512
def missEntries : Nat := 1024
def l2Ways : Nat := 16
def l2Sets : Nat := 128
def releaseEntries : Nat := 32
def waitingRecords : Nat := 16
def trapRing : Nat := 4096
def queueRing : Nat := 4096
def orderPerCohort : Nat := 256
def orderPerCore : Nat := 8192
def spawnQueue : Nat := 1024

end Sys2Proof.Config
end

