-- ==== Sys2Proof/Machine/State.lean ====
section
/-! DEFINITION. The state of one KV8 package as plain data: everything the manual gives the machine
(INVENTORY.md, '## State'), and the model's own fields `agenda`, `cur` and `fresh`. -/

namespace Sys2Proof.Machine

/-- Why the machine stops. -/
inductive Fault where
  /-- An access outside the physical map (R26, R27). Nobody raises it: SIMT accesses and engines take cause 0x16 there, and
  base-die cores the access fault of their ISA (notes/assumptions/11.md). Safe. -/
  | busOutsideMap
  deriving DecidableEq, Repr

/-- Why an instruction has no meaning. -/
inductive Refusal where
  /-- An instruction of the table that has no meaning yet. Safe. -/
  | notModelled (mnemonic : String)
  /-- Raised by a base-die hart that fetches a word of the RVA23 profile beyond the kx words, RV64IMA, the floating loads and
  stores and the supervisor CSRs of notes/assumptions/11.md: 00_scope does not restate those standards. Safe. -/
  | rvOutsideManual
  deriving DecidableEq, Repr

/-! ### Cohorts -/

/-- A sector of a lane's read or write log (R135): the 64 bytes, byte 0 lowest, and the byte mask. -/
structure TxSec where
  sector : Nat
  data : BitVec 512
  mask : BitVec 64
  deriving DecidableEq, Repr

/-- The transaction state of a lane (R329). -/
structure Tx where
  isOpen : Bool
  fb : Bool
  retry : Bool
  cls : Nat
  n : Nat
  fails : Nat
  code : BitVec 8
  sub : BitVec 8
  sreg : Nat
  beg : DWord
  exit : DWord
  rlog : List TxSec
  wlog : List TxSec
  start : Nat
  deriving DecidableEq, Repr

/-- A lane held at a barrier (R301, R302): block barriers 0 to 15, cluster barriers 16 to 19; `again` where the lane
re-issues its word when the phase completes. -/
structure BarHold where
  bar : Nat
  again : Bool
  deriving DecidableEq, Repr

/-- Where a cohort's state lies: on its core, in the eviction area (R190), or saved by a tenant switch (R382). -/
inductive Place where
  | resident | evicted | saved
  deriving DecidableEq, Repr

/-- A cohort (R149, R170): its registers, its lanes and its scheduling state. -/
structure Cohort where
  block : Nat
  idx : Nat
  pipe : Nat
  vbase : Nat
  place : Place
  active : Bool
  detHolder : Bool
  lastIssue : Nat
  detIdx : Nat
  /-- v-registers: word n of lane l at key 32·n + l, the owner's view (R53). -/
  regs : SMap Word
  /-- Operand cache (R57), most recently used first: a register and the 32 words that its bank rows hold; the entry is dirty
  where they differ from the owner's view. -/
  dirty : List (Nat × List Word)
  sregs : SMap DWord
  preds : SMap LaneMask
  nflags : BitVec 5
  pc : SMap DWord
  /-- MEET; an unlisted lane holds the no-meeting value (R149). -/
  meet : SMap DWord
  orig : SMap Nat
  live : LaneMask
  exited : LaneMask
  parked : LaneMask
  /-- Lanes held at a meeting or at the MEND address (R152, R159). -/
  held : LaneMask
  /-- Lanes that have entered the clause of their PC (R228). -/
  entered : LaneMask
  /-- Lanes that wait for a class lock at TXBEG (R127). -/
  lockWait : LaneMask
  /-- Group-store membership (R150). -/
  store : LaneMask
  barHold : List (Nat × BarHold)
  tid : SMap Nat
  regionOpen : Bool
  /-- The MEND address of the open region and the PC of its BRM (R155, R161). -/
  mend : DWord
  brm : DWord
  path : LaneMask
  memb : LaneMask
  /-- Lanes that did not join the open region and wait at the MEND word's successor (R155). -/
  mendWait : LaneMask
  /-- Every region lane has arrived at the MEND address or exited: the meeting is released (R295). -/
  mendOpen : Bool
  rnt0 : BitVec 128
  rnt1 : BitVec 128
  cf : SMap Nat
  /-- Handle registers: s-register to the op-table slot whose status will land there (R342). -/
  handles : SMap Nat
  restart : DWord
  tx : List (Nat × Tx)
  /-- Absent scratchpad lines the cohort is parked on: block and line (R63). -/
  absent : List (Nat × Nat)
  /-- Lanes for which a stall record has been written and that have not issued since (R169). -/
  stalled : LaneMask
  /-- When each lane last issued, moved on by the time that the cohort was off its core since (R169, R443). -/
  since : SMap Nat
  /-- Since when each lane has been held, or eligible and not issued (R169). -/
  watch : SMap Nat
  /-- The lanes of the stall record were held at a meeting (R169). -/
  stallHeld : Bool
  /-- Since when each lane has stalled at a WAITF (R300). -/
  wfSince : SMap Nat
  /-- When the cohort took or lost its active position, came to its core or left it (R169, R188). -/
  posTime : Nat
  /-- Since when it waits for an active position with an eligible group (R188). -/
  waitPos : Option Nat
  /-- The cohort owned slots or accumulators at a halt, or had a matrix command discarded (R366). -/
  lost : Bool
  /-- Its record, or its block's, has come back from the save area with an uncorrectable error (R386). -/
  damaged : Bool
  /-- The place of its record in the eviction area, while it is evicted (R190). -/
  area : Nat
  /-- s-registers that hold the status of a completed command with the release bit of scope clu or wider (R115, R342). -/
  relS : List Nat
  /-- The word that has just issued observed the completion of such a command (R115). -/
  observed : Bool
  deriving DecidableEq, Repr

/-! ### Blocks, clusters, grids -/

/-- One block barrier (R301): lane slot 32·c + l. -/
structure Bar where
  parity : Bool
  arrived : BitVec 1024
  pending : BitVec 1024
  recd : BitVec 1024
  deriving DecidableEq, Repr

/-- One cluster barrier: lane slot 1024·k + 32·c + l (R382). -/
structure CBar where
  parity : Bool
  arrived : BitVec 8192
  deriving DecidableEq, Repr

/-- A spawn entry (R162); `ovf` its slot where it lies in the overflow area (R165). -/
structure SpawnEnt where
  target : DWord
  orig : Nat
  vals : List Word
  ovf : Option Nat
  deriving DecidableEq, Repr

/-- A block (R146, R51): its place, its rows and what is shared by its cohorts. -/
structure Block where
  grid : Nat
  placed : Nat
  blk : Nat
  rank : Nat
  core : Nat
  place : Place
  exited : Bool
  /-- Bank-store rows: scratchpad run, spawn run, window run of each cohort index. -/
  scrRow : Nat
  spRow : Nat
  winRows : List Nat
  /-- Cohort slots held, one for each cohort index. -/
  slots : List Nat
  /-- Scratchpad lines whose presence bit is clear, with the issue number of the last command that covers them (R62). -/
  absent : SMap Nat
  spawnQ : List SpawnEnt
  /-- Target lists and their flush bits (R164, R298). -/
  lists : List (DWord × Bool)
  bars : List (Nat × Bar)
  /-- The pipe of cohort 0 (R185). -/
  pipe0 : Nat
  /-- The scratchpad's bytes while the block is saved (R384). -/
  scr : List Host.Cell
  deriving DecidableEq, Repr

/-- A placed cluster of blocks (R185) with its cluster barriers. -/
structure Placed where
  grid : Nat
  e : Nat
  j : Nat
  die : Nat
  clu : Nat
  cores : List Nat
  bars : List (Nat × CBar)
  deriving DecidableEq, Repr

/-- Launch states (R182). -/
inductive GState where
  | queued | depwait | count | reswait | opwait | placing | running | draining | retired
  deriving DecidableEq, Repr

/-- A delayed-scaling ring (R222). -/
structure Ring where
  c : Word
  h : List Word
  cursor : Nat
  deriving DecidableEq, Repr

/-- Where a gang member stands (R404, R405). -/
inductive GangPhase where
  | preparing | readySent | going | done | cancelled | aborted
  deriving DecidableEq, Repr

/-- The gang of a launch with NP above 1 (R403). -/
structure Gang where
  gid : BitVec 32
  q : Nat
  members : List Nat
  ptmo : Nat
  digest : BitVec 384
  phase : GangPhase
  reserved : Option (Nat × List Nat)
  ready : List (Nat × BitVec 384)
  acks : List Nat
  readyAt : Nat
  goAt : Nat
  deriving DecidableEq, Repr

/-- A grid (R172, R182): its launch record as 32 doublewords, and its state. -/
structure Grid where
  rcd : List DWord
  tctx : Nat
  part : Nat
  serial : Nat
  tag : DWord
  note : Bool
  vf : Nat
  state : GState
  code : Nat
  cause : Nat
  deps : List DWord
  cpd : Nat
  dies : List Nat
  done : List (Nat × Nat)
  bound : Bool
  traps : Nat
  eflags : BitVec 5
  wxov : Bool
  rshort : Bool
  tstart : Nat
  tend : Nat
  rings : List (Nat × Ring)
  entryDone : Bool
  aborted : Bool
  gang : Option Gang
  /-- When it last took its turn at a placement, in the model's order of events (R179). -/
  turn : Nat
  deriving DecidableEq, Repr

/-! ### Cores -/

/-- An L1 sector (R77): physical sector, its bytes, the mask of written bytes, the filled bit, and its words with an
uncorrectable error (R370). -/
structure L1Sec where
  part : Nat
  sector : Nat
  data : BitVec 512
  mask : BitVec 64
  filled : Bool
  bad : BitVec 8
  deriving DecidableEq, Repr

/-- An entry of the release table (R105) with the tag it left at the variable's home (R106); `placed` is the releasing
block's cluster and `block` that block (R94). -/
structure RelSet where
  id : Nat
  part : Nat
  sector : Nat
  scope : Scope
  placed : Nat
  block : Nat
  set : List Nat
  time : Nat
  deriving DecidableEq, Repr

/-- A line of an L2 slice (R72): its index in the package's physical map, and which of its eight sectors are valid and
which dirty. Its bytes are those of `State.mem`: the slice is the point of coherence (R74), so no access can tell them
apart. -/
structure L2Line where
  line : Nat
  valid : BitVec 8
  dirty : BitVec 8
  deriving DecidableEq, Repr

/-- A pointer entry of a die's walk cache (R40): address space, the level of the table it leads to, the part of the
address that led there, and the table. -/
structure PtrE where
  tctx : Nat
  lvl : Nat
  tag : Nat
  table : Nat
  deriving DecidableEq, Repr

/-- A TLB entry (R39). -/
structure TlbE where
  tctx : Nat
  va : Nat
  size : Nat
  pa : Nat
  tier : Nat
  pkey : Nat
  rd : Bool
  wr : Bool
  ex : Bool
  deriving DecidableEq, Repr

/-- What an engine command has done so far. -/
inductive CmdState where
  | queued | running | pageFault (tid : Nat) | landing | awaiting | free
  /-- A collective that ended while its partition was switched out: its future completes at the restore (R402). -/
  | ended (status : Nat)
  deriving DecidableEq, Repr

/-- An op-table entry (R340): generation, the command and its progress, the last status. `seq` orders commands by issue,
`mseq` where a follow-on joined the matrix engine, `doneSeq` by completion; `landed` are scratchpad lines already written. -/
structure Opt where
  gen : Nat
  busy : Bool
  seq : Nat
  doneSeq : Nat
  status : Word
  eng : Nat
  coh : Nat
  block : Nat
  grid : Nat
  pc : DWord
  lanes : LaneMask
  instr : Instr
  desc : List DWord
  offs : List (Nat × DWord)
  dreg : Nat
  st : CmdState
  prog : Nat
  landed : List Nat
  mseq : Nat
  cancel : Bool
  fail : Bool
  follow : Option Instr
  /-- A tenant switch has discarded the follow-on (R366). -/
  lostFollow : Bool
  /-- Since when the command has met MV = 1 (R37). -/
  mv : Option Nat
  /-- The status with which the command has ended, where its completion record is still to be written (R393). -/
  fin : Option Nat
  deriving DecidableEq, Repr

/-- A buffered deterministic atomic (R194). `seq` places it among its cohort's operations in the order of issue: those with
a lower key are earlier (R101). -/
structure BufEnt where
  blk : Nat
  coh : Nat
  lane : Nat
  idx : Nat
  grid : Nat
  block : Nat
  pa : Nat
  op : AOp
  ty : MType
  ord : Order
  sc : Scope
  x : BitVec 64
  seq : Nat
  deriving DecidableEq, Repr

/-- An operand slot (R347). -/
structure Slot where
  owner : Option Nat
  fmt : Nat
  bsz : Nat
  units : Nat
  data : SMap Byte
  scales : SMap Byte
  deriving DecidableEq, Repr

/-- An accumulator (R347): element (i, j) at key 64·i + j. -/
structure Acc where
  owner : Option Nat
  elems : SMap Word
  deriving DecidableEq, Repr

/-- A core: L1, release table, op table, order buffer, operand memory, TLB, clock. Slots and accumulators of share n stand at
keys 32·n + slot and 8·n + accumulator. -/
structure Core where
  l1 : List L1Sec
  rel : List RelSet
  opt : List (Nat × Opt)
  obuf : List BufEnt
  slots : List (Nat × Slot)
  accs : List (Nat × Acc)
  tlb : List TlbE
  clk : Nat
  gated : Bool
  /-- The partitions some of whose rows hold bytes at places that the manual does not state, since the rows were cleared:
  sectors, logs, spawn entries (R60). -/
  l1Used : List Nat
  /-- Rows of such partitions that no block has held, and no sector come into, since a scratchpad or a window left its bytes in
  them (R60). -/
  kept : List Nat
  /-- Op-table entries of partitions that are switched out (R342): partition, slot, entry. -/
  saved : List (Nat × Nat × Opt)
  /-- Order-buffer entries of partitions that are switched out (R382). -/
  savedBuf : List BufEnt
  /-- Since when the conditions of power gating have held (R443). -/
  quiet : Option Nat
  deriving DecidableEq, Repr

/-- A line of a cluster's constant cache, filled for a grid (R317). -/
structure CLine where
  grid : Nat
  sector : Nat
  data : BitVec 512
  deriving DecidableEq, Repr

/-! ### Work in flight -/

/-- Where the bytes of an access lie: physical memory, the bank store of a core, or the register window of a
cohort. -/
inductive Loc where
  | mem | bank (core : Nat) | reg (coh : Nat)
  deriving DecidableEq, Repr

/-- Some consecutive bytes of one access. -/
structure Seg where
  loc : Loc
  a : Nat
  n : Nat
  /-- A translated HBM4E or capacity-tier location of the own package: the L1 may hold it (R76). -/
  l1 : Bool
  deriving DecidableEq, Repr

/-- One lane's part of an operation: its address, its bytes, its data, and the start of the speculative attempt it
belongs to (0 outside one). -/
structure LaneAcc where
  va : Nat
  segs : List Seg
  x : BitVec 128
  cmp : BitVec 128
  tx : Nat
  deriving DecidableEq, Repr

/-- What a flagged operation does when it completes (R229). -/
inductive OpKind where
  | load | ldc | store | rmw (op : AOp) | atoms (op : AOp) | cas
  /-- a computed result: the value of each lane stands in `x`, its flags in `cmp` -/
  | comp
  | qpush (q : Nat) | qpop (q : Nat) | qcnt (q : Nat)
  | amax (ring : Nat) (adv : Bool) | sring (ring : Nat)
  /-- a deterministic atomic already in the order buffer -/
  | buffered
  deriving DecidableEq, Repr

/-- A destination: a v-register of a lane (key 32·n + l), or an s-register. -/
inductive Dst where
  | v (key : Nat) | s (n : Nat)
  deriving DecidableEq, Repr

/-- An operation in flight. `dst` lists the words that its result still writes: a destination, the lane and the word
of the result it takes; a later-issued write removes it (R231). `hold`: the lanes that wait for it at its word, and `next`
the word after it (R336). `grp`: the threads on
whose behalf a word that executes once makes its one access (R238); 0 where each lane makes its own. -/
structure Op where
  coh : Nat
  core : Nat
  part : Nat
  lanes : LaneMask
  pc : DWord
  flag : Option Nat
  kind : OpKind
  ty : MType
  ord : Order
  sc : Scope
  acc : List (Nat × LaneAcc)
  dst : List (Dst × Nat × Nat)
  hold : LaneMask
  next : DWord
  grp : LaneMask
  time : Nat
  deriving DecidableEq, Repr

/-- A pull of a release set (R106). -/
structure Pull where
  op : Nat
  lanes : LaneMask
  core : Nat
  rel : Nat
  acked : Bool
  deriving DecidableEq, Repr

/-- Accesses on their way to a peer's core (R66): lane, address and size of each; the word stays until they have
arrived. -/
structure Transit where
  coh : Nat
  pc : DWord
  rank : Nat
  acc : List (Nat × Nat × Nat)
  arrived : Bool
  deriving DecidableEq, Repr

/-- A TLB miss in the miss table (R40): who waits, for which address, since when its walk has met MV = 1 (R37), the cause
and level of a walk that failed, and the level of the leaf of a walk that served it. -/
structure Walk where
  coh : Nat
  lanes : LaneMask
  pc : DWord
  tctx : Nat
  va : Nat
  mv : Option Nat
  bad : Option (Nat × Nat)
  lvl : Option Nat
  deriving DecidableEq, Repr

/-- A posted TLB invalidation (R42). -/
structure Inval where
  part : Nat
  tctx : Nat
  what : InvalWhat
  deriving DecidableEq, Repr

/-! ### Transactions -/

/-- The transaction of a base-die hart (R129 to R132): its exact read set of sectors, its write set of bytes, the
checkpoint. -/
structure HartTx where
  cls : Nat
  ticket : Nat
  rd : Nat
  resume : DWord
  reads : List Nat
  writes : SMap Byte
  wlines : List Nat
  ckx : SMap DWord
  ckf : SMap DWord
  start : Nat
  deriving DecidableEq, Repr

/-- The supervisor registers of one world of a base-die core (notes/assumptions/11.md): trap vector, saved pc, cause and
value, scratch, and the root of its tables (R30). -/
structure RvCsr where
  tvec : DWord
  epc : DWord
  cause : DWord
  tval : DWord
  scratch : DWord
  satp : DWord
  deriving DecidableEq, Repr

/-- A base-die core: its registers, the partition whose guest Arbor runs on it (31: Arbor itself), the supervisor
registers of Arbor and of the guest, the root of the G-stage (R30) and the world that SRET enters, its transaction
state. -/
structure Hart where
  x : SMap DWord
  f : SMap DWord
  pc : DWord
  part : Nat
  host : RvCsr
  guest : RvCsr
  hgatp : DWord
  spv : Bool
  tx : Option HartTx
  /-- The class whose lock it holds, and the partition of that lock (R126). -/
  lock : Option Nat
  lockPart : Nat
  waitLock : Option Nat
  status : Word
  resv : Option (Nat × Nat)
  deriving DecidableEq, Repr

/-- The Kiosk (R125, R126): the next ticket, and the holder of each taken class lock at key 256·partition + class. -/
structure Kiosk where
  ticket : Nat
  locks : List (Nat × TxWho)
  deriving DecidableEq, Repr

/-! ### Traps -/

/-- What a trap identifier stands for until a reply frees its lanes (R370, R374). -/
structure TrapInfo where
  part : Nat
  tid : Nat
  kind : Nat
  cause : Nat
  grid : Nat
  coh : Nat
  lanes : LaneMask
  pc : DWord
  core : Nat
  slot : Nat
  written : Bool
  /-- A reply has been given: the record no longer counts as an outstanding call (R415). -/
  replied : Bool
  deriving DecidableEq, Repr

/-- A record that waits to be written (R373): its partition, its writer and its eight doublewords. -/
structure PendRec where
  part : Nat
  tid : Nat
  source : Nat
  words : List DWord
  deriving DecidableEq, Repr

/-- TRAPQ_p (R372). -/
structure TrapQ where
  base : DWord
  tail : Nat
  head : Nat
  deriving DecidableEq, Repr

/-- A reply that waits: its partition is not running, or an earlier reply or a page of its own is waited for (R37, R378).
`mv`: since when it has met MV = 1. -/
structure Reply where
  part : Nat
  w0 : DWord
  newpc : DWord
  edits : DWord
  dumpva : DWord
  mv : Option Nat
  deriving DecidableEq, Repr

/-- Trap handling of the package. -/
structure Traps where
  info : List TrapInfo
  pend : List PendRec
  queues : List (Nat × TrapQ)
  nextTid : SMap Nat
  held : List Reply
  deriving DecidableEq, Repr

/-! ### Queues -/

/-- QDESC_q (R195). The entries lie in memory, in the two rings (R196); `ents` are the entries from HEAD to TAIL as they
were accepted, by which an entry that software overwrote is known. -/
structure QDesc where
  ring : DWord
  spill : DWord
  scap : Nat
  bound : Bool
  head : Nat
  tail : Nat
  ringPa : Nat
  /-- Physical address of each 64 KiB page of the spill ring. -/
  spillPages : List Nat
  ents : List (BitVec 128)
  deriving DecidableEq, Repr

/-- A lane that waits at a queue's controller (R336). -/
structure QWait where
  part : Nat
  q : Nat
  op : Nat
  lane : Nat
  deriving DecidableEq, Repr

/-! ### Tier engine -/

/-- A region of a partition in the tier engine's lists: translation context and 2 MiB region of virtual space. -/
structure TReg where
  part : Nat
  tctx : Nat
  va : Nat
  deriving DecidableEq, Repr

/-- A region move in progress (R86): from the old frame to the new one. -/
structure Move where
  reg : TReg
  old : Nat
  new : Nat
  promote : Bool
  start : Nat
  deriving DecidableEq, Repr

/-- A swap (R84) or an on-demand promotion (R90) of a partition: what is still to be moved. -/
structure Swap where
  part : Nat
  out : Option Nat
  todo : List TReg
  demand : Bool
  deriving DecidableEq, Repr

/-- The tier engine (R81 to R90). -/
structure Tier where
  touched : List TReg
  record : List TReg
  moves : List (Nat × Move)
  swaps : List Swap
  deriving DecidableEq, Repr

/-! ### Control, host, fabric, service -/

/-- One 2 MiB region of the ownership map (R29): owner, executable, exported, and the loader's mark (R419). -/
structure Own where
  owner : Option Nat
  ex : Bool
  exported : Bool
  loading : Bool
  deriving DecidableEq, Repr

/-- Control registers that only Arbor writes, and the package's place in its domain (R445). Registers of one kind
stand at the number of their partition, share or context; an unlisted one holds its reset value. -/
structure Ctl where
  pkg : Nat
  domain : Nat
  ready : Bool
  degraded : Bool
  tctx : SMap DWord
  tierctl : SMap Word
  txctl : SMap Word
  stallctl : SMap Word
  schedctl : SMap Word
  cshare : SMap DWord
  pctl : SMap Word
  /-- FLOOR of channel c for partition p at key 1024·p + c (R91); units granted in this window likewise (R92). -/
  floor : SMap (BitVec 9)
  granted : SMap Nat
  acct : SMap Nat
  /-- Operating point of each die, the point Arbor sets as its default, the requested point, and how far the power
  controller holds it down (R14, R17, R183). -/
  point : SMap Nat
  defPoint : SMap Nat
  want : SMap Nat
  limit : SMap Nat
  /-- Partition by DTID and package: key 65536·package + DTID (R390). -/
  dtid : SMap Nat
  /-- Physical addresses of each partition's save area and eviction area, 0 where Arbor has granted none (R190, R382). -/
  saveArea : SMap Nat
  evictArea : SMap Nat
  /-- The timestamp at which this package last left reset: the cycle counter of its base-die cores starts there (R446). -/
  epoch : Nat
  /-- Settings of PCTL_p that would end the turn of a partition, until it has left its share (notes/assumptions/50.md). -/
  pctlHold : List (Nat × Word)
  /-- Where the image of a switched-out partition stands in its save area (R382). -/
  images : List (Nat × Nat)
  /-- The physical address of the error log's ring, 0 where Arbor has named none (R439; notes/assumptions/104.md). -/
  logRing : Nat
  deriving DecidableEq, Repr

/-- An event entry (R414). -/
structure Event where
  kind : Nat
  lost : Nat
  source : Nat
  m : Nat
  tstamp : Nat
  arg0 : DWord
  arg1 : DWord
  deriving DecidableEq, Repr

/-- A completion entry (R412). -/
structure CEntry where
  tag : DWord
  state : Nat
  cause : Nat
  tstart : Nat
  tend : Nat
  deriving DecidableEq, Repr

/-- What the package has handed to the outside: mailbox replies, control replies, event and completion entries,
messages to other packages. -/
inductive Out where
  | mail (part status : Nat)
  | ctl (vf status : Nat) (data : List Byte)
  | event (vf : Nat) (e : Event)
  | completion (vf : Nat) (e : CEntry)
  | ready (gid : BitVec 32) (q : Nat) (digest : BitVec 384)
  | go (gid : BitVec 32)
  | cancel (gid : BitVec 32)
  | ack (gid : BitVec 32) (q : Nat)
  | abort (gid : BitVec 32) (missing : List Nat)
  | chunk (dtid : Nat) (cid : BitVec 32) (rank : Nat) (head : CollHead) (elems : List Int)
  | remoteReply (src : Nat) (cause : Nat) (data : BitVec 128)
  deriving DecidableEq, Repr

/-- A virtual function (R411 to R414). -/
structure Vf where
  featuresOk : Bool
  features : DWord
  events : List Event
  lost : Nat
  compl : List CEntry
  session : Bool
  handshake : Nat
  deriving DecidableEq, Repr

/-- An attested partition (R417, R418): image keys and the attestation record. -/
structure Attest where
  keys : List (Nat × List Byte)
  record : BitVec 384
  count : Nat
  deriving DecidableEq, Repr

/-- A load in progress (R419): the segment it works on, its header and entry as they were checked, the physical memory that was
marked for it, and where the data and launch-template segments before it lie (offset from the load base, size, physical
memory). -/
structure Load where
  vf : Nat
  part : Nat
  tctx : Nat
  va : DWord
  base : DWord
  seg : Nat
  header : Nat
  entry : Nat
  earlier : List (Nat × Nat × List (Nat × Nat))
  parts : List (Nat × Nat)
  deriving DecidableEq, Repr

/-- A collective open on this package (R397, R400): what has arrived. -/
structure Coll where
  dtid : Nat
  cid : BitVec 32
  own : Option (Nat × Nat)
  members : List Nat
  heads : List (Nat × CollHead)
  elems : List (Nat × List Int)
  tmo : Nat
  start : Nat
  failed : Option Nat
  deriving DecidableEq, Repr

/-- A package error-log record (R439). -/
structure ErrRec where
  kind : BitVec 8
  unit : BitVec 8
  source : BitVec 16
  part : BitVec 5
  tstamp : Nat
  pa : DWord
  seq : Nat
  count : BitVec 32
  /-- The place of the ring in which it stands. -/
  slot : Nat
  deriving DecidableEq, Repr

/-- Fabric (R389, R400). -/
structure Fab where
  ports : BitVec 18
  colls : List Coll
  expired : List (Nat × BitVec 32 × Nat)
  deriving DecidableEq, Repr

/-- Service and host side. -/
structure Svc where
  vfs : List (Nat × Vf)
  attest : List (Nat × Attest)
  loads : List (Nat × Load)
  log : List ErrRec
  /-- Records that wait at their writers for room in the ring (R439). -/
  logWait : List ErrRec
  logSeq : Nat
  /-- Corrected errors of the last second: unit, source number, time and how many (R439, R441). -/
  corrected : List (Nat × Nat × Nat × Nat)
  /-- Words of arrays that hold an uncorrectable error: physical addresses of 8-byte words (R370, R440). -/
  bad : List Nat
  /-- The same of clean sectors in L2 slices; of the bank stores, byte b of core c at 0x180000·c + b; of operand memory, a core
  with the key of a slot, or that of an accumulator plus 2^20 (R438). -/
  badL2 : List Nat
  badBank : List Nat
  badOper : List (Nat × Nat)
  out : List Out
  /-- Spares in use, by unit kind and place (R9); units out of service waiting for a swap; units to retire at reset. -/
  spares : SMap Nat
  swapping : List SpareUnit
  retire : List SpareUnit
  /-- A KIND 4 record has been written since reset (R442). -/
  failed : Bool
  deriving DecidableEq, Repr

/-! ### Tenant switch -/

/-- The phases of a tenant switch (R379). -/
inductive Phase where
  | idle | halt | quiesce | save | scrub | restore
  deriving DecidableEq, Repr

/-- A core share's turn-taking (R409): who runs, the phase of a switch, who comes next, since when. -/
structure Share where
  running : Option Nat
  phase : Phase
  out : Nat
  next : Option Nat
  since : Nat
  /-- When the outgoing partition's context counted as stopped (R379, R382). -/
  stop : Nat
  deriving DecidableEq, Repr

/-! ### The model's own control -/

/-- Who moves next: an event, a cohort that issues, a base-die hart that executes, or the units of the package with what
waits in them: an engine write on its way (R115), writes at a page that moves (R37), replies (R378), restarts (R366). -/
inductive Turn where
  | event (i : Instr)
  | cohort (c : Nat)
  | hart (h : Nat)
  | units
  deriving DecidableEq, Repr

/-- The word that is being issued: its cohort, the group's lanes, its PC, and the header's fields; the hart for a
base-die word. `stall` where the word did not issue. -/
structure Issue where
  coh : Nat
  lanes : LaneMask
  pc : DWord
  nw : Nat
  sfa : Nat
  sfb : Nat
  yld : Bool
  hart : Nat
  stall : Bool
  deriving DecidableEq, Repr

/-- A write of a unit to an address space that waits at a leaf with MV = 1 (R37): n bytes of a value, and since when. The
writes for one grid keep their order; `note` is the completion entry that follows the write (R184, R412). -/
structure LateWrite where
  part : Nat
  tctx : Nat
  va : Nat
  n : Nat
  v : Nat
  since : Nat
  grid : Nat
  note : Option (Nat × CEntry)
  deriving DecidableEq, Repr

/-- Who reads or writes an address space and is no lane and no engine: a submission of a virtual function, the scheduler for
a grid, a load, the spawn former for a lane, the set-up of a queue. -/
inductive MvUnit where
  | submit (vf : Nat)
  | grid (k : Nat)
  | load (vf : Nat)
  | spawn (coh lane : Nat)
  | queue (part q : Nat)
  deriving DecidableEq, Repr

/-- Such a unit waits at a page that reads MV = 1, since a time (R37). -/
structure MvWait where
  who : MvUnit
  tctx : Nat
  va : Nat
  since : Nat
  deriving DecidableEq, Repr

/-- Some bytes that an engine command has issued to their home and that are not performed there yet (R115); `route` the
package and port on which they were sent to another package (R12). -/
structure EngWrite where
  core : Nat
  part : Nat
  pa : Nat
  n : Nat
  v : Nat
  route : Option (Nat × Nat)
  deriving DecidableEq, Repr

/-- The state of the package. -/
structure State where
  ctl : Ctl
  /-- Physical memory of the domain by 52-bit physical address, package number included (R26, R27). -/
  mem : List Host.Cell
  own : List (Nat × Own)
  /-- Bank-store rows for scratchpads: byte b of core c at key 0x180000·c + b (R50). -/
  bank : List Host.Cell
  cohorts : List (Nat × Cohort)
  blocks : List (Nat × Block)
  placed : List (Nat × Placed)
  grids : List (Nat × Grid)
  cores : List (Nat × Core)
  cluTlb : List (Nat × List TlbE)
  constC : List (Nat × List CLine)
  /-- The lines of each L2 slice, at 160·die + slice (R72, R73). -/
  l2 : List (Nat × List L2Line)
  /-- The walk cache of each die (R40). -/
  walkC : List (Nat × List PtrE)
  late : List LateWrite
  mvWaits : List MvWait
  /-- Engine writes on their way, oldest first (R115). -/
  ewr : List EngWrite
  ops : List (Nat × Op)
  pulls : List (Nat × Pull)
  transit : List (Nat × Transit)
  walks : List (Nat × Walk)
  invals : List (Nat × Inval)
  kiosk : Kiosk
  harts : List (Nat × Hart)
  traps : Traps
  /-- QDESC_q of partition p at key 256·p + q. -/
  queues : List (Nat × QDesc)
  qwaits : List QWait
  tier : Tier
  fab : Fab
  svc : Svc
  shares : List (Nat × Share)
  serials : SMap Nat
  cur : Issue
  agenda : List Turn
  time : Nat
  fresh : Nat
  deriving DecidableEq, Repr

/-- Nothing is issuing. -/
def Issue.none : Issue := ⟨0, 0, 0, 0, 15, 15, false, 0, false⟩

/-- Control registers at reset (R30, R81, R128, R168, R175, R407, R408: an unlisted register reads its reset value).
The package number, the domain and the ports are the model's (notes/assumptions/3.md). -/
def Ctl.reset : Ctl :=
  ⟨0, 576, false, false, [], [], [], [], [], [], [], [], [], [], [], [], [], [], [], [], [], 0, [], [], 0⟩

/-- A base-die hart at reset (notes/assumptions/6.md). -/
def Hart.reset : Hart :=
  ⟨[], [], 0, 31, ⟨0, 0, 0, 0, 0, 0⟩, ⟨0, 0, 0, 0, 0, 0⟩, 0, false, none, none, 0, none, 0, none⟩

/-- The package right after reset (R445): no partition, no context in use, every memory, cache and table empty. -/
def State.reset : State where
  ctl := .reset
  mem := []
  own := []
  bank := []
  cohorts := []
  blocks := []
  placed := []
  grids := []
  cores := []
  cluTlb := []
  constC := []
  l2 := []
  walkC := []
  late := []
  mvWaits := []
  ewr := []
  ops := []
  pulls := []
  transit := []
  walks := []
  invals := []
  kiosk := ⟨1, []⟩
  harts := []
  traps := ⟨[], [], [], [], []⟩
  queues := []
  qwaits := []
  tier := ⟨[], [], [], []⟩
  fab := ⟨0x3FFFF#18, [], []⟩
  svc := ⟨[], [], [], [], [], 0, [], [], [], [], [], [], [], [], [], false⟩
  shares := []
  serials := []
  cur := .none
  agenda := []
  time := 0
  fresh := 0

end Sys2Proof.Machine
end

