-- ==== Sys2Proof/Machine/Sparse.lean ====
section
/-! DEFINITION. Sparse data by key: association lists with rising keys, read and written in one place. -/

namespace Sys2Proof.Machine

variable {α : Type}

/-- The value listed at a key. -/
def look : List (Nat × α) → Nat → Option α
  | [], _ => none
  | (k', v) :: t, k => if k = k' then some v else look t k

/-- The value at a key, `d` where none is listed. -/
def getD (m : List (Nat × α)) (k : Nat) (d : α) : α := (look m k).getD d

/-- Lists a value at a key. -/
def set : List (Nat × α) → Nat → α → List (Nat × α)
  | [], k, v => [(k, v)]
  | (k', v') :: t, k, v =>
    if k < k' then (k, v) :: (k', v') :: t else if k = k' then (k, v) :: t else (k', v') :: set t k v

/-- Unlists a key. -/
def del (m : List (Nat × α)) (k : Nat) : List (Nat × α) := m.filter (fun e => e.1 != k)

/-- Writes a value where unlisted keys read `d`: writing `d` unlists the key. -/
def put [DecidableEq α] (m : List (Nat × α)) (k : Nat) (v d : α) : List (Nat × α) :=
  if v = d then del m k else set m k v

/-- Changes the value listed at a key; nothing where none is listed. -/
def upd (m : List (Nat × α)) (k : Nat) (f : α → α) : List (Nat × α) :=
  match look m k with
  | some v => set m k (f v)
  | none => m

/-- Keys rise strictly. -/
def sorted : List (Nat × α) → Bool
  | [] => true
  | [_] => true
  | (a, _) :: (b, v) :: t => a < b && sorted ((b, v) :: t)

/-- The canonical form: keys rise strictly and no entry equals what an unlisted key reads as. -/
def canon [DecidableEq α] (m : List (Nat × α)) (d : α) : Bool := sorted m && m.all (fun p => p.2 ≠ d)

/-- A key that no entry of the list has: one above the last. -/
def freshKey : List (Nat × α) → Nat
  | [] => 0
  | (k, _) :: t => max (k + 1) (freshKey t)

/-- Sorted by a measure, smallest first, equals in their order. -/
def sortOn (f : α → Nat) (l : List α) : List α :=
  l.foldl (fun acc x => acc.takeWhile (fun y => f y ≤ f x) ++ [x] ++ acc.dropWhile (fun y => f y ≤ f x)) []

/-- `n` consecutive numbers from `a`. -/
def upto (a n : Nat) : List Nat := (List.range n).map (a + ·)

/-- The bytes of a number at consecutive addresses, least significant first (R4). -/
def putBytes (m : List Host.Cell) (a n : Nat) (v : Nat) : List Host.Cell :=
  (List.range n).foldl (fun m i => put m (a + i) (BitVec.ofNat 8 (v >>> (8 * i))) 0) m

/-- The number that `n` consecutive bytes hold, least significant first (R4). -/
def getBytes (m : List Host.Cell) (a n : Nat) : Nat :=
  (List.range n).foldr (fun i acc => (getD m (a + i) 0).toNat + 256 * acc) 0

end Sys2Proof.Machine
end

