-- ==== Sys2Proof/Machine/Num.lean ====
section
/-! DEFINITION. Numbers (R199 to R224): formats, exact values, the one rounding, stochastic rounding, block floating
point, WX sums, special functions. An exact value is a sign and n/d times a power of two. -/

namespace Sys2Proof.Machine

/-! ### Formats -/

/-- A floating format (R200): exponent and fraction bits, bias, and whether it is E4M3. -/
structure Fmt where
  eb : Nat
  mb : Nat
  bias : Nat
  e4 : Bool
  deriving DecidableEq, Repr

def Fmt.fp32 : Fmt := ⟨8, 23, 127, false⟩
def Fmt.fp64 : Fmt := ⟨11, 52, 1023, false⟩
def Fmt.bf16 : Fmt := ⟨8, 7, 127, false⟩
def Fmt.fp16 : Fmt := ⟨5, 10, 15, false⟩
def Fmt.e5m2 : Fmt := ⟨5, 2, 15, false⟩
def Fmt.e4m3 : Fmt := ⟨4, 3, 7, true⟩

/-- Bits of an element. -/
def Fmt.width (f : Fmt) : Nat := 1 + f.eb + f.mb

/-- Exponent of the smallest normal number. -/
def Fmt.emin (f : Fmt) : Int := 1 - f.bias

/-- The largest finite number is `maxM` times 2^`maxQ`. -/
def Fmt.maxM (f : Fmt) : Nat := if f.e4 then 14 else 2 ^ (f.mb + 1) - 1
def Fmt.maxE (f : Fmt) : Int := (if f.e4 then 2 ^ f.eb - 1 else 2 ^ f.eb - 2 : Nat) - (f.bias : Int)
def Fmt.maxQ (f : Fmt) : Int := f.maxE - f.mb

def Fmt.signBit (f : Fmt) (neg : Bool) : Nat := if neg then 2 ^ (f.eb + f.mb) else 0

/-- The canonical NaN (R200). -/
def Fmt.nan (f : Fmt) : Nat := if f.e4 then 0x7F else (2 ^ f.eb - 1) * 2 ^ f.mb + 2 ^ (f.mb - 1)

def Fmt.inf (f : Fmt) (neg : Bool) : Nat := f.signBit neg + (2 ^ f.eb - 1) * 2 ^ f.mb

def Fmt.maxFin (f : Fmt) (neg : Bool) : Nat :=
  f.signBit neg + (if f.e4 then 0x7E else (2 ^ f.eb - 1) * 2 ^ f.mb - 1)

/-- What a bit pattern denotes: a NaN (signalling or quiet), an infinity, or (−1)^neg · m · 2^e. -/
inductive FVal where
  | nan (sig : Bool)
  | inf (neg : Bool)
  | fin (neg : Bool) (m : Nat) (e : Int)
  deriving DecidableEq, Repr

/-- The value of a bit pattern (R200). -/
def Fmt.dec (f : Fmt) (b : Nat) : FVal :=
  let neg := (b >>> (f.eb + f.mb)) % 2 == 1
  let ex := (b >>> f.mb) % 2 ^ f.eb
  let fr := b % 2 ^ f.mb
  if f.e4 then
    if ex = 15 ∧ fr = 7 then .nan false
    else if ex = 0 then .fin neg fr (f.emin - f.mb) else .fin neg (2 ^ f.mb + fr) ((ex : Int) - f.bias - f.mb)
  else if ex = 2 ^ f.eb - 1 then (if fr = 0 then .inf neg else .nan (fr < 2 ^ (f.mb - 1)))
  else if ex = 0 then .fin neg fr (f.emin - f.mb)
  else .fin neg (2 ^ f.mb + fr) ((ex : Int) - f.bias - f.mb)

def FVal.isNan : FVal → Bool
  | .nan _ => true
  | _ => false

def FVal.isSig : FVal → Bool
  | .nan s => s
  | _ => false

def FVal.isInf : FVal → Bool
  | .inf _ => true
  | _ => false

def FVal.isZero : FVal → Bool
  | .fin _ m _ => m == 0
  | _ => false

def FVal.neg : FVal → Bool
  | .nan _ => false
  | .inf n => n
  | .fin n _ _ => n

def FVal.flip : FVal → FVal
  | .nan s => .nan s
  | .inf n => .inf (!n)
  | .fin n m e => .fin (!n) m e

/-! ### Numeric flags (R208) -/

abbrev NFlags := BitVec 5

def fIV : NFlags := 16
def fDZ : NFlags := 8
def fOF : NFlags := 4
def fUF : NFlags := 2
def fNX : NFlags := 1

/-! ### Rounding -/

/-- An exact magnitude n/d · 2^e with a sign (d positive). -/
structure Exact where
  neg : Bool
  n : Nat
  d : Nat
  e : Int
  deriving DecidableEq, Repr

/-- 2^k for k ≥ 0, and 1 otherwise. -/
def pow2 (k : Int) : Nat := 2 ^ k.toNat

/-- The magnitude divided by 2^q as a fraction: numerator and denominator. -/
def Exact.over (x : Exact) (q : Int) : Nat × Nat := (x.n * pow2 (x.e - q), x.d * pow2 (q - x.e))

/-- ⌊log2⌋ of a non-zero magnitude. -/
def Exact.log (x : Exact) : Int :=
  let k : Int := (Nat.log2 x.n : Int) - (Nat.log2 x.d : Int) + x.e
  let f := x.over k
  if f.2 ≤ f.1 then k else k - 1

/-- Rounds n/d to an integer by a rounding code (R203); `r` is the draw of R206 for SR. -/
def roundQ (mode : Rnd) (neg : Bool) (r : Nat) (n d : Nat) : Nat :=
  let q := n / d
  let m := n % d
  if m = 0 then q
  else
    match mode with
    | .rne => if 2 * m < d then q else if d < 2 * m then q + 1 else if q % 2 = 0 then q else q + 1
    | .rtz => q
    | .rdn => if neg then q + 1 else q
    | .rup => if neg then q else q + 1
    | .sr =>
      -- f is measured from lo to hi; for a negative value lo has the larger magnitude
      if neg then (if r < ((d - m) * 2 ^ 32) / d then q else q + 1)
      else (if r < (m * 2 ^ 32) / d then q + 1 else q)

/-- The draw of R206 for an element index and a launch seed. -/
def srDraw (seed idx : Nat) : Nat :=
  let w := 2 ^ 64
  let z := (idx % w) ^^^ ((seed * 0x9E3779B97F4A7C15) % w)
  let z := ((z ^^^ (z >>> 30)) * 0xBF58476D1CE4E5B9) % w
  let z := ((z ^^^ (z >>> 27)) * 0x94D049BB133111EB) % w
  let z := z ^^^ (z >>> 31)
  z >>> 32

/-- How an operation rounds: code, saturation, flush, the draw for SR. -/
structure RMode where
  rnd : Rnd
  sat : Bool
  ftz : Bool
  r : Nat
  deriving DecidableEq, Repr

def RMode.rne : RMode := ⟨.rne, false, false, 0⟩

/-- The result of an overflow (R204). -/
def Fmt.ovf (f : Fmt) (m : RMode) (neg : Bool) : Nat :=
  if m.sat then f.maxFin neg
  else if f.e4 then f.nan
  else
    match m.rnd with
    | .rne => f.inf neg
    | .sr => f.inf neg
    | .rtz => f.maxFin neg
    | .rdn => if neg then f.inf neg else f.maxFin neg
    | .rup => if neg then f.maxFin neg else f.inf neg

/-- Bits of (−1)^neg · m · 2^q for a representable m and q. -/
def Fmt.enc (f : Fmt) (neg : Bool) (m : Nat) (q : Int) : Nat :=
  f.signBit neg +
    (if m < 2 ^ f.mb then m else ((q + f.mb + f.bias).toNat) * 2 ^ f.mb + (m - 2 ^ f.mb))

/-- A non-zero exact value is tiny: below the smallest normal magnitude once it is rounded as if the exponent range were unbounded
(R203). -/
def Fmt.tiny (f : Fmt) (md : RMode) (x : Exact) : Bool :=
  let l := x.log
  let ufr := x.over (l - f.mb)
  l < f.emin && !(l == f.emin - 1 && roundQ md.rnd x.neg md.r ufr.1 ufr.2 == 2 ^ (f.mb + 1))

/-- Rounds once from the exact value (R203 to R207), with its flags. A zero keeps its sign. -/
def Fmt.round (f : Fmt) (md : RMode) (x : Exact) : Nat × NFlags :=
  if x.n = 0 then (f.signBit x.neg, 0)
  else
    let l := x.log
    let q := max l f.emin - f.mb
    let fr := x.over q
    let m0 := roundQ md.rnd x.neg md.r fr.1 fr.2
    let inexact : Bool := fr.1 % fr.2 != 0
    -- a carry out of the fraction
    let m := if m0 = 2 ^ (f.mb + 1) then 2 ^ f.mb else m0
    let q' := if m0 = 2 ^ (f.mb + 1) then q + 1 else q
    if f.maxQ < q' ∨ (q' = f.maxQ ∧ f.maxM < m) then (f.ovf md x.neg, fOF ||| fNX)
    else
      -- under SR tininess is judged by the delivered result
      let tiny : Bool :=
        match md.rnd with
        | .sr => m < 2 ^ f.mb
        | _ => f.tiny md x
      if tiny && md.ftz then (f.signBit x.neg, fUF ||| fNX)
      else
        (f.enc x.neg m q',
          (if inexact then fNX else 0) ||| (if tiny && inexact then fUF else 0))

/-! ### Exact sums and products -/

/-- A finite value as a signed multiple of a power of two. -/
def FVal.dy : FVal → Int × Int
  | .fin neg m e => (if neg then -(m : Int) else m, e)
  | _ => (0, 0)

/-- Exact sum of signed multiples of powers of two. -/
def dySum (l : List (Int × Int)) : Int × Int :=
  l.foldl (fun (a : Int × Int) (b : Int × Int) =>
    let e := min a.2 b.2
    (a.1 * (pow2 (a.2 - e) : Int) + b.1 * (pow2 (b.2 - e) : Int), e)) (0, 0)

/-- The exact value of a signed multiple of a power of two; `zneg` is the sign of a zero. -/
def exactOf (p : Int × Int) (zneg : Bool) : Exact :=
  if p.1 = 0 then ⟨zneg, 0, 1, 0⟩ else ⟨p.1 < 0, p.1.natAbs, 1, p.2⟩

/-- The sign of an exact zero sum of terms (IEEE 754): the terms' common sign, else − only under RDN. -/
def zeroSign (rnd : Rnd) (negs : List Bool) : Bool :=
  if negs.all id then true else if negs.all (!·) then false else rnd == .rdn

/-- A subnormal source reads as zero under flush (R207). -/
def Fmt.ftzIn (f : Fmt) (ftz : Bool) : FVal → FVal
  | .fin neg m e => if ftz ∧ m < 2 ^ f.mb then .fin neg 0 e else .fin neg m e
  | v => v

/-- IV of a signalling NaN among the sources. -/
def sigIV (vs : List FVal) : NFlags := if vs.any FVal.isSig then fIV else 0

/-- Sum of two values, rounded once (R272). -/
def Fmt.add (f : Fmt) (md : RMode) (a b : FVal) : Nat × NFlags :=
  match a, b with
  | .inf p, .inf q => if p = q then (f.inf p, 0) else (f.nan, fIV)
  | .nan s, .nan t => (f.nan, sigIV [.nan s, .nan t])
  | .nan s, _ => (f.nan, sigIV [.nan s])
  | _, .nan s => (f.nan, sigIV [.nan s])
  | .inf p, _ => (f.inf p, 0)
  | _, .inf p => (f.inf p, 0)
  | .fin p m e, .fin q n g =>
    f.round md (exactOf (dySum [(FVal.fin p m e).dy, (FVal.fin q n g).dy]) (zeroSign md.rnd [p, q]))

/-- Product of two values, rounded once (R272). -/
def Fmt.mul (f : Fmt) (md : RMode) (a b : FVal) : Nat × NFlags :=
  match a, b with
  | .nan s, .nan t => (f.nan, sigIV [.nan s, .nan t])
  | .nan s, _ => (f.nan, sigIV [.nan s])
  | _, .nan s => (f.nan, sigIV [.nan s])
  | .inf p, v => if v.isZero then (f.nan, fIV) else (f.inf (p != v.neg), 0)
  | v, .inf p => if v.isZero then (f.nan, fIV) else (f.inf (p != v.neg), 0)
  | .fin p m e, .fin q n g => f.round md ⟨p != q, m * n, 1, e + g⟩

/-- a·b + c rounded once; 0·∞ is invalid whatever c holds (R272). -/
def Fmt.fma (f : Fmt) (md : RMode) (a b c : FVal) : Nat × NFlags :=
  let zi := (a.isInf && b.isZero) || (a.isZero && b.isInf)
  if zi then (f.nan, fIV)
  else if a.isNan || b.isNan || c.isNan then (f.nan, sigIV [a, b, c])
  else
    let pn := a.neg != b.neg
    if a.isInf || b.isInf then
      (match c with
       | .inf q => if q = pn then (f.inf pn, 0) else (f.nan, fIV)
       | _ => (f.inf pn, 0))
    else
      match c with
      | .inf q => (f.inf q, 0)
      | _ =>
        let da := a.dy
        let db := b.dy
        f.round md (exactOf (dySum [(da.1 * db.1, da.2 + db.2), c.dy]) (zeroSign md.rnd [pn, c.neg]))

/-- a · 2^k rounded once (R272): ±∞ and ±0 pass unchanged. -/
def Fmt.scale (f : Fmt) (md : RMode) (a : FVal) (k : Int) : Nat × NFlags :=
  match a with
  | .nan s => (f.nan, sigIV [.nan s])
  | .inf p => (f.inf p, 0)
  | .fin p m e => f.round md ⟨p, m, 1, e + k⟩

/-- Rounds to an integral value in the same format (R272, FRINT). -/
def Fmt.rint (f : Fmt) (md : RMode) (a : FVal) : Nat × NFlags :=
  match a with
  | .nan s => (f.nan, sigIV [.nan s])
  | .inf p => (f.inf p, 0)
  | .fin p m e =>
    let fr := (Exact.mk p m 1 e).over 0
    let i := roundQ md.rnd p md.r fr.1 fr.2
    ((f.round .rne ⟨p, i, 1, 0⟩).1, if fr.1 % fr.2 = 0 then 0 else fNX)

/-- Order of two values that are no NaNs; −0 below +0 where `tot` (R273, R274). -/
def fLt (tot : Bool) (a b : FVal) : Bool :=
  match a, b with
  | .inf p, .inf q => p && !q
  | .inf p, _ => p
  | _, .inf q => !q
  | a, b =>
    let s := dySum [a.dy, (b.flip).dy]
    if s.1 < 0 then true
    else if s.1 = 0 then tot && a.isZero && b.isZero && a.neg && !b.neg
    else false

/-- Bits of a value that stands in the format already. -/
def Fmt.bits (f : Fmt) (v : FVal) : Nat :=
  match v with
  | .nan _ => f.nan
  | .inf p => f.inf p
  | .fin p m e => (f.round .rne ⟨p, m, 1, e⟩).1

/-- FMIN (`mx` false) and FMAX (R273), with FTZ on the result. -/
def Fmt.minmax (f : Fmt) (mx ftz : Bool) (a b : FVal) : Nat × NFlags :=
  let a := f.ftzIn ftz a
  let b := f.ftzIn ftz b
  let fl := sigIV [a, b]
  let r := if a.isNan then b else if b.isNan then a else if fLt true a b then (if mx then b else a) else (if mx then a else b)
  (f.bits r, fl)

/-- FCLASS's mask (R274). -/
def Fmt.classify (f : Fmt) (v : FVal) : Nat :=
  match v with
  | .nan true => 2 ^ 8
  | .nan false => 2 ^ 9
  | .inf p => if p then 1 else 2 ^ 7
  | .fin p m _ =>
    if m = 0 then (if p then 2 ^ 3 else 2 ^ 4)
    else if m < 2 ^ f.mb then (if p then 2 ^ 2 else 2 ^ 5)
    else (if p then 2 ^ 1 else 2 ^ 6)

/-- FCMP (R274): the predicate and IV. -/
def fcmpVal (c : FCond) (a b : FVal) : Bool × NFlags :=
  let un := a.isNan || b.isNan
  let lt := !un && fLt false a b
  let gt := !un && fLt false b a
  let eq := !un && !lt && !gt
  let sg := sigIV [a, b]
  let qiv := sg ||| (if un then fIV else 0)
  match c with
  | .eq => (eq, sg)
  | .ne => (!eq, sg)
  | .lt => (lt, qiv)
  | .le => (lt || eq, qiv)
  | .gt => (gt, qiv)
  | .ge => (gt || eq, qiv)
  | .un => (un, sg)
  | .orr => (!un, sg)

/-! ### Conversions (R209, R210, R278) -/

/-- Float to the same float: the value unchanged, a NaN canonical (R278). -/
def Fmt.same (f : Fmt) (v : FVal) : Nat × NFlags :=
  match v with
  | .nan s => (f.nan, sigIV [.nan s])
  | .inf p => (f.inf p, 0)
  | .fin p m e => f.round .rne ⟨p, m, 1, e⟩

/-- Float to float; a source infinity under saturation becomes the largest finite value, and in E4M3 the canonical NaN
with IV otherwise (R204). -/
def Fmt.conv (f : Fmt) (md : RMode) (v : FVal) : Nat × NFlags :=
  match v with
  | .nan s => (f.nan, sigIV [.nan s])
  | .inf p => if md.sat then (f.maxFin p, 0) else if f.e4 then (f.nan, fIV) else (f.inf p, 0)
  | .fin p m e => f.round md ⟨p, m, 1, e⟩

/-- Float to an integer between two bounds (R210). -/
def toInt (rnd : Rnd) (r : Nat) (lo hi : Int) (v : FVal) : Int × NFlags :=
  match v with
  | .nan _ => (0, fIV)
  | .inf p => (if p then lo else hi, fIV)
  | .fin p m e =>
    let fr := (Exact.mk p m 1 e).over 0
    let i : Int := roundQ rnd p r fr.1 fr.2
    let i := if p then -i else i
    if i < lo then (lo, fIV) else if hi < i then (hi, fIV) else (i, if fr.1 % fr.2 = 0 then 0 else fNX)

/-- Integer to float. -/
def Fmt.ofInt (f : Fmt) (md : RMode) (i : Int) : Nat × NFlags := f.round md ⟨i < 0, i.natAbs, 1, 0⟩

/-! ### Sums of many terms (R220, R283) -/

/-- Rounds the exact sum of terms, with their special values; `negs` are the signs that settle a zero sum. -/
def Fmt.sum (f : Fmt) (md : RMode) (rdnNeg : Bool) (vs : List FVal) : Nat × NFlags :=
  if vs.any FVal.isNan || (vs.any (· == .inf true) && vs.any (· == .inf false)) then (f.nan, fIV)
  else
    match vs.find? FVal.isInf with
    | some v => (f.inf v.neg, 0)
    | none =>
      let z := vs.all (fun v => v.isZero && v.neg) || (rdnNeg && md.rnd == .rdn)
      f.round md (exactOf (dySum (vs.map FVal.dy)) z)

/-- An exact product as a value: NaN where a factor is, 0·∞ invalid (as NaN), sign kept on zero. -/
def fmulExact (a b : FVal) : FVal :=
  if a.isNan || b.isNan then .nan false
  else if (a.isInf && b.isZero) || (a.isZero && b.isInf) then .nan true
  else if a.isInf || b.isInf then .inf (a.neg != b.neg)
  else
    match a, b with
    | .fin p m e, .fin q n g => .fin (p != q) (m * n) (e + g)
    | _, _ => .nan false

/-! ### Format codes, block floating point (R199, R211 to R213) -/

/-- The floating format of a code 0 to 4 or 13 (R199). -/
def fmtOf (code : Nat) : Option Fmt :=
  match code with
  | 0 => some .fp32 | 1 => some .bf16 | 2 => some .fp16 | 3 => some .e4m3 | 4 => some .e5m2 | 13 => some .fp64
  | _ => none

def isBfp (code : Nat) : Bool := 5 ≤ code && code ≤ 11

/-- Mantissa bits of a BFP code. -/
def bfpM (code : Nat) : Nat := 13 - code

/-- Block size of a BSZ field (R221). -/
def blockSize (bsz : Nat) : Nat := if bsz = 0 then 32 else if bsz = 1 then 16 else 64

/-- The value of one BFP element: mantissa M (as a signed integer) under scale S (R211). -/
def bfpVal (m : Nat) (S : Nat) (M : Int) : FVal :=
  let E := S / 4 % 256
  let F := S % 4
  if E = 255 then .nan false
  else if E = 0 then .fin false 0 0
  else .fin (M < 0) (M.natAbs * (4 + F)) ((E : Int) - 127 - (m - 1 : Nat) - 2)

/-- σ(S) as a multiple of a power of two (R211). -/
def sigma (S : Nat) : Nat × Int := (4 + S % 4, (S / 4 % 256 : Nat) - 127 - 2)

/-- a < σ(S) for a finite magnitude a = m · 2^e. -/
def belowSigma (m : Nat) (e : Int) (S : Nat) : Bool :=
  let s := sigma S
  let k := min e s.2
  m * pow2 (e - k) < s.1 * pow2 (s.2 - k)

/-- The scale of source 0 (R213): the smallest S in 0x004 to 0x3FB with a < σ(S). σ rises strictly with S, so the
search halves. -/
def scaleFor (m : Nat) (e : Int) : Nat :=
  if m = 0 then 0
  else if !belowSigma m e 0x3FB then 0x3FB
  else
    let rec go : Nat → Nat → Nat → Nat
      | 0, _, hi => hi
      | k + 1, lo, hi =>
        if lo < hi then
          let mid := (lo + hi) / 2
          if belowSigma m e mid then go k lo mid else go k (mid + 1) hi
        else hi
    go 11 4 0x3FB

/-- The larger of two magnitudes m · 2^e. -/
def maxMag (a b : Nat × Int) : Nat × Int :=
  let k := min a.2 b.2
  if a.1 * pow2 (a.2 - k) < b.1 * pow2 (b.2 - k) then b else a

/-- One BFP element under scale S (R213): mantissa and flags. `src0`: per-block maximum. -/
def bfpElem (m : Nat) (S : Nat) (md : RMode) (src0 aBelow : Bool) (v : FVal) : Int × NFlags :=
  match v with
  | .fin p k e =>
    let s := sigma S
    let x : Exact := ⟨p, k, s.1, e + (m - 1 : Nat) - s.2⟩
    let fr := x.over 0
    let i : Int := roundQ md.rnd p md.r fr.1 fr.2
    let i := if p then -i else i
    let top : Int := 2 ^ (m - 1)
    let c := if top - 1 < i then top - 1 else if i < -top then -top else i
    let clamped := c ≠ i
    let nx := fr.1 % fr.2 ≠ 0 ∨ clamped ∨ (S / 4 % 256 = 0 ∧ k ≠ 0)
    let ovf := clamped ∧ ¬ src0 ∧ ¬ (i = top ∧ aBelow)
    (c, (if nx then fNX else 0) ||| (if ovf then fOF ||| fNX else 0) ||| (if c = 0 ∧ k ≠ 0 then fUF else 0))
  | _ => (0, 0)

/-- Converts a block (R213): scale, mantissas, flags. `forced` is the scale of sources 1 and 2. -/
def bfpBlock (m : Nat) (forced : Option Nat) (md : Nat → RMode) (vs : List FVal) : Nat × List Int × NFlags :=
  if vs.any (fun v => v.isNan || v.isInf) then (0x3FC, vs.map (fun _ => 0), fIV)
  else
    let a := vs.foldl (fun acc v => match v with | .fin _ k e => maxMag acc (k, e) | _ => acc) (0, 0)
    let S := match forced with | some s => s | none => scaleFor a.1 a.2
    let src0 := forced.isNone
    let ab := belowSigma a.1 a.2 S
    let rs := vs.zipIdx.map (fun p => bfpElem m S (md p.2) src0 ab p.1)
    (S, rs.map Prod.fst, rs.foldl (fun f r => f ||| r.2) 0)

/-! ### WX values (R214 to R217) -/

def wxN (wx96 : Bool) : Nat := if wx96 then 96 else 192

/-- The WX NaN. -/
def wxNan (wx96 : Bool) : Int := -(2 ^ (wxN wx96 - 1))

/-- Entry of a value (R215): q, flags, WXOV. -/
def wxEnter (wx96 : Bool) (b : Int) (v : FVal) : Int × NFlags × Bool :=
  match v with
  | .fin p m e =>
    let fr := (Exact.mk p m 1 e).over b
    let i := roundQ .rne p 0 fr.1 fr.2
    let top := 2 ^ (wxN wx96 - 41) - 1
    let ov := top < i
    let i := if ov then top else i
    (if p then -(i : Int) else i, if fr.1 % fr.2 ≠ 0 ∨ ov then fNX else 0, ov)
  | _ => (wxNan wx96, fIV, false)

/-- Sum of two WX values (R216): the sum and WXOV. -/
def wxAdd (wx96 : Bool) (p q : Int) : Int × Bool :=
  let nan := wxNan wx96
  if p = nan ∨ q = nan then (nan, false)
  else
    let top : Int := 2 ^ (wxN wx96 - 1) - 1
    let t := p + q
    if top < t then (top, true) else if t < -top then (-top, true) else (t, false)

/-- The root's conversion (R217). -/
def wxRoot (wx96 : Bool) (b : Int) (f : Fmt) (md : RMode) (q : Int) : Nat × NFlags :=
  if q = wxNan wx96 then (f.nan, 0)
  else if q = 0 then (0, 0)
  else f.round md ⟨q < 0, q.natAbs, 1, b⟩

/-! ### Special functions (R224)

Each value is computed to about 2^-180 in fixed point, rounded once to FP32 under RNE, and moved by the part's own
error `Config.ulp`, which is held within the bound of R224. -/

/-- Fixed-point one: 192 fraction bits. -/
def fxOne : Nat := 2 ^ 192

/-- ⌊ln 2 · 2^192⌋ and ⌊π · 2^192⌋. -/
def fxLn2 : Nat := 0xb17217f7d1cf79abc9e3b39803f2f6af40f343267298b62d
def fxPi : Nat := 0x3243f6a8885a308d313198a2e03707344a4093822299f31d0

/-- e^t for fixed-point 0 ≤ t < 1: the Taylor series. -/
def fxExp (t : Nat) : Nat :=
  let rec go : Nat → Nat → Nat → Nat
    | 0, _, acc => acc
    | k + 1, term, acc =>
      let n := 60 - k
      let term := term * t / fxOne / n
      go k term (acc + term)
  go 60 fxOne fxOne

/-- ln(m/2^23) for 2^23 ≤ m < 2^24, as 2·artanh((m − 2^23)/(m + 2^23)). -/
def fxLn (m : Nat) : Nat :=
  let z := (m - 2 ^ 23) * fxOne / (m + 2 ^ 23)
  let z2 := z * z / fxOne
  let rec go : Nat → Nat → Nat → Nat
    | 0, _, acc => acc
    | k + 1, p, acc => go k (p * z2 / fxOne) (acc + p / (2 * (70 - (k + 1)) + 1))
  2 * go 70 z 0

/-- sin t for fixed-point 0 ≤ t ≤ π/4, divided by t: 1 − t²/6 + …, and cos t. Alternating series on t². -/
def fxAlt (t2 : Nat) (first : Nat) : Nat :=
  let rec go : Nat → Nat → Nat → Int → Int
    | 0, _, _, acc => acc
    | k + 1, n, term, acc =>
      let term := term * t2 / fxOne / (n * (n + 1))
      let acc := if (40 - (k + 1)) % 2 = 0 then acc - term else acc + term
      go k (n + 2) term acc
  (go 40 first fxOne (fxOne : Int)).toNat

/-- A special function's raw result: exact (listed) with its flags, or a magnitude to be rounded and moved. -/
inductive SfRes where
  | listed (bits : Nat) (fl : NFlags)
  | approx (x : Exact)
  deriving DecidableEq, Repr

def f32one : Nat := 0x3F800000

/-- Position of a magnitude m·2^e modulo 2, in quarters: for SINPI and COSPI. -/
def halves (m : Nat) (e : Int) : Option Nat :=
  -- 2·|x| as an integer when x is a multiple of 1/2
  let fr := (Exact.mk false m 1 e).over (-1)
  if fr.1 % fr.2 = 0 then some (fr.1 / fr.2) else none

/-- sin(π·x) or cos(π·x) for x = m·2^e in (0, 2), as a signed exact value: octant reduction. -/
def sincosPi (cosine : Bool) (m : Nat) (e : Int) : Exact :=
  -- reduce modulo 2 exactly: u/2^k with k ≥ 2
  let k : Int := max (-e) 2
  let u := (m * pow2 (e + k)) % (2 * pow2 k)
  -- quarter turns: x = j/2 + w with 0 ≤ w < 1/2
  let h := pow2 (k - 1)
  let j := u / h + (if cosine then 1 else 0)
  let w := u % h
  let quarter := pow2 (k - 2)
  -- value is ± sin or cos of π·w' with 0 ≤ w' ≤ 1/4
  let big := quarter < w
  let w' := if big then h - w else w
  let useCos := (j % 2 = 1) != big
  let neg := j % 4 = 2 ∨ j % 4 = 3
  -- t = π·w'/2^k, so t² in fixed point
  let t := fxPi * w'
  let t2 := t * t / pow2 (2 * k) / fxOne
  if useCos then ⟨neg, fxAlt t2 1, 1, -192⟩
  else ⟨neg, t * fxAlt t2 2, 1, -k - 384⟩

/-- The listed exact cases and the exact or approximate value elsewhere. -/
def sfRaw (fn : Nat) (v : FVal) : SfRes :=
  let F := Fmt.fp32
  match v with
  | .nan s => .listed F.nan (if s then fIV else 0)
  | .inf p =>
    (match fn with
     | 0 => .listed (F.signBit p) 0
     | 1 => if p then .listed F.nan fIV else .listed 0 0
     | 2 => if p then .listed F.nan fIV else .listed (F.inf false) 0
     | 3 => .listed (if p then 0 else F.inf false) 0
     | 4 => if p then .listed F.nan fIV else .listed (F.inf false) 0
     | 5 | 6 => .listed F.nan fIV
     | _ => .listed (F.signBit p + f32one) 0)
  | .fin p m e =>
    if m = 0 then
      (match fn with
       | 0 => .listed (F.inf p) fDZ
       | 1 => .listed (F.inf p) fDZ
       | 2 => .listed (F.signBit p) 0
       | 3 => .listed f32one 0
       | 4 => .listed (F.inf true) fDZ
       | 5 => .listed (F.signBit p) 0
       | 6 => .listed f32one 0
       | _ => .listed (F.signBit p) 0)
    else
      let l : Int := (Nat.log2 m : Int) + e
      let isPow := m = 2 ^ Nat.log2 m
      match fn with
      | 0 =>
        let x : Exact := ⟨p, 1, m, -e⟩
        let r := F.round .rne x
        if isPow ∧ r.2 = 0 then .listed r.1 0 else .approx x
      | 1 =>
        if p then .listed F.nan fIV
        else
          -- 1/√(m·2^e) = √(2^400/m')·2^(−200−e'/2) with e' even
          let m' := if e % 2 = 0 then m else 2 * m
          let e' := if e % 2 = 0 then e else e - 1
          .approx ⟨false, Nat.sqrt (2 ^ 400 / m'), 1, -200 - e' / 2⟩
      | 2 =>
        if p then .listed F.nan fIV
        else
          let m' := if e % 2 = 0 then m else 2 * m
          let e' := if e % 2 = 0 then e else e - 1
          let q := Nat.sqrt (m' * 2 ^ 80)
          -- a non-square lies strictly between q and q + 1
          let x : Exact := if q * q = m' * 2 ^ 80 then ⟨false, q, 1, e' / 2 - 40⟩ else ⟨false, 2 * q + 1, 1, e' / 2 - 41⟩
          let r := F.round .rne x
          .listed r.1 r.2
      | 3 =>
        -- x = i + f with 0 ≤ f < 1, beyond ±2^9 the result has left FP32
        let fr := (Exact.mk p m 1 e).over (-192)
        let a : Int := if 10 < l then (2 ^ 10 * fxOne : Nat) else (fr.1 / fr.2 : Nat)
        let a := if p then -a else a
        let i := a / (fxOne : Int)
        let f := (a % (fxOne : Int)).toNat
        let integral := ((Exact.mk p m 1 e).over 0).1 % ((Exact.mk p m 1 e).over 0).2 = 0
        let x : Exact := if integral then ⟨false, 1, 1, i⟩ else ⟨false, fxExp (f * fxLn2 / fxOne), 1, i - 192⟩
        let r := F.round .rne x
        if integral ∧ r.2 &&& (fOF ||| fUF ||| fNX) = 0 then .listed r.1 0
        else if r.2 &&& fOF ≠ 0 then .listed (F.inf false) (fOF ||| fNX)
        else .approx x
      | 4 =>
        if p then .listed F.nan fIV
        else if isPow then .listed (F.ofInt .rne l).1 0
        else
          -- log2 = l + ln(m/2^⌊log2 m⌋)/ln 2
          let mm := m * 2 ^ (23 - Nat.log2 m)
          let fpart := fxLn mm * fxOne / fxLn2
          let tot : Int := l * (fxOne : Int) + fpart
          .approx ⟨tot < 0, tot.natAbs, 1, -192⟩
      | 5 =>
        (match halves m e with
         | some h => if h % 2 = 0 then .listed (F.signBit p) 0 else .listed (F.signBit (p != (h % 4 == 3)) + f32one) 0
         | none => let x := sincosPi false m e; .approx { x with neg := x.neg != p })
      | 6 =>
        (match halves m e with
         | some h => if h % 2 = 1 then .listed 0 0 else .listed (F.signBit (h % 4 == 2) + f32one) 0
         | none => .approx (sincosPi true m e))
      | _ =>
        if l < -16 then
          -- x − x³/3 + 2x⁵/15
          let x : Exact := ⟨p, m, 1, e⟩
          let fr := (Exact.mk false (m * m) 1 (2 * e)).over (-384)
          let x2 := fr.1 / fr.2 / fxOne
          let c := fxOne - x2 / 3 + 2 * (x2 * x2 / fxOne) / 15
          .approx { x with n := m * c, e := e - 192 }
        else if 4 < l then .approx ⟨p, fxOne - 1, 1, -192⟩
        else
          let fr := (Exact.mk false m 1 (e + 1)).over (-192)
          let a := fr.1 / fr.2
          -- e^(−2|x|) = 2^(−a/ln 2)
          let y := a * fxOne / fxLn2
          let i := y / fxOne
          let f := y % fxOne
          let ex := fxOne * fxOne / (fxExp (f * fxLn2 / fxOne) * 2 ^ i)
          .approx ⟨p, fxOne - ex, fxOne + ex, 0⟩

/-- How many FP32 patterns up, and how many down, stay within a number of ulp of a magnitude: above the next power of two the
patterns lie twice as far apart, below its own binade half as far. -/
def patternsUp (mag b : Nat) : Nat :=
  let d := 2 ^ 23 - mag % 2 ^ 23
  if mag < 2 ^ 23 ∨ b ≤ d then b else d + (b - d) / 2
def patternsDown (mag b : Nat) : Nat :=
  let m := mag % 2 ^ 23
  if mag < 2 ^ 24 ∨ b ≤ m then b else m + 2 * (b - m)

/-- Moves an FP32 magnitude by some patterns, at most a number of its ulp, within 0 and `top`. -/
def moveUlp (bits : Nat) (k : Int) (b top : Nat) : Nat :=
  let s := bits / 2 ^ 31
  let m := bits % 2 ^ 31
  let k := max (-(patternsDown m b : Int)) (min (patternsUp m b) k)
  s * 2 ^ 31 + (if (m : Int) + k < 0 then 0 else min ((m : Int) + k).toNat top)

/-- A special function of FP32 source bits: result bits and flags (R224, R279). Where `Config.ulp` moves the result, the model
judges tininess, which raises UF and is flushed under FTZ, by the exact value as R203 words it, not by the moved bits (DESIGN
CHOICE, notes/assumptions/25.md). -/
def sfVal (fn : Nat) (ftz : Bool) (a : Word) : Nat × NFlags :=
  let F := Fmt.fp32
  let v := F.ftzIn ftz (F.dec a.toNat)
  match sfRaw fn v with
  | .listed b fl =>
    -- a tiny result under flush (R207)
    if ftz ∧ 0 < b % 2 ^ 31 ∧ b % 2 ^ 31 < 2 ^ 23 then (F.signBit (F.dec b).neg, fl ||| fUF ||| fNX) else (b, fl)
  | .approx x =>
    let r := F.round .rne x
    -- RSQ(4.0) returns 0.5 (R224)
    let off := if fn = 1 ∧ a = 0x40800000#32 then 0 else Config.ulp fn a
    let top := if fn = 5 ∨ fn = 6 ∨ fn = 7 then f32one else 0x7F7FFFFF
    let b := if r.2 &&& fOF ≠ 0 then r.1 else moveUlp r.1 off (if fn ≤ 1 then 1 else 2) top
    let tiny := F.tiny .rne x
    if tiny ∧ ftz then (F.signBit x.neg, fUF ||| fNX)
    else (b, fNX ||| (if tiny then fUF else 0) ||| (r.2 &&& fOF))

end Sys2Proof.Machine
end

