-- ==== Sys2Proof/Machine/Ops.lean ====
section
/-! DEFINITION. Shared operations on cohorts, lanes and grids: access to the pieces of the state, register files with
renaming (R157), PC groups, meetings and regions (R150 to R161), taking a trap (R46, R370, R371) and aborting a
lane's transaction (R329). Every meaning of an Izusk word is written over these. -/

namespace Sys2Proof.Machine

/-! ### Lane masks -/

def lanesOf (m : LaneMask) : List Nat := (List.range 32).filter (fun l => m.getLsbD l)

def oneLane (l : Nat) : LaneMask := 1#32 <<< l

def allLanes : LaneMask := 0xFFFFFFFF#32

/-- The mask of the lanes that satisfy a test. -/
def maskOf (f : Nat → Bool) : LaneMask :=
  (List.range 32).foldl (fun m l => if f l then m ||| oneLane l else m) 0#32

/-- The lowest lane of a mask; 0 for an empty one. -/
def lowLane (m : LaneMask) : Nat := ((lanesOf m).head?).getD 0

def bits32 (w lo n : Nat) : Nat := (w >>> lo) % 2 ^ n

/-! ### Pieces of the state -/

/-- A cohort that is not there. -/
def Cohort.blank : Cohort where
  block := 0
  idx := 0
  pipe := 0
  vbase := 0
  place := .resident
  active := false
  detHolder := false
  lastIssue := 0
  detIdx := 0
  regs := []
  dirty := []
  sregs := []
  preds := []
  nflags := 0
  pc := []
  meet := []
  orig := []
  live := 0
  exited := 0
  parked := 0
  held := 0
  entered := 0
  lockWait := 0
  store := 0
  barHold := []
  tid := []
  regionOpen := false
  mend := 0
  brm := 0
  path := 0
  memb := 0
  mendWait := 0
  mendOpen := false
  rnt0 := 0
  rnt1 := 0
  cf := []
  handles := []
  restart := 0
  tx := []
  absent := []
  stalled := 0
  since := []
  watch := []
  stallHeld := false
  wfSince := []
  posTime := 0
  waitPos := none
  lost := false
  damaged := false
  area := 0
  relS := []
  observed := false

def Block.blank : Block := ⟨0, 0, 0, 0, 0, .resident, true, 0, 0, [], [], [], [], [], [], 0, []⟩

def Placed.blank : Placed := ⟨0, 0, 0, 0, 0, [], []⟩

def Grid.blank : Grid where
  rcd := []
  tctx := 0
  part := 0
  serial := 0
  tag := 0
  note := false
  vf := 0
  state := .retired
  code := 0
  cause := 0
  deps := []
  cpd := 0
  dies := []
  done := []
  bound := false
  traps := 0
  eflags := 0
  wxov := false
  rshort := false
  tstart := 0
  tend := 0
  rings := []
  entryDone := false
  aborted := false
  gang := none
  turn := 0

def Core.blank : Core := ⟨[], [], [], [], [], [], [], 0, false, [], [], [], [], none⟩

def Share.blank : Share := ⟨none, .idle, 0, none, 0, 0⟩

def Own.blank : Own := ⟨none, false, false, false⟩

def State.coh (s : State) (c : Nat) : Cohort := getD s.cohorts c .blank
def State.modCoh (s : State) (c : Nat) (f : Cohort → Cohort) : State := { s with cohorts := upd s.cohorts c f }
def State.blk (s : State) (b : Nat) : Block := getD s.blocks b .blank
def State.modBlk (s : State) (b : Nat) (f : Block → Block) : State := { s with blocks := upd s.blocks b f }
def State.plc (s : State) (p : Nat) : Placed := getD s.placed p .blank
def State.modPlc (s : State) (p : Nat) (f : Placed → Placed) : State := { s with placed := upd s.placed p f }
def State.grd (s : State) (g : Nat) : Grid := getD s.grids g .blank
def State.modGrd (s : State) (g : Nat) (f : Grid → Grid) : State := { s with grids := upd s.grids g f }
def State.core (s : State) (k : Nat) : Core := getD s.cores k .blank
def State.modCore (s : State) (k : Nat) (f : Core → Core) : State := { s with cores := set s.cores k (f (s.core k)) }
/-- A gated core is restored before anything reaches it (R443). -/
def State.wakeCore (s : State) (k : Nat) : State :=
  if (s.core k).gated then s.modCore k (fun c => { c with gated := false, quiet := none }) else s
def State.modOp (s : State) (i : Nat) (f : Op → Op) : State := { s with ops := upd s.ops i f }
def State.hart (s : State) (h : Nat) : Hart := getD s.harts h .reset
def State.modHart (s : State) (h : Nat) (f : Hart → Hart) : State := { s with harts := set s.harts h (f (s.hart h)) }

/-- Block, grid, core, partition of a cohort. -/
def State.cohBlk (s : State) (c : Nat) : Block := s.blk (s.coh c).block
def State.cohGrd (s : State) (c : Nat) : Grid := s.grd (s.cohBlk c).grid
def State.cohCore (s : State) (c : Nat) : Nat := (s.cohBlk c).core
def State.cohPart (s : State) (c : Nat) : Nat := (s.cohGrd c).part

/-! ### Fields of a launch record (R172) -/

def Grid.dw (g : Grid) (i : Nat) : Nat := ((g.rcd[i]?).getD 0).toNat
def Grid.entry (g : Grid) : DWord := BitVec.ofNat 64 (g.dw 0)
def Grid.bpc (g : Grid) : Nat := bits32 (g.dw 1) 0 16
def Grid.recCpd (g : Grid) : Nat := bits32 (g.dw 1) 16 16
def Grid.nd (g : Grid) : Nat := bits32 (g.dw 1) 32 16
def Grid.np (g : Grid) : Nat := bits32 (g.dw 1) 48 16
def Grid.cohN (g : Grid) : Nat := bits32 (g.dw 2) 0 16
def Grid.vregs (g : Grid) : Nat := bits32 (g.dw 2) 16 16
def Grid.scr (g : Grid) : Nat := bits32 (g.dw 2) 32 16
def Grid.spl (g : Grid) : Nat := bits32 (g.dw 2) 48 16
def Grid.det (g : Grid) : Bool := g.dw 3 % 2 == 1
def Grid.au (g : Grid) : Bool := bits32 (g.dw 3) 1 1 == 1
def Grid.lq (g : Grid) : Bool := bits32 (g.dw 3) 2 1 == 1
def Grid.prio (g : Grid) : Nat := bits32 (g.dw 3) 8 3
def Grid.ophen (g : Grid) : Bool := bits32 (g.dw 3) 11 1 == 1
def Grid.oph (g : Grid) : Nat := bits32 (g.dw 3) 12 4
def Grid.rpct (g : Grid) : Nat := bits32 (g.dw 3) 16 8
def Grid.lqn (g : Grid) : Nat := bits32 (g.dw 3) 24 8
def Grid.rmin (g : Grid) : Nat := bits32 (g.dw 3) 32 32
def Grid.args (g : Grid) : DWord := BitVec.ofNat 64 (g.dw 4)
def Grid.ndep (g : Grid) : Nat := bits32 (g.dw 5) 0 6
def Grid.depsVa (g : Grid) : Nat := g.dw 5 / 64 * 64
def Grid.rstt (g : Grid) : Nat := g.dw 6
def Grid.nring (g : Grid) : Nat := bits32 (g.dw 7) 0 7
def Grid.seed (g : Grid) : Nat := bits32 (g.dw 7) 32 32
def Grid.fslot (g : Grid) (i : Nat) : Nat := g.dw (8 + i)
def Grid.stat (g : Grid) : Nat := g.dw 16
def Grid.crec (g : Grid) : Nat := g.dw 17
def Grid.indir (g : Grid) : Nat := g.dw 18
def Grid.sovf (g : Grid) : Nat := g.dw 19

/-- Fields of a format slot (R221). -/
def fsCode (f : Nat) : Nat := bits32 f 0 4
def fsBsz (f : Nat) : Nat := bits32 f 4 2
def fsSrc (f : Nat) : Nat := bits32 f 6 2
def fsScale (f : Nat) : Nat := bits32 f 8 10
def fsRing (f : Nat) : Nat := bits32 f 18 6
def fsRnd (f : Nat) : Rnd := .ofCode (BitVec.ofNat 3 (bits32 f 24 3))
def fsSat (f : Nat) : Bool := bits32 f 27 1 == 1
def fsWxb (f : Nat) : Int := (BitVec.ofNat 10 (bits32 f 28 10)).toInt
def fsWx96 (f : Nat) : Bool := bits32 f 38 1 == 1

/-! ### Time and tickets -/

/-- The clock is read: it has moved on (R18). -/
def State.tick (s : State) : State := { s with time := s.time + 1 + Config.gap s.fresh, fresh := s.fresh + 1 }

/-- One of the free values in turn. -/
def State.next (s : State) : State := { s with fresh := s.fresh + 1 }

/-- A Kiosk ticket (R125). -/
def State.takeTicket (s : State) : Nat × State :=
  (s.kiosk.ticket,
    { s with kiosk := { s.kiosk with ticket := s.kiosk.ticket + 1 + Config.ticketGap s.fresh }, fresh := s.fresh + 1 })

/-- What the package hands to the outside. -/
def State.emit (s : State) (o : Out) : State := { s with svc := { s.svc with out := s.svc.out ++ [o] } }

/-! ### Registers -/

/-- Lane l is in the open region (R155). -/
def Cohort.inRegion (c : Cohort) (l : Nat) : Bool := c.regionOpen && c.memb.getLsbD l

/-- Entry 0 wins when two valid entries share FROM (R157). -/
def renameBy (t : BitVec 128) (n : Nat) : Nat :=
  (List.range 8).foldr
    (fun i acc =>
      let e := t.extractLsb' (16 * i) 16
      if e.getLsbD 15 ∧ (e.extractLsb' 8 7).toNat = n then (e.extractLsb' 0 7).toNat else acc) n

/-- The register that name n of the encoding means in lane l (R157). -/
def Cohort.name (c : Cohort) (l n : Nat) : Nat :=
  if c.inRegion l then renameBy (if c.path.getLsbD l then c.rnt1 else c.rnt0) n else n

/-- The word of register n (as stored) in lane l. -/
def Cohort.v (c : Cohort) (n l : Nat) : Word := getD c.regs (32 * n + l) 0

def Cohort.sreg (c : Cohort) (n : Nat) : DWord := if n = 0 then 0 else getD c.sregs n 0

/-- Predicate p in lane l: p0 to p6; index 7 as given. -/
def Cohort.pred (c : Cohort) (p : Nat) (l : Nat) (seven : Bool) : Bool :=
  if p = 7 then seven else (getD c.preds p 0).getLsbD l

/-- The register becomes the most recently used entry of an active cohort's operand cache; a seventh entry is written back
(R57). -/
def Cohort.touch (c : Cohort) (n : Nat) : Cohort :=
  let old := match look c.dirty n with
    | some w => w
    | none => (List.range 32).map (fun l => c.v n l)
  { c with dirty := if c.active then ((n, old) :: c.dirty.filter (fun e => e.1 ≠ n)).take 6 else c.dirty }

/-- Writes word n of lane l through the operand cache. -/
def Cohort.setV (c : Cohort) (n l : Nat) (w : Word) : Cohort :=
  let c := c.touch n
  { c with regs := put c.regs (32 * n + l) w 0 }

/-- s0 discards writes (R234); a write ends the register's life as a handle (R342). -/
def Cohort.setS (c : Cohort) (n : Nat) (v : DWord) : Cohort :=
  if n = 0 then c else { c with
    sregs := put c.sregs n v 0
    handles := del c.handles n
    relS := c.relS.filter (· ≠ n) }

/-- A word reads some s-registers: one that holds the status of a completed command with the release bit shows its
completion (R115). -/
def Cohort.sees (c : Cohort) (rs : List Nat) : Cohort := { c with observed := c.observed || rs.any c.relS.contains }

def Cohort.setP (c : Cohort) (p l : Nat) (b : Bool) : Cohort :=
  let m := getD c.preds p 0
  { c with preds := put c.preds p (if b then m ||| oneLane l else m &&& ~~~(oneLane l)) 0 }

def Cohort.pcOf (c : Cohort) (l : Nat) : DWord := getD c.pc l 0

/-- The no-meeting value (R149). -/
def noMeet : DWord := 0xFFFFFFFFFFFFFFFF#64

def Cohort.meetOf (c : Cohort) (l : Nat) : DWord := getD c.meet l noMeet

/-- The operand cache is written back: siblings see every register as it stands (R56). -/
def Cohort.flushRegs (c : Cohort) : Cohort := { c with dirty := [] }

/-- The cohort is back on its core: the time that it was away does not count for its lanes (R169). -/
def Cohort.back (c : Cohort) (now : Nat) : Cohort :=
  let away := fun (m : SMap Nat) => m.map (fun e => (e.1, e.2 + (now - c.posTime)))
  { c with
    place := .resident
    since := away c.since
    watch := away c.watch
    wfSince := away c.wfSince
    posTime := now }

/-- The transaction state of a lane that never ran TXBEG. -/
def Tx.blank : Tx := ⟨false, false, false, 0, 0, 0, 0, 0, 0, 0, 0, [], [], 0⟩

def Cohort.txOf (c : Cohort) (l : Nat) : Tx := getD c.tx l .blank

/-- The lane runs a speculative attempt. -/
def Cohort.spec (c : Cohort) (l : Nat) : Bool := (c.txOf l).isOpen && !(c.txOf l).fb

/-- A later write to a register removes it from what earlier operations will still write (R231). -/
def State.claimDst (s : State) (c : Nat) (d : Dst) : State :=
  { s with ops := s.ops.map (fun o => if o.2.coh = c then (o.1, { o.2 with dst := o.2.dst.filter (fun e => e.1 ≠ d) }) else o) }

/-- Writes a v-register word of a lane as a result issued now. -/
def State.writeV (s : State) (c n l : Nat) (w : Word) : State :=
  (s.claimDst c (.v (32 * n + l))).modCoh c (fun k => k.setV n l w)

/-- Writes an s-register as a result issued now. -/
def State.writeS (s : State) (c n : Nat) (v : DWord) : State := (s.claimDst c (.s n)).modCoh c (fun k => k.setS n v)

/-- Raises numeric flags of the cohort (R208). -/
def State.raise (s : State) (c : Nat) (f : NFlags) : State := s.modCoh c (fun k => { k with nflags := k.nflags ||| f })

/-! ### Groups -/

/-- Lanes that are live, not exited, not parked (R7). -/
def Cohort.awake (c : Cohort) : LaneMask := c.live &&& ~~~c.exited &&& ~~~c.parked

/-- Lanes held at a barrier. -/
def Cohort.atBar (c : Cohort) : LaneMask := c.barHold.foldl (fun m e => m ||| oneLane e.1) 0#32

/-- Lanes that wait for an operation of their group (R336). -/
def State.opHeld (s : State) (c : Nat) : LaneMask :=
  s.ops.foldl (fun m o => if o.2.coh = c then m ||| o.2.hold else m) 0#32

/-- Lanes that may issue: awake and waiting for nothing. -/
def State.ready (s : State) (c : Nat) : LaneMask :=
  let k := s.coh c
  k.awake &&& ~~~k.held &&& ~~~k.atBar &&& ~~~k.lockWait &&& ~~~k.mendWait &&& ~~~(s.opHeld c)

/-- Lanes that stand in PC groups (R150): awake, and not at a barrier, at a class lock or at a waiting word, whose lanes
form a group again when they are released. -/
def State.standing (s : State) (c : Nat) : LaneMask :=
  let k := s.coh c
  k.awake &&& ~~~k.atBar &&& ~~~k.lockWait &&& ~~~(s.opHeld c)

/-- The PC group of a lane: the lanes with its PC and its membership (R150); none where one of them is held, so that the
group is not eligible (R151). -/
def State.groupOf (s : State) (c l : Nat) : LaneMask :=
  let k := s.coh c
  let m := maskOf (fun j => (s.standing c).getLsbD j && k.pcOf j == k.pcOf l && k.inRegion j == k.inRegion l)
  if m &&& (k.held ||| k.mendWait) = 0 then m else 0

/-- The groups of a cohort without a held lane, lowest PC first (R151); of a region group and another group at one PC, which
the rule does not order, the one with the lowest lane comes first (DESIGN CHOICE, notes/assumptions/73.md). -/
def State.groups (s : State) (c : Nat) : List LaneMask :=
  let k := s.coh c
  let leads := (lanesOf (s.ready c)).filter (fun l => s.groupOf c l != 0 && lowLane (s.groupOf c l) == l)
  let ins := fun (acc : List Nat) (l : Nat) =>
    acc.takeWhile (fun j => (k.pcOf j).toNat ≤ (k.pcOf l).toNat) ++ [l] ++
      acc.dropWhile (fun j => (k.pcOf j).toNat ≤ (k.pcOf l).toNat)
  (leads.foldl ins []).map (fun l => s.groupOf c l)

/-! ### Arriving at a PC: meetings and regions -/

/-- The word after the word at `pc` in a clause of nw words (R288). -/
def nextPc (pc : DWord) (nw : Nat) : DWord :=
  let k := (pc.toNat / 8) % 8
  if k < nw then pc + 8 else BitVec.ofNat 64 (pc.toNat / 64 * 64 + 64)

/-- Lane l has arrived at its meeting (R152): it is held there, or it is a region lane that stands released at the MEND
address, until the region closes. -/
def Cohort.arrivedMeet (c : Cohort) (l : Nat) : Bool :=
  (c.held.getLsbD l || (c.mendOpen && c.inRegion l && c.pcOf l == c.mend)) && c.pcOf l == c.meetOf l && !c.parked.getLsbD l

/-- Releases every meeting all of whose lanes have arrived or exited (R152). A region lane held at the MEND address
counts as arrived and is not moved by the release. -/
def Cohort.settleMeet (c : Cohort) : Cohort :=
  let members := fun (m : DWord) => (lanesOf c.live).filter (fun l => c.meetOf l == m)
  let done := fun (m : DWord) => (members m).all (fun l => c.exited.getLsbD l || c.arrivedMeet l)
  let free := maskOf (fun l =>
    c.arrivedMeet l && c.live.getLsbD l && !c.exited.getLsbD l && !c.inRegion l && !c.mendWait.getLsbD l && done (c.meetOf l))
  { c with held := c.held &&& ~~~free }

/-- The region closes (R159): the lanes that waited for it are freed. -/
def Cohort.closeRegion (c : Cohort) : Cohort :=
  let w := c.mendWait
  let stay := maskOf (fun l => w.getLsbD l && c.pcOf l == c.meetOf l)
  { c with
    regionOpen := false
    memb := 0
    path := 0
    mendOpen := false
    mendWait := 0
    held := (c.held &&& ~~~c.memb) ||| stay }

/-- The region's meeting is released when every region lane is held at the MEND address or has exited (R295). A
region all of whose lanes have exited closes. Where a reply has sent a released lane back into the region (R161), the
others are held again and the meeting is open once more. -/
def Cohort.settleRegion (c : Cohort) : Cohort :=
  if c.regionOpen then
    let mem := lanesOf (c.memb &&& c.live)
    let gone := fun l => c.exited.getLsbD l
    let there := fun l => c.pcOf l == c.mend && (c.mendOpen || (c.held.getLsbD l && !c.parked.getLsbD l))
    if mem.all gone then c.closeRegion
    else if mem.all (fun l => gone l || there l) then { c with mendOpen := true, held := c.held &&& ~~~c.memb }
    else if c.mendOpen then
      { c with
        mendOpen := false
        held := c.held ||| maskOf (fun l => c.memb.getLsbD l && !gone l && !c.parked.getLsbD l && c.pcOf l == c.mend) }
    else c
  else c

def Cohort.settle (c : Cohort) : Cohort := c.settleMeet.settleRegion.settleMeet

/-- Lane l arrives at a PC: held there if it is its MEET PC (R152), or the MEND address of its region (R159). `fall`:
by fall-through inside a clause, which is no new entry (R228). -/
def Cohort.arriveLane (c : Cohort) (l : Nat) (pc : DWord) (fall : Bool) : Cohort :=
  let hold := if c.inRegion l then pc == c.mend else pc == c.meetOf l
  { c with
    pc := put c.pc l pc 0
    entered := if fall ∧ pc.toNat / 8 % 8 ≠ 0 then c.entered else c.entered &&& ~~~(oneLane l)
    held := if hold then c.held ||| oneLane l else c.held &&& ~~~(oneLane l) }

/-- Lanes arrive together; meetings and regions are settled once. -/
def State.arrive (s : State) (c : Nat) (ls : List (Nat × DWord)) (fall : Bool) : State :=
  s.modCoh c (fun k => (ls.foldl (fun k e => k.arriveLane e.1 e.2 fall) k).settle)

/-- The group's remaining lanes go on to the next word (R226). -/
def State.advance (s : State) : State :=
  let n := nextPc s.cur.pc s.cur.nw
  s.arrive s.cur.coh ((lanesOf s.cur.lanes).map (fun l => (l, n))) true

/-- Lanes leave the group that issues: they have been parked, sent elsewhere or ended. -/
def State.drop (s : State) (m : LaneMask) : State := { s with cur := { s.cur with lanes := s.cur.lanes &&& ~~~m } }

/-- The word does not issue now. -/
def State.stall (s : State) : State := { s with cur := { s.cur with stall := true } }

/-! ### Class locks (R126, R127) -/

/-- The lock word of a class of a partition. The manual gives classes to partitions only; a hart on which Arbor itself runs
(31) uses classes of its own beyond the 5,120 lock words (DESIGN CHOICE, notes/assumptions/90.md). -/
def lockKey (part cls : Nat) : Nat := 256 * part + cls

def State.lockHeld (s : State) (part cls : Nat) : Option TxWho := look s.kiosk.locks (lockKey part cls)

def State.setLock (s : State) (part cls : Nat) (w : TxWho) : State :=
  { s with kiosk := { s.kiosk with locks := set s.kiosk.locks (lockKey part cls) w } }

def State.freeLock (s : State) (part cls : Nat) : State :=
  { s with kiosk := { s.kiosk with locks := del s.kiosk.locks (lockKey part cls) } }

/-! ### Aborting a lane's transaction (R138, R144, R329) -/

/-- The status word (R144). -/
def txStatus (fb : Bool) (fails : Nat) (sub code : BitVec 8) : Word :=
  BitVec.ofNat 32 ((if fb then 2 ^ 20 else 0) + min fails 15 * 2 ^ 16 + sub.toNat * 256 + code.toNat)

/-- Lanes no longer wait for walks: they leave the word at which they waited. -/
def State.unwait (s : State) (c : Nat) (m : LaneMask) : State :=
  if s.walks.isEmpty then s
  else
    { s with walks := (s.walks.map (fun w =>
        if w.2.coh = c then (w.1, { w.2 with lanes := w.2.lanes &&& ~~~m }) else w)).filter (fun w => w.2.lanes != 0) }

/-- A lane leaves the open region: for the region's meeting it counts as exited (R161). -/
def Cohort.leaveRegion (k : Cohort) (m : LaneMask) : Cohort := { k with
  memb := k.memb &&& ~~~m
  path := k.path &&& ~~~m }

/-- A failed attempt: the logs go, FAILS rises (not for 0x06), code and subcode are kept, the lane re-enters TXBEG. A region
that its body has opened lies behind it: the lane is a member no more, as one that a handler redirects out (R161;
notes/assumptions/88.md). -/
def State.txAbort (s : State) (c l : Nat) (code sub : BitVec 8) : State :=
  let t := (s.coh c).txOf l
  let t' : Tx := { t with
    isOpen := false
    retry := true
    fails := if code = 0x06#8 then t.fails else min (t.fails + 1) 15
    code := code
    sub := sub
    rlog := []
    wlog := [] }
  let s := (s.unwait c (oneLane l)).modCoh c (fun k => { k.leaveRegion (oneLane l) with tx := set k.tx l t' })
  let s := s.arrive c [(l, t.beg)] false
  if s.cur.coh = c then s.drop (oneLane l) else s

/-! ### Completion flags (R229) -/

/-- A completion flag counts one operation more. -/
def State.flagUp (s : State) (c : Nat) (f : Option Nat) : State :=
  match f with
  | some i => s.modCoh c (fun k => { k with cf := put k.cf i (getD k.cf i 0 + 1) 0 })
  | none => s

/-- A completion flag counts one operation less. -/
def State.flagDown (s : State) (c : Nat) (f : Option Nat) : State :=
  match f with
  | some i => s.modCoh c (fun k => { k with cf := put k.cf i (getD k.cf i 0 - 1) 0 })
  | none => s

/-- Lanes of an operation are done; with the last one its flag falls and it leaves (R229), and the lanes that waited for
it go on together (R336). -/
def State.opDone (s : State) (i : Nat) (m : LaneMask) : State :=
  match look s.ops i with
  | none => s
  | some o =>
    let left := o.lanes &&& ~~~m
    if left = 0 then
      let s := ({ s with ops := del s.ops i }).flagDown o.coh o.flag
      if o.hold = 0 then s
      else s.arrive o.coh ((lanesOf (o.hold &&& (s.coh o.coh).awake)).map (fun l => (l, o.next))) true
    else s.modOp i (fun o => { o with lanes := left })

/-- A halted cohort's waiting lanes are withdrawn from their queues: they stay at their word and re-issue it; the group's
other lanes go on (R336). -/
def State.withdraw (s : State) (c : Nat) : State :=
  (s.ops.filter (fun o => o.2.coh == c && o.2.hold != 0)).foldl (fun s o =>
    let m := o.2.lanes
    let again := if o.2.grp = 0 then m else o.2.grp
    let s := { s with qwaits := s.qwaits.filter (fun w => w.op != o.1) }
    (s.modOp o.1 (fun q => { q with hold := q.hold &&& ~~~again })).opDone o.1 m) s

/-! ### Taking a trap (R46, R370, R371) -/

/-- What a record says beyond who trapped. -/
structure TrapArgs where
  kind : Nat
  cause : Nat
  sub : Nat
  access : Nat
  level : Nat
  va : DWord
  detail : Nat
  deriving DecidableEq, Repr

/-- A lane record without an address. -/
def TrapArgs.plain (cause sub : Nat) : TrapArgs := ⟨1, cause, sub, 0, 15, 0, 0⟩

/-- The eight doublewords of a record (R371). -/
def recordWords (a : TrapArgs) (source tid blk time : Nat) (pc : DWord) (lanes path memb : Nat)
    (coh core tctx serial : Nat) : List DWord :=
  [ a.kind + a.cause * 2 ^ 8 + a.sub % 256 * 2 ^ 16 + a.access * 2 ^ 24 + a.level * 2 ^ 32 + source * 2 ^ 40,
    tid + blk * 2 ^ 32,
    time,
    pc.toNat,
    lanes + path * 2 ^ 32,
    memb + (coh + core * 2 ^ 10 + tctx * 2 ^ 20) * 2 ^ 32,
    a.va.toNat,
    a.detail % 2 ^ 32 + serial * 2 ^ 32 ].map (BitVec.ofNat 64)

/-- The next trap identifier of a partition, modulo 2^32 (R371). -/
def State.takeTid (s : State) (part : Nat) : Nat × State :=
  let t := getD s.traps.nextTid part 0
  (t, { s with traps := { s.traps with nextTid := put s.traps.nextTid part ((t + 1) % 2 ^ 32) 0 } })

/-- Writes a record for a cohort's lanes at a PC: it waits to be written, and the lanes it parks are noted. `word4` is
the lane mask or the handle; `source` the writer. -/
def State.record (s : State) (c : Nat) (lanes : LaneMask) (pc : DWord) (a : TrapArgs) (word4 source slot : Nat) :
    Nat × State :=
  let s := s.tick
  let k := s.coh c
  let b := s.cohBlk c
  let g := s.cohGrd c
  let t := s.takeTid g.part
  let s := t.2
  let region := if k.regionOpen then k.memb &&& lanes else 0#32
  let ws := recordWords a source t.1 b.blk s.time pc word4
    (if a.kind = 2 then 0 else (k.path &&& region).toNat) (if a.kind = 2 then 0 else region.toNat)
    k.idx b.core g.tctx g.serial
  let info : TrapInfo := ⟨g.part, t.1, a.kind, a.cause, b.grid, c, lanes, pc, b.core, slot, false, false⟩
  (t.1, { s with traps := { s.traps with
      info := s.traps.info ++ [info]
      pend := s.traps.pend ++ [⟨g.part, t.1, source, ws⟩] } })

/-- Taking a trap: the lanes split off into one parked sub-cohort at the word's PC, with one record (R46, R370). -/
def State.park (s : State) (c : Nat) (lanes : LaneMask) (pc : DWord) (a : TrapArgs) : State :=
  if lanes = 0 then s
  else
    let r := (s.withdraw c).record c lanes pc a lanes.toNat (s.cohCore c) 0
    -- halted for a trap, the owner's register writes become visible to siblings (R56)
    let s := r.2.modCoh c (fun k => { k.flushRegs with
      parked := k.parked ||| lanes
      tid := (lanesOf lanes).foldl (fun m l => set m l r.1) k.tid })
    s.drop lanes

/-- Lanes of the issuing word fail with one cause: speculative lanes abort with code fault and the cause in SUB
(R142, R331), except on a not-present fault; the others are parked. -/
def State.fail (s : State) (lanes : LaneMask) (a : TrapArgs) : State :=
  let c := s.cur.coh
  let spec := if a.cause = 0x01 then 0#32 else maskOf (fun l => lanes.getLsbD l && (s.coh c).spec l)
  let s := (lanesOf spec).foldl (fun s l => s.txAbort c l 0x0A (BitVec.ofNat 8 a.cause)) s
  s.park c (lanes &&& ~~~spec) s.cur.pc a

/-- An illegal-instruction fault (R242). -/
def State.illegal (s : State) (lanes : LaneMask) (sub : Nat) : State := s.fail lanes (.plain 0x20 sub)

/-- A meld fault (R160). -/
def State.meldFault (s : State) (lanes : LaneMask) (sub : Nat) : State := s.fail lanes (.plain 0x1C sub)

/-- Records that wait at a core (R373). -/
def State.waitingAt (s : State) (core : Nat) : Nat := (s.traps.pend.filter (fun r => r.source == core)).length

/-- What would write a seventeenth waiting record of a core does not happen yet (R373). -/
def State.fits (s : State) (core : Nat) (t : State) : State :=
  if Config.waitingRecords < t.waitingAt core ∧ s.waitingAt core < t.waitingAt core then s else t

/-- A partition runs on its share. -/
def State.running (s : State) (p : Nat) : Bool := s.shares.any (fun e => e.2.running == some p)

/-- The partition's cohorts are being brought to a halt (R380). -/
def State.halting (s : State) (p : Nat) : Bool := s.shares.any (fun e => e.2.phase == .halt && e.2.out == p)

/-- The partition is being taken off its share, and its context does not count as stopped yet (R379). -/
def State.stopping (s : State) (p : Nat) : Bool :=
  s.shares.any (fun e => (e.2.phase == .halt || e.2.phase == .quiesce) && e.2.out == p)

/-- A written record that nobody has answered, and to which no reply is held. -/
def State.unanswered (s : State) (p : Nat) (t : TrapInfo) : Bool :=
  t.part == p && t.written && !t.replied && !s.traps.held.any (fun r => r.part == p && r.w0.toNat % 2 ^ 32 == t.tid)

/-- The partition's outstanding calls (R415). A record and the reply to it that is held count once. -/
def State.outstanding (s : State) (p : Nat) : Nat :=
  (s.traps.info.filter (s.unanswered p)).length +
    (s.invals.filter (fun v => v.2.part == p)).length + (s.traps.held.filter (fun r => r.part == p)).length +
    (s.svc.loads.filter (fun l => l.2.part == p)).length

/-- A call or a control request of the partition can be taken: fewer than 64 are outstanding (R415). -/
def State.callRoom (s : State) (p : Nat) : Bool := s.outstanding p < 64

/-! ### Exiting -/

/-- A cohort has ended: no lane left and every flag at zero (R299). -/
def Cohort.isOver (c : Cohort) : Bool := (c.live &&& ~~~c.exited) == 0 && c.cf.all (fun e => e.2 == 0)

/-- Cohorts of a block. -/
def State.cohsOf (s : State) (b : Nat) : List (Nat × Cohort) := s.cohorts.filter (fun e => e.2.block == b)

/-- Blocks of a grid on the package. -/
def State.blksOf (s : State) (g : Nat) : List (Nat × Block) := s.blocks.filter (fun e => e.2.grid == g)

end Sys2Proof.Machine
end

