-- ==== Sys2Proof/Machine/Operands.lean ====
section
/-! DEFINITION. Operands of Izusk words: values of the operand codes (R234 to R236, R257), the checks made when a word
issues (R157, R234, R242), the frame that every word's meaning shares, and the writing of results (R258). -/

namespace Sys2Proof.Machine

/-! ### Values -/

/-- FP32 bits of the float constants (R235). -/
def fconst (n : BitVec 4) : Nat :=
  match n.toNat with
  | 0 => 0x00000000 | 1 => 0x3F000000 | 2 => 0x3F800000 | 3 => 0x40000000 | 4 => 0x40800000 | 5 => 0xBF000000
  | 6 => 0xBF800000 | 7 => 0xC0000000 | 8 => 0xC0800000 | 9 => 0x3E800000 | 10 => 0x41000000 | 11 => 0x7F800000
  | 12 => 0xFF800000 | 13 => 0x3FB8AA3B | 14 => 0x3F317218 | _ => 0x7F7FFFFF

/-- The special operands (R236). -/
def State.special (s : State) (c : Nat) (n : BitVec 4) : DWord :=
  let k := s.coh c
  let b := s.cohBlk c
  let g := s.cohGrd c
  let p := s.plc b.placed
  match n.toNat with
  | 0 => BitVec.ofNat 64 k.idx
  | 1 => BitVec.ofNat 64 (b.blk % 2 ^ 32)
  | 2 => BitVec.ofNat 64 b.rank
  | 3 => BitVec.ofNat 64 p.clu
  | 4 => BitVec.ofNat 64 p.die
  | 5 => BitVec.ofNat 64 s.ctl.pkg
  | 6 => g.args
  | 7 => BitVec.ofNat 64 k.vbase
  | 8 => BitVec.ofNat 64 g.bpc
  | 9 => BitVec.ofNat 64 g.cpd
  | 10 => BitVec.ofNat 64 g.nd
  | 11 => BitVec.ofNat 64 g.np
  | _ => BitVec.ofNat 64 g.cohN

/-- A v-register operand of one lane: one word zero-extended, or an even-odd pair renamed by its even register
(R157, R257). -/
def Cohort.vval (k : Cohort) (n : Nat) (wide : Bool) (l : Nat) : DWord :=
  let m := k.name l n
  if wide then (k.v (m + 1) l) ++ (k.v m l) else (k.v m l).zeroExtend 64

/-- An operand in an integer use (R234, R257): 64 bits, of which a 32-bit use takes the low half. -/
def State.val (s : State) (c : Nat) (o : Opnd) (wide : Bool) (l : Nat) : DWord :=
  let k := s.coh c
  match o with
  | .v n => k.vval n.toNat wide l
  | .s n => if wide then k.sreg n.toNat else ((k.sreg n.toNat).truncate 32).zeroExtend 64
  | .i n => BitVec.ofNat 64 n.toNat
  | .f n => BitVec.ofNat 64 (fconst n)
  | .x n => if wide then s.special c n else ((s.special c n).truncate 32).zeroExtend 64

/-- The word of a 32-bit integer use. -/
def State.val32 (s : State) (c : Nat) (o : Opnd) (l : Nat) : Word := (s.val c o false l).truncate 32

/-- An operand in a floating use (R234, R235): constants are converted to the format, registers hold its bits. What a constant
gives that the format cannot hold exactly, in a CVT from a narrow format (R277), is not stated: the model rounds it once under
RNE, with no flag (DESIGN CHOICE, notes/assumptions/97.md). -/
def State.fval (s : State) (c : Nat) (o : Opnd) (f : Fmt) (wide : Bool) (l : Nat) : FVal :=
  match o with
  | .i n => f.dec (f.ofInt .rne n.toNat).1
  | .f n => f.dec (f.conv .rne (Fmt.fp32.dec (fconst n))).1
  | o => f.dec ((s.val c o wide l).toNat)

/-- The bits of a packed FP16 operand (R276): constants give one value to both halves. -/
def State.h2val (s : State) (c : Nat) (o : Opnd) (l : Nat) : Nat :=
  match o with
  | .i n => let h := (Fmt.fp16.ofInt .rne n.toNat).1; h + 2 ^ 16 * h
  | .f n => let h := (Fmt.fp16.conv .rne (Fmt.fp32.dec (fconst n))).1; h + 2 ^ 16 * h
  | o => (s.val32 c o l).toNat

/-! ### What a word needs to issue -/

/-- The registers that a word names, its guard, its flag select, whether a meld region permits it (R160), and the
major opcode that aborts a speculative lane (R140). -/
structure Need where
  g : Guard
  /-- v-register and s-register operands and how many words each spans. -/
  regs : List (Opnd × Nat)
  /-- s-registers that are read: a pending handle among them stalls the group (R342). -/
  sread : List Nat
  flag : FlagSel
  meldBan : Bool
  disallow : Option (BitVec 8)
  deriving DecidableEq, Repr

/-- The s-registers among some operands. -/
def sregsOf (os : List Opnd) : List Nat :=
  os.filterMap (fun o => match o with | .s n => some n.toNat | _ => none)

/-- The need of a word with sources and a destination, `n` giving the words of each. -/
def Need.of (g : Guard) (d : List (Opnd × Nat)) (src : List (Opnd × Nat)) : Need :=
  ⟨g, d ++ src, sregsOf (src.map Prod.fst), .off, false, none⟩

/-- The lanes that are active for the word (R7, R238). -/
def State.active (s : State) (g : Guard) : LaneMask :=
  let k := s.coh s.cur.coh
  maskOf (fun l => s.cur.lanes.getLsbD l && (k.pred g.p.toNat l true != g.inv))

/-- A register operand is legal in lane l: renamed, even or a multiple of 4 where it spans 2 or 4 words, and below
VREGS (R157, R234, R314). -/
def State.regOk (s : State) (c l : Nat) (o : Opnd) (n : Nat) : Bool :=
  match o with
  | .v r =>
    let m := (s.coh c).name l r.toNat
    m % n == 0 && m + n ≤ (s.cohGrd c).vregs
  | _ => true

/-- The completion flag that a flag select names (R232); none where the header sets it to none. -/
def State.flagOf (s : State) (f : FlagSel) : Option Nat :=
  match f with
  | .off => none
  | .a => some s.cur.sfa
  | .b => some s.cur.sfb

/-- The flag select names a flag that the header sets to 15 (R242, subcode 2). -/
def State.badFlag (s : State) (f : FlagSel) : Bool := s.flagOf f == some 15

/-- The flag reads 63 (R229). -/
def State.flagFull (s : State) (f : FlagSel) : Bool :=
  match s.flagOf f with
  | some i => getD (s.coh s.cur.coh).cf i 0 == 63
  | none => false

/-- One of the s-registers is the handle of a command that has not completed (R342). -/
def State.handlePending (s : State) (rs : List Nat) : Bool :=
  rs.any (fun n => (look (s.coh s.cur.coh).handles n).isSome)

/-- A word that does not issue leaves only what it waits for. -/
def State.keepWaits (s t : State) : State :=
  ({ s with walks := t.walks, transit := t.transit, fresh := t.fresh } : State).modCoh s.cur.coh
    (fun k => { k with absent := (t.coh s.cur.coh).absent })

/-- The v-registers that some operands name in some lanes, the first operand last. -/
def Cohort.named (k : Cohort) (run : LaneMask) (regs : List (Opnd × Nat)) : List Nat :=
  regs.reverse.flatMap (fun e => match e.1 with
    | .v r => ((lanesOf run).map (fun l => k.name l r.toNat)).eraseDups.flatMap (fun m => upto m e.2)
    | _ => [])

/-- A word uses the operand-cache entries of the registers that it names: a source that the cache does not hold is read into
an entry, and of a full cache the least recently used entry is replaced (R57; notes/assumptions/30.md). Of the s-registers
that it reads, it sees the completion of commands (R115). -/
def State.useRegs (s : State) (c : Nat) (run : LaneMask) (regs : List (Opnd × Nat)) (sread : List Nat) : State :=
  s.modCoh c (fun k => ((k.named run regs).foldl Cohort.touch k).sees sread)

/-- The frame of every word: with no active lane it is a no-operation (R242); a meld fault, the launch-dependent
illegal-instruction checks and the aborts of R140 take their lanes; stalls leave the word unissued; the body runs for
the lanes left, and those that are still in the group go on to the next word. -/
def State.issue (s : State) (n : Need) (body : State → LaneMask → State) : State :=
  let c := s.cur.coh
  let act := s.active n.g
  if act = 0 then s.advance
  else if n.meldBan ∧ (lanesOf s.cur.lanes).any (fun l => (s.coh c).inRegion l) then (s.meldFault act 3).advance
  else if s.badFlag n.flag then (s.illegal act 2).advance
  else
    let bad := maskOf (fun l => act.getLsbD l && !n.regs.all (fun e => s.regOk c l e.1 e.2))
    let dis := maskOf (fun l => act.getLsbD l && !bad.getLsbD l && n.disallow.isSome && (s.coh c).spec l)
    let run := act &&& ~~~bad &&& ~~~dis
    if run ≠ 0 ∧ (s.handlePending n.sread ∨ s.flagFull n.flag) then s.stall
    else
      let s1 := s.illegal bad 3
      let s2 := (lanesOf dis).foldl (fun t l => t.txAbort c l 0x0C (n.disallow.getD 0)) s1
      let s3 := if run = 0 then s2 else body (s2.useRegs c run n.regs n.sread) run
      if s3.cur.stall then (s.keepWaits s3).stall else s3.advance

/-! ### Results -/

/-- Words of a register of a given width. -/
def wordsOf (wide : Bool) : Nat := if wide then 2 else 1

/-- Writes a value into v-register n (as encoded) of a lane, renamed by its path (R157, R258). -/
def State.putV (s : State) (c n l : Nat) (wide : Bool) (v : DWord) : State :=
  let m := (s.coh c).name l n
  let s := s.writeV c m l (v.truncate 32)
  if wide then s.writeV c (m + 1) l (v.extractLsb' 32 32) else s

/-- Writes results (R258): a v-register in every lane that ran; an s-register once, from the lowest lane, a 32-bit
result zero-extended. -/
def State.result (s : State) (d : Opnd) (wide : Bool) (run : LaneMask) (f : Nat → DWord) : State :=
  let c := s.cur.coh
  match d with
  | .v n => (lanesOf run).foldl (fun t l => t.putV c n.toNat l wide (f l)) s
  | .s n => s.writeS c n.toNat (if wide then f (lowLane run) else ((f (lowLane run)).truncate 32).zeroExtend 64)
  | _ => s

/-- Writes a predicate in the lanes that ran (R258). -/
def State.resultP (s : State) (p : BitVec 3) (run : LaneMask) (f : Nat → Bool) : State :=
  s.modCoh s.cur.coh (fun k => (lanesOf run).foldl (fun k l => k.setP p.toNat l (f l)) k)

/-- The lanes whose computation counts: one for a word with an s-register destination (R238). -/
def once (d : Opnd) (run : LaneMask) : LaneMask := if d.isV then run else oneLane (lowLane run)

/-- A fixed word that computes a value for each lane from sources read before any result is written (R7). -/
def State.compute (s : State) (g : Guard) (d : Opnd) (dw : Bool) (src : List (Opnd × Bool))
    (f : State → Nat → DWord) : State :=
  s.issue (.of g [(d, wordsOf dw)] (src.map (fun e => (e.1, wordsOf e.2))))
    (fun t run => t.result d dw run (f t))

/-- The same with numeric flags, merged at issue (R208, R262). -/
def State.computeF (s : State) (g : Guard) (d : Opnd) (dw : Bool) (src : List (Opnd × Bool))
    (f : State → Nat → DWord × NFlags) : State :=
  s.issue (.of g [(d, wordsOf dw)] (src.map (fun e => (e.1, wordsOf e.2))))
    (fun t run =>
      (t.result d dw run (fun l => (f t l).1)).raise t.cur.coh
        ((lanesOf (once d run)).foldl (fun a l => a ||| (f t l).2) 0))

/-- A fixed word that computes a predicate, with numeric flags. -/
def State.computeP (s : State) (g : Guard) (p : BitVec 3) (src : List (Opnd × Bool))
    (f : State → Nat → Bool × NFlags) : State :=
  s.issue (.of g [] (src.map (fun e => (e.1, wordsOf e.2))))
    (fun t run =>
      (t.resultP p run (fun l => (f t l).1)).raise t.cur.coh ((lanesOf run).foldl (fun a l => a ||| (f t l).2) 0))

/-! ### Stochastic rounding in vector words (R206) -/

/-- The draw of lane l for index operand j. -/
def State.draw (s : State) (c l j : Nat) : Nat :=
  srDraw (s.cohGrd c).seed ((s.cohBlk c).blk * 2 ^ 42 + (getD (s.coh c).orig l 0) * 2 ^ 32 + j)

/-- How lane l rounds; under SR the index operand is `C` where the word has one (R259). -/
def State.rmode (s : State) (rnd : Rnd) (sat ftz : Bool) (j : Option Opnd) (l : Nat) : RMode :=
  let c := s.cur.coh
  let idx := match j with | some o => (s.val32 c o l).toNat | none => 0
  ⟨rnd, sat, ftz, if rnd = .sr then s.draw c l idx else 0⟩

end Sys2Proof.Machine
end

