-- ==== Sys2Proof/Machine/Flags.lean ====
section
/-! DEFINITION. Completion flags (R229 to R231) and operations in flight, and the numeric flags of flagged compute
operations (R262). -/

namespace Sys2Proof.Machine

/-- The words that results in register d of the lanes will write: words 0 to n − 1 of each lane's result. An
s-register takes the first result that a lane's part has (R238). -/
def State.dstOf (s : State) (c : Nat) (d : Opnd) (n : Nat) (run : LaneMask) : List (Dst × Nat × Nat) :=
  match d with
  | .v r =>
    (lanesOf run).flatMap (fun l =>
      let m := (s.coh c).name l r.toNat
      (List.range n).map (fun i => (Dst.v (32 * (m + i) + l), l, i)))
  | .s r => if r.toNat = 0 then [] else (lanesOf run).map (fun l => (Dst.s r.toNat, l, 0))
  | _ => []

/-- An operation starts: it is in flight and its flag counts it (R229). What an earlier operation in flight will write
stands until this one has written (R231). -/
def State.startOp (s : State) (o : Op) : State :=
  -- a handle register that this operation will write is no handle any more (R342)
  let s := s.modCoh o.coh (fun k => { k with
    handles := o.dst.foldl (fun h e => match e.1 with | .s n => del h n | .v _ => h) k.handles })
  let s := s.flagUp o.coh o.flag
  -- operations are numbered in the order of issue
  { s with ops := set s.ops s.fresh o, fresh := s.fresh + 1 }

/-- Registers that an operation writes are taken from the operations of its cohort issued before it (R231). -/
def State.takeDst (s : State) (c i : Nat) (ds : List Dst) : State :=
  { s with ops := s.ops.map (fun o =>
      if o.1 < i ∧ o.2.coh = c then (o.1, { o.2 with dst := o.2.dst.filter (fun e => !ds.contains e.1) }) else o) }

/-- Words of a lane's result are written where no later-issued operation has written the register (R231); `ws` says which
words the result has. The lane's other destinations keep their values. -/
def State.bindSel (s : State) (i l : Nat) (w : BitVec 160) (ws : Nat → Bool) : State :=
  match look s.ops i with
  | none => s
  | some o =>
    let mine := o.dst.filter (fun e => e.2.1 == l)
    let now := (mine.filter (fun e => ws e.2.2)).map (fun e => e.1)
    let s := (s.takeDst o.coh i now).modCoh o.coh (fun k => mine.foldl (fun k e =>
      if ws e.2.2 then
        match e.1 with
        | .v key => k.setV (key / 32) (key % 32) (w.extractLsb' (32 * e.2.2) 32)
        | .s n => k.setS n (w.truncate 64)
      else k) k)
    s.modOp i (fun o => { o with dst := o.dst.filter (fun e => e.2.1 != l && !now.contains e.1) })

/-- The whole result of a lane is written. -/
def State.bind (s : State) (i l : Nat) (w : BitVec 160) : State := s.bindSel i l w (fun _ => true)

/-- A flagged compute operation starts: the value and the numeric flags of each lane stand in it (R262, R279). -/
def State.startComp (s : State) (f : FlagSel) (d : Opnd) (wide : Bool) (run : LaneMask)
    (v : Nat → DWord × NFlags) : State :=
  let c := s.cur.coh
  let ls := once d run
  let o : Op := {
    coh := c
    core := s.cohCore c
    part := s.cohPart c
    lanes := ls
    pc := s.cur.pc
    flag := s.flagOf f
    kind := .comp
    ty := if wide then .b64 else .b32
    ord := .rlx
    sc := .blk
    acc := (lanesOf ls).map (fun l => (l, ⟨0, [], (v l).1.zeroExtend 128, (v l).2.zeroExtend 128, 0⟩))
    dst := s.dstOf c d (wordsOf wide) run
    hold := 0
    next := nextPc s.cur.pc s.cur.nw
    grp := 0
    time := s.time }
  s.startOp o

/-- An earlier flagged compute operation of the cohort, or an atomic with floating flags, has not merged its numeric
flags yet (R262, R318). -/
def State.flagsPending (s : State) (c : Nat) : Bool :=
  s.ops.any (fun e => e.2.coh == c &&
    (match e.2.kind with
     | .comp => true
     | .rmw .fadd => true | .rmw .fmin => true | .rmw .fmax => true
     | .amax _ _ => true
     | _ => false))

end Sys2Proof.Machine
end

