-- ==== Sys2Proof/Machine/Integer.lean ====
section
/-! DEFINITION. Integer arithmetic, opcodes 0x00, 0x01 and 0x07 (R263 to R266). -/

namespace Sys2Proof.Machine

/-- Width in bits. -/
def bitsOf (w : Bool) : Nat := if w then 64 else 32

/-- The low w bits as an unsigned number. -/
def uval (w : Bool) (x : DWord) : Int := (if w then x.toNat else x.toNat % 2 ^ 32 : Nat)

/-- The low w bits as a two's-complement number. -/
def sval (w : Bool) (x : DWord) : Int := if w then x.toInt else (x.truncate 32 : Word).toInt

/-- ext(x) of R264. -/
def ext (u w : Bool) (x : DWord) : Int := if u then uval w x else sval w x

/-- The low w bits of an integer, zero-extended (R202: wrapping). -/
def wrap (w : Bool) (i : Int) : DWord := if w then BitVec.ofInt 64 i else (BitVec.ofInt 32 i).zeroExtend 64

/-- Clamps to the range of R263: signed, or unsigned for U. -/
def clampW (u w : Bool) (i : Int) : Int :=
  let n := bitsOf w
  let lo : Int := if u then 0 else -(2 ^ (n - 1))
  let hi : Int := if u then 2 ^ n - 1 else 2 ^ (n - 1) - 1
  max lo (min hi i)

/-- An exact result wrapped, or saturated once (R263, R264). -/
def fin (m : IMod) (i : Int) : DWord := wrap m.w (if m.sat then clampW m.u m.w i else i)

/-- The operands of a saturating form are read by U, of a wrapping form either way. -/
def rd (m : IMod) (x : DWord) : Int := ext m.u m.w x

/-- A comparison of two integers (R263). -/
def icmpVal (c : ICond) (a b : Int) : Bool :=
  match c with
  | .eq => a == b | .ne => a != b | .lt => a < b | .le => a ≤ b | .gt => b < a | .ge => b ≤ a

/-- d := a + b (R264). -/
def execIadd (r : R3) (m : IMod) (s : State) : Host.Outcome State Fault Refusal :=
  .next (s.compute r.g r.d m.w [(r.a, m.w), (r.b, m.w)] fun t l =>
    let c := t.cur.coh
    fin m (rd m (t.val c r.a m.w l) + rd m (t.val c r.b m.w l)))

/-- d := a + b + c; the exact sum is clamped once (R264). -/
def execIadd3 (r : R3) (m : IMod) (s : State) : Host.Outcome State Fault Refusal :=
  .next (s.compute r.g r.d m.w [(r.a, m.w), (r.b, m.w), (r.c, m.w)] fun t l =>
    let c := t.cur.coh
    fin m (rd m (t.val c r.a m.w l) + rd m (t.val c r.b m.w l) + rd m (t.val c r.c m.w l)))

/-- d := a − b (R264). -/
def execIsub (r : R3) (m : IMod) (s : State) : Host.Outcome State Fault Refusal :=
  .next (s.compute r.g r.d m.w [(r.a, m.w), (r.b, m.w)] fun t l =>
    let c := t.cur.coh
    fin m (rd m (t.val c r.a m.w l) - rd m (t.val c r.b m.w l)))

/-- d := −a (R264). -/
def execIneg (r : R3) (m : IMod) (s : State) : Host.Outcome State Fault Refusal :=
  .next (s.compute r.g r.d m.w [(r.a, m.w)] fun t l => fin m (-(rd m (t.val t.cur.coh r.a m.w l))))

/-- d := |a|; −2^(w−1) gives itself, or 2^(w−1) − 1 with SAT (R264). -/
def execIabs (r : R3) (m : IMod) (s : State) : Host.Outcome State Fault Refusal :=
  .next (s.compute r.g r.d m.w [(r.a, m.w)] fun t l => fin m ((rd m (t.val t.cur.coh r.a m.w l)).natAbs))

/-- d := min of ext(a), ext(b) (R264). -/
def execImin (r : R3) (m : IMod) (s : State) : Host.Outcome State Fault Refusal :=
  .next (s.compute r.g r.d m.w [(r.a, m.w), (r.b, m.w)] fun t l =>
    let c := t.cur.coh
    wrap m.w (min (rd m (t.val c r.a m.w l)) (rd m (t.val c r.b m.w l))))

/-- d := max of ext(a), ext(b) (R264). -/
def execImax (r : R3) (m : IMod) (s : State) : Host.Outcome State Fault Refusal :=
  .next (s.compute r.g r.d m.w [(r.a, m.w), (r.b, m.w)] fun t l =>
    let c := t.cur.coh
    wrap m.w (max (rd m (t.val c r.a m.w l)) (rd m (t.val c r.b m.w l))))

/-- d := (a + (ext(b[31:0]) << SH)) mod 2^64 (R264). -/
def execLea (r : R3) (sh : BitVec 4) (u : Bool) (s : State) : Host.Outcome State Fault Refusal :=
  .next (s.compute r.g r.d true [(r.a, true), (r.b, false)] fun t l =>
    let c := t.cur.coh
    t.val c r.a true l + BitVec.ofInt 64 (ext u false (t.val c r.b false l) * 2 ^ sh.toNat))

/-- Predicate d := ext(a) cond ext(b) (R264). -/
def execIcmp (g : Guard) (p : BitVec 3) (a b : Opnd) (cc : ICond) (w u : Bool) (s : State) :
    Host.Outcome State Fault Refusal :=
  .next (s.computeP g p [(a, w), (b, w)] fun t l =>
    let c := t.cur.coh
    (icmpVal cc (ext u w (t.val c a w l)) (ext u w (t.val c b w l)), 0))

/-- d := low w bits of a·b, or the saturated product (R264). -/
def execImul (r : R3) (m : IMod) (s : State) : Host.Outcome State Fault Refusal :=
  .next (s.compute r.g r.d m.w [(r.a, m.w), (r.b, m.w)] fun t l =>
    let c := t.cur.coh
    fin m (rd m (t.val c r.a m.w l) * rd m (t.val c r.b m.w l)))

/-- d := bits [2w−1:w] of ext(a)·ext(b) (R264). -/
def execImulh (r : R3) (m : IMod) (s : State) : Host.Outcome State Fault Refusal :=
  .next (s.compute r.g r.d m.w [(r.a, m.w), (r.b, m.w)] fun t l =>
    let c := t.cur.coh
    wrap m.w ((rd m (t.val c r.a m.w l) * rd m (t.val c r.b m.w l)) / 2 ^ bitsOf m.w))

/-- d := a·b + c, wrapped or saturated once (R264). -/
def execImad (r : R3) (m : IMod) (s : State) : Host.Outcome State Fault Refusal :=
  .next (s.compute r.g r.d m.w [(r.a, m.w), (r.b, m.w), (r.c, m.w)] fun t l =>
    let c := t.cur.coh
    fin m (rd m (t.val c r.a m.w l) * rd m (t.val c r.b m.w l) + rd m (t.val c r.c m.w l)))

/-- d := (ext(a)·ext(b) + c) mod 2^64; a and b are 32-bit, c and d 64-bit (R264). -/
def execImadw (r : R3) (m : IMod) (s : State) : Host.Outcome State Fault Refusal :=
  .next (s.compute r.g r.d true [(r.a, false), (r.b, false), (r.c, true)] fun t l =>
    let c := t.cur.coh
    BitVec.ofInt 64 (ext m.u false (t.val c r.a false l) * ext m.u false (t.val c r.b false l)) + t.val c r.c true l)

/-- Quotient and remainder truncated toward zero, with the edge cases of R265. -/
def divRem (rem u w : Bool) (x y : DWord) : DWord × NFlags :=
  let a := ext u w x
  let b := ext u w y
  if b = 0 then (if rem then wrap w a else wrap w (-1), fDZ)
  else (wrap w (if rem then Int.tmod a b else Int.tdiv a b), 0)

/-- IDIV and IREM (R265): with DZT the lanes whose divisor is zero take an arithmetic fault; the others start a
flagged operation. -/
def State.divide (s : State) (rem : Bool) (r : R3) (f : FlagSel) (w u dzt : Bool) : State :=
  s.issue { Need.of r.g [(r.d, wordsOf w)] [(r.a, wordsOf w), (r.b, wordsOf w)] with flag := f } fun t run =>
    let c := t.cur.coh
    let zero := if dzt then maskOf (fun l => (once r.d run).getLsbD l && uval w (t.val c r.b w l) == 0) else 0#32
    -- a once-only word divides the lowest lane's operands; its fault takes every lane that runs
    let zero := if zero ≠ 0 ∧ !r.d.isV then run else zero
    let good := run &&& ~~~zero
    let t := t.fail zero (.plain 0x21 0)
    if good = 0 then t
    else t.startComp f r.d w good (fun l => divRem rem u w (t.val c r.a w l) (t.val c r.b w l))

/-- Flagged quotient (R265). -/
def execIdiv (r : R3) (f : FlagSel) (w u dzt : Bool) (s : State) : Host.Outcome State Fault Refusal :=
  .next (s.divide false r f w u dzt)

/-- Flagged remainder (R265). -/
def execIrem (r : R3) (f : FlagSel) (w u dzt : Bool) (s : State) : Host.Outcome State Fault Refusal :=
  .next (s.divide true r f w u dzt)

/-- The immediate forms (R266): 32 bits with a v-register destination; 64 bits with an s-register one, where imm is
sign-extended and a v-register source is the lowest lane's word. -/
def State.immOp (s : State) (g : Guard) (d a : Opnd) (imm : BitVec 32) (f : DWord → DWord → DWord) : State :=
  let wide := d.isS
  let aw := match a with | .v _ => false | _ => wide
  s.compute g d wide [(a, aw)] fun t l =>
    f (t.val t.cur.coh a aw l) (if wide then imm.signExtend 64 else imm.zeroExtend 64)

/-- d := a + imm (R266). -/
def execIaddImm (g : Guard) (d a : Opnd) (imm : BitVec 32) (s : State) : Host.Outcome State Fault Refusal :=
  .next (s.immOp g d a imm (· + ·))

/-- d := a · imm (R266). -/
def execImulImm (g : Guard) (d a : Opnd) (imm : BitVec 32) (s : State) : Host.Outcome State Fault Refusal :=
  .next (s.immOp g d a imm (· * ·))

/-- d := a and imm (R266). -/
def execAndImm (g : Guard) (d a : Opnd) (imm : BitVec 32) (s : State) : Host.Outcome State Fault Refusal :=
  .next (s.immOp g d a imm (· &&& ·))

/-- d := a or imm (R266). -/
def execOrImm (g : Guard) (d a : Opnd) (imm : BitVec 32) (s : State) : Host.Outcome State Fault Refusal :=
  .next (s.immOp g d a imm (· ||| ·))

/-- d := a xor imm (R266). -/
def execXorImm (g : Guard) (d a : Opnd) (imm : BitVec 32) (s : State) : Host.Outcome State Fault Refusal :=
  .next (s.immOp g d a imm (· ^^^ ·))

end Sys2Proof.Machine
end

