-- ==== Sys2Proof/Machine/Logic.lean ====
section
/-! DEFINITION. Logic, shifts, bit fields, moves and predicates: opcodes 0x02 to 0x06 (R267 to R270). -/

namespace Sys2Proof.Machine

/-- A two-operand word of width w. -/
def State.op2 (s : State) (r : R3) (w : Bool) (f : DWord → DWord → DWord) : State :=
  s.compute r.g r.d w [(r.a, w), (r.b, w)] fun t l =>
    wrap w (f (t.val t.cur.coh r.a w l) (t.val t.cur.coh r.b w l)).toNat

/-- A one-operand word of width w with a result of width wd. -/
def State.op1 (s : State) (r : R3) (wd w : Bool) (f : DWord → DWord) : State :=
  s.compute r.g r.d wd [(r.a, w)] fun t l => wrap wd (f (t.val t.cur.coh r.a w l)).toNat

/-- d := a and b (R267). -/
def execAnd (r : R3) (w : Bool) (s : State) : Host.Outcome State Fault Refusal := .next (s.op2 r w (· &&& ·))

/-- d := a or b (R267). -/
def execOr (r : R3) (w : Bool) (s : State) : Host.Outcome State Fault Refusal := .next (s.op2 r w (· ||| ·))

/-- d := a xor b (R267). -/
def execXor (r : R3) (w : Bool) (s : State) : Host.Outcome State Fault Refusal := .next (s.op2 r w (· ^^^ ·))

/-- d := a and not b (R267). -/
def execAndn (r : R3) (w : Bool) (s : State) : Host.Outcome State Fault Refusal :=
  .next (s.op2 r w (fun a b => a &&& ~~~b))

/-- d := a or not b (R267). -/
def execOrn (r : R3) (w : Bool) (s : State) : Host.Outcome State Fault Refusal :=
  .next (s.op2 r w (fun a b => a ||| ~~~b))

/-- d := not a (R267). -/
def execNot (r : R3) (w : Bool) (s : State) : Host.Outcome State Fault Refusal := .next (s.op1 r w w (~~~ ·))

/-- n := b mod w (R268). -/
def shAmt (w : Bool) (b : DWord) : Nat := b.toNat % bitsOf w

/-- d := (a << n) mod 2^w (R268). -/
def shlVal (w : Bool) (a b : DWord) : DWord := wrap w ((uval w a) * 2 ^ shAmt w b)
/-- d := a >> n, zero-filled. -/
def shrVal (w : Bool) (a b : DWord) : DWord := wrap w ((uval w a) / 2 ^ shAmt w b)
/-- d := a >> n, filled with a[w−1]. -/
def sarVal (w : Bool) (a b : DWord) : DWord := wrap w ((sval w a) / 2 ^ shAmt w b)

def execShl (r : R3) (w : Bool) (s : State) : Host.Outcome State Fault Refusal := .next (s.op2 r w (shlVal w))

def execShr (r : R3) (w : Bool) (s : State) : Host.Outcome State Fault Refusal := .next (s.op2 r w (shrVal w))

def execSar (r : R3) (w : Bool) (s : State) : Host.Outcome State Fault Refusal := .next (s.op2 r w (sarVal w))

/-- d := a rotated left by n (R268). -/
def rotVal (w : Bool) (a b : DWord) : DWord :=
  let n := bitsOf w
  let x := (uval w a).toNat
  let k := shAmt w b
  wrap w ((x * 2 ^ k) % 2 ^ n + x / 2 ^ (n - k) : Nat)

def execRot (r : R3) (w : Bool) (s : State) : Host.Outcome State Fault Refusal := .next (s.op2 r w (rotVal w))

/-- d := ((a·2^w + c) >> n) mod 2^w (R268). -/
def execFunl (r : R3) (w : Bool) (s : State) : Host.Outcome State Fault Refusal :=
  .next (s.compute r.g r.d w [(r.a, w), (r.b, w), (r.c, w)] fun t l =>
    let k := t.cur.coh
    wrap w ((uval w (t.val k r.a w l) * 2 ^ bitsOf w + uval w (t.val k r.c w l)) / 2 ^ shAmt w (t.val k r.b w l)))

/-- pos and len of a control word (R268). -/
def fieldCtl (ctl : DWord) : Nat × Nat := (ctl.toNat % 64, (ctl.toNat / 256) % 128)

/-- bfx (R268). -/
def bfxVal (w u : Bool) (a ctl : DWord) : DWord :=
  let p := fieldCtl ctl
  let n := bitsOf w
  if n ≤ p.1 ∨ p.2 = 0 then 0
  else
    let len := min p.2 (n - p.1)
    let f := (uval w a).toNat / 2 ^ p.1 % 2 ^ len
    wrap w (if u ∨ f < 2 ^ (len - 1) then (f : Int) else (f : Int) - 2 ^ len)

def execBfx (r : R3) (w u : Bool) (s : State) : Host.Outcome State Fault Refusal := .next (s.op2 r w (bfxVal w u))

/-- bfi (R268). -/
def bfiVal (w : Bool) (a b ctl : DWord) : DWord :=
  let p := fieldCtl ctl
  let n := bitsOf w
  let x := (uval w a).toNat
  if n ≤ p.1 ∨ p.2 = 0 then wrap w (x : Nat)
  else
    let len := min p.2 (n - p.1)
    let low := x % 2 ^ p.1
    let high := x / 2 ^ (p.1 + len)
    wrap w (high * 2 ^ (p.1 + len) + (b.toNat % 2 ^ len) * 2 ^ p.1 + low : Nat)

def execBfi (r : R3) (w : Bool) (s : State) : Host.Outcome State Fault Refusal :=
  .next (s.compute r.g r.d w [(r.a, w), (r.b, w), (r.c, w)] fun t l =>
    let k := t.cur.coh
    bfiVal w (t.val k r.a w l) (t.val k r.b w l) (t.val k r.c w l))

/-- Number of set bits among the low w. -/
def popcVal (w : Bool) (a : DWord) : DWord :=
  BitVec.ofNat 64 ((List.range (bitsOf w)).filter (fun i => a.getLsbD i)).length

/-- Leading zero bits; w when a = 0. -/
def clzVal (w : Bool) (a : DWord) : DWord :=
  BitVec.ofNat 64 ((List.range (bitsOf w)).takeWhile (fun i => !a.getLsbD (bitsOf w - 1 - i))).length

/-- Trailing zero bits; w when a = 0. -/
def ctzVal (w : Bool) (a : DWord) : DWord :=
  BitVec.ofNat 64 ((List.range (bitsOf w)).takeWhile (fun i => !a.getLsbD i)).length

/-- Bit i moved to bit w − 1 − i. -/
def brevVal (w : Bool) (a : DWord) : DWord :=
  BitVec.ofNat 64 ((List.range (bitsOf w)).foldl (fun acc i => 2 * acc + (if a.getLsbD i then 1 else 0)) 0)

def execPopc (r : R3) (w : Bool) (s : State) : Host.Outcome State Fault Refusal := .next (s.op1 r w w (popcVal w))

def execClz (r : R3) (w : Bool) (s : State) : Host.Outcome State Fault Refusal := .next (s.op1 r w w (clzVal w))

def execCtz (r : R3) (w : Bool) (s : State) : Host.Outcome State Fault Refusal := .next (s.op1 r w w (ctzVal w))

def execBrev (r : R3) (w : Bool) (s : State) : Host.Outcome State Fault Refusal := .next (s.op1 r w w (brevVal w))

/-- Byte permute (R268): bytes 0 to 3 are a's, 4 to 7 are b's. -/
def permVal (a b c : Nat) : Nat :=
  let src := a % 2 ^ 32 + (b % 2 ^ 32) * 2 ^ 32
  (List.range 4).foldr
    (fun i acc =>
      let sel := c / 2 ^ (4 * i) % 16
      let x := src / 2 ^ (8 * (sel % 8)) % 256
      let x := if 8 ≤ sel then (if 128 ≤ x then 0xFF else 0) else x
      acc * 256 + x) 0

def execPerm (r : R3) (s : State) : Host.Outcome State Fault Refusal :=
  .next (s.compute r.g r.d false [(r.a, false), (r.b, false), (r.c, false)] fun t l =>
    let k := t.cur.coh
    BitVec.ofNat 64 (permVal (t.val k r.a false l).toNat (t.val k r.b false l).toNat (t.val k r.c false l).toNat))

/-- d := a at width W (R269). -/
def execMov (r : R3) (w : Bool) (s : State) : Host.Outcome State Fault Refusal :=
  .next (s.compute r.g r.d w [(r.a, w)] fun t l => t.val t.cur.coh r.a w l)

/-- d := a where p xor inv, b elsewhere (R269). -/
def execSel (r : R3) (w : Bool) (p : BitVec 3) (inv : Bool) (s : State) : Host.Outcome State Fault Refusal :=
  .next (s.compute r.g r.d w [(r.a, w), (r.b, w)] fun t l =>
    let k := t.cur.coh
    if (t.coh k).pred p.toNat l false != inv then t.val k r.a w l else t.val k r.b w l)

/-- Predicate d := lut[4·pa + 2·pb + pc]; index 7 reads false (R269). -/
def execPlog (g : Guard) (p pa pb pc : BitVec 3) (lut : BitVec 8) (s : State) : Host.Outcome State Fault Refusal :=
  .next (s.computeP g p [] fun t l =>
    let k := t.coh t.cur.coh
    let i := (if k.pred pa.toNat l false then 4 else 0) + (if k.pred pb.toNat l false then 2 else 0)
      + (if k.pred pc.toNat l false then 1 else 0)
    (lut.getLsbD i, 0))

/-- MOVI (R270): the immediate zero-extended, or sign-extended to 64 bits. -/
def execMovi (g : Guard) (d : Opnd) (sx : Bool) (imm : BitVec 32) (s : State) : Host.Outcome State Fault Refusal :=
  .next (s.compute g d sx [] fun _ _ => if sx then imm.signExtend 64 else imm.zeroExtend 64)

/-- MOVW (R270): one half of d becomes the immediate, the other is kept. -/
def execMovw (g : Guard) (d : Opnd) (lo : Bool) (imm : BitVec 32) (s : State) : Host.Outcome State Fault Refusal :=
  .next (s.compute g d true [(d, true)] fun t l =>
    let old := t.val t.cur.coh d true l
    if lo then old.extractLsb' 32 32 ++ imm else imm ++ old.extractLsb' 0 32)

end Sys2Proof.Machine
end

