-- ==== Sys2Proof/Machine/Float.lean ====
section
/-! DEFINITION. Floating point, packed half precision, conversion and special functions: opcodes 0x10 to 0x13, 0x20
and 0x21 (R271 to R279, R224). -/

namespace Sys2Proof.Machine

def fmtF (f64 : Bool) : Fmt := if f64 then .fp64 else .fp32

/-- A source of a floating word, flushed where FTZ asks for it (R207). -/
def State.fsrc (s : State) (o : Opnd) (f64 ftz : Bool) (l : Nat) : FVal :=
  (fmtF f64).ftzIn ftz (s.fval s.cur.coh o (fmtF f64) f64 l)

/-- A floating result as register bits. -/
def fres (r : Nat × NFlags) : DWord × NFlags := (BitVec.ofNat 64 r.1, r.2)

/-- The index operand of a form whose C field holds no other operand (R259). -/
def idxOf (rnd : Rnd) (c : Opnd) : Option Opnd := if rnd = .sr then some c else none

/-- The sources of such a form: C only under SR. -/
def withIdx (src : List (Opnd × Bool)) (rnd : Rnd) (c : Opnd) : List (Opnd × Bool) :=
  if rnd = .sr then src ++ [(c, false)] else src

/-- A two-operand rounding word. -/
def State.fop2 (s : State) (r : R3) (m : FMod) (f : Fmt → RMode → FVal → FVal → Nat × NFlags) : State :=
  s.computeF r.g r.d m.f64 (withIdx [(r.a, m.f64), (r.b, m.f64)] m.rnd r.c) fun t l =>
    fres (f (fmtF m.f64) (t.rmode m.rnd m.sat m.ftz (idxOf m.rnd r.c) l) (t.fsrc r.a m.f64 m.ftz l)
      (t.fsrc r.b m.f64 m.ftz l))

/-- d := round(exact(a + b)) (R272). -/
def execFadd (r : R3) (m : FMod) (s : State) : Host.Outcome State Fault Refusal := .next (s.fop2 r m Fmt.add)

/-- d := round(exact(a − b)) (R272). -/
def execFsub (r : R3) (m : FMod) (s : State) : Host.Outcome State Fault Refusal :=
  .next (s.fop2 r m (fun f md a b => f.add md a b.flip))

/-- d := round(exact(a · b)) (R272). -/
def execFmul (r : R3) (m : FMod) (s : State) : Host.Outcome State Fault Refusal := .next (s.fop2 r m Fmt.mul)

/-- d := round(exact((±a)·b + (±c))); j is 0 under SR (R272). -/
def execFfma (r : R3) (m : FMod) (na nc : Bool) (s : State) : Host.Outcome State Fault Refusal :=
  .next (s.computeF r.g r.d m.f64 [(r.a, m.f64), (r.b, m.f64), (r.c, m.f64)] fun t l =>
    let a := t.fsrc r.a m.f64 m.ftz l
    let c := t.fsrc r.c m.f64 m.ftz l
    fres ((fmtF m.f64).fma (t.rmode m.rnd m.sat m.ftz none l) (if na then a.flip else a)
      (t.fsrc r.b m.f64 m.ftz l) (if nc then c.flip else c)))

/-- R273. -/
def execFmin (r : R3) (ftz f64 : Bool) (s : State) : Host.Outcome State Fault Refusal :=
  .next (s.computeF r.g r.d f64 [(r.a, f64), (r.b, f64)] fun t l =>
    fres ((fmtF f64).minmax false ftz (t.fval t.cur.coh r.a (fmtF f64) f64 l) (t.fval t.cur.coh r.b (fmtF f64) f64 l)))

/-- R273. -/
def execFmax (r : R3) (ftz f64 : Bool) (s : State) : Host.Outcome State Fault Refusal :=
  .next (s.computeF r.g r.d f64 [(r.a, f64), (r.b, f64)] fun t l =>
    fres ((fmtF f64).minmax true ftz (t.fval t.cur.coh r.a (fmtF f64) f64 l) (t.fval t.cur.coh r.b (fmtF f64) f64 l)))

/-- d := round(exact(a · 2^b)), b a signed 32-bit integer (R272). -/
def execFscale (r : R3) (m : FMod) (s : State) : Host.Outcome State Fault Refusal :=
  .next (s.computeF r.g r.d m.f64 (withIdx [(r.a, m.f64), (r.b, false)] m.rnd r.c) fun t l =>
    fres ((fmtF m.f64).scale (t.rmode m.rnd m.sat m.ftz (idxOf m.rnd r.c) l) (t.fsrc r.a m.f64 m.ftz l)
      (t.val32 t.cur.coh r.b l).toInt))

/-- Predicate d := a cond b (R274). -/
def execFcmp (g : Guard) (p : BitVec 3) (a b : Opnd) (cc : FCond) (ftz f64 : Bool) (s : State) :
    Host.Outcome State Fault Refusal :=
  .next (s.computeP g p [(a, f64), (b, f64)] fun t l => fcmpVal cc (t.fsrc a f64 ftz l) (t.fsrc b f64 ftz l))

/-- d := the class mask of a (R274). -/
def execFclass (r : R3) (f64 : Bool) (s : State) : Host.Outcome State Fault Refusal :=
  .next (s.compute r.g r.d false [(r.a, f64)] fun t l =>
    BitVec.ofNat 64 ((fmtF f64).classify (t.fval t.cur.coh r.a (fmtF f64) f64 l)))

/-- d := a rounded to an integral value (R272). -/
def execFrint (r : R3) (rnd : Rnd) (ftz f64 : Bool) (s : State) : Host.Outcome State Fault Refusal :=
  .next (s.computeF r.g r.d f64 (withIdx [(r.a, f64)] rnd r.c) fun t l =>
    fres ((fmtF f64).rint (t.rmode rnd false ftz (idxOf rnd r.c) l) (t.fsrc r.a f64 ftz l)))

/-- The two halves of a packed word, each rounded on its own; half 1 draws with j xor 0x80000000 (R276). -/
def State.halves2 (s : State) (rnd : Rnd) (sat ftz : Bool) (j : Option Opnd) (l : Nat)
    (f : RMode → Nat → Nat × NFlags) : DWord × NFlags :=
  let c := s.cur.coh
  let idx := match j with | some o => (s.val32 c o l).toNat | none => 0
  let md := fun (h : Nat) => RMode.mk rnd sat ftz (if rnd = .sr then s.draw c l (if h = 0 then idx else idx ^^^ 0x80000000) else 0)
  let r0 := f (md 0) 0
  let r1 := f (md 1) 1
  (BitVec.ofNat 64 (r0.1 + 2 ^ 16 * r1.1), r0.2 ||| r1.2)

/-- Half h of a packed operand. -/
def State.hsrc (s : State) (o : Opnd) (ftz : Bool) (l h : Nat) : FVal :=
  Fmt.fp16.ftzIn ftz (Fmt.fp16.dec (s.h2val s.cur.coh o l / 2 ^ (16 * h) % 2 ^ 16))

def execHadd2 (r : R3) (rnd : Rnd) (ftz sat : Bool) (s : State) : Host.Outcome State Fault Refusal :=
  .next (s.computeF r.g r.d false (withIdx [(r.a, false), (r.b, false)] rnd r.c) fun t l =>
    t.halves2 rnd sat ftz (idxOf rnd r.c) l (fun md h => Fmt.fp16.add md (t.hsrc r.a ftz l h) (t.hsrc r.b ftz l h)))

def execHmul2 (r : R3) (rnd : Rnd) (ftz sat : Bool) (s : State) : Host.Outcome State Fault Refusal :=
  .next (s.computeF r.g r.d false (withIdx [(r.a, false), (r.b, false)] rnd r.c) fun t l =>
    t.halves2 rnd sat ftz (idxOf rnd r.c) l (fun md h => Fmt.fp16.mul md (t.hsrc r.a ftz l h) (t.hsrc r.b ftz l h)))

def execHfma2 (r : R3) (rnd : Rnd) (ftz sat : Bool) (s : State) : Host.Outcome State Fault Refusal :=
  .next (s.computeF r.g r.d false [(r.a, false), (r.b, false), (r.c, false)] fun t l =>
    t.halves2 rnd sat ftz none l (fun md h =>
      Fmt.fp16.fma md (t.hsrc r.a ftz l h) (t.hsrc r.b ftz l h) (t.hsrc r.c ftz l h)))

/-- The FP32 immediate forms, RNE, no flush (R275). -/
def State.fimm (s : State) (g : Guard) (d a : Opnd) (imm : BitVec 32) (f : FVal → FVal → Nat × NFlags) : State :=
  s.computeF g d false [(a, false)] fun t l => fres (f (t.fsrc a false false l) (Fmt.fp32.dec imm.toNat))

def execFaddImm (g : Guard) (d a : Opnd) (imm : BitVec 32) (s : State) : Host.Outcome State Fault Refusal :=
  .next (s.fimm g d a imm (Fmt.fp32.add .rne))

def execFmulImm (g : Guard) (d a : Opnd) (imm : BitVec 32) (s : State) : Host.Outcome State Fault Refusal :=
  .next (s.fimm g d a imm (Fmt.fp32.mul .rne))

def execFminImm (g : Guard) (d a : Opnd) (imm : BitVec 32) (s : State) : Host.Outcome State Fault Refusal :=
  .next (s.fimm g d a imm (Fmt.fp32.minmax false false))

def execFmaxImm (g : Guard) (d a : Opnd) (imm : BitVec 32) (s : State) : Host.Outcome State Fault Refusal :=
  .next (s.fimm g d a imm (Fmt.fp32.minmax true false))

/-! ### Special functions (R279) -/

/-- The FP32 bits of an operand: a constant's value, or a register's word. -/
def State.bits32 (s : State) (o : Opnd) (l : Nat) : Word :=
  match o with
  | .i n => BitVec.ofNat 32 (Fmt.fp32.ofInt .rne n.toNat).1
  | .f n => BitVec.ofNat 32 (fconst n)
  | .v _ => s.val32 s.cur.coh o l
  | .s _ => s.val32 s.cur.coh o l
  | .x _ => s.val32 s.cur.coh o l

/-- A flagged special function of the 32-bit source. -/
def State.special1 (s : State) (fn : Nat) (r : R3) (f : FlagSel) (ftz : Bool) : State :=
  s.issue { Need.of r.g [(r.d, 1)] [(r.a, 1)] with flag := f } fun t run =>
    t.startComp f r.d false run (fun l => fres (sfVal fn ftz (t.bits32 r.a l)))

def execRcp (r : R3) (f : FlagSel) (ftz : Bool) (s : State) : Host.Outcome State Fault Refusal :=
  .next (s.special1 0 r f ftz)
def execRsq (r : R3) (f : FlagSel) (ftz : Bool) (s : State) : Host.Outcome State Fault Refusal :=
  .next (s.special1 1 r f ftz)
def execSqrt (r : R3) (f : FlagSel) (ftz : Bool) (s : State) : Host.Outcome State Fault Refusal :=
  .next (s.special1 2 r f ftz)
def execExp2 (r : R3) (f : FlagSel) (ftz : Bool) (s : State) : Host.Outcome State Fault Refusal :=
  .next (s.special1 3 r f ftz)
def execLog2 (r : R3) (f : FlagSel) (ftz : Bool) (s : State) : Host.Outcome State Fault Refusal :=
  .next (s.special1 4 r f ftz)
def execSinpi (r : R3) (f : FlagSel) (ftz : Bool) (s : State) : Host.Outcome State Fault Refusal :=
  .next (s.special1 5 r f ftz)
def execCospi (r : R3) (f : FlagSel) (ftz : Bool) (s : State) : Host.Outcome State Fault Refusal :=
  .next (s.special1 6 r f ftz)
def execTanh (r : R3) (f : FlagSel) (ftz : Bool) (s : State) : Host.Outcome State Fault Refusal :=
  .next (s.special1 7 r f ftz)

/-! ### Conversion (R277, R278) -/

/-- The floating format of a CVT type. -/
def cvtFmt : CvtTy → Fmt
  | .f32 => .fp32 | .bf16 => .bf16 | .f16 => .fp16 | .e4m3 => .e4m3 | .e5m2 => .e5m2 | _ => .fp64

/-- Width and signedness of an integer CVT type. -/
def cvtInt : CvtTy → Nat × Bool
  | .s32 => (32, true) | .z32 => (32, false) | .s64 => (64, true) | .z64 => (64, false) | .s16 => (16, true)
  | .z16 => (16, false) | .z8 => (8, false) | _ => (8, true)

/-- The range of an integer type. -/
def intRange (w : Nat) (sg : Bool) : Int × Int :=
  if sg then (-(2 ^ (w - 1)), 2 ^ (w - 1) - 1) else (0, 2 ^ w - 1)

/-- Low bits of a source word as an integer of a type. -/
def intOf (w : Nat) (sg : Bool) (x : Nat) : Int :=
  let y := x % 2 ^ w
  if sg ∧ 2 ^ (w - 1) ≤ y then (y : Int) - 2 ^ w else y

/-- Placement of an integer result: signed types sign-extended to 32 bits (R277). -/
def placeInt (w : Nat) (i : Int) : DWord := if w = 64 then BitVec.ofInt 64 i else (BitVec.ofInt 32 i).zeroExtend 64

/-- CVT of one source (R278). -/
def cvtVal (md : RMode) (dt st : CvtTy) (x : Nat) (fv : FVal) : DWord × NFlags :=
  if dt.isFloat then
    if st = dt then fres ((cvtFmt dt).same fv)
    else if st.isFloat then fres ((cvtFmt dt).conv md fv)
    else fres ((cvtFmt dt).ofInt md (intOf (cvtInt st).1 (cvtInt st).2 x))
  else
    let di := cvtInt dt
    let rg := intRange di.1 di.2
    if st.isFloat then
      let r := toInt md.rnd md.r rg.1 rg.2 fv
      (placeInt di.1 r.1, r.2)
    else
      let i := intOf (cvtInt st).1 (cvtInt st).2 x
      if rg.1 ≤ i ∧ i ≤ rg.2 then (placeInt di.1 i, 0)
      else if md.sat then (placeInt di.1 (if i < rg.1 then rg.1 else rg.2), 0)
      else (placeInt di.1 (intOf di.1 di.2 (i % 2 ^ di.1).toNat), 0)

/-- CVT (R277): a narrow source is read from the low bits of its word; constants are read in the source type. -/
def execCvt (r : R3) (rnd : Rnd) (sat : Bool) (dt sty : CvtTy) (s : State) : Host.Outcome State Fault Refusal :=
  .next (s.computeF r.g r.d dt.is64 (withIdx [(r.a, sty.is64)] rnd r.c) fun t l =>
    let c := t.cur.coh
    let f := cvtFmt sty
    let x := (t.val c r.a sty.is64 l).toNat
    let fv := match r.a with
      | .i _ => t.fval c r.a f sty.is64 l
      | .f _ => t.fval c r.a f sty.is64 l
      | _ => f.dec (x % 2 ^ f.width)
    cvtVal (t.rmode rnd sat false (idxOf rnd r.c) l) dt sty x fv)

end Sys2Proof.Machine
end

