-- ==== Sys2Proof/Machine/Trans.lean ====
section
/-! DEFINITION. Addresses and translation: canonical addresses and windows (R21 to R25), physical addresses and ownership
(R26 to R29), page tables and walks (R31 to R38), TLBs (R39, R40), and the causes of R45 in their order. -/

namespace Sys2Proof.Machine

/-! ### Virtual and physical addresses -/

/-- Bits [63:57] equal bit 56 (R21). -/
def canonical (va : Nat) : Bool := va / 2 ^ 56 == 0 || va / 2 ^ 56 == 255

/-- The window region (R22). -/
def isWindow (va : Nat) : Bool := 0xF0 ≤ va / 2 ^ 48 && va / 2 ^ 48 ≤ 0xFF

def clusterOf (core : Nat) : Nat := core / 8
def dieOf (core : Nat) : Nat := core / 192

/-- The regions of the local physical map (R27). -/
inductive Region where
  | hbm | vault | cap | host | none
  deriving DecidableEq, Repr

def paPkg (pa : Nat) : Nat := pa / 2 ^ 42 % 1024
def paOff (pa : Nat) : Nat := pa % 2 ^ 42

/-- PKG 0x3FF names the issuing package (R26). -/
def State.norm (s : State) (pa : Nat) : Nat :=
  if paPkg pa = 0x3FF then paOff pa + s.ctl.pkg * 2 ^ 42 else pa

/-- A normalised address of this package. -/
def State.isLocal (s : State) (pa : Nat) : Bool := paPkg pa == s.ctl.pkg

def regionOf (off : Nat) : Region :=
  if off < 0x08000000000 then .hbm
  else if off < 0x08180000000 then .vault
  else if 0x20000000000 ≤ off ∧ off < 0x38000000000 then .cap
  else if 0x38000000000 ≤ off then .host
  else .none

/-- The TIER that the region of an address calls for; none where the address lies in no region (R33, R34). -/
def State.tierOf (s : State) (pa : Nat) : Option Nat :=
  if 576 ≤ paPkg pa then Option.none
  else
    match regionOf (paOff pa) with
    | .none => Option.none
    | .hbm => some (if s.isLocal pa then 0 else 3)
    | .cap => some (if s.isLocal pa then 1 else 3)
    | .vault => some (if s.isLocal pa then 2 else 3)
    | .host => some 3

/-- The ownership entry of the 2 MiB region that holds an address (R29). -/
def State.ownAt (s : State) (pa : Nat) : Own := getD s.own (pa / 2 ^ 21) .blank

/-- Writes are refused: the region is executable, or a load is under way in it (R29, R419). -/
def Own.sealed (o : Own) : Bool := o.ex || o.loading

/-- The partition that a package knows by a DTID (R390). -/
def State.dtidPart (s : State) (pkg dtid : Nat) : Option Nat := look s.ctl.dtid (65536 * pkg + dtid)

/-- The DTID of a partition of this package. -/
def State.dtidOf (s : State) (part : Nat) : Option Nat :=
  (s.ctl.dtid.find? (fun e => e.1 / 65536 == s.ctl.pkg && e.2 == part)).map (fun e => e.1 % 65536)

/-- Access kinds of R371: 1 load, 2 store, 3 RMW, 4 fetch, 5 engine read, 6 engine write. -/
def isRead (k : Nat) : Bool := k == 1 || k == 3 || k == 5
def isWrite (k : Nat) : Bool := k == 2 || k == 3 || k == 6

/-! ### Walks -/

/-- How a walk ends: a translation and where its access counter lies, a fault's cause and level, or MV = 1. -/
inductive WalkRes where
  | ok (e : TlbE) (acnt : Nat)
  | bad (cause level : Nat)
  | mv (level : Nat)
  deriving DecidableEq, Repr

/-- A field of a table entry. -/
def pte (e lo n : Nat) : Nat := e / 2 ^ lo % 2 ^ n

/-- The index of an address at a level (R31). -/
def walkIdx (lvl va : Nat) : Nat :=
  if lvl = 3 then pte va 46 11 else if lvl = 2 then pte va 36 10 else if lvl = 1 then pte va 26 10 else pte va 16 10

/-- Bytes of a page (R33). -/
def pageSize (sz : Nat) : Nat := if sz = 0 then 2 ^ 16 else if sz = 1 then 2 ^ 21 else 2 ^ 30

/-- A table lies in HBM4E or capacity-tier memory of the partition (R31). -/
def State.tableOk (s : State) (part pa : Nat) : Bool :=
  s.isLocal pa && (regionOf (paOff pa) == .hbm || regionOf (paOff pa) == .cap) && (s.ownAt pa).owner == some part

/-- A leaf entry at a level (R33 to R37), in the order of R45. -/
def State.leaf (s : State) (part tctx va lvl table e : Nat) : WalkRes :=
  let sz := pte e 2 2
  let pa := pte e 16 36 * 2 ^ 16
  let npa := s.norm pa
  let size := pageSize sz
  let bad15 := pte e 58 6 != 0 || pte e 14 2 != 0 || pte e 7 1 != 0 || sz == 3 || 2 ≤ lvl || (lvl == 1 && sz != 2) ||
    (lvl == 0 && sz == 2) || pa % size != 0 || (s.tierOf npa).any (· != pte e 8 2)
  if bad15 then .bad 0x15 lvl
  else if pte e 53 5 ≠ part then .bad 0x14 lvl
  else if (s.tierOf npa).isNone then .bad 0x16 lvl
  else if pte e 52 1 = 1 then .mv lvl
  else
    let i := walkIdx lvl va
    let grp := if lvl = 0 then 32 else 16
    .ok ⟨tctx, va / size * size, size, npa, pte e 8 2, pte e 53 5, pte e 4 1 == 1, pte e 5 1 == 1, pte e 6 1 == 1⟩
      (table + 8 * (i / grp * grp))

/-- The walk from a table at a level (R31 to R35). -/
def State.walkFrom (s : State) (part tctx va : Nat) : (lvl table : Nat) → WalkRes
  | 0, table =>
    if !s.tableOk part table then .bad 0x15 0
    else
      let e := getBytes s.mem (table + 8 * walkIdx 0 va) 8
      if pte e 0 1 = 0 then .bad 0x01 0
      else if pte e 1 1 = 0 then .bad 0x15 0
      else s.leaf part tctx va 0 table e
  | lvl + 1, table =>
    if !s.tableOk part table then .bad 0x15 (lvl + 1)
    else
      let e := getBytes s.mem (table + 8 * walkIdx (lvl + 1) va) 8
      if pte e 0 1 = 0 then .bad 0x01 (lvl + 1)
      else if pte e 1 1 = 1 then s.leaf part tctx va (lvl + 1) table e
      else if pte e 52 12 ≠ 0 ∨ pte e 2 11 ≠ 0 then .bad 0x15 (lvl + 1)
      else s.walkFrom part tctx va lvl (s.norm (pte e 13 39 * 2 ^ 13))

/-- TCTX_n and its fields (R30). -/
def State.tctxOf (s : State) (n : Nat) : Nat := (getD s.ctl.tctx n 0).toNat
def State.tctxPart (s : State) (n : Nat) : Nat := pte (s.tctxOf n) 1 5
def State.tctxEn (s : State) (n : Nat) : Bool := pte (s.tctxOf n) 0 1 == 1 && s.tctxPart n < 20

/-- A walk of an address space. -/
def State.walk (s : State) (tctx va : Nat) : WalkRes :=
  s.walkFrom (s.tctxPart tctx) tctx va 3 (s.norm (pte (s.tctxOf tctx) 14 38 * 2 ^ 14))

/-! ### Walk caches (R40) -/

/-- What leads to a table: the pointer taken at level lvl covers the address bits above that level's index. -/
def ptrTag (lvl va : Nat) : Nat := pte va (16 + 10 * lvl) 41

/-- The pointer entries that a walk from a table meets: the levels 3 to 1, and the table each leads to. -/
def State.walkPtrs (s : State) (tctx va : Nat) : (lvl table : Nat) → List PtrE
  | 0, _ => []
  | lvl + 1, table =>
    let e := getBytes s.mem (table + 8 * walkIdx (lvl + 1) va) 8
    if pte e 0 1 = 0 ∨ pte e 1 1 = 1 then []
    else
      let t := s.norm (pte e 13 39 * 2 ^ 13)
      ⟨tctx, lvl, ptrTag (lvl + 1) va, t⟩ :: s.walkPtrs tctx va lvl t

/-- The entry of a die's walk cache that brings an address furthest down. -/
def State.ptrHit (s : State) (die tctx va : Nat) : Option PtrE :=
  ((getD s.walkC die []).filter (fun e => e.tctx == tctx && e.tag == ptrTag (e.lvl + 1) va)).foldl
    (fun m e => match m with
      | none => some e
      | some x => if e.lvl < x.lvl then some e else m) none

/-- A walk by a walker of a die: it starts where the walk cache leads. -/
def State.walkOn (s : State) (die tctx va : Nat) : WalkRes :=
  match s.ptrHit die tctx va with
  | some e => s.walkFrom (s.tctxPart tctx) tctx va e.lvl e.table
  | none => s.walk tctx va

/-- The walk cache takes the pointers of a walk; a full one gives up any entry (R40). -/
def ptrAdd (fresh : Nat) (l : List PtrE) (e : PtrE) : List PtrE :=
  let l := l.filter (fun x => !(x.tctx == e.tctx && x.lvl == e.lvl && x.tag == e.tag))
  if l.length < Config.walkCache then e :: l else e :: l.eraseIdx (Config.victim fresh % l.length)

def State.fillPtrs (s : State) (die tctx va : Nat) : State :=
  match s.ptrHit die tctx va with
  | some e => { s with walkC := set s.walkC die ((s.walkPtrs tctx va e.lvl e.table).foldl (ptrAdd s.fresh) (getD s.walkC die [])) }
  | none =>
    { s with walkC := set s.walkC die ((s.walkPtrs tctx va 3 (s.norm (pte (s.tctxOf tctx) 14 38 * 2 ^ 14))).foldl
        (ptrAdd s.fresh) (getD s.walkC die [])) }

/-! ### TLBs -/

/-- An entry translates an address. -/
def TlbE.has (e : TlbE) (tctx va : Nat) : Bool := e.tctx == tctx && e.va ≤ va && va < e.va + e.size

/-- The entry of a TLB that serves an address; where pages of mixed size overlap, any of them (R35). -/
def State.pickTlb (s : State) (l : List TlbE) (tctx va : Nat) : Option TlbE :=
  let m := l.filter (fun e => e.has tctx va)
  match m with
  | [] => none
  | [e] => some e
  | e :: _ :: _ => some ((m[Config.choose s.fresh % m.length]?).getD e)

/-- A translation held by the core's TLB or its cluster's (R39). -/
def State.tlbHit (s : State) (core tctx va : Nat) : Option TlbE :=
  match s.pickTlb (s.core core).tlb tctx va with
  | some e => some e
  | none => s.pickTlb (getD s.cluTlb (clusterOf core) []) tctx va

/-- The set of a cluster TLB that holds an entry (R39: 512 sets; which of them is not stated). -/
def cluSet (e : TlbE) : Nat := Config.tlbSet e.tctx e.size (e.va / e.size) % Config.clusterTlbSets

/-- Enters a translation among at most `ways` entries of its set; a full set gives up any entry (R39). -/
def tlbAdd (ways fresh : Nat) (same : TlbE → Bool) (l : List TlbE) (e : TlbE) : List TlbE :=
  if l.contains e then l
  else if l.length < ways then e :: l
  else
    let m := l.filter same
    if m.length < ways then e :: l
    else
      match m[Config.victim fresh % m.length]? with
      | some x => e :: l.filter (fun y => y != x)
      | none => e :: l

/-- The core TLB, fully associative, takes an entry. -/
def State.fillCore (s : State) (core : Nat) (e : TlbE) : State :=
  if (s.core core).tlb.contains e then s
  else (s.modCore core (fun k => { k with tlb := tlbAdd Config.coreTlbEntries s.fresh (fun _ => true) k.tlb e })).next

/-- Both TLBs take the result of a walk (R39). -/
def State.fillBoth (s : State) (core : Nat) (e : TlbE) : State :=
  let cl := clusterOf core
  let l := tlbAdd Config.clusterTlbWays s.fresh (fun x => cluSet x == cluSet e) (getD s.cluTlb cl []) e
  ({ s with cluTlb := set s.cluTlb cl l } : State).next.fillCore core e

/-- A hit in the cluster TLB fills the core TLB (R39). -/
def State.fillHit (s : State) (core tctx va : Nat) : State :=
  if ((s.core core).tlb.any (fun e => e.has tctx va)) then s
  else
    match s.tlbHit core tctx va with
    | some e => s.fillCore core e
    | none => s

/-- Drops matching entries from every TLB. -/
def State.dropTlb (s : State) (f : TlbE → Bool) : State :=
  { s with
    cores := s.cores.map (fun k => (k.1, { k.2 with tlb := k.2.tlb.filter (fun e => !f e) }))
    cluTlb := s.cluTlb.map (fun c => (c.1, c.2.filter (fun e => !f e))) }

/-- After a fault, the next access to the page walks again (R39): no TLB keeps what translates the bytes of an access,
the longest of 128 bytes. -/
def State.forget (s : State) (cause tctx va : Nat) : State :=
  if [0x14, 0x16, 0x11, 0x12, 0x13, 0x18].contains cause then
    s.dropTlb (fun e => e.has tctx va || e.has tctx ((va + 127) % 2 ^ 64))
  else s

/-- The level at which the walk of a word's access stopped, for a fault found behind its leaf; 15 where a TLB served the
access (R371). -/
def State.walkedAt (s : State) (c : Nat) (m : LaneMask) (pc : DWord) (va : Nat) : Nat :=
  ((s.walks.find? (fun w => w.2.coh == c && w.2.pc == pc && (w.2.lanes &&& m) != 0 &&
    w.2.va / 2 ^ 16 == va / 2 ^ 16)).bind (fun w => w.2.lvl)).getD 15

/-- The level of a leaf's page (R33). -/
def TlbE.lvl (e : TlbE) : Nat := if e.size = 2 ^ 30 then 1 else 0

/-! ### Checks after translation -/

/-- The checks of R29, R26, R28, R33 and R390 on a translated address, in the order of R45; 0 where all pass. -/
def State.physCause (s : State) (part kind pa : Nat) (rd wr ex : Bool) : Nat :=
  let own := s.ownAt pa
  let reg := regionOf (paOff pa)
  let loc := s.isLocal pa
  let tgt := if loc then some part else (s.dtidOf part).bind (s.dtidPart (paPkg pa))
  let mapped := reg == .hbm || reg == .cap || reg == .vault
  if loc ∧ mapped ∧ own.owner ≠ some part then 0x14
  else if !loc ∧ paPkg pa < 576 ∧ tgt.isNone then 0x14
  else if 576 ≤ paPkg pa ∨ reg = .none ∨ (!loc ∧ reg = .host) then 0x16
  else if !loc ∧ (own.owner ≠ tgt ∨ own.exported = false) then 0x14
  else if isRead kind ∧ rd = false then 0x11
  else if isWrite kind ∧ (wr = false ∨ (mapped ∧ own.sealed)) then 0x12
  else if kind = 4 ∧ (ex = false ∨ own.ex = false) then 0x13
  else if reg = .host ∧ kind ≠ 4 ∧ Config.hostReject s.fresh (paOff pa) then 0x18
  else 0

/-- The same for a TLB entry that translates an address. -/
def State.entryCause (s : State) (part kind : Nat) (e : TlbE) (va : Nat) : Nat :=
  if e.pkey ≠ part then 0x14 else s.physCause part kind (e.pa + (va - e.va)) e.rd e.wr e.ex

/-! ### Channels and L2 slices (R72 to R75, R79, R92) -/

/-- The pseudo-channel of an HBM4E address among the 1,024 of the package (R79, R91). -/
def pchOf (pa : Nat) : Nat := 128 * (paOff pa / 2 ^ 36) + (pte pa 9 7 ^^^ pte pa 16 7 ^^^ pte pa 23 7)

/-- The capacity-tier channel of an address within its die's share (R79). -/
def cchOf (pa : Nat) : Nat := pte pa 9 4 ^^^ pte pa 13 4 ^^^ pte pa 17 4

/-- The die on which a frame is homed (R11). -/
def frameDie (f : Nat) : Nat :=
  if regionOf (paOff (f * 2 ^ 21)) = .hbm then f % 2 ^ 21 / 65536 else (f % 2 ^ 21 - 1048576) / 196608

/-- The slice of a line within its home die (R73), and the die. -/
def sliceOf (pa : Nat) : Nat × Nat :=
  let x := pte pa 9 33
  let b := pte x 0 5 ^^^ pte x 5 5 ^^^ pte x 10 5 ^^^ pte x 15 5 ^^^ pte x 20 5 ^^^ pte x 25 5 ^^^ pte x 30 3
  (frameDie (pa / 2 ^ 21), 32 * (x % 5) + b)

/-- Memory whose lines the slices cache: HBM4E and capacity tier of the package (R72). -/
def State.sliced (s : State) (pa : Nat) : Bool :=
  s.isLocal pa && (regionOf (paOff pa) == .hbm || regionOf (paOff pa) == .cap)

/-- Units granted to a partition on a pseudo-channel in this window (R92); the capacity tier has no floors (R87). -/
def State.charge (s : State) (part pa n : Nat) : State :=
  if n = 0 ∨ regionOf (paOff pa) ≠ .hbm then s
  else
    let k := 1024 * part + pchOf pa
    { s with ctl := { s.ctl with granted := put s.ctl.granted k (getD s.ctl.granted k 0 + n) 0 } }

/-- A whole 2 MiB frame of HBM4E moves to or from memory: 256 sectors on each pseudo-channel of its stack (R79, R87). -/
def State.chargeFrame (s : State) (part f : Nat) : State :=
  let st := paOff (f * 2 ^ 21) / 2 ^ 36
  (List.range 128).foldl (fun (s : State) i =>
    let k := 1024 * part + 128 * st + i
    { s with ctl := { s.ctl with granted := put s.ctl.granted k (getD s.ctl.granted k 0 + 256) 0 } }) s

/-- The same for the owner of the memory. -/
def State.chargeOwner (s : State) (pa n : Nat) : State :=
  match (s.ownAt pa).owner with
  | some p => s.charge p pa n
  | none => s

/-- Dirty sectors of a line. -/
def L2Line.owed (e : L2Line) : Nat := ((List.range 8).filter (fun i => e.dirty.getLsbD i)).length

/-- A slice without a line more in some set: a full set gives up one line, whose dirty sectors go to memory (R72). -/
def State.l2Room (s : State) (line : Nat) (ls : List L2Line) : List L2Line × State :=
  if ls.length < Config.l2Ways then (ls, s)
  else
    let m := ls.filter (fun e => Config.l2Set e.line % Config.l2Sets == Config.l2Set line % Config.l2Sets)
    if m.length < Config.l2Ways then (ls, s)
    else
      match m[Config.victim s.fresh % m.length]? with
      | some v => (ls.filter (fun e => e.line != v.line), (s.chargeOwner (512 * v.line + s.ctl.pkg * 2 ^ 42) v.owed).next)
      | none => (ls, s)

/-- The line of an address in its slice. -/
def State.l2LineOf (s : State) (pa : Nat) : Option L2Line :=
  (getD s.l2 (160 * (sliceOf pa).1 + (sliceOf pa).2) []).find? (fun e => e.line == paOff pa / 512)

/-- The slice holds the sector of an address, and it is dirty there. -/
def State.l2Holds (s : State) (pa : Nat) : Bool := s.sliced pa && (s.l2LineOf pa).any (fun e => e.valid.getLsbD (pa / 64 % 8))
def State.l2Dirty (s : State) (pa : Nat) : Bool := s.l2Holds pa && (s.l2LineOf pa).any (fun e => e.dirty.getLsbD (pa / 64 % 8))

/-- An 8-byte word holds an uncorrectable error (R370). -/
def State.markBad (s : State) (w : Nat) : State :=
  if s.svc.bad.contains w then s else { s with svc := { s.svc with bad := s.svc.bad ++ [w] } }

/-- A damaged word of a clean sector in a slice: a sector that comes in anew brings its word from memory, and a write makes the
error the word's (R438). -/
def State.l2Bad (s : State) (x : Nat) (held write : Bool) : State :=
  let mine := s.svc.badL2.filter (fun w => w / 64 == x)
  if mine.isEmpty ∨ (held ∧ !write) then s
  else
    let s := { s with svc := { s.svc with badL2 := s.svc.badL2.filter (fun w => w / 64 != x) } }
    if held then mine.foldl State.markBad s else s

/-- A sector is used at its slice: a read, or a write of the whole sector or of a part, makes it valid; a write makes it
dirty. A sector that must be read from memory counts one unit (R72, R92), where the access has not been counted (`free`). -/
def State.l2Sector (s : State) (x : Nat) (write free : Bool) : State :=
  let pa := 64 * x
  if !s.sliced pa then s
  else
    let sl := sliceOf pa
    let k := 160 * sl.1 + sl.2
    let line := paOff pa / 512
    let ls := getD s.l2 k []
    let e := (ls.find? (fun e => e.line == line)).getD ⟨line, 0, 0⟩
    let bit := 1#8 <<< (x % 8)
    let s := if e.valid &&& bit ≠ 0 ∨ free then s else s.chargeOwner pa 1
    let s := s.l2Bad x (e.valid &&& bit != 0) write
    let r := if ls.any (fun e => e.line == line) then (ls.filter (fun e => e.line != line), s) else s.l2Room line ls
    let e' : L2Line := ⟨line, e.valid ||| bit, if write then e.dirty ||| bit else e.dirty⟩
    { r.2 with l2 := set r.2.l2 k (e' :: r.1) }

/-- Some bytes are read through the slices. -/
def State.l2Read (s : State) (pa n : Nat) : State :=
  (upto (pa / 64) ((pa + n - 1) / 64 + 1 - pa / 64)).foldl (fun s x => s.l2Sector x false false) s

/-- Some bytes are written at the slices. -/
def State.l2Write (s : State) (pa n : Nat) : State :=
  (upto (pa / 64) ((pa + n - 1) / 64 + 1 - pa / 64)).foldl (fun s x =>
    s.l2Sector x true (decide (pa ≤ 64 * x) && decide (64 * x + 64 ≤ pa + n))) s

/-- An atomic at some bytes of a line of a channel: four units, and its slice takes the sectors (R72, R92). -/
def State.atomicAt (s : State) (pa n : Nat) : State :=
  (upto (pa / 64) ((pa + n - 1) / 64 + 1 - pa / 64)).foldl (fun s x => s.l2Sector x false true) (s.chargeOwner pa 4)

/-- A walk reads its entries through the slices (R40). -/
def State.l2Walk (s : State) (die tctx va : Nat) : State :=
  match s.ptrHit die tctx va with
  | some e => ((s.walkPtrs tctx va e.lvl e.table).foldl (fun s p => s.l2Read (p.table + 8 * walkIdx p.lvl va) 8)
      (s.l2Read (e.table + 8 * walkIdx e.lvl va) 8))
  | none =>
    let root := s.norm (pte (s.tctxOf tctx) 14 38 * 2 ^ 14)
    ((s.walkPtrs tctx va 3 root).foldl (fun s p => s.l2Read (p.table + 8 * walkIdx p.lvl va) 8)
      (s.l2Read (root + 8 * walkIdx 3 va) 8))

/-- The line lies in a frame of the package. -/
def L2Line.inFrame (e : L2Line) (f : Nat) : Bool := e.line / 4096 == f % 2 ^ 21

/-- The dirty sectors of a frame go to memory; its lines stay (R86 step 2). -/
def State.l2Clean (s : State) (f : Nat) : State :=
  let s := s.l2.foldl (fun s k => (k.2.filter (·.inFrame f)).foldl
    (fun s e => s.chargeOwner (512 * e.line + s.ctl.pkg * 2 ^ 42) e.owed) s) s
  { s with l2 := s.l2.map (fun k => (k.1, k.2.map (fun e => if e.inFrame f then { e with dirty := 0 } else e))) }

/-- A slice writes its dirty sectors back and holds no line any more. -/
def State.l2Empty (s : State) (k : Nat) : State :=
  let s := (getD s.l2 k []).foldl (fun s e => s.chargeOwner (512 * e.line + s.ctl.pkg * 2 ^ 42) e.owed) s
  { s with l2 := del s.l2 k }

/-- The lines of a frame leave the slices (R86 step 5). -/
def State.l2Drop (s : State) (f : Nat) : State :=
  let s := s.l2Clean f
  { s with l2 := s.l2.map (fun k => (k.1, k.2.filter (fun e => !e.inFrame f))) }

/-- What a unit that is no lane finds at an address of an address space (engines, the scheduler, the spawn former): the
physical address with its TIER, a cause and level, or MV = 1. -/
inductive Page where
  | ok (pa tier : Nat)
  | bad (cause level : Nat)
  | mv
  deriving DecidableEq, Repr

/-- Resolves one address for an access kind: through the TLBs of a core and a walker of its die where one is named, else by
a walk. -/
def State.page (s : State) (core : Option Nat) (part tctx kind va : Nat) : Page :=
  let fin := fun (e : TlbE) (lvl : Nat) =>
    let c := s.entryCause part kind e va
    if c ≠ 0 then Page.bad c lvl else .ok (e.pa + (va - e.va)) e.tier
  if !canonical va then .bad 0x10 15
  else if isWindow va then .bad 0x17 15
  else
    match core.bind (fun k => s.tlbHit k tctx va) with
    | some e => fin e 15
    | none =>
      match (match core with | some k => s.walkOn (dieOf k) tctx va | none => s.walk tctx va) with
      | .ok e _ => fin e e.lvl
      | .bad c l => .bad c l
      | .mv _ => .mv

/-- Resolves n bytes, at most 64 KiB, each page for itself: the pieces in order, or the first that fails. -/
def State.pages (s : State) (core : Option Nat) (part tctx kind va n : Nat) : List (Page × Nat × Nat) :=
  let room := 2 ^ 16 - va % 2 ^ 16
  if n ≤ room then [(s.page core part tctx kind va, va, n)]
  else [(s.page core part tctx kind va, va, room),
    (s.page core part tctx kind ((va + room) % 2 ^ 64) , (va + room) % 2 ^ 64, n - room)]

/-- The pieces of bytes that all resolve: physical address and length. -/
def okPieces (l : List (Page × Nat × Nat)) : Option (List (Nat × Nat)) :=
  l.foldr (fun p acc => match p.1, acc with
    | .ok pa _, some a => some ((pa, p.2.2) :: a)
    | _, _ => none) (some [])

/-- Bytes of memory in pieces as one number, least significant first. -/
def State.getPieces (s : State) (l : List (Nat × Nat)) : Nat :=
  l.foldr (fun p acc => getBytes s.mem p.1 p.2 + 2 ^ (8 * p.2) * acc) 0

end Sys2Proof.Machine
end

