-- ==== Sys2Proof/Machine/Cache.lean ====
section
/-! DEFINITION. Where bytes are held: homes and the conflicts found there (R74, R96, R132, R141), the L1 (R76 to R78,
R107), the release table and its tags (R105, R106, R108), register windows (R55, R56), and the reading and writing of one
segment of an access. -/

namespace Sys2Proof.Machine

/-! ### Core shares (R407, R408) -/

def State.pctlOf (s : State) (p : Nat) : Nat := (getD s.ctl.pctl p 0x0003E800#32).toNat
def State.shareOf (s : State) (p : Nat) : Nat := pte (s.pctlOf p) 0 5
def State.cshareOf (s : State) (n : Nat) : Nat := (getD s.ctl.cshare n 0).toNat
def csRowBase (v : Nat) : Nat := pte v 0 10
def csRows (v : Nat) : Nat := pte v 10 10
def csL1Min (v : Nat) : Nat := pte v 20 7
def csSlotBase (v : Nat) : Nat := pte v 27 6
def csNslot (v : Nat) : Nat := pte v 33 7
def csNact (v : Nat) : Nat := pte v 40 4
def csNs (v : Nat) : Nat := pte v 44 6
def csNa (v : Nat) : Nat := pte v 50 4
def csNu (v : Nat) : Nat := pte v 54 6

/-- Rows of each run that a block of a grid needs (R51): scratchpad, spawn queue, one window. -/
def Grid.scrRows (g : Grid) : Nat := (g.scr + 7) / 8
def Grid.entrySize (g : Grid) : Nat := 64 * ((16 + 4 * g.spl + 63) / 64)
def Grid.spRows (g : Grid) : Nat := if g.spl = 0 then 0 else g.entrySize / 2
def Grid.winSize (g : Grid) : Nat := g.vregs / 16

/-- A window that a cohort of the block holds; 768 marks one that was given up (R190). -/
def noRow : Nat := 768

/-- Accepted peer accesses to an exited block's scratchpad that are still to be performed (R66): operations in flight,
and accesses that the peer core has taken while their word still waits. -/
def State.peerBusy (s : State) (b : Block) : Bool :=
  let lo := b.scrRow * 2048
  let hi := lo + (s.grd b.grid).scrRows * 2048
  s.ops.any (fun o => o.2.acc.any (fun a => a.2.segs.any (fun g =>
    g.loc == .bank b.core && lo ≤ g.a && g.a < hi))) ||
  s.transit.any (fun t => t.2.arrived && !t.2.acc.isEmpty && t.2.rank == b.rank && (s.cohBlk t.2.coh).placed == b.placed)

/-- The block holds its rows and slots: until it exits, and its rows until every accepted access is performed. -/
def State.holdsRows (s : State) (b : Block) : Bool := b.place == .resident && (!b.exited || s.peerBusy b)

/-- The rows of a block's runs. -/
def Block.rowsOf (b : Block) (g : Grid) : List Nat :=
  upto b.scrRow g.scrRows ++ upto b.spRow g.spRows ++ (b.winRows.filter (· < noRow)).flatMap (fun r => upto r g.winSize)

/-- Bank-store rows that a block holds. -/
def State.rowsHeld (s : State) (b : Block) : Nat :=
  let g := s.grd b.grid
  if s.holdsRows b then g.scrRows + g.spRows + g.winSize * (b.winRows.filter (· < noRow)).length else 0

/-- Sectors pinned by transaction logs of a partition on a core (R135). -/
def State.logSectors (s : State) (core part : Nat) : Nat :=
  s.cohorts.foldl (fun n e =>
    let b := s.blk e.2.block
    if b.core = core ∧ (s.grd b.grid).part = part then
      e.2.tx.foldl (fun n t => n + t.2.rlog.length + t.2.wlog.length) n
    else n) 0

/-- Rows of the L1 of a partition on a core (R51). -/
def State.l1Rows (s : State) (core part : Nat) : Nat :=
  csRows (s.cshareOf (s.shareOf part)) -
    s.blocks.foldl (fun n e => if e.2.core = core ∧ (s.grd e.2.grid).part = part then n + s.rowsHeld e.2 else n) 0

/-- Sectors that it holds beside the logs. -/
def State.l1Cap (s : State) (core part : Nat) : Nat := 32 * s.l1Rows core part - s.logSectors core part

/-! ### Homes -/

def sectorOf (pa : Nat) : Nat := pa / 64

/-- Sectors that n bytes at an address touch. -/
def sectors (pa n : Nat) : List Nat := upto (sectorOf pa) (sectorOf (pa + n - 1) + 1 - sectorOf pa)

/-- A base-die transaction aborts: the checkpoint returns, the hart resumes after `kx.begin` with the status (R129). -/
def State.hartAbort (s : State) (h : Nat) (code sub : BitVec 8) : State :=
  match (s.hart h).tx with
  | none => s
  | some t =>
    let st := txStatus false 0 sub code
    s.modHart h (fun k => { k with
      x := if t.rd = 0 then t.ckx else put t.ckx t.rd (st.zeroExtend 64) 0
      f := t.ckf
      pc := t.resume
      tx := none
      waitLock := none
      status := st })

/-- A signature pair reports a sector (R130): real overlaps always, others possibly. -/
def sigHas (h : Nat) (ss : List Nat) (fresh : Nat) (l : List Nat) : Bool :=
  l.any (fun x => ss.contains x || Config.sigHit h x fresh)

/-- Aborts the base-die transactions that a write at a home conflicts with (R141), hart `except` apart, and ends
reservations on the bytes (notes/assumptions/11.md). -/
def State.conflictWrite (s : State) (pa n : Nat) (except : Option Nat) : State :=
  let ss := sectors pa n
  let others := s.harts.filter (fun e => some e.1 ≠ except)
  let hit := others.filter (fun e => match e.2.tx with
    | some t => sigHas e.1 (t.reads ++ t.wlines) s.fresh ss
    | none => false)
  let s := if others.any (fun e => e.2.tx.isSome) then s.next else s
  let s := hit.foldl (fun s e => s.hartAbort e.1 0x02 0) s
  if s.harts.any (fun e => e.2.resv.isSome) then
    { s with harts := s.harts.map (fun e => match e.2.resv with
        | some (a, k) => if some e.1 ≠ except ∧ a < pa + n ∧ pa < a + k then (e.1, { e.2 with resv := none }) else e
        | none => e) }
  else s

/-- A store that covers whole protected words repairs them (R440). -/
def State.repair (s : State) (pa n : Nat) : State :=
  if s.svc.bad.isEmpty ∧ s.svc.badL2.isEmpty then s
  else
    let out := fun (w : Nat) => !(pa ≤ w && w + 8 ≤ pa + n)
    { s with svc := { s.svc with bad := s.svc.bad.filter out, badL2 := s.svc.badL2.filter out } }

/-- The same in a bank store. -/
def State.repairBank (s : State) (b n : Nat) : State :=
  if s.svc.badBank.isEmpty then s
  else { s with svc := { s.svc with badBank := s.svc.badBank.filter (fun w => !(b ≤ w && w + 8 ≤ b + n)) } }

/-- The 8-byte words that some bytes touch. -/
def wordsIn (a n : Nat) : List Nat := (upto (a / 8) ((a + n - 1) / 8 + 1 - a / 8)).map (8 * ·)

/-- An uncorrectable error in some bytes of memory: at their home, or in the slice that holds them (R370, R438). -/
def State.badAt (s : State) (pa n : Nat) : Bool :=
  (!s.svc.bad.isEmpty || !s.svc.badL2.isEmpty) &&
    (wordsIn pa n).any (fun w => s.svc.bad.contains w || (s.svc.badL2.contains w && s.l2Holds w))

/-- An uncorrectable error in the bytes of a segment: a core's bank store holds scratchpads and register windows. -/
def State.segBad (s : State) (g : Seg) : Bool :=
  match g.loc with
  | .mem => s.badAt g.a g.n
  | .bank core => !s.svc.badBank.isEmpty && (wordsIn (core * 0x180000 + g.a) g.n).any s.svc.badBank.contains
  | .reg c =>
    !s.svc.badBank.isEmpty &&
      (wordsIn (s.cohCore c * 0x180000 + (s.coh c).vbase * 2048 + g.a) g.n).any s.svc.badBank.contains

/-- Bytes of a write applied at their home. -/
def State.homePut (s : State) (pa n v : Nat) (except : Option Nat) : State :=
  let s := s.conflictWrite pa n except
  ({ s with mem := putBytes s.mem pa n v } : State).repair pa n

/-- A write applied at its home, where its slice takes it (R72, R74). -/
def State.homeWrite (s : State) (pa n v : Nat) (except : Option Nat) : State :=
  (s.homePut pa n v except).l2Write pa n

/-- No L1 keeps clean bytes of some sectors. -/
def State.dropCopies (s : State) (ss : List Nat) : State :=
  { s with cores := s.cores.map (fun c => (c.1, { c.2 with
      l1 := c.2.l1.map (fun e => if ss.contains e.sector then { e with filled := false } else e) })) }

/-- The writes of a committed transaction enter at their homes together (R117). That clean copies of what they replace leave
every L1, so that no load of any scope sees one of the writes without another, is the model's reading of R117 and R428 (DEDUCED,
notes/assumptions/100.md). -/
def State.publish (s : State) (l : List (Nat × Byte)) (except : Option Nat) : State :=
  let s := l.foldl (fun s e => s.homeWrite e.1 1 e.2.toNat except) s
  let s := if s.svc.bad.isEmpty ∧ s.svc.badL2.isEmpty then s
    else ((l.map (fun e => e.1 / 8)).eraseDups).foldl (fun (s : State) w =>
      if (upto (8 * w) 8).all (fun a => l.any (fun e => e.1 == a)) then s.repair (8 * w) 8 else s) s
  s.dropCopies ((l.map (fun e => e.1 / 64)).eraseDups)

/-- The clean bytes of some sectors in a partition's L1 are no longer valid (R114). -/
def State.l1Stale (s : State) (core part : Nat) (ss : List Nat) : State :=
  s.modCore core (fun k => { k with
    l1 := k.l1.map (fun e => if e.part = part ∧ ss.contains e.sector then { e with filled := false } else e) })

/-- Engine writes on their way that satisfy a test are performed, in their order (R115). -/
def State.drainWrites (s : State) (f : EngWrite → Bool) : State :=
  (s.ewr.filter f).foldl (fun (s : State) w => (s.homeWrite w.pa w.n w.v none).l1Stale w.core w.part (sectors w.pa w.n))
    { s with ewr := s.ewr.filter (fun w => !f w) }

/-- The access counter of a region rises (R36), by an RMW at the entry's home; from 0, the region joins the touched list
(R82). -/
def State.bumpAcnt (s : State) (a part tctx va : Nat) : State :=
  let e := getBytes s.mem a 8
  let n := pte e 10 4
  let g : TReg := ⟨part, tctx, va / 2 ^ 21 * 2 ^ 21⟩
  let s := if n < 15 then s.homeWrite a 8 (e + 2 ^ 10) none else s
  if n = 0 ∧ !s.tier.touched.contains g then { s with tier := { s.tier with touched := s.tier.touched ++ [g] } } else s

/-- The TLBs of a core and its cluster take the translation of an address, as every walk and every hit of the cluster TLB
does (R36, R39, R40). -/
def State.fillUnit (s : State) (core tctx va : Nat) : State :=
  let die := dieOf core
  if !canonical va || isWindow va then s
  else if (s.tlbHit core tctx va).isSome then s.fillHit core tctx va
  else
    match s.walkOn die tctx va with
    | .ok e a => (((s.l2Walk die tctx va).fillPtrs die tctx va).fillBoth core e).bumpAcnt a (s.tctxPart tctx) tctx va
    | .bad _ _ => s
    | .mv _ => s

/-- The same for every page that n bytes at an address touch. -/
def State.fillSpan (s : State) (core tctx va n : Nat) : State :=
  let s := s.fillUnit core tctx va
  if n ≤ 2 ^ 16 - va % 2 ^ 16 then s else s.fillUnit core tctx ((va / 2 ^ 16 + 1) * 2 ^ 16 % 2 ^ 64)

/-! ### L1 sectors -/

/-- Byte i of a sector. -/
def secByte (d : BitVec 512) (i : Nat) : Byte := d.extractLsb' (8 * i) 8

def secPut (d : BitVec 512) (i : Nat) (b : Byte) : BitVec 512 :=
  (d &&& ~~~((0xFF#512) <<< (8 * i))) ||| ((b.zeroExtend 512) <<< (8 * i))

def State.l1Find (s : State) (core part sec : Nat) : Option L1Sec :=
  (s.core core).l1.find? (fun e => e.part == part && e.sector == sec)

/-- Replaces a sector's entry in place. -/
def State.l1Upd (s : State) (core part sec : Nat) (f : L1Sec → L1Sec) : State :=
  s.modCore core (fun k => { k with l1 := k.l1.map (fun e => if e.part = part ∧ e.sector = sec then f e else e) })

/-- Written-back sectors leave their release sets; a set with no sector left is written back, and its tag goes
(R108, R326). -/
def State.leaveSets (s : State) (core part sec : Nat) : State :=
  s.modCore core (fun k => { k with
    rel := (k.rel.map (fun r => if r.part = part then { r with set := r.set.filter (· ≠ sec) } else r)).filter
      (fun r => !r.set.isEmpty) })

/-- Writes back the masked bytes of a sector (R77); it stays, with its mask cleared. -/
def State.wbSector (s : State) (core part sec : Nat) : State :=
  match s.l1Find core part sec with
  | none => s.leaveSets core part sec
  | some e =>
    let s := (List.range 64).foldl (fun s i =>
      if e.mask.getLsbD i then s.homePut (64 * sec + i) 1 (secByte e.data i).toNat none else s) s
    let s := if e.mask = 0 then s else s.l2Sector sec true (e.mask == 0xFFFFFFFFFFFFFFFF#64)
    -- a damaged word stays damaged where it is written back (DESIGN CHOICE, notes/assumptions/99.md)
    let s := (List.range 8).foldl (fun s w =>
      if e.bad.getLsbD w ∧ (upto (8 * w) 8).any e.mask.getLsbD then s.markBad (64 * sec + 8 * w)
      else if (upto (8 * w) 8).all e.mask.getLsbD then s.repair (64 * sec + 8 * w) 8
      else s) s
    (s.l1Upd core part sec (fun e => { e with mask := 0 })).leaveSets core part sec

def State.wbSectors (s : State) (core part : Nat) (l : List Nat) : State := l.foldl (fun s x => s.wbSector core part x) s

/-- The dirty sectors of a partition's L1. -/
def State.dirtySectors (s : State) (core part : Nat) : List Nat :=
  ((s.core core).l1.filter (fun e => e.part == part && e.mask != 0)).map (·.sector)

/-- Writes back every dirty sector of the partition's L1 on the core. -/
def State.wbAll (s : State) (core part : Nat) : State := s.wbSectors core part (s.dirtySectors core part)

/-- Writes back and drops some sectors. -/
def State.wbDrop (s : State) (core part : Nat) (l : List Nat) : State :=
  let s := s.wbSectors core part l
  s.modCore core (fun k => { k with l1 := k.l1.filter (fun e => !(e.part == part && l.contains e.sector)) })

/-- Drops every byte whose mask bit is clear (R107). -/
def State.acquireDrop (s : State) (core part : Nat) : State :=
  s.modCore core (fun k => { k with
    l1 := (k.l1.filter (fun e => e.part ≠ part || e.mask ≠ 0)).map
      (fun e => if e.part = part then { e with filled := false } else e) })

/-- The words of a sector that some bytes cover whole. -/
def wholeWords (sec pa n : Nat) : BitVec 8 :=
  (List.range 8).foldl (fun m w => if pa ≤ 64 * sec + 8 * w ∧ 64 * sec + 8 * w + 8 ≤ pa + n then m ||| (1#8 <<< w) else m) 0

/-- A store of whole words repairs the L1's copy, or what lies at the home where the L1 has taken none (R440). -/
def State.l1Repair (s : State) (core part pa n : Nat) : State :=
  (sectors pa n).foldl (fun s x =>
    if (s.l1Find core part x).any (fun e => e.bad == 0) then s
    else if (s.l1Find core part x).isSome then s.l1Upd core part x (fun e => { e with bad := e.bad &&& ~~~(wholeWords x pa n) })
    else s.repair pa n) s

/-- A row lies in the range of a partition (R51, R407). -/
def State.inRange (s : State) (part r : Nat) : Bool :=
  let cs := s.cshareOf (s.shareOf part)
  csRowBase cs ≤ r && r < csRowBase cs + csRows cs

/-- The sector is in the L1 and most recently used, the least recently used one making room (R78); false where the L1
has no room at all. From then on any row that no block holds may hold bytes of sectors (R60). -/
def State.l1Touch (s : State) (core part sec : Nat) : Bool × State :=
  match s.l1Find core part sec with
  | some e =>
    (true, s.modCore core (fun k => { k with
      l1 := e :: k.l1.filter (fun x => !(x.part == part && x.sector == sec)) }))
  | none =>
    let cap := s.l1Cap core part
    if cap = 0 then (false, s)
    else
      let mine := ((s.core core).l1.filter (fun e => e.part == part)).map (·.sector)
      let s := if cap ≤ mine.length then s.wbDrop core part (mine.drop (cap - 1)) else s
      (true, s.modCore core (fun k => { k with
        l1 := ⟨part, sec, 0, 0, false, 0⟩ :: k.l1
        l1Used := if k.l1Used.contains part then k.l1Used else part :: k.l1Used
        kept := k.kept.filter (fun r => !s.inRange part r) }))

/-- A byte stored in the L1 (R77). -/
def State.l1Store (s : State) (core part pa : Nat) (b : Byte) : State :=
  let r := s.l1Touch core part (sectorOf pa)
  if r.1 then r.2.l1Upd core part (sectorOf pa) (fun e => { e with
    data := secPut e.data (pa % 64) b
    mask := e.mask ||| (1#64 <<< (pa % 64)) })
  else s.homeWrite pa 1 b.toNat none

/-- The damaged words of a sector once it is filled: those of its own written bytes, and those that come damaged from the home
(R370, R438). -/
def State.fillBad (s : State) (sec : Nat) (e : L1Sec) : BitVec 8 :=
  (List.range 8).foldl (fun m w =>
    let bits := upto (8 * w) 8
    if (e.bad.getLsbD w ∧ bits.any e.mask.getLsbD) ∨ (!bits.all e.mask.getLsbD ∧ s.badAt (64 * sec + 8 * w) 8) then m ||| (1#8 <<< w)
    else m) 0

/-- A sector filled from its home: masked bytes are kept (R77). -/
def State.l1Fill (s : State) (core part sec : Nat) : State :=
  (s.l2Sector sec false false).l1Upd core part sec (fun e =>
    if e.filled then e
    else { e with
      filled := true
      bad := s.fillBad sec e
      data := (List.range 64).foldl (fun d i =>
        if e.mask.getLsbD i then d else secPut d i (getD s.mem (64 * sec + i) 0)) e.data })

/-- A byte loaded through the L1 (R77). -/
def State.l1Load (s : State) (core part pa : Nat) : Byte × State :=
  let sec := sectorOf pa
  let r := s.l1Touch core part sec
  if r.1 then
    let held := (r.2.l1Find core part sec).any (fun e => e.filled || e.mask.getLsbD (pa % 64))
    let s := if held then r.2 else r.2.l1Fill core part sec
    (((s.l1Find core part sec).map (fun e => secByte e.data (pa % 64))).getD 0, s)
  else (getD s.mem pa 0, s.l2Read pa 1)

/-- An uncorrectable error in some bytes that the L1 holds (R370). -/
def State.l1Bad (s : State) (core part pa n : Nat) : Bool :=
  (s.core core).l1.any (fun e => e.part == part && e.bad != 0 &&
    (upto pa n).any (fun a => a / 64 == e.sector && e.bad.getLsbD (a % 64 / 8)))

/-- The L1's copy of bytes that the thread has read or written at the home is made the same (R96, R97). -/
def State.l1Patch (s : State) (core part pa n v : Nat) : State :=
  (List.range n).foldl (fun s i =>
    s.l1Upd core part (sectorOf (pa + i)) (fun e => { e with
      data := secPut e.data ((pa + i) % 64) (BitVec.ofNat 8 (v / 2 ^ (8 * i)))
      mask := e.mask &&& ~~~(1#64 <<< ((pa + i) % 64))
      bad := e.bad &&& ~~~(wholeWords e.sector pa n) })) s

/-- Before an access at the home, dirty bytes of its sectors in the own L1 are written back (R97). -/
def State.homeSync (s : State) (core part pa n : Nat) : State :=
  (sectors pa n).foldl (fun s x =>
    if (s.l1Find core part x).any (fun e => e.mask ≠ 0) then s.wbSector core part x else s) s

/-! ### Release sets and tags (R105, R106, R108) -/

/-- Writes bytes of memory at their homes in pieces. -/
def State.putPieces (s : State) (l : List (Nat × Nat)) (v : Nat) : State :=
  (l.foldl (fun (r : Nat × State) p => (r.1 / 2 ^ (8 * p.2), r.2.homeWrite p.1 p.2 (r.1 % 2 ^ (8 * p.2)) none)) (v, s)).2

/-- Who reads at a home: a core's thread with its block and the cluster that lies in, a base-die hart, another package. -/
inductive Reader where
  | simt (core placed block : Nat) (sc : Scope)
  | hart
  | remote
  deriving DecidableEq, Repr

/-- Two SIMT threads lie in one instance of a scope (R94). -/
def sameScope (sc : Scope) (coreA placedA blockA coreB placedB blockB : Nat) : Bool :=
  match sc with
  | .blk => blockA == blockB
  | .clu => placedA == placedB
  | .die => dieOf coreA == dieOf coreB
  | .pkg => true
  | .dom => true
  | .sys => true

/-- The scope conditions of R103 between a reader and a tag left by a core. -/
def Reader.meets (r : Reader) (core : Nat) (t : RelSet) : Bool :=
  match r with
  | .simt c p b sc => sameScope t.scope core t.placed t.block c p b && sameScope sc c p b core t.placed t.block
  | .hart => t.scope == .pkg || t.scope == .dom || t.scope == .sys
  | .remote => t.scope == .dom || t.scope == .sys

/-- The tags of some sectors that a reader pulls: core and entry. -/
def State.tagsAt (s : State) (ss : List Nat) (r : Reader) : List (Nat × Nat) :=
  s.cores.flatMap (fun e =>
    (e.2.rel.filter (fun t => ss.contains t.sector && r.meets e.1 t)).map (fun t => (e.1, t.id)))

/-- Writes back a release set and every older set of its partition (R106). -/
def State.pullSet (s : State) (core id : Nat) : State :=
  match (s.core core).rel.find? (fun t => t.id == id) with
  | none => s
  | some t =>
    let older := ((s.core core).rel.takeWhile (fun x => x.id != id)).filter (fun x => x.part == t.part) ++ [t]
    s.wbSectors core t.part (older.flatMap (·.set))

/-- Pulls every qualifying tag. -/
def State.pullAll (s : State) (ts : List (Nat × Nat)) : State := ts.foldl (fun s t => s.pullSet t.1 t.2) s

/-- Makes room for a release: a full table gives up its oldest set, and a sector's fifth tag pulls its oldest
(R108). -/
def State.relRoom (s : State) (core sec : Nat) : State :=
  let k := s.core core
  let s := if Config.releaseEntries ≤ k.rel.length then
      match k.rel with | [] => s | t :: _ => s.wbSectors core t.part t.set
    else s
  let tags := s.cores.flatMap (fun e => (e.2.rel.filter (fun t => t.sector == sec)).map (fun t => (e.1, t)))
  if 4 ≤ tags.length then
    match tags with
    | [] => s
    | t :: ts =>
      let o := ts.foldl (fun (m : Nat × RelSet) x => if x.2.time < m.2.time then x else m) t
      s.pullSet o.1 o.2.id
  else s

/-- A lazy release is recorded with the dirty sectors of the moment (R105); with none there is nothing to pull. -/
def State.addRelease (s : State) (core part sec : Nat) (sc : Scope) (placed block : Nat) : State :=
  if (s.dirtySectors core part).isEmpty then s
  else
    let s := (s.relRoom core sec).tick
    let d := s.dirtySectors core part
    if d.isEmpty then s
    else
      s.modCore core (fun k => { k with
        rel := k.rel ++ [⟨(k.rel.foldl (fun m t => max m (t.id + 1)) 0), part, sec, sc, placed, block, d, s.time⟩] })

/-! ### Register windows (R24, R53 to R56) -/

/-- The word that a window access sees: the owner's own view, or the bank store's (R55, R56). -/
def Cohort.winWord (c : Cohort) (own : Bool) (n l : Nat) : Word :=
  if own then c.v n l
  else
    match look c.dirty n with
    | some old => (old[l]?).getD 0
    | none => c.v n l

/-- Bytes of a cohort's window. -/
def Cohort.winGet (c : Cohort) (own : Bool) (a n : Nat) : Nat :=
  (List.range n).foldr (fun i acc =>
    let w := c.winWord own ((a + i) / 128) ((a + i) % 128 / 4)
    (w.toNat / 2 ^ (8 * ((a + i) % 4))) % 256 + 256 * acc) 0

/-- Byte j of a word replaced. -/
def wordPut (w : Word) (j : Nat) (b : Byte) : Word :=
  (w &&& ~~~((0xFF#32) <<< (8 * j))) ||| ((b.zeroExtend 32) <<< (8 * j))

/-- Writes bytes of a cohort's window: the bank store and the operand cache's entry alike. The owner's access also
invalidates the entry (R55). -/
def Cohort.winPut (c : Cohort) (own : Bool) (a n v : Nat) : Cohort :=
  let c := (List.range n).foldl (fun (c : Cohort) i =>
    let r := (a + i) / 128
    let l := (a + i) % 128 / 4
    let b := BitVec.ofNat 8 (v / 2 ^ (8 * i))
    { c with
      regs := put c.regs (32 * r + l) (wordPut (c.v r l) ((a + i) % 4) b) 0
      dirty := c.dirty.map (fun e =>
        if e.1 = r then (r, e.2.set l (wordPut ((e.2[l]?).getD 0) ((a + i) % 4) b)) else e) }) c
  if own then { c with dirty := c.dirty.filter (fun e => e.1 ≠ a / 128) } else c

/-! ### One segment -/

/-- Who makes an access: cohort, core, partition. -/
structure Who where
  coh : Nat
  core : Nat
  part : Nat
  deriving DecidableEq, Repr

/-- Reads a segment at a scope (R96). -/
def State.readSeg (s : State) (w : Who) (sc : Scope) (g : Seg) : Nat × State :=
  match g.loc with
  | .bank core => (getBytes s.bank (core * 0x180000 + g.a) g.n, s)
  | .reg c => ((s.coh c).winGet (c == w.coh) g.a g.n, s)
  | .mem =>
    if g.l1 ∧ sc = .blk then
      (List.range g.n).foldl (fun (r : Nat × State) i =>
        let b := r.2.l1Load w.core w.part (g.a + i)
        (r.1 + b.1.toNat * 2 ^ (8 * i), b.2)) (0, s)
    else if g.l1 then
      let s := s.homeSync w.core w.part g.a g.n
      let v := getBytes s.mem g.a g.n
      (v, (s.l2Read g.a g.n).l1Patch w.core w.part g.a g.n v)
    else (getBytes s.mem g.a g.n, s.l2Read g.a g.n)

/-- Writes a segment at a scope (R96). -/
def State.writeSeg (s : State) (w : Who) (sc : Scope) (g : Seg) (v : Nat) : State :=
  match g.loc with
  | .bank core =>
    ({ s with bank := putBytes s.bank (core * 0x180000 + g.a) g.n v } : State).repairBank (core * 0x180000 + g.a) g.n
  | .reg c =>
    (s.modCoh c (fun k => k.winPut (c == w.coh) g.a g.n v)).repairBank (s.cohCore c * 0x180000 + (s.coh c).vbase * 2048 + g.a) g.n
  | .mem =>
    if g.l1 ∧ sc = .blk then
      ((List.range g.n).foldl (fun s i => s.l1Store w.core w.part (g.a + i) (BitVec.ofNat 8 (v / 2 ^ (8 * i)))) s).l1Repair
        w.core w.part g.a g.n
    else
      let s := s.homeWrite g.a g.n v none
      if g.l1 then s.l1Patch w.core w.part g.a g.n v else s

/-- Reads the bytes of an access, segment after segment. -/
def State.readSegs (s : State) (w : Who) (sc : Scope) (gs : List Seg) : Nat × State :=
  let r := gs.foldl (fun (r : Nat × Nat × State) g =>
    let v := r.2.2.readSeg w sc g
    (r.1 + v.1 * 2 ^ (8 * r.2.1), r.2.1 + g.n, v.2)) (0, 0, s)
  (r.1, r.2.2)

/-- Writes the bytes of an access. -/
def State.writeSegs (s : State) (w : Who) (sc : Scope) (gs : List Seg) (v : Nat) : State :=
  (gs.foldl (fun (r : Nat × State) g => (r.1 + g.n, r.2.writeSeg w sc g (v / 2 ^ (8 * r.1)))) (0, s)).2

end Sys2Proof.Machine
end

