-- ==== Sys2Proof/Machine/Log.lean ====
section
/-! DEFINITION. Events to virtual functions (R414), source numbers (R19), the package error log (R439), and what units
write into address spaces: completion records and status areas (R37, R176, R177). -/

namespace Sys2Proof.Machine

def Vf.blank : Vf := ⟨false, 0, [], 0, [], false, 0⟩

def State.vf (s : State) (n : Nat) : Vf := getD s.svc.vfs n .blank
def State.modVf (s : State) (n : Nat) (f : Vf → Vf) : State :=
  { s with svc := { s.svc with vfs := set s.svc.vfs n (f (s.vf n)) } }

/-- The virtual functions bound to a partition (R30, R411). -/
def State.vfsOf (s : State) (part : Nat) : List Nat :=
  (List.range 64).filter (fun n => s.tctxEn n && s.tctxPart n == part)

/-- An event enters a store of 256; a full one drops its oldest event of kind 3, and LOST of the next delivered event
rises. An event beyond the 256th waits at its writer (R414). -/
def Vf.addEvent (v : Vf) (e : Event) : Vf :=
  if v.events.length < 256 then { v with events := v.events ++ [e] }
  else if v.events.any (fun x => x.kind == 3) then
    let i := v.events.findIdx (fun x => x.kind == 3)
    { v with events := v.events.eraseIdx i ++ [e], lost := v.lost + 1 }
  else if e.kind = 3 then { v with lost := v.lost + 1 }
  else { v with events := v.events ++ [e] }

/-- An event for every virtual function bound to a partition. -/
def State.event (s : State) (part kind source m : Nat) (arg0 arg1 : DWord) : State :=
  let s := s.tick
  (s.vfsOf part).foldl (fun s n => s.modVf n (fun v => v.addEvent ⟨kind, 0, source, m, s.time % 2 ^ 64, arg0, arg1⟩)) s

/-- The source numbers that the table of R19 gives to a unit; all others are reserved and never written. -/
def isSource (n : Nat) : Bool :=
  n < 0x300 || (0x300 ≤ n && n < 0x320) || (0x400 ≤ n && n < 0x680) || (0x700 ≤ n && n < 0x760) || (0x800 ≤ n && n < 0x804) ||
    (0x810 ≤ n && n < 0x818) || (0x820 ≤ n && n < 0x824) || (0x830 ≤ n && n < 0x842) || (0x870 ≤ n && n < 0x874) ||
    [0x850, 0x860, 0x880, 0x890, 0x8A0, 0x8B0, 0x8C0].contains n

/-- Records of the ring (R439). -/
def logSize : Nat := 65536

/-- A record, 64 bytes (R439). -/
def ErrRec.bytes (r : ErrRec) : Nat :=
  r.kind.toNat + r.unit.toNat * 2 ^ 8 + r.source.toNat * 2 ^ 16 + r.part.toNat * 2 ^ 32 + r.tstamp * 2 ^ 64 + r.pa.toNat * 2 ^ 128 +
    r.seq * 2 ^ 192 + r.count.toNat * 2 ^ 224

/-- A record enters the ring at a place, and the ring in memory where Arbor has named one; SEQ is 32 bits wide. One of KIND 2 is
also an event of the partition. R439 gives that event ARG0 = SEQ and ARG1 = PA, where the table of R414 has 0 for kind 4: the
model follows R439, which is about this event (DEDUCED, notes/assumptions/96.md). -/
def State.logEnter (s : State) (r : ErrRec) (slot : Nat) : State :=
  let r := { r with seq := s.svc.logSeq, slot := slot }
  let s := { s with svc := { s.svc with log := s.svc.log ++ [r], logSeq := (s.svc.logSeq + 1) % 2 ^ 32 } }
  let s := if s.ctl.logRing = 0 then s else s.homeWrite (s.norm s.ctl.logRing + 64 * slot) 64 r.bytes none
  if r.kind = 2 ∧ r.part ≠ 31 then s.event r.part.toNat 4 r.source.toNat 0 (BitVec.ofNat 64 r.seq) r.pa else s

/-- A record enters a ring that has room, at its lowest free place; a full one gives up its oldest KIND 1 record, or the record
waits at its writer (R439). -/
def State.logPut (s : State) (r : ErrRec) : State :=
  let l := s.svc.log
  if l.length < logSize then
    s.logEnter r (((List.range (l.length + 1)).find? (fun n => !l.any (fun x => x.slot == n))).getD 0)
  else
    match l.find? (fun x => x.kind == 1) with
    | some x => ({ s with svc := { s.svc with log := l.filter (fun y => y.slot != x.slot) } } : State).logEnter r x.slot
    | none => { s with svc := { s.svc with logWait := s.svc.logWait ++ [r] } }

/-- Corrected errors of a unit in the last second (R439). -/
def State.correctedOf (s : State) (unit source : Nat) : Nat :=
  (s.svc.corrected.filter (fun c => c.1 == unit && c.2.1 == source && s.time < c.2.2.1 + 1000000000)).foldl (fun n c => n + c.2.2.2) 0

/-- A record for the error log; one behind a record that waits, waits too. `n` tells how many corrected errors a KIND 1 record
stands for, one at least; COUNT counts them. -/
def State.logError (s : State) (kind unit : BitVec 8) (source : BitVec 16) (part : BitVec 5) (pa : DWord) (n : Nat) : State :=
  let s := s.tick
  let recent := s.svc.corrected.filter (fun c => s.time < c.2.2.1 + 1000000000)
  let s := { s with svc := { s.svc with
    corrected := if kind = 1 then recent ++ [(unit.toNat, source.toNat, s.time, max 1 n)] else recent
    failed := s.svc.failed || kind == 4 } }
  let r : ErrRec := ⟨kind, unit, source, part, s.time % 2 ^ 64, pa, 0, BitVec.ofNat 32 (s.correctedOf unit.toNat source.toNat), 0⟩
  if s.svc.logWait.isEmpty then s.logPut r else { s with svc := { s.svc with logWait := s.svc.logWait ++ [r] } }

/-- Arbor takes the oldest records, and those that wait enter in their order (R439). R439 does not say by which act: a register
write names how many (DESIGN CHOICE, notes/assumptions/104.md). -/
def State.takeRecords (s : State) (n : Nat) : State :=
  s.svc.logWait.foldl State.logPut { s with svc := { s.svc with log := s.svc.log.drop n, logWait := [] } }

/-- The unit and source number of an array that holds an address (R19, R439). -/
def arrayOf (pa : Nat) : BitVec 8 × BitVec 16 :=
  let off := paOff pa
  match regionOf off with
  | .hbm => (5, BitVec.ofNat 16 (0x0810 + off / 2 ^ 36))
  | .vault => (4, BitVec.ofNat 16 (0x0700 + (off - 0x08000000000) / 0x4000000))
  | .cap => (6, BitVec.ofNat 16 (0x0820 + (off - 0x20000000000) / 0x6000000000))
  | .host => (9, 0x0850)
  | .none => (9, 0)

/-- The record that an access to damaged data leaves (R370). -/
def State.logBad (s : State) (part pa : Nat) : State :=
  let u := if s.svc.bad.contains (pa / 8 * 8) ∨ s.svc.badL2.isEmpty then arrayOf pa
    else (3, BitVec.ofNat 16 (0x0400 + 160 * (sliceOf pa).1 + (sliceOf pa).2))
  s.logError 2 u.1 u.2 (BitVec.ofNat 5 part) (BitVec.ofNat 64 (pa / 8 * 8)) 0

/-- The same for a segment: a core's bank store, its L1 included, has no physical address (R439). -/
def State.logSeg (s : State) (part core : Nat) (g : Seg) (inL1 : Bool) : State :=
  match g.loc with
  | .mem =>
    if inL1 then s.logError 2 1 (BitVec.ofNat 16 core) (BitVec.ofNat 5 part) (BitVec.ofNat 64 (g.a / 8 * 8)) 0
    else s.logBad part g.a
  | .bank k => s.logError 2 1 (BitVec.ofNat 16 k) (BitVec.ofNat 5 part) 0 0
  | .reg c => s.logError 2 1 (BitVec.ofNat 16 (s.cohCore c)) (BitVec.ofNat 5 part) 0 0

/-! ### What units write into address spaces (R37, R176, R177) -/

/-- A move of the region of an address is in progress (R86). -/
def State.moving (s : State) (tctx va : Nat) : Bool :=
  s.tier.moves.any (fun m => m.2.reg.tctx == tctx && m.2.reg.va == va / 2 ^ 21 * 2 ^ 21)

/-- Some pages of an access are being moved, and none of them faults: the access waits (R37). -/
def pagesMove (l : List (Page × Nat × Nat)) : Bool :=
  l.any (fun p => p.1 == .mv) && l.all (fun p => match p.1 with | .bad _ _ => false | .ok _ _ => true | .mv => true)

/-- The completion entry that follows a write may now be delivered (R412). -/
def State.noteDone (s : State) (w : LateWrite) : State :=
  match w.note with
  | some (vf, e) => s.modVf vf (fun v => { v with compl := v.compl ++ [e] })
  | none => s

/-- A unit writes at most 64 bytes through a context. The write waits while a page of it is being moved, from the time
`since` (R37), and behind an earlier one for the same grid. Where the page does not translate, nothing is written and nobody is told: the manual gives no outcome
(DESIGN CHOICE, notes/assumptions/76.md). -/
def State.unitPut (s : State) (w : LateWrite) : State :=
  let ps := if w.n = 0 then [] else s.pages none w.part w.tctx 2 w.va w.n
  if s.late.any (fun x => x.grid == w.grid) then { s with late := s.late ++ [{ w with since := s.time }] }
  else
    match okPieces ps with
    | some l => (s.putPieces l w.v).noteDone w
    | none => if pagesMove ps then { s with late := s.late ++ [w] } else s.noteDone w

def State.unitWrite (s : State) (grid part tctx va n v : Nat) : State := s.unitPut ⟨part, tctx, va, n, v, s.time, grid, none⟩

/-- The waiting writes of units are tried again, oldest first. One that has met MV = 1 for 40 µs with no move of its
region in progress is a protection fault (R37), and is not made. -/
def State.retryLate (s : State) : State :=
  s.late.foldl (fun (s : State) w =>
    if w.since + 40000 ≤ s.time ∧ !s.moving w.tctx w.va ∧ !s.late.any (fun x => x.grid == w.grid) ∧
        pagesMove (s.pages none w.part w.tctx 2 w.va w.n) then s.noteDone w
    else s.unitPut w)
    { s with late := [] }

/-- A unit meets MV = 1 at a page of some bytes: it waits there (true); 40 µs after it first met it, with no move of the region
in progress, the access fails (R37). -/
def State.mvMeet (s : State) (u : MvUnit) (tctx : Nat) (l : List (Page × Nat × Nat)) : Bool × State :=
  match l.find? (fun p => p.1 == .mv) with
  | none => (false, s)
  | some p =>
    let va := p.2.1 / 2 ^ 16 * 2 ^ 16
    let s := s.tick
    let at_ := fun (w : MvWait) => w.who == u && w.tctx == tctx && w.va == va
    let t := ((s.mvWaits.find? at_).map (·.since)).getD s.time
    let rest := s.mvWaits.filter (fun w => !at_ w)
    if t + 40000 ≤ s.time ∧ !s.moving tctx va then (false, { s with mvWaits := rest })
    else (true, { s with mvWaits := rest ++ [⟨u, tctx, va, t⟩] })

/-- A unit's access has been made: it waits no more. -/
def State.mvOver (s : State) (u : MvUnit) : State := { s with mvWaits := s.mvWaits.filter (fun w => w.who != u) }

/-- The status area of a grid is brought up to date at its home. -/
def State.putStat (s : State) (g : Nat) : State :=
  let r := s.grd g
  if r.stat = 0 then s
  else
    s.unitWrite g r.part r.tctx r.stat 64 (r.eflags.toNat + (if r.wxov then 32 else 0) + (if r.rshort then 64 else 0)
      + 2 ^ 64 * min r.traps 0xFFFFFFFF + 2 ^ 128 * (r.tstart % 2 ^ 64) + 2 ^ 192 * (r.tend % 2 ^ 64))

/-- Engine flags of a grid (R208). -/
def State.raiseGrid (s : State) (g : Nat) (f : NFlags) (wxov : Bool) : State :=
  if f = 0 ∧ wxov = false then s
  else (s.modGrd g (fun r => { r with eflags := r.eflags ||| f, wxov := r.wxov || wxov })).putStat g

end Sys2Proof.Machine
end

