-- ==== Sys2Proof/Machine/Access.lean ====
section
/-! DEFINITION. The accesses of a word's lanes: windows (R23, R24, R59, R65, R68), translation, the checks of R45 and
R315, waiting for walks (R40), for peers (R66) and for absent scratchpad lines (R63), and the splitting of failing
lanes (R46). -/

namespace Sys2Proof.Machine

/-! ### One piece of an access within a 64 KiB frame -/

/-- What a piece of an access meets: its bytes with the TIER of their memory, a cause and walk level, a TLB miss, a peer
that must be asked, or a target that a transaction may not reach (R122). -/
inductive Hit where
  | seg (g : Seg) (tier : Nat)
  | bad (cause level : Nat)
  | walk (va : Nat)
  | peer (rank : Nat)
  | cross
  deriving DecidableEq, Repr

/-- The block of a rank of a placed cluster. -/
def State.blkOfRank (s : State) (placed rank : Nat) : Option (Nat × Block) :=
  s.blocks.find? (fun e => e.2.placed == placed && e.2.rank == rank)

/-- Bytes of a block's scratchpad (R59). -/
def State.scrHit (s : State) (b : Block) (o n : Nat) : Hit :=
  if o + n ≤ (s.grd b.grid).scr * 256 then .seg ⟨.bank b.core, b.scrRow * 2048 + o, n, false⟩ 4 else .bad 0x1A 15

/-- The resident cohort of a block with an index (R24). -/
def State.cohOfIdx (s : State) (b idx : Nat) : Option (Nat × Cohort) :=
  s.cohorts.find? (fun e => e.2.block == b && e.2.idx == idx && e.2.place == .resident && !e.2.isOver)

/-- A window address of lane l (R23). -/
def State.windowHit (s : State) (l kind va n : Nat) : Hit :=
  let c := s.cur.coh
  let k := s.coh c
  let b := s.cohBlk c
  let g := s.cohGrd c
  let o := va % 2 ^ 48
  let w := va / 2 ^ 48
  if kind = 4 then .bad 0x13 15
  else if w = 0xF0 then s.scrHit b o n
  else if w = 0xF1 then
    let rank := o / 2 ^ 21
    let r := o % 2 ^ 21
    if 8 ≤ rank then .bad 0x17 15
    else if rank = b.rank then s.scrHit b r n
    else
      match s.transit.find? (fun t => t.2.coh == c && t.2.pc == s.cur.pc && t.2.rank == rank && t.2.arrived) with
      | none => .peer rank
      | some t =>
        if t.2.acc.isEmpty then .bad 0x1B 15
        else if !t.2.acc.contains (l, va, n) then .peer rank
        else
          match s.blkOfRank b.placed rank with
          | none => .bad 0x1B 15
          | some p => s.scrHit p.2 r n
  else if w = 0xF2 then
    let idx := o / 2 ^ 16
    let r := o % 2 ^ 16
    match s.cohOfIdx k.block idx with
    | none => .bad 0x17 15
    | some t =>
      if idx < 32 ∧ r < 0x4000 ∧ r / 128 < g.vregs ∧ r % 128 + n ≤ 128 ∧ (n = 4 ∨ n = 8) then
        .seg ⟨.reg t.1, r, n, false⟩ 4
      else .bad 0x17 15
  else if w = 0xF4 then
    if 0x4000000 < o + n then .bad 0x17 15
    else
      let pa := s.ctl.pkg * 2 ^ 42 + 0x08000000000 + clusterOf b.core * 0x4000000 + o
      let own := s.ownAt pa
      if own.owner ≠ some g.part then .bad 0x14 15
      else if isWrite kind ∧ own.sealed then .bad 0x12 15
      else .seg ⟨.mem, pa, n, false⟩ 2
  else .bad 0x17 15

/-- A translated address of lane l. In a speculative attempt a target outside the package's memory is code cross-home,
before its home is asked (R122). -/
def State.transHit (s : State) (l kind : Nat) (spec : Bool) (va n : Nat) : Hit :=
  let c := s.cur.coh
  let core := s.cohCore c
  let g := s.cohGrd c
  match s.tlbHit core g.tctx va with
  | some e =>
    let pa := e.pa + (va - e.va)
    let cause := s.entryCause g.part kind e va
    if spec ∧ e.tier = 3 ∧ cause ≠ 0x11 ∧ cause ≠ 0x12 then .cross
    else if cause ≠ 0 then .bad cause (s.walkedAt c (oneLane l) s.cur.pc va)
    else .seg ⟨.mem, pa, n, e.tier == 0 || e.tier == 1⟩ e.tier
  | none =>
    match s.walks.find? (fun w => w.2.coh == c && w.2.pc == s.cur.pc && w.2.lanes.getLsbD l && w.2.va / 2 ^ 16 == va / 2 ^ 16) with
    | some w => (match w.2.bad with | some b => .bad b.1 b.2 | none => .walk va)
    | none => .walk va

/-- A piece of an access. -/
def State.hit (s : State) (l kind : Nat) (spec : Bool) (va n : Nat) : Hit :=
  if !(canonical va && canonical (va + n - 1)) then .bad 0x10 15
  else if isWindow va then s.windowHit l kind va n
  else s.transHit l kind spec va n

/-- The pieces of n bytes at an address within 64 KiB frames, modulo 2^64. -/
def pieces (va n : Nat) : List (Nat × Nat) :=
  let room := 2 ^ 16 - va % 2 ^ 16
  if n ≤ room then [(va, n)] else [(va, room), ((va + room) % 2 ^ 64, n - room)]

/-! ### One lane -/

/-- The causes in the order of R45, with those of R193, R315, R59, R65, R194 and R370 at their places; 0x119 is the
alignment check and 0x219 the kind check of cause 0x19. -/
def causeOrder : List Nat :=
  [0x10, 0x17, 0x119, 0x1F, 0x1B, 0x1A, 0x01, 0x15, 0x14, 0x16, 0x11, 0x12, 0x13, 0x219, 0x18, 0x1E, 0x23]

def causeRank (c : Nat) : Nat := causeOrder.findIdx (· == c)

/-- What a lane's access comes to. -/
structure LaneRes where
  va : Nat
  /-- cause (0 where none) and walk level -/
  cause : Nat
  level : Nat
  segs : List Seg
  tiers : List Nat
  walks : List Nat
  peers : List Nat
  cross : Bool
  deriving DecidableEq, Repr

/-- The first of some causes in the order of R45. -/
def firstCause (l : List (Nat × Nat)) : Nat × Nat :=
  l.foldl (fun m x => if m.1 = 0 ∨ causeRank x.1 < causeRank m.1 then x else m) (0, 15)

/-- Resolves a lane's access; `pre` are the causes known from the address, `post` those known from the location. -/
def State.laneRes (s : State) (l kind : Nat) (spec : Bool) (va n : Nat) (pre : List Nat)
    (post : List Seg → List Nat → List Nat) : LaneRes :=
  let ps := pieces va n
  let hs := ps.map (fun p => s.hit l kind spec p.1 p.2)
  let bads := hs.filterMap (fun h => match h with | .bad c v => some (c, v) | _ => none) ++ pre.map (fun c => (c, 15))
  let walks := hs.filterMap (fun h => match h with | .walk a => some a | _ => none)
  let peers := hs.filterMap (fun h => match h with | .peer r => some r | _ => none)
  let segs := hs.filterMap (fun h => match h with | .seg g _ => some g | _ => none)
  let tiers := hs.filterMap (fun h => match h with | .seg _ t => some t | _ => none)
  let early := firstCause (bads.filter (fun b => causeRank b.1 < causeRank 0x01))
  if early.1 ≠ 0 ∧ peers.isEmpty then ⟨va, early.1, early.2, [], [], [], [], false⟩
  else if walks ≠ [] ∨ peers ≠ [] then ⟨va, 0, 15, [], [], walks, peers, false⟩
  else if hs.contains .cross && bads.isEmpty then ⟨va, 0, 15, [], [], [], [], true⟩
  else
    let held := fun (g : Seg) => g.l1 && (sectors g.a g.n).all (fun x =>
      (s.l1Find (s.cohCore s.cur.coh) (s.cohPart s.cur.coh) x).isSome)
    -- what the L1 may serve is judged when it is performed
    let err := if isRead kind ∧ !spec ∧ segs.any (fun g => !held g && s.segBad g) then [(0x23, 15)] else []
    let c := firstCause (bads ++ (post segs tiers).map (fun c => (c, 15)) ++ err)
    ⟨va, c.1, c.2, segs, tiers, [], [], false⟩

/-! ### Waiting -/

/-- The miss table of a die holds 1024 entries, one for each address space and page (R40): a miss that finds no entry of its
own in a full table waits at its cluster. -/
def State.missFull (s : State) (die tctx va : Nat) : Bool :=
  if s.walks.length < Config.missEntries then false
  else
    let keys := ((s.walks.filter (fun w => w.2.bad.isNone && w.2.lvl.isNone && dieOf (s.cohCore w.2.coh) == die)).map
      (fun w => (w.2.tctx, w.2.va / 2 ^ 16))).eraseDups
    Config.missEntries ≤ keys.length && !keys.contains (tctx, va / 2 ^ 16)

/-- Lanes of the issuing word wait for walks (R40): a miss joins an entry of the same word and page. -/
def State.addWalk (s : State) (l va : Nat) : State :=
  let c := s.cur.coh
  let same := fun (w : Walk) => w.coh == c && w.pc == s.cur.pc && w.va / 2 ^ 16 == va / 2 ^ 16
  if s.missFull (dieOf (s.cohCore c)) (s.cohGrd c).tctx va then s else
  if s.walks.any (fun w => same w.2) then
    { s with walks := s.walks.map (fun w => if same w.2 then (w.1, { w.2 with lanes := w.2.lanes ||| oneLane l, lvl := none }) else w) }
  else
    { s with walks := set s.walks (freshKey s.walks) ⟨c, oneLane l, s.cur.pc, (s.cohGrd c).tctx, va, none, none, none⟩ }

/-- Accesses set out to a peer (R66). -/
def State.addTransit (s : State) (rank : Nat) (acc : List (Nat × Nat × Nat)) : State :=
  let c := s.cur.coh
  let same := fun (t : Transit) => t.coh == c && t.pc == s.cur.pc && t.rank == rank
  let on := s.transit.find? (fun t => same t.2)
  if on.any (fun t => !t.2.arrived) then s
  else
    let keep := s.transit.filter (fun t => !same t.2)
    { s with transit := set keep (freshKey keep) ⟨c, s.cur.pc, rank, acc, false⟩ }

/-- The word has issued, or its lanes have left: what it waited for is forgotten. -/
def State.endWaits (s : State) (c : Nat) (pc : DWord) : State :=
  { s with
    walks := s.walks.filter (fun w => !(w.2.coh == c && w.2.pc == pc))
    transit := s.transit.filter (fun t => !(t.2.coh == c && t.2.pc == pc)) }

/-- The scratchpad lines among some bytes that are absent: block and line (R62, R63). -/
def State.absentLines (s : State) (g : Seg) : List (Nat × Nat) :=
  match g.loc with
  | .mem => []
  | .reg _ => []
  | .bank core =>
    s.blocks.flatMap (fun e =>
      let base := e.2.scrRow * 2048
      if e.2.core = core ∧ e.2.place = .resident ∧ base ≤ g.a ∧ g.a < base + 2048 * (s.grd e.2.grid).scrRows then
        (upto ((g.a - base) / 64) ((g.a - base + g.n - 1) / 64 + 1 - (g.a - base) / 64)).filterMap (fun x =>
          if (look e.2.absent x).isSome then some (e.1, x) else none)
      else [])

/-! ### The accesses of a word -/

/-- Lanes fail with one cause each, one parked sub-cohort for each distinct cause (R46). `own` are the threads for which a
lane's access is made: more than the lane where the word makes one for its group (R238). -/
def State.failLanes (s : State) (kind : Nat) (own : Nat → LaneMask) (rs : List (Nat × LaneRes)) : State :=
  (causeOrder.filter (· ≠ 0x219)).foldl (fun s c =>
    match rs.filter (fun r => r.2.cause == c || (c == 0x119 && r.2.cause == 0x219)) with
    | [] => s
    | r :: t =>
      let m := (r :: t).foldl (fun m x => m ||| own x.1) 0#32
      let s := if c = 0x23 then
          (r.2.segs.find? s.segBad).elim s (fun g => s.logSeg (s.cohPart s.cur.coh) (s.cohCore s.cur.coh) g false)
        else s
      let s := (r :: t).foldl (fun s x => s.forget c (s.cohGrd s.cur.coh).tctx x.2.va) s
      s.fail m ⟨1, c % 256, 0, kind, r.2.level, BitVec.ofNat 64 r.2.va, 0⟩) s

/-- The core TLB takes the translations that lanes found in the cluster TLB, of every page that an access touches (R39). -/
def State.fillLanes (s : State) (n : Nat → Nat) (good : List (Nat × LaneRes)) : State :=
  let core := s.cohCore s.cur.coh
  let tctx := (s.cohGrd s.cur.coh).tctx
  good.foldl (fun s r => (pieces r.2.va (n r.1)).foldl (fun s p => if isWindow p.1 then s else s.fillHit core tctx p.1) s) s

/-- The lanes that make the access of a word that executes once for some lanes (R238): the lowest lane without a speculative
attempt makes it for all of those, and each speculative lane enters it in its own logs (R136). -/
def onceLanes (tx : Nat → Bool) (run : LaneMask) : List Nat :=
  (lanesOf run).filter (fun l => tx l || l == lowLane (maskOf (fun j => run.getLsbD j && !tx j)))

/-- What is left of it behind the checks: what is not transactional is accessed once. -/
def onceGood (good : List (Nat × LaneRes)) : List (Nat × LaneRes) :=
  match good with
  | [] => []
  | r :: t => r :: t.filter (fun x => x.2.segs.all (fun g => g.loc == .mem))

/-- Resolves the accesses of the lanes of a word; `tx` says whose access is transactional. The word does not issue while
a lane waits; failing lanes split off; `k` runs with the lanes that go on. A word that executes once uses the address of its
lowest active lane (R238). -/
def State.accessBy (s : State) (tx : Nat → Bool) (kind : Nat) (once : Bool) (run : LaneMask) (va n : Nat → Nat)
    (pre : Nat → List Nat) (post : List Seg → List Nat → List Nat) (k : State → List (Nat × LaneRes) → State) : State :=
  let c := s.cur.coh
  let ls := if once then onceLanes tx run else lanesOf run
  let by_ := fun (l : Nat) => if once then lowLane run else l
  let own := fun (l : Nat) => if once && !tx l then maskOf (fun j => run.getLsbD j && !tx j) else oneLane l
  let rs := ls.map (fun l => (l, s.laneRes l kind (tx l) (va (by_ l)) (n (by_ l)) (pre (by_ l)) post))
  let walks := rs.flatMap (fun r => r.2.walks.map (fun a => (r.1, a)))
  let ranks := (rs.flatMap (fun r => r.2.peers)).eraseDups
  if walks ≠ [] ∨ ranks ≠ [] then
    let s := walks.foldl (fun s w => s.addWalk w.1 w.2) s
    let s := ranks.foldl (fun s q =>
      s.addTransit q ((rs.filter (fun r => r.2.peers.contains q)).flatMap (fun r =>
        (pieces r.2.va (n (by_ r.1))).map (fun p => (r.1, p.1, p.2))))) s
    s.stall
  else
    let good := rs.filter (fun r => r.2.cause == 0 && !r.2.cross)
    let good := if once then onceGood good else good
    let lines := good.flatMap (fun r => r.2.segs.flatMap s.absentLines)
    if lines ≠ [] then (s.modCoh c (fun h => { h with absent := lines })).stall
    else
      let s := s.endWaits c s.cur.pc
      let s := s.failLanes kind own rs
      let s := (rs.filter (fun r => r.2.cross)).foldl (fun s r => s.txAbort c r.1 0x05 0) s
      if good.isEmpty then s else k (s.fillLanes (fun l => n (by_ l)) good) good

/-- The same with the accesses of speculative lanes transactional (R122, R123). -/
def State.access (s : State) (kind : Nat) (once : Bool) (run : LaneMask) (va n : Nat → Nat)
    (pre : Nat → List Nat) (post : List Seg → List Nat → List Nat) (k : State → List (Nat × LaneRes) → State) : State :=
  s.accessBy (fun l => (s.coh s.cur.coh).spec l) kind once run va n pre post k

end Sys2Proof.Machine
end

