-- ==== Sys2Proof/Machine/Units.lean ====
section
/-! DEFINITION. Units that serve single locations: the data queues of the vault controllers (R195, R196, R334 to R338) and
the delayed-scaling rings (R222, R223). -/

namespace Sys2Proof.Machine

/-! ### Queues -/

def queueKey (part q : Nat) : Nat := 256 * part + q

def QDesc.blank : QDesc := ⟨0, 0, 0, false, 0, 0, 0, [], []⟩

def State.queue (s : State) (part q : Nat) : QDesc := getD s.queues (queueKey part q) .blank
def State.modQueue (s : State) (part q : Nat) (f : QDesc → QDesc) : State :=
  { s with queues := set s.queues (queueKey part q) (f (s.queue part q)) }

/-- The capacity C (R195). -/
def QDesc.cap (d : QDesc) : Nat := 4096 + (if d.spill = 0 then 0 else d.scap)

/-- Where the entry numbered a lies in the ring, and in the spill ring (R196). -/
def QDesc.ringAt (d : QDesc) (a : Nat) : Nat := d.ringPa + 16 * (a % 4096)
def QDesc.spillAt (d : QDesc) (a : Nat) : Nat :=
  let o := d.spill.toNat % 2 ^ 16 + 16 * (a % d.scap)
  (d.spillPages[o / 2 ^ 16]?).getD 0 + o % 2 ^ 16

/-- A push of one entry: its status (R335). A release leaves its tag at the entry. -/
def State.qPush (s : State) (part q : Nat) (v : BitVec 128) (rel : Option (Nat × Scope × Nat × Nat)) : Nat × State :=
  let d := s.queue part q
  if d.ring = 0 then (3, s)
  else if d.tail - d.head = d.cap then (1, s)
  else
    let at_ := if d.tail < d.head + 4096 then d.ringAt d.tail else d.spillAt d.tail
    let s := s.homeWrite at_ 16 v.toNat none
    let s := s.modQueue part q (fun d => { d with tail := d.tail + 1, ents := d.ents ++ [v] })
    let s := match rel with
      | some (core, sc, placed, block) => s.addRelease core part (sectorOf (d.ringAt d.tail)) sc placed block
      | none => s
    (0, s)

/-- A take of the entry at HEAD (R336): an entry that software overwrote is unpredictable (R196). The oldest spilled
entry moves into the ring (SPILL_MOVE). -/
def State.qTake (s : State) (part q : Nat) (r : Reader) : BitVec 128 × State :=
  let d := s.queue part q
  let s := s.pullAll (s.tagsAt [sectorOf (d.ringAt d.head)] r)
  let m := BitVec.ofNat 128 (getBytes s.mem (d.ringAt d.head) 16)
  let good := d.ents.head? == some m
  let v := if good then m else (List.range 16).foldl (fun v i => v <<< 8 ||| (Config.junk (s.fresh + i)).zeroExtend 128) 0#128
  let s := if good then s else { s with fresh := s.fresh + 16 }
  let mv := d.head + 4096
  let s := if mv < d.tail then s.homeWrite (d.ringAt mv) 16 (getBytes s.mem (d.spillAt mv) 16) none else s
  (v, s.modQueue part q (fun d => { d with head := d.head + 1, ents := d.ents.drop 1 }))

/-! ### Rings -/

def Ring.blank : Ring := ⟨0, List.replicate 16 0, 0⟩

def State.ring (s : State) (g r : Nat) : Ring := getD (s.grd g).rings r .blank
def State.modRing (s : State) (g r : Nat) (f : Ring → Ring) : State :=
  s.modGrd g (fun k => { k with rings := set k.rings r (f (getD k.rings r .blank)) })

/-- C := max(C, a), both magnitudes in FP32, whose bits are in the order of their values. -/
def Ring.fold (r : Ring) (a : Word) : Ring := { r with c := if r.c.toNat < a.toNat then a else r.c }

/-- The advance of R222. -/
def Ring.advance (r : Ring) : Ring := ⟨0, r.h.set r.cursor r.c, (r.cursor + 1) % 16⟩

/-- The largest of the history maxima. -/
def Ring.top (r : Ring) : Word := r.h.foldl (fun m x => if m.toNat < x.toNat then x else m) 0

/-- The scale of the ring (R222). -/
def Ring.scale (r : Ring) : Nat :=
  match Fmt.fp32.dec r.top.toNat with
  | .fin _ m e => scaleFor m e
  | .inf _ => 0x3FB
  | .nan _ => 0x3FB

end Sys2Proof.Machine
end

