-- ==== Sys2Proof/Machine/Perform.lean ====
section
/-! DEFINITION. The completion of flagged operations (R229): when a lane's part may be performed (R97, R99, R101), what it
does at its home (R316 to R322, R335 to R337, R363), inside a speculative attempt (R135, R136), the pull of release sets
(R106), and faults that are found late (R370, R389). -/

namespace Sys2Proof.Machine

/-! ### Order -/

def Seg.overlaps (g h : Seg) : Bool := g.loc == h.loc && g.a < h.a + h.n && h.a < g.a + g.n

def segsOverlap (a b : List Seg) : Bool := a.any (fun g => b.any g.overlaps)

/-- The operation is an access to memory, a queue or a ring (R98, R101). -/
def OpKind.isAccess : OpKind → Bool
  | .comp => false
  | .buffered => false
  | .load => true
  | .ldc => true
  | .store => true
  | .rmw _ => true
  | .atoms _ => true
  | .cas => true
  | .qpush _ => true
  | .qpop _ => true
  | .qcnt _ => true
  | .amax _ _ => true
  | .sring _ => true

/-- The lanes of the operation go together. -/
def OpKind.whole : OpKind → Bool
  | .atoms _ => true
  | .qpush _ => true
  | .qpop _ => true
  | .qcnt _ => true
  | .amax _ _ => true
  | .sring _ => true
  | .load => false
  | .ldc => false
  | .store => false
  | .rmw _ => false
  | .cas => false
  | .comp => false
  | .buffered => false

def OpKind.isLoad : OpKind → Bool
  | .load => true
  | .ldc => true
  | .sring _ => true
  | .qcnt _ => true
  | .store => false
  | .rmw _ => false
  | .atoms _ => false
  | .cas => false
  | .comp => false
  | .qpush _ => false
  | .qpop _ => false
  | .amax _ _ => false
  | .buffered => false

def OpKind.ring : OpKind → Option Nat
  | .amax r _ => some r
  | .sring r => some r
  | .load => none
  | .ldc => none
  | .store => none
  | .rmw _ => none
  | .atoms _ => none
  | .cas => none
  | .comp => none
  | .qpush _ => none
  | .qpop _ => none
  | .qcnt _ => none
  | .buffered => none

def isAcq (o : Order) : Bool := o == .acq || o == .ar
def isRel (o : Order) : Bool := o == .rel || o == .ar

/-- The threads of a lane's part. -/
def Op.threads (o : Op) (l : Nat) : LaneMask := if o.grp = 0 then oneLane l else o.grp

/-- An earlier operation still has a part to perform for one of some threads. -/
def Op.pendingFor (e : Op) (t : LaneMask) : Bool := (lanesOf e.lanes).any (fun l => (e.threads l &&& t) != 0)

/-- The ports in service, ascending (R12, R389). -/
def State.portList (s : State) : List Nat := (List.range 18).filter (fun p => s.fab.ports.getLsbD p)

/-- The port on which a lane's access to an address of another package goes out: PA[41:6] modulo the ports in service
(R389). -/
def State.portOf (s : State) (pa : Nat) : Option Nat := s.portList[paOff pa / 64 % s.portList.length]?

/-- Where the bytes of an access that lie on other packages go: the package, and the port. -/
def State.routes (s : State) (a : LaneAcc) : List (Nat × Option Nat) :=
  (a.segs.filter (fun g => g.loc == .mem && !s.isLocal g.a)).map (fun g => (paPkg g.a, s.portOf g.a))

/-- The lane's part of operation i is not sent yet: it waits for an earlier overlapping access of the thread (R97), for a lower lane of the
same word at the same bytes (R99), for an earlier operation on the same ring (R223), or, as a release, for every earlier
access of the thread (R101). -/
def State.unsent (s : State) (i : Nat) (o : Op) (l : Nat) : Bool :=
  match look o.acc l with
  | none => false
  | some a =>
    let t := o.threads l
    let earlier := s.ops.filter (fun e => e.1 < i && e.2.coh == o.coh)
    let overlaps := earlier.any (fun e => (lanesOf e.2.lanes).any (fun j =>
      (e.2.threads j &&& t) != 0 && (look e.2.acc j).any (fun b => segsOverlap b.segs a.segs)))
    let lower := !o.kind.isLoad && !o.kind.whole && (lanesOf o.lanes).any (fun j =>
      j < l && (look o.acc j).any (fun b => segsOverlap b.segs a.segs))
    let ring := o.kind.ring.isSome && earlier.any (fun e => e.2.kind.ring == o.kind.ring && e.2.pendingFor t)
    let rel := isRel o.ord && a.tx == 0 && earlier.any (fun e => e.2.kind.isAccess && e.2.pendingFor t)
    overlaps || lower || ring || rel

/-- An access of an operation that satisfies a test has been sent on a route and is not performed yet. -/
def State.routeBusy (s : State) (f : Nat → Bool) (r : Nat × Option Nat) : Bool :=
  s.ops.any (fun e => f e.1 && (lanesOf e.2.lanes).any (fun j =>
    (look e.2.acc j).any (fun b => (s.routes b).contains r) && !s.unsent e.1 e.2 j))

/-- An access to another package waits while no port is in service, and behind what was sent before it on its port to the
same package: a plane delivers in the order sent (R12). -/
def State.portWait (s : State) (i : Nat) (a : LaneAcc) : Bool :=
  (s.routes a).any (fun r => r.2.isNone || s.routeBusy (fun k => k < i) r)

/-- What engines have sent before on some routes is delivered first (R12). -/
def State.drainRoutes (s : State) (rs : List (Nat × Option Nat)) : State :=
  if s.ewr.any (fun w => w.route.any (fun x => rs.contains (x.1, some x.2))) then s.drainWrites (fun _ => true) else s

/-- The lane's part of operation i cannot be performed yet. -/
def State.laneBlocked (s : State) (i : Nat) (o : Op) (l : Nat) : Bool :=
  s.unsent i o l || (look o.acc l).any (s.portWait i)

/-! ### Values -/

/-- Placement of loaded bytes by type (R314). -/
def place (t : MType) (v : Nat) : BitVec 160 :=
  match t with
  | .s8 => ((BitVec.ofNat 8 v).signExtend 128).zeroExtend 160
  | .s16 => ((BitVec.ofNat 16 v).signExtend 128).zeroExtend 160
  | .s32 => ((BitVec.ofNat 32 v).signExtend 128).zeroExtend 160
  | _ => BitVec.ofNat 160 v

def signedTy (t : MType) : Bool := t == .s32 || t == .s64 || t == .s8 || t == .s16

/-- The floating format of a memory type. -/
def fmtTy (t : MType) : Fmt :=
  if t = .f64 then .fp64 else if t = .f16 then .fp16 else if t = .bf16 then .bf16 else .fp32

/-- The new value of an atomic operation (R318). -/
def aopVal (op : AOp) (t : MType) (old x : Nat) : Nat × NFlags :=
  let w := 8 * t.bytes
  let o := old % 2 ^ w
  let y := x % 2 ^ w
  let si := fun (v : Nat) => intOf w (signedTy t) v
  match op with
  | .add => ((o + y) % 2 ^ w, 0)
  | .min => (if si o ≤ si y then o else y, 0)
  | .max => (if si o ≤ si y then y else o, 0)
  | .and => (o &&& y, 0)
  | .or => (o ||| y, 0)
  | .xor => (o ^^^ y, 0)
  | .exch => (y, 0)
  | .inc => (if y ≤ o then 0 else o + 1, 0)
  | .dec => (if o = 0 ∨ y < o then y else o - 1, 0)
  | .fadd => (fmtTy t).add .rne ((fmtTy t).dec o) ((fmtTy t).dec y)
  | .fmin => (fmtTy t).minmax false false ((fmtTy t).dec o) ((fmtTy t).dec y)
  | .fmax => (fmtTy t).minmax true false ((fmtTy t).dec o) ((fmtTy t).dec y)

/-! ### Speculative attempts (R135, R136) -/

/-- The attempt that an access belongs to is still open. -/
def State.txLive (s : State) (c l : Nat) (a : LaneAcc) : Bool :=
  (s.coh c).spec l && ((s.coh c).txOf l).start == a.tx

def State.modTx (s : State) (c l : Nat) (f : Tx → Tx) : State :=
  s.modCoh c (fun k => { k with tx := set k.tx l (f (k.txOf l)) })

/-- A log sector can be pinned: log sectors hold at most half of the partition's L1 rows (R135). -/
def State.canPin (s : State) (w : Who) : Bool := s.logSectors w.core w.part + 1 ≤ 32 * s.l1Rows w.core w.part / 2

/-- The L1 gives up what no longer fits: rows that a placement takes are emptied (R78). Which sectors lie in those rows is
not stated: the model drops the least recently used sectors above the capacity that is left, and none while all fit
(DESIGN CHOICE, notes/assumptions/70.md). -/
def State.l1Trim (s : State) (w : Who) : State :=
  let mine := ((s.core w.core).l1.filter (fun e => e.part == w.part)).map (·.sector)
  s.wbDrop w.core w.part (mine.drop (s.l1Cap w.core w.part))

/-- The sector as it stands at its home. -/
def State.homeSector (s : State) (sec : Nat) : BitVec 512 :=
  (List.range 64).foldl (fun d i => secPut d i (getD s.mem (64 * sec + i) 0)) 0#512

/-- The read log takes a sector as first read from its home, or the lane aborts: 33rd sector, no room to pin, or an
uncorrectable error (R135, R142). -/
def State.txEnter (s : State) (w : Who) (l sec : Nat) : State :=
  if ((s.coh w.coh).txOf l).rlog.any (fun e => e.sector == sec) then s
  else if 32 ≤ ((s.coh w.coh).txOf l).rlog.length then s.txAbort w.coh l 0x04 2
  else if !s.canPin w then s.txAbort w.coh l 0x04 3
  else if s.badAt (64 * sec) 64 then (s.logBad w.part (64 * sec)).txAbort w.coh l 0x07 0
  else
    let s := s.homeSync w.core w.part (64 * sec) 64
    -- no later load of the lane may find an older byte in the L1 (R97)
    let s := (s.l2Sector sec false false).l1Patch w.core w.part (64 * sec) 64 (s.homeSector sec).toNat
    (s.modTx w.coh l (fun t => { t with rlog := t.rlog ++ [⟨sec, s.homeSector sec, 0⟩] })).l1Trim w

/-- Bytes of a segment, each with its sector and place. -/
def segBytes (g : Seg) : List (Nat × Nat) := (upto g.a g.n).map (fun a => (a / 64, a % 64))

/-- A transactional load (R136): the value, or none where the lane aborted. -/
def State.txLoad (s : State) (w : Who) (l : Nat) (gs : List Seg) : Option Nat × State :=
  let start := ((s.coh w.coh).txOf l).start
  let secs := (gs.flatMap (fun g => sectors g.a g.n)).eraseDups
  let s := secs.foldl (fun s x =>
    if (s.coh w.coh).spec l && ((s.coh w.coh).txOf l).start == start then s.txEnter w l x else s) s
  let t := (s.coh w.coh).txOf l
  if !((s.coh w.coh).spec l) then (none, s)
  else
    let bs := gs.flatMap segBytes
    let s := s.modTx w.coh l (fun t => { t with
      rlog := t.rlog.map (fun e => { e with
        mask := bs.foldl (fun m b => if b.1 = e.sector then m ||| (1#64 <<< b.2) else m) e.mask }) })
    let byte := fun (b : Nat × Nat) =>
      match t.wlog.find? (fun e => e.sector == b.1 && e.mask.getLsbD b.2) with
      | some e => (secByte e.data b.2).toNat
      | none => ((t.rlog.find? (fun e => e.sector == b.1)).map (fun e => (secByte e.data b.2).toNat)).getD 0
    (some (bs.foldr (fun b acc => byte b + 256 * acc) 0), s)

/-- The write log takes the sectors of an access: a 17th sector, or one that cannot be pinned, aborts the lane (R135). -/
def State.txTake (s : State) (w : Who) (l : Nat) (gs : List Seg) : State :=
  (gs.flatMap (fun g => sectors g.a g.n)).eraseDups.foldl (fun s x =>
    let t := (s.coh w.coh).txOf l
    if !((s.coh w.coh).spec l) ∨ t.wlog.any (fun e => e.sector == x) then s
    else if 16 ≤ t.wlog.length then s.txAbort w.coh l 0x04 1
    else if !s.canPin w then s.txAbort w.coh l 0x04 3
    else (s.modTx w.coh l (fun t => { t with wlog := t.wlog ++ [⟨x, 0, 0⟩] })).l1Trim w) s

/-- A transactional store (R136). -/
def State.txStore (s : State) (w : Who) (l : Nat) (gs : List Seg) (v : Nat) : State :=
  let bs := (gs.flatMap segBytes).zipIdx
  let s := s.txTake w l gs
  if !((s.coh w.coh).spec l) then s
  else
    s.modTx w.coh l (fun t => { t with
      wlog := t.wlog.map (fun e => bs.foldl (fun (e : TxSec) b =>
        if b.1.1 = e.sector then { e with
          data := secPut e.data b.1.2 (BitVec.ofNat 8 (v / 2 ^ (8 * b.2)))
          mask := e.mask ||| (1#64 <<< b.1.2) } else e) e) })

/-! ### Acquire and release around an access -/

/-- Memory whose home keeps tags: HBM4E, capacity tier and vaults of the package (R105). -/
def State.lazyHome (s : State) (g : Seg) : Bool :=
  g.loc == .mem && s.isLocal g.a && (regionOf (paOff g.a) != .host)

/-- Before a release of scope clu or wider to a variable elsewhere, its release set is written back (R105). -/
def State.relBefore (s : State) (o : Op) (a : LaneAcc) : State :=
  if isRel o.ord ∧ a.tx = 0 ∧ o.sc ≠ .blk ∧ !(a.segs.all s.lazyHome) then s.wbAll o.core o.part else s

/-- How many bytes of an access of n bytes have been performed: those of the pieces that have gone (R100). -/
def LaneAcc.done (a : LaneAcc) (n : Nat) : Nat := n - a.segs.foldl (fun k g => k + g.n) 0

/-- A lazy release leaves its release set and tag (R105); of a release that is performed in pieces the first piece in each
sector does. -/
def State.relAfter (s : State) (o : Op) (a : LaneAcc) : State :=
  match a.segs with
  | [] => s
  | g :: _ =>
    if isRel o.ord ∧ a.tx = 0 ∧ o.sc ≠ .blk ∧ a.segs.all s.lazyHome ∧ (a.done o.ty.bytes = 0 ∨ g.a % 64 = 0) then
      s.addRelease o.core o.part (sectorOf g.a) o.sc (s.cohBlk o.coh).placed (s.coh o.coh).block
    else s

/-- The L1 actions of an acquire (R107). -/
def State.acqAfter (s : State) (o : Op) (tx : Nat) : State :=
  if isAcq o.ord ∧ tx = 0 ∧ o.sc ≠ .blk then s.acquireDrop o.core o.part else s

/-- The L1 holds what an access reads of a sector: every byte is masked or held (R77). -/
def State.l1Serves (s : State) (core part x : Nat) (g : Seg) : Bool :=
  (s.l1Find core part x).any (fun e =>
    e.filled || (upto g.a g.n).all (fun a => a / 64 != x || e.mask.getLsbD (a % 64)))

/-- The tags that a lane's part pulls before it has its value (R106, R117). -/
def State.pullsOf (s : State) (o : Op) (a : LaneAcc) : List (Nat × Nat) :=
  let p := (s.cohBlk o.coh).placed
  let homes := a.segs.filter s.lazyHome
  let ss := homes.flatMap (fun g => sectors g.a g.n)
  let sc := if a.tx = 0 then o.sc else .pkg
  let me : Reader := .simt o.core p (s.coh o.coh).block sc
  match o.kind with
  | .load =>
    -- a load of scope blk does not reach the home for what the L1 serves (R77)
    s.tagsAt (homes.flatMap (fun g => (sectors g.a g.n).filter (fun x =>
      !(g.l1 && sc == .blk && s.l1Serves o.core o.part x g)))) me
  | .rmw _ => s.tagsAt ss me
  | .atoms _ => s.tagsAt ss me
  | .cas => s.tagsAt ss me
  | .ldc => []
  | .store => []
  | .comp => []
  | .qpush _ => []
  | .qpop _ => []
  | .qcnt _ => []
  | .amax _ _ => []
  | .sring _ => []
  | .buffered => []

/-! ### Late faults -/

/-- Lanes of an operation in flight fail (R370, R389): the operation no longer counts them, and those that can trap are
parked at its word. -/
def State.failLate (s : State) (i : Nat) (m : LaneMask) (a : TrapArgs) : State :=
  match look s.ops i with
  | none => s
  | some o =>
    let s := s.modOp i (fun o => { o with dst := o.dst.filter (fun e => !m.getLsbD e.2.1) })
    let s := s.opDone i m
    let k := s.coh o.coh
    let m := m &&& k.awake
    let s := s.modCoh o.coh (fun k => { k with
      pc := (lanesOf m).foldl (fun p l => put p l o.pc 0) k.pc
      entered := k.entered ||| m
      held := k.held &&& ~~~m
      lockWait := k.lockWait &&& ~~~m
      mendWait := k.mendWait &&& ~~~m
      barHold := k.barHold.filter (fun h => !m.getLsbD h.1) })
    s.park o.coh m o.pc { a with va := BitVec.ofNat 64 (((look o.acc (lowLane m)).map (fun x => x.va)).getD 0) }

/-! ### One lane's part -/

def Op.who (o : Op) : Who := ⟨o.coh, o.core, o.part⟩

/-- An atomic at a line of a channel counts four units, whether the line is in its slice or not (R92): what the slice reads
for it counts no more. -/
def State.chargeAtomic (s : State) (gs : List Seg) : State :=
  gs.foldl (fun s g => if g.loc = .mem ∧ s.isLocal g.a then s.atomicAt g.a g.n else s) s

/-- A plain load: its value at its scope, bound by type. -/
def State.doLoad (s : State) (i : Nat) (o : Op) (l : Nat) (a : LaneAcc) : State :=
  if a.segs.isEmpty then (s.bind i l (place o.ty a.x.toNat)).acqAfter o 0
  else
    let r := s.readSegs o.who o.sc a.segs
    (r.2.bind i l (place o.ty (a.x.toNat + r.1 * 2 ^ (8 * a.done o.ty.bytes)))).acqAfter o 0

/-- A read-modify-write at the home: `f` gives the new value from the old one. -/
def State.doRmw (s : State) (i : Nat) (o : Op) (l : Nat) (a : LaneAcc) (f : Nat → Option (Nat × NFlags)) : State :=
  let s := (s.relBefore o a).chargeAtomic a.segs
  -- every RMW is applied at the home, whatever its scope (R96)
  let r := s.readSegs o.who .pkg a.segs
  let v := f r.1
  -- an RMW that stores nothing reaches the home all the same (R141)
  let s := match v with
    | some n => r.2.writeSegs o.who .pkg a.segs n.1
    | none => (a.segs.filter (fun (g : Seg) => g.loc == Loc.mem)).foldl (fun (s : State) (g : Seg) => s.conflictWrite g.a g.n none) r.2
  let s := (s.bind i l (place o.ty r.1)).raise o.coh (match v with | some n => n.2 | none => 0)
  (s.relAfter o a).acqAfter o 0

/-- The same in a speculative attempt (R136); a compare-and-swap that does not store takes its write sector too (R135). -/
def State.doTx (s : State) (i : Nat) (o : Op) (l : Nat) (a : LaneAcc) (load : Bool)
    (f : Nat → Option (Nat × NFlags)) : State :=
  if !s.txLive o.coh l a then s
  else if load then
    let r := s.txLoad o.who l a.segs
    match r.1 with
    | none => r.2
    | some v =>
      let n := f v
      let s := match n with
        | some n => r.2.txStore o.who l a.segs n.1
        | none => if o.kind = OpKind.cas then r.2.txTake o.who l a.segs else r.2
      if s.txLive o.coh l a then
        (s.bind i l (place o.ty v)).raise o.coh (match n with | some n => n.2 | none => 0)
      else s
  else
    match f 0 with
    | some n => s.txStore o.who l a.segs n.1
    | none => s

/-- What one lane's part of an operation does. -/
def State.performLane (s : State) (i : Nat) (o : Op) (l : Nat) : State :=
  match look o.acc l with
  | none => s
  | some a =>
    let tx := a.tx ≠ 0
    match o.kind with
    | .load => if tx then s.doTx i o l a true (fun _ => none) else s.doLoad i o l a
    | .ldc => s.bind i l (place o.ty a.x.toNat)
    | .store =>
      if tx then s.doTx i o l a false (fun _ => some (a.x.toNat, 0))
      else ((s.relBefore o a).writeSegs o.who o.sc a.segs (a.x.toNat / 2 ^ (8 * a.done o.ty.bytes))).relAfter o a
    | .rmw op =>
      let f := fun old => some (aopVal op o.ty old a.x.toNat)
      if tx then s.doTx i o l a true f
      else if a.segs.isEmpty then
        ((s.bind i l (place o.ty a.cmp.toNat)).raise o.coh (aopVal op o.ty a.cmp.toNat a.x.toNat).2).acqAfter o 0
      else s.doRmw i o l a f
    | .cas =>
      let w := 2 ^ (8 * o.ty.bytes)
      let f := fun old => if old = a.cmp.toNat % w then some (a.x.toNat % w, (0 : NFlags)) else none
      if tx then s.doTx i o l a true f
      else if a.segs.isEmpty then (s.bind i l (place o.ty a.cmp.toNat)).acqAfter o 0 else s.doRmw i o l a f
    | .comp => (s.bind i l (a.x.zeroExtend 160)).raise o.coh (a.cmp.truncate 5)
    | .atoms _ => s
    | .qpush _ => s
    | .qpop _ => s
    | .qcnt _ => s
    | .amax _ _ => s
    | .sring _ => s
    | .buffered => s

/-! ### Operations whose lanes go together -/

/-- ATOMS (R320): one RMW of the combination; each lane gets the value as if the lanes had gone one by one. -/
def State.doAtoms (s : State) (i : Nat) (o : Op) (op : AOp) : State :=
  match o.acc with
  | [] => s
  | e :: _ =>
    let a := e.2
    let s := (s.relBefore o a).chargeAtomic a.segs
    let r := s.readSegs o.who .pkg a.segs
    let step := fun (v x : Nat) => (aopVal op o.ty v x).1
    let run := o.acc.foldl (fun (acc : Nat × List (Nat × Nat)) e => (step acc.1 e.2.x.toNat, acc.2 ++ [(e.1, acc.1)])) (r.1, [])
    let s := r.2.writeSegs o.who .pkg a.segs run.1
    let s := run.2.foldl (fun s e => s.bind i e.1 (place o.ty e.2)) s
    (s.relAfter o a).acqAfter o 0

/-- A push of every lane (R335). -/
def State.doQpush (s : State) (i : Nat) (o : Op) (q : Nat) : State :=
  let rel := if isRel o.ord ∧ o.sc ≠ .blk then some (o.core, o.sc, (s.cohBlk o.coh).placed, (s.coh o.coh).block) else none
  o.acc.foldl (fun s e =>
    let r := s.qPush o.part q e.2.x rel
    r.2.bind i e.1 (BitVec.ofNat 160 r.1)) s

/-- Entry and status of one QPOP lane: `st` 0 with the entry's words, any other status alone (R336). -/
def State.popBind (s : State) (i l : Nat) (t : MType) (v : BitVec 128) (st : Nat) : State :=
  let w := place t (v.toNat % 2 ^ (8 * t.bytes)) ||| (BitVec.ofNat 160 st <<< 128)
  s.bindSel i l w (fun k => st = 0 || k = 4)

/-- One lane of a QPOP reaches its controller (R336): it is served, refused or waits. -/
def State.qpopLane (s : State) (i : Nat) (o : Op) (q l : Nat) : State :=
  let d := s.queue o.part q
  let fin := fun (s : State) (v : BitVec 128) (st : Nat) =>
    ((if o.grp = 0 then [l] else lanesOf o.grp).foldl (fun s j => s.popBind i j o.ty v st) s).opDone i (oneLane l)
  if d.ring = 0 then fin s 0 3
  else if d.bound then fin s 0 2
  else if d.head < d.tail then
    let r := s.qTake o.part q (.simt o.core (s.cohBlk o.coh).placed (s.coh o.coh).block o.sc)
    fin (r.2.acqAfter o 0) r.1 0
  else if o.hold ≠ 0 then
    if s.qwaits.any (fun w => w.op == i && w.lane == l) then s
    else { s with qwaits := s.qwaits ++ [⟨o.part, q, i, l⟩] }
  else fin s 0 2

/-- The lanes that wait at a queue are served in the order in which they arrived, while it has entries (R336). -/
def State.serveWaits (s : State) (part q : Nat) : State :=
  (s.qwaits.filter (fun w => w.part == part && w.q == q)).foldl (fun s w =>
    let d := s.queue part q
    if d.bound ∨ d.head < d.tail then
      let s := { s with qwaits := s.qwaits.filter (fun x => !(x.op == w.op && x.lane == w.lane)) }
      match look s.ops w.op with
      | none => s
      | some o => s.qpopLane w.op o q w.lane
    else s) s

/-- QCNT (R337): the count once for the group. -/
def State.doQcnt (s : State) (i : Nat) (o : Op) (q : Nat) : State :=
  let d := s.queue o.part q
  let n := if d.ring = 0 then 0 else d.tail - d.head
  let isS := o.dst.any (fun e => match e.1 with | .s _ => true | .v _ => false)
  let full := o.ty == .b64 || (o.ty == .z8 && isS)
  let v := if full then n else min n 0xFFFFFFFF
  let s := (lanesOf o.grp).foldl (fun s l => s.bind i l (BitVec.ofNat 160 v)) s
  s.acqAfter o 0

/-- AMAX and SRING at the ring's home (R222, R363). -/
def State.doRing (s : State) (i : Nat) (o : Op) : State :=
  let g := (s.cohBlk o.coh).grid
  match o.kind with
  | .amax r adv =>
    let a := o.acc.head?.map Prod.snd
    let x := (a.map (fun a => a.x)).getD 0
    let f := (a.map (fun a => a.cmp)).getD 0
    let s := s.modRing g r (fun k => let k := k.fold (x.truncate 32); if adv then k.advance else k)
    s.raise o.coh (f.truncate 5)
  | .sring r =>
    let v := (s.ring g r).scale
    (lanesOf o.grp).foldl (fun s l => s.bind i l (BitVec.ofNat 160 v)) s
  | _ => s

/-! ### Completion -/

/-- A pull of the operation's lane is on its way. -/
def State.pulling (s : State) (i l : Nat) : Bool := s.pulls.any (fun p => p.2.op == i && p.2.lanes.getLsbD l)

/-- The home sends pulls of some release sets (R106). -/
def State.sendPulls (s : State) (i : Nat) (m : LaneMask) (ts : List (Nat × Nat)) : State :=
  ts.foldl (fun s t => { s with pulls := set s.pulls (freshKey s.pulls) ⟨i, m, t.1, t.2, false⟩ }) s

/-- The L1 serves a load of scope blk. -/
def State.servedL1 (s : State) (o : Op) (g : Seg) : Bool :=
  o.kind == .load && o.sc == .blk && g.l1 && (sectors g.a g.n).all (fun x =>
    (s.l1Find o.core o.part x).any (fun e => e.filled || (List.range 64).all (fun i =>
      e.mask.getLsbD i || 64 * x + i < g.a || g.a + g.n ≤ 64 * x + i)))

/-- Data damaged at its home since the word issued, or in the L1 that serves a load of scope blk (R370). -/
def State.lateBad (s : State) (o : Op) (a : LaneAcc) : Option Seg :=
  if a.tx = 0 ∧ o.kind ≠ .store then
    a.segs.find? (fun g => if s.servedL1 o g then s.l1Bad o.core o.part g.a g.n else s.segBad g)
  else none

/-- It is logged (R370). -/
def State.logLate (s : State) (o : Op) (g : Seg) : State := s.logSeg o.part o.core g (s.servedL1 o g)

/-- The record kind of an operation's access (R371). -/
def OpKind.access (k : OpKind) : Nat := if k.isLoad then 1 else if k = .store then 2 else 3

/-- The pseudo-channel at which a lane's part is served: HBM4E of the package that the L1 does not serve (R79, R92). -/
def State.channel (s : State) (o : Op) (a : LaneAcc) : Option Nat :=
  (a.segs.find? (fun g => g.loc == .mem && s.isLocal g.a && regionOf (paOff g.a) == .hbm &&
    !(g.l1 && o.sc == .blk && (o.kind == .load || o.kind == .store)))).map (fun g => pchOf g.a)

/-- A partition's floor on a channel, and the units granted to it in this window (R91, R92). -/
def State.floorAt (s : State) (p ch : Nat) : Nat := (getD s.ctl.floor (1024 * p + ch) 0).toNat
def State.grantedAt (s : State) (p ch : Nat) : Nat := getD s.ctl.granted (1024 * p + ch) 0

/-- Partition p comes before q at a channel: p is below its floor, and q is not or has the higher ratio of granted units to
floor (R92). -/
def State.before (s : State) (p q ch : Nat) : Bool :=
  s.grantedAt p ch < s.floorAt p ch &&
    (s.floorAt q ch ≤ s.grantedAt q ch || s.grantedAt p ch * s.floorAt q ch < s.grantedAt q ch * s.floorAt p ch)

/-- The channel's arbiter serves a request of another partition first (R92): one that waits there and that nothing else
holds. -/
def State.arbiterHolds (s : State) (o : Op) (a : LaneAcc) : Bool :=
  if s.ctl.floor.isEmpty then false
  else
    match s.channel o a with
    | none => false
    | some ch =>
      s.ops.any (fun e => e.2.part != o.part && s.before e.2.part o.part ch &&
        (lanesOf e.2.lanes).any (fun l => (look e.2.acc l).any (fun b => s.channel e.2 b == some ch) &&
          !s.laneBlocked e.1 e.2 l && !s.pulling e.1 l))

/-- The first piece of a load or store that is not performed whole (R100): 16 bytes outside scratchpad and vault, or a
misaligned access. The rest of the lane's part stays in flight. -/
def State.performPiece (s : State) (i : Nat) (o : Op) (l : Nat) (a : LaneAcc) (g : Seg) (t : List Seg) : State :=
  let k := a.done o.ty.bytes
  if o.kind = .load then
    let r := s.readSeg o.who o.sc g
    r.2.modOp i (fun o => { o with acc := set o.acc l { a with segs := t, x := a.x ||| (BitVec.ofNat 128 r.1 <<< (8 * k)) } })
  else
    (((s.relBefore o a).writeSeg o.who o.sc g (a.x.toNat / 2 ^ (8 * k))).relAfter o a).modOp i
      (fun o => { o with acc := set o.acc l { a with segs := t } })

/-- The pieces of a lane's part that are still to be performed one by one. -/
def Op.piece (o : Op) (a : LaneAcc) : Option (Seg × List Seg) :=
  match a.segs with
  | g :: t => if a.tx = 0 ∧ (o.kind = .load ∨ o.kind = .store) ∧ t ≠ [] then some (g, t) else none
  | [] => none

/-- A lane's part is performed if nothing holds it; a qualifying tag is pulled first (R106). -/
def State.tryLane (s : State) (i l : Nat) : State :=
  match look s.ops i with
  | none => s
  | some o =>
    match look o.acc l with
    | none => s
    | some a =>
      if !o.lanes.getLsbD l ∨ s.laneBlocked i o l ∨ s.pulling i l ∨ s.arbiterHolds o a then s
      else
        match s.lateBad o a with
        | some g => (s.logLate o g).failLate i (oneLane l) ⟨1, 0x23, 0, o.kind.access, 15, 0, 0⟩
        | none =>
          let ts := s.pullsOf o a
          if ts ≠ [] then s.sendPulls i (oneLane l) ts
          else
            let s := s.drainRoutes (s.routes a)
            match o.piece a with
            | some p => s.performPiece i o l a p.1 p.2
            | none => (s.performLane i o l).opDone i (oneLane l)

/-- The lanes of a word that goes together are performed if nothing holds any of them. -/
def State.tryWhole (s : State) (i : Nat) : State :=
  match look s.ops i with
  | none => s
  | some o =>
    let ls := lanesOf o.lanes
    if ls.any (fun l => s.laneBlocked i o l || s.pulling i l) || o.acc.any (fun e => s.arbiterHolds o e.2) then s
    else
      let bad := o.acc.findSome? (fun e => s.lateBad o e.2)
      match bad with
      | some g => (s.logLate o g).failLate i o.lanes ⟨1, 0x23, 0, o.kind.access, 15, 0, 0⟩
      | none =>
        let ts := (o.acc.flatMap (fun e => s.pullsOf o e.2)).eraseDups
        if ts ≠ [] then s.sendPulls i o.lanes ts
        else
          let s := s.drainRoutes (o.acc.flatMap (fun e => s.routes e.2))
          match o.kind with
          | .atoms op => (s.doAtoms i o op).opDone i o.lanes
          | .qpush q => ((s.doQpush i o q).opDone i o.lanes).serveWaits o.part q
          | .qpop q => ls.foldl (fun s l => s.qpopLane i o q l) s
          | .qcnt q => (s.doQcnt i o q).opDone i o.lanes
          | .amax _ _ => (s.doRing i o).opDone i o.lanes
          | .sring _ => (s.doRing i o).opDone i o.lanes
          | .load => s
          | .ldc => s
          | .store => s
          | .rmw _ => s
          | .cas => s
          | .comp => s
          | .buffered => s

/-- Some lanes of an operation complete (R229). -/
def State.complete (s : State) (i : Nat) (m : LaneMask) : State :=
  match look s.ops i with
  | none => s
  | some o =>
    if o.kind.whole then (if m &&& o.lanes = 0 then s else s.fits o.core (s.tryWhole i))
    else (lanesOf (m &&& o.lanes)).foldl (fun s l => s.fits o.core (s.tryLane i l)) s

end Sys2Proof.Machine
end

