-- ==== Sys2Proof/Machine/Memory.lean ====
section
/-! DEFINITION. Loads, stores, atomics, fences, prefetch and cache control: opcodes 0x40 to 0x4B, and RNLD, 0x38 (R296,
R311 to R327). -/

namespace Sys2Proof.Machine

/-! ### Addresses and data -/

/-- Words of a register by memory type (R314). -/
def wordsTy (t : MType) : Nat := if t.bytes = 16 then 4 else if t.bytes = 8 then 2 else 1

/-- The base of a window space (R237). -/
def spaceBase (sp : Space) : Nat :=
  match sp with
  | .gen => 0
  | .scr => 0x00F0000000000000
  | .peer => 0x00F1000000000000
  | .reg => 0x00F2000000000000
  | .vault => 0x00F4000000000000

/-- The address of lane l (R237, R313): `off` is already scaled. -/
def State.vaOf (s : State) (base : Opnd) (sp : Space) (idx : Option Opnd) (off : Int) (l : Nat) : Nat :=
  let c := s.cur.coh
  let i : DWord := match idx with | some o => (s.val32 c o l).signExtend 64 | none => 0
  let a := (s.val c base true l + i + BitVec.ofInt 64 off).toNat
  if sp = .gen then a else spaceBase sp + a % 2 ^ 32

/-- A data operand by type (R314); a constant is read in the type's own format (R234, R235). -/
def State.dataOf (s : State) (o : Opnd) (t : MType) (l : Nat) : BitVec 128 :=
  let c := s.cur.coh
  let k := s.coh c
  let float := t == .f16 || t == .bf16 || t == .f32 || t == .f64
  let wide := t.bytes == 8
  match o with
  | .v n =>
    if t.bytes = 16 then
      let m := k.name l n.toNat
      k.v (m + 3) l ++ k.v (m + 2) l ++ k.v (m + 1) l ++ k.v m l
    else (s.val c o wide l).zeroExtend 128
  | .i n => if float then BitVec.ofNat 128 ((fmtTy t).ofInt .rne n.toNat).1 else (s.val c o wide l).zeroExtend 128
  | .f n =>
    if float then BitVec.ofNat 128 ((fmtTy t).conv .rne (Fmt.fp32.dec (fconst n))).1
    else (s.val c o wide l).zeroExtend 128
  | .s _ => (s.val c o wide l).zeroExtend 128
  | .x _ => (s.val c o wide l).zeroExtend 128

/-- The words that an operand of a type spans. -/
def regTy (o : Opnd) (t : MType) : Opnd × Nat := (o, wordsTy t)

/-- What a word with a memory operand needs. -/
def memNeed (m : MArgs) (regs : List (Opnd × Nat)) (src : List Opnd) : Need :=
  ⟨m.g, (m.base, 2) :: regs, sregsOf (m.base :: src), m.f, false, none⟩

/-! ### Starting an operation -/

/-- Own register window accesses wait while an operation that writes a touched word is in flight (R55), and as releases
for every earlier access of the lane (R101). -/
def State.ownBusy (s : State) (c : Nat) (rel : Bool) (l : Nat) (segs : List Seg) : Bool :=
  segs.any (fun g => g.loc == .reg c &&
    ((rel && s.ops.any (fun e => e.2.coh == c && e.2.kind.isAccess && e.2.pendingFor (oneLane l))) ||
      s.ops.any (fun e => e.2.coh == c && e.2.dst.any (fun d =>
        match d.1 with
        | .v key => (upto g.a g.n).any (fun a => 32 * (a / 128) + a % 128 / 4 == key)
        | .s _ => false))))

/-- The start of the attempt that a lane's access belongs to; 0 for an access that is not transactional (R122, R123). -/
def State.txOfAcc (s : State) (c l : Nat) (segs : List Seg) : Nat :=
  if (s.coh c).spec l ∧ segs.all (fun g => g.loc == .mem) then ((s.coh c).txOf l).start else 0

/-- What a memory word starts. -/
structure Start where
  kind : OpKind
  ty : MType
  ord : Order
  sc : Scope
  flag : Option Nat
  dst : List (Dst × Nat × Nat)
  hold : LaneMask
  grp : LaneMask
  deriving DecidableEq, Repr

/-- An operation begins with its lanes' parts. -/
def State.begin_ (s : State) (p : Start) (acc : List (Nat × LaneAcc)) : State :=
  let c := s.cur.coh
  s.startOp ⟨c, s.cohCore c, s.cohPart c, maskOf (fun l => (look acc l).isSome), s.cur.pc, p.flag, p.kind, p.ty, p.ord, p.sc,
    acc, p.dst, p.hold, nextPc s.cur.pc s.cur.nw, p.grp, s.time⟩

/-- The dirty operand-cache entries of the registers that an access to the own window names are written back (R55). -/
def State.windowBack (s : State) (c : Nat) (segs : List Seg) : State :=
  if segs.any (fun g => g.loc == .reg c) then
    s.modCoh c (fun k => { k with dirty := k.dirty.filter (fun e => !segs.any (fun g => g.loc == .reg c && e.1 == g.a / 128)) })
  else s

/-- A part in the own register window is performed as the word issues, so that the program order of R55 holds: what is
left to complete is its result. The register's dirty entry is written back; a release of scope clu or wider first writes
back the L1's dirty sectors, since its variable's home keeps no tag (R105). -/
def State.ownNow (s : State) (p : Start) (a : LaneAcc) : LaneAcc × State :=
  let c := s.cur.coh
  if a.segs.any (fun g => g.loc == .reg c) then
    let w : Who := ⟨c, s.cohCore c, s.cohPart c⟩
    let s := if isRel p.ord ∧ p.sc ≠ .blk then s.wbAll w.core w.part else s
    let s := s.windowBack c a.segs
    let r := s.readSegs w p.sc a.segs
    let old := BitVec.ofNat 128 r.1
    let n := 2 ^ (8 * p.ty.bytes)
    match p.kind with
    | .load => ({ a with segs := [], x := old }, r.2)
    | .store => ({ a with segs := [] }, r.2.writeSegs w p.sc a.segs a.x.toNat)
    | .rmw op =>
      ({ a with segs := [], cmp := old }, r.2.writeSegs w p.sc a.segs (aopVal op p.ty r.1 a.x.toNat).1)
    | .cas =>
      ({ a with segs := [], cmp := old },
        if r.1 = a.cmp.toNat % n then r.2.writeSegs w p.sc a.segs (a.x.toNat % n) else r.2)
    | _ => (a, s)
  else (a, s)

/-- The pieces in which a load or store is performed (R100): two halves of 16 aligned bytes outside scratchpad, windows
and vaults, single bytes of a misaligned access, else the whole. They are performed in ascending order
(DESIGN CHOICE, notes/assumptions/66.md). -/
def accPieces (k : OpKind) (va n : Nat) (gs : List Seg) : List Seg :=
  if k ≠ .load ∧ k ≠ .store then gs
  else if va % n ≠ 0 then gs.flatMap (fun g => (upto g.a g.n).map (fun a => { g with a := a, n := 1 }))
  else if n = 16 then
    gs.flatMap (fun g =>
      if g.loc = .mem ∧ regionOf (paOff g.a) ≠ .vault ∧ g.n = 16 then [{ g with n := 8 }, { g with a := g.a + 8, n := 8 }] else [g])
  else gs

/-- A memory word's lanes start their operation, lowest lane first (R99); a release makes the cohort's registers
visible to siblings (R56). -/
def State.startMem (s : State) (p : Start) (good : List (Nat × LaneRes)) (x cmp : Nat → BitVec 128) : State :=
  let c := s.cur.coh
  if good.any (fun r => s.ownBusy c (isRel p.ord) r.1 r.2.segs) then s.stall
  else
    let s := if isRel p.ord then s.modCoh c Cohort.flushRegs else s
    let r := good.foldl (fun (acc : List (Nat × LaneAcc) × State) e =>
      let tx := acc.2.txOfAcc c e.1 e.2.segs
      let own := e.2.segs.any (fun g => g.loc == .reg c)
      let a : LaneAcc := ⟨e.2.va, if tx = 0 ∧ !own then accPieces p.kind e.2.va p.ty.bytes e.2.segs else e.2.segs,
        x e.1, cmp e.1, tx⟩
      let n := acc.2.ownNow p a
      (acc.1 ++ [(e.1, n.1)], n.2)) ([], s)
    r.2.begin_ p r.1

/-- The lanes that go on. -/
def maskOfRes (good : List (Nat × LaneRes)) : LaneMask := maskOf (fun l => good.any (fun r => r.1 == l))

/-! ### LD, ST, LDC -/

/-- LD (R316): an s-register destination makes it one access for the group (R238). -/
def execLd (m : MArgs) (d idx : Opnd) (off : BitVec 14) (s : State) : Host.Outcome State Fault Refusal :=
  .next (s.issue (memNeed m [regTy d m.ty, (idx, 1)] [idx]) fun t run =>
    let va := t.vaOf m.base m.sp (some idx) (off.toInt * m.ty.bytes)
    t.access 1 d.isS run va (fun _ => m.ty.bytes) (fun _ => []) (fun _ _ => []) fun u good =>
      let go := maskOfRes good
      u.startMem ⟨.load, m.ty, m.ord, m.sc, u.flagOf m.f, u.dstOf u.cur.coh d (wordsTy m.ty) go, 0,
        if d.isS then run else 0⟩ good (fun _ => 0) (fun _ => 0))

/-- ST (R316): its data operand may be a pending handle (R342). -/
def execSt (m : MArgs) (x : Opnd) (off : BitVec 14) (s : State) : Host.Outcome State Fault Refusal :=
  .next (s.issue (memNeed m [regTy x m.ty] []) fun t run =>
    let va := t.vaOf m.base m.sp none (off.toInt * m.ty.bytes)
    t.access 2 false run va (fun _ => m.ty.bytes) (fun _ => []) (fun _ _ => []) fun u good =>
      -- the data register is read, be it a handle or a status (R115, R342)
      (u.modCoh u.cur.coh (·.sees (sregsOf [x]))).startMem ⟨.store, m.ty, m.ord, m.sc, u.flagOf m.f, [], 0, 0⟩ good
        (u.dataOf x m.ty) (fun _ => 0))

/-- A byte through the cluster's constant cache (R317): a line filled for the grid may still be held. -/
def State.constByte (s : State) (cl grid pa : Nat) : Byte × State :=
  let sec := sectorOf pa
  let lines := getD s.constC cl []
  let fill := fun (s : State) =>
    let d := s.homeSector sec
    let s := s.l2Sector sec false false
    let ls := ⟨grid, sec, d⟩ :: lines.filter (fun e => !(e.grid == grid && e.sector == sec))
    (secByte d (pa % 64), { s with constC := set s.constC cl ls })
  match lines.find? (fun e => e.grid == grid && e.sector == sec) with
  | none => fill s
  | some e => if Config.constKept s.fresh then (secByte e.data (pa % 64), s.next) else fill s.next

/-- The bytes of an LDC as they stand when it issues. -/
def State.constRead (s : State) (w : Who) (gs : List Seg) : Nat × State :=
  let cl := clusterOf w.core
  let grid := (s.cohBlk w.coh).grid
  let r := gs.foldl (fun (r : Nat × Nat × State) g =>
    if g.loc = .mem then
      (upto g.a g.n).foldl (fun (r : Nat × Nat × State) a =>
        let b := r.2.2.constByte cl grid a
        (r.1 + b.1.toNat * 2 ^ (8 * r.2.1), r.2.1 + 1, b.2)) r
    else
      let v := r.2.2.readSeg w .blk g
      (r.1 + v.1 * 2 ^ (8 * r.2.1), r.2.1 + g.n, v.2)) (0, 0, s)
  (r.1, r.2.2)

/-- LDC (R317): in a speculative lane as outside one (R140), and so with no target that a transaction may not reach. -/
def execLdc (m : MArgs) (d idx : Opnd) (off : BitVec 14) (s : State) : Host.Outcome State Fault Refusal :=
  .next (s.issue (memNeed m [regTy d m.ty, (idx, 1)] [idx]) fun t run =>
    let va := t.vaOf m.base m.sp (some idx) (off.toInt * m.ty.bytes)
    t.accessBy (fun _ => false) 1 d.isS run va (fun _ => m.ty.bytes) (fun _ => []) (fun _ _ => []) fun u good =>
      let c := u.cur.coh
      let w : Who := ⟨c, u.cohCore c, u.cohPart c⟩
      if good.any (fun r => u.ownBusy c false r.1 r.2.segs) then u.stall else
      let r := good.foldl (fun (acc : List (Nat × LaneAcc) × State) e =>
        let v := (acc.2.windowBack c e.2.segs).constRead w e.2.segs
        (acc.1 ++ [(e.1, (⟨e.2.va, [], BitVec.ofNat 128 v.1, 0, 0⟩ : LaneAcc))], v.2)) ([], u)
      r.2.begin_ ⟨.ldc, m.ty, m.ord, m.sc, u.flagOf m.f, u.dstOf c d (wordsTy m.ty) (maskOfRes good), 0,
        if d.isS then run else 0⟩ r.1)

/-! ### Atomics -/

/-- Alignment of an atomic (R315). -/
def alignPre (n : Nat) (va : Nat) : List Nat := if va % n = 0 then [] else [0x119]

/-- Kinds of location that an atomic may not have (R315): the host aperture, and for a .b128 CAS everything but
scratchpad, peer window and vault. TIER 4 stands for a window other than the vault's. -/
def kindPost (s : State) (wideCas : Bool) (segs : List Seg) (tiers : List Nat) : List Nat :=
  let host := segs.any (fun g => g.loc == .mem && s.isLocal g.a && regionOf (paOff g.a) == .host)
  if host ∨ (wideCas ∧ !tiers.all (fun t => t == 2 || t == 4)) then [0x219] else []

/-- In a deterministic grid with AU = 0 a returning atomic of scope clu or wider may not reach translated or vault
memory (R193, R323). -/
def State.detPre (s : State) (ret : Bool) (sc : Scope) (va : Nat) : List Nat :=
  let g := s.cohGrd s.cur.coh
  if g.det ∧ !g.au ∧ ret ∧ sc ≠ .blk ∧ (!isWindow va ∨ va / 2 ^ 48 = 0xF4) then [0x1F] else []

/-- Lanes whose operations go to the order buffer (R194, R323). -/
def State.buffers (s : State) (ret : Bool) (r : Nat × LaneRes) : Bool :=
  (s.cohGrd s.cur.coh).det && !ret && !(s.coh s.cur.coh).spec r.1 && r.2.segs.any (fun g => g.loc == .mem)

/-- Entries of a cohort in its core's order buffer. An entry is known by its block and cohort index, so that entries of a
cohort that has ended count for the next one of that index in the block (DESIGN CHOICE, notes/assumptions/71.md). -/
def State.bufCount (s : State) (c : Nat) : Nat :=
  ((s.core (s.cohCore c)).obuf.filter (fun e => e.block == (s.coh c).block && e.coh == (s.coh c).idx)).length

/-- Places one operation in the order buffer. -/
def State.bufAdd (s : State) (m : MArgs) (op : AOp) (l : Nat) (segs : List Seg) (x : BitVec 128) : State :=
  let c := s.cur.coh
  let k := s.coh c
  let b := s.cohBlk c
  match segs with
  | [] => s
  | g :: _ =>
    s.modCore b.core (fun r => { r with
      obuf := r.obuf ++ [⟨b.blk, k.idx, l, k.detIdx, b.grid, k.block, g.a, op, m.ty, m.ord, m.sc, x.truncate 64, s.fresh⟩] })

/-- Buffers the operations of some lanes; a cohort's 257th entry traps (R194). -/
def State.bufLanes (s : State) (m : MArgs) (op : AOp) (rs : List (Nat × LaneRes)) (x : Nat → BitVec 128) : State :=
  let c := s.cur.coh
  let room := 256 - s.bufCount c
  let inn := rs.take room
  let out := rs.drop room
  let s := inn.foldl (fun s r => s.bufAdd m op r.1 r.2.segs (x r.1)) s
  let s := if inn = [] then s else s.modCoh c (fun k => { k with detIdx := k.detIdx + 1 })
  match out with
  | [] => s
  | r :: _ => s.fail (maskOfRes out) ⟨1, 0x1E, 0, 3, 15, BitVec.ofNat 64 r.2.va, 0⟩

/-- A no-return atomic: lanes of a deterministic grid's memory go to the order buffer, and the others are performed. -/
def State.startRmw (s : State) (m : MArgs) (op : AOp) (kind : OpKind) (dst : List (Dst × Nat × Nat)) (ret : Bool)
    (good : List (Nat × LaneRes)) (x : Nat → BitVec 128) : State :=
  let buf := good.filter (s.buffers ret)
  let run := good.filter (fun r => !s.buffers ret r)
  if buf = [] then s.startMem ⟨kind, m.ty, m.ord, m.sc, s.flagOf m.f, dst, 0, 0⟩ run x (fun _ => 0)
  else
    let s := if isRel m.ord then s.modCoh s.cur.coh Cohort.flushRegs else s
    let t := s.bufLanes m op buf x
    if run = [] then t
    else t.startMem ⟨kind, m.ty, m.ord, m.sc, t.flagOf m.f, dst, 0, 0⟩ run x (fun _ => 0)

/-- ATOM and RED (R319, R321): one RMW for each lane. -/
def State.atomWord (s : State) (m : MArgs) (op : AOp) (d x : Opnd) (off : BitVec 10) (ret : Bool) : State :=
  let dr := if ret then [regTy d m.ty] else []
  s.issue (memNeed m (dr ++ [regTy x m.ty]) [x]) fun t run =>
    let va := t.vaOf m.base m.sp none (off.toInt * m.ty.bytes)
    t.access 3 false run va (fun _ => m.ty.bytes) (fun l => alignPre m.ty.bytes (va l) ++ t.detPre ret m.sc (va l))
      (kindPost t false) fun u good =>
      let go := maskOfRes (good.filter (fun r => !u.buffers ret r))
      u.startRmw m op (.rmw op) (if ret then u.dstOf u.cur.coh d (wordsTy m.ty) go else []) ret good (u.dataOf x m.ty)

/-- ATOM (R319): D = s0 is the form without return. -/
def execAtom (m : MArgs) (op : AOp) (d x : Opnd) (off : BitVec 10) (s : State) : Host.Outcome State Fault Refusal :=
  .next (s.atomWord m op d x off (!d.isS0))

/-- RED (R321). -/
def execRed (m : MArgs) (op : AOp) (x : Opnd) (off : BitVec 10) (s : State) : Host.Outcome State Fault Refusal :=
  .next (s.atomWord m op (.s 0) x off false)

/-- The combination of the lanes' operands (R320). -/
def combine (op : AOp) (t : MType) (xs : List (BitVec 128)) : BitVec 128 :=
  match xs with
  | [] => 0
  | x :: r => r.foldl (fun a y => BitVec.ofNat 128 (aopVal op t a.toNat y.toNat).1) x

/-- One entry for some lanes in the order buffer, keyed by the lowest; where the cohort has no room for it, all of them
trap (R194, R323). -/
def State.bufGroup (s : State) (m : MArgs) (op : AOp) (rs : List (Nat × LaneRes)) (x : Nat → BitVec 128) : State :=
  let c := s.cur.coh
  match rs with
  | [] => s
  | r :: _ =>
    let s := if isRel m.ord then s.modCoh c Cohort.flushRegs else s
    if 256 ≤ s.bufCount c then s.fail (maskOfRes rs) ⟨1, 0x1E, 0, 3, 15, BitVec.ofNat 64 r.2.va, 0⟩
    else
      (s.bufAdd m op r.1 r.2.segs (combine op m.ty (rs.map (fun e => x e.1)))).modCoh c (fun k => { k with detIdx := k.detIdx + 1 })

/-- The lanes of an ATOMS: those of a speculative attempt each through its own logs (R331), a deterministic grid's plain
lanes as one buffered entry (R323), the others as one RMW, or one for each lane of a group whose speculative lanes name
memory too. -/
def State.atomsGo (s : State) (m : MArgs) (op : AOp) (d x : Opnd) (ret : Bool) (good : List (Nat × LaneRes)) : State :=
  let c := s.cur.coh
  let buf := good.filter (s.buffers ret)
  let run := good.filter (fun r => !s.buffers ret r)
  let data := s.dataOf x m.ty
  let t := s.bufGroup m op buf data
  if run.isEmpty then t
  else
    let dst := if ret then t.dstOf c d (wordsTy m.ty) (maskOfRes run) else []
    let each := run.any (fun r => (t.coh c).spec r.1) || run.any (fun r => r.2.segs.any (fun g => g.loc == .reg c))
    t.startMem ⟨if each then .rmw op else .atoms op, m.ty, m.ord, m.sc, t.flagOf m.f, dst, 0, 0⟩ run data (fun _ => 0)

/-- ATOMS (R320): one RMW for the group at a uniform address; of each lane in a speculative attempt (R331). -/
def execAtoms (m : MArgs) (op : AOp) (d x : Opnd) (off : BitVec 10) (s : State) : Host.Outcome State Fault Refusal :=
  let ret := !d.isS0
  let dr := if ret then [regTy d m.ty] else []
  .next (s.issue (memNeed m (dr ++ [regTy x m.ty]) [x]) fun t run =>
    let va := t.vaOf m.base m.sp none (off.toInt * m.ty.bytes)
    t.access 3 false run va (fun _ => m.ty.bytes) (fun l => alignPre m.ty.bytes (va l) ++ t.detPre ret m.sc (va l))
      (kindPost t false) fun u good =>
      u.atomsGo m op d x ret good)

/-- CAS (R322): D is the compare value and the destination; an s-register D makes it one access for the group (R238). -/
def execCas (m : MArgs) (d x : Opnd) (off : BitVec 14) (s : State) : Host.Outcome State Fault Refusal :=
  .next (s.issue (memNeed m [regTy d m.ty, regTy x m.ty] [d, x]) fun t run =>
    let va := t.vaOf m.base m.sp none (off.toInt * m.ty.bytes)
    t.access 3 d.isS run va (fun _ => m.ty.bytes) (fun l => alignPre m.ty.bytes (va l) ++ t.detPre true m.sc (va l))
      (kindPost t (m.ty == .b128)) fun u good =>
      let by_ := fun (l : Nat) => if d.isS then lowLane run else l
      u.startMem ⟨.cas, m.ty, m.ord, m.sc, u.flagOf m.f, u.dstOf u.cur.coh d (wordsTy m.ty) (maskOfRes good), 0,
        if d.isS then run else 0⟩ good (fun l => u.dataOf x m.ty (by_ l)) (fun l => u.dataOf d m.ty (by_ l)))

/-! ### The order buffer (R194) -/

/-- a comes before b: block, cohort, lane, issue index. -/
def bufLt (a b : BufEnt) : Bool :=
  let key := fun (e : BufEnt) => ((e.blk * 64 + e.coh) * 32 + e.lane, e.idx)
  (key a).1 < (key b).1 || ((key a).1 == (key b).1 && (key a).2 < (key b).2)

/-- Insertion keeps entries sorted. -/
def bufInsert (e : BufEnt) : List BufEnt → List BufEnt
  | [] => [e]
  | x :: t => if bufLt e x then e :: x :: t else x :: bufInsert e t

/-- A buffered operation is applied at its home as any RMW: qualifying tags are pulled first (R106), an acquire drops what
R107 says, a release leaves its tag (R105). Its floating flags go to the grid (R177, R323). -/
def State.bufApply (s : State) (core : Nat) (e : BufEnt) : State :=
  let part := (s.grd e.grid).part
  let n := e.ty.bytes
  let s := s.pullAll (s.tagsAt (sectors e.pa n) (.simt core (s.blk e.block).placed e.block e.sc))
  let s := (s.homeSync core part e.pa n).atomicAt e.pa n
  let v := aopVal e.op e.ty (getBytes s.mem e.pa n) e.x.toNat
  let s := (s.homeWrite e.pa n v.1 none).l1Patch core part e.pa n v.1
  let s := s.raiseGrid e.grid v.2 false
  let s := if isRel e.ord ∧ e.sc ≠ .blk then s.addRelease core part (sectorOf e.pa) e.sc (s.blk e.block).placed e.block else s
  if isAcq e.ord ∧ e.sc ≠ .blk then s.acquireDrop core part else s

/-- Applies the entries of a core that satisfy a test, in the sorted order. -/
def State.flushBuf (s : State) (core : Nat) (f : BufEnt → Bool) : State :=
  let all := (s.core core).obuf
  let es := (all.filter f).foldr bufInsert []
  let s := s.modCore core (fun k => { k with obuf := all.filter (fun e => !f e) })
  es.foldl (fun s e => s.bufApply core e) s

/-- An earlier access in flight of an entry's lane overlaps the entry's bytes (R97), or the entry is a release and the lane
has an earlier access in flight (R101). -/
def State.bufWaits (s : State) (e : BufEnt) : Bool :=
  s.ops.any (fun o => o.1 < e.seq && (s.coh o.2.coh).block == e.block && (s.coh o.2.coh).idx == e.coh &&
    o.2.kind.isAccess && o.2.pendingFor (oneLane e.lane) &&
    (isRel e.ord || o.2.acc.any (fun a => a.1 == e.lane &&
      a.2.segs.any (fun g => g.loc == .mem && g.a < e.pa + e.ty.bytes && e.pa < g.a + g.n))))

/-- AFLUSH (R327): the entries come behind the earlier accesses of their lanes to the same bytes. -/
def execAflush (g : Guard) (s : State) : Host.Outcome State Fault Refusal :=
  .next (s.issue ⟨g, [], [], .off, false, some 0x47⟩ fun t _ =>
    let k := t.coh t.cur.coh
    let mine := fun (e : BufEnt) => e.block == k.block && e.coh == k.idx
    let core := t.cohCore t.cur.coh
    if ((t.core core).obuf.filter mine).any t.bufWaits then t.stall else t.flushBuf core mine)

/-! ### Fences, prefetch, cache control -/

/-- Accesses of some lanes that are still to be performed. -/
def State.accessPending (s : State) (c : Nat) (m : LaneMask) (f : OpKind → Bool) : Bool :=
  s.ops.any (fun e => e.2.coh == c && e.2.kind.isAccess && f e.2.kind && e.2.pendingFor m)

/-- Lanes that do not run a speculative attempt. -/
def State.plainLanes (s : State) (m : LaneMask) : LaneMask :=
  maskOf (fun l => m.getLsbD l && !(s.coh s.cur.coh).spec l)

/-- FENCE (R111, R324): the word waits until its conditions hold. FENCE.rel and FENCE.ar must hold back later stores and
RMWs only; the model, whose word does not issue while they wait, holds back later loads too (DESIGN CHOICE,
notes/assumptions/72.md). -/
def execFence (g : Guard) (k : FenceKind) (sc : Scope) (s : State) : Host.Outcome State Fault Refusal :=
  .next (s.issue ⟨g, [], [], .off, false, if k = .sc then some 0x48 else none⟩ fun t run =>
    let c := t.cur.coh
    let m := t.plainLanes run
    let wait := if k = .acq then (fun q => q != OpKind.store) else (fun _ => true)
    if m = 0 then t
    else if t.accessPending c m wait then t.stall
    else
      let core := t.cohCore c
      let part := t.cohPart c
      let t := t.modCoh c Cohort.flushRegs
      let t := if k ≠ .acq ∧ sc ≠ .blk then t.wbAll core part else t
      if k ≠ .rel ∧ sc ≠ .blk then t.acquireDrop core part else t)

/-- The physical address of an address that a cache-control word names, for the partition's own cached memory; a walk
that meets MV = 1 waits, and an address whose wait has ended with a fault names none (R37, R326). -/
def State.cacheable (s : State) (l va : Nat) : Option Nat × Bool :=
  let c := s.cur.coh
  let g := s.cohGrd c
  let chk := fun (e : TlbE) =>
    let pa := e.pa + (va - e.va)
    if e.pkey = g.part ∧ s.physCause g.part 0 pa e.rd e.wr e.ex = 0 ∧ e.tier ≤ 1 then some pa else none
  if !canonical va ∨ isWindow va then (none, false)
  else if s.walks.any (fun w => w.2.coh == c && w.2.pc == s.cur.pc && w.2.lanes.getLsbD l &&
      w.2.va / 2 ^ 16 == va / 2 ^ 16 && w.2.bad.isSome) then (none, false)
  else
    match s.tlbHit (s.cohCore c) g.tctx va with
    | some e => (chk e, false)
    | none =>
      match s.walkOn (dieOf (s.cohCore c)) g.tctx va with
      | .ok e _ => (chk e, false)
      | .bad _ _ => (none, false)
      | .mv _ => (none, true)

/-- The address of lane l in PREF, CWB and CINV: the offset counts sectors (R311). -/
def State.lineVa (s : State) (base idx : Opnd) (off : BitVec 14) (l : Nat) : Nat :=
  s.vaOf base .gen (some idx) (off.toInt * 64) l

def lineNeed (g : Guard) (base idx : Opnd) (dis : Option (BitVec 8)) : Need :=
  ⟨g, [(base, 2), (idx, 1)], sregsOf [base, idx], .off, false, dis⟩

/-- PREF (R325): a hint; the L1 may take the sector of an address that the TLB holds and that would not fault. -/
def execPref (g : Guard) (l2 : Bool) (base idx : Opnd) (off : BitVec 14) (s : State) :
    Host.Outcome State Fault Refusal :=
  .next (s.issue (lineNeed g base idx none) fun t run =>
    if l2 then t
    else
      (lanesOf run).foldl (fun u l =>
        let va := t.lineVa base idx off l
        match t.hit l 1 false va 1 with
        | .seg gs tier =>
          if tier ≤ 1 ∧ gs.loc = .mem ∧ gs.l1 then
            let core := u.cohCore u.cur.coh
            let part := u.cohPart u.cur.coh
            (u.l1Touch core part (sectorOf gs.a)).2.l1Fill core part (sectorOf gs.a)
          else u
        | _ => u) t)

/-- Cache control of sectors or of the whole L1 (R326). -/
def State.cacheWord (s : State) (g : Guard) (all : Bool) (base idx : Opnd) (off : BitVec 14) (op : BitVec 8)
    (f : State → Nat → Nat → List Nat → State) : State :=
  s.issue (if all then ⟨g, [], [], .off, false, some op⟩ else lineNeed g base idx (some op)) fun t run =>
    let core := t.cohCore t.cur.coh
    let part := t.cohPart t.cur.coh
    if all then f t core part (((t.core core).l1.filter (fun e => e.part == part)).map (·.sector))
    else
      let vs := (lanesOf run).map (fun l => (l, t.lineVa base idx off l))
      let ps := vs.map (fun v => (v, t.cacheable v.1 v.2))
      let waits := ps.filter (fun p => p.2.2)
      if waits ≠ [] then (waits.foldl (fun u p => u.addWalk p.1.1 p.1.2) t).stall
      else
        let t := vs.foldl (fun u v => u.fillUnit core (u.cohGrd u.cur.coh).tctx v.2) (t.endWaits t.cur.coh t.cur.pc)
        f t core part ((ps.filterMap (fun p => p.2.1)).map sectorOf).eraseDups

/-- CWB (R326): write-back; the sectors stay. -/
def execCwb (g : Guard) (all : Bool) (base idx : Opnd) (off : BitVec 14) (s : State) :
    Host.Outcome State Fault Refusal :=
  .next (s.cacheWord g all base idx off 0x4A (fun t core part l => t.wbSectors core part l))

/-- CINV (R326): write-back, then the sectors are dropped. -/
def execCinv (g : Guard) (all : Bool) (base idx : Opnd) (off : BitVec 14) (s : State) :
    Host.Outcome State Fault Refusal :=
  .next (s.cacheWord g all base idx off 0x4B (fun t core part l => t.wbDrop core part l))

/-! ### RNLD (R156, R296) -/

/-- A load of one lane that is performed as the word issues, for some threads of its group: its value, none where a
speculative attempt aborted or the data is damaged (R370). Qualifying release sets are pulled first (R106). -/
def State.loadLane (s : State) (m : MArgs) (run : LaneMask) (l va : Nat) (segs : List Seg) : Option Nat × State :=
  let c := s.cur.coh
  let w : Who := ⟨c, s.cohCore c, s.cohPart c⟩
  let tx := s.txOfAcc c l segs
  let o : Op := ⟨c, w.core, w.part, oneLane l, s.cur.pc, none, .load, m.ty, m.ord, m.sc, [], [], 0, 0, run, s.time⟩
  let a : LaneAcc := ⟨va, segs, 0, 0, tx⟩
  match s.lateBad o a with
  | some g =>
    let hit := if tx = 0 then maskOf (fun j => run.getLsbD j && !(s.coh c).spec j) else oneLane l
    (none, (s.logLate o g).fail (if hit = 0 then run else hit) ⟨1, 0x23, 0, 1, 15, BitVec.ofNat 64 va, 0⟩)
  | none =>
    let s := s.pullAll (s.pullsOf o a)
    if tx ≠ 0 then s.txLoad w l segs
    else
      let r := (s.windowBack c segs).readSegs w m.sc segs
      (some r.1, r.2.acqAfter o 0)

/-- A load that is performed as the word issues, on behalf of its group (R238): each speculative lane enters it in its own
log. It waits for earlier overlapping accesses of its threads (R97). The value is the first lane's that has one; none where
the word waits or no lane has. -/
def State.loadNow (s : State) (m : MArgs) (run : LaneMask) (good : List (Nat × LaneRes)) : Option Nat × State :=
  let c := s.cur.coh
  let segs := good.flatMap (fun r => r.2.segs)
  let busy := s.ops.any (fun e => e.2.coh == c && (lanesOf e.2.lanes).any (fun j =>
    (e.2.threads j &&& run) != 0 && (look e.2.acc j).any (fun b => segsOverlap b.segs segs)))
  if busy ∨ s.ownBusy c false (lowLane run) segs then (none, s.stall)
  else
    good.foldl (fun (a : Option Nat × State) r =>
      let v := a.2.loadLane m run r.1 r.2.va r.2.segs
      (if a.1.isSome then a.1 else v.1, v.2)) (none, s)

/-- RNLD (R296): the path's whole table, unless an entry has bit [7] set. -/
def execRnld (m : MArgs) (path : Bool) (idx : Opnd) (off : BitVec 14) (s : State) : Host.Outcome State Fault Refusal :=
  .next (s.issue { memNeed m [(idx, 1)] [idx] with meldBan := true } fun t run =>
    let va := t.vaOf m.base m.sp (some idx) (off.toInt * 16)
    if va (lowLane run) % 16 ≠ 0 then t.illegal run 7
    else
      t.access 1 true run va (fun _ => 16) (fun _ => []) (fun _ _ => []) fun u good =>
        let v := u.loadNow m run good
        match v.1 with
        | none => v.2
        | some x =>
          let tab := BitVec.ofNat 128 x
          if (List.range 8).any (fun i => tab.getLsbD (16 * i + 7)) then v.2.illegal (run &&& v.2.cur.lanes) 7
          else
            v.2.modCoh v.2.cur.coh (fun k => if path then { k with rnt1 := tab } else { k with rnt0 := tab }))

end Sys2Proof.Machine
end

