-- ==== Sys2Proof/Machine/Barrier.lean ====
section
/-! DEFINITION. Block and cluster barriers, opcode 0x39 (R301 to R305). -/

namespace Sys2Proof.Machine

def Bar.blank : Bar := ⟨false, 0, 0, 0⟩
def CBar.blank : CBar := ⟨false, 0⟩

def Block.bar (b : Block) (i : Nat) : Bar := getD b.bars i .blank
def Placed.bar (p : Placed) (i : Nat) : CBar := getD p.bars i .blank

def State.modBar (s : State) (b i : Nat) (f : Bar → Bar) : State :=
  s.modBlk b (fun k => { k with bars := set k.bars i (f (k.bar i)) })
def State.modCBar (s : State) (p i : Nat) (f : CBar → CBar) : State :=
  s.modPlc p (fun k => { k with bars := set k.bars i (f (k.bar i)) })

/-- Lane slots of some lanes of a cohort index in a block, and in a cluster (R301, R382). -/
def slotBits (idx : Nat) (m : LaneMask) : BitVec 1024 := m.zeroExtend 1024 <<< (32 * idx)
def cslotBits (rank idx : Nat) (m : LaneMask) : BitVec 8192 := m.zeroExtend 8192 <<< (1024 * rank + 32 * idx)

/-- Participants of a block's barriers: its live lanes that have not exited (R301). -/
def State.barMembers (s : State) (b : Nat) : BitVec 1024 :=
  (s.cohsOf b).foldl (fun m e => m ||| slotBits e.2.idx (e.2.live &&& ~~~e.2.exited)) 0

/-- Blocks of a placed cluster. -/
def State.blksAt (s : State) (p : Nat) : List (Nat × Block) := s.blocks.filter (fun e => e.2.placed == p)

/-- Participants of a cluster's barriers. -/
def State.cbarMembers (s : State) (p : Nat) : BitVec 8192 :=
  (s.blksAt p).foldl (fun m e =>
    (s.cohsOf e.1).foldl (fun m k => m ||| cslotBits e.2.rank k.2.idx (k.2.live &&& ~~~k.2.exited)) m) 0

/-- The next holder of the pipe in a deterministic block: the next cohort in cyclic order that does not wait at a barrier
(R192). -/
def State.passPipe (s : State) (c : Nat) : State :=
  let k := s.coh c
  if (s.cohGrd c).det ∧ k.detHolder then
    let mates := (s.cohsOf k.block).filter (fun e => e.2.pipe == k.pipe && (e.2.live &&& ~~~e.2.exited) != 0)
    let free := mates.filter (fun e => e.2.barHold.isEmpty)
    let s := s.modCoh c (fun k => { k with detHolder := false })
    let pick := fun (p : Nat → Bool) => (free.filter (fun e => p e.2.idx)).foldl
      (fun (m : Option (Nat × Nat)) e => match m with
        | none => some (e.2.idx, e.1)
        | some x => if e.2.idx < x.1 then some (e.2.idx, e.1) else m) none
    match pick (fun i => k.idx < i) with
    | some x => s.modCoh x.2 (fun k => { k with detHolder := true })
    | none =>
      match pick (fun _ => true) with
      | some x => s.modCoh x.2 (fun k => { k with detHolder := true })
      | none => s
  else s

/-- In a deterministic block each pipe that no cohort holds goes to its lowest-indexed cohort that does not wait (R192). -/
def State.refillPipes (s : State) (b : Nat) : State :=
  if (s.grd (s.blk b).grid).det then
    (List.range 4).foldl (fun s p =>
      let mates := (s.cohsOf b).filter (fun e => e.2.pipe == p && (e.2.live &&& ~~~e.2.exited) != 0)
      if mates.any (fun e => e.2.detHolder) then s
      else
        let free := mates.filter (fun e => e.2.barHold.isEmpty)
        match free with
        | [] => s
        | e :: t =>
          let x := t.foldl (fun (m : Nat × Cohort) y => if y.2.idx < m.2.idx then y else m) e
          s.modCoh x.1 (fun k => { k with detHolder := true })) s
  else s

/-- Lanes held at a barrier are released: those that re-issue their word stay at it, the others arrive at the word after
it. -/
def Cohort.releaseBar (c : Cohort) (i : Nat) : Cohort :=
  let go := c.barHold.filter (fun h => h.2.bar == i)
  let c := { c with barHold := c.barHold.filter (fun h => h.2.bar != i) }
  (go.foldl (fun c h => if h.2.again then c else c.arriveLane h.1 (c.pcOf h.1) true) c).settle

/-- A buffered atomic of a block waits for an earlier access of its lane (R97, R101). -/
def State.drainWaits (s : State) (b : Nat) : Bool :=
  ((s.core (s.blk b).core).obuf.filter (fun e => e.block == b)).any s.bufWaits

/-- A block barrier's phase completes once every participant has arrived (R301, R305); in a deterministic grid the block's
buffered atomics are applied first (R194), each behind the earlier accesses that it waits for. -/
def State.testBar (s : State) (b i : Nat) : State :=
  let r := (s.blk b).bar i
  let m := s.barMembers b
  let g := s.grd (s.blk b).grid
  if r.arrived ≠ 0 ∧ m &&& ~~~r.arrived = 0 ∧ !(g.det && s.drainWaits b) then
    let s := s.modBar b i (fun r => { r with arrived := 0, parity := !r.parity })
    let s := if g.det then s.flushBuf (s.blk b).core (fun e => e.block == b) else s
    ((s.cohsOf b).foldl (fun s e => s.modCoh e.1 (fun c => c.releaseBar i)) s).refillPipes b
  else s

/-- A cluster barrier's phase completes once every participant has arrived; each released lane acts as an acquire of
scope clu (R304). -/
def State.testCBar (s : State) (p i : Nat) : State :=
  let r := (s.plc p).bar i
  let m := s.cbarMembers p
  if r.arrived ≠ 0 ∧ m &&& ~~~r.arrived = 0 then
    let s := s.modCBar p i (fun r => { r with arrived := 0, parity := !r.parity })
    (s.blksAt p).foldl (fun s b =>
      ((s.cohsOf b.1).foldl (fun s e =>
        if e.2.barHold.any (fun h => h.2.bar == 16 + i && !h.2.again) then
          (s.acquireDrop b.2.core (s.grd b.2.grid).part).modCoh e.1 (fun c => c.releaseBar (16 + i))
        else s.modCoh e.1 (fun c => c.releaseBar (16 + i))) s).refillPipes b.1) s
  else s

/-- A cohort that waits at a barrier passes its pipe on; the last to arrive does so too, before the release. -/
def State.waitPipe (s : State) (c : Nat) : State := if (s.coh c).barHold.isEmpty then s else s.passPipe c

/-- Every barrier of a block and of its cluster is tested, as at an exit (R301). -/
def State.testBars (s : State) (b : Nat) : State :=
  let s := (List.range 16).foldl (fun s i => s.testBar b i) s
  (List.range 4).foldl (fun s i => s.testCBar (s.blk b).placed i) s

/-- The barriers of a deterministic block are tested where an operation has gone that a buffered atomic waited for. -/
def State.retestBars (s : State) (b : Nat) : State :=
  if (s.grd (s.blk b).grid).det then (List.range 16).foldl (fun s i => s.testBar b i) s else s

/-- A cohort that starts while a phase is open joins from the next one (R301). -/
def State.joinBars (s : State) (c : Nat) : State :=
  let k := s.coh c
  let b := s.blk k.block
  let m := k.live &&& ~~~k.exited
  let s := (List.range 16).foldl (fun s i =>
    if (b.bar i).arrived = 0 then s
    else s.modBar k.block i (fun r => { r with arrived := r.arrived ||| slotBits k.idx m })) s
  (List.range 4).foldl (fun s i =>
    if ((s.plc b.placed).bar i).arrived = 0 then s
    else s.modCBar b.placed i (fun r => { r with arrived := r.arrived ||| cslotBits b.rank k.idx m })) s

/-- Lanes of the issuing word are held at a barrier: at the word itself, or behind it. -/
def State.holdAt (s : State) (m : LaneMask) (i : Nat) (again : Bool) : State :=
  let n := nextPc s.cur.pc s.cur.nw
  let s := s.modCoh s.cur.coh (fun k => { k with
    barHold := (lanesOf m).foldl (fun h l => set h l ⟨i, again⟩) k.barHold
    pc := if again then k.pc else (lanesOf m).foldl (fun p l => put p l n 0) k.pc })
  s.drop m

/-- What a barrier word needs: it is banned from meld regions and aborts a speculative lane (R302). -/
def barNeed (g : Guard) : Need := ⟨g, [], [], .off, true, some 0x39⟩

/-- The lanes whose barrier bit is set. -/
def slotMask (idx : Nat) (v : BitVec 1024) (run : LaneMask) : LaneMask := run &&& (v >>> (32 * idx)).truncate 32

/-- Lanes arrive at a block barrier: a release of scope blk (R302, R303). -/
def State.barArrive (s : State) (m : LaneMask) (i : Nat) : State :=
  let c := s.cur.coh
  let k := s.coh c
  let s := s.modCoh c Cohort.flushRegs
  s.modBar k.block i (fun r => { r with arrived := r.arrived ||| slotBits k.idx m })

/-- BAR (R302). -/
def execBar (g : Guard) (id : BitVec 4) (s : State) : Host.Outcome State Fault Refusal :=
  .next (s.issue (barNeed g) fun t run =>
    let c := t.cur.coh
    let k := t.coh c
    let b := k.block
    let early := slotMask k.idx ((t.blk b).bar id.toNat).arrived run
    let m := run &&& ~~~early
    if t.accessPending c m (fun _ => true) then t.stall
    else ((((t.barArrive m id.toNat).holdAt early id.toNat true).holdAt m id.toNat false).waitPipe c).testBar b id.toNat)

/-- Lanes with an arrival outstanding, and those whose recorded parity is the barrier's. -/
def State.barPending (s : State) (i : Nat) (run : LaneMask) : LaneMask × LaneMask :=
  let k := s.coh s.cur.coh
  let r := (s.blk k.block).bar i
  let p := slotMask k.idx r.pending run
  (p, if r.parity then slotMask k.idx r.recd p else p &&& ~~~(slotMask k.idx r.recd p))

/-- BARA (R302): the parity recorded is that of the phase the lane arrives in. -/
def execBara (g : Guard) (id : BitVec 4) (s : State) : Host.Outcome State Fault Refusal :=
  .next (s.issue (barNeed g) fun t run =>
    let c := t.cur.coh
    let k := t.coh c
    let b := k.block
    let i := id.toNat
    let early := (t.barPending i run).2
    let m := run &&& ~~~early
    if t.accessPending c m (fun _ => true) then t.stall
    else
      let bits := slotBits k.idx m
      let t := (t.barArrive m i).modBar b i (fun r => { r with
        pending := r.pending ||| bits
        recd := if r.parity then r.recd ||| bits else r.recd &&& ~~~bits })
      ((t.holdAt early i true).waitPipe c).testBar b i)

/-- BARW (R302). -/
def execBarw (g : Guard) (id : BitVec 4) (s : State) : Host.Outcome State Fault Refusal :=
  .next (s.issue (barNeed g) fun t run =>
    let c := t.cur.coh
    let k := t.coh c
    let b := k.block
    let i := id.toNat
    let p := t.barPending i run
    let m := run &&& ~~~p.1
    if t.accessPending c m (fun _ => true) then t.stall
    else
      let t := t.modBar b i (fun r => { r with pending := r.pending &&& ~~~(slotBits k.idx p.1) })
      (((t.barArrive m i).holdAt (m ||| p.2) i false).waitPipe c).testBar b i)

/-- CBAR (R304): each arrival is a release of scope clu, with an eager write-back. -/
def execCbar (g : Guard) (id : BitVec 2) (s : State) : Host.Outcome State Fault Refusal :=
  .next (s.issue (barNeed g) fun t run =>
    let c := t.cur.coh
    let k := t.coh c
    let b := t.blk k.block
    let i := id.toNat
    let early := run &&& (((t.plc b.placed).bar i).arrived >>> (1024 * b.rank + 32 * k.idx)).truncate 32
    let m := run &&& ~~~early
    if t.accessPending c m (fun _ => true) then t.stall
    else
      let t := t.modCoh c Cohort.flushRegs
      let t := if m = 0 then t else t.wbAll b.core (t.grd b.grid).part
      let t := t.modCBar b.placed i (fun r => { r with arrived := r.arrived ||| cslotBits b.rank k.idx m })
      (((t.holdAt early (16 + i) true).holdAt m (16 + i) false).waitPipe c).testCBar b.placed i)

end Sys2Proof.Machine
end

