-- ==== Sys2Proof/Machine/Control.lean ====
section
/-! DEFINITION. Fetching words (R38, R154, R226, R227), control and divergence, opcodes 0x30 to 0x37 (R287 to R300), spawning
(R162 to R165), and the ends of lanes, cohorts and blocks (R65, R299). -/

namespace Sys2Proof.Machine

/-! ### Fetching -/

/-- What a fetch meets. -/
inductive Fetch where
  | word (w : DWord)
  | bad (cause level : Nat)
  | wait
  deriving DecidableEq, Repr

/-- Fetches the word at an address for some lanes of a cohort that stand at a PC (R38, R154). A fetch anywhere in the window
region takes 0x13 (R25), also at an address that R23 refuses and R45 would call 0x17: DESIGN CHOICE, log entry 103. -/
def State.fetch (s : State) (c : Nat) (m : LaneMask) (pc : DWord) (va : Nat) : Fetch :=
  let g := s.cohGrd c
  if !canonical va then .bad 0x10 15
  else if isWindow va then .bad 0x13 15
  else
    match s.tlbHit (s.cohCore c) g.tctx va with
    | some e =>
      let cause := s.entryCause g.part 4 e va
      if cause ≠ 0 then .bad cause (s.walkedAt c m pc va)
      else if s.badAt (e.pa + (va - e.va)) 8 then .bad 0x23 (s.walkedAt c m pc va)
      else .word (BitVec.ofNat 64 (getBytes s.mem (e.pa + (va - e.va)) 8))
    | none =>
      match s.walks.find? (fun w => w.2.coh == c && w.2.pc == pc && (w.2.lanes &&& m) != 0 && w.2.va / 2 ^ 16 == va / 2 ^ 16) with
      | some w => (match w.2.bad with | some b => .bad b.1 b.2 | none => .wait)
      | none => .wait

/-- The clause that holds a word. -/
def clauseAt (pc : DWord) : Nat := pc.toNat / 64 * 64

/-- Fields of a clause header (R227). -/
def hdrMark (w : DWord) : Nat := (w.extractLsb' 56 8).toNat
def hdrWait (w : DWord) : BitVec 12 := w.extractLsb' 44 12
def hdrSfa (w : DWord) : Nat := (w.extractLsb' 40 4).toNat
def hdrSfb (w : DWord) : Nat := (w.extractLsb' 36 4).toNat
def hdrNw (w : DWord) : Nat := (w.extractLsb' 33 3).toNat
def hdrYld (w : DWord) : Bool := w.getLsbD 32

/-- The header passes the checks of R227. -/
def hdrOk (w : DWord) : Bool :=
  let sf := fun n => n ≤ 11 || n == 15
  hdrMark w == 0xC1 && sf (hdrSfa w) && sf (hdrSfb w) && hdrNw w != 0 && (w.extractLsb' 0 32) == 0

/-- The word count of the clause of an address, as its bytes stand; 7 where they cannot be fetched. The model looks at the
bytes ahead of the fetch that will check them: no access of the machine, so that no TLB takes part. -/
def State.nwAt (s : State) (c : Nat) (pc : DWord) : Nat :=
  let g := s.cohGrd c
  match s.page (some (s.cohCore c)) g.part g.tctx 4 (clauseAt pc) with
  | .ok pa _ => hdrNw (BitVec.ofNat 64 (getBytes s.mem pa 8))
  | .bad _ _ => 7
  | .mv => 7

/-! ### Branches -/

/-- A static target (R233). -/
def State.target (s : State) (off : BitVec 32) (idx : BitVec 3) : DWord :=
  BitVec.ofNat 64 (clauseAt s.cur.pc) + BitVec.ofInt 64 (off.toInt * 64 + idx.toNat * 8)

/-- In a region the lanes of each path must agree on where they go, inactive ones going on (R159, R171). -/
def State.agree (s : State) (run : LaneMask) (tgt : Nat → DWord) : Bool :=
  let k := s.coh s.cur.coh
  let ls := (lanesOf s.cur.lanes).filter k.inRegion
  let dest := fun l => if run.getLsbD l then tgt l else nextPc s.cur.pc s.cur.nw
  [false, true].all (fun p =>
    match ls.filter (fun l => k.path.getLsbD l == p) with
    | [] => true
    | l :: t => t.all (fun j => dest j == dest l))

/-- A PC past its header's NW: no lane arrives at a meeting there (R293); the word faults when it is reached (R233). -/
def State.pastNw (s : State) (c : Nat) (pc : DWord) : Bool :=
  pc.toNat % 64 ≠ 0 && s.nwAt c pc < pc.toNat / 8 % 8

/-- Lanes are sent to PCs that memory need not bear out; meetings and regions are settled once. -/
def State.arriveAt (s : State) (c : Nat) (ls : List (Nat × DWord)) : State :=
  let far := ls.filter (fun e => s.pastNw c e.2)
  if far.isEmpty then s.arrive c ls false
  else
    s.modCoh c (fun k =>
      let k := ls.foldl (fun k e => k.arriveLane e.1 e.2 false) k
      ({ k with held := far.foldl (fun m e => m &&& ~~~(oneLane e.1)) k.held } : Cohort).settle)

/-- Every active lane goes to its target (R288); a target off the word grid faults here, subcode 6 (R233). `first` runs
before the lanes leave, for those that go. -/
def State.branch (s : State) (run : LaneMask) (tgt : Nat → DWord) (first : State → LaneMask → State) : State :=
  if !s.agree run tgt then s.meldFault run 1
  else
    let bad := maskOf (fun l => run.getLsbD l && (tgt l).toNat % 8 != 0)
    let go := run &&& ~~~bad
    let s := s.illegal bad 6
    if go = 0 then s
    else
      let s := first s go
      (s.arriveAt s.cur.coh ((lanesOf go).map (fun l => (l, tgt l)))).drop go

/-- What a branch word needs. -/
def branchNeed (g : Guard) (src : List Opnd) (dst : List (Opnd × Nat)) : Need :=
  ⟨g, dst ++ src.map (fun o => (o, 2)), sregsOf src, .off, false, none⟩

/-- BRA (R289). -/
def execBra (g : Guard) (off : BitVec 32) (idx : BitVec 3) (s : State) : Host.Outcome State Fault Refusal :=
  .next (s.issue (branchNeed g [] []) fun t run => t.branch run (fun _ => t.target off idx) (fun u _ => u))

/-- The link is the word after the call (R290). -/
def State.writeLink (s : State) (link : Opnd) (m : LaneMask) : State :=
  s.result link true m (fun _ => nextPc s.cur.pc s.cur.nw)

/-- A word that calls: where some lane's link lies beyond VREGS and the lanes of a path do not agree on where they go, the
meld fault is taken and not the illegal-instruction fault (R160, R242). -/
def State.callWord (s : State) (g : Guard) (link : Opnd) (src : List Opnd) (tgt : State → Nat → DWord) : State :=
  let c := s.cur.coh
  let n := branchNeed g src [(link, 2)]
  let act := s.active g
  let ls := lanesOf act
  if ls.any (fun l => !s.regOk c l link 2) ∧ ls.all (fun l => src.all (fun a => s.regOk c l a 2)) ∧
      s.handlePending n.sread = false ∧ s.agree act (tgt s) = false then (s.meldFault act 1).advance
  else s.issue n fun t run => t.branch run (tgt t) (fun u m => u.writeLink link m)

/-- CALL (R290). -/
def execCall (g : Guard) (link : Opnd) (off : BitVec 32) (idx : BitVec 3) (s : State) :
    Host.Outcome State Fault Refusal := .next (s.callWord g link [] (fun t _ => t.target off idx))

/-- LOOP (R292): it counts once for the group. -/
def execLoop (g : Guard) (cnt : BitVec 6) (off : BitVec 32) (idx : BitVec 3) (s : State) :
    Host.Outcome State Fault Refusal :=
  .next (s.issue (branchNeed g [.s cnt] []) fun t run =>
    let c := (t.coh t.cur.coh).sreg cnt.toNat
    if c = 0 then t
    else
      let dec := fun (u : State) => u.writeS u.cur.coh cnt.toNat (c - 1)
      if c = 1 then dec t else t.branch run (fun _ => t.target off idx) (fun u _ => dec u))

/-- BRX (R291). -/
def execBrx (g : Guard) (a : Opnd) (s : State) : Host.Outcome State Fault Refusal :=
  .next (s.issue (branchNeed g [a] []) fun t run => t.branch run (t.val t.cur.coh a true) (fun u _ => u))

/-- CALLX (R290, R291): the targets are read before the link is written. -/
def execCallx (g : Guard) (link a : Opnd) (s : State) : Host.Outcome State Fault Refusal :=
  .next (s.callWord g link [a] (fun t => t.val t.cur.coh a true))

/-- RET behaves as BRX (R291). -/
def execRet (g : Guard) (a : Opnd) (s : State) : Host.Outcome State Fault Refusal :=
  .next (s.issue (branchNeed g [a] []) fun t run => t.branch run (t.val t.cur.coh a true) (fun u _ => u))

/-! ### Meetings and regions -/

/-- Lanes get a MEET value (R293); meetings are tested again. -/
def State.setMeet (s : State) (run : LaneMask) (v : Nat → DWord) : State :=
  s.modCoh s.cur.coh (fun k =>
    ({ k with meet := (lanesOf run).foldl (fun m l => put m l (v l) noMeet) k.meet } : Cohort).settle)

/-- MEET (R293). -/
def execMeet (g : Guard) (clr : Bool) (off : BitVec 32) (idx : BitVec 3) (s : State) :
    Host.Outcome State Fault Refusal :=
  .next (s.issue { branchNeed g [] [] with meldBan := true } fun t run =>
    t.setMeet run (fun _ => if clr then noMeet else t.target off idx))

/-- BRM (R155, R294): the active lanes join by predicate; the group's other lanes wait behind the MEND address. -/
def execBrm (g : Guard) (p : BitVec 3) (inv : Bool) (off : BitVec 32) (idx : BitVec 3) (s : State) :
    Host.Outcome State Fault Refusal :=
  .next (s.issue (branchNeed g [] []) fun t run =>
    let c := t.cur.coh
    let k := t.coh c
    let mend := t.target off idx
    if k.regionOpen ∨ mend.toNat ≤ t.cur.pc.toNat then t.meldFault run 2
    else
      let out := t.cur.lanes &&& ~~~run
      -- a label at a header names word 1 (R226)
      let word := if mend.toNat % 64 = 0 then mend + 8 else mend
      let past := nextPc word (t.nwAt c mend)
      let t := t.modCoh c (fun k => { k with
        regionOpen := true
        mend := mend
        brm := t.cur.pc
        memb := run
        path := maskOf (fun l => run.getLsbD l && (k.pred p.toNat l false != inv))
        mendWait := out
        mendOpen := false
        pc := (lanesOf out).foldl (fun m l => put m l past 0) k.pc
        entered := k.entered &&& ~~~out })
      t.drop out)

/-- MEND (R159, R295): performed by the region's merged group, it closes the region; elsewhere it is a
no-operation. -/
def execMend (g : Guard) (s : State) : Host.Outcome State Fault Refusal :=
  let c := s.cur.coh
  let k := s.coh c
  let close := k.mendOpen && s.cur.pc == k.mend && (lanesOf s.cur.lanes).any k.inRegion
  .next ((if close then s.modCoh c Cohort.closeRegion else s).issue (branchNeed g [] []) (fun t _ => t))

/-! ### The ends of lanes, cohorts and blocks -/

/-- An operation of a cohort, or an engine command, is still in flight. -/
def State.engineBusy (s : State) (core c : Nat) : Bool := (s.core core).opt.any (fun e => e.2.busy && e.2.coh == c)

/-- A cohort's claims are freed (R349). -/
def State.freeClaims (s : State) (core c : Nat) : State :=
  s.modCore core (fun k => { k with
    slots := k.slots.map (fun e => if e.2.owner = some c then (e.1, { e.2 with owner := none, units := 0 }) else e)
    accs := k.accs.map (fun e => if e.2.owner = some c then (e.1, { e.2 with owner := none }) else e) })

/-- Every block of the grid has been placed (R182). -/
def Grid.allPlaced (g : Grid) : Bool := g.done.length == g.nd * g.cpd

/-- A grid whose blocks have all exited drains (R182). -/
def State.settleGrid (s : State) (g : Nat) : State :=
  let r := s.grd g
  if (r.state = .running ∨ r.state = .placing) ∧ (r.allPlaced ∨ r.aborted ∨ r.entryDone) ∧ r.done ≠ [] ∧ (s.blksOf g).all (fun e => e.2.exited) then
    s.modGrd g (fun r => { r with state := .draining })
  else s

/-- The bank-store rows of a run are cleared. -/
def State.clearRows (s : State) (core row n : Nat) : State :=
  let lo := core * 0x180000 + row * 2048
  ({ s with bank := s.bank.filter (fun e => !(lo ≤ e.1 && e.1 < lo + n * 2048)) } : State).repairBank lo (n * 2048)

/-- Rows that a block gives up keep the bytes that it left in them (R60). -/
def State.keepRows (s : State) (core part : Nat) (rs : List Nat) : State :=
  if (s.core core).l1Used.contains part then s.modCore core (fun c => { c with kept := c.kept ++ rs }) else s

/-- Nothing owns the rows of a cohort's window any more: they hold its registers (R60). -/
def State.leaveWindow (s : State) (core : Nat) (k : Cohort) : State :=
  if noRow ≤ k.vbase then s
  else
    let g := s.grd (s.blk k.block).grid
    let base := core * 0x180000 + k.vbase * 2048
    let s := s.clearRows core k.vbase g.winSize
    ({ s with bank := k.regs.foldl (fun m e => putBytes m (base + 4 * e.1) 4 e.2.toNat) s.bank } : State).keepRows core g.part
      (upto k.vbase g.winSize)

/-- What the rows of an exited block hold (R60): its scratchpad's bytes and its windows'; where its spawn entries lay in
theirs is not stated. -/
def State.leaveRows (s : State) (b : Nat) : State :=
  let k := s.blk b
  let g := s.grd k.grid
  let cs := s.cshareOf (s.shareOf g.part)
  let s := (s.cohsOf b).foldl (fun s e => if e.2.place = .resident then s.leaveWindow k.core e.2 else s) s
  let s := s.keepRows k.core g.part (upto k.scrRow g.scrRows)
  if g.spRows = 0 ∨ (s.core k.core).l1Used.contains g.part then s
  else s.modCore k.core (fun c => { c with
    l1Used := g.part :: c.l1Used
    kept := (upto (csRowBase cs) (csRows cs)).filter (fun r => !(k.spRow ≤ r && r < k.spRow + g.spRows)) ++ c.kept })

/-- Ended cohorts free their claims once their engine commands have completed; a block with no live cohort and no spawn
entry exits, in a grid that binds a launch queue once the sentinel has been taken (R65, R164, R197, R299, R349). -/
def State.settleBlk (s : State) (b : Nat) : State :=
  let k := s.blk b
  let g := s.grd k.grid
  let s := (s.cohsOf b).foldl (fun s e =>
    if e.2.isOver ∧ !s.engineBusy k.core e.1 then s.freeClaims k.core e.1 else s) s
  if !k.exited ∧ (s.cohsOf b).all (fun e => e.2.isOver) ∧ k.spawnQ.isEmpty ∧ (!g.lq ∨ g.entryDone ∨ g.aborted) then
    (((s.leaveRows b).modBlk b (fun k => { k with exited := true })).testBars b).settleGrid k.grid
  else s

/-- Some lanes have ended (R299): a lane in fallback mode releases its lock first (R140); meetings, the region and
barriers are tested again. A lane that SPAWN ends (R297) frees its lock here with no release write-back of its own, which R140
asks of EXIT alone: DESIGN CHOICE, log entry 93. -/
def State.exitLanes (s : State) (c : Nat) (m : LaneMask) : State :=
  if m = 0 then s
  else
    let part := s.cohPart c
    let s := (lanesOf m).foldl (fun s l =>
      let t := (s.coh c).txOf l
      if t.isOpen ∧ t.fb then s.freeLock part t.cls else s) s
    let s := (s.unwait c m).modCoh c (fun k => ({ k with
      exited := k.exited ||| m
      parked := k.parked &&& ~~~m
      held := k.held &&& ~~~m
      lockWait := k.lockWait &&& ~~~m
      mendWait := k.mendWait &&& ~~~m
      entered := k.entered &&& ~~~m
      barHold := k.barHold.filter (fun h => !m.getLsbD h.1)
      tx := k.tx.filter (fun t => !m.getLsbD t.1)
      stalled := k.stalled &&& ~~~m
      tid := k.tid.filter (fun t => !m.getLsbD t.1) } : Cohort).settle)
    let s := if s.cur.coh = c then s.drop m else s
    let b := (s.coh c).block
    let s := if (s.coh c).live &&& ~~~(s.coh c).exited = 0 then s.passPipe c else s
    (s.testBars b).settleBlk b

/-- EXIT (R299): a fallback run's writes are published before its lock is released. -/
def execExit (g : Guard) (s : State) : Host.Outcome State Fault Refusal :=
  .next (s.issue ⟨g, [], [], .off, false, some 0x37⟩ fun t run =>
    let c := t.cur.coh
    let fb := maskOf (fun l => run.getLsbD l && ((t.coh c).txOf l).isOpen)
    if t.accessPending c fb (fun _ => true) then t.stall
    else
      let t := if fb = 0 then t else (t.modCoh c Cohort.flushRegs).wbAll (t.cohCore c) (t.cohPart c)
      t.exitLanes c run)

/-! ### Spawning -/

/-- Overflow slots that the blocks of a grid hold (R165). -/
def State.ovfUsed (s : State) (g : Nat) : List Nat :=
  (s.blksOf g).flatMap (fun b => b.2.spawnQ.filterMap (·.ovf))

/-- Words of a spawn entry (R162). -/
def SpawnEnt.bytes (e : SpawnEnt) (blk : Nat) : Nat :=
  let hd := e.target.toNat + 2 ^ 64 * (e.orig + 2 ^ 16 * e.vals.length) + 2 ^ 96 * (blk % 2 ^ 32)
  hd + 2 ^ 128 * (e.vals.foldr (fun w acc => w.toNat + 2 ^ 32 * acc) 0)

/-- What an entry that finds the queue full meets in the overflow area: a slot, no room, or a fault; `none` where a walk
waits. -/
inductive Ovf where
  | slot (n : Nat) (hdr : List (Nat × Nat)) (at_ : List (Nat × Nat))
  | full
  | bad (cause level va : Nat)
  | wait (l : List (Page × Nat × Nat))
  deriving DecidableEq, Repr

/-- The first page of some pieces that fails. -/
def firstBad (l : List (Page × Nat × Nat)) : Ovf :=
  l.foldr (fun p acc => match p.1 with
    | .ok _ _ => acc
    | .bad c v => .bad c v p.2.1
    | .mv => .wait l) .full

/-- Looks for a place in the overflow area (R165). -/
def State.ovfFind (s : State) (core g : Nat) : Ovf :=
  let r := s.grd g
  if r.sovf = 0 then .full
  else
    let hp := s.pages (some core) r.part r.tctx 3 r.sovf 16
    match okPieces hp with
    | none => firstBad hp
    | some h =>
      let cap := s.getPieces h % 2 ^ 32
      let used := s.ovfUsed g
      match (List.range (used.length + 1)).find? (fun i => !used.contains i) with
      | none => .full
      | some i =>
        if cap ≤ i then .full
        else
          let ep := s.pages (some core) r.part r.tctx 2 ((r.sovf + 64 + r.entrySize * i) % 2 ^ 64) r.entrySize
          match okPieces ep with
          | none => firstBad ep
          | some a => .slot i h a

/-- USED of a grid's overflow area is brought up to date (R165), at a page that is being moved when the move ends (R37). -/
def State.ovfCount (s : State) (g : Nat) : State :=
  let r := s.grd g
  if r.sovf = 0 then s
  else
    s.unitWrite g r.part r.tctx ((r.sovf + 8) % 2 ^ 64) 8 (s.ovfUsed g).length

/-- The entry of one lane is appended (R163, R165), or what its lane meets. -/
def State.spawnLane (s : State) (c l : Nat) (tgt : DWord) (n : Nat) : Option (Nat × Nat × Nat) × State :=
  let k := s.coh c
  let b := k.block
  let g := (s.blk b).grid
  let vals := (List.range n).map (fun i => k.v i l)
  let add := fun (s : State) (e : SpawnEnt) => s.modBlk b (fun r => { r with
    spawnQ := r.spawnQ ++ [e]
    lists := if r.lists.any (fun t => t.1 == e.target) || 16 ≤ r.lists.length then r.lists else r.lists ++ [(e.target, false)] })
  let e : SpawnEnt := ⟨tgt, 32 * k.idx + l, vals, none⟩
  if ((s.blk b).spawnQ.filter (fun e => e.ovf.isNone)).length < Config.spawnQueue then (none, add s e)
  else
    match s.ovfFind (s.blk b).core g with
    | .slot i _ a =>
      let r := s.grd g
      -- the spawn former's walks fill the TLBs as any other (R39)
      let s := (s.fillSpan (s.blk b).core r.tctx r.sovf 16).fillSpan (s.blk b).core r.tctx
        ((r.sovf + 64 + r.entrySize * i) % 2 ^ 64) r.entrySize
      (none, ((add (s.mvOver (.spawn c l)) { e with ovf := some i }).putPieces a (e.bytes (s.blk b).blk)).ovfCount g)
    | .full => (some (0x1D, 15, 0), s)
    | .bad cause lv va => (some (cause, lv, va), s)
    | .wait ps =>
      let w := s.mvMeet (.spawn c l) (s.grd g).tctx ps
      let va := ((ps.find? (fun p => p.1 == .mv)).map (fun p => p.2.1)).getD 0
      (some (if w.1 then 0 else 0x15, if w.1 then 15 else 0, va), w.2)

/-- SPAWN (R297): lanes whose entries are written end; lanes that meet MV = 1 in the area re-issue the word. -/
def execSpawn (g : Guard) (n : BitVec 8) (off : BitVec 32) (s : State) : Host.Outcome State Fault Refusal :=
  .next (s.issue ⟨g, [], [], .off, true, some 0x35⟩ fun t run =>
    let c := t.cur.coh
    let lim := (t.cohGrd c).spl
    if lim = 0 ∨ lim < n.toNat then t.illegal run 7
    else if t.accessPending c run (fun _ => true) then t.stall
    else
      let tgt := t.target off 0
      let t := t.modCoh c Cohort.flushRegs
      let r := (lanesOf run).foldl (fun (r : List (Nat × Nat × Nat × Nat) × State) l =>
        let v := r.2.spawnLane c l tgt n.toNat
        match v.1 with
        | none => (r.1, v.2)
        | some f => (r.1 ++ [(l, f)], v.2)) ([], t)
      let lanesOfCause := fun cause => maskOf (fun l => r.1.any (fun e => e.1 == l && e.2.1 == cause))
      let done := maskOf (fun l => run.getLsbD l && !r.1.any (fun e => e.1 == l))
      let u := (0x1D :: causeOrder).foldl (fun u cause =>
        match r.1.find? (fun e => e.2.1 == cause) with
        | none => u
        | some e => u.fail (lanesOfCause cause) ⟨1, cause, 0, if cause = 0x1D then 0 else 2, e.2.2.1, BitVec.ofNat 64 e.2.2.2, 0⟩)
        r.2
      -- lanes that wait stay at the word
      (u.drop (lanesOfCause 0)).exitLanes c done)

/-- SPFLUSH (R298). -/
def execSpflush (g : Guard) (s : State) : Host.Outcome State Fault Refusal :=
  .next (s.issue ⟨g, [], [], .off, true, some 0x37⟩ fun t _ =>
    t.modBlk (t.coh t.cur.coh).block (fun b => { b with
      lists := b.lists.map (fun e => if b.spawnQ.any (fun q => q.target == e.1) then (e.1, true) else e) }))

/-! ### Issue control (R300) -/

/-- YIELD: in a deterministic grid the pipe passes; elsewhere the cohort gives up its next issue opportunity. -/
def execYield (g : Guard) (s : State) : Host.Outcome State Fault Refusal :=
  .next (s.issue ⟨g, [], [], .off, false, none⟩ fun t _ => t.passPipe t.cur.coh)

/-- WAITF: no further word of the group until the flags read zero. -/
def execWaitf (g : Guard) (mask : BitVec 12) (s : State) : Host.Outcome State Fault Refusal :=
  .next (s.issue ⟨g, [], [], .off, false, none⟩ fun t _ =>
    if (List.range 12).any (fun i => mask.getLsbD i && getD (t.coh t.cur.coh).cf i 0 != 0) then t.stall else t)

/-- NOP. -/
def execNop (g : Guard) (s : State) : Host.Outcome State Fault Refusal :=
  .next (s.issue ⟨g, [], [], .off, false, none⟩ (fun t _ => t))

end Sys2Proof.Machine
end

