-- ==== Sys2Proof/Machine/System.lean ====
section
/-! DEFINITION. Special registers, timestamps, traps and breakpoints, opcodes 0x70 and 0x71 (R306 to R309). -/

namespace Sys2Proof.Machine

/-- The operating point at which a die runs: the requested point, held down by the package limit (R14, R17, R183). -/
def State.pointOf (s : State) (die : Nat) : Nat := min (getD s.ctl.point die 0) (getD s.ctl.want die 0)

/-- The value of a special register in lane l (R307); `run` are the word's active lanes. -/
def State.spReg (s : State) (c : Nat) (run : LaneMask) (r : SpReg) (l : Nat) : DWord :=
  let k := s.coh c
  let b := s.cohBlk c
  let p := s.plc b.placed
  match r with
  | .lane => BitVec.ofNat 64 l
  | .coh => BitVec.ofNat 64 k.idx
  | .blk => BitVec.ofNat 64 (b.blk % 2 ^ 32)
  | .crank => BitVec.ofNat 64 b.rank
  | .clu => BitVec.ofNat 64 p.clu
  | .die => BitVec.ofNat 64 p.die
  | .pkg => BitVec.ofNat 64 s.ctl.pkg
  | .orig => BitVec.ofNat 64 (getD k.orig l 0 % 1024)
  | .vbase => BitVec.ofNat 64 k.vbase
  | .args => (s.cohGrd c).args
  | .nflags => k.nflags.zeroExtend 64
  | .act => run.zeroExtend 64
  | .path => if k.inRegion l && k.path.getLsbD l then 1 else 0
  | .meet => k.meetOf l
  | .part => BitVec.ofNat 64 (s.cohPart c)
  | .opp => BitVec.ofNat 64 (s.pointOf p.die)

/-- SRD (R308). -/
def execSrd (g : Guard) (d : Opnd) (r : SpReg) (s : State) : Host.Outcome State Fault Refusal :=
  .next (s.issue (.of g [(d, wordsOf r.is64)] []) fun t run => t.result d r.is64 run (t.spReg t.cur.coh run r))

/-- SWR (R308): the numeric flags once for the group, after every earlier flagged computation has merged its own; MEET
in every active lane, unless one lane's value is bad. -/
def execSwr (g : Guard) (a : Opnd) (r : SpReg) (s : State) : Host.Outcome State Fault Refusal :=
  .next (s.issue (.of g [] [(a, wordsOf r.is64)]) fun t run =>
    let c := t.cur.coh
    match r with
    | .nflags =>
      if t.flagsPending c then t.stall
      else t.modCoh c (fun k => { k with nflags := (t.val c a false (lowLane run)).truncate 5 })
    | .meet =>
      let v := t.val c a true
      let bad := maskOf (fun l => run.getLsbD l && (v l).toNat % 8 != 0 && v l != noMeet)
      if bad = 0 then t.setMeet run v else t.illegal bad 7
    | .lane => t
    | .coh => t
    | .blk => t
    | .crank => t
    | .clu => t
    | .die => t
    | .pkg => t
    | .orig => t
    | .vbase => t
    | .args => t
    | .act => t
    | .path => t
    | .part => t
    | .opp => t)

/-- GTS (R309): the clock moves on between two readings. -/
def execGts (g : Guard) (d : Opnd) (s : State) : Host.Outcome State Fault Refusal :=
  .next (s.issue (.of g [(d, 2)] []) fun t run =>
    let t := t.tick
    t.result d true run (fun _ => BitVec.ofNat 64 t.time))

/-- CLK (R309): the core's own count, which stands still while the core is gated. -/
def execClk (g : Guard) (d : Opnd) (s : State) : Host.Outcome State Fault Refusal :=
  .next (s.issue (.of g [(d, 2)] []) fun t run =>
    let core := t.cohCore t.cur.coh
    let t := (t.modCore core (fun k => { k with clk := k.clk + 1 + Config.clkGap t.fresh })).next
    t.result d true run (fun _ => BitVec.ofNat 64 (t.core core).clk))

/-- TRAP (R306). -/
def execTrap (g : Guard) (a : Opnd) (code : BitVec 8) (s : State) : Host.Outcome State Fault Refusal :=
  .next (s.issue { Need.of g [] [(a, 2)] with disallow := some 0x71 } fun t run =>
    t.park t.cur.coh run t.cur.pc ⟨1, 0x28, 0, 0, 15, t.val t.cur.coh a true (lowLane run), code.toNat⟩)

/-- BRKP (R306): no effect in a speculative lane. -/
def execBrkp (g : Guard) (code : BitVec 8) (s : State) : Host.Outcome State Fault Refusal :=
  .next (s.issue (.of g [] []) fun t run =>
    t.park t.cur.coh (t.plainLanes run) t.cur.pc ⟨1, 0x29, 0, 0, 15, 0, code.toNat⟩)

end Sys2Proof.Machine
end

