-- ==== Sys2Proof/Machine/Engine.lean ====
section
/-! DEFINITION. Engine commands at issue, opcodes 0x60 to 0x62, 0x64 and 0x65 (R340 to R361, R367), handles and the words
of opcode 0x63 (R364, R365). -/

namespace Sys2Proof.Machine

/-- The common fields of a command. -/
def eargsOf : Instr → Option EArgs
  | .cpy e _ => some e | .cpyg e _ _ => some e | .cpys e _ _ => some e | .cpym e _ _ _ => some e
  | .omclm e _ _ _ _ => some e | .omrel e _ _ => some e | .accz e _ => some e | .accld e _ _ _ => some e
  | .accst e _ _ _ _ => some e | .accmv e _ _ _ _ => some e | .mma e _ _ _ => some e | .mmb e _ _ _ => some e
  | .coll e _ _ _ => some e | .put e _ _ => some e | .get e _ _ => some e
  | .qnt e _ _ _ _ => some e | .dqnt e _ _ _ _ => some e
  | _ => none

/-- The release bit of a command is set at a scope beyond the block: who observes its completion acquires (R115). -/
def Opt.relWide (o : Opt) : Bool := (eargsOf o.instr).any (fun e => e.rel && e.sc ≠ Scope.blk)

/-! ### The operand share (R346, R347) -/

def Slot.blank : Slot := ⟨none, 0, 0, 0, [], []⟩
def Acc.blank : Acc := ⟨none, []⟩

/-- Keys of a partition's slot and accumulator on a core. -/
def slotKey (share n : Nat) : Nat := 32 * share + n
def accKey (share n : Nat) : Nat := 8 * share + n

def State.slot (s : State) (core part n : Nat) : Slot := getD (s.core core).slots (slotKey (s.shareOf part) n) .blank
def State.acc (s : State) (core part n : Nat) : Acc := getD (s.core core).accs (accKey (s.shareOf part) n) .blank
def State.modSlot (s : State) (core part n : Nat) (f : Slot → Slot) : State :=
  let k := slotKey (s.shareOf part) n
  s.modCore core (fun r => { r with slots := set r.slots k (f (getD r.slots k .blank)) })
def State.modAcc (s : State) (core part n : Nat) (f : Acc → Acc) : State :=
  let k := accKey (s.shareOf part) n
  s.modCore core (fun r => { r with accs := set r.accs k (f (getD r.accs k .blank)) })

/-- Tile formats (R347). -/
def isTile (code : Nat) : Bool := 1 ≤ code && code ≤ 12

/-- Scale units that a format needs. -/
def unitsOf (code bsz : Nat) : Nat :=
  if isBfp code then (if bsz = 2 then 1 else if bsz = 0 then 2 else 4) else 0

/-- Row bytes, elements of a row, scale bytes of a row. -/
def rowBytes (code : Nat) : Nat := if isBfp code then 16 * bfpM code else 128
def rowElems (code : Nat) : Nat := if code = 1 ∨ code = 2 then 64 else 128
def scaleBytes (code bsz : Nat) : Nat := if isBfp code then 2 * (128 / blockSize bsz) else 0

/-- Bytes of an element of a floating or integer code. -/
def elemSize (code : Nat) : Nat :=
  if code = 0 then 4 else if code = 1 ∨ code = 2 then 2 else if code = 13 then 8 else 1

/-! ### What a command names -/

/-- Slots and accumulators that a command reads, and those that it writes, its follow-on left out. -/
def cmdSlotsRead : Instr → List Nat
  | .mma _ a b _ => [a.toNat, b.toNat]
  | .mmb _ a b _ => [a.toNat, b.toNat]
  | _ => []

def cmdSlotFill : Instr → Option Nat
  | .cpym _ _ _ n => some n.toNat
  | .accmv _ n _ _ _ => some n.toNat
  | _ => none

def cmdAcc : Instr → Option Nat
  | .accz _ n => some n.toNat
  | .accld _ _ _ n => some n.toNat
  | .accst _ _ _ _ n => some n.toNat
  | .accmv _ _ _ n _ => some n.toNat
  | .mma _ _ _ n => some n.toNat
  | .mmb _ _ _ n => some n.toNat
  | _ => none

/-- Every slot of a command. -/
def cmdSlots (i : Instr) : List Nat := cmdSlotsRead i ++ (cmdSlotFill i).toList

def Opt.all (o : Opt) : List Instr := o.instr :: o.follow.toList

/-- Masks of a claim or a release. -/
def Opt.maskA (o : Opt) : Nat := ((o.desc[0]?).getD 0).toNat % 2 ^ 32
def Opt.maskB (o : Opt) : Nat := ((o.desc[1]?).getD 0).toNat % 2 ^ 8

def isClaim : Instr → Bool
  | .omclm _ _ _ _ _ => true
  | _ => false

def isFree : Instr → Bool
  | .omrel _ _ _ => true
  | _ => false

/-- The command names slot or accumulator n. -/
def Opt.hasSlot (o : Opt) (n : Nat) : Bool :=
  o.all.any (fun i => (cmdSlots i).contains n) || ((isClaim o.instr || isFree o.instr) && o.maskA.testBit n)
def Opt.hasAcc (o : Opt) (n : Nat) : Bool :=
  o.all.any (fun i => cmdAcc i == some n) || ((isClaim o.instr || isFree o.instr) && o.maskB.testBit n)

/-- Commands of a cohort that have not completed. -/
def State.cmdsOf (s : State) (core c : Nat) : List (Nat × Opt) :=
  (s.core core).opt.filter (fun e => e.2.busy && e.2.coh == c)

/-- A resource is the cohort's, or named in a claim of it that has not completed (R348). -/
def State.mayUse (s : State) (c : Nat) (slots accs : List Nat) : Bool :=
  let core := s.cohCore c
  let part := s.cohPart c
  let claims := (s.cmdsOf core c).filter (fun e => isClaim e.2.instr)
  slots.all (fun n => (s.slot core part n).owner == some c || claims.any (fun e => e.2.maskA.testBit n)) &&
    accs.all (fun n => (s.acc core part n).owner == some c || claims.any (fun e => e.2.maskB.testBit n))

/-- Scale units that SCU asks for each slot (R349). -/
def scuUnits (scu : Nat) : Nat := if scu = 3 then 4 else scu

/-- Scale units that a slot holds, or will hold by a claim that has not completed. -/
def State.unitsAt (s : State) (c n : Nat) : Nat :=
  let core := s.cohCore c
  let have_ := (s.slot core (s.cohPart c) n).units
  let claims := (s.cmdsOf core c).filter (fun e => e.2.maskA.testBit n)
  claims.foldl (fun m e => match e.2.instr with
    | .omclm _ _ _ _ scu => if m = 0 then scuUnits scu.toNat else m
    | _ => m) have_

/-- The pairs of formats of MMA and MMB (R360). -/
def pairOk (bit : Bool) (fa fb : Nat) : Bool :=
  if bit then isBfp fb && (fa == 12 || fa == 3 || fa == 4 || isBfp fa)
  else (fa == 1 && fb == 1) || (fa == 2 && fb == 2) || ((fa == 3 || fa == 4) && (fb == 3 || fb == 4))

/-! ### Windows (R354) -/

/-- Bytes of a window as a block's engine sees them: a cause, or where they lie. -/
def State.winSeg (s : State) (b : Block) (kind va n : Nat) : Nat × Option Seg :=
  let w := va / 2 ^ 48
  let o := va % 2 ^ 48
  let scr := fun (p : Block) (o : Nat) =>
    if o + n ≤ (s.grd p.grid).scr * 256 then (0, some (⟨.bank p.core, p.scrRow * 2048 + o, n, false⟩ : Seg)) else (0x1A, none)
  if w = 0xF0 then scr b o
  else if w = 0xF1 then
    let rank := o / 2 ^ 21
    if 8 ≤ rank then (0x17, none)
    else if rank = b.rank then scr b (o % 2 ^ 21)
    else
      match s.blkOfRank b.placed rank with
      | none => (0x1B, none)
      | some p => if p.2.exited then (0x1B, none) else scr p.2 (o % 2 ^ 21)
  else if w = 0xF4 then
    if 0x4000000 < o + n then (0x17, none)
    else
      let pa := s.ctl.pkg * 2 ^ 42 + 0x08000000000 + clusterOf b.core * 0x4000000 + o
      -- every 2 MiB region that the bytes touch
      let owns := (upto (pa / 2 ^ 21) ((pa + n - 1) / 2 ^ 21 + 1 - pa / 2 ^ 21)).map (fun f => getD s.own f .blank)
      if owns.any (fun own => own.owner != some (s.grd b.grid).part) then (0x14, none)
      else if isWrite kind ∧ owns.any (·.sealed) then (0x12, none)
      else (0, some ⟨.mem, pa, n, false⟩)
  else (0x17, none)

/-- An address displaced by signed bytes, modulo 2^64. -/
def addVa (a : DWord) (o : Int) : Nat := (a + BitVec.ofInt 64 o).toNat

/-- The check at issue of the rows of rb bytes at some offsets from a base; 0 where no row touches a window. A row in a window
has the whole span, from the lowest row's lowest byte to the highest row's highest, checked there. -/
def State.winSpan (s : State) (b : Block) (kind : Nat) (base : DWord) (offs : List Int) (rb : Nat) : Nat :=
  let win := fun (o : Int) => let a := addVa base o; canonical a && isWindow a
  if rb = 0 ∨ !offs.any (fun o => win o || win (o + rb - 1)) then 0
  else
    let lo := offs.foldl min (offs.headD 0)
    let hi := offs.foldl max (offs.headD 0) + rb
    let x := (base.toNat : Int) + lo
    let y := (base.toNat : Int) + hi - 1
    if x < 0 ∨ x.toNat / 2 ^ 48 ≠ y.toNat / 2 ^ 48 then 0x17
    else (s.winSeg b kind x.toNat (hi - lo).toNat).1

/-- Offsets of rows 0 to n − 1 at a stride. -/
def rowOffs (n : Nat) (stride : Int) : List Int := (List.range n).map (fun (i : Nat) => i * stride)

/-- The scratchpad lines of a block that some bytes lie in, through its own window or its own peer slot (R62). -/
def ownLines (b : Block) (va n : Nat) : List Nat :=
  let w := va / 2 ^ 48
  let o := va % 2 ^ 48
  if n = 0 then []
  else if w = 0xF0 then upto (o / 64) ((o + n - 1) / 64 + 1 - o / 64)
  else if w = 0xF1 ∧ o / 2 ^ 21 = b.rank then
    let o := o % 2 ^ 21
    upto (o / 64) ((o + n - 1) / 64 + 1 - o / 64)
  else []

/-! ### Descriptors -/

def Opt.d (o : Opt) (i : Nat) : DWord := (o.desc[i]?).getD 0

/-- Signed low and high halves of a descriptor register. -/
def lo32 (d : DWord) : Int := (d.extractLsb' 0 32).toInt
def hi32 (d : DWord) : Int := (d.extractLsb' 32 32).toInt
def lo32n (d : DWord) : Nat := d.toNat % 2 ^ 32

/-- Rows that a copy moves: source, destination, bytes (R352, R353). -/
def Opt.rows (o : Opt) : List (Nat × Nat × Nat) :=
  let rb := lo32n (o.d 2)
  let nr := pte (o.d 2).toNat 32 16
  let ss := lo32 (o.d 3)
  let ds := hi32 (o.d 3)
  if rb = 0 then []
  else
    match o.instr with
    | .cpy _ _ => (List.range nr).map (fun (r : Nat) => (addVa (o.d 0) (r * ss), addVa (o.d 1) (r * ds), rb))
    | .cpyg _ _ _ => o.offs.map (fun e => (addVa (o.d 0) e.2.toInt, addVa (o.d 1) (e.1 * ds), rb))
    | .cpys _ _ _ => o.offs.map (fun e => (addVa (o.d 0) (e.1 * ss), addVa (o.d 1) e.2.toInt, rb))
    | _ => []

/-- Dense row bytes of an accumulator store (R358). -/
def denseRow (code : Nat) : Nat := if isBfp code then 8 * bfpM code else 64 * elemSize code

/-- Members of a collective and the own rank, as its group descriptor stands (R394); none where it cannot be read. -/
def State.groupOf_ (s : State) (part tctx va : Nat) : Option (Nat × Nat × Nat × Nat × List Nat × Bool) :=
  match okPieces (s.pages none part tctx 5 va 64) with
  | none => none
  | some p =>
    let w := s.getPieces p
    let n := pte w 32 16
    let root := pte w 48 16
    let tmo := pte w 64 16
    let ml := pte w 128 64
    let res := pte w 80 48 != 0 || w / 2 ^ 192 != 0
    if ml = 0 then some (w % 2 ^ 32, n, root, tmo, List.range n, res)
    else if 576 < n then some (w % 2 ^ 32, n, root, tmo, [], res)
    else
      match okPieces (s.pages none part tctx 5 ml (2 * n)) with
      | none => none
      | some q => let v := s.getPieces q; some (w % 2 ^ 32, n, root, tmo, (List.range n).map (fun i => pte v (16 * i) 16), res)

/-- Elements that a collective writes at its destination (R395). -/
def collDstElems (kind n p : Nat) : Nat := if kind = 1 then n / p else if kind = 2 then n * p else n

/-- Bytes that a command writes in the own memory: address and length of each row or array (R354). -/
def State.cmdWrites (s : State) (o : Opt) : List (Nat × Nat) :=
  let g := s.grd o.grid
  let fs := fun (n : BitVec 3) => g.fslot n.toNat
  match o.instr with
  | .cpy _ _ => o.rows.map Prod.snd
  | .cpyg _ _ _ => o.rows.map Prod.snd
  | .cpys _ _ _ => o.rows.map Prod.snd
  | .accst e _ _ _ _ =>
    let f := fs e.fs
    let code := fsCode f
    (List.range 64).map (fun (i : Nat) => (addVa (o.d 0) (i * (o.d 2).toInt), denseRow code)) ++
      (if isBfp code then [((o.d 1).toNat, 64 * 2 * (64 / blockSize (fsBsz f)))] else [])
  | .qnt e _ _ _ _ =>
    let f := fs e.fs
    let n := lo32n (o.d 3)
    if isBfp (fsCode f) then
      [((o.d 1).toNat, n * bfpM (fsCode f) / 8), ((o.d 2).toNat, 2 * (n / blockSize (fsBsz f)))]
    else [((o.d 1).toNat, n * elemSize (fsCode f))]
  | .dqnt _ _ _ _ wt => [((o.d 2).toNat, lo32n (o.d 3) * elemSize wt.toNat)]
  | .get _ _ _ => [((o.d 1).toNat, lo32n (o.d 2))]
  | .coll e _ _ kind =>
    let p := match s.groupOf_ g.part g.tctx (o.d 3).toNat with
      | some v => max 1 v.2.1
      | none => 1
    [((o.d 1).toNat, collDstElems kind.toNat (lo32n (o.d 2)) p * elemSize (fsCode (fs e.fs)))]
  | _ => []

/-- The scratchpad lines of the own block that a command writes. -/
def State.cmdLines (s : State) (o : Opt) : List Nat :=
  let b := s.blk o.block
  (s.cmdWrites o).flatMap (fun w => ownLines b w.1 w.2)

/-! ### Issue -/

/-- What the checks of a command at issue come to: a value that it forbids, an engine-claim fault, a window fault with
the lanes that offend, or the command. -/
inductive CmdChk where
  | bad
  | claim
  | win (cause access : Nat) (lanes : LaneMask) (va : DWord)
  | go (desc : List DWord) (offs : List (Nat × DWord)) (follow : Option Instr)
  deriving DecidableEq, Repr

/-- The first check that fails. -/
def firstChk (l : List (Bool × CmdChk)) (k : CmdChk) : CmdChk := ((l.find? (fun e => e.1)).map Prod.snd).getD k

/-- The op-table entry that the next command takes (R340): its slot and new generation. `away` tells the slots to which pending
commands of partitions that are switched out will return. -/
def Core.freeOpt (c : Core) (away : Nat → Bool) : Option (Nat × Nat) :=
  match (List.range Config.optEntries).find? (fun i => (look c.opt i).isNone && !away i) with
  | some i => some (i, 1)
  | none =>
    match c.opt.filter (fun e => !e.2.busy && !away e.1) with
    | [] => none
    | e :: t =>
      let m := t.foldl (fun (m : Nat × Opt) x => if x.2.doneSeq < m.2.doneSeq then x else m) e
      some (m.1, (m.2.gen + 1) % 4096)

/-- A pending command of a partition of another share, switched out, will return to this slot (R342). Its own share's partition
will have left by then, so that its commands take such slots (notes/assumptions/50.md). -/
def State.awayAt (s : State) (core part slot : Nat) : Bool :=
  (s.core core).saved.any (fun e => e.2.1 == slot && e.2.2.busy && s.shareOf e.1 != s.shareOf part)

/-- The entry that the next command of a partition takes on a core. -/
def State.freeOpt (s : State) (core part : Nat) : Option (Nat × Nat) := (s.core core).freeOpt (s.awayAt core part)

/-- The engine of a command (R340). -/
def engOf : Instr → Nat
  | .cpy _ _ => 1 | .cpyg _ _ _ => 1 | .cpys _ _ _ => 1 | .cpym _ _ _ _ => 1
  | .qnt _ _ _ _ _ => 1 | .dqnt _ _ _ _ _ => 1
  | .coll _ _ _ _ => 3
  | .put _ _ _ => 4 | .get _ _ _ => 4
  | _ => 2

/-- The handle of an entry (R341). -/
def handleOf (eng gen slot : Nat) : Nat := eng * 2 ^ 28 + gen * 2 ^ 16 + slot

/-- The command takes its entry; its handle is written; the scratchpad lines that it writes become absent (R62,
R340, R342); a fill sets the format of its slot (R347). -/
def State.takeCmd (s : State) (e : EArgs) (i : Instr) (run : LaneMask) (slot gen : Nat) (desc : List DWord)
    (offs : List (Nat × DWord)) (follow : Option Instr) : State :=
  let c := s.cur.coh
  let k := s.coh c
  let b := s.blk k.block
  let o : Opt := {
    gen := gen
    busy := true
    seq := s.fresh
    doneSeq := 0
    status := 0
    eng := engOf i
    coh := c
    block := k.block
    grid := b.grid
    pc := s.cur.pc
    lanes := run
    instr := i
    desc := desc
    offs := offs
    dreg := e.d.toNat
    st := .queued
    prog := 0
    landed := []
    mseq := s.fresh
    cancel := false
    fail := false
    follow := follow
    lostFollow := false
    mv := none
    fin := none }
  let s := s.next
  let s := s.modCore b.core (fun r => { r with opt := set r.opt slot o })
  let s := s.writeS c e.d.toNat (BitVec.ofNat 64 (handleOf o.eng gen slot))
  let s := s.modCoh c (fun k => { k with handles := set k.handles e.d.toNat slot })
  let lines := s.cmdLines o
  let s := s.modBlk k.block (fun r => { r with absent := lines.foldl (fun m x => set m x o.seq) r.absent })
  match cmdSlotFill i with
  | none => s
  | some n =>
    let f := (s.grd b.grid).fslot e.fs.toNat
    s.modSlot b.core (s.cohPart c) n (fun r => { r with fmt := fsCode f, bsz := fsBsz f })

/-- An engine command issues (R340, R345, R348, R354): once for the group. A speculative lane aborts (R140). -/
def State.command (s : State) (e : EArgs) (op : BitVec 8) (regs : List (Opnd × Nat)) (reads : List Nat) (i : Instr)
    (f : State → LaneMask → CmdChk) : State :=
  s.issue ⟨e.g, regs, reads, .off, false, some op⟩ fun t run =>
    match f t run with
    | .bad => t.illegal run 7
    | .claim => t.fail run (.plain 0x22 0)
    | .win c a m va => t.fail run ⟨1, c, 0, a, 15, va, m.toNat⟩
    | .go desc offs follow =>
      match t.freeOpt (t.cohCore t.cur.coh) (t.cohPart t.cur.coh) with
      | none => t.stall
      | some (slot, gen) => t.takeCmd e i run slot gen desc offs follow

/-- s-registers sA to sA + k, their numbers and values. -/
def groupRegs (a : BitVec 6) (k : Nat) : List Nat := upto a.toNat (k + 1)
def State.regs (s : State) (l : List Nat) : List DWord := l.map (fun n => (s.coh s.cur.coh).sreg n)
def State.sreg64 (s : State) (n : BitVec 6) : DWord := (s.coh s.cur.coh).sreg n.toNat

/-- The block of the issuing cohort. -/
def State.curBlk (s : State) : Block := s.cohBlk s.cur.coh

/-! ### Copies -/

/-- Forbidden values of a copy descriptor (R351). -/
def badCopy (d : List DWord) : Bool :=
  let w := ((d[2]?).getD 0).toNat
  0x1000000 < w % 2 ^ 32 || w / 2 ^ 48 != 0

/-- CPY (R352). -/
def execCpy (e : EArgs) (a : BitVec 6) (s : State) : Host.Outcome State Fault Refusal :=
  .next (s.command e 0x60 [] (groupRegs a 3) (.cpy e a) fun t run =>
    let d := t.regs (groupRegs a 3)
    let r := fun i => (d[i]?).getD 0
    let rb := lo32n (r 2)
    let nr := pte (r 2).toNat 32 16
    let c1 := t.winSpan t.curBlk 5 (r 0) (rowOffs nr (lo32 (r 3))) rb
    let c2 := t.winSpan t.curBlk 6 (r 1) (rowOffs nr (hi32 (r 3))) rb
    firstChk [(badCopy d, .bad), (c1 != 0, .win c1 5 run (r 0)), (c2 != 0, .win c2 6 run (r 1))] (.go d [] none))

/-- The window checks of a gather's or scatter's rows: the lanes whose row at `base + off l` fails, and the cause. -/
def State.laneWins (s : State) (run : LaneMask) (kind : Nat) (base : DWord) (off : Nat → Int) (rb : Nat) :
    List (Nat × Nat) :=
  (lanesOf run).filterMap (fun l =>
    let c := s.winSpan s.curBlk kind base [off l] rb
    if c = 0 then none else some (l, c))

/-- CPYG and CPYS (R353): the rows of the lanes; `gather` tells which side has per-lane offsets. -/
def State.laneCopy (s : State) (run : LaneMask) (a : BitVec 6) (b : BitVec 7) (gather : Bool) : CmdChk :=
  let c := s.cur.coh
  let d := s.regs (groupRegs a 3)
  let r := fun i => (d[i]?).getD 0
  let rb := lo32n (r 2)
  let nr := pte (r 2).toNat 32 16
  let ss := lo32 (r 3)
  let ds := hi32 (r 3)
  let offs := (lanesOf run).map (fun l => (l, s.val c (.v b) true l))
  let vo := fun (l : Nat) => (s.val c (.v b) true l).toInt
  let f1 := if rb = 0 then [] else s.laneWins run 5 (r 0) (fun l => if gather then vo l else l * ss) rb
  let f2 := if rb = 0 then [] else s.laneWins run 6 (r 1) (fun l => if gather then l * ds else vo l) rb
  -- the strided side is checked over its whole span too
  let st := if gather then ds else ss
  let sp := s.winSpan s.curBlk (if gather then 6 else 5) (if gather then r 1 else r 0)
    ((lanesOf run).map (fun (l : Nat) => l * st)) rb
  let off := fun (f : List (Nat × Nat)) => maskOf (fun l => f.any (fun e => e.1 == l))
  let va := fun (f : List (Nat × Nat)) (src : Bool) =>
    let l := lowLane (off f)
    BitVec.ofNat 64 (if src then addVa (r 0) (if gather then vo l else l * ss) else addVa (r 1) (if gather then l * ds else vo l))
  let c1 := firstCause (f1.map (fun e => (e.2, 15)))
  let c2 := firstCause (f2.map (fun e => (e.2, 15)))
  firstChk [(badCopy d || nr != 1 || (if gather then ss != 0 else ds != 0), .bad),
    (c1.1 != 0, .win c1.1 5 (off f1 ||| off f2) (va f1 true)), (c2.1 != 0, .win c2.1 6 (off f2) (va f2 false)),
    (sp != 0, .win sp (if gather then 6 else 5) run (if gather then r 1 else r 0))] (.go d offs none)

/-- CPYG (R353). -/
def execCpyg (e : EArgs) (a : BitVec 6) (b : BitVec 7) (s : State) : Host.Outcome State Fault Refusal :=
  .next (s.command e 0x60 [(.v b, 2)] (groupRegs a 3) (.cpyg e a b) (fun t run => t.laneCopy run a b true))

/-- CPYS (R353). -/
def execCpys (e : EArgs) (a : BitVec 6) (b : BitVec 7) (s : State) : Host.Outcome State Fault Refusal :=
  .next (s.command e 0x60 [(.v b, 2)] (groupRegs a 3) (.cpys e a b) (fun t run => t.laneCopy run a b false))

/-- A follow-on word (R355): an MMA or MMB with every lane active and D = 0x80. -/
def followOf (w : DWord) : Option Instr :=
  if w.extractLsb' 44 8 ≠ 0x80#8 then none
  else
    match (decodeWord (w ||| (1 <<< 44))).toOption with
    | some (.mma e a b c) => if e.g = ⟨7, false⟩ then some (.mma e a b c) else none
    | some (.mmb e a b c) => if e.g = ⟨7, false⟩ then some (.mmb e a b c) else none
    | _ => none

/-- Formats that the two slots of a product record, with the fill of one of them counted in. -/
def State.pairFmt (s : State) (c : Nat) (i : Instr) (fill : Option (Nat × Nat × Nat)) : Nat × Nat × Nat × Nat :=
  let at_ := fun (n : Nat) =>
    match fill with
    | some (m, f, b) => if n = m then (f, b) else let r := s.slot (s.cohCore c) (s.cohPart c) n; (r.fmt, r.bsz)
    | none => let r := s.slot (s.cohCore c) (s.cohPart c) n; (r.fmt, r.bsz)
  match cmdSlotsRead i with
  | [x, y] => ((at_ x).1, (at_ x).2, (at_ y).1, (at_ y).2)
  | _ => (0, 0, 0, 0)

def isMmb : Instr → Bool
  | .mmb _ _ _ _ => true
  | _ => false

def fmtRegs (p : Nat × Nat × Nat × Nat) : List DWord := [p.1, p.2.1, p.2.2.1, p.2.2.2].map (BitVec.ofNat 64)

/-- CPYM (R355). -/
def execCpym (e : EArgs) (a c : BitVec 6) (slot : BitVec 5) (s : State) : Host.Outcome State Fault Refusal :=
  .next (s.command e 0x60 [] (groupRegs a 3 ++ (if c = 0 then [] else [c.toNat])) (.cpym e a c slot) fun t run =>
    let k := t.cur.coh
    let d := t.regs (groupRegs a 3)
    let r := fun i => (d[i]?).getD 0
    let f := (t.cohGrd k).fslot e.fs.toNat
    let code := fsCode f
    let bfp := isBfp code
    let vals := (r 0).toNat % 16 == 0 && (if bfp then (r 1).toNat % 2 == 0 else r 1 == 0) &&
      (r 2).toNat / 2 ^ 32 == 0 && lo32 (r 2) % 16 == 0 && (r 3).toNat / 2 ^ 32 == 0 &&
      (if bfp then lo32 (r 3) % 2 == 0 else r 3 == 0)
    let fw := followOf (t.sreg64 c)
    let fo := if c = 0 then none else fw
    let slots := slot.toNat :: (fo.map cmdSlotsRead).getD []
    let accs := (fo.bind cmdAcc).toList
    let pf := (fo.map (fun i => t.pairFmt k i (some (slot.toNat, code, fsBsz f)))).getD (0, 0, 0, 0)
    let c1 := t.winSpan t.curBlk 5 (r 0) (rowOffs 64 (lo32 (r 2))) (rowBytes code)
    let c2 := if bfp then t.winSpan t.curBlk 5 (r 1) (rowOffs 64 (lo32 (r 3))) (scaleBytes code (fsBsz f)) else 0
    firstChk [
      (!isTile code || !vals || (c != 0 && fw.isNone), .bad),
      (!t.mayUse k slots accs, .claim),
      (t.unitsAt k slot.toNat < unitsOf code (fsBsz f), .bad),
      ((fo.map (fun i => !pairOk (isMmb i) pf.1 pf.2.2.1)).getD false, .bad),
      (c1 != 0, .win c1 5 run (r 0)), (c2 != 0, .win c2 5 run (r 1))] (.go (d ++ fmtRegs pf) [] fo))

/-! ### Claims and accumulators -/

/-- A mask operand: the s-register's low word, or the constant. -/
def State.maskVal (s : State) (o : Opnd) (run : LaneMask) : DWord := s.val s.cur.coh o false (lowLane run)

/-- OMCLM (R349). -/
def execOmclm (e : EArgs) (a b : Opnd) (try_ : Bool) (scu : BitVec 2) (s : State) :
    Host.Outcome State Fault Refusal :=
  .next (s.command e 0x61 [] (sregsOf [a, b]) (.omclm e a b try_ scu) (fun t run =>
    .go [t.maskVal a run, t.maskVal b run] [] none))

/-- OMREL (R349). -/
def execOmrel (e : EArgs) (a b : Opnd) (s : State) : Host.Outcome State Fault Refusal :=
  .next (s.command e 0x61 [] (sregsOf [a, b]) (.omrel e a b) (fun t run =>
    .go [t.maskVal a run, t.maskVal b run] [] none))

/-- ACCZ (R357). -/
def execAccz (e : EArgs) (acc : BitVec 3) (s : State) : Host.Outcome State Fault Refusal :=
  .next (s.command e 0x61 [] [] (.accz e acc) (fun t _ =>
    if t.mayUse t.cur.coh [] [acc.toNat] then .go [] [] none else .claim))

/-- The stride of a command: B's low word, signed, or the dense row where B is s0. -/
def State.strideOf (s : State) (b : BitVec 6) (dense : Nat) : Int := if b = 0 then dense else lo32 (s.sreg64 b)

/-- The window check of 64 rows. -/
def State.rowsWin (s : State) (kind : Nat) (base : DWord) (rb : Nat) (stride : Int) : Nat :=
  s.winSpan s.curBlk kind base (rowOffs 64 stride) rb

/-- ACCLD (R357). -/
def execAccld (e : EArgs) (a b : BitVec 6) (acc : BitVec 3) (s : State) : Host.Outcome State Fault Refusal :=
  .next (s.command e 0x61 [] (a.toNat :: (if b = 0 then [] else [b.toNat])) (.accld e a b acc) fun t run =>
    let code := fsCode ((t.cohGrd t.cur.coh).fslot e.fs.toNat)
    let n := elemSize code
    let base := t.sreg64 a
    let st := t.strideOf b (64 * n)
    let c1 := t.rowsWin 5 base (64 * n) st
    firstChk [(!(code ≤ 4 || code == 12) || base.toNat % n != 0 || st % n != 0, .bad),
      (!t.mayUse t.cur.coh [] [acc.toNat], .claim), (c1 != 0, .win c1 5 run base)]
      (.go [base, BitVec.ofInt 64 st] [] none))

/-- ACCST (R358). -/
def execAccst (e : EArgs) (a b c : BitVec 6) (acc : BitVec 3) (s : State) : Host.Outcome State Fault Refusal :=
  .next (s.command e 0x61 [] (groupRegs a 1 ++ [b, c].filterMap (fun x => if x = 0 then none else some x.toNat))
      (.accst e a b c acc) fun t run =>
    let f := (t.cohGrd t.cur.coh).fslot e.fs.toNat
    let code := fsCode f
    let base := t.sreg64 a
    let scl := (t.coh t.cur.coh).sreg (a.toNat + 1)
    let st := t.strideOf b (denseRow code)
    let c1 := t.rowsWin 6 base (denseRow code) st
    let c2 := if isBfp code then t.winSpan t.curBlk 6 scl [0] (64 * 2 * (64 / blockSize (fsBsz f))) else 0
    firstChk [(13 < code, .bad), (!t.mayUse t.cur.coh [] [acc.toNat], .claim), (c1 != 0, .win c1 6 run base),
      (c2 != 0, .win c2 6 run scl)] (.go [base, scl, BitVec.ofInt 64 st, t.sreg64 c] [] none))

/-- ACCMV (R358). -/
def execAccmv (e : EArgs) (slot : BitVec 5) (c : BitVec 6) (acc : BitVec 3) (h : Bool) (s : State) :
    Host.Outcome State Fault Refusal :=
  .next (s.command e 0x61 [] (if c = 0 then [] else [c.toNat]) (.accmv e slot c acc h) fun t _ =>
    let f := (t.cohGrd t.cur.coh).fslot e.fs.toNat
    let code := fsCode f
    firstChk [(!isTile code || ((code == 1 || code == 2) && h), .bad),
      (!t.mayUse t.cur.coh [slot.toNat] [acc.toNat], .claim),
      (t.unitsAt t.cur.coh slot.toNat < unitsOf code (fsBsz f), .bad)] (.go [t.sreg64 c] [] none))

/-- The checks of MMA and MMB (R348, R360). -/
def State.productChk (s : State) (i : Instr) : CmdChk :=
  let c := s.cur.coh
  let pf := s.pairFmt c i none
  firstChk [(!s.mayUse c (cmdSlotsRead i) (cmdAcc i).toList, .claim), (!pairOk (isMmb i) pf.1 pf.2.2.1, .bad)]
    (.go (fmtRegs pf) [] none)

/-- MMA (R360). -/
def execMma (e : EArgs) (sa sb : BitVec 5) (acc : BitVec 3) (s : State) : Host.Outcome State Fault Refusal :=
  .next (s.command e 0x62 [] [] (.mma e sa sb acc) (fun t _ => t.productChk (.mma e sa sb acc)))

/-- MMB (R360). -/
def execMmb (e : EArgs) (sa sb : BitVec 5) (acc : BitVec 3) (s : State) : Host.Outcome State Fault Refusal :=
  .next (s.command e 0x62 [] [] (.mmb e sa sb acc) (fun t _ => t.productChk (.mmb e sa sb acc)))

/-! ### Quantisation -/

def wideOk (wt : BitVec 4) : Bool := wt.toNat ≤ 2 || wt.toNat == 13

/-- Alignment of an array: 2 bytes, or the element size if larger (R361). -/
def arrayAlign (code : Nat) : Nat := if isBfp code then 2 else max 2 (elemSize code)

/-- The checks of QNT and DQNT (R361): three arrays with their element code and bytes; the first is read. -/
def State.quantChk (s : State) (run : LaneMask) (f : Nat) (wt : BitVec 4) (n : Nat) (d : List DWord)
    (arrays : List (DWord × Nat × Nat × Nat)) : CmdChk :=
  let code := fsCode f
  let ws := arrays.map (fun a => (s.winSpan s.curBlk a.2.1 a.1 [0] a.2.2.1, a.2.1, a.1))
  let w := (ws.find? (fun x => x.1 != 0)).getD (0, 0, 0)
  firstChk [(!wideOk wt || !isTile code || (isBfp code && n % blockSize (fsBsz f) != 0) ||
      arrays.any (fun a => a.1.toNat % a.2.2.2 != 0), .bad),
    (w.1 != 0, .win w.1 w.2.1 run w.2.2)] (.go d [] none)

/-- Bytes of n narrow elements and of their scales. -/
def narrowBytes (f n : Nat) : Nat := if isBfp (fsCode f) then n * bfpM (fsCode f) / 8 else n * elemSize (fsCode f)
def narrowScales (f n : Nat) : Nat := if isBfp (fsCode f) then 2 * (n / blockSize (fsBsz f)) else 0

/-- QNT (R361): the scale address must be 0 where the format has no scales. -/
def execQnt (e : EArgs) (a b c : BitVec 6) (wt : BitVec 4) (s : State) : Host.Outcome State Fault Refusal :=
  .next (s.command e 0x65 [] (groupRegs a 2 ++ [b, c].filterMap (fun x => if x = 0 then none else some x.toNat))
      (.qnt e a b c wt) fun t run =>
    let f := (t.cohGrd t.cur.coh).fslot e.fs.toNat
    let d := t.regs (groupRegs a 2)
    let r := fun i => (d[i]?).getD 0
    let n := lo32n (t.sreg64 b)
    if !isBfp (fsCode f) ∧ r 2 ≠ 0 then .bad
    else
      t.quantChk run f wt n (d ++ [t.sreg64 b, t.sreg64 c])
        [(r 0, 5, n * elemSize wt.toNat, max 2 (elemSize wt.toNat)), (r 1, 6, narrowBytes f n, arrayAlign (fsCode f)),
          (r 2, 6, narrowScales f n, 2)])

/-- DQNT (R361). -/
def execDqnt (e : EArgs) (a b c : BitVec 6) (wt : BitVec 4) (s : State) : Host.Outcome State Fault Refusal :=
  .next (s.command e 0x65 [] (groupRegs a 2 ++ [b, c].filterMap (fun x => if x = 0 then none else some x.toNat))
      (.dqnt e a b c wt) fun t run =>
    let f := (t.cohGrd t.cur.coh).fslot e.fs.toNat
    let d := t.regs (groupRegs a 2)
    let r := fun i => (d[i]?).getD 0
    let n := lo32n (t.sreg64 b)
    if !isBfp (fsCode f) ∧ r 1 ≠ 0 then .bad
    else
      t.quantChk run f wt n (d ++ [t.sreg64 b, t.sreg64 c])
        [(r 0, 5, narrowBytes f n, arrayAlign (fsCode f)), (r 1, 5, narrowScales f n, 2),
          (r 2, 6, n * elemSize wt.toNat, max 2 (elemSize wt.toNat))])

/-! ### The fabric -/

/-- COLL (R394 to R396). R25 says that collective agents cannot name windows, and R354 has the local sides of COLL checked as
any engine's, its writes to the own scratchpad among those that clear presence bits: the model lets the source and the
destination be scratchpad, peer and vault windows of the issuing core, and the group descriptor no window (DESIGN CHOICE,
notes/assumptions/80.md). -/
def execColl (e : EArgs) (a b : BitVec 6) (kind : BitVec 2) (s : State) : Host.Outcome State Fault Refusal :=
  .next (s.command e 0x64 [] (groupRegs a 3 ++ (if b = 0 then [] else [b.toNat])) (.coll e a b kind) fun t run =>
    let g := t.cohGrd t.cur.coh
    let code := fsCode (g.fslot e.fs.toNat)
    let d := t.regs (groupRegs a 3)
    let r := fun i => (d[i]?).getD 0
    let rec_ := t.sreg64 b
    let n := lo32n (r 2)
    let p := match t.groupOf_ g.part g.tctx (r 3).toNat with
      | some v => max 1 v.2.1
      | none => 1
    let c1 := t.winSpan t.curBlk 5 (r 0) [0] (n * elemSize code)
    let c2 := t.winSpan t.curBlk 6 (r 1) [0] (collDstElems kind.toNat n p * elemSize code)
    firstChk [((r 2).toNat / 2 ^ 32 != 0 || (r 3).toNat % 64 != 0 || rec_.toNat % 16 != 0 ||
        !(code ≤ 4 || code == 12 || code == 13), .bad),
      (c1 != 0, .win c1 5 run (r 0)), (c2 != 0, .win c2 6 run (r 1))] (.go (d ++ [rec_]) [] none))

/-- The checks of PUT and GET (R392, R393): the local side may be a window. -/
def State.moveChk (s : State) (run : LaneMask) (a b : BitVec 6) (put : Bool) : CmdChk :=
  let d := s.regs (groupRegs a 2)
  let r := fun i => (d[i]?).getD 0
  let rec_ := s.sreg64 b
  let loc := if put then r 0 else r 1
  let k := if put then 5 else 6
  let c1 := s.winSpan s.curBlk k loc [0] (lo32n (r 2))
  firstChk [((r 2).toNat / 2 ^ 32 != 0 || rec_.toNat % 16 != 0, .bad), (c1 != 0, .win c1 k run loc)]
    (.go (d ++ [rec_]) [] none)

/-- PUT (R392). -/
def execPut (e : EArgs) (a b : BitVec 6) (s : State) : Host.Outcome State Fault Refusal :=
  .next (s.command e 0x64 [] (groupRegs a 2 ++ (if b = 0 then [] else [b.toNat])) (.put e a b)
    (fun t run => t.moveChk run a b true))

/-- GET (R392). -/
def execGet (e : EArgs) (a b : BitVec 6) (s : State) : Host.Outcome State Fault Refusal :=
  .next (s.command e 0x64 [] (groupRegs a 2 ++ (if b = 0 then [] else [b.toNat])) (.get e a b)
    (fun t run => t.moveChk run a b false))

/-! ### Futures (R364) -/

/-- The op-table entry of a handle that is ours. -/
def State.ours (s : State) (h : Nat) : Option (Nat × Opt) :=
  let slot := h % 256
  let eng := pte h 28 4
  if eng = 0 ∨ 4 < eng ∨ pte h 8 8 ≠ 0 then none
  else
    match look (s.core (s.cohCore s.cur.coh)).opt slot with
    | some o => if o.block = (s.coh s.cur.coh).block then some (slot, o) else none
    | none => none

def genOf (h : Nat) : Nat := pte h 16 12

/-- The handle operand: an s-register, or a v-register of the lowest active lane. -/
def State.handleVal (s : State) (a : Opnd) (run : LaneMask) : Nat := (s.val s.cur.coh a false (lowLane run)).toNat

/-- The issuing word has seen a completion; `rel`: of a command with the release bit (R115). -/
def State.observe (s : State) (rel : Bool) : State :=
  s.modCoh s.cur.coh (fun k => { k with observed := k.observed || rel })

/-- FUTW (R364). -/
def execFutw (g : Guard) (d a : Opnd) (s : State) : Host.Outcome State Fault Refusal :=
  .next (s.issue { Need.of g [(d, 1)] [(a, 1)] with disallow := some 0x63 } fun t run =>
    let h := t.handleVal a run
    let put := fun (v : Nat) => t.result d false run (fun _ => BitVec.ofNat 64 v)
    if pte h 28 4 = 0 then put h
    else
      match t.ours h with
      | none => put 0x0700
      | some (_, o) =>
        if o.gen ≠ genOf h then put 0x0600
        else if o.busy then t.stall
        else (put o.status.toNat).observe o.relWide)

/-- FUTT (R364): false while the command of a handle that is ours is in flight. -/
def execFutt (g : Guard) (p : BitVec 3) (a : Opnd) (s : State) : Host.Outcome State Fault Refusal :=
  .next (s.issue { Need.of g [] [(a, 1)] with sread := [], disallow := some 0x63 } fun t run =>
    let h := t.handleVal a run
    let busy := match t.ours h with
      | some (_, o) => o.gen == genOf h && o.busy
      | none => false
    -- of an entry that has been taken again, the release bit is not known any more: the observer acquires
    let rel := match t.ours h with
      | some (_, o) => o.gen != genOf h || o.relWide
      | none => false
    (t.resultP p run (fun _ => !busy)).observe (!busy && rel))

/-- FUTC (R364): requests cancellation. -/
def execFutc (g : Guard) (a : Opnd) (s : State) : Host.Outcome State Fault Refusal :=
  .next (s.issue { Need.of g [] [(a, 1)] with sread := [], disallow := some 0x63 } fun t run =>
    let h := t.handleVal a run
    match t.ours h with
    | some (slot, o) =>
      if o.gen = genOf h ∧ o.busy then
        t.modCore (t.cohCore t.cur.coh) (fun k => { k with opt := set k.opt slot { o with cancel := true } })
      else t
    | none => t)

/-- RSTL (R365). -/
def execRstl (g : Guard) (i : BitVec 6) (clr : Bool) (s : State) : Host.Outcome State Fault Refusal :=
  .next (s.issue ⟨g, [], [], .off, false, some 0x63⟩ fun t run =>
    let c := t.cur.coh
    let base := (t.cohGrd c).rstt
    if clr then t.modCoh c (fun k => { k with restart := 0 })
    else if base = 0 then t.illegal run 7
    else
      let va := (base + 8 * i.toNat) % 2 ^ 64
      t.access 1 true run (fun _ => va) (fun _ => 8) (fun _ => []) (fun _ _ => []) fun u good =>
        let v := u.loadNow ⟨g, .i 0, .b64, .rlx, .blk, .off, .gen⟩ run good
        match v.1 with
        | none => v.2
        | some x =>
          if x % 64 ≠ 0 ∨ !canonical x then v.2.illegal (run &&& v.2.cur.lanes) 7
          else v.2.modCoh c (fun k => { k with restart := BitVec.ofNat 64 x }))

end Sys2Proof.Machine
end

