-- ==== Sys2Proof/Machine/Image.lean ====
section
/-! DEFINITION. What a tenant switch and an eviction write to memory: the order of a cohort's groups (R150), the records of
cohorts (R383), blocks (R384) and clusters, rings, cores and queue cursors (R382), and the eviction area (R190). Positions
that the manual leaves open are the model's (notes/assumptions/81.md). -/

namespace Sys2Proof.Machine

/-! ### Groups (R150) -/

/-- All groups of lanes, held ones too, lowest PC first. -/
def State.allGroups (s : State) (c : Nat) : List LaneMask :=
  let k := s.coh c
  let grp := fun (l : Nat) => maskOf (fun j => k.awake.getLsbD j && k.pcOf j == k.pcOf l && k.inRegion j == k.inRegion l)
  let leads := (lanesOf k.awake).filter (fun l => lowLane (grp l) == l)
  (sortOn (fun l => (k.pcOf l).toNat) leads).map grp

/-- The group store of a cohort (R150): eight groups stay live. A free place takes the store's lowest-PC group; where all
eight are held, the highest gives way to the store's lowest group that is not held. A group that waits at a barrier counts
as held. Which of nine live groups goes to the store is not stated: the model sends the one with the highest PC
(DESIGN CHOICE, notes/assumptions/74.md). -/
def State.storeOf (s : State) (c : Nat) : LaneMask :=
  let k := s.coh c
  let gs := s.allGroups c
  if gs.length ≤ 8 then 0
  else
    -- a group with a live lane is live
    let live := gs.filter (fun g => g &&& ~~~k.store != 0)
    let kept := gs.filter (fun g => g &&& ~~~k.store == 0)
    let live' := if live.length ≤ 8 then sortOn (fun g => (k.pcOf (lowLane g)).toNat) (live ++ kept.take (8 - live.length))
      else live.take 8
    let rest := gs.filter (fun g => !live'.contains g)
    let out := rest.foldl (· ||| ·) 0
    let held := k.held ||| k.mendWait ||| k.atBar ||| k.lockWait ||| s.opHeld c
    match rest.find? (fun g => g &&& held == 0), live'.getLast? with
    | some n, some o => if live'.all (fun g => g &&& held != 0) then (out &&& ~~~n) ||| o else out
    | _, _ => out

/-! ### The record of a cohort (R383) -/

/-- Transaction state of a lane as saved. -/
def txBytes (t : Tx) : Nat :=
  (if t.isOpen then 1 else 0) + (if t.fb then 2 else 0) + (if t.retry then 4 else 0) + t.cls % 256 * 2 ^ 8 +
    t.n % 16 * 2 ^ 16 + t.fails % 16 * 2 ^ 20 + t.code.toNat * 2 ^ 24 + t.sub.toNat * 2 ^ 32 + t.sreg % 128 * 2 ^ 40 +
    t.exit.toNat * 2 ^ 64

/-- Items of n bytes one after another from an offset. -/
def packAt (off n : Nat) (l : List Nat) : Nat := (l.foldr (fun x acc => x % 2 ^ (8 * n) + 2 ^ (8 * n) * acc) 0) * 2 ^ (8 * off)

/-- The record of a cohort as one number, least significant byte first; `block` is the number of its block's record. -/
def State.cohRecord (s : State) (c block : Nat) : Nat :=
  let k := s.coh c
  let lanes := List.range 32
  let store := s.storeOf c
  let inStore := fun (g : LaneMask) => g &&& ~~~store == 0
  let gs := s.allGroups c
  let groups := (gs.filter (fun g => !inStore g) ++ gs.filter inStore).map lowLane
  packAt 0 8 [k.idx + k.pipe * 2 ^ 5 + block % 2 ^ 24 * 2 ^ 8, k.restart.toNat] +
  packAt 0x10 4 [k.live.toNat, k.exited.toNat, k.parked.toNat, (k.held ||| k.mendWait).toNat,
    k.nflags.toNat + (if k.regionOpen then 2 ^ 8 else 0) + (if k.detHolder then 2 ^ 9 else 0), k.path.toNat, k.memb.toNat, 0] +
  packAt 0x30 8 [k.mend.toNat] +
  packAt 0x38 16 [k.rnt0.toNat, k.rnt1.toNat] +
  packAt 0x58 1 ((List.range 12).map (fun i => getD k.cf i 0)) +
  packAt 0x64 4 ((List.range 7).map (fun i => (getD k.preds i 0).toNat)) +
  packAt 0x80 1 (lanes.map (fun i => (groups[i]?).getD 0xFF)) +
  packAt 0xA0 4 (lanes.map (fun l => if k.parked.getLsbD l then getD k.tid l 0 else 0xFFFFFFFF)) +
  packAt 0x120 8 (lanes.map (fun l => (k.pcOf l).toNat)) +
  packAt 0x220 8 (lanes.map (fun l => (k.meetOf l).toNat)) +
  packAt 0x320 16 (lanes.map (fun l => txBytes (k.txOf l))) +
  packAt 0x520 8 ((List.range 64).map (fun n => (k.sreg n).toNat)) +
  packAt 0x800 4 ((List.range ((s.cohGrd c).vregs * 32)).map (fun i => (getD k.regs i 0).toNat))

/-- The number of a block's record among those of its partition. -/
def State.blockNo (s : State) (b : Nat) : Nat :=
  let part := (s.grd (s.blk b).grid).part
  (s.blocks.filter (fun e => (s.grd e.2.grid).part == part)).findIdx (fun e => e.1 == b)

/-! ### The other sections of an image (R382, R384) -/

/-- Bytes of an image: offset, size, value. -/
abbrev ImgPart := Nat × Nat × Nat

/-- Bits as a number, least significant first. -/
def bitsNat (n : Nat) (f : Nat → Bool) : Nat := (List.range n).foldr (fun i acc => (if f i then 1 else 0) + 2 * acc) 0

/-- What an op-table entry does, as a number. -/
def CmdState.code : CmdState → Nat
  | .queued => 0 | .running => 1 | .pageFault _ => 2 | .landing => 3 | .awaiting => 4 | .free => 5 | .ended _ => 6

/-- An op-table entry, 64 bytes: generation, state and status, owner, command word, four descriptor registers, progress. -/
def State.optImage (s : State) (o : Opt) : Nat :=
  packAt 0 8 ([o.gen % 2 ^ 12 + (if o.busy then 2 ^ 12 else 0) + o.st.code * 2 ^ 13 + o.status.toNat * 2 ^ 32,
    (s.coh o.coh).idx + s.blockNo o.block * 2 ^ 8, (encode o.instr).toNat] ++
    (List.range 4).map (fun i => (o.d i).toNat) ++ [o.prog])

/-- An order-buffer entry, 32 bytes (R194): the location, the operand, who issued it, the operation. -/
def BufEnt.image (e : BufEnt) : Nat :=
  packAt 0 8 [e.pa, e.x.toNat, e.blk % 2 ^ 32 + e.coh % 2 ^ 8 * 2 ^ 32 + e.lane % 2 ^ 8 * 2 ^ 40,
    e.idx % 2 ^ 32 + e.op.code.toNat * 2 ^ 32 + e.ty.code.toNat * 2 ^ 40 + e.ord.code.toNat * 2 ^ 48 + e.sc.code.toNat * 2 ^ 56]

/-- A ring, 72 bytes (R222). -/
def Ring.image (r : Ring) : Nat := packAt 0 4 (r.c.toNat :: (List.range 16).map (fun i => ((r.h[i]?).getD 0).toNat) ++ [r.cursor])

/-- A cluster record: four barriers of 2 KiB. -/
def Placed.image (p : Placed) : List ImgPart :=
  (List.range 4).flatMap (fun i =>
    match look p.bars i with
    | none => [(2048 * i, 2048, 0)]
    | some b => [(2048 * i, 1024, if b.parity then 1 else 0), (2048 * i + 0x400, 1024, b.arrived.toNat)])

/-- The bytes of a block's scratchpad (R51, R384). -/
def State.scrOf (s : State) (b : Block) : List Host.Cell :=
  let base := b.core * 0x180000 + b.scrRow * 2048
  let n := (s.grd b.grid).scrRows * 2048
  (s.bank.filter (fun c => base ≤ c.1 && c.1 < base + n)).map (fun c => (c.1 - base, c.2))

/-- Bytes of a block record (R384). -/
def Grid.blockBytes (g : Grid) : Nat := 0x3000 + 2048 * (g.scrRows + g.spRows)

/-- A block record (R384). -/
def State.blockImage (s : State) (b : Nat) : List ImgPart :=
  let k := s.blk b
  let g := s.grd k.grid
  let mask := bitsNat 32 (fun i => s.cohorts.any (fun e => e.2.block == b && e.2.idx == i && e.2.place != .evicted && !e.2.isOver))
  -- what lies in the overflow area stands in memory already (R165)
  let held := k.spawnQ.filter (fun e => e.ovf.isNone)
  let flush := bitsNat 16 (fun i => (k.lists[i]?).any (fun x => x.2))
  let head := packAt 0 8 [k.blk % 2 ^ 32 + k.core * 2 ^ 32 + k.rank * 2 ^ 42, g.serial + mask * 2 ^ 32,
    held.length % 2 ^ 32 + flush * 2 ^ 32]
  let bars := (List.range 16).map (fun i =>
    let at_ := 0x1000 + 512 * i
    match look k.bars i with
    | none => ((at_, 512, 0) : ImgPart)
    | some x => (at_, 512, (if x.parity then 1 else 0) + x.arrived.toNat * 2 ^ (8 * 0x080) + x.pending.toNat * 2 ^ (8 * 0x100) +
        x.recd.toNat * 2 ^ (8 * 0x180)))
  let scr := 2048 * g.scrRows
  [(0, 0x100, head), (0x100, 0x80, packAt 0 8 (k.lists.map (fun x => x.1.toNat))), (0x180, 0x680, 0),
    (0x800, 0x800, bitsNat 16384 (fun i => i < 32 * g.scrRows && (look k.absent i).isNone))] ++ bars ++
    (upto 0 g.scrRows).map (fun r => (0x3000 + 2048 * r, 2048, getBytes s.bank (k.core * 0x180000 + (k.scrRow + r) * 2048) 2048)) ++
    (held.zipIdx).map (fun e => (0x3000 + scr + g.entrySize * e.2, g.entrySize, e.1.bytes k.blk))

/-- One section: its records one after another, each a size and its parts, from an offset. -/
def section_ (off : Nat) : List (Nat × List ImgPart) → List ImgPart
  | [] => []
  | (n, ps) :: t => ps.map (fun p => (off + p.1, p.2)) ++ section_ (off + n) t

def sectionSize (l : List (Nat × List ImgPart)) : Nat := l.foldl (fun n r => n + r.1) 0

/-- Cores that hold a partition. -/
def State.coresOf (s : State) (p : Nat) : List Nat :=
  sortOn id (((s.blocks.filter (fun b => (s.grd b.2.grid).part == p)).map (fun b => b.2.core)).eraseDups)

/-- The grids whose rings an image holds. -/
def State.ringGrids (s : State) (p : Nat) : List Nat :=
  (s.grids.filter (fun g => g.2.part == p && (g.2.state == .running || g.2.state == .draining))).map Prod.fst

/-- The cohorts whose records an image holds: those that have not ended and are not in the eviction area. -/
def State.imageCohs (s : State) (p : Nat) : List Nat :=
  (s.cohorts.filter (fun e => s.cohPart e.1 == p && e.2.place != .evicted && !e.2.isOver)).map Prod.fst

/-- The clusters and blocks of a partition. -/
def State.imagePlaced (s : State) (p : Nat) : List Nat :=
  (s.placed.filter (fun x => (s.grd x.2.grid).part == p)).map Prod.fst
def State.imageBlocks (s : State) (p : Nat) : List Nat :=
  (s.blocks.filter (fun b => (s.grd b.2.grid).part == p)).map Prod.fst

/-- Bytes of a cohort's record. -/
def State.cohBytes (s : State) (c : Nat) : Nat := 0x800 + (s.cohGrd c).vregs * 128

/-- The sections of a partition's image, in order: queue cursors, rings, cores, clusters, blocks, cohorts. -/
def State.imageSections (s : State) (p : Nat) : List (List (Nat × List ImgPart)) :=
  let mine := fun (g : Nat) => (s.grd g).part == p
  let cursors := (List.range 256).map (fun q =>
    let d := s.queue p q
    (16, [(0, 16, packAt 0 8 [d.head, d.tail])]))
  let rings := (s.ringGrids p).map (fun g =>
    (64 * 72, (List.range 64).map (fun n => (72 * n, 72, (getD (s.grd g).rings n ⟨0, List.replicate 16 0, 0⟩).image))))
  let cores := (s.coresOf p).map (fun c =>
    let k := s.core c
    let ops := k.opt.filter (fun o => mine o.2.grid)
    let ents := (k.obuf ++ k.savedBuf).filter (fun e => mine e.grid)
    (16384 + 32 * ents.length,
      (List.range 256).map (fun i => (64 * i, 64, ((look ops i).map s.optImage).getD 0)) ++
        ents.zipIdx.map (fun e => (16384 + 32 * e.2, 32, e.1.image))))
  let clusters := (s.imagePlaced p).map (fun x => (8192, ((look s.placed x).map Placed.image).getD []))
  let blocks := (s.imageBlocks p).map (fun b => ((s.grd (s.blk b).grid).blockBytes, s.blockImage b))
  let cohs := (s.imageCohs p).map (fun c => (s.cohBytes c, [(0, s.cohBytes c, s.cohRecord c (s.blockNo (s.coh c).block))]))
  [cursors, rings, cores, clusters, blocks, cohs]

/-- The image of a partition (R382): the header, then the sections. -/
def State.image (s : State) (p : Nat) : List ImgPart :=
  let ss := s.imageSections p
  let at_ := ss.foldl (fun (a : List Nat × Nat) l => (a.1 ++ [a.2], a.2 + sectionSize l)) ([], 64)
  let head := packAt 0 8 ((getD s.shares (s.shareOf p) .blank).stop % 2 ^ 64 :: (ss.zip at_.1).map (fun x => x.1.length + x.2 * 2 ^ 32))
  (0, 64, head) :: (ss.zip at_.1).flatMap (fun x => section_ x.2 x.1)

/-! ### Writing -/

/-- Parts of an image are written at their homes; the traffic is charged to the partition (R382). -/
def State.putImage (s : State) (p base : Nat) (l : List ImgPart) : State :=
  l.foldl (fun (s : State) x =>
    (sectors (base + x.1) x.2.1).foldl (fun s k => s.charge p (64 * k) 1) (s.homeWrite (base + x.1) x.2.1 x.2.2 none)) s

/-- The image goes to the partition's save area, where Arbor has granted one. -/
def State.saveImage (s : State) (p : Nat) : State :=
  match look s.ctl.saveArea p with
  | some a =>
    let t := s.putImage p (s.norm a) (s.image p)
    { t with ctl := { t.ctl with images := set t.ctl.images p (s.norm a) } }
  | none => s

/-! ### Reading an image back (R386) -/

/-- Where the records of a section stand in an image at an address: its header gives the section's offset, the records
follow one another. -/
def State.recordsAt (s : State) (base n : Nat) (sizes : List Nat) : List Nat :=
  (sizes.foldl (fun (a : List Nat × Nat) x => (a.1 ++ [a.2], a.2 + x)) ([], base + getBytes s.mem (base + 8 * (n + 1) + 4) 4)).1

/-- The transaction state of a lane from its 16 bytes (R383). -/
def Tx.ofBytes (v : Nat) (t : Tx) : Tx :=
  { t with
    isOpen := pte v 0 1 == 1
    fb := pte v 1 1 == 1
    retry := pte v 2 1 == 1
    cls := pte v 8 8
    n := pte v 16 4
    fails := pte v 20 4
    code := BitVec.ofNat 8 (pte v 24 8)
    sub := BitVec.ofNat 8 (pte v 32 8)
    sreg := pte v 40 7
    exit := BitVec.ofNat 64 (pte v 64 64) }

/-- A cohort as its record in memory says (R383); of lanes that are held, the model's state tells those behind MEND from
those at a meeting. -/
def State.readCohort (s : State) (a : Nat) (k : Cohort) (vregs : Nat) : Cohort :=
  let rd := fun (off w i : Nat) => getBytes s.mem (a + off + w * i) w
  let mask := fun (off : Nat) => BitVec.ofNat 32 (rd off 4 0)
  let dw := fun (off i : Nat) => BitVec.ofNat 64 (rd off 8 i)
  let lanes := List.range 32
  let st := rd 0x20 4 0
  { k with
    pipe := pte (rd 0 8 0) 5 2
    restart := dw 8 0
    live := mask 0x10
    exited := mask 0x14
    parked := mask 0x18
    held := mask 0x1C &&& ~~~k.mendWait
    mendWait := mask 0x1C &&& k.mendWait
    nflags := BitVec.ofNat 5 st
    regionOpen := pte st 8 1 == 1
    detHolder := pte st 9 1 == 1
    path := mask 0x24
    memb := mask 0x28
    mend := dw 0x30 0
    rnt0 := BitVec.ofNat 128 (rd 0x38 16 0)
    rnt1 := BitVec.ofNat 128 (rd 0x38 16 1)
    preds := (List.range 7).foldl (fun m i => put m i (BitVec.ofNat 32 (rd 0x64 4 i)) 0) []
    tid := lanes.foldl (fun m l => if (mask 0x18).getLsbD l then set m l (rd 0xA0 4 l) else m) k.tid
    pc := lanes.foldl (fun m l => put m l (dw 0x120 l) 0) []
    meet := lanes.foldl (fun m l => put m l (dw 0x220 l) noMeet) []
    tx := k.tx.map (fun e => (e.1, e.2.ofBytes (rd 0x320 16 e.1)))
    sregs := (upto 1 63).foldl (fun m n => put m n (dw 0x520 n) 0) []
    regs := (List.range (vregs * 32)).foldl (fun m i => put m i (BitVec.ofNat 32 (rd 0x800 4 i)) 0) [] }

/-- A spawn entry from its words (R162). -/
def State.readSpawn (s : State) (a : Nat) (e : SpawnEnt) : SpawnEnt :=
  { e with
    target := BitVec.ofNat 64 (getBytes s.mem a 8)
    orig := getBytes s.mem (a + 8) 2 % 2 ^ 10
    vals := (List.range (getBytes s.mem (a + 10) 1)).map (fun i => BitVec.ofNat 32 (getBytes s.mem (a + 16 + 4 * i) 4)) }

/-- A block as its record in memory says (R384). Which command an absent line waits for stays as it is. -/
def State.readBlock (s : State) (a : Nat) (g : Grid) (k : Block) : Block :=
  let bits := fun (i off : Nat) => BitVec.ofNat 1024 (getBytes s.mem (a + 0x1000 + 512 * i + off) 128)
  let flush := getBytes s.mem (a + 20) 2
  let spawn := a + 0x3000 + 2048 * g.scrRows
  { k with
    lists := k.lists.zipIdx.map (fun e => (BitVec.ofNat 64 (getBytes s.mem (a + 0x100 + 8 * e.2) 8), pte flush e.2 1 == 1))
    bars := k.bars.map (fun e => (e.1, {
      parity := getBytes s.mem (a + 0x1000 + 512 * e.1) 1 % 2 == 1
      arrived := bits e.1 0x080
      pending := bits e.1 0x100
      recd := bits e.1 0x180 }))
    scr := (List.range g.scrRows).foldl (fun m r => putBytes m (2048 * r) 2048 (getBytes s.mem (a + 0x3000 + 2048 * r) 2048)) []
    spawnQ := (k.spawnQ.foldl (fun (acc : List SpawnEnt × Nat) e =>
      if e.ovf.isSome then (acc.1 ++ [e], acc.2)
      else (acc.1 ++ [s.readSpawn (spawn + g.entrySize * acc.2) e], acc.2 + 1)) ([], 0)).1 }

/-- A cluster's barriers as its record says (R382). -/
def State.readPlaced (s : State) (a : Nat) (x : Placed) : Placed :=
  { x with bars := x.bars.map (fun e => (e.1, {
      parity := getBytes s.mem (a + 2048 * e.1) 1 % 2 == 1
      arrived := BitVec.ofNat 8192 (getBytes s.mem (a + 2048 * e.1 + 0x400) 1024) })) }

/-- A grid's rings as its record says (R222, R382). -/
def State.readRings (s : State) (a : Nat) (g : Grid) : Grid :=
  { g with rings := g.rings.map (fun e =>
      let at_ := a + 72 * e.1
      (e.1, {
        c := BitVec.ofNat 32 (getBytes s.mem at_ 4)
        h := e.2.h.zipIdx.map (fun x => BitVec.ofNat 32 (getBytes s.mem (at_ + 4 + 4 * x.2) 4))
        cursor := getBytes s.mem (at_ + 68) 4 })) }

/-- The scrub sequencer reads a partition's image: rings, clusters, blocks, then cohorts (R386). What it reads is charged as
it is at the save. Queue cursors, op tables and order buffers return from the model's state (DESIGN CHOICE,
notes/assumptions/50.md). -/
def State.readImage (s : State) (p : Nat) : State :=
  match look s.ctl.images p with
  | none => s
  | some base =>
    let rings := (s.ringGrids p).zip (s.recordsAt base 1 ((s.ringGrids p).map (fun _ => 64 * 72)))
    let clus := (s.imagePlaced p).zip (s.recordsAt base 3 ((s.imagePlaced p).map (fun _ => 8192)))
    let blks := (s.imageBlocks p).zip (s.recordsAt base 4 ((s.imageBlocks p).map (fun b => (s.grd (s.blk b).grid).blockBytes)))
    let cohs := (s.imageCohs p).zip (s.recordsAt base 5 ((s.imageCohs p).map s.cohBytes))
    let t := { s with
      grids := rings.foldl (fun g e => upd g e.1 (s.readRings e.2)) s.grids
      placed := clus.foldl (fun g e => upd g e.1 (s.readPlaced e.2)) s.placed
      blocks := blks.foldl (fun g e => upd g e.1 (s.readBlock e.2 (s.grd (s.blk e.1).grid))) s.blocks
      cohorts := cohs.foldl (fun g e => upd g e.1 (fun k => s.readCohort e.2 k (s.cohGrd e.1).vregs)) s.cohorts }
    (cohs.map (fun e => (e.2, s.cohBytes e.1)) ++ blks.map (fun e => (e.2, (s.grd (s.blk e.1).grid).blockBytes))).foldl
      (fun (s : State) e => (sectors e.1 e.2).foldl (fun s k => s.charge p (64 * k) 1) s) t

/-- The record of a cohort, or that of its block, has an uncorrectable error in the save area (R386). -/
def State.badRecord (s : State) (p c : Nat) : Bool :=
  match look s.ctl.images p with
  | none => false
  | some base =>
    let here := fun (n : Nat) (ids : List Nat) (size : Nat → Nat) (x : Nat) =>
      (ids.zip (s.recordsAt base n (ids.map size))).any (fun e => e.1 == x && s.badAt e.2 (size x))
    !s.svc.bad.isEmpty && (here 5 (s.imageCohs p) s.cohBytes c ||
      here 4 (s.imageBlocks p) (fun b => (s.grd (s.blk b).grid).blockBytes) (s.coh c).block)

/-- Bytes of one place of an eviction area: a cohort's record and its wake condition. -/
def areaSlot : Nat := 0x5000

/-- An evicted cohort's state and its register rows stand in the partition's eviction area, and follow what arrives for it
there (R190). -/
def State.keepArea (s : State) (c : Nat) : State :=
  let k := s.coh c
  if k.place ≠ .evicted then s
  else
    match look s.ctl.evictArea (s.cohPart c) with
    | none => s
    | some a =>
      s.putImage (s.cohPart c) (s.norm a + areaSlot * k.area) [(0, 0x4800, s.cohRecord c (s.blockNo k.block))]

/-- The lowest place of a partition's eviction area that no evicted cohort has. -/
def State.freeArea (s : State) (p : Nat) : Nat :=
  let used := (s.cohorts.filter (fun e => e.2.place == .evicted && s.cohPart e.1 == p)).map (fun e => e.2.area)
  ((List.range (used.length + 1)).find? (fun n => !used.contains n)).getD 0

end Sys2Proof.Machine
end

