-- ==== Sys2Proof/Machine/Queues.lean ====
section
/-! DEFINITION. Queue words, opcodes 0x4E to 0x50 (R334 to R338), and AMAX and SRING, opcode 0x66 (R363). -/

namespace Sys2Proof.Machine

/-- The queue that a word names (R313): computed once; above 255 is subcode 7. -/
def State.queueNo (s : State) (base : Opnd) (q : BitVec 8) (run : LaneMask) : Nat :=
  (s.val s.cur.coh base true (lowLane run)).toNat + q.toNat

/-- What a queue word needs. -/
def queueNeed (m : MArgs) (regs : List (Opnd × Nat)) (src : List Opnd) (op : BitVec 8) : Need :=
  { memNeed m regs src with disallow := some op }

/-- The parts of a queue word's lanes, with the data that they push. -/
def queueAcc (ls : List Nat) (x : Nat → BitVec 128) : List (Nat × LaneAcc) := ls.map (fun l => (l, ⟨0, [], x l, 0, 0⟩))

/-- QPUSH (R335). -/
def execQpush (m : MArgs) (st x : Opnd) (q : BitVec 8) (s : State) : Host.Outcome State Fault Refusal :=
  .next (s.issue (queueNeed m [(st, 1), regTy x m.ty] [x] 0x4E) fun t run =>
    let n := t.queueNo m.base q run
    if 255 < n then t.illegal run 7
    else
      let c := t.cur.coh
      let t := if isRel m.ord then t.modCoh c Cohort.flushRegs else t
      let data := fun l => BitVec.ofNat 128 ((t.dataOf x m.ty l).toNat % 2 ^ (8 * m.ty.bytes))
      let dst := if st.isV then t.dstOf c st 1 run else []
      t.begin_ ⟨.qpush n, m.ty, m.ord, m.sc, t.flagOf m.f, dst, 0, 0⟩ (queueAcc (lanesOf run) data))

/-- QPOP (R336): with WAIT the group waits until every active lane has a status. The status is word 4 of a lane's
result. With an s-register destination it takes one entry for the group (R238). -/
def execQpop (m : MArgs) (d st : Opnd) (wait : Bool) (q : BitVec 8) (s : State) : Host.Outcome State Fault Refusal :=
  .next (s.issue (queueNeed m [regTy d m.ty, (st, 1)] [] 0x4F) fun t run =>
    let n := t.queueNo m.base q run
    if 255 < n then t.illegal run 7
    else
      let c := t.cur.coh
      let sts := if st.isV then (t.dstOf c st 1 run).map (fun e => (e.1, e.2.1, 4)) else []
      let dst := (t.dstOf c d (wordsTy m.ty) run).filter (fun e => !sts.any (fun x => x.1 == e.1)) ++ sts
      let u := t.begin_ ⟨.qpop n, m.ty, m.ord, m.sc, t.flagOf m.f, dst, if wait then t.cur.lanes else 0,
        if d.isV then 0 else run⟩ (queueAcc (lanesOf (once d run)) (fun _ => 0))
      if wait then u.drop u.cur.lanes else u)

/-- QCNT (R337): once for the group. -/
def execQcnt (m : MArgs) (d : Opnd) (q : BitVec 8) (s : State) : Host.Outcome State Fault Refusal :=
  let w := if m.ty = .b64 then 2 else 1
  .next (s.issue (queueNeed m [(d, w)] [] 0x50) fun t run =>
    let n := t.queueNo m.base q run
    if 255 < n then t.illegal run 7
    else
      t.begin_ ⟨.qcnt n, m.ty, m.ord, m.sc, t.flagOf m.f, t.dstOf t.cur.coh d w run, 0, run⟩
        (queueAcc [lowLane run] (fun _ => 0)))

/-- The largest non-NaN magnitude of some FP32 values, and the flag of a NaN (R222, R363). -/
def amaxOf (xs : List FVal) : Word × NFlags :=
  xs.foldl (fun (a : Word × NFlags) x =>
    match x with
    | .nan _ => (a.1, a.2 ||| fIV)
    | v =>
      let b := BitVec.ofNat 32 (Fmt.fp32.conv .rne (if v.neg then v.flip else v)).1
      (if a.1.toNat < b.toNat then b else a.1, a.2)) (0, 0)

/-- AMAX (R363): one RMW of the ring for the group. -/
def execAmax (g : Guard) (f : FlagSel) (a : Opnd) (ring : BitVec 6) (adv : Bool) (s : State) :
    Host.Outcome State Fault Refusal :=
  .next (s.issue { Need.of g [] [(a, 1)] with flag := f, disallow := some 0x66 } fun t run =>
    if (t.cohGrd t.cur.coh).nring ≤ ring.toNat then t.illegal run 7
    else
      let v := amaxOf ((lanesOf run).map (fun l => t.fval t.cur.coh a .fp32 false l))
      t.begin_ ⟨.amax ring.toNat adv, .b32, .rlx, .pkg, t.flagOf f, [], 0, run⟩
        [(lowLane run, ⟨0, [], v.1.zeroExtend 128, v.2.zeroExtend 128, 0⟩)])

/-- SRING (R363). -/
def execSring (g : Guard) (f : FlagSel) (d : Opnd) (ring : BitVec 6) (s : State) : Host.Outcome State Fault Refusal :=
  .next (s.issue { Need.of g [(d, 1)] [] with flag := f, disallow := some 0x66 } fun t run =>
    if (t.cohGrd t.cur.coh).nring ≤ ring.toNat then t.illegal run 7
    else
      t.begin_ ⟨.sring ring.toNat, .b32, .rlx, .pkg, t.flagOf f, t.dstOf t.cur.coh d 1 run, 0, run⟩
        [(lowLane run, ⟨0, [], 0, 0, 0⟩)])

end Sys2Proof.Machine
end

