-- ==== Sys2Proof/Machine/EngineRun.lean ====
section
/-! DEFINITION. Engine commands as they are performed: memory accesses of engines (R48, R114, R115, R354), copies and fills
(R350 to R355), claims (R349), the matrix engine (R357 to R360), quantisation (R361, R362), PUT, GET and COLL (R392 to
R397), and completion (R62 to R64, R342, R343, R364). -/

namespace Sys2Proof.Machine

def State.optOf (s : State) (core slot : Nat) : Option Opt := look (s.core core).opt slot
def State.modOpt (s : State) (core slot : Nat) (f : Opt → Opt) : State :=
  s.modCore core (fun k => { k with opt := upd k.opt slot f })

def State.optPart (s : State) (o : Opt) : Nat := (s.grd o.grid).part

/-! ### Accesses -/

/-- The entry of a command in the op table, or among those that a tenant switch has saved. -/
def State.isLive (s : State) (core slot : Nat) (o : Opt) : Bool := (s.optOf core slot).any (fun x => x.seq == o.seq)

/-- A command's entry changes, wherever it stands. -/
def State.setOpt (s : State) (core slot : Nat) (o : Opt) (f : Opt → Opt) : State :=
  if s.isLive core slot o then s.modOpt core slot f
  else s.modCore core (fun k => { k with saved := k.saved.map (fun e => if e.2.2.seq = o.seq then (e.1, e.2.1, f e.2.2) else e) })

/-- How a part of a command ends: done, a status, a not-present page, waiting for a region move, or for a port (R12). -/
inductive EngOut where
  | ok
  | stop (code detail : Nat) (va : Nat) (level access : Nat)
  | hold (va level access : Nat)
  | wait
  | busy
  deriving DecidableEq, Repr

/-- The port on which a PUT or GET sends or asks for a byte of its payload: chunks of 4 KiB go round the ports in service from
the number of its slot on; the record goes with the last chunk (R389). -/
def State.cmdPort (s : State) (core : Nat) (o : Opt) (va : Nat) : Option Nat :=
  let slot := (((s.core core).opt.find? (fun e => e.2.seq == o.seq)).map Prod.fst).getD 0
  let from_ := match o.instr with | .put _ _ _ => o.d 1 | _ => o.d 0
  let off := (BitVec.ofNat 64 va - from_).toNat
  s.portList[(slot + min off (lo32n (o.d 2) - 1) / 4096) % s.portList.length]?

/-- The routes of bytes that lie on another package. -/
def State.engRoutes (s : State) (core : Nat) (o : Opt) (va : Nat) (gs : List Seg) : List (Nat × Option Nat) :=
  (gs.filter (fun (g : Seg) => g.loc == Loc.mem && !s.isLocal g.a)).map (fun g => (paPkg g.a, s.cmdPort core o va))

/-- Where some bytes lie for a command (R354): `remote` for the remote side of PUT and GET (R392). -/
def State.engWhere (s : State) (core : Nat) (o : Opt) (remote : Bool) (kind va n : Nat) : EngOut × List Seg :=
  let g := s.grd o.grid
  if n = 0 then (.ok, [])
  else if canonical va && isWindow va then
    let r := s.winSeg (s.blk o.block) kind va n
    match r.2 with
    | some q => if remote then (.stop 1 0x16 va 15 kind, []) else (.ok, [q])
    | none => if r.1 = 0x1B then (.stop 4 0 va 15 kind, []) else (.stop 1 r.1 va 15 kind, [])
  else
    (s.pages (some core) g.part g.tctx kind va n).foldl (fun (acc : EngOut × List Seg) p =>
      if acc.1 ≠ .ok then acc
      else
        match p.1 with
        | .mv =>
          -- 40 µs after the command met it, with no move of the region in progress (R37)
          if o.mv.any (fun t => t + 40000 ≤ s.time) && !s.moving g.tctx p.2.1 then (.stop 1 0x15 p.2.1 0 kind, []) else (.wait, [])
        | .bad c l => (if c = 1 then .hold p.2.1 l kind else .stop 1 c p.2.1 l kind, [])
        | .ok pa tier =>
          let far := tier == 3 && !s.isLocal pa
          if far ≠ remote then (.stop 1 0x16 p.2.1 15 kind, [])
          -- no port is in service, or something sent before on the port is still on its way (R12, R389)
          else if far ∧ (s.portList = [] ∨ s.routeBusy (fun _ => true) (paPkg pa, s.cmdPort core o va)) then (.busy, [])
          else (.ok, acc.2 ++ [⟨.mem, pa, p.2.2, false⟩])) (.ok, [])

/-- A walk of an engine fills the TLBs as any other (R36, R39). -/
def State.engWalk (s : State) (core : Nat) (o : Opt) (va n : Nat) : State := s.fillSpan core (s.grd o.grid).tctx va n

/-- Engine writes on their way to some bytes are performed first, with all that were issued before them. -/
def State.drainFor (s : State) (gs : List Seg) : State :=
  if s.ewr.any (fun w => gs.any (fun g => g.loc == Loc.mem && g.a < w.pa + w.n && w.pa < g.a + g.n)) then
    s.drainWrites (fun _ => true)
  else s

/-- The release bit of a command is set: its writes are performed before it completes (R115). -/
def Opt.rel (o : Opt) : Bool := (eargsOf o.instr).any (fun e => e.rel)

/-- Bytes of a segment that an engine writes: at the home, where they may arrive after the command's completion if its release
bit is clear (R115). -/
def State.engSend (s : State) (core : Nat) (o : Opt) (va : Nat) (gs : List Seg) (v : Nat) : State :=
  let part := s.optPart o
  match gs with
  | [g] =>
    if g.loc == Loc.mem && !o.rel && Config.lags s.fresh then
      let route := if s.isLocal g.a then none else (s.cmdPort core o va).map (fun p => (paPkg g.a, p))
      ({ s with ewr := s.ewr ++ [⟨core, part, g.a, g.n, v % 2 ^ (8 * g.n), route⟩] } : State).next
    else (s.drainFor gs).next.writeSegs ⟨o.coh, core, part⟩ .pkg gs v
  | _ => (s.drainFor gs).next.writeSegs ⟨o.coh, core, part⟩ .pkg gs v

/-- Engine reads are performed at the home (R114); with the acquire bit they pull release sets (R106, R115). -/
def State.engGet (s : State) (core : Nat) (o : Opt) (remote : Bool) (va n : Nat) : EngOut × Nat × State :=
  let r := s.engWhere core o remote 5 va n
  if r.1 ≠ .ok then (r.1, 0, s)
  else
    match r.2.find? s.segBad with
    | some g => (.stop 5 0 va 15 5, 0, s.logSeg (s.optPart o) core g false)
    | none =>
      let s := ((s.engWalk core o va n).drainFor r.2).drainRoutes (s.engRoutes core o va r.2)
      let s := match eargsOf o.instr with
        | some e =>
          if e.acq ∧ e.sc ≠ Scope.blk then
            s.pullAll (s.tagsAt ((r.2.filter (fun (g : Seg) => g.loc == Loc.mem)).flatMap (fun (g : Seg) => sectors g.a g.n))
              (.simt core (s.blk o.block).placed o.block e.sc))
          else s
        | none => s
      let v := s.readSegs ⟨o.coh, core, s.optPart o⟩ .pkg r.2
      (.ok, v.1, v.2)

/-- The saved scratchpad in which a window address lies, while its block is switched out: the block and the offset. -/
def State.savedScr (s : State) (o : Opt) (va : Nat) : Option (Nat × Nat) :=
  let b := s.blk o.block
  let off := va % 2 ^ 48
  let at_ := if va / 2 ^ 48 = 0xF0 then some (o.block, off)
    else if va / 2 ^ 48 = 0xF1 then
      (if off / 2 ^ 21 = b.rank then some o.block else (s.blkOfRank b.placed (off / 2 ^ 21)).map Prod.fst).map
        (fun k => (k, off % 2 ^ 21))
    else none
  at_.bind (fun x => if (s.blk x.1).place = .saved then some x else none)

/-- Engine writes go to the home and invalidate clear-mask bytes of the own L1 (R114); into the scratchpad of a block that is
switched out, to its saved bytes (R402). -/
def State.engPut (s : State) (core : Nat) (o : Opt) (remote : Bool) (va n v : Nat) : EngOut × State :=
  let r := s.engWhere core o remote 6 va n
  if r.1 ≠ .ok then (r.1, s)
  else
    match s.savedScr o va with
    | some x => (.ok, s.modBlk x.1 (fun b => { b with scr := putBytes b.scr x.2 n v }))
    | none =>
    let s := (s.engWalk core o va n).drainRoutes (s.engRoutes core o va r.2)
    let s := s.engSend core o va r.2 v
    let ss := (r.2.filter (fun (g : Seg) => g.loc == Loc.mem)).flatMap (fun (g : Seg) => sectors g.a g.n)
    (.ok, s.l1Stale core (s.optPart o) ss)

/-- Reads arrays in order until one fails. -/
def State.engReads (core : Nat) (o : Opt) : List (Nat × Nat) → State → EngOut × List Nat × State
  | [], s => (.ok, [], s)
  | a :: t, s =>
    let r := s.engGet core o false a.1 a.2
    if r.1 ≠ .ok then (r.1, [], r.2.2)
    else
      let q := State.engReads core o t r.2.2
      (q.1, r.2.1 :: q.2.1, q.2.2)

/-- Bytes of a line that has already landed are not written again. -/
def Opt.isLanded (o : Opt) (b : Block) (va n : Nat) : Bool := (ownLines b va n).any (fun x => o.landed.contains x)

/-- Writes values in order from number `p` until one fails: how it ended, how many are done. -/
def State.engWrites (core : Nat) (o : Opt) : List (Nat × Nat × Nat) → Nat → State → EngOut × Nat × State
  | [], p, s => (.ok, p, s)
  | a :: t, p, s =>
    let r := s.engPut core o false a.1 a.2.1 a.2.2
    if r.1 ≠ .ok then (r.1, p, r.2) else State.engWrites core o t (p + 1) r.2

/-- A row cut at the 64-byte lines of its destination. -/
def splitRow : Nat → Nat → Nat → Nat → List (Nat × Nat × Nat)
  | 0, _, _, _ => []
  | f + 1, src, dst, n =>
    if n = 0 then []
    else
      let k := min n (64 - dst % 64)
      (src, dst, k) :: splitRow f ((src + k) % 2 ^ 64) ((dst + k) % 2 ^ 64) (n - k)

/-- The pieces of a copy, in order. -/
def Opt.pieces (o : Opt) : List (Nat × Nat × Nat) :=
  match o.instr with
  | .put _ _ _ => splitRow (lo32n (o.d 2) / 64 + 2) (o.d 0).toNat (o.d 1).toNat (lo32n (o.d 2))
  | .get _ _ _ => splitRow (lo32n (o.d 2) / 64 + 2) (o.d 0).toNat (o.d 1).toNat (lo32n (o.d 2))
  | _ => o.rows.flatMap (fun r => splitRow (r.2.2 / 64 + 2) r.1 r.2.1 r.2.2)

/-- Copies pieces in order from number `p` until one fails (R352). -/
def State.copyRun (core : Nat) (o : Opt) (rs rd : Bool) : List (Nat × Nat × Nat) → Nat → State → EngOut × Nat × State
  | [], p, s => (.ok, p, s)
  | a :: t, p, s =>
    if o.isLanded (s.blk o.block) a.2.1 a.2.2 then State.copyRun core o rs rd t (p + 1) s
    else
      let r := s.engGet core o rs a.1 a.2.2
      if r.1 ≠ .ok then (r.1, p, r.2.2)
      else
        let w := r.2.2.engPut core o rd a.2.1 a.2.2 r.2.1
        if w.1 ≠ .ok then (w.1, p, w.2) else State.copyRun core o rs rd t (p + 1) w.2

/-! ### Completion (R62 to R64, R342, R343) -/

/-- Cohorts that waited for lines are freed once every one of them is present (R63). -/
def State.unpark (s : State) : State :=
  { s with cohorts := s.cohorts.map (fun e =>
      if e.2.absent.isEmpty then e
      else (e.1, { e.2 with absent := e.2.absent.filter (fun a => (look (s.blk a.1).absent a.2).isSome) })) }

/-- A command completes: its status goes to its handle register if that still is its handle, its lines are present. -/
def State.finishCmd (s : State) (core slot code detail : Nat) : State :=
  match s.optOf core slot with
  | none => s
  | some o =>
    let st := code * 256 + detail
    let s := s.modOpt core slot (fun o => { o with
      busy := false
      st := .free
      status := BitVec.ofNat 32 st
      doneSeq := s.fresh })
    let s := s.next
    let s := s.modCoh o.coh (fun k =>
      if look k.handles o.dreg = some slot then
        let k := k.setS o.dreg (BitVec.ofNat 64 st)
        { k with relS := if o.relWide then o.dreg :: k.relS else k.relS }
      else k)
    let s := s.modBlk o.block (fun b => { b with absent := b.absent.filter (fun e => e.2 ≠ o.seq) })
    (s.keepArea o.coh).unpark.settleBlk o.block

/-- A record of an engine command (R48, R371). -/
def State.engRecord (s : State) (core slot : Nat) (o : Opt) (cause level access va : Nat) : Nat × State :=
  s.record o.coh 0 o.pc ⟨2, cause, 0, access, level, BitVec.ofNat 64 (va / 2 ^ 16 * 2 ^ 16), 0⟩
    (handleOf o.eng o.gen slot) core slot

/-- Bytes that a command did not deliver to the own scratchpad hold their old value or what it would have written
(R64). -/
def State.engJunk (s : State) (core : Nat) (o : Opt) (l : List (Nat × Nat × Nat)) : State :=
  l.foldl (fun s a =>
    if (ownLines (s.blk o.block) a.2.1 a.2.2).isEmpty ∨ o.isLanded (s.blk o.block) a.2.1 a.2.2 then s
    else
      let r := s.engGet core o false a.1 a.2.2
      if r.1 ≠ .ok then s
      else
        let n := s.fresh
        let s := { r.2.2 with fresh := r.2.2.fresh + a.2.2 }
        (List.range a.2.2).foldl (fun s i =>
          if Config.delivered (n + i) then (s.engPut core o false (a.2.1 + i) 1 (r.2.1 / 2 ^ (8 * i) % 256)).2 else s) s) s

/-- A command has ended with a status; one that is switched out completes its future at the restore (R402). -/
def State.cmdDone (s : State) (core slot : Nat) (o : Opt) (code detail : Nat) : State :=
  if s.isLive core slot o then s.finishCmd core slot code detail
  else s.setOpt core slot o (fun o => { o with st := .ended (code * 256 + detail), fin := none })

/-- How a command goes on after a part of it: completion, a status, a page fault that holds it, or waiting. One that is
switched out meets neither a page fault nor a wait: it goes on when it is back. -/
def State.engEnd (s : State) (core slot : Nat) (o : Opt) (r : EngOut) (prog : Nat) : State :=
  match r with
  | .ok => s.cmdDone core slot o 0 0
  | .stop c d va l a =>
    let s := if c = 1 then ((s.forget d (s.grd o.grid).tctx va).engRecord core slot o d l a va).2 else s
    s.cmdDone core slot o c d
  | .hold va l a =>
    if !s.isLive core slot o then s
    else
      let t := s.engRecord core slot o 0x01 l a va
      t.2.modOpt core slot (fun o => { o with st := .pageFault t.1, prog := prog, mv := none })
  | .wait =>
    if !s.isLive core slot o then s
    else
      let s := s.tick
      s.modOpt core slot (fun o => { o with
        st := .running
        prog := prog
        mv := if o.prog = prog then some (o.mv.getD s.time) else some s.time })
  | .busy =>
    if !s.isLive core slot o then s else s.modOpt core slot (fun o => { o with st := .running, prog := prog, mv := none })

/-- Of some writes that a command has not delivered, each byte holds its old value or what it would have written; `scr` where
only those to the own scratchpad may (R64, R366). -/
def State.putJunk (s : State) (core : Nat) (o : Opt) (scr : Bool) (l : List (Nat × Nat × Nat)) : State :=
  l.foldl (fun (s : State) a =>
    if scr ∧ (ownLines (s.blk o.block) a.1 a.2.1).isEmpty then s
    else
      let n := s.fresh
      (List.range a.2.1).foldl (fun (s : State) i =>
        if Config.delivered (n + i) then (s.engPut core o false ((a.1 + i) % 2 ^ 64) 1 (a.2.2 / 2 ^ (8 * i) % 256)).2 else s)
        { s with fresh := s.fresh + a.2.1 }) s

/-- The same with undelivered scratchpad bytes. -/
def State.copyEnd (s : State) (core slot : Nat) (o : Opt) (r : EngOut) (prog : Nat) : State :=
  match r with
  | .stop _ _ _ _ _ => (s.engJunk core o ((o.pieces).drop prog)).engEnd core slot o r prog
  | .ok => s.engEnd core slot o r prog
  | .hold _ _ _ => s.engEnd core slot o r prog
  | .wait => s.engEnd core slot o r prog
  | .busy => s.engEnd core slot o r prog

/-- How a command of the copy or matrix engine goes on that writes computed values, of which it has made those from number
`from_` to `r.2.1`: the flags of what it has done are raised now (R381). -/
def State.valuesEnd (s : State) (core slot : Nat) (o : Opt) (ws : List ((Nat × Nat × Nat) × NFlags)) (r : EngOut) (prog : Nat) :
    State :=
  let fl := ((ws.take prog).drop o.prog).foldl (fun (f : NFlags) w => f ||| w.2) 0
  let s := s.raiseGrid o.grid fl false
  let s := match r with
    | .stop _ _ _ _ _ => s.putJunk core o true ((ws.drop prog).map Prod.fst)
    | _ => s
  s.engEnd core slot o r prog

/-! ### When a command may be performed -/

/-- Accesses that its acquire bit waits for (R115). -/
def State.acqWaits (s : State) (o : Opt) : Bool :=
  match eargsOf o.instr with
  | some e => e.acq && s.ops.any (fun p => p.1 < o.seq && p.2.coh == o.coh && p.2.kind.isAccess && p.2.pendingFor o.lanes)
  | none => false

/-- An earlier command of the core that has not completed. -/
def State.earlier (s : State) (core : Nat) (o : Opt) (f : Opt → Bool) : Bool :=
  (s.core core).opt.any (fun e => e.2.busy && e.2.seq < o.seq && f e.2)

/-- A fill that has not landed (R350). -/
def Opt.fills (o : Opt) (n : Nat) : Bool := cmdSlotFill o.instr == some n && o.st != .landing

/-- A command that still has to read slot n. -/
def Opt.reads (o : Opt) (n : Nat) : Bool := o.all.any (fun i => (cmdSlotsRead i).contains n)

/-- The command stands in the matrix engine's queue. -/
def Opt.inMatrix (o : Opt) : Bool := o.busy && (o.eng == 2 || o.st == .landing)

/-- Slots and accumulators that a claim names (R349). -/
def Opt.claimSlots (o : Opt) : List Nat := (List.range 32).filter (fun i => o.maskA.testBit i)
def Opt.claimAccs (o : Opt) : List Nat := (List.range 8).filter (fun i => o.maskB.testBit i)

/-- Outcome of a claim as things stand: 0 granted, 1 to 3 refused with that detail, 4 waiting. -/
def State.claimNow (s : State) (core : Nat) (o : Opt) (try_ : Bool) (scu : Nat) : Nat :=
  let part := s.optPart o
  let cs := s.cshareOf (s.shareOf part)
  let u := scuUnits scu
  let need := u * (o.claimSlots.filter (fun n => (s.slot core part n).units == 0)).length
  let held := (List.range 32).foldl (fun m n => m + (s.slot core part n).units) 0
  -- units that are the cohort's own, and those that it asks for once the others are free: more the share never supplies
  let mine := fun (n : Nat) => (s.slot core part n).owner == some o.coh && (s.slot core part n).units != 0
  let own := (List.range 32).foldl (fun m n => if mine n then m + (s.slot core part n).units else m) 0
  let most := own + u * (o.claimSlots.filter (fun n => !mine n)).length
  let free := o.claimSlots.all (fun n => (s.slot core part n).owner.all (· == o.coh)) &&
    o.claimAccs.all (fun n => (s.acc core part n).owner.all (· == o.coh))
  if o.claimSlots.any (fun n => csNs cs ≤ n) ∨ o.claimAccs.any (fun n => csNa cs ≤ n) then 1
  else if csNu cs < most then 2
  else if free ∧ held + need ≤ csNu cs then 0
  else if try_ then 3 else 4

/-- An earlier-issued command holds this one back: a free waits for what names its resources (R349), a fill for those
that read its slot (R350). -/
def Opt.waitsOn (o e : Opt) : Bool :=
  e.seq < o.seq &&
    ((isFree o.instr && (o.claimSlots.any e.hasSlot || o.claimAccs.any e.hasAcc)) || (cmdSlotFill o.instr).any e.reads)

/-- A matrix command waits on no claim and no fill, and for no other command of its cohort (R350). A follow-on passes
what waits for it and what stands behind that (R355). -/
def State.matFree (s : State) (core : Nat) (o : Opt) : Bool :=
  let ahead := (s.core core).opt.filter (fun e => e.2.inMatrix && e.2.coh == o.coh && e.2.mseq < o.mseq)
  let mates := ahead.filter (fun e => !(ahead.any (fun x => x.2.waitsOn o && x.2.mseq ≤ e.2.mseq)))
  let reads := if o.st = .landing then (o.follow.map cmdSlotsRead).getD [] else cmdSlotsRead o.instr
  let fill := if o.st = .landing then none else cmdSlotFill o.instr
  mates.isEmpty &&
    !(reads.any (fun n => s.earlier core o (fun e => e.coh == o.coh && e.fills n))) &&
    !(fill.any (fun n => s.earlier core o (fun e => e.coh == o.coh && (e.reads n || e.fills n)))) &&
    (match o.instr with
     | .omclm _ _ _ t u => s.claimNow core o t u.toNat != 4
     | .omrel _ _ _ => !(s.earlier core o (fun e => e.coh == o.coh &&
         (o.claimSlots.any e.hasSlot || o.claimAccs.any e.hasAcc)))
     | _ => true)

/-- A matrix command could be performed if its own cohort's order alone counted. -/
def State.matReady (s : State) (core : Nat) (o : Opt) : Bool := s.matFree core o && !s.acqWaits o

/-- The command has begun: it is under way, or held at a page. -/
def Opt.begun (o : Opt) : Bool :=
  match o.st with
  | .running => true
  | .pageFault _ => true
  | .queued => false
  | .landing => false
  | .awaiting => false
  | .free => false
  | .ended _ => true

/-- A command is held back: matrix commands by their queue, where only one that waits on a claim or a fill is passed, and by one
that has begun, copies by an earlier one that cannot
start yet, fills by readers and claims, writers of scratchpad lines by earlier writers (R62, R350). -/
def State.cmdBlocked (s : State) (core : Nat) (o : Opt) : Bool :=
  if o.inMatrix then
    !(s.matReady core o) ||
      (s.core core).opt.any (fun e => e.2.inMatrix && e.2.seq != o.seq && e.2.st != .landing && e.2.begun) ||
      (s.core core).opt.any (fun e => e.2.inMatrix && e.2.coh != o.coh && e.2.mseq < o.mseq && !e.2.cancel && !e.2.fail &&
        s.matFree core e.2)
  else
    let lines := s.cmdLines o
    s.acqWaits o ||
      (o.eng == 1 && s.earlier core o (fun e => e.eng == 1 && !e.begun && e.st == .queued && e.landed.isEmpty && !e.cancel && s.acqWaits e)) ||
      (!lines.isEmpty && s.earlier core o (fun e => e.block == o.block && (s.cmdLines e).any lines.contains)) ||
      (match cmdSlotFill o.instr with
       | some n => s.earlier core o (fun e => e.coh == o.coh && (e.fills n || e.reads n || (isClaim e.instr && e.hasSlot n)))
       | none => false)

/-- A refused claim: what was queued on its resources is refused with it (R348). -/
def State.refuse (s : State) (core slot : Nat) (o : Opt) (code detail : Nat) : State :=
  let part := s.optPart o
  let lost := fun (e : Opt) => e.busy && e.coh == o.coh && o.seq < e.seq && !isClaim e.instr && !isFree e.instr &&
    (o.claimSlots.any (fun n => e.hasSlot n && (s.slot core part n).owner != some o.coh) ||
      o.claimAccs.any (fun n => e.hasAcc n && (s.acc core part n).owner != some o.coh))
  let s := s.modCore core (fun k => { k with
    opt := k.opt.map (fun e => if lost e.2 then (e.1, { e.2 with fail := true }) else e) })
  s.finishCmd core slot code detail

/-- OMCLM at the matrix engine (R349). -/
def State.runClaim (s : State) (core slot : Nat) (o : Opt) (try_ : Bool) (scu : Nat) : State :=
  let part := s.optPart o
  match s.claimNow core o try_ scu with
  | 0 =>
    let u := scuUnits scu
    let s := o.claimSlots.foldl (fun s n =>
      s.modSlot core part n (fun r => { r with owner := some o.coh, units := if r.units = 0 then u else r.units })) s
    let s := o.claimAccs.foldl (fun s n => s.modAcc core part n (fun r => { r with owner := some o.coh })) s
    s.finishCmd core slot 0 0
  | 4 => s
  | d => s.refuse core slot o 8 d

/-- OMREL (R349). -/
def State.runRelease (s : State) (core slot : Nat) (o : Opt) : State :=
  let part := s.optPart o
  let mine := fun (w : Option Nat) => w == some o.coh
  let s := (o.claimSlots.filter (fun n => mine (s.slot core part n).owner)).foldl (fun s n =>
    s.modSlot core part n (fun r => { r with owner := none, units := 0 })) s
  let s := (o.claimAccs.filter (fun n => mine (s.acc core part n).owner)).foldl (fun s n =>
    s.modAcc core part n (fun r => { r with owner := none })) s
  s.finishCmd core slot 0 0

/-! ### Elements -/

/-- The value of an element of a floating code or INT8. -/
def elemVal (code bits : Nat) : FVal :=
  match fmtOf code with
  | some f => f.dec bits
  | none =>
    let i := (BitVec.ofNat 8 bits).toInt
    .fin (i < 0) i.natAbs 0

/-- A value converted to a floating code or INT8: bits and flags (R209, R210). -/
def elemConv (code : Nat) (md : RMode) (v : FVal) : Nat × NFlags :=
  match fmtOf code with
  | some f => f.conv md v
  | none =>
    let r := toInt md.rnd md.r (-128) 127 v
    ((BitVec.ofInt 8 r.1).toNat, r.2)

/-- Mantissas packed m bits each, element 0 lowest (R212). -/
def packBits (m : Nat) (l : List Int) : Nat := l.foldr (fun x acc => (x % 2 ^ m).toNat + 2 ^ m * acc) 0

/-- Elements packed n bits each. -/
def packNats (n : Nat) (l : List Nat) : Nat := l.foldr (fun x acc => x % 2 ^ n + 2 ^ n * acc) 0

/-- How element e of a command rounds (R359). -/
def State.engMode (s : State) (o : Opt) (f : Nat) (jb e : Nat) : RMode :=
  let b := s.blk o.block
  let idx := b.blk * 2 ^ 42 + (s.coh o.coh).idx * 2 ^ 37 + (jb + e) % 2 ^ 32
  ⟨fsRnd f, fsSat f, false, if fsRnd f = .sr then srDraw (s.grd o.grid).seed idx else 0⟩

/-- The scale that a format's source forces (R213, R362); 0x400 stands for none. -/
def State.forcedScale (s : State) (o : Opt) (f : Nat) : Nat :=
  if !isBfp (fsCode f) then 0x400
  else if fsSrc f = 2 then fsScale f
  else if fsSrc f = 1 then
    let r := s.ring o.grid (fsRing f)
    if r.top = 0 then 0x400 else r.scale
  else 0x400

/-- The scale of a command's ring is read once, when it starts (R362): it is kept behind the descriptor. -/
def State.startScale (s : State) (core slot : Nat) (o : Opt) (f base : Nat) : Opt × State :=
  if o.desc.length ≤ base then
    let o' := { o with desc := o.desc ++ [BitVec.ofNat 64 (s.forcedScale o f)], st := .running }
    (o', s.modOpt core slot (fun _ => o'))
  else (o, s)

def forced (d : DWord) : Option Nat := if d.toNat = 0x400 then none else some d.toNat

/-- The largest magnitude of the sources, rounded up to FP32, folded into the ring (R362). -/
def State.foldRing (s : State) (o : Opt) (f : Nat) (vs : List FVal) : State :=
  if isBfp (fsCode f) ∧ fsSrc f = 1 then
    let a := vs.foldl (fun (m : Word) v =>
      match v with
      | .nan _ => m
      | v =>
        let b := BitVec.ofNat 32 (Fmt.fp32.conv ⟨.rup, false, false, 0⟩ (if v.neg then v.flip else v)).1
        if m.toNat < b.toNat then b else m) 0
    s.modRing o.grid (fsRing f) (fun r => r.fold a)
  else s

/-- Lists cut into runs of n. -/
def chunksOf {α : Type} (n : Nat) : Nat → List α → List (List α)
  | 0, _ => []
  | k + 1, l => if l.isEmpty then [] else l.take n :: chunksOf n k (l.drop n)

/-- BFP blocks of a list of values: scales, mantissas, flags. `e0` numbers the first element. -/
def State.bfpRun (s : State) (o : Opt) (f : Nat) (sc : Option Nat) (jb e0 : Nat) (vs : List FVal) :
    List (Nat × List Int) × NFlags :=
  let bs := blockSize (fsBsz f)
  let m := bfpM (fsCode f)
  let rs := (chunksOf bs (vs.length / bs + 1) vs).zipIdx.map (fun p =>
    bfpBlock m sc (fun i => s.engMode o f jb (e0 + p.2 * bs + i)) p.1)
  (rs.map (fun r => (r.1, r.2.1)), rs.foldl (fun a r => a ||| r.2.2) 0)

/-! ### The matrix engine -/

def Acc.at_ (a : Acc) (i j : Nat) : Word := getD a.elems (64 * i + j) 0

/-- Elements of an accumulator from a function of their number. -/
def accOf (f : Nat → Nat) : SMap Word :=
  (List.range 4096).filterMap (fun k => let w := BitVec.ofNat 32 (f k); if w = 0 then none else some (k, w))

/-- Row i of an accumulator as values. -/
def Acc.row (a : Acc) (i : Nat) : List FVal := (List.range 64).map (fun j => Fmt.fp32.dec (a.at_ i j).toNat)

/-- ACCLD (R357). -/
def State.runAccld (s : State) (core slot : Nat) (o : Opt) (code acc : Nat) : State :=
  let n := elemSize code
  let rows := (List.range 64).map (fun (i : Nat) => (addVa (o.d 0) (i * (o.d 1).toInt), 64 * n))
  let r := State.engReads core o rows s
  if r.1 ≠ .ok then r.2.2.engEnd core slot o r.1 0
  else
    let rowsV := r.2.1
    let el := fun k => Fmt.fp32.conv .rne (elemVal code (((rowsV[k / 64]?).getD 0) / 2 ^ (8 * n * (k % 64)) % 2 ^ (8 * n)))
    let fl := (List.range 4096).foldl (fun (f : NFlags) k => f ||| (el k).2) 0
    let s := r.2.2.modAcc core (s.optPart o) acc (fun a => { a with elems := accOf (fun k => (el k).1) })
    (s.raiseGrid o.grid (fl &&& fIV) false).finishCmd core slot 0 0

/-- What an ACCST writes, in order: rows, and the scales of each; with the flags of each row (R358). -/
def State.accstWrites (s : State) (core : Nat) (o : Opt) (f acc : Nat) : List ((Nat × Nat × Nat) × NFlags) :=
  let code := fsCode f
  let jb := lo32n (o.d 3)
  let a := s.acc core (s.optPart o) acc
  let rowVa := fun (i : Nat) => addVa (o.d 0) (i * (o.d 2).toInt)
  (List.range 64).flatMap (fun i =>
    if isBfp code then
      let bs := blockSize (fsBsz f)
      let m := bfpM code
      let r := s.bfpRun o f (forced (o.d 4)) jb (64 * i) (a.row i)
      [((rowVa i, 8 * m, packBits m (r.1.flatMap Prod.snd)), r.2),
        ((addVa (o.d 1) (i * 2 * (64 / bs) : Nat), 2 * (64 / bs), packNats 16 (r.1.map Prod.fst)), 0)]
    else
      let r := (List.range 64).map (fun j =>
        if code = 0 then ((a.at_ i j).toNat, (0 : NFlags))
        else elemConv code (s.engMode o f jb (64 * i + j)) (Fmt.fp32.dec (a.at_ i j).toNat))
      [((rowVa i, denseRow code, packNats (8 * elemSize code) (r.map Prod.fst)), r.foldl (fun x e => x ||| e.2) 0)])

/-- ACCST (R358). -/
def State.runAccst (s : State) (core slot : Nat) (o : Opt) (f acc : Nat) : State :=
  let st := s.startScale core slot o f 4
  let o := st.1
  let s := st.2
  let ws := s.accstWrites core o f acc
  let r := State.engWrites core o ((ws.map Prod.fst).drop o.prog) o.prog s
  let s := if r.1 = .ok then r.2.2.foldRing o f ((List.range 64).flatMap (s.acc core (s.optPart o) acc).row) else r.2.2
  s.valuesEnd core slot o ws r.1 r.2.1

/-- Bytes of a number into sparse data at consecutive keys. -/
def putRow (m : SMap Byte) (at_ n v : Nat) : SMap Byte :=
  (List.range n).foldl (fun m i => put m (at_ + i) (BitVec.ofNat 8 (v / 2 ^ (8 * i))) 0) m

/-- ACCMV (R358). -/
def State.runAccmv (s : State) (core slot : Nat) (o : Opt) (f acc dst : Nat) (h : Bool) : State :=
  let code := fsCode f
  let st := s.startScale core slot o f 1
  let o := st.1
  let s := st.2
  let jb := lo32n (o.d 0)
  let a := s.acc core (s.optPart o) acc
  let hn := if h then 1 else 0
  let r := (List.range 64).foldl (fun (x : Slot × NFlags) i =>
    if isBfp code then
      let bs := blockSize (fsBsz f)
      let m := bfpM code
      let r := s.bfpRun o f (forced (o.d 1)) jb (64 * i) (a.row i)
      let sb := scaleBytes code (fsBsz f)
      ({ x.1 with
          data := putRow x.1.data (i * 16 * m + 8 * m * hn) (8 * m) (packBits m (r.1.flatMap Prod.snd))
          scales := putRow x.1.scales (i * sb + 2 * (64 / bs) * hn) (2 * (64 / bs)) (packNats 16 (r.1.map Prod.fst)) },
        x.2 ||| r.2)
    else
      let r := (List.range 64).map (fun j =>
        elemConv code (s.engMode o f jb (64 * i + j)) (Fmt.fp32.dec (a.at_ i j).toNat))
      let n := elemSize code
      ({ x.1 with data := putRow x.1.data (i * 128 + 64 * hn) (64 * n) (packNats (8 * n) (r.map Prod.fst)) },
        r.foldl (fun y e => y ||| e.2) x.2)) (s.slot core (s.optPart o) dst, 0)
  let s := s.modSlot core (s.optPart o) dst (fun q => { q with data := r.1.data, scales := r.1.scales })
  let s := (s.foldRing o f ((List.range 64).flatMap a.row)).raiseGrid o.grid r.2 false
  s.finishCmd core slot 0 0

/-- Element k of a row of a tile (R347, R212). -/
def Slot.elem (r : Slot) (code bsz row k : Nat) : FVal :=
  let byte := fun (i : Nat) => (getD r.data i 0).toNat
  if isBfp code then
    let m := bfpM code
    let at_ := row * 16 * m + k * m / 8
    let w := (byte at_ + 256 * byte (at_ + 1)) / 2 ^ (k * m % 8) % 2 ^ m
    let q := row * scaleBytes code bsz + 2 * (k / blockSize bsz)
    let S := ((getD r.scales q 0).toNat + 256 * (getD r.scales (q + 1) 0).toNat) % 2 ^ 10
    bfpVal m S (BitVec.ofNat m w).toInt
  else
    let n := elemSize code
    elemVal code ((List.range n).foldr (fun i acc => byte (row * 128 + k * n + i) + 256 * acc) 0)

/-- One element of a product step (R218 to R220): groups of 64 in the floating path, one of 128 in the bit-plane path. -/
def productElem (bit : Bool) (a b : Slot) (fa ba fb bb i j : Nat) (c : Word) : Nat × NFlags :=
  let prod := fun k => fmulExact (a.elem fa ba i k) (b.elem fb bb j k)
  let step := fun (x : Nat × NFlags) (ks : List Nat) =>
    let r := Fmt.fp32.sum .rne false (Fmt.fp32.dec x.1 :: ks.map prod)
    (r.1, x.2 ||| r.2)
  let groups := if bit then [List.range 128] else if rowElems fa = 64 then [List.range 64] else [List.range 64, upto 64 64]
  groups.foldl step (c.toNat, 0)

/-- MMA and MMB (R360), from the formats checked at issue, which stand in the descriptor from register `d0`. -/
def State.runProduct (s : State) (core : Nat) (o : Opt) (i : Instr) (d0 : Nat) : State :=
  let part := s.optPart o
  let d := fun k => (o.d (d0 + k)).toNat
  match cmdSlotsRead i, cmdAcc i with
  | [x, y], some n =>
    let a := s.slot core part x
    let b := s.slot core part y
    let c := s.acc core part n
    let el := fun k => productElem (isMmb i) a b (d 0) (d 1) (d 2) (d 3) (k / 64) (k % 64) (c.at_ (k / 64) (k % 64))
    let fl := (List.range 4096).foldl (fun (f : NFlags) k => f ||| (el k).2) 0
    (s.modAcc core part n (fun r => { r with elems := accOf (fun k => (el k).1) })).raiseGrid o.grid fl false
  | _, _ => s

/-! ### Fills -/

/-- The rows of a CPYM's elements and scales (R355). -/
def Opt.fillRows (o : Opt) (code bsz : Nat) : List (Nat × Nat) :=
  (List.range 64).map (fun (r : Nat) => (addVa (o.d 0) (r * lo32 (o.d 2)), rowBytes code)) ++
    (if isBfp code then
      (List.range 64).map (fun (r : Nat) => (addVa (o.d 1) (r * lo32 (o.d 3)), scaleBytes code bsz))
    else [])

/-- A fill lands (R355): the slot takes its bytes; a follow-on joins the matrix engine's queue. -/
def State.runFill (s : State) (core slot : Nat) (o : Opt) (f dst : Nat) : State :=
  let code := fsCode f
  let r := State.engReads core o (o.fillRows code (fsBsz f)) s
  if r.1 ≠ .ok then r.2.2.engEnd core slot o r.1 0
  else
    let vs := r.2.1
    let data := (List.range 64).foldl (fun m i => putRow m (i * rowBytes code) (rowBytes code) ((vs[i]?).getD 0)) []
    let sb := scaleBytes code (fsBsz f)
    let scales := (List.range 64).foldl (fun m i => putRow m (i * sb) sb ((vs[64 + i]?).getD 0)) []
    let keep := fun (q : Slot) => { q with
      data := data ++ q.data.filter (fun e => 64 * rowBytes code ≤ e.1)
      scales := if isBfp code then scales ++ q.scales.filter (fun e => 64 * sb ≤ e.1) else q.scales }
    let s := r.2.2.modSlot core (s.optPart o) dst keep
    if o.follow.isSome then (s.modOpt core slot (fun o => { o with st := .landing, mseq := s.fresh })).next
    else s.finishCmd core slot (if o.lostFollow then 3 else 0) 0

/-! ### Quantisation (R361, R362) -/

/-- The values that a QNT reads. -/
def State.qntRead (s : State) (core : Nat) (o : Opt) (wt : Nat) : EngOut × List FVal × State :=
  let w := elemSize wt
  let r := State.engReads core o ((List.range (lo32n (o.d 3))).map (fun (i : Nat) => (addVa (o.d 0) (i * w : Nat), w))) s
  (r.1, r.2.1.map (elemVal wt), r.2.2)

/-- What it writes for them, with flags: elements, or the mantissas and the scale of each block. -/
def State.qntWrites (s : State) (o : Opt) (f : Nat) (vs : List FVal) : List ((Nat × Nat × Nat) × NFlags) :=
  let code := fsCode f
  let jb := lo32n (o.d 4)
  if isBfp code then
    let m := bfpM code
    let bs := blockSize (fsBsz f)
    let k := bs * m / 8
    ((chunksOf bs (vs.length / bs + 1) vs).zipIdx).flatMap (fun c =>
      let b := s.bfpRun o f (forced (o.d 5)) jb (bs * c.2) c.1
      (b.1.take 1).flatMap (fun p => [((addVa (o.d 1) (c.2 * k : Nat), k, packBits m p.2), b.2),
        ((addVa (o.d 2) (2 * c.2 : Nat), 2, p.1), 0)]))
  else
    let e := elemSize code
    (vs.zipIdx).map (fun p =>
      let c := elemConv code (s.engMode o f jb p.2) p.1
      ((addVa (o.d 1) (p.2 * e : Nat), e, c.1), c.2))

/-- QNT. -/
def State.runQnt (s : State) (core slot : Nat) (o : Opt) (f wt : Nat) : State :=
  let st := s.startScale core slot o f 5
  let o := st.1
  let r := st.2.qntRead core o wt
  if r.1 ≠ .ok then r.2.2.valuesEnd core slot o [] r.1 o.prog
  else
    let ws := r.2.2.qntWrites o f r.2.1
    let q := State.engWrites core o ((ws.map Prod.fst).drop o.prog) o.prog r.2.2
    let s := if q.1 = .ok then q.2.2.foldRing o f r.2.1 else q.2.2
    s.valuesEnd core slot o ws q.1 q.2.1

/-- What a DQNT reads, and what it writes, with flags. -/
def State.dqntWrites (s : State) (core : Nat) (o : Opt) (f wt : Nat) : EngOut × List ((Nat × Nat × Nat) × NFlags) × State :=
  let code := fsCode f
  let n := lo32n (o.d 3)
  let jb := lo32n (o.d 4)
  let e := elemSize code
  let m := bfpM code
  let bs := blockSize (fsBsz f)
  let k := bs * m / 8
  let arrays :=
    if isBfp code then
      (List.range (n / bs)).map (fun (i : Nat) => (addVa (o.d 0) (i * k : Nat), k)) ++
        (List.range (n / bs)).map (fun (i : Nat) => (addVa (o.d 1) (2 * i : Nat), 2))
    else (List.range n).map (fun (i : Nat) => (addVa (o.d 0) (i * e : Nat), e))
  let r := State.engReads core o arrays s
  let v := fun (i : Nat) => (r.2.1[i]?).getD 0
  let val := fun (i : Nat) =>
    if isBfp code then
      bfpVal m (v (n / bs + i / bs) % 2 ^ 10) (BitVec.ofNat m (v (i / bs) / 2 ^ (m * (i % bs)))).toInt
    else elemVal code (v i)
  let w := elemSize wt
  let ws := if r.1 ≠ .ok then []
    else (List.range n).map (fun (i : Nat) =>
      let c := elemConv wt (r.2.2.engMode o f jb i) (val i)
      ((addVa (o.d 2) (i * w : Nat), w, c.1), c.2))
  (r.1, ws, r.2.2)

/-- DQNT. -/
def State.runDqnt (s : State) (core slot : Nat) (o : Opt) (f wt : Nat) : State :=
  let r := s.dqntWrites core o f wt
  if r.1 ≠ .ok then r.2.2.valuesEnd core slot o [] r.1 o.prog
  else
    let q := State.engWrites core o ((r.2.1.map Prod.fst).drop o.prog) o.prog r.2.2
    q.2.2.valuesEnd core slot o r.2.1 q.1 q.2.1

/-- A command that ends before its end leaves what it has not delivered to the own scratchpad open (R64). -/
def State.cmdJunk (s : State) (core : Nat) (o : Opt) : State :=
  let f := fun (e : EArgs) => (s.grd o.grid).fslot e.fs.toNat
  match o.instr with
  | .qnt e _ _ _ wt =>
    let r := s.qntRead core o wt.toNat
    if r.1 ≠ .ok then r.2.2
    else
      let o := if o.desc.length ≤ 5 then { o with desc := o.desc ++ [BitVec.ofNat 64 (s.forcedScale o (f e))] } else o
      r.2.2.putJunk core o true (((r.2.2.qntWrites o (f e) r.2.1).drop o.prog).map Prod.fst)
  | .dqnt e _ _ _ wt =>
    let r := s.dqntWrites core o (f e) wt.toNat
    r.2.2.putJunk core o true ((r.2.1.drop o.prog).map Prod.fst)
  | _ => s.engJunk core o ((o.pieces).drop o.prog)

/-- An ACCST that has begun and is discarded leaves each destination byte old or new (R366). -/
def State.accstJunk (s : State) (core : Nat) (o : Opt) : State :=
  match o.instr with
  | .accst e _ _ _ acc =>
    if o.prog = 0 then s
    else s.putJunk core o false (((s.accstWrites core o ((s.grd o.grid).fslot e.fs.toNat) acc.toNat).drop o.prog).map Prod.fst)
  | _ => s

/-! ### The fabric (R392 to R397) -/

/-- The command names a completion record: register B is not s0 (R392). -/
def namesRecord (i : Instr) : Bool :=
  match i with
  | .put _ _ b => b != 0
  | .get _ _ b => b != 0
  | .coll _ _ b _ => b != 0
  | _ => false

/-- Where the record of a command lies: on the target, for a PUT (R392); and its address. -/
def recAt (o : Opt) : Bool × DWord :=
  match o.instr with
  | .put _ _ _ => (true, o.d 3)
  | .get _ _ _ => (false, o.d 3)
  | _ => (false, o.d 4)

/-- A fabric completion record (R393), the last write of its command: earlier ones are performed first (R392). -/
def State.fabWrite (s : State) (core : Nat) (o : Opt) (code detail : Nat) : EngOut × State :=
  if !namesRecord o.instr then (.ok, s)
  else
    let s := (s.drainWrites (fun w => w.core == core && w.part == s.optPart o)).tick
    let v := (if code = 0 then 1 else 3) + 2 ^ 8 * code + 2 ^ 16 * detail + 2 ^ 64 * s.time
    s.engPut core o (recAt o).1 (recAt o).2.toNat 16 v

/-- A PUT, GET or COLL has come to its status, and its record follows. Where the record's page is not present the command is
held there, where it is being moved it waits (R37, R48); one that has failed and whose record faults keeps its status. -/
def State.fabEnd (s : State) (core slot : Nat) (o : Opt) (code detail : Nat) : State :=
  let w := s.fabWrite core o code detail
  let later := fun (s : State) =>
    (s.engEnd core slot o w.1 o.prog).setOpt core slot o (fun o => { o with fin := some (code * 256 + detail) })
  match w.1 with
  | .ok => w.2.cmdDone core slot o code detail
  | .stop c d va l a =>
    if code = 0 then w.2.engEnd core slot o w.1 o.prog
    else
      let s := if c = 1 then (w.2.engRecord core slot o d l a va).2 else w.2
      s.cmdDone core slot o code detail
  | .hold _ _ _ => later w.2
  | .wait => later w.2
  | .busy => later w.2

/-- PUT and GET. A page of the record holds or stops the command as any other page does (R48). -/
def State.runMove (s : State) (core slot : Nat) (o : Opt) (put : Bool) : State :=
  let r := State.copyRun core o (!put) put ((o.pieces).drop o.prog) o.prog s
  match r.1 with
  | .ok => r.2.2.fabEnd core slot { o with prog := r.2.1 } 0 0
  | .stop c d va l a =>
    let s := r.2.2.engJunk core o ((o.pieces).drop r.2.1)
    let s := if c = 1 then ((s.forget d (s.grd o.grid).tctx va).engRecord core slot o d l a va).2 else s
    s.fabEnd core slot { o with prog := r.2.1 } c d
  | e => r.2.2.engEnd core slot o e r.2.1

/-- The collective of a partition and identifier that is open here. -/
def State.collAt (s : State) (dtid : Nat) (cid : BitVec 32) : Option Coll :=
  s.fab.colls.find? (fun c => c.dtid == dtid && c.cid == cid)

def State.putColl (s : State) (c : Coll) : State :=
  { s with fab := { s.fab with
      colls := s.fab.colls.filter (fun x => !(x.dtid == c.dtid && x.cid == c.cid)) ++ [c] } }

def State.dropColl (s : State) (dtid : Nat) (cid : BitVec 32) : State :=
  { s with fab := { s.fab with colls := s.fab.colls.filter (fun x => !(x.dtid == dtid && x.cid == cid)) } }

/-- The element values that a member contributes (R396): WX values of a reduction, bits otherwise. -/
def contribute (red : Bool) (f : Nat) (bits : List Nat) : List Int × NFlags × Bool :=
  if red then
    bits.foldl (fun (a : List Int × NFlags × Bool) b =>
      let e := wxEnter (fsWx96 f) (fsWxb f) (elemVal (fsCode f) b)
      (a.1 ++ [e.1], a.2.1 ||| e.2.1, a.2.2 || e.2.2)) ([], 0, false)
  else (bits.map Int.ofNat, 0, false)

/-- The headers agree (R397). -/
def sameHead (a b : CollHead) : Bool :=
  a.kind == b.kind && a.n == b.n && a.code == b.code && a.wxb == b.wxb && a.wx96 == b.wx96 && a.nmem == b.nmem

/-- The collective that an own command takes part in. -/
def State.collOf (s : State) (core slot : Nat) (o : Opt) : Option Coll :=
  (s.dtidOf (s.optPart o)).bind (fun d => s.fab.colls.find? (fun c => c.dtid == d && c.own == some (core, slot)))

/-- The collective is over on this package. Until every member has contributed, its place is kept, so that a late contribution
opens none anew (R397). -/
def State.closeColl (s : State) (c : Coll) (d : Nat) : State :=
  if c.members.length ≤ c.heads.length then s.dropColl c.dtid c.cid
  else s.putColl { c with own := none, failed := some d }

/-- A target check that fails here fails the collective at the other members (R390, R398). -/
def State.tellFail (s : State) (core slot : Nat) (o : Opt) (r : EngOut) : State :=
  match r, s.collOf core slot o with
  | .stop 1 d _ _ _, some c =>
    let rank := c.members.findIdx (· == s.ctl.pkg)
    if [0x12, 0x14, 0x16].contains d then
      s.emit (.chunk c.dtid c.cid rank { getD c.heads rank ⟨0, 0, 0, 0, false, 0, 0, false⟩ with fail := true } [])
    else s
  | _, _ => s

/-- A COLL comes to its status, and its record (R393, R398); with the record the collective is over here. -/
def State.collFail (s : State) (core slot : Nat) (o : Opt) (code detail : Nat) : State :=
  let t := s.fabEnd core slot o code detail
  let isOver := (t.optOf core slot).all (fun x => x.seq != o.seq || !x.busy || x.fin.isNone)
  match s.collOf core slot o with
  | some c => if isOver then t.closeColl c (if code = 9 then detail else 3) else t
  | none => t

/-- A COLL stops at an access: a record of the fault, the word to the other members, and its status. -/
def State.collStop (s : State) (core slot : Nat) (o : Opt) (c d va l a : Nat) : State :=
  let s := if c = 1 then ((s.forget d (s.grd o.grid).tctx va).engRecord core slot o d l a va).2 else s
  (s.tellFail core slot o (.stop c d va l a)).collFail core slot o c d

/-- A collective agent reads its descriptor and its member list: it can name no window (R25, R394). -/
def State.agentGet (s : State) (core : Nat) (o : Opt) (va n : Nat) : EngOut × Nat × State :=
  if canonical va && isWindow va then (.stop 1 0x17 va 15 5, 0, s) else s.engGet core o false va n

/-- Nanoseconds that a collective waits for its members: from its first contribution on, what that one says (R394, R401). -/
def Coll.limit (c : Coll) : Nat := 1000000 * (if c.tmo = 0 then 2000 else c.tmo)

/-- Every member has contributed. -/
def Coll.whole (c : Coll) : Bool := c.heads.any (fun h => h.2.nmem ≤ c.heads.length)

/-- The command that takes part in a collective, in the table or saved. -/
def State.collOpt (s : State) (c : Coll) : Option (Nat × Nat × Opt) :=
  c.own.bind (fun w =>
    let mine := fun (o : Opt) => o.busy && (s.dtidOf (s.optPart o) == some c.dtid) && (match o.instr with | .coll _ _ _ _ => true | _ => false)
    match s.optOf w.1 w.2 with
    | some o => if mine o then some (w.1, w.2, o) else
        ((s.core w.1).saved.find? (fun e => e.2.1 == w.2 && mine e.2.2)).map (fun e => (w.1, w.2, e.2.2))
    | none => ((s.core w.1).saved.find? (fun e => e.2.1 == w.2 && mine e.2.2)).map (fun e => (w.1, w.2, e.2.2)))

/-- A timed-out all-gather or broadcast keeps the elements that were complete before (R401): which ones is open. -/
def State.collPartial (s : State) (core : Nat) (o : Opt) (f kind : Nat) (c : Coll) : State :=
  let es := elemSize (fsCode f)
  let at_ := fun (k : Nat) (l : List Int) => l.zipIdx.map (fun x => (k + x.2, x.1.toNat))
  let els := if kind = 2 then c.elems.flatMap (fun e => at_ (e.1 * e.2.length) e.2)
    else if kind = 3 then c.elems.flatMap (fun e => at_ 0 e.2)
    else []
  els.foldl (fun (s : State) e =>
    if Config.delivered s.fresh then (s.engPut core o false (addVa (o.d 1) (e.1 * es : Nat)) es e.2).2.next
    else s.next) s

/-- A collective times out: the own command ends with detail 1, and one that joins it within twice the limit will (R401). -/
def State.collExpire (s : State) (c : Coll) : State :=
  let s := { s with fab := { s.fab with
    expired := s.fab.expired.filter (fun (e : Nat × BitVec 32 × Nat) => s.time ≤ e.2.2) ++
      [(c.dtid, c.cid, c.start + 3 * c.limit)] } }
  let s := match s.collOpt c with
    | none => s
    | some (core, slot, o) =>
      match o.instr with
      | .coll e _ _ k =>
        if o.fin.isSome then s
        else (s.collPartial core o ((s.grd o.grid).fslot e.fs.toNat) k.toNat c).collFail core slot o 9 1
      | _ => s
  s.dropColl c.dtid c.cid

/-- The time of a collective has run out with a contribution missing (R401). -/
def State.collDue (s : State) (dtid : Nat) (cid : BitVec 32) : State :=
  match s.collAt dtid cid with
  | none => s
  | some c => if c.whole ∨ s.time < c.start + c.limit then s else s.collExpire c

/-- A collective has timed out lately: its late contributions complete at once (R401). -/
def State.collExpired (s : State) (dtid : Nat) (cid : BitVec 32) : Bool :=
  s.fab.expired.any (fun e => e.1 == dtid && e.2.1 == cid && s.time ≤ e.2.2)

/-- A collective as its first contribution opens it. -/
def State.newColl (s : State) (dtid : Nat) (cid : BitVec 32) (tmo : Nat) : Coll := ⟨dtid, cid, none, [], [], [], tmo, s.time, none⟩

/-- A COLL starts: its agent reads the group descriptor and the source, and contributes (R394 to R397). -/
def State.collStart (s : State) (core slot : Nat) (o : Opt) (f kind : Nat) : State :=
  let g := s.grd o.grid
  let dtid := (s.dtidOf g.part).getD 0
  let d := s.agentGet core o (o.d 3).toNat 64
  match d.1 with
  | .wait => d.2.2.engEnd core slot o .wait 0
  | .busy => d.2.2
  | .hold va l a => ((d.2.2.engRecord core slot o 0x01 l a va).2).collFail core slot o 1 0x01
  | .stop c x va l a => d.2.2.collStop core slot o c x va l a
  | .ok =>
    let w := d.2.1
    let nmem := pte w 32 16
    let root := pte w 48 16
    let tmo := if pte w 64 16 = 0 then 2000 else pte w 64 16
    let mva := pte w 128 64
    let res := pte w 80 48 != 0 || w / 2 ^ 192 != 0
    -- the member list is read as any other memory of a command (R48)
    let q := if mva = 0 ∨ nmem = 0 ∨ 576 < nmem then (EngOut.ok, 0, d.2.2) else d.2.2.agentGet core o mva (2 * nmem)
    match q.1 with
    | .wait => q.2.2.engEnd core slot o .wait 0
    | .busy => q.2.2
    | .hold va l a => q.2.2.engEnd core slot o (.hold va l a) 0
    | .stop c x va l a => q.2.2.collStop core slot o c x va l a
    | .ok =>
      let ml := if mva = 0 then List.range nmem else (List.range nmem).map (fun i => pte q.2.1 (16 * i) 16)
      let cid := BitVec.ofNat 32 w
      let s := q.2.2.tick.collDue dtid cid
      let n := lo32n (o.d 2)
      let rank := ml.findIdx (· == s.ctl.pkg)
      let c := (s.collAt dtid cid).getD (s.newColl dtid cid tmo)
      if nmem = 0 ∨ 576 < nmem ∨ res ∨ !ml.contains s.ctl.pkg ∨ ml.eraseDups.length ≠ ml.length ∨ nmem ≤ root ∨
          (kind = 1 ∧ n % nmem ≠ 0) then s.collFail core slot o 9 4
      else if c.own.isSome then s.collFail core slot o 9 5
      else if s.collExpired dtid cid then s.collFail core slot o 9 1
      else if c.failed.isSome then s.collFail core slot o 9 (c.failed.getD 3)
      else
        let es := elemSize (fsCode f)
        let src := if kind = 3 ∧ rank ≠ root then []
          else (List.range n).map (fun (i : Nat) => (addVa (o.d 0) (i * es : Nat), es))
        let r := State.engReads core o src s
        let head : CollHead :=
          ⟨BitVec.ofNat 2 kind, n, BitVec.ofNat 4 (fsCode f), BitVec.ofInt 10 (fsWxb f), fsWx96 f, nmem, tmo, false⟩
        let c := { c with own := some (core, slot), members := ml, heads := set c.heads rank head }
        match r.1 with
        | .stop x d va l a =>
          -- its part in the collective is that it has failed
          (r.2.2.putColl c).collStop core slot o x d va l a
        | .hold va l a => r.2.2.engEnd core slot o (.hold va l a) 0
        | .wait => r.2.2.engEnd core slot o .wait 0
        | .busy => r.2.2
        | .ok =>
          let x := contribute (kind ≤ 1) f r.2.1
          let s := (r.2.2.raiseGrid o.grid x.2.1 x.2.2).putColl { c with elems := set c.elems rank x.1 }
          (s.emit (.chunk dtid cid rank head x.1)).modOpt core slot (fun o => { o with st := .awaiting, mv := none })

/-- The elements of a collective's result at a rank (R395, R396), as bits, with flags. -/
def State.collElems (s : State) (o : Opt) (f : Nat) (c : Coll) (kind rank : Nat) (h : CollHead) : List Nat × NFlags × Bool :=
  let col := fun (r : Nat) => getD c.elems r []
  if kind ≤ 1 then
    let lo := if kind = 1 then rank * (h.n / h.nmem) else 0
    let cnt := if kind = 1 then h.n / h.nmem else h.n
    (List.range cnt).foldl (fun (a : List Nat × NFlags × Bool) e =>
      let sum := (List.range h.nmem).foldl (fun (q : Int × Bool) r =>
        let t := wxAdd (fsWx96 f) q.1 (((col r)[lo + e]?).getD 0)
        (t.1, q.2 || t.2)) (0, false)
      let idx := c.cid.toNat * 2 ^ 32 + e
      let md : RMode := ⟨fsRnd f, fsSat f, false, if fsRnd f = .sr then srDraw (s.grd o.grid).seed idx else 0⟩
      let v : Nat × NFlags := match fmtOf (fsCode f) with
        | some fm => wxRoot (fsWx96 f) (fsWxb f) fm md sum.1
        | none =>
          -- INT8 takes the sum's value as any other integer conversion
          if sum.1 = wxNan (fsWx96 f) then (0, fIV)
          else elemConv 12 md (.fin (sum.1 < 0) sum.1.natAbs (fsWxb f))
      (a.1 ++ [v.1], a.2.1 ||| v.2, a.2.2 || sum.2)) ([], 0, false)
  else if kind = 2 then (((List.range h.nmem).flatMap col).map Int.toNat, 0, false)
  else ((((c.elems.find? (fun e => !e.2.isEmpty)).map Prod.snd).getD []).map Int.toNat, 0, false)

/-- Result of a collective, once every member has contributed (R395 to R398). -/
def State.collFinish (s : State) (core slot : Nat) (o : Opt) (f kind : Nat) (c : Coll) : State :=
  let rank := c.members.findIdx (· == s.ctl.pkg)
  let h := getD c.heads rank ⟨0, 0, 0, 0, false, 0, 0, false⟩
  match c.failed with
  | some d => s.collFail core slot o 9 d
  | none =>
    if c.heads.any (fun x => !sameHead x.2 h) then s.collFail core slot o 9 3
    else if c.heads.length < h.nmem then s
    else
      let r := s.collElems o f c kind rank h
      let es := elemSize (fsCode f)
      let ws := (r.1.zipIdx).map (fun p => (addVa (o.d 1) (p.2 * es : Nat), es, p.1))
      let q := State.engWrites core o (ws.drop o.prog) o.prog s
      match q.1 with
      | .ok => (q.2.2.raiseGrid o.grid r.2.1 r.2.2).collFail core slot { o with prog := q.2.1 } 0 0
      | .stop x d va l a => q.2.2.collStop core slot { o with prog := q.2.1 } x d va l a
      | e => q.2.2.engEnd core slot o e q.2.1

/-! ### One event of an engine -/

/-- Cancellation (R364): what has not started, and copies in progress. A command whose record alone is outstanding has had its
outcome. -/
def State.cancelCmd (s : State) (core slot : Nat) (o : Opt) : Option State :=
  if !o.cancel ∨ o.fin.isSome then none
  else
    match o.instr with
    | .coll _ _ _ _ => if (s.collOf core slot o).isNone then some (s.collFail core slot o 2 0) else none
    | .put _ _ _ => if o.prog = 0 then some (s.fabEnd core slot o 2 0) else none
    | .get _ _ _ => if o.prog = 0 then some (s.fabEnd core slot o 2 0) else none
    | .omclm _ _ _ _ _ => some (s.refuse core slot o 2 0)
    -- a matrix command that has begun runs to its end
    | _ => if o.inMatrix ∧ o.begun then none
      else some ((s.cmdJunk core o).finishCmd core slot 2 0)

/-- The first step of a command with its acquire bit set at clu or wider writes back the L1 (R115). -/
def State.engAcquire (s : State) (core : Nat) (o : Opt) : State :=
  match eargsOf o.instr with
  | some e => if e.acq ∧ e.sc ≠ Scope.blk ∧ o.st = .queued then s.wbAll core (s.optPart o) else s
  | none => s

/-- Operand memory or an accumulator that a command reads, or its follow-on, has an uncorrectable error (R343, R438). -/
def State.operBad (s : State) (core : Nat) (o : Opt) : Bool :=
  let i := match o.st, o.follow with | .landing, some f => f | _, _ => o.instr
  let sh := s.shareOf (s.optPart o)
  let acc := match i with
    | .accz _ _ => []
    | .accld _ _ _ _ => []
    | i => (cmdAcc i).toList
  !s.svc.badOper.isEmpty && ((cmdSlotsRead i).any (fun n => s.svc.badOper.contains (core, slotKey sh n)) ||
    acc.any (fun n => s.svc.badOper.contains (core, 2 ^ 20 + accKey sh n)))

/-- A slot or accumulator that a command has written whole is repaired (R440). -/
def State.repairOper (s : State) (core : Nat) (o : Opt) : State :=
  if s.svc.badOper.isEmpty then s
  else
    let sh := s.shareOf (s.optPart o)
    let w := (cmdSlotFill o.instr).toList.map (slotKey sh) ++ (match o.instr with
      | .accz _ n => [2 ^ 20 + accKey sh n.toNat]
      | .accld _ _ _ n => [2 ^ 20 + accKey sh n.toNat]
      | _ => [])
    { s with svc := { s.svc with badOper := s.svc.badOper.filter (fun x => !(x.1 == core && w.contains x.2)) } }

/-- A command goes to its end, as far as nothing holds it (R340). `fill` where the event is the landing of a fill. -/
def State.runCmd (s : State) (core slot : Nat) (fill : Bool) : State :=
  match s.optOf core slot with
  | none => s
  | some o =>
    let held : Bool := match o.st with | .pageFault _ => true | _ => false
    if !o.busy then s
    else
      let s := if o.mv.isSome then s.tick else s
      match s.cancelCmd core slot o with
      | some t => t
      | none =>
        if held then s
        else if o.fin.isSome then
          if (s.collOf core slot o).isSome then s.collFail core slot o (o.fin.getD 0 / 256) (o.fin.getD 0 % 256)
          else s.fabEnd core slot o (o.fin.getD 0 / 256) (o.fin.getD 0 % 256)
        else if o.fail then s.finishCmd core slot 8 4
        else if s.cmdBlocked core o then s
        else if s.operBad core o then
          (s.logError 2 2 (BitVec.ofNat 16 core) (BitVec.ofNat 5 (s.optPart o)) 0 0).finishCmd core slot 5 0
        else
          let s := (s.engAcquire core o).repairOper core o
          let fs := fun (e : EArgs) => (s.grd o.grid).fslot e.fs.toNat
          match o.instr with
          | .cpym e _ _ n =>
            if o.st = .landing then
              match o.follow with
              | some i => (s.runProduct core o i 4).finishCmd core slot 0 0
              | none => s.finishCmd core slot 0 0
            else if fill then s.runFill core slot o (fs e) n.toNat
            else s
          | .omclm _ _ _ t u => s.runClaim core slot o t u.toNat
          | .omrel _ _ _ => s.runRelease core slot o
          | .accz _ n => (s.modAcc core (s.optPart o) n.toNat (fun a => { a with elems := [] })).finishCmd core slot 0 0
          | .accld e _ _ n => s.runAccld core slot o (fsCode (fs e)) n.toNat
          | .accst e _ _ _ n => s.runAccst core slot o (fs e) n.toNat
          | .accmv e d _ n h => s.runAccmv core slot o (fs e) n.toNat d.toNat h
          | .mma _ _ _ _ => (s.runProduct core o o.instr 0).finishCmd core slot 0 0
          | .mmb _ _ _ _ => (s.runProduct core o o.instr 0).finishCmd core slot 0 0
          | .qnt e _ _ _ wt => s.runQnt core slot o (fs e) wt.toNat
          | .dqnt e _ _ _ wt => s.runDqnt core slot o (fs e) wt.toNat
          | .put _ _ _ => s.runMove core slot o true
          | .get _ _ _ => s.runMove core slot o false
          | .coll e _ _ k =>
            -- one that has not begun starts only while its partition runs (R402)
            if o.st = .awaiting ∨ (s.collOf core slot o).isSome ∨ !s.running (s.optPart o) then s else s.collStart core slot o (fs e) k.toNat
          | _ =>
            let r := State.copyRun core o false false ((o.pieces).drop o.prog) o.prog s
            r.2.2.copyEnd core slot o r.1 r.2.1

/-! ### The engine events -/

/-- ENGINE_OP_COMPLETE (R340, R343). -/
def execEngineOpComplete (core slot : Nat) (s : State) : Host.Outcome State Fault Refusal :=
  .next (s.fits core (s.runCmd core slot false))

/-- CLAIM_GRANT (R349). -/
def execClaimGrant (core slot : Nat) (s : State) : Host.Outcome State Fault Refusal :=
  .next (match s.optOf core slot with
    | some o => if isClaim o.instr then s.fits core (s.runCmd core slot false) else s
    | none => s)

/-- FILL_LANDED (R350, R355). -/
def execFillLanded (core slot : Nat) (s : State) : Host.Outcome State Fault Refusal :=
  .next (match s.optOf core slot with
    | some o => if (cmdSlotFill o.instr).isSome && o.eng == 1 && o.st != .landing then s.fits core (s.runCmd core slot true) else s
    | none => s)

/-- COPY_LINE_LANDED (R62): one scratchpad line of a copy is delivered; its bit is set if no later command covers it. -/
def execCopyLineLanded (core slot line : Nat) (s : State) : Host.Outcome State Fault Refusal :=
  .next (match s.optOf core slot with
    | none => s
    | some o =>
      let b := s.blk o.block
      let todo := ((o.pieces).drop o.prog).filter (fun a => (ownLines b a.2.1 a.2.2).contains line)
      let held : Bool := match o.st with | .pageFault _ => true | _ => false
      if !o.busy ∨ held ∨ o.cancel ∨ engOf o.instr ≠ 1 ∨ todo = [] ∨ o.landed.contains line ∨ s.cmdBlocked core o then s
      else
        let s := s.engAcquire core o
        let r := State.copyRun core o false false todo 0 s
        if r.1 ≠ .ok then s
        else
          let s := r.2.2.modOpt core slot (fun o => { o with landed := o.landed ++ [line], st := .running })
          (s.modBlk o.block (fun b => { b with
            absent := b.absent.filter (fun e => !(e.1 == line && e.2 == o.seq)) })).unpark)

/-- COLL_RESULT (R395): for a command in the table, or one of a partition that is switched out (R402). -/
def execCollResult (core slot : Nat) (s : State) : Host.Outcome State Fault Refusal :=
  .next (match (s.fab.colls.filter (fun c => c.own == some (core, slot))).findSome? (fun c => (s.collOpt c).map (fun o => (c, o.2.2))) with
    | none => s
    | some (c, o) =>
      (match o.instr with
       | .coll e _ _ k =>
         let s := if o.mv.isSome then s.tick else s
         if o.fin.isNone ∧ (o.st = .awaiting ∨ o.st = .running) then
           s.fits core (s.collFinish core slot o ((s.grd o.grid).fslot e.fs.toNat) k.toNat c)
         else s
       | _ => s))

end Sys2Proof.Machine
end

