-- ==== Sys2Proof/Machine/TxSimt.lean ====
section
/-! DEFINITION. Transactions of SIMT lanes, opcodes 0x4C and 0x4D (R134, R137 to R139, R328 to R330), and the taking of
class locks (R127). -/

namespace Sys2Proof.Machine

/-- Aborts every open transaction of a class in a partition, as its lock is taken (R127). -/
def State.lockAborts (s : State) (part cls : Nat) : State :=
  let lanes := s.cohorts.flatMap (fun e =>
    if s.cohPart e.1 = part then
      (e.2.tx.filter (fun t => t.2.isOpen && !t.2.fb && t.2.cls == cls)).map (fun t => (e.1, t.1))
    else [])
  let s := lanes.foldl (fun s x => s.txAbort x.1 x.2 0x08 (BitVec.ofNat 8 cls)) s
  let hs := s.harts.filter (fun h => h.2.part == part && h.2.tx.any (fun t => t.cls == cls))
  hs.foldl (fun s h => s.hartAbort h.1 0x08 (BitVec.ofNat 8 cls)) s

/-- A class lock is taken (R126, R127). -/
def State.takeLock (s : State) (part cls : Nat) (w : TxWho) : State := (s.lockAborts part cls).setLock part cls w

/-- Writes a lane's status register (R144). -/
def State.putStatus (s : State) (c l n : Nat) (w : Word) : State :=
  s.putV c n l false (w.zeroExtend 64)

/-- A fallback run releases its lock as a release at pkg (R138, R139). -/
def State.fbRelease (s : State) (c : Nat) (cls : Nat) : State :=
  ((s.modCoh c Cohort.flushRegs).wbAll (s.cohCore c) (s.cohPart c)).freeLock (s.cohPart c) cls

/-- The partition's transaction control (R128). -/
def State.txctl (s : State) (part : Nat) : Nat := (getD s.ctl.txctl part 100#32).toNat
def State.dettx (s : State) (part : Nat) : Bool := pte (s.txctl part) 16 1 == 1
def State.tlim (s : State) (part : Nat) : Nat := pte (s.txctl part) 0 16

/-- One lane at TXBEG (R329); it enters, or waits for its class lock. -/
def State.txBegin (s : State) (c l d cls n : Nat) (exit : DWord) : State :=
  let part := s.cohPart c
  let t := (s.coh c).txOf l
  let nested := t.isOpen
  let s := if nested ∧ t.fb then s.fbRelease c t.cls else s
  let t := if nested then { t with isOpen := false, retry := true, fails := min (t.fails + 1) 15, code := 0x09#8, sub := 0, rlog := [], wlog := [] } else t
  let t := if t.retry then t else { t with fails := 0, code := 0, sub := 0 }
  let direct := t.code == 0x04#8 || t.code == 0x09#8 || t.code == 0x0C#8
  let fb := n ≤ t.fails || direct || ((s.cohGrd c).det && s.dettx part)
  let t := { t with cls := cls, n := n, exit := exit, sreg := d, beg := s.cur.pc }
  let keep := fun (s : State) (t : Tx) => s.modCoh c (fun k => { k with tx := set k.tx l t })
  if (s.lockHeld part cls).isSome then
    -- not yet in the body: the retry state stands, so that the word can be issued again
    let s := keep s t
    (s.modCoh c (fun k => { k with lockWait := k.lockWait ||| oneLane l })).drop (oneLane l)
  else
    let st := txStatus fb t.fails t.sub t.code
    if fb then
      let s := keep s { t with isOpen := true, fb := true, retry := false }
      let s := (s.takeLock part cls (.lane c l)).acquireDrop (s.cohCore c) part
      s.putStatus c l d st
    else
      let s := s.tick
      let s := keep s { t with isOpen := true, fb := false, retry := false, rlog := [], wlog := [], start := s.time }
      s.putStatus c l d st

/-- TXBEG (R329). A lane that begins again inside a fallback run waits for its accesses, as its release asks. -/
def execTxbeg (g : Guard) (d : BitVec 7) (cls : BitVec 8) (n : BitVec 4) (off : BitVec 29) (idx : BitVec 3)
    (s : State) : Host.Outcome State Fault Refusal :=
  .next (s.issue ⟨g, [(.v d, 1)], [], .off, true, none⟩ fun t run =>
    let c := t.cur.coh
    let exit := t.target (off.signExtend 32) idx
    let gr := t.cohGrd c
    let fb := maskOf (fun l => run.getLsbD l && ((t.coh c).txOf l).isOpen && ((t.coh c).txOf l).fb)
    if exit.toNat ≤ t.cur.pc.toNat ∨ (gr.det ∧ !gr.au ∧ !t.dettx gr.part) then t.illegal run 7
    else if t.accessPending c fb (fun _ => true) then t.stall
    else
      (lanesOf run).foldl (fun u l => u.txBegin c l d.toNat cls.toNat n.toNat exit) t)

/-- The bytes of a read log that a lane has read still stand at their homes (R137). -/
def State.txValid (s : State) (t : Tx) : Bool :=
  t.rlog.all (fun e => (List.range 64).all (fun i =>
    !e.mask.getLsbD i || secByte e.data i == getD s.mem (64 * e.sector + i) 0))

/-- An uncorrectable error in a sector of a lane's logs (R142). The rule does not say whether damage at the home of a sector that
the lane has only written counts: in the model it aborts the lane, as damage of any sector of its logs (DESIGN CHOICE,
notes/assumptions/101.md). -/
def State.txBad (s : State) (t : Tx) : Option Nat :=
  ((t.rlog ++ t.wlog).find? (fun e => s.badAt (64 * e.sector) 64)).map (fun e => 64 * e.sector)

/-- The write log is published at the homes (R117, R137). -/
def State.txPublish (s : State) (t : Tx) : State :=
  s.publish (t.wlog.flatMap (fun e =>
    ((List.range 64).filter (fun i => e.mask.getLsbD i)).map (fun i => (64 * e.sector + i, secByte e.data i)))) none

/-- The transaction of a lane is over; its counts stay readable by TXST (R330). -/
def Tx.close (t : Tx) (code sub : BitVec 8) : Tx :=
  { t with isOpen := false, retry := false, code := code, sub := sub, rlog := [], wlog := [] }

/-- One lane of a TXEND commits or fails (R137). -/
def State.txCommit (s : State) (c l : Nat) : State :=
  let t := (s.coh c).txOf l
  if !(s.coh c).spec l then s
  else
    match s.txBad t with
    | some pa => (s.logBad (s.cohPart c) pa).txAbort c l 0x07 0
    | none =>
      if s.txValid t then
        let s := s.txPublish t
        (s.modTx c l (fun t => t.close 0 0)).putStatus c l t.sreg (txStatus false t.fails 0 0)
      else s.txAbort c l 0x03 0

/-- A fallback run ends (R138). -/
def State.txEndFb (s : State) (c l : Nat) : State :=
  let t := (s.coh c).txOf l
  ((s.fbRelease c t.cls).modTx c l (fun t => t.close 0 0)).putStatus c l t.sreg (txStatus true t.fails 0 0)

/-- Some lanes of a group by a test on their transactions. -/
def State.txLanes (s : State) (run : LaneMask) (f : Tx → Bool) : List Nat :=
  (lanesOf run).filter (fun l => f ((s.coh s.cur.coh).txOf l))

/-- TXEND (R330). -/
def execTxend (g : Guard) (s : State) : Host.Outcome State Fault Refusal :=
  .next (s.issue ⟨g, [], [], .off, true, none⟩ fun t run =>
    let c := t.cur.coh
    if t.ops.any (fun o => o.2.coh == c && o.2.pendingFor run) then t.stall
    else
      let spec := t.txLanes run (fun x => x.isOpen && !x.fb)
      let fb := t.txLanes run (fun x => x.isOpen && x.fb)
      let core := t.cohCore c
      let part := t.cohPart c
      let t := fb.foldl (fun u l => u.txEndFb c l) t
      if spec = [] then t
      else
        let t := ((t.modCoh c Cohort.flushRegs).wbAll core part).takeTicket.2
        (spec.foldl (fun u l => u.txCommit c l) t).acquireDrop core part)

/-- TXABT (R139, R330). -/
def execTxabt (g : Guard) (code : BitVec 8) (s : State) : Host.Outcome State Fault Refusal :=
  .next (s.issue ⟨g, [], [], .off, true, none⟩ fun t run =>
    let c := t.cur.coh
    let ls := t.txLanes run (fun x => x.isOpen)
    let fb := t.txLanes run (fun x => x.isOpen && x.fb)
    if t.accessPending c (maskOf (fun l => fb.contains l)) (fun _ => true) then t.stall
    else
      let u := ls.foldl (fun u l =>
        let x := (u.coh c).txOf l
        let u := if x.fb then u.fbRelease c x.cls else u
        (u.modTx c l (fun x => x.close 0x01 code)).putStatus c l x.sreg (txStatus x.fb x.fails code 0x01)) t
      let m := maskOf (fun l => ls.contains l)
      (u.arriveAt c (ls.map (fun l => (l, ((u.coh c).txOf l).exit)))).drop m)

/-- TXST (R139, R330). -/
def execTxst (g : Guard) (d : BitVec 7) (s : State) : Host.Outcome State Fault Refusal :=
  .next (s.issue ⟨g, [(.v d, 1)], [], .off, false, none⟩ fun t run =>
    t.result (.v d) false run (fun l =>
      let x := (t.coh t.cur.coh).txOf l
      (if x.isOpen then txStatus x.fb x.fails 0 0 else txStatus x.fb x.fails x.sub x.code).zeroExtend 64))

end Sys2Proof.Machine
end

