-- ==== Sys2Proof/Machine/Rv.lean ====
section
/-! DEFINITION. The RV64 side of a base-die core: supervisor registers and exceptions (R133), Sv57 tables and the Sv57x4
G-stage of a guest (R30), the physical map as a hart meets it (R26, R27, R29, R119), and the words of the base ISA with
multiplication and the counters of R446. 00_scope refers to the RISC-V standards without restating them: their encodings,
causes and table formats stand here as those standards have them (PRESUMED, notes/assumptions/11.md). -/

namespace Sys2Proof.Machine

/-! ### Registers and exceptions -/

/-- x0 reads 0 (RV64). -/
def Hart.xr (k : Hart) (r : BitVec 5) : DWord := if r = 0 then 0 else getD k.x r.toNat 0

def State.setX (s : State) (h : Nat) (r : BitVec 5) (v : DWord) : State :=
  if r = 0 then s else s.modHart h (fun k => { k with x := put k.x r.toNat v 0 })

def State.setF (s : State) (h : Nat) (r : BitVec 5) (v : DWord) : State :=
  s.modHart h (fun k => { k with f := put k.f r.toNat v 0 })

/-- The hart goes on to the next word. -/
def State.hartNext (s : State) (h : Nat) : State := s.modHart h (fun k => { k with pc := k.pc + 4 })

/-- A guest runs, and not Arbor itself (R30, R415). -/
def Hart.isGuest (k : Hart) : Bool := k.part < Config.parts

/-- The supervisor registers of the world that runs. -/
def Hart.csr (k : Hart) : RvCsr := if k.isGuest then k.guest else k.host

def Hart.modCsr (k : Hart) (f : RvCsr → RvCsr) : Hart :=
  if k.isGuest then { k with guest := f k.guest } else { k with host := f k.host }

/-- Exceptions of a guest that Arbor takes: its calls, and faults of the G-stage. -/
def toArbor (cause : Nat) : Bool := cause == 10 || cause == 20 || cause == 21 || cause == 23

/-- A trap, interrupt or exception: an open transaction aborts with code pre-empted, and the trap is taken from where
the hart then stands (R133): pc, cause and value are saved, and the pc goes to the trap vector. -/
def State.hartTrap (s : State) (h : Nat) (cause tval : DWord) : State :=
  (s.hartAbort h 0x06 0).modHart h (fun k =>
    let up := k.isGuest && toArbor cause.toNat
    let j := if up then { k with part := 31 } else k
    { j.modCsr (fun c => { c with epc := k.pc, cause := cause, tval := tval }) with
      spv := up
      pc := j.csr.tvec &&& ~~~3#64
      waitLock := none
      resv := none })

def State.hartExc (s : State) (h : Nat) (cause : DWord) : State := s.hartTrap h cause 0

/-- The illegal-instruction exception. -/
def State.hartIllegal (s : State) (h : Nat) : State := s.hartExc h 2

/-- The exceptions of an access kind: access fault, page fault, guest-page fault, misaligned address. -/
def accessFault (kind : Nat) : Nat := if kind = 4 then 1 else if kind = 1 then 5 else 7
def pageFault (kind : Nat) : Nat := if kind = 4 then 12 else if kind = 1 then 13 else 15
def guestFault (kind : Nat) : Nat := if kind = 4 then 20 else if kind = 1 then 21 else 23
def misaligned (kind : Nat) : Nat := if kind = 4 then 0 else if kind = 1 then 4 else 6

/-! ### The physical map -/

/-- What an address is to a hart: memory of the package, an I/O region (R119), or an exception. -/
inductive HartHit where
  | mem (pa : Nat)
  | io (pa : Nat)
  | exc (cause : Nat)
  deriving DecidableEq, Repr

/-- One byte at a physical address. Arbor's harts, which run for no partition, pass the ownership check; an address that R26
or R27 reserves is an access fault; an open transaction meets an I/O region before any check of its target (R122). -/
def State.hartPhys (s : State) (k : Hart) (kind a : Nat) : HartHit :=
  if 2 ^ 52 ≤ a then .exc (accessFault kind)
  else
    let pa := s.norm a
    let cause := s.physCause k.part kind pa true true true
    let arbor := !k.isGuest && s.isLocal pa
    let io := !s.isLocal pa || regionOf (paOff pa) == .host
    if 576 ≤ paPkg pa ∨ regionOf (paOff pa) = .none then .exc (accessFault kind)
    else if k.tx.isSome ∧ io then .io pa
    else if cause ≠ 0 ∧ cause ≠ 0x13 ∧ !(arbor && cause == 0x14) then .exc (accessFault kind)
    else if io then .io pa
    else .mem pa

/-! ### Tables (R30) -/

/-- Where an address leads: to an address of the next space, or to an exception. -/
inductive RvAddr where
  | pa (a : Nat)
  | exc (cause : Nat)
  deriving DecidableEq, Repr

/-- A leaf at a level: reserved bits zero, a superpage aligned, a 64 KiB run of pages well formed, the access allowed, and
its accessed and dirty bits set. -/
def rvLeaf (kind bad lvl e va : Nat) (user : Bool) : RvAddr :=
  let ppn := pte e 10 44
  let size := 2 ^ (12 + 9 * lvl)
  let run := e.testBit 63
  let may := if kind = 4 then e.testBit 3 else if kind = 1 then e.testBit 1 else e.testBit 2
  let shape := pte e 54 7 == 0 && pte e 61 2 != 3 && (if run then lvl == 0 && ppn % 16 == 8 else ppn % 2 ^ (9 * lvl) == 0)
  if !shape ∨ !may ∨ !e.testBit 6 ∨ (kind ≠ 1 ∧ kind ≠ 4 ∧ !e.testBit 7) ∨ (user ∧ !e.testBit 4) then .exc bad
  else if run then .pa (ppn / 16 * 2 ^ 16 + va % 2 ^ 16)
  else .pa (ppn * 2 ^ 12 + va % size)

/-- A walk of five levels: `top` entries in the root, each entry read by `rd`; `bad` the exception of a walk that fails,
`user` where leaves must be user pages. -/
def rvWalk (kind bad top va : Nat) (user : Bool) (rd : Nat → RvAddr × Nat) : (lvl table : Nat) → RvAddr
  | 0, table =>
    let r := rd (table + 8 * (va / 2 ^ 12 % 512))
    let e := r.2
    match r.1 with
    | .exc c => .exc c
    | .pa _ =>
      if !e.testBit 0 ∨ (e.testBit 2 ∧ !e.testBit 1) ∨ (!e.testBit 1 ∧ !e.testBit 3) then .exc bad
      else rvLeaf kind bad 0 e va user
  | lvl + 1, table =>
    let r := rd (table + 8 * (va / 2 ^ (12 + 9 * (lvl + 1)) % (if lvl = 3 then top else 512)))
    let e := r.2
    match r.1 with
    | .exc c => .exc c
    | .pa _ =>
      if !e.testBit 0 ∨ (e.testBit 2 ∧ !e.testBit 1) then .exc bad
      else if e.testBit 1 ∨ e.testBit 3 then rvLeaf kind bad (lvl + 1) e va user
      else if pte e 54 10 ≠ 0 then .exc bad
      else rvWalk kind bad top va user rd lvl (pte e 10 44 * 2 ^ 12)

/-- A table entry at a physical address, read for Arbor or for a guest. -/
def State.rvEntry (s : State) (k : Hart) (kind a : Nat) : RvAddr × Nat :=
  match s.hartPhys { k with tx := none } 1 a with
  | .mem pa => (.pa pa, getBytes s.mem pa 8)
  | .io _ => (.exc (accessFault kind), 0)
  | .exc _ => (.exc (accessFault kind), 0)

/-- The mode field of a root register: 0 for none, 10 for five levels. -/
def rvMode (r : DWord) : Nat := pte r.toNat 60 4
def rvRoot (r : DWord) : Nat := pte r.toNat 0 44 * 2 ^ 12

/-- The G-stage of a guest: `kind` of the access that is made, `cause` of the one that began it. -/
def State.gStage (s : State) (k : Hart) (kind cause gpa : Nat) : RvAddr :=
  if rvMode k.hgatp = 0 then .pa gpa
  else if 2 ^ 59 ≤ gpa then .exc (guestFault cause)
  else rvWalk kind (guestFault cause) 2048 gpa true (s.rvEntry { k with part := 31 } cause) 4 (rvRoot k.hgatp)

/-- The physical address of a hart's address. The model keeps no TLB of a hart: every access walks. -/
def State.rvTrans (s : State) (k : Hart) (kind va : Nat) : RvAddr :=
  let root := k.csr.satp
  if !k.isGuest then
    if rvMode root = 0 then .pa va
    else if !canonical va then .exc (pageFault kind)
    else rvWalk kind (pageFault kind) 512 va false (s.rvEntry k kind) 4 (rvRoot root)
  else
    let first := if rvMode root = 0 then RvAddr.pa va
      else if !canonical va then .exc (pageFault kind)
      else rvWalk kind (pageFault kind) 512 va false (fun g =>
        match s.gStage k 1 kind g with
        | .pa a => s.rvEntry k kind a
        | .exc c => (.exc c, 0)) 4 (rvRoot root)
    match first with
    | .pa g => s.gStage k kind kind g
    | .exc c => .exc c

/-- One byte of a hart's access. -/
def State.hartByte (s : State) (k : Hart) (kind va : Nat) : HartHit :=
  match s.rvTrans k kind va with
  | .pa a => s.hartPhys k kind a
  | .exc c => .exc c

/-- A hart's access: its first and its last byte pass, and lie side by side. -/
def State.hartHit (s : State) (k : Hart) (kind va n : Nat) : HartHit :=
  match s.hartByte k kind va, s.hartByte k kind ((va + n - 1) % 2 ^ 64) with
  | .mem a, .mem b => if b = a + n - 1 then .mem a else .exc (misaligned kind)
  | .io a, .io b => if k.tx.isSome ∨ b = a + n - 1 then .io a else .exc (misaligned kind)
  | .exc c, _ => .exc c
  | _, .exc c => .exc c
  | .io a, .mem _ => if k.tx.isSome then .io a else .exc (misaligned kind)
  | .mem _, .io b => if k.tx.isSome then .io b else .exc (misaligned kind)

/-! ### Words of the base ISA -/

/-- What a word does. -/
inductive RvEff where
  | x (rd : BitVec 5) (v : DWord)
  | jump (rd : BitVec 5) (dest : DWord)
  | csr (rd : BitVec 5) (n op : Nat) (x : DWord) (write : Bool)
  | ecall | ebreak | wfi | sret | nop
  deriving DecidableEq, Repr

/-- Immediates of the I, S, B, U and J formats. -/
def immI (w : Word) : DWord := (w.extractLsb' 20 12).signExtend 64
def immB (w : Word) : DWord :=
  ((w.extractLsb' 31 1 ++ w.extractLsb' 7 1 ++ w.extractLsb' 25 6 ++ w.extractLsb' 8 4 ++ 0#1) : BitVec 13).signExtend 64
def immU (w : Word) : DWord := ((w.extractLsb' 12 20 ++ 0#12) : BitVec 32).signExtend 64
def immJ (w : Word) : DWord :=
  ((w.extractLsb' 31 1 ++ w.extractLsb' 12 8 ++ w.extractLsb' 20 1 ++ w.extractLsb' 21 10 ++ 0#1) : BitVec 21).signExtend 64

/-- The integer operations by funct3; `alt` selects SUB and SRA. -/
def rvAlu {n : Nat} (f3 : Nat) (alt : Bool) (a b : BitVec n) (sh : Nat) : BitVec n :=
  match f3 with
  | 0 => if alt then a - b else a + b
  | 1 => a <<< sh
  | 2 => if a.toInt < b.toInt then 1 else 0
  | 3 => if a.toNat < b.toNat then 1 else 0
  | 4 => a ^^^ b
  | 5 => if alt then a.sshiftRight sh else a >>> sh
  | 6 => a ||| b
  | _ => a &&& b

/-- Multiplication, division and remainder by funct3, at a width. -/
def rvMul {n : Nat} (f3 : Nat) (a b : BitVec n) : BitVec n :=
  match f3 with
  | 0 => a * b
  | 1 => BitVec.ofInt n (a.toInt * b.toInt / 2 ^ n)
  | 2 => BitVec.ofInt n (a.toInt * b.toNat / 2 ^ n)
  | 3 => BitVec.ofNat n (a.toNat * b.toNat / 2 ^ n)
  | 4 => if b = 0 then -1 else BitVec.ofInt n (a.toInt.tdiv b.toInt)
  | 5 => if b = 0 then -1 else BitVec.ofNat n (a.toNat / b.toNat)
  | 6 => if b = 0 then a else BitVec.ofInt n (a.toInt.tmod b.toInt)
  | _ => if b = 0 then a else BitVec.ofNat n (a.toNat % b.toNat)

/-- A branch is taken, by funct3; none for a code that is no branch. -/
def rvTaken (f3 : Nat) (a b : DWord) : Option Bool :=
  match f3 with
  | 0 => some (a == b)
  | 1 => some (a != b)
  | 4 => some (decide (a.toInt < b.toInt))
  | 5 => some (decide (b.toInt ≤ a.toInt))
  | 6 => some (decide (a.toNat < b.toNat))
  | 7 => some (decide (b.toNat ≤ a.toNat))
  | _ => none

/-- Register-register words: base operations and multiplication, of 64 bits or of 32. -/
def rvOp (k : Hart) (w : Word) (wide : Bool) : Option RvEff :=
  let rd := w.extractLsb' 7 5
  let f3 := (w.extractLsb' 12 3).toNat
  let f7 := (w.extractLsb' 25 7).toNat
  let a := k.xr (w.extractLsb' 15 5)
  let b := k.xr (w.extractLsb' 20 5)
  let a32 : Word := a.truncate 32
  let b32 : Word := b.truncate 32
  let alt := f7 == 0x20
  if wide then
    if f7 = 1 then some (.x rd (rvMul f3 a b))
    else if f7 = 0 ∨ (alt ∧ (f3 = 0 ∨ f3 = 5)) then some (.x rd (rvAlu f3 alt a b (b.toNat % 64)))
    else none
  else if f7 = 1 ∧ (f3 = 0 ∨ 4 ≤ f3) then some (.x rd ((rvMul f3 a32 b32).signExtend 64))
  else if (f7 = 0 ∧ (f3 = 0 ∨ f3 = 1 ∨ f3 = 5)) ∨ (alt ∧ (f3 = 0 ∨ f3 = 5)) then
    some (.x rd ((rvAlu f3 alt a32 b32 (b.toNat % 32)).signExtend 64))
  else none

/-- Register-immediate words. -/
def rvOpImm (k : Hart) (w : Word) (wide : Bool) : Option RvEff :=
  let rd := w.extractLsb' 7 5
  let f3 := (w.extractLsb' 12 3).toNat
  let a := k.xr (w.extractLsb' 15 5)
  let a32 : Word := a.truncate 32
  let i := immI w
  let i32 : Word := i.truncate 32
  let top := (w.extractLsb' 26 6).toNat
  let alt := top == 0x10
  if wide then
    if f3 = 1 then (if top = 0 then some (.x rd (a <<< (pte i.toNat 0 6))) else none)
    else if f3 = 5 then (if top = 0 ∨ alt then some (.x rd (rvAlu 5 alt a 0 (pte i.toNat 0 6))) else none)
    else some (.x rd (rvAlu f3 false a i 0))
  else if f3 = 0 then some (.x rd ((a32 + i32).signExtend 64))
  else if i.getLsbD 5 then none
  else if f3 = 1 then (if top = 0 then some (.x rd ((a32 <<< (pte i.toNat 0 5)).signExtend 64)) else none)
  else if f3 = 5 then
    (if top = 0 ∨ alt then some (.x rd ((rvAlu 5 alt a32 0 (pte i.toNat 0 5)).signExtend 64)) else none)
  else none

/-- SYSTEM words: calls, SRET, WFI, fences of translations, and the six CSR words. -/
def rvSystem (k : Hart) (w : Word) : Option RvEff :=
  let rd := w.extractLsb' 7 5
  let f3 := (w.extractLsb' 12 3).toNat
  let rs1 := w.extractLsb' 15 5
  let f7 := (w.extractLsb' 25 7).toNat
  if w = 0x00000073#32 then some .ecall
  else if w = 0x00100073#32 then some .ebreak
  else if w = 0x10500073#32 then some .wfi
  else if w = 0x10200073#32 then some .sret
  else if f3 = 0 then
    -- SFENCE.VMA, HFENCE.VVMA, HFENCE.GVMA: the model keeps no TLB of a hart
    (if rd = 0 ∧ (f7 = 0x09 ∨ f7 = 0x11 ∨ f7 = 0x31) then some .nop else none)
  else if f3 = 4 then none
  else
    let x := if f3 < 4 then k.xr rs1 else rs1.zeroExtend 64
    some (.csr rd (w.extractLsb' 20 12).toNat (f3 % 4) x (f3 % 4 == 1 || rs1 != 0))

/-- The word of the base ISA at a hart's pc; none for a word of another extension. -/
def rvBase (k : Hart) (w : Word) : Option RvEff :=
  let rd := w.extractLsb' 7 5
  let rs1 := k.xr (w.extractLsb' 15 5)
  match (w.extractLsb' 0 7).toNat with
  | 0x37 => some (.x rd (immU w))
  | 0x17 => some (.x rd (k.pc + immU w))
  | 0x6F => some (.jump rd (k.pc + immJ w))
  | 0x67 => if w.extractLsb' 12 3 = 0#3 then some (.jump rd ((rs1 + immI w) &&& ~~~1#64)) else none
  | 0x63 => (rvTaken (w.extractLsb' 12 3).toNat rs1 (k.xr (w.extractLsb' 20 5))).map (fun t =>
      .jump 0 (if t then k.pc + immB w else k.pc + 4))
  | 0x13 => rvOpImm k w true
  | 0x1B => rvOpImm k w false
  | 0x33 => rvOp k w true
  | 0x3B => rvOp k w false
  | 0x73 => rvSystem k w
  | _ => none

/-! ### Control and status registers -/

/-- Fields that a root register keeps: mode 0 or 10; any other mode leaves it as it was. -/
def rvRootWrite (old v : DWord) : DWord := if rvMode v = 0 ∨ rvMode v = 10 then v else old

/-- A supervisor register of a world by the low byte of its number: its value. -/
def RvCsr.get (c : RvCsr) (n : Nat) : Option DWord :=
  match n with
  | 0x05 => some c.tvec | 0x40 => some c.scratch | 0x41 => some c.epc | 0x42 => some c.cause | 0x43 => some c.tval
  | 0x80 => some c.satp
  | _ => none

def RvCsr.put (c : RvCsr) (n : Nat) (v : DWord) : RvCsr :=
  match n with
  | 0x05 => { c with tvec := v &&& ~~~3#64 }
  | 0x40 => { c with scratch := v }
  | 0x41 => { c with epc := v &&& ~~~1#64 }
  | 0x42 => { c with cause := v }
  | 0x43 => { c with tval := v }
  | 0x80 => { c with satp := rvRootWrite c.satp v }
  | _ => c

/-- The timestamp and the 2.0 GHz clock, which has run since the package last left reset (R18, R446). -/
def State.rvTime (s : State) : DWord := BitVec.ofNat 64 s.time
def State.rvCycle (s : State) : DWord := BitVec.ofNat 64 (2 * (s.time - s.ctl.epoch))

/-- A register of a hart: 0x1xx of the world that runs, 0x2xx of the guest, the G-stage's root, the world of SRET. -/
def State.csrGet (s : State) (k : Hart) (n : Nat) : Option DWord :=
  if n = 0xC00 then some s.rvCycle
  else if n = 0xC01 then some s.rvTime
  else if n = 0x680 then some k.hgatp
  else if n = 0x600 then some (if k.spv then 0x80 else 0)
  else if n / 256 = 1 then k.csr.get (n % 256)
  else if n / 256 = 2 then k.guest.get (n % 256)
  else none

def Hart.csrPut (k : Hart) (n : Nat) (v : DWord) : Hart :=
  if n = 0x680 then { k with hgatp := rvRootWrite k.hgatp v }
  else if n = 0x600 then { k with spv := v.getLsbD 7 }
  else if n / 256 = 1 then k.modCsr (fun c => c.put (n % 256) v)
  else if n / 256 = 2 then { k with guest := k.guest.put (n % 256) v }
  else k

/-- A CSR word: a guest that names Arbor's registers takes a virtual-instruction exception, a write of a counter is illegal;
none for a register of another extension. -/
def State.rvCsr (s : State) (h : Nat) (rd : BitVec 5) (n op : Nat) (x : DWord) (write : Bool) : Option State :=
  let s := if n = 0xC00 ∨ n = 0xC01 then s.tick else s
  let k := s.hart h
  match s.csrGet k n with
  | none => none
  | some old =>
    if k.isGuest ∧ (n / 256 = 2 ∨ n / 256 = 6) then some (s.hartExc h 22)
    else if write ∧ n / 1024 = 3 then some (s.hartIllegal h)
    else
      let v := if op = 1 then x else if op = 2 then old ||| x else old &&& ~~~x
      let s := if write then s.modHart h (fun k => k.csrPut n v) else s
      some ((s.setX h rd old).hartNext h)

/-- SRET: back to the saved pc; Arbor goes to the guest of the partition that the G-stage names. -/
def State.rvRet (s : State) (h : Nat) : State :=
  s.modHart h (fun k =>
    let p := pte k.hgatp.toNat 44 14
    if !k.isGuest && k.spv && decide (p < Config.parts) then { k with part := p, spv := false, pc := k.host.epc }
    else { k with spv := false, pc := k.csr.epc })

/-- What a word of the base ISA does. Inside an open transaction ECALL, EBREAK and WFI abort it with code pre-empted
(R133, R333). -/
def State.rvDo (s : State) (h : Nat) : RvEff → Option State
  | .x rd v => some ((s.setX h rd v).hartNext h)
  | .jump rd dest => some ((s.setX h rd ((s.hart h).pc + 4)).modHart h (fun k => { k with pc := dest }))
  | .csr rd n op x write => s.rvCsr h rd n op x write
  | .ecall => some (s.hartExc h (if (s.hart h).isGuest then 10 else 9))
  | .ebreak => some (s.hartExc h 3)
  | .wfi => some (if (s.hart h).tx.isSome then s.hartAbort h 0x06 0 else s.hartNext h)
  | .sret => some (s.rvRet h)
  | .nop => some (s.hartNext h)

end Sys2Proof.Machine
end

