-- ==== Sys2Proof/Machine/Kx.lean ====
section
/-! DEFINITION. Base-die harts: the transaction words of R332 (R129 to R133, R333), their memory accesses (R119, R120,
R131, R132, R141) and traps that come from outside (R133). -/

namespace Sys2Proof.Machine

/-! ### Accesses inside a transaction (R130 to R132) -/

/-- The sets of the data cache (R131): a ninth written line of one set has no room. -/
def noRoom (lines : List Nat) (x : Nat) : Bool := 8 ≤ (lines.filter (fun y => y % 128 == x % 128 && y != x)).length

/-- The access of a transaction reaches the homes of some sectors (R132): the younger side of each conflict aborts; the
access goes on if its own transaction is still open. -/
def State.rivals (s : State) (h : Nat) (t : HartTx) (ss : List Nat) (write : Bool) : Bool × State :=
  let hit := s.harts.filter (fun e => e.1 != h && (match e.2.tx with
    | some u => sigHas e.1 (if write then u.reads ++ u.wlines else u.wlines) s.fresh ss
    | none => false))
  let s := s.next
  if hit.any (fun e => e.2.tx.any (fun u => u.ticket < t.ticket)) then (false, s.hartAbort h 0x02 0)
  else (true, hit.foldl (fun s e => s.hartAbort e.1 0x02 0) s)

/-- A transactional read: the value with the transaction's own writes, or none where it aborted. -/
def State.hartTxRead (s : State) (h : Nat) (t : HartTx) (pa n : Nat) : Option Nat × State :=
  let ss := sectors pa n
  let r := s.rivals h t ss false
  if !r.1 then (none, r.2)
  else
    let s := r.2.pullAll (r.2.tagsAt ss .hart)
    let s := s.modHart h (fun k => { k with tx := k.tx.map (fun u => { u with
      reads := u.reads ++ ss.filter (fun x => !u.reads.contains x) }) })
    (some ((List.range n).foldr (fun i acc =>
      ((look t.writes (pa + i)).getD (getD s.mem (pa + i) 0)).toNat + 256 * acc) 0), s.l2Read pa n)

/-- A transactional write, kept in the hart's cache; false where the transaction aborted (R131, R132). -/
def State.hartTxWrite (s : State) (h : Nat) (t : HartTx) (pa n v : Nat) : Bool × State :=
  let ss := sectors pa n
  let r := s.rivals h t ss true
  if !r.1 then r
  else if ss.any (fun x => noRoom t.wlines x) then (false, r.2.hartAbort h 0x04 4)
  else
    (true, r.2.modHart h (fun k => { k with tx := k.tx.map (fun u => { u with
      wlines := u.wlines ++ ss.filter (fun x => !u.wlines.contains x)
      writes := (List.range n).foldl (fun m i => set m (pa + i) (BitVec.ofNat 8 (v / 2 ^ (8 * i)))) u.writes }) }))

/-! ### Loads, stores, AMO, LR, SC, FENCE (R119, R120) -/

/-- A loaded value extended to 64 bits. -/
def rvExt (n : Nat) (uns : Bool) (v : Nat) : DWord :=
  if n = 1 then (if uns then BitVec.ofNat 64 (v % 2 ^ 8) else (BitVec.ofNat 8 v).signExtend 64)
  else if n = 2 then (if uns then BitVec.ofNat 64 (v % 2 ^ 16) else (BitVec.ofNat 16 v).signExtend 64)
  else if n = 4 then (if uns then BitVec.ofNat 64 (v % 2 ^ 32) else (BitVec.ofNat 32 v).signExtend 64)
  else BitVec.ofNat 64 v

/-- The AMO of a funct5 code on n bytes; none for a code that is no AMO. -/
def rvAmo (op : BitVec 5) (n old x : Nat) : Option Nat :=
  let w := 8 * n
  let o := old % 2 ^ w
  let y := x % 2 ^ w
  let so := intOf w true o
  let sy := intOf w true y
  match op.toNat with
  | 0 => some ((o + y) % 2 ^ w)
  | 1 => some y
  | 4 => some (o ^^^ y)
  | 8 => some (o ||| y)
  | 12 => some (o &&& y)
  | 16 => some (if so ≤ sy then o else y)
  | 20 => some (if so ≤ sy then y else o)
  | 24 => some (min o y)
  | 28 => some (max o y)
  | _ => none

/-- A read-modify-write of a hart: in a transaction on its own view, else at the home after the pull of R106. `f` gives
the new value where one is stored; `k` runs with the old one. -/
def State.hartRmw (s : State) (h pa n : Nat) (f : Nat → Option Nat) (k : State → Nat → State) : State :=
  match (s.hart h).tx with
  | some t =>
    let r := s.hartTxRead h t pa n
    (match r.1 with
     | none => r.2
     | some v =>
       match f v with
       | none => k r.2 v
       | some w =>
         let q := r.2.hartTxWrite h t pa n w
         if q.1 then k q.2 v else q.2)
  | none =>
    let s := s.pullAll (s.tagsAt (sectors pa n) .hart)
    let v := getBytes s.mem pa n
    match f v with
    | none => k (s.l2Read pa n) v
    | some w => k ((s.atomicAt pa n).homeWrite pa n w (some h)) v

/-- A plain store: performed at pkg. -/
def State.hartStore (s : State) (h pa n v : Nat) : State :=
  match (s.hart h).tx with
  | some t => let q := s.hartTxWrite h t pa n v; if q.1 then q.2.hartNext h else q.2
  | none => (s.homeWrite pa n v (some h)).hartNext h

/-- A floating-point register takes a loaded value with ones above it. -/
def rvBox (n v : Nat) : DWord := BitVec.ofNat 64 (2 ^ 64 - 2 ^ (8 * n) + v % 2 ^ (8 * n))

/-- The access of one operation to a resolved address. RVWMO leaves many pairs of a hart's accesses unordered (R119); the
model performs each access of a hart when its word executes, in program order (DESIGN CHOICE, notes/assumptions/79.md). -/
def State.hartAccess (s : State) (h : Nat) (op : RvMem) (pa : Nat) : State :=
  let k := s.hart h
  match op with
  | .load rd _ _ size uns =>
    let n := 2 ^ size.toNat
    s.hartRmw h pa n (fun _ => none) (fun s v => (s.setX h rd (rvExt n uns v)).hartNext h)
  | .store rs2 _ _ size => s.hartStore h pa (2 ^ size.toNat) ((k.xr rs2).toNat % 2 ^ (8 * 2 ^ size.toNat))
  | .fload fd _ _ size =>
    let n := 2 ^ size.toNat
    s.hartRmw h pa n (fun _ => none) (fun s v => (s.setF h fd (rvBox n v)).hartNext h)
  | .fstore fs2 _ _ size =>
    s.hartStore h pa (2 ^ size.toNat) ((getD k.f fs2.toNat 0).toNat % 2 ^ (8 * 2 ^ size.toNat))
  | .amo op rd _ rs2 dbl _ _ =>
    let n := if dbl then 8 else 4
    s.hartRmw h pa n (fun v => rvAmo op n v (k.xr rs2).toNat) (fun s v => (s.setX h rd (rvExt n false v)).hartNext h)
  | .lr rd _ dbl _ _ =>
    let n := if dbl then 8 else 4
    s.hartRmw h pa n (fun _ => none) (fun s v =>
      ((s.setX h rd (rvExt n false v)).modHart h (fun k => { k with resv := some (pa, n) })).hartNext h)
  | .sc rd _ rs2 dbl _ _ =>
    let n := if dbl then 8 else 4
    let ok := k.resv == some (pa, n)
    let s := if ok then s.homeWrite pa n ((k.xr rs2).toNat % 2 ^ (8 * n)) (some h) else s
    ((s.setX h rd (if ok then 0 else 1)).modHart h (fun k => { k with resv := none })).hartNext h
  | .fence _ _ => s.hartNext h
  | .fenceTso => s.hartNext h
  | .fenceI => s.hartNext h

/-- Address, bytes, access kind of an operation; none for a fence. -/
def rvTarget (k : Hart) (op : RvMem) : Option (Nat × Nat × Nat) :=
  match op with
  | .load _ rs1 imm size _ => some ((k.xr rs1 + imm.signExtend 64).toNat, 2 ^ size.toNat, 1)
  | .store _ rs1 imm size => some ((k.xr rs1 + imm.signExtend 64).toNat, 2 ^ size.toNat, 2)
  | .fload _ rs1 imm size => some ((k.xr rs1 + imm.signExtend 64).toNat, 2 ^ size.toNat, 1)
  | .fstore _ rs1 imm size => some ((k.xr rs1 + imm.signExtend 64).toNat, 2 ^ size.toNat, 2)
  | .amo _ _ rs1 _ dbl _ _ => some ((k.xr rs1).toNat, if dbl then 8 else 4, 3)
  | .lr _ rs1 dbl _ _ => some ((k.xr rs1).toNat, if dbl then 8 else 4, 1)
  | .sc _ rs1 _ dbl _ _ => some ((k.xr rs1).toNat, if dbl then 8 else 4, 2)
  | .fence _ _ => none
  | .fenceTso => none
  | .fenceI => none

/-- LR and SC (R333). -/
def isLrSc : RvMem → Bool
  | .lr _ _ _ _ _ => true
  | .sc _ _ _ _ _ _ => true
  | .load _ _ _ _ _ => false
  | .store _ _ _ _ => false
  | .fload _ _ _ _ => false
  | .fstore _ _ _ _ => false
  | .amo _ _ _ _ _ _ _ => false
  | .fence _ _ => false
  | .fenceTso => false
  | .fenceI => false

/-- AMO, LR and SC take naturally aligned addresses; an AMO code that does not exist is no instruction (RV64). -/
def rvBad (op : RvMem) (va n : Nat) : Option Nat :=
  match op with
  | .amo c _ _ _ _ _ _ => if (rvAmo c 4 0 0).isNone then some 2 else if va % n = 0 then none else some 6
  | .lr _ _ _ _ _ => if va % n = 0 then none else some 4
  | .sc _ _ _ _ _ _ => if va % n = 0 then none else some 6
  | .load _ _ _ _ _ => none
  | .store _ _ _ _ => none
  | .fload _ _ _ _ => none
  | .fstore _ _ _ _ => none
  | .fence _ _ => none
  | .fenceTso => none
  | .fenceI => none

/-- BASE_DIE_MEMORY_ACCESS (R119, R120, R333). A hart that waits at `kx.lock` executes nothing else. -/
def execBaseDieMemoryAccess (h : Nat) (op : RvMem) (s : State) : Host.Outcome State Fault Refusal :=
  let k := s.hart h
  if Config.harts ≤ h ∨ k.waitLock.isSome then .next s
  else
    match rvTarget k op with
    | none => .next (s.hartNext h)
    | some (va, n, kind) =>
      if k.tx.isSome ∧ isLrSc op then .next (s.hartAbort h 0x0C 0x2F)
      else
        match rvBad op va n with
        | some c => .next (s.hartTrap h (BitVec.ofNat 64 c) (BitVec.ofNat 64 (if c = 2 then 0 else va)))
        | none =>
          match s.hartHit k kind va n with
          | .exc c => .next (s.hartTrap h (BitVec.ofNat 64 c) (BitVec.ofNat 64 va))
          | .io pa => .next (
              if k.tx.isSome then s.hartAbort h 0x05 0
              else if s.isLocal pa then s.hartAccess h op pa
              -- to another package, behind what was sent before on its port (R12, R389)
              else if s.portOf pa = none ∨ s.routeBusy (fun _ => true) (paPkg pa, s.portOf pa) then s
              else (s.drainRoutes [(paPkg pa, s.portOf pa)]).hartAccess h op pa)
          | .mem pa => .next (s.hartAccess h op pa)

/-- HART_TRAP (R133, R143). -/
def execHartTrap (h : Nat) (cause : BitVec 64) (s : State) : Host.Outcome State Fault Refusal :=
  .next (if Config.harts ≤ h then s else s.hartExc h cause)

/-! ### The words of R332 -/

/-- The status of a transaction or lock action of a hart: FB 0 and FAILS 0 (R144). -/
def State.hartStatus (s : State) (h : Nat) (code sub : BitVec 8) : State :=
  s.modHart h (fun k => { k with status := txStatus false 0 sub code })

/-- `kx.begin` (R129, R133). -/
def execKxBegin (rd rs1 : BitVec 5) (s : State) : Host.Outcome State Fault Refusal :=
  let h := s.cur.hart
  let k := s.hart h
  let cls := (k.xr rs1).toNat % 256
  let refuse := fun (c : Nat) =>
    let s := s.hartStatus h 0x0D (BitVec.ofNat 8 c)
    (s.setX h rd ((s.hart h).status.zeroExtend 64)).hartNext h
  .next (match k.tx, k.lock with
    | some _, _ => s.hartAbort h 0x09 0
    | none, some held => refuse held
    | none, none =>
      if (s.lockHeld k.part cls).isSome then refuse cls
      else
        let t := s.tick.takeTicket
        let s := t.2.hartStatus h 0 0
        let u : HartTx := ⟨cls, t.1, rd.toNat, k.pc + 4, [], [], [], k.x, k.f, s.time⟩
        let s := s.modHart h (fun j => { j with tx := some u })
        (s.setX h rd 0).hartNext h)

/-- The writes of a committing transaction, published at their homes (R117, R132). -/
def State.hartPublish (s : State) (h : Nat) (t : HartTx) : State :=
  s.publish t.writes (some h)

/-- `kx.end` (R132, R133): the lock that is released is the one that was taken, whoever runs on the hart by now. -/
def execKxEnd (s : State) : Host.Outcome State Fault Refusal :=
  let h := s.cur.hart
  let k := s.hart h
  .next (match k.tx, k.lock with
    | some t, _ =>
      let s := s.takeTicket.2.modHart h (fun j => { j with tx := none })
      ((s.hartPublish h t).hartStatus h 0 0).hartNext h
    | none, some cls =>
      (((s.freeLock k.lockPart cls).modHart h (fun j => { j with lock := none })).hartStatus h 0 0).hartNext h
    | none, none => (s.hartStatus h 0 0).hartNext h)

/-- `kx.abort` (R129, R133). -/
def execKxAbort (code : BitVec 8) (s : State) : Host.Outcome State Fault Refusal :=
  let h := s.cur.hart
  .next (if (s.hart h).tx.isSome then s.hartAbort h 0x01 code else s.hartNext h)

/-- `kx.stat` (R129). -/
def execKxStat (rd : BitVec 5) (s : State) : Host.Outcome State Fault Refusal :=
  let h := s.cur.hart
  .next ((s.setX h rd ((s.hart h).status.zeroExtend 64)).hartNext h)

/-- `kx.lock` (R127, R133): while the lock is held the hart waits at the word. -/
def execKxLock (rs1 : BitVec 5) (s : State) : Host.Outcome State Fault Refusal :=
  let h := s.cur.hart
  let k := s.hart h
  let cls := (k.xr rs1).toNat % 256
  .next (
    if k.tx.isSome then s.hartAbort h 0x09 0
    else if k.lock.isSome then s.hartIllegal h
    else if (s.lockHeld k.part cls).isSome then s.modHart h (fun j => { j with waitLock := some cls })
    else
      let s := s.takeLock k.part cls (.hart h)
      ((s.modHart h (fun j => { j with lock := some cls, lockPart := k.part, waitLock := none })).hartStatus h 0 0).hartNext h)

end Sys2Proof.Machine
end

