-- ==== Sys2Proof/Machine/Progress.lean ====
section
/-! DEFINITION. What comes to an end in the memory system: flagged operations (R229), walks and their waits (R36, R37, R39,
R40, R154), TLB invalidations (R42), peer accesses (R66), pulls of release sets (R106, R108), waits for class locks
(R127) and time limits (R142). An event whose condition does not hold changes nothing. -/

namespace Sys2Proof.Machine

/-- FLAGGED_OP_COMPLETE (R229). -/
def execFlaggedOpComplete (op : Nat) (lanes : BitVec 32) (s : State) : Host.Outcome State Fault Refusal :=
  .next (match look s.ops op with
    | none => s
    | some o => (((s.complete op lanes).keepArea o.coh).retestBars (s.coh o.coh).block).settleBlk (s.coh o.coh).block)

/-! ### Walks -/

/-- A translation enters the TLBs of every miss that it serves; each cluster's fill counts once (R36, R39, R40). -/
def State.fillAll (s : State) (e : TlbE) (acnt : Nat) (ws : List (Nat × Walk)) : State :=
  let s := ws.foldl (fun s w => s.fillBoth (s.cohCore w.2.coh) e) s
  let clusters := (ws.map (fun w => clusterOf (s.cohCore w.2.coh))).eraseDups
  match ws with
  | [] => s
  | w :: _ =>
    clusters.foldl (fun s _ => s.bumpAcnt acnt (s.tctxPart w.2.tctx) w.2.tctx w.2.va) s

/-- A walk ends: every waiting miss of its die that the page serves completes; a fault is taken by the words that
waited; MV = 1 makes them wait (R37, R40). -/
def State.endWalk (s : State) (k : Nat) : State :=
  match look s.walks k with
  | none => s
  | some w =>
    if w.bad.isSome ∨ w.lvl.isSome then s
    else
      let die := dieOf (s.cohCore w.coh)
      match s.walkOn die w.tctx w.va with
      | .ok e a =>
        let served := fun (x : Nat × Walk) =>
          e.has x.2.tctx x.2.va && x.2.bad.isNone && x.2.lvl.isNone && dieOf (s.cohCore x.2.coh) == die
        let s := ((s.l2Walk die w.tctx w.va).fillPtrs die w.tctx w.va).fillAll e a (s.walks.filter served)
        { s with walks := s.walks.map (fun x => if served x then (x.1, { x.2 with lvl := some e.lvl }) else x) }
      | .bad c l =>
        let same := fun (x : Walk) => x.tctx == w.tctx && x.va / 2 ^ 16 == w.va / 2 ^ 16 && x.lvl.isNone &&
          dieOf (s.cohCore x.coh) == die
        { s with walks := s.walks.map (fun x => if same x.2 then (x.1, { x.2 with bad := some (c, l) }) else x) }
      | .mv _ =>
        if w.mv.isSome then s
        else
          let s := s.tick
          { s with walks := upd s.walks k (fun w => { w with mv := some s.time }) }

/-- WALK_COMPLETE (R40). -/
def execWalkComplete (k : Nat) (s : State) : Host.Outcome State Fault Refusal := .next (s.endWalk k)

/-- MV_WAIT_TIMEOUT (R37): 40 µs after the walk first met MV = 1, with no move of the region in progress. -/
def execMvWaitTimeout (k : Nat) (s : State) : Host.Outcome State Fault Refusal :=
  .next (match look s.walks k with
    | none => s
    | some w =>
      match w.mv, s.walkOn (dieOf (s.cohCore w.coh)) w.tctx w.va with
      | some t, .mv lvl =>
        let s := s.tick
        if t + 40000 ≤ s.time ∧ w.bad.isNone ∧ w.lvl.isNone ∧ !s.moving w.tctx w.va then
          { s with walks := upd s.walks k (fun w => { w with bad := some (0x15, lvl) }) }
        else s
      | _, _ => s)

/-- INSTRUCTION_CACHE_FILL (R154): the fetch of a group that waits for a translation ends. -/
def execInstructionCacheFill (coh : Nat) (pc : BitVec 64) (s : State) : Host.Outcome State Fault Refusal :=
  .next ((s.walks.filter (fun w => w.2.coh == coh && w.2.pc == pc && clauseAt pc == clauseAt (BitVec.ofNat 64 w.2.va))).foldl
    (fun s w => s.endWalk w.1) s)

/-! ### TLB invalidations (R42) -/

/-- The invalidation names an entry. -/
def Inval.hits (v : Inval) (e : TlbE) : Bool :=
  e.tctx == v.tctx &&
    (match v.what with
     | .page va n => e.va < va.toNat + n && va.toNat < e.va + e.size
     | .range lo hi => e.va ≤ hi.toNat && lo.toNat < e.va + e.size
     | .space => true)

/-- TLB_INVALIDATE: a call of the service code of the address space's partition. -/
def execTlbInvalidate (tctx : Nat) (what : InvalWhat) (s : State) : Host.Outcome State Fault Refusal :=
  .next (if s.tctxEn tctx ∧ s.callRoom (s.tctxPart tctx) then
    { s with invals := set s.invals (freshKey s.invals) ⟨s.tctxPart tctx, tctx, what⟩ }
  else s)

/-- The entries of all TLBs that an invalidation drops. -/
def State.dropped (s : State) (v : Inval) : List TlbE :=
  (s.cores.flatMap (fun k => k.2.tlb) ++ s.cluTlb.flatMap (fun c => c.2)).filter v.hits

/-- A physical address that some entries translate to. -/
def inEntries (l : List TlbE) (pa : Nat) : Bool := l.any (fun e => e.pa ≤ pa && pa < e.pa + e.size)

/-- Accesses to memory of an address space that have been translated and not yet performed: operations in flight, and
deterministic atomics that still lie in an order buffer with an address of a dropped entry. -/
def State.inFlight (s : State) (tctx : Nat) (l : List TlbE) : Bool :=
  s.ops.any (fun o => (s.cohGrd o.2.coh).tctx == tctx && o.2.acc.any (fun a => a.2.segs.any (fun g => g.loc == .mem))) ||
    s.cores.any (fun k => k.2.obuf.any (fun e => (s.grd e.grid).tctx == tctx && inEntries l e.pa))

/-- Stores of scope blk that the L1s still hold dirty at addresses of dropped entries are performed at pkg (R42, R96). -/
def State.wbEntries (s : State) (l : List TlbE) : State :=
  if l.isEmpty then s
  else
    s.cores.foldl (fun s k => (k.2.l1.filter (fun x => x.mask != 0 && inEntries l (64 * x.sector))).foldl
      (fun s x => s.wbSector k.1 x.part x.sector) s) s

/-- The walk caches keep no pointer of an address space. -/
def State.dropPtrs (s : State) (tctx : Nat) : State :=
  { s with walkC := s.walkC.map (fun c => (c.1, c.2.filter (fun e => e.tctx != tctx))) }

/-- TLB_INVALIDATE_COMPLETE: not before every access translated by a dropped entry has been performed at pkg, engine
writes on their way among them. -/
def execTlbInvalidateComplete (k : Nat) (s : State) : Host.Outcome State Fault Refusal :=
  .next (match look s.invals k with
    | none => s
    | some v =>
      let l := s.dropped v
      if s.inFlight v.tctx l then s
      else
        let s := (s.drainWrites (fun w => w.part == v.part)).wbEntries l
        ((({ s with invals := del s.invals k } : State).dropTlb v.hits).dropPtrs v.tctx).emit (.mail v.part 0))

/-! ### Peers -/

/-- PEER_ACCESS_ARRIVE (R66): the peer core accepts the accesses, unless the block of the rank is absent. -/
def execPeerAccessArrive (k : Nat) (s : State) : Host.Outcome State Fault Refusal :=
  .next (match look s.transit k with
    | none => s
    | some t =>
      if t.arrived then s
      else
        let there := (s.blkOfRank (s.cohBlk t.coh).placed t.rank).any (fun b => !b.2.exited && b.2.place == .resident)
        let s := match s.blkOfRank (s.cohBlk t.coh).placed t.rank with
          | some b => if there then s.wakeCore b.2.core else s
          | none => s
        { s with transit := upd s.transit k (fun t => { t with arrived := true, acc := if there then t.acc else [] }) })

/-! ### Release sets -/

/-- RELEASE_PULL (R106). -/
def execReleasePull (k : Nat) (s : State) : Host.Outcome State Fault Refusal :=
  .next (match look s.pulls k with
    | none => s
    | some p =>
      let s := (s.wakeCore p.core).pullSet p.core p.rel
      { s with pulls := upd s.pulls k (fun p => { p with acked := true }) })

/-- PULL_ACK (R106): the value is returned once every pull of the access has been acknowledged. -/
def execPullAck (k : Nat) (s : State) : Host.Outcome State Fault Refusal :=
  .next (match look s.pulls k with
    | none => s
    | some p =>
      if !p.acked then s
      else
        let s := { s with pulls := del s.pulls k }
        match look s.ops p.op with
        | none => s
        | some o => (((s.complete p.op p.lanes).keepArea o.coh).retestBars (s.coh o.coh).block).settleBlk (s.coh o.coh).block)

/-- RELEASE_SET_TIMEOUT (R108): a set is written back 20 µs after its release. -/
def execReleaseSetTimeout (core k : Nat) (s : State) : Host.Outcome State Fault Refusal :=
  .next (match (s.core core).rel.find? (fun r => r.id == k) with
    | none => s
    | some r =>
      let s := s.tick
      if r.time + 20000 ≤ s.time then s.wbSectors core r.part r.set else s)

/-! ### Transactions -/

/-- TX_LOCK_WAIT_END (R127): the lock is free, and whoever waits for it tries again. -/
def execTxLockWaitEnd (part cls : Nat) (s : State) : Host.Outcome State Fault Refusal :=
  .next (if (s.lockHeld part cls).isSome then s
  else
    { s with
      cohorts := s.cohorts.map (fun e =>
        if s.cohPart e.1 = part then
          (e.1, { e.2 with lockWait := e.2.lockWait &&& ~~~(maskOf (fun l => (e.2.txOf l).cls == cls)) })
        else e)
      harts := s.harts.map (fun e =>
        if e.2.part = part ∧ e.2.waitLock = some cls then (e.1, { e.2 with waitLock := none }) else e) })

/-- TX_TIME_LIMIT (R142). -/
def execTxTimeLimit (who : TxWho) (s : State) : Host.Outcome State Fault Refusal :=
  .next (match who with
    | .lane c l =>
      let s := s.tick
      if (s.coh c).spec l ∧ ((s.coh c).txOf l).start + 1000 * s.tlim (s.cohPart c) ≤ s.time then s.txAbort c l 0x0B 0 else s
    | .hart h =>
      match (s.hart h).tx with
      | none => s
      | some t =>
        let s := s.tick
        if t.start + 1000 * s.tlim (s.hart h).part ≤ s.time then s.hartAbort h 0x0B 0 else s)

end Sys2Proof.Machine
end

