-- ==== Sys2Proof/Machine/Tier.lean ====
section
/-! DEFINITION. The tier engine: access counters and working-set records (R36, R81 to R83), the choice of frames and victims
(R84, R90), region moves (R85, R86), residency thresholds (R88), bandwidth floors (R91 to R93), and the calls that change
the ownership map (R29, R80, R390). -/

namespace Sys2Proof.Machine

/-! ### Tables and regions of an address space -/

/-- Entries of a table, and the lowest address bit that its index names (R31). -/
def tableSize (lvl : Nat) : Nat := if lvl = 3 then 2048 else 1024
def lvlShift (lvl : Nat) : Nat := 16 + 10 * lvl

/-- Every table below a table: level, address, first VA. -/
def State.tablesAt (s : State) : (lvl table va : Nat) → List (Nat × Nat × Nat)
  | 0, t, va => [(0, t, va)]
  | lvl + 1, t, va =>
    (lvl + 1, t, va) :: (List.range (tableSize (lvl + 1))).flatMap (fun i =>
      let e := getBytes s.mem (t + 8 * i) 8
      if pte e 0 1 = 1 ∧ pte e 1 1 = 0 then
        s.tablesAt lvl (s.norm (pte e 13 39 * 2 ^ 13)) (va + i * 2 ^ lvlShift (lvl + 1))
      else [])

/-- The tables of a context. -/
def State.tablesOf (s : State) (tctx : Nat) : List (Nat × Nat × Nat) :=
  s.tablesAt 3 (s.norm (pte (s.tctxOf tctx) 14 38 * 2 ^ 14)) 0

/-- The contexts of a partition. -/
def State.contextsOf (s : State) (part : Nat) : List Nat :=
  (List.range 64).filter (fun n => s.tctxEn n && s.tctxPart n == part)

/-- Where the entries of a region of virtual space begin: at level 0, or the replicas of a 1 GiB leaf (R36). -/
inductive RegAt where
  | low (a : Nat)
  | big (a : Nat)
  | none
  deriving DecidableEq, Repr

def State.regFrom (s : State) (va : Nat) : (lvl table : Nat) → RegAt
  | 0, t => .low (t + 8 * (walkIdx 0 va / 32 * 32))
  | lvl + 1, t =>
    let e := getBytes s.mem (t + 8 * walkIdx (lvl + 1) va) 8
    if pte e 0 1 = 0 then .none
    else if pte e 1 1 = 1 then .big (t + 8 * (walkIdx (lvl + 1) va / 16 * 16))
    else s.regFrom va lvl (s.norm (pte e 13 39 * 2 ^ 13))

def State.regAt (s : State) (g : TReg) : RegAt := s.regFrom g.va 3 (s.norm (pte (s.tctxOf g.tctx) 14 38 * 2 ^ 14))

/-- The access counter of a region. -/
def State.acnt (s : State) (g : TReg) : Nat :=
  match s.regAt g with
  | .low a => pte (getBytes s.mem a 8) 10 4
  | .big a => pte (getBytes s.mem a 8) 10 4
  | .none => 0

/-- Halves the counter of a region by an RMW at the entry's home (R83). -/
def State.halve (s : State) (g : TReg) : State :=
  let at_ := fun (a : Nat) =>
    let e := getBytes s.mem a 8
    let n := pte e 10 4
    s.homeWrite a 8 (e - n * 2 ^ 10 + n / 2 * 2 ^ 10) none
  match s.regAt g with
  | .low a => at_ a
  | .big a => at_ a
  | .none => s

/-- The 2 MiB frame of a region of small pages: that of its first valid leaf. -/
def State.frameOf (s : State) (g : TReg) : Option Nat :=
  match s.regAt g with
  | .low a => (List.range 32).findSome? (fun i =>
      let e := getBytes s.mem (a + 8 * i) 8
      if pte e 0 1 = 1 ∧ pte e 1 1 = 1 then some (s.norm (pte e 16 36 * 2 ^ 16) / 2 ^ 21) else none)
  | .big _ => none
  | .none => none

/-- The leaves of a partition that map into a frame: entry addresses. -/
def State.leavesOf (s : State) (part frame : Nat) : List Nat :=
  (s.contextsOf part).flatMap (fun n =>
    (s.tablesOf n).flatMap (fun t =>
      if t.1 = 0 then
        ((List.range 1024).filter (fun i =>
          let e := getBytes s.mem (t.2.1 + 8 * i) 8
          pte e 0 1 == 1 && pte e 1 1 == 1 && s.norm (pte e 16 36 * 2 ^ 16) / 2 ^ 21 == frame)).map (fun i => t.2.1 + 8 * i)
      else []))

/-- The mapped regions of a partition. -/
def State.regionsOf (s : State) (part : Nat) : List TReg :=
  (s.contextsOf part).flatMap (fun n =>
    (s.tablesOf n).flatMap (fun t =>
      if t.1 = 0 then ((List.range 32).map (fun j => (⟨part, n, t.2.2 + j * 2 ^ 21⟩ : TReg))).filter (fun g => (s.frameOf g).isSome)
      else []))

/-- A 1 GiB leaf of a table maps into a frame (R33, R36). -/
def State.bigLeaf (s : State) (table f : Nat) : Bool :=
  (List.range 1024).any (fun i =>
    let e := getBytes s.mem (table + 8 * i) 8
    pte e 0 1 == 1 && pte e 1 1 == 1 && pte e 2 2 == 2 && s.norm (pte e 16 36 * 2 ^ 16) / 2 ^ 30 == f / 512)

/-- Regions of a frame that never move (R83, R84, R390): exported ones, those that hold tables, and those that a 1 GiB leaf
maps. -/
def State.fixedFrame (s : State) (f : Nat) : Bool :=
  (getD s.own f .blank).exported || !(s.isLocal (f * 2 ^ 21)) ||
    !(regionOf (paOff (f * 2 ^ 21)) == .hbm || regionOf (paOff (f * 2 ^ 21)) == .cap) ||
    ((List.range 64).filter s.tctxEn).any (fun n => (s.tablesOf n).any (fun t =>
      t.2.1 / 2 ^ 21 == f || (t.1 == 1 && s.bigLeaf t.2.1 f)))

def inHbm (f : Nat) : Bool := regionOf (paOff (f * 2 ^ 21)) == .hbm
def inCap (f : Nat) : Bool := regionOf (paOff (f * 2 ^ 21)) == .cap

/-! ### Working-set records (R81 to R83) -/

def State.tierctl (s : State) (p : Nat) : Nat := (getD s.ctl.tierctl p 0x102#32).toNat
def State.swapen (s : State) (p : Nat) : Bool := pte (s.tierctl p) 8 1 == 1
def State.wst (s : State) (p : Nat) : Nat := pte (s.tierctl p) 0 4

/-- Rebuilds a partition's record and halves its counters. -/
def State.rebuild (s : State) (part : Nat) : State :=
  let mine := s.tier.touched.filter (fun g => g.part == part)
  let rec_ := mine.filter (fun g => s.wst part ≤ s.acnt g && (s.frameOf g).any (fun f => !s.fixedFrame f))
  let s := mine.foldl (fun s g => s.halve g) s
  { s with tier := { s.tier with
      record := s.tier.record.filter (fun g => g.part != part) ++ rec_
      touched := s.tier.touched.filter (fun g => g.part != part || s.acnt g != 0) } }

/-! ### Thresholds (R88) -/

/-- The recorded working set of a grid. -/
def State.workSet (s : State) (g : Grid) : List TReg :=
  s.tier.record.filter (fun r => r.part == g.part && r.tctx == g.tctx)

/-- How many of its regions lie in HBM4E. -/
def State.resident (s : State) (g : Grid) : Nat := ((s.workSet g).filter (fun r => (s.frameOf r).any inHbm)).length

/-- The threshold of a grid is met. -/
def State.resMet (s : State) (g : Grid) : Bool :=
  let w := (s.workSet g).length
  let r := s.resident g
  min g.rpct 100 * w ≤ 100 * r && min ((g.rmin + 1) / 2 * 2) (2 * w) ≤ 2 * r

/-! ### Moves (R84 to R86) -/

/-- Frames of a save area or an eviction area, from its first one on (R190, R382; notes/assumptions/81.md). -/
def areaFrames : Nat := 4096

/-- The areas that Arbor has granted, and the ring of the error log (R439): first frame and number of frames. -/
def State.areas (s : State) : List (Nat × Nat) :=
  (s.ctl.saveArea ++ s.ctl.evictArea).map (fun e => (s.norm e.2 / 2 ^ 21, areaFrames)) ++
    (if s.ctl.logRing = 0 then [] else [(s.norm s.ctl.logRing / 2 ^ 21, 3)])

/-- A frame of an area: it belongs to no partition. -/
def State.inArea (s : State) (f : Nat) : Bool := s.areas.any (fun a => a.1 ≤ f && f < a.1 + a.2)

/-- The first free frame of a run of frames: it belongs to nobody, and to no area. -/
def State.freeIn (s : State) (base n : Nat) : Option Nat :=
  (upto base (min n (s.own.length + 1 + areaFrames * s.areas.length))).find? (fun f =>
    (getD s.own f .blank).owner.isNone && !s.inArea f)

def State.freeHbm (s : State) (die : Nat) : Option Nat := s.freeIn (s.ctl.pkg * 2 ^ 21 + die * 65536) 65536
def State.freeCap (s : State) (die : Nat) : Option Nat := s.freeIn (s.ctl.pkg * 2 ^ 21 + 1048576 + die * 196608) 196608

/-- A frame of the same die if one is free, else any (R84). Which of several free frames is taken is not stated: the model
takes the lowest-numbered one, of the lowest-numbered die where the own die has none (DESIGN CHOICE,
notes/assumptions/78.md). -/
def pickFrame (f : Nat → Option Nat) (die : Nat) : Option Nat :=
  match f die with
  | some x => some x
  | none => (List.range Config.dies).findSome? f

/-- Everything that a move of a frame disturbs: engine writes on their way to it are performed, cached sectors are written
back and dropped, its L2 sectors are written back, constant lines are dropped, open transactions on it abort (R86 steps 2
and 3). -/
def State.clearFrame (s : State) (f : Nat) : State :=
  let mine := fun (x : Nat) => x / 2 ^ 15 == f
  let s := s.drainWrites (fun w => w.pa / 2 ^ 21 == f || (w.pa + w.n - 1) / 2 ^ 21 == f)
  let s := s.cores.foldl (fun s e => (((e.2.l1.filter (fun x => mine x.sector)).map (fun x => (x.part, x.sector)))).foldl
    (fun s x => s.wbDrop e.1 x.1 [x.2]) s) s
  let s := { s.l2Clean f with constC := s.constC.map (fun (c : Nat × List CLine) => (c.1, c.2.filter (fun l => !mine l.sector))) }
  let s := (s.harts.filter (fun e => e.2.tx.any (fun t =>
    (t.reads ++ t.wlines).any mine || Config.sigHit e.1 (f * 2 ^ 15) s.fresh))).foldl
    (fun s e => s.hartAbort e.1 0x06 0) s.next
  let ls := s.cohorts.flatMap (fun e =>
    (e.2.tx.filter (fun t => t.2.isOpen && !t.2.fb && (t.2.rlog ++ t.2.wlog).any (fun x => mine x.sector))).map (fun t => (e.1, t.1)))
  ls.foldl (fun s x => s.txAbort x.1 x.2 0x06 0) s

/-- A move starts (R86 step 1): MV in the leaves, translations dropped. -/
def State.moveStart (s : State) (g : TReg) (old new : Nat) (promote : Bool) : State :=
  let s := (s.leavesOf g.part old).foldl (fun s a =>
    let e := getBytes s.mem a 8
    if pte e 52 1 = 1 then s else s.homeWrite a 8 (e + 2 ^ 52) none) s
  let s := (s.dropTlb (fun e => e.pkey == g.part && e.pa / 2 ^ 21 == old)).clearFrame old
  let o := getD s.own old .blank
  let s := s.tick
  { s with
    own := set s.own new o
    tier := { s.tier with moves := set s.tier.moves (freshKey s.tier.moves) ⟨g, old, new, promote, s.time⟩ } }

/-- A frame is being moved. -/
def State.frameMoves (s : State) (f : Nat) : Bool := s.tier.moves.any (fun m => m.2.old == f || m.2.new == f)

/-- Moves in progress against a die's capacity-tier share (R85). -/
def State.dieMoves (s : State) (die : Nat) : Nat :=
  (s.tier.moves.filter (fun m => frameDie (if m.2.promote then m.2.old else m.2.new) == die)).length

/-- The region to demote for a swap (R84). -/
def State.victim (s : State) (w : Swap) : Option (TReg × Nat) :=
  let ok := fun (p : Nat) => !s.running p && s.swapen p && p != w.part
  let cands := fun (p : Nat) =>
    if ok p then
      ((s.regionsOf p).filterMap (fun g => (s.frameOf g).map (fun f => (g, f)))).filter (fun x =>
        inHbm x.2 && !s.fixedFrame x.2 && !s.frameMoves x.2)
    else []
  let first := sortOn (fun (x : TReg × Nat) => s.acnt x.1) ((w.out.map cands).getD [])
  match first with
  | x :: _ => some x
  | [] => (sortOn (fun (x : TReg × Nat) => s.acnt x.1)
      (((List.range Config.parts).filter (fun p => some p ≠ w.out)).flatMap cands)).head?

/-- One region that a swap can promote now: still in the capacity tier, on a die with a move to spare. -/
def State.nextUp (s : State) (w : Swap) : Option (TReg × Nat) :=
  (w.todo.filterMap (fun g => (s.frameOf g).map (fun f => (g, f)))).find? (fun x =>
    inCap x.2 && !s.fixedFrame x.2 && !s.frameMoves x.2 && s.dieMoves (frameDie x.2) < 4)

/-- Something of a swap is still in the capacity tier. -/
def State.swapLeft (s : State) (w : Swap) : Bool :=
  w.todo.any (fun g => (s.frameOf g).any (fun f => inCap f && !s.fixedFrame f))

/-- A capacity-tier frame for a demoted region, on a die with a move to spare (R85). -/
def State.demoteTo (s : State) (die : Nat) : Option Nat :=
  pickFrame (fun d => if s.dieMoves d < 4 then s.freeCap d else none) die

/-- One move more for a swap, if one can start. Where a demoted region goes is not stated: to the die it is homed on if that
has a free frame and a move to spare, else to the lowest such die. R85 does not say what its alternation of one demotion
with one promotion is counted over: the model starts a demotion only where none is in progress on the package (DESIGN
CHOICE, notes/assumptions/78.md). -/
def State.swapStep (s : State) (w : Swap) : State :=
  match s.nextUp w with
  | none => s
  | some (g, f) =>
    match pickFrame s.freeHbm (frameDie f) with
    | some n => s.moveStart g f n true
    | none =>
      if s.tier.moves.any (fun m => !m.2.promote) then s
      else
        match s.victim w with
        | none => s
        | some (v, old) =>
          match s.demoteTo (frameDie old) with
          | none => s
          | some n => s.moveStart v old n false

/-- A frame of HBM4E is free, or a region can be demoted to make one (R84). -/
def State.canFree (s : State) (w : Swap) : Bool :=
  (pickFrame s.freeHbm 0).isSome || ((s.victim w).isSome && (pickFrame s.freeCap 0).isSome)

/-- A swap goes on as long as a promotion of its own is on its way, or a region is left and a frame is free, being freed, or can
be freed (R84, R90). -/
def State.swapAlive (s : State) (w : Swap) : Bool :=
  s.swapen w.part && (s.tier.moves.any (fun m => m.2.promote && m.2.reg.part == w.part) ||
    (s.swapLeft w && (s.tier.moves.any (fun m => !m.2.promote) || s.canFree w)))

/-- The tier engine starts what it can, up to four moves on each die, and ends the swaps that can do no more. -/
def State.tierRun (s : State) : State :=
  let s := (List.range 16).foldl (fun s _ =>
    s.tier.swaps.foldl (fun s w => if s.swapen w.part then s.swapStep w else s) s) s
  { s with tier := { s.tier with swaps := s.tier.swaps.filter s.swapAlive } }

/-- The regions of a list that a swap takes, highest counter first. -/
def State.byCount (s : State) (l : List TReg) : List TReg := sortOn (fun g => 15 - s.acnt g) l

/-- The swap of a tenant switch (R84). -/
def State.swapStart (s : State) (part : Nat) (out : Option Nat) : State :=
  let todo := s.byCount (s.tier.record.filter (fun g => g.part == part))
  ({ s with tier := { s.tier with
      swaps := s.tier.swaps.filter (fun w => w.part != part) ++ [⟨part, out, todo, false⟩] } } : State).tierRun

/-- What the waiting grids of a partition need, in the order in which they were accepted (R90). -/
def State.demandTodo (s : State) (part : Nat) : List TReg :=
  ((sortOn (fun (e : Nat × Grid) => e.2.serial) (s.grids.filter (fun e =>
    e.2.part == part && e.2.state == .reswait && !s.resMet e.2))).flatMap (fun e => s.byCount (s.workSet e.2))).eraseDups

/-- The on-demand promotion of a grid (R90), shared with the grids of the partition that already wait. -/
def State.demandStart (s : State) (g : Grid) : State :=
  let todo := s.demandTodo g.part
  let on := s.tier.swaps.any (fun w => w.part == g.part)
  let swaps := if on then s.tier.swaps.map (fun w => if w.part = g.part ∧ w.demand then { w with todo := todo } else w)
    else s.tier.swaps ++ [⟨g.part, none, todo, true⟩]
  ({ s with tier := { s.tier with swaps := swaps } } : State).tierRun

/-- The bytes of a frame stand in another one. -/
def copyFrame (m : List Host.Cell) (old new : Nat) : List Host.Cell :=
  let o := old * 2 ^ 21
  let n := new * 2 ^ 21
  let moved := (m.filter (fun c => o ≤ c.1 && c.1 < o + 2 ^ 21)).map (fun c => (n + (c.1 - o), c.2))
  m.filter (fun c => c.1 < n) ++ moved ++ m.filter (fun c => n + 2 ^ 21 ≤ c.1)

/-- An address of the old frame of a move is one of the new frame. -/
def Move.at_ (m : Move) (a : Nat) : Nat := if a / 2 ^ 21 = m.old then m.new * 2 ^ 21 + a % 2 ^ 21 else a

/-- A load follows the regions that it writes. -/
def Load.moved (l : Load) (m : Move) : Load :=
  let into := fun (ps : List (Nat × Nat)) => ps.map (fun p => (m.at_ p.1, p.2))
  { l with parts := into l.parts, earlier := l.earlier.map (fun x => (x.1, x.2.1, into x.2.2)) }

/-- A copy ends (R86 steps 4 and 5): memory, leaves and ownership. Release tags and buffered atomics follow their
location; writes of units that waited for the move are made (R37). The HBM4E side is charged to the owner (R87). -/
def State.moveEnd (s : State) (k : Nat) (m : Move) : State :=
  let s := (s.clearFrame m.old).l2Drop m.old
  let s := s.chargeFrame m.reg.part (if m.promote then m.new else m.old)
  let leaves := s.leavesOf m.reg.part m.old
  let s := { s with mem := copyFrame s.mem m.old m.new }
  let s := leaves.foldl (fun s a =>
    let e := getBytes s.mem a 8
    let low := pte e 16 5
    let e' := pte e 0 8 + (if m.promote then 0 else 1) * 2 ^ 8 + pte e 10 6 * 2 ^ 10 +
      (m.new * 32 + low) * 2 ^ 16 + pte e 53 11 * 2 ^ 53
    s.homeWrite a 8 e' none) s
  ({ s with
    own := del (set s.own m.new (getD s.own m.old .blank)) m.old
    svc := { s.svc with
      -- what cannot be read stays so where it has been copied (R438)
      bad := s.svc.bad.filter (fun w => w / 2 ^ 21 != m.new) ++ (s.svc.bad.filter (fun w => w / 2 ^ 21 == m.old)).map m.at_
      loads := s.svc.loads.map (fun l => (l.1, l.2.moved m)) }
    queues := s.queues.map (fun q => (q.1, { q.2 with spillPages := q.2.spillPages.map m.at_ }))
    cores := s.cores.map (fun c => (c.1, { c.2 with
      rel := c.2.rel.map (fun t => { t with sector := m.at_ (64 * t.sector) / 64 })
      obuf := c.2.obuf.map (fun b => { b with pa := m.at_ b.pa })
      savedBuf := c.2.savedBuf.map (fun b => { b with pa := m.at_ b.pa }) }))
    tier := { s.tier with moves := del s.tier.moves k } } : State).retryLate

/-- Accesses to a frame that are still to be performed (R42, R86). -/
def State.frameBusy (s : State) (f : Nat) : Bool :=
  s.ops.any (fun o => o.2.acc.any (fun a => a.2.segs.any (fun g => g.loc == .mem && g.a / 2 ^ 21 == f)))

/-! ### Floors (R91 to R93) -/

/-- FLOOR_WINDOW: a new window of 1 µs begins; no partition has been granted anything in it. -/
def execFloorWindow (s : State) : Host.Outcome State Fault Refusal :=
  .next { s with ctl := { s.ctl with granted := [] } }

/-- The sum of the floors of all partitions on a channel. -/
def State.floorSum (s : State) (ch : Nat) : Nat :=
  (List.range Config.parts).foldl (fun n p => n + (getD s.ctl.floor (1024 * p + ch) 0).toNat) 0

/-- FLOOR_REQUEST (R91, R415): refused where the channel's floors would exceed 351 units. -/
def execFloorRequest (part ch : Nat) (units : BitVec 9) (s : State) : Host.Outcome State Fault Refusal :=
  .next (
    if Config.parts ≤ part ∨ 1024 ≤ ch ∨ !s.callRoom part then s
    else
      let key := 1024 * part + ch
      let old := (getD s.ctl.floor key 0).toNat
      if 351 < s.floorSum ch - old + units.toNat then s.emit (.mail part 1)
      else ({ s with ctl := { s.ctl with floor := put s.ctl.floor key units 0 } } : State).emit (.mail part 0))

/-! ### The ownership map -/

/-- Memory that a frame number names on this package. -/
def State.ownable (s : State) (f : Nat) : Bool :=
  f < 2 ^ 31 && !s.inArea f && s.isLocal (f * 2 ^ 21) && regionOf (paOff (f * 2 ^ 21)) != .none && regionOf (paOff (f * 2 ^ 21)) != .host

/-- Regions of the package that belong to partitions; one that is being moved counts once (R80). -/
def State.grantedRegions (s : State) : Nat :=
  (s.own.filter (fun e => e.1 / 2 ^ 21 == s.ctl.pkg && e.2.owner.isSome && !s.tier.moves.any (fun m => m.2.new == e.1))).length

/-- The most that Arbor grants: 512 GiB and 1.5 TiB in regions of 2 MiB (R80). -/
def mostGranted : Nat := 262144 + 786432

/-- MEMORY_GRANT (R29, R80): a free region goes to a partition, or one of its regions is taken back. -/
def execMemoryGrant (part region : Nat) (on : Bool) (s : State) : Host.Outcome State Fault Refusal :=
  .next (
    let o := getD s.own region .blank
    if !s.callRoom part then s
    else if Config.parts ≤ part ∨ !s.ownable region ∨ s.frameMoves region then s.emit (.mail part 1)
    else if on then
      (if o.owner.isSome ∨ mostGranted ≤ s.grantedRegions then s.emit (.mail part 1)
       else ({ s with own := set s.own region { o with owner := some part } } : State).emit (.mail part 0))
    else if o.owner ≠ some part ∨ s.frameBusy region then s.emit (.mail part 1)
    else ({ s.clearFrame region with own := del s.own region } : State).emit (.mail part 0))

/-- EXPORT_REGION (R390): Arbor marks a region of the partition exported. -/
def execExportRegion (part region : Nat) (s : State) : Host.Outcome State Fault Refusal :=
  .next (
    let o := getD s.own region .blank
    if !s.callRoom part then s
    else if o.owner ≠ some part ∨ s.frameMoves region then s.emit (.mail part 1)
    else ({ s with own := set s.own region { o with exported := true } } : State).emit (.mail part 0))

end Sys2Proof.Machine
end

