-- ==== Sys2Proof/Machine/Launch.lean ====
section
/-! DEFINITION. Launches: the record and its checks (R172 to R174, R221, R403), dependences and the indirect count (R180,
R181), the launch state machine up to PLACING (R178, R179, R182, R183, R88 to R90, R197), retirement (R176, R177, R184,
R412), cancellation (R182, R413), and operating points (R14, R17, R183, R444). -/

namespace Sys2Proof.Machine

/-! ### The record -/

/-- A format slot is legal (R221). -/
def slotOk (nring f : Nat) : Bool :=
  fsCode f ≤ 13 && f / 2 ^ 39 == 0 && bits32 f 24 3 ≤ 4 &&
    (!(5 ≤ fsCode f && fsCode f ≤ 11) ||
      (fsSrc f ≤ 2 && fsBsz f ≤ 2 && (fsSrc f != 1 || fsRing f < nring) && (fsSrc f != 2 || fsScale f / 4 != 255)))

/-- Rows that one block needs (R51). -/
def Grid.rowsNeed (g : Grid) : Nat := g.scrRows + g.spRows + g.winSize * g.cohN

/-- The record is valid (R172, R174). -/
def State.recordOk (s : State) (g : Grid) : Bool :=
  let cs := s.cshareOf (s.shareOf g.part)
  let al := fun (v n : Nat) => canonical v && v % n == 0
  let within := fun (v lo hi : Nat) => lo ≤ v && v ≤ hi
  al (g.dw 0) 64 && within g.bpc 1 8 && within g.recCpd 1 24 && within g.nd 1 4 && within g.np 1 576 &&
    within g.cohN 1 32 && within g.vregs 16 128 && g.vregs % 16 == 0 && g.scr ≤ 4096 && g.spl ≤ min 60 g.vregs &&
    pte (g.dw 3) 3 5 == 0 && (g.lq || g.lqn == 0) && canonical (g.dw 4) && canonical g.depsVa && canonical g.rstt &&
    g.nring ≤ 64 && pte (g.dw 7) 7 25 == 0 && (List.range 8).all (fun i => slotOk g.nring (g.fslot i)) &&
    al g.stat 64 && al g.crec 16 && al g.indir 4 && al g.sovf 64 && (upto 20 12).all (fun i => g.dw i == 0) &&
    !(g.det && g.lq) && g.rowsNeed + csL1Min cs ≤ csRows cs && g.cohN ≤ csNslot cs

/-- What the scheduler reads at an address: a number, a fault, or MV = 1. -/
inductive Got where
  | val (n : Nat)
  | bad
  | wait
  deriving DecidableEq, Repr

/-- The scheduler reads n bytes through a context, as an acquire (R173, R180, R181); at MV = 1 it waits (R37). -/
def State.schedRead (s : State) (u : MvUnit) (part tctx va n : Nat) : Got × State :=
  let ps := s.pages none part tctx 1 va n
  match okPieces ps with
  | some l =>
    let ss := l.flatMap (fun p => sectors p.1 p.2)
    let s := (s.mvOver u).pullAll (s.tagsAt ss .hart)
    (.val (s.getPieces l), s)
  | none =>
    if pagesMove ps then
      let w := s.mvMeet u tctx ps
      (if w.1 then .wait else .bad, w.2)
    else (.bad, s.mvOver u)

/-- Doublewords of a number. -/
def dwords (n v : Nat) : List DWord := (List.range n).map (fun i => BitVec.ofNat 64 (v / 2 ^ (64 * i)))

/-- The gang descriptor (R403): valid for a record, with the member list. -/
def gangOk (s : State) (g : Grid) (d : Nat) (ml : List Nat) : Bool :=
  pte d 32 16 == g.np && pte d 48 16 == 0 && pte d 80 48 == 0 && d / 2 ^ 192 == 0 && canonical (pte d 128 64) &&
    ml.length == g.np && ml.all (· < 576) && ml.contains s.ctl.pkg && ml.eraseDups.length == ml.length &&
    !(g.det && pte d 128 64 != 0)

/-- What acceptance finds: the grid, whether it is valid, and the cause where it is not. R174 gives no precedence where a
launch has both a bad field and a list that cannot be read: the record's own fields are checked first, cause 1 (DESIGN
CHOICE, notes/assumptions/77.md). Where a page is being moved, the submission waits. -/
def State.readLaunch (s : State) (vf record gang tag flags : Nat) : Except State (Grid × Nat × State) :=
  let part := s.tctxPart vf
  let u : MvUnit := .submit vf
  let g0 : Grid := { Grid.blank with tctx := vf, part := part, tag := BitVec.ofNat 64 tag, note := flags % 2 == 1, vf := vf, state := .queued }
  if record % 64 ≠ 0 ∨ 2 ≤ flags then .ok (g0, 1, s)
  else
    let r := s.schedRead u part vf record 256
    match r.1 with
    | .wait => .error r.2
    | .bad => .ok (g0, 6, r.2)
    | .val v =>
      let s := r.2
      let g := { g0 with rcd := dwords 32 v }
      let g := { g with cpd := g.recCpd }
      if !s.recordOk g then .ok (g, 1, s)
      else
        let d := if g.ndep = 0 then (Got.val 0, s) else s.schedRead u part vf g.depsVa (8 * g.ndep)
        match d.1 with
        | .wait => .error d.2
        | .bad => .ok (g, 6, d.2)
        | .val w =>
          let s := d.2
          let g := { g with deps := dwords g.ndep w }
          if g.np = 1 then (if gang = 0 then .ok (g, 0, s) else .ok (g, 1, s))
          else if gang = 0 then .ok (g, 1, s)
          else
            let q := s.schedRead u part vf gang 64
            match q.1 with
            | .wait => .error q.2
            | .bad => .ok (g, 6, q.2)
            | .val x =>
              let s := q.2
              let va := pte x 128 64
              let l := if va = 0 ∨ 576 < g.np then (Got.val 0, s) else s.schedRead u part vf va (2 * g.np)
              match l.1 with
              | .wait => .error l.2
              | .bad => .ok (g, 6, l.2)
              | .val y =>
                let ml := if va = 0 then List.range g.np else (List.range g.np).map (fun i => pte y (16 * i) 16)
                if !gangOk l.2 g x ml then .ok (g, 1, l.2)
                else
                  let pt := pte x 64 16
                  let k : Gang := {
                    gid := BitVec.ofNat 32 x
                    q := ml.findIdx (· == s.ctl.pkg)
                    members := ml
                    ptmo := if pt = 0 then 1000 else pt
                    digest := Config.sha384 (leBytes 256 v ++ leBytes 64 x)
                    phase := .preparing
                    reserved := none
                    ready := []
                    acks := []
                    readyAt := 0
                    goAt := 0 }
                  .ok ({ g with gang := some k }, 0, l.2)

/-! ### Source numbers, operating points -/

/-- The scheduler that speaks for a grid (R178). -/
def Grid.source (g : Grid) : Nat := 0x0870 + (g.dies.head?).getD 0

/-- The grid holds a point on its dies (R183). -/
def Grid.holdsPoint (g : Grid) : Bool := g.state == .opwait || g.state == .placing || g.state == .running || g.state == .draining

/-- The point that the hints and the default ask of a die (R183). -/
def State.wantOf (s : State) (die : Nat) : Nat :=
  match (s.grids.filter (fun e => e.2.holdsPoint && e.2.ophen && e.2.dies.contains die)).map (fun e => e.2.oph) with
  | [] => getD s.ctl.defPoint die 0
  | x :: t => t.foldl max x

/-- The highest point that the package limit leaves a die (R17). -/
def State.capOf (s : State) (die : Nat) : Nat := 15 - getD s.ctl.limit die 0

/-- Requests follow the grids (R183). -/
def State.request (s : State) : State :=
  { s with ctl := { s.ctl with want := (List.range Config.dies).foldl (fun m d => put m d (s.wantOf d) 0) s.ctl.want } }

/-! ### Retirement -/

/-- A queue that a grid has bound is unbound (R197). -/
def State.unbind (s : State) (g : Grid) : State :=
  if g.bound then s.modQueue g.part g.lqn (fun q => { q with bound := false }) else s

/-- The spawn overflow area after the end of a grid: CAP stands, the rest is unpredictable (R165). -/
def State.junkArea (s : State) (g : Grid) : State :=
  if g.sovf = 0 then s
  else
    let byte := fun (s : State) (va : Nat) =>
      match s.page none g.part g.tctx 2 va with
      | .ok pa _ => { s with mem := put s.mem pa (Config.junk s.fresh) 0, fresh := s.fresh + 1 }
      | .bad _ _ => s
      | .mv => s
    match okPieces (s.pages none g.part g.tctx 1 g.sovf 4) with
    | none => s
    | some l =>
      let n := 60 + s.getPieces l * g.entrySize
      (List.range n).foldl (fun s i => byte s ((g.sovf + 4 + i) % 2 ^ 64)) s

/-- A grid retires with STATE and CAUSE (R176, R177, R184, R412): its blocks and cohorts go. `stat` where it kept a status
area. A completion record or status area on a page that is being moved is written when the move ends (R37), the record after
the status area and the completion entry after the record; on a page that does not translate it is not written, and the grid retires all the same (DESIGN CHOICE, notes/assumptions/76.md). -/
def State.retire (s : State) (g code cause : Nat) (stat : Bool) : State :=
  let s := s.tick
  let r := s.grd g
  let ran := r.done ≠ []
  let s := s.modGrd g (fun k => { k with
    state := .retired
    code := code
    cause := cause
    tend := s.time
    bound := false
    gang := k.gang.map (fun (q : Gang) => { q with reserved := none }) })
  let s := if stat then s.putStat g else s
  let s := if ran then s.junkArea r else s
  let rec_ := r.crec ≠ 0 ∧ r.crec % 16 = 0
  let entry : CEntry := ⟨r.tag, code, cause, r.tstart % 2 ^ 64, s.time % 2 ^ 64⟩
  let s := if rec_ ∨ r.note then
      s.unitPut ⟨r.part, r.tctx, r.crec, if rec_ then 16 else 0, code + cause * 2 ^ 8 + s.time % 2 ^ 64 * 2 ^ 64, s.time, g,
        if r.note then some (r.vf, entry) else none⟩
    else s
  let s := s.unbind r
  let bs := (s.blksOf g).map Prod.fst
  let s := { s with
    cohorts := s.cohorts.filter (fun e => !bs.contains e.2.block)
    blocks := s.blocks.filter (fun e => e.2.grid != g)
    placed := s.placed.filter (fun e => e.2.grid != g)
    constC := s.constC.map (fun (c : Nat × List CLine) => (c.1, c.2.filter (fun l => l.grid != g)))
    traps := { s.traps with info := s.traps.info.filter (fun t => t.grid != g) } }
  s.request

/-! ### From acceptance to PLACING (R182) -/

/-- What a dependence reads as: satisfied, pending, or how the launch ends. -/
def State.depState (s : State) (k : Nat) (g : Grid) (va : Nat) : Nat × State :=
  let r := s.schedRead (.grid k) g.part g.tctx va 8
  match r.1 with
  | .bad => (6, r.2)
  | .wait => (0, r.2)
  | .val v => (if v % 256 = 3 then 2 else if v % 256 = 1 ∨ v % 256 = 2 then 1 else 0, r.2)

/-- Reads every pending dependence of a grid (R180): 0 pending, 1 satisfied, else the cause of its retirement plus 10. -/
def State.depRead (s : State) (k : Nat) : Nat × State :=
  let g := s.grd k
  g.deps.foldl (fun (a : Nat × State) va =>
    if 10 ≤ a.1 then a
    else
      let d := a.2.depState k g va.toNat
      if d.1 = 6 then (16, d.2)
      else if d.1 = 2 then (12, d.2)
      else if d.1 = 1 then (a.1, d.2.modGrd k (fun r => { r with deps := r.deps.filter (· != va) }))
      else (0, d.2)) (1, s)

/-- A grid leaves RESWAIT for OPWAIT: its dies are chosen and its point is requested (R183). -/
def State.freeCores (s : State) (part die : Nat) : Nat :=
  ((upto (die * 192) 192).filter (fun c =>
    !s.blocks.any (fun b => b.2.core == c && (s.grd b.2.grid).part == part && s.holdsRows b.2))).length

def State.toOpwait (s : State) (k : Nat) : State :=
  let g := s.grd k
  let dies :=
    if g.det then List.range g.nd
    else sortOn id ((sortOn (fun d => 192 - s.freeCores g.part d) (List.range Config.dies)).take g.nd)
  (s.modGrd k (fun r => { r with state := .opwait, dies := dies })).request

/-- RESWAIT (R88, R89, R90): only for a running partition (R387). -/
def State.stepReswait (s : State) (k : Nat) : State :=
  let g := s.grd k
  if !s.running g.part then s
  else if s.resMet g then s.toOpwait k
  else
    let s := if s.tier.swaps.any (fun w => w.part == g.part && !w.demand) then s else s.demandStart g
    if s.resMet g then s.toOpwait k
    else if s.tier.swaps.any (fun w => w.part == g.part) then s
    else
      let w := (s.workSet g).length
      let r := s.resident g
      let s := (s.modGrd k (fun x => { x with rshort := true })).putStat k
      let s := s.event g.part 2 0x0870 g.rmin g.tag (BitVec.ofNat 64 (min g.rpct 255 + w % 2 ^ 24 * 2 ^ 8 + r % 2 ^ 24 * 2 ^ 32))
      s.toOpwait k

/-- COUNT (R181). -/
def State.stepCount (s : State) (k : Nat) : State :=
  let g := s.grd k
  if g.indir = 0 then s.modGrd k (fun r => { r with state := .reswait })
  else
    let r := s.schedRead (.grid k) g.part g.tctx g.indir 4
    match r.1 with
    | .wait => r.2
    | .bad => r.2.retire k 3 6 true
    | .val v =>
      if v = 0 then r.2.retire k 1 0 true
      else if 24 < v then r.2.retire k 3 3 true
      else r.2.modGrd k (fun r => { r with cpd := v, state := .reswait })

/-- A grid goes as far towards OPWAIT as it can. -/
def State.stepLaunch (s : State) (k : Nat) : State :=
  let s := if (s.grd k).state = .depwait then
      let d := s.depRead k
      if d.1 = 1 then d.2.modGrd k (fun r => { r with state := .count })
      else if 10 ≤ d.1 then d.2.retire k 3 (d.1 - 10) true
      else d.2
    else s
  let s := if (s.grd k).state = .count then s.stepCount k else s
  if (s.grd k).state = .reswait then s.stepReswait k else s

def State.schedctl (s : State) (p : Nat) : Nat := (getD s.ctl.schedctl p 0x10010#32).toNat

/-- Grids of a partition in PLACING, RUNNING or DRAINING. -/
def State.runCount (s : State) (part : Nat) : Nat :=
  (s.grids.filter (fun e => e.2.part == part && (e.2.state == .placing || e.2.state == .running || e.2.state == .draining))).length

/-- The rails and the limit let a grid start (R183). -/
def State.pointOk (s : State) (g : Grid) : Bool :=
  !g.ophen || g.dies.all (fun d => g.oph ≤ getD s.ctl.point d 0 || s.capOf d ≤ getD s.ctl.point d 0)

/-- OPWAIT to PLACING (R179, R182); a launch queue is bound, or the grid retires (R197). -/
def State.letIn (s : State) (k : Nat) : State :=
  let g := s.grd k
  if g.state ≠ .opwait ∨ !s.running g.part ∨ !s.pointOk g ∨ pte (s.schedctl g.part) 0 7 ≤ s.runCount g.part then s
  else if g.lq then
    let q := s.queue g.part g.lqn
    -- such a launch is invalid, and has its event (R174, R197)
    if q.ring = 0 ∨ q.bound then (s.retire k 3 1 true).event g.part 1 g.source 0 g.tag 1
    else ((s.modQueue g.part g.lqn (fun q => { q with bound := true })).serveWaits g.part g.lqn).modGrd k
        (fun r => { r with state := .placing, bound := true })
  else s.modGrd k (fun r => { r with state := .placing })

/-- Every waiting launch of the package is taken on: dependences and counts first, then admissions by priority. A launch
that retires on the way lets others go on, so the pass is made once for each launch. -/
def State.launchRun (s : State) : State :=
  let pass := fun (s : State) =>
    let s := s.grids.foldl (fun s e => s.stepLaunch e.1) s
    (sortOn (fun (e : Nat × Grid) => 7 - e.2.prio) s.grids).foldl (fun s e => s.letIn e.1) s
  s.grids.foldl (fun s _ => pass s) s

/-- A launch of a partition that has nothing running on its share makes the partition run there (R409); what a switch has saved
of it is restored first (R386). -/
def State.wake (s : State) (part : Nat) : State :=
  let n := s.shareOf part
  let h := getD s.shares n .blank
  if h.running.isNone ∧ h.phase = .idle ∧ pte (s.pctlOf part) 7 1 = 1 then
    let s := s.tick
    if s.blocks.any (fun b => b.2.place == .saved && (s.grd b.2.grid).part == part) then
      { s with shares := set s.shares n { h with phase := .restore, next := some part, since := s.time } }
    else { s with shares := set s.shares n { h with running := some part, since := s.time } }
  else s

/-- SUBMIT_ENTRY (R412, R173, R174). A launch found invalid here retires at once (R174), and its status area is not written,
neither zeroed nor given TEND: DESIGN CHOICE beside R177, log entry 102. -/
def execSubmitEntry (vf : Nat) (record gang tag flags : BitVec 64) (s : State) : Host.Outcome State Fault Refusal :=
  .next (
    if !(s.vf vf).featuresOk ∨ !s.tctxEn vf then s
    else
      match s.readLaunch vf record.toNat gang.toNat tag.toNat flags.toNat with
      | .error t => t
      | .ok (g, cause, t) =>
        let k := freshKey t.grids
        if cause ≠ 0 then
          let t := { t with grids := set t.grids k g }
          ((t.retire k 3 cause false).event g.part 1 0x0870 0 tag (BitVec.ofNat 64 cause)).launchRun
        else
          let n := getD t.serials g.part 0
          let t := { t with
            serials := put t.serials g.part ((n + 1) % 2 ^ 32) 0
            grids := set t.grids k { g with serial := n, state := .depwait } }
          ((t.putStat k).wake g.part).launchRun)

/-- DEPENDENCE_POLL (R180). -/
def execDependencePoll (s : State) : Host.Outcome State Fault Refusal := .next s.launchRun

/-- CANCEL_LAUNCH (R182, R413). -/
def State.cancelIf (s : State) (f : Grid → Bool) : Nat × State :=
  let early := fun (g : Grid) => g.state == .queued || g.state == .depwait || g.state == .count || g.state == .reswait ||
    g.state == .opwait || g.state == .placing
  let hit := s.grids.filter (fun e => early e.2 && f e.2)
  (hit.length, (hit.foldl (fun s e => s.retire e.1 3 4 true) s).launchRun)

def execCancelLaunch (vf : Nat) (tag : BitVec 64) (s : State) : Host.Outcome State Fault Refusal :=
  .next (
    if !(s.vf vf).featuresOk ∨ !s.callRoom (s.tctxPart vf) then s
    else
      let r := s.cancelIf (fun g => g.vf == vf && g.tag == tag)
      r.2.emit (.ctl vf (if r.1 = 0 then 1 else 0) []))

/-- GRID_RETIRE (R182, R184, R194): once nothing of it is in flight, a draining grid drains its order buffers and retires; writes of engines still on their way are performed before the release (R115). -/
def execGridRetire (grid : Nat) (s : State) : Host.Outcome State Fault Refusal :=
  .next (
    let g := s.grd grid
    let bs := s.blksOf grid
    let busy := s.ops.any (fun o => (s.coh o.2.coh).block ∈ bs.map Prod.fst) ||
      -- each record of the grid adds to TRAPS before it retires (R371)
      s.traps.info.any (fun t => t.grid == grid && !t.written) ||
      s.cores.any (fun c => c.2.opt.any (fun e => e.2.busy && e.2.grid == grid)) || bs.any (fun b => s.peerBusy b.2)
    if g.state ≠ .draining ∨ !s.running g.part then s
    else
      if busy then s
      else
      let s := (sortOn (fun (b : Nat × Block) => b.2.blk) bs).foldl (fun s b => s.flushBuf b.2.core (fun e => e.block == b.1)) s
      let s := s.drainWrites (fun w => w.part == g.part)
      let s := (bs.map (fun b => b.2.core)).eraseDups.foldl (fun s c => s.wbAll c g.part) s
      let g := s.grd grid
      let s := if g.aborted then s.retire grid 3 5 true
        else s.retire grid (if g.traps = 0 then 1 else 2) 0 true
      s.launchRun)

/-! ### Operating points -/

/-- RAILS_SETTLED (R14, R183, R444): a die runs at the requested point, or at the limit. -/
def execRailsSettled (die : Nat) (s : State) : Host.Outcome State Fault Refusal :=
  .next (
    if Config.dies ≤ die then s
    else
      ({ s with ctl := { s.ctl with point := put s.ctl.point die (min (getD s.ctl.want die 0) (s.capOf die)) 0 } } : State).launchRun)

/-- The partitions that have blocks on a die hear of its new point (R17). -/
def State.pointEvent (s : State) (die new : Nat) : State :=
  let ps := (s.blocks.filter (fun b => dieOf b.2.core == die && !b.2.exited)).map (fun b => (s.grd b.2.grid).part)
  ps.eraseDups.foldl (fun s p => s.event p 3 0x08C0 0 (BitVec.ofNat 64 new) 0) s

/-- The limit of a die changes. -/
def State.setLimit (s : State) (die lim : Nat) : State :=
  { s with ctl := { s.ctl with limit := put s.ctl.limit die lim 0 } }

/-- POWER_LIMIT_STEP_DOWN (R17): every die above the lowest requested point goes one step down. -/
def execPowerLimitStepDown (s : State) : Host.Outcome State Fault Refusal :=
  .next (
    let low := (List.range Config.dies).foldl (fun m d => min m (getD s.ctl.want d 0)) 15
    (List.range Config.dies).foldl (fun s d =>
      let p := getD s.ctl.point d 0
      -- the cores run at the lower point at once (R444)
      if low < p then
        let s := s.setLimit d (15 - (p - 1))
        ({ s with ctl := { s.ctl with point := put s.ctl.point d (p - 1) 0 } } : State).pointEvent d (p - 1)
      else s) s)

/-- POWER_LIMIT_STEP_UP (R17): one step is given back; a die that the limit held, below the point asked of it, goes one step up:
it runs at the lower point until its rails have settled (R444). -/
def execPowerLimitStepUp (s : State) : Host.Outcome State Fault Refusal :=
  .next ((List.range Config.dies).foldl (fun s d =>
    let l := getD s.ctl.limit d 0
    let p := getD s.ctl.point d 0
    if l = 0 then s
    else
      let t := s.setLimit d (l - 1)
      if p = s.capOf d ∧ p < getD s.ctl.want d 0 then t.pointEvent d (p + 1) else t) s)

/-- REGION_MOVE_COMPLETE (R86, R88 to R90): the next moves start and thresholds are tested again. -/
def execRegionMoveComplete (k : Nat) (s : State) : Host.Outcome State Fault Refusal :=
  .next (match look s.tier.moves k with
    | none => s
    | some m =>
      if s.frameBusy m.old then s
      else
        let s := s.moveEnd k m
        let part := m.reg.part
        -- an on-demand promotion ends once no grid of the partition needs it
        let need := s.grids.any (fun e => e.2.part == part && e.2.state == .reswait && !s.resMet e.2)
        let s := if need then s
          else { s with tier := { s.tier with swaps := s.tier.swaps.filter (fun w => !(w.demand && w.part == part)) } }
        s.tierRun.launchRun)

end Sys2Proof.Machine
end

