-- ==== Sys2Proof/Machine/Place.lean ====
section
/-! DEFINITION. Placement of clusters (R51, R54, R65, R78, R147, R149, R179, R185, R186, R191, R404), active positions
(R188), eviction at blocking points (R189, R190), the group store (R150), the spawn former (R164 to R166), cohorts started
from launch queues (R197), and the Belvedere (R168, R169). -/

namespace Sys2Proof.Machine

/-! ### What a group waits for -/

/-- The header and the word that a group issues next, as their bytes can be fetched now. -/
def State.nextWord (s : State) (c : Nat) (m : LaneMask) : Option (DWord × Option Instr) :=
  let pc := (s.coh c).pcOf (lowLane m)
  let at_ := if pc.toNat % 64 = 0 then pc.toNat + 8 else pc.toNat
  match s.fetch c m pc (clauseAt pc), s.fetch c m pc at_ with
  | .word h, .word w => some (h, match decodeWord w with | .ok i => some i | .error _ => none)
  | .word h, .bad _ _ => some (h, none)
  | .word _, .wait => none
  | .bad _ _, _ => some (0, none)
  | .wait, _ => none

/-- Some flags of a mask count operations. -/
def Cohort.flagsUp (k : Cohort) (mask : BitVec 12) : Bool := (List.range 12).any (fun i => mask.getLsbD i && getD k.cf i 0 != 0)

/-- Some lane of a group is active for a guard. -/
def Cohort.guarded (k : Cohort) (m : LaneMask) (g : Guard) : Bool :=
  (lanesOf m).any (fun l => k.pred g.p.toNat l true != g.inv)

/-- The completion flags that hold a group: those of its clause's wait mask at its entry, where YLD is 1 (R228), and those
of a WAITF (R300). -/
def State.flagWait (s : State) (c : Nat) (m : LaneMask) : BitVec 12 :=
  let k := s.coh c
  match s.nextWord c m with
  | none => 0
  | some (h, i) =>
    if (m &&& ~~~k.entered) != 0 && k.flagsUp (hdrWait h) then (if hdrYld h then hdrWait h else 0)
    else
      match i with
      | some (.waitf g mask) => if k.guarded m g then mask else 0
      | _ => 0

/-- The group stalls at a WAITF (R300). -/
def State.atWaitf (s : State) (c : Nat) (m : LaneMask) : Bool :=
  let k := s.coh c
  match s.nextWord c m with
  | some (h, some (.waitf g mask)) =>
    !((m &&& ~~~k.entered) != 0 && k.flagsUp (hdrWait h)) && k.guarded m g && k.flagsUp mask
  | _ => false

/-- The group waits for completion flags, or at a waiting QPOP for an entry. -/
def State.waitsFor (s : State) (c : Nat) (m : LaneMask) : Bool :=
  let k := s.coh c
  k.flagsUp (s.flagWait c m) ||
    (match s.nextWord c m with
     | some (_, some (.qpop a _ _ true q)) =>
       let d := s.queue (s.cohPart c) ((s.val c a.base true (lowLane m)).toNat + q.toNat)
       k.guarded m a.g && d.ring != 0 && !d.bound && d.tail == d.head
     | _ => false)

/-- The group store is brought up to date. -/
def State.fitStore (s : State) (c : Nat) : State :=
  let m := s.storeOf c
  if m = (s.coh c).store then s else s.modCoh c (fun k => { k with store := m })

/-- The group is live, its word is there, and its clause's wait mask is clear (R151). -/
def State.eligibleGroup (s : State) (c : Nat) (m : LaneMask) : Bool :=
  let k := s.coh c
  (m &&& s.storeOf c) == 0 &&
    (match s.nextWord c m with
     | none => false
     | some (h, _) => !((m &&& ~~~k.entered) != 0 && k.flagsUp (hdrWait h)))

/-- The cohort has an eligible group. -/
def State.eligible (s : State) (c : Nat) : Bool := (s.groups c).any (s.eligibleGroup c)

/-! ### Active positions (R188) -/

/-- Cohorts of a partition that hold positions of a pipe. -/
def State.positions (s : State) (core pipe part : Nat) : Nat :=
  (s.cohorts.filter (fun e => e.2.active && e.2.pipe == pipe && e.2.place == .resident && !e.2.isOver &&
    s.cohCore e.1 == core && s.cohPart e.1 == part)).length

/-- A group of the cohort could issue: nothing holds it, and its clause's wait mask is clear or not yet fetched (only an
active cohort holds an instruction-buffer entry, R153). -/
def State.wantsPos (s : State) (c : Nat) : Bool :=
  (s.groups c).any (fun m => (m &&& s.storeOf c) == 0 &&
    (match s.nextWord c m with
     | none => true
     | some (h, _) => !((m &&& ~~~(s.coh c).entered) != 0 && (s.coh c).flagsUp (hdrWait h))))

/-- A cohort that could issue takes a free position of its pipe. -/
def State.takePos (s : State) (c : Nat) : State :=
  let k := s.coh c
  let part := s.cohPart c
  if k.active ∨ k.place ≠ .resident ∨ !s.wantsPos c ∨
      csNact (s.cshareOf (s.shareOf part)) ≤ s.positions (s.cohCore c) k.pipe part then s
  else s.modCoh c (fun k => { k with active := true, posTime := s.time, waitPos := none })

/-- The cohort waits for an active position: resident, on a running partition, without one, and able to issue. -/
def State.posWaits (s : State) (c : Nat) : Bool :=
  let k := s.coh c
  !k.active && k.place == .resident && !k.isOver && s.running (s.cohPart c) && s.wantsPos c

/-- Two cohorts compete for the positions of one pipe. -/
def State.samePipe (s : State) (a b : Nat) : Bool :=
  (s.coh a).pipe == (s.coh b).pipe && s.cohCore a == s.cohCore b && s.cohPart a == s.cohPart b

/-- Sets of lanes that may have stalled: held at one meeting address, or able to issue at one PC. -/
def State.stallSets (s : State) (c : Nat) : List LaneMask :=
  let k := s.coh c
  let held := (k.held ||| k.mendWait) &&& k.awake
  let at_ := fun (l : Nat) => maskOf (fun j => held.getLsbD j && k.pcOf j == k.pcOf l)
  ((lanesOf held).filter (fun l => lowLane (at_ l) == l)).map at_ ++ (s.groups c).filter (s.eligibleGroup c)

/-- Since when each lane has been in a stall set without an issue in between. -/
def State.watched (s : State) (c : Nat) : SMap Nat :=
  let k := s.coh c
  let sets := s.stallSets c
  (lanesOf k.awake).foldl (fun (w : SMap Nat) l =>
    if sets.any (fun m => m.getLsbD l) then
      match look k.watch l with
      | some t => set w l (max t (getD k.since l 0))
      | none => set w l s.time
    else w) []

/-- Lanes for which a stall record stands issue: a record that still waits is withdrawn (R373). -/
def State.clearStall (s : State) (c : Nat) (m : LaneMask) : State :=
  let k := s.coh c
  if k.stalled &&& m = 0 then s
  else
    let gone := s.traps.info.filter (fun t => t.kind == 3 && t.coh == c && !t.written)
    let s := s.modCoh c (fun k => { k with stalled := k.stalled &&& ~~~m })
    { s with traps := { s.traps with
        info := s.traps.info.filter (fun t => !gone.contains t)
        pend := s.traps.pend.filter (fun p => !gone.any (fun t => t.part == p.part && t.tid == p.tid)) } }

/-- What is known of a cohort's waiting is brought up to date: since when its lanes are held, or eligible and not issued
(R169), since when it waits for a position (R188), since when lanes stall at a WAITF (R300); a stall whose lanes have been
released from their meeting has ended (R169). -/
def State.noteCoh (s : State) (c : Nat) : State :=
  let k := s.coh c
  if k.place ≠ .resident ∨ !s.running (s.cohPart c) ∨ k.isOver then s.modCoh c (fun k => { k with waitPos := none })
  else
    let wf := (s.groups c).filter (s.atWaitf c)
    let s := s.modCoh c (fun k => { k with
      watch := s.watched c
      waitPos := if s.posWaits c then some (k.waitPos.getD s.time) else none
      wfSince := (lanesOf k.awake).foldl (fun w l =>
        if wf.any (fun m => m.getLsbD l) then set w l ((look k.wfSince l).getD s.time) else w) [] })
    if k.stallHeld ∧ k.stalled &&& (k.held ||| k.mendWait) = 0 then s.clearStall c k.stalled else s

/-- A group waits in one of the ways that let its core be gated (R443). A wait on FUTW or on a handle register has a command in
flight, which lets no core be gated. -/
def State.gateWait (s : State) (c : Nat) (m : LaneMask) : Bool :=
  let k := s.coh c
  match s.nextWord c m with
  | none => false
  | some (h, i) =>
    ((m &&& ~~~k.entered) != 0 && hdrYld h && k.flagsUp (hdrWait h)) ||
      (match i with
       | some (.qpop _ _ _ true _) => s.waitsFor c m
       | _ => false)

/-- The conditions of R443 at this moment: every resident cohort waits or is parked, the release table is empty, no command is in
flight. -/
def State.gateReady (s : State) (core : Nat) : Bool :=
  s.cohorts.all (fun e => s.cohCore e.1 != core || e.2.place != .resident || e.2.isOver || !e.2.absent.isEmpty ||
    (s.groups e.1).all (s.gateWait e.1)) &&
    (s.core core).rel.isEmpty && !(s.core core).opt.any (fun o => o.2.busy)

/-- Since when a core has met them. -/
def State.noteCore (s : State) (core : Nat) : State :=
  let q := if s.gateReady core then some ((s.core core).quiet.getD s.time) else none
  if q = (s.core core).quiet then s else s.modCore core (fun k => { k with quiet := q })

/-- The same for every cohort and core, before the clock goes on: what has come about since it last did has come about now. -/
def State.noted (s : State) : State :=
  let s := s.cohorts.foldl (fun s e => s.noteCoh e.1) s
  s.cores.foldl (fun s e => s.noteCore e.1) s

/-- The conditions of R188 on a hand-off: the holder has no eligible group, or it has held its position and the other has
waited for 5 µs; the other is the one that has waited longest. How long a cohort without an eligible group keeps its
position (32 clk) is timing. -/
def State.mayHandOff (s : State) (out into : Nat) : Bool :=
  let a := s.coh out
  let b := s.coh into
  a.active && a.place == .resident && s.samePipe out into && s.posWaits into &&
    (!s.eligible out || (a.posTime + 5000 ≤ s.time && b.waitPos.any (· + 5000 ≤ s.time))) &&
    s.cohorts.all (fun e => e.1 == into || !s.samePipe e.1 into || !s.posWaits e.1 ||
      b.waitPos.getD s.time ≤ e.2.waitPos.getD s.time)

/-- ACTIVE_POSITION_HANDOFF (R188, R57). -/
def execActivePositionHandoff (out into : Nat) (s : State) : Host.Outcome State Fault Refusal :=
  .next (
    let s := s.noted.tick
    if s.mayHandOff out into then
      (s.modCoh out (fun k => { k.flushRegs with active := false, posTime := s.time })).modCoh into
        (fun k => { k with active := true, posTime := s.time, waitPos := none })
    else s)

/-! ### Rows and slots (R51) -/

/-- The bank-store rows of a core that blocks of a partition hold. -/
def State.rowsUsed (s : State) (core part : Nat) : List Nat :=
  s.blocks.flatMap (fun e =>
    let g := s.grd e.2.grid
    if e.2.core = core ∧ g.part = part ∧ s.holdsRows e.2 then e.2.rowsOf g else [])

/-- No slot. -/
def noSlot : Nat := 64

/-- The cohort slots of a core that blocks of a partition hold. -/
def State.slotsUsed (s : State) (core part : Nat) : List Nat :=
  s.blocks.flatMap (fun e =>
    if e.2.core = core ∧ (s.grd e.2.grid).part = part ∧ s.holdsRows e.2 then e.2.slots.filter (· < noSlot) else [])

/-- The first free run of rows. -/
def firstRun (used : List Nat) (base n len : Nat) : Option Nat :=
  if n < len then none
  else (upto base (n - len + 1)).find? (fun r => (upto r len).all (fun x => !used.contains x))

/-- Runs of several lengths, one after the other. -/
def allRuns (base n : Nat) : List Nat → List Nat → Option (List Nat)
  | [], _ => some []
  | len :: t, used =>
    match firstRun used base n len with
    | none => none
    | some r => (allRuns base n t (upto r len ++ used)).map (fun l => r :: l)

/-! ### Room for blocks (R185, R194) -/

/-- Entries of a core's order buffer that are not free (R194): those set aside for the deterministic blocks there, and what
ended blocks have left until their grid ends. A switched-out partition's are in its image. -/
def State.orderUsed (s : State) (core : Nat) : Nat :=
  s.blocks.foldl (fun n e =>
    if e.2.core = core ∧ (s.grd e.2.grid).det ∧ !e.2.exited ∧ e.2.place = .resident then
      n + Config.orderPerCohort * (s.grd e.2.grid).cohN
    else n) 0 +
    ((s.core core).obuf.filter (fun e => (s.blk e.block).exited && (s.blk e.block).place == .resident)).length

/-- The rows and slots that a block of a grid would take on a core: its runs in the order scratchpad, spawn queue,
windows, then its slots. -/
def State.blockRoom (s : State) (g : Grid) (core : Nat) : Option (List Nat × List Nat) :=
  let cs := s.cshareOf (s.shareOf g.part)
  let used := s.rowsUsed core g.part
  let slots := (upto (csSlotBase cs) (csNslot cs)).filter (fun x => !(s.slotsUsed core g.part).contains x)
  if s.svc.swapping.contains (.core core) ∨ slots.length < g.cohN ∨ csRows cs < used.length + g.rowsNeed + csL1Min cs ∨
      (g.det ∧ Config.orderPerCore < s.orderUsed core + Config.orderPerCohort * g.cohN) then none
  else
    (allRuns (csRowBase cs) (csRows cs) ([g.scrRows, g.spRows] ++ List.replicate g.cohN g.winSize) used).map
      (fun l => (l, slots.take g.cohN))

/-- The launches of a partition that have reserved a core (R404). -/
def State.reservers (s : State) (part core : Nat) : List (Nat × Grid) :=
  s.grids.filter (fun e => e.2.part == part && e.2.gang.any (fun q => q.reserved.any (fun r => r.2.contains core)))

/-- The same where no other launch has reserved the core. -/
def State.blockFit (s : State) (g : Grid) (core : Nat) : Option (List Nat × List Nat) :=
  if (s.reservers g.part core).any (fun e => e.2.serial != g.serial) then none else s.blockRoom g core

/-! ### Cohorts -/

/-- Where lane i of a new cohort starts: PC, origin, values of v0 and up. -/
structure LaneStart where
  pc : DWord
  orig : Nat
  vals : List Word
  deriving DecidableEq, Repr

/-- An index of a block is free: every cohort that had it has ended (R299). -/
def State.idxFree (s : State) (b idx : Nat) : Bool := (s.cohsOf b).all (fun e => e.2.idx != idx || e.2.isOver)

/-- An ended cohort whose operations or engine commands are still in flight: it is kept apart from the next cohort of its
index. -/
def State.lingers (s : State) (c : Nat) : Bool :=
  s.ops.any (fun o => o.2.coh == c) || s.engineBusy (s.cohCore c) c

/-- Window rows and a slot that a cohort index of a block can take on its core: the first that are free (R51, R190). -/
def State.roomFor (s : State) (b : Nat) : Option (Nat × Nat) :=
  let k := s.blk b
  let g := s.grd k.grid
  let cs := s.cshareOf (s.shareOf g.part)
  let used := s.rowsUsed k.core g.part
  if csRows cs < used.length + g.winSize + csL1Min cs then none
  else
    match firstRun used (csRowBase cs) (csRows cs) g.winSize,
      (upto (csSlotBase cs) (csNslot cs)).find? (fun x => !(s.slotsUsed k.core g.part).contains x) with
    | some r, some x => some (r, x)
    | _, _ => none

/-- The index has its window rows and its slot: they stay with the block (R299); where its last cohort has ended in the eviction
area, having given them up (R190), it takes others as a restored cohort does (DESIGN CHOICE, notes/assumptions/91.md). What a gang
has reserved on the core stays free (R404). -/
def State.takeRoom (s : State) (b idx : Nat) : Option State :=
  let k := s.blk b
  if (k.winRows[idx]?).getD noRow < noRow then some s
  else
    (s.roomFor b).bind (fun r =>
      let g := s.grd k.grid
      let t := (s.modBlk b (fun k => { k with winRows := k.winRows.set idx r.1, slots := k.slots.set idx r.2 })).l1Trim
        ⟨0, k.core, g.part⟩
      if (s.reservers g.part k.core).all (fun x => (t.blockRoom x.2 k.core).isSome) then some t else none)

/-- A cohort starts (R149, R54, R166): the window is clear, lanes without a start are exited. The barrier records of its lane
slots (pending bit and recorded parity, R301) stay as the lanes that had them before left them: DESIGN CHOICE, log entry 92.
An index that has no rows takes some first (`takeRoom`, log entry 91). -/
def State.startCohort (s : State) (b idx : Nat) (ls : List LaneStart) : State :=
  let key := s.fresh
  let live := maskOf (fun l => l < ls.length)
  let one := fun (k : Cohort) (p : LaneStart × Nat) =>
    let k := { k with pc := put k.pc p.2 p.1.pc 0, orig := put k.orig p.2 p.1.orig 0, since := put k.since p.2 s.time 0 }
    (p.1.vals.zipIdx).foldl (fun (k : Cohort) v => { k with regs := put k.regs (32 * v.2 + p.2) v.1 0 }) k
  let k := ls.zipIdx.foldl one { Cohort.blank with
    block := b
    idx := idx
    pipe := (idx + (s.blk b).pipe0) % 4
    vbase := ((s.blk b).winRows[idx]?).getD noRow
    lastIssue := key
    posTime := s.time
    live := allLanes
    exited := ~~~live }
  let s := s.clearRows (s.blk b).core k.vbase (s.grd (s.blk b).grid).winSize
  let s := { s with
    cohorts := set (s.cohorts.filter (fun e => !(e.2.block == b && e.2.idx == idx && !s.lingers e.1))) key k
    fresh := s.fresh + 1 }
  ((s.joinBars key).refillPipes b).takePos key

/-- The 32 lanes of a cohort that a launch starts. -/
def entryLanes (g : Grid) (idx : Nat) (orig : Nat → Nat) (vals : List Word) : List LaneStart :=
  (List.range 32).map (fun l => ⟨g.entry, orig (32 * idx + l), vals⟩)

/-- Cores of a cluster of a die that have room for a block of a grid. -/
def State.fitCores (s : State) (g : Grid) (die clu : Nat) : List Nat :=
  (upto (die * 192 + clu * 8) 8).filter (fun c => (s.blockFit g c).isSome)

/-- A grid waits for room (R179, R182). -/
def Grid.waits (g : Grid) : Bool := (g.state == .placing || g.state == .running) && !g.allPlaced && !g.aborted && !g.entryDone

/-- A waiting launch could use some of these cores now: its fixed ones where it is deterministic (R191). -/
def State.couldUse (s : State) (g : Grid) (die clu : Nat) (cores : List Nat) : Bool :=
  let fit := s.fitCores g die clu
  let unplaced := g.dies.zipIdx.any (fun d => d.1 == die && (g.done.filter (fun x => x.1 == d.2)).length < g.cpd)
  let waits := g.waits && g.gang.all (fun q => q.phase == .preparing || q.phase == .going || q.phase == .done)
  waits && unplaced && cores.any fit.contains &&
    (if g.det then
      let own := upto (die * 192 + clu * 8) g.bpc
      clu < g.cpd && !g.done.contains (die, clu) && own.all fit.contains && own.any cores.contains
    else g.bpc ≤ fit.length)

/-- A launch is offered room before another of its partition: a higher priority, or within one priority the one whose last
turn lies further back (R179). -/
def offeredFirst (k : Nat) (g : Grid) (k' : Nat) (g' : Grid) : Bool :=
  g'.prio < g.prio || (g.prio == g'.prio && (g.turn < g'.turn || (g.turn == g'.turn && k < k')))

/-- The step of R185 may be taken: distinct cores of one cluster of a chosen die with room, an unplaced (e, j), and no
waiting launch that could use the same room and comes before. -/
def State.canPlace (s : State) (k e j die clu : Nat) (cores : List Nat) : Bool :=
  let g := s.grd k
  let turn := if g.det then die == e && clu == j && cores == upto (die * 192 + clu * 8) g.bpc
    else j == (g.done.filter (fun x => x.1 == e)).length
  g.waits && s.running g.part && g.dies[e]? == some die && j < g.cpd && clu < Config.clustersPerDie && turn &&
    !g.done.contains (e, j) && cores.length == g.bpc && cores.eraseDups.length == g.bpc &&
    cores.all (fun c => (s.fitCores g die clu).contains c) &&
    !s.grids.any (fun x => x.1 != k && x.2.part == g.part && offeredFirst x.1 x.2 k g && s.couldUse x.2 die clu cores)

/-! ### Placement -/

/-- The rows of a scratchpad hold what they held last: the bytes of a scratchpad or a window; after uses whose bytes have no
stated place, anything (R60). -/
def State.oldRows (s : State) (core part row n : Nat) : State :=
  if !(s.core core).l1Used.contains part then s
  else
    (upto row n).foldl (fun (s : State) r =>
      if (s.core core).kept.contains r then s
      else
        { s with
          bank := (List.range 2048).foldl (fun m i =>
            put m (core * 0x180000 + r * 2048 + i) (Config.rowByte (s.fresh + i)) 0) s.bank
          fresh := s.fresh + 2048 }) s

/-- One block of a cluster is placed on a core: rows and slots are taken, the L1 gives up the rows (R78) and what the launch's
acquire makes stale (R180, R198), cohorts start unless the grid binds a launch queue (R197). -/
def State.placeBlock (s : State) (k p rank core blk : Nat) : State :=
  let g := s.grd k
  match s.blockFit g core with
  | none => s
  | some (rows, slots) =>
    let key := s.fresh
    let count := fun (q : Nat) => (s.cohorts.filter (fun e => e.2.pipe == q && e.2.place == .resident && !e.2.isOver &&
      s.cohCore e.1 == core && s.cohPart e.1 == g.part)).length
    let h := if g.det then 0 else (sortOn count (List.range 4)).headD 0
    let b : Block := {
      grid := k
      placed := p
      blk := blk
      rank := rank
      core := core
      place := .resident
      exited := false
      scrRow := (rows[0]?).getD 0
      spRow := (rows[1]?).getD 0
      winRows := rows.drop 2
      slots := slots
      absent := []
      spawnQ := []
      lists := []
      bars := []
      pipe0 := h
      scr := [] }
    let s := { s with blocks := set s.blocks key b, fresh := s.fresh + 1 }
    let s := (((s.wakeCore core).acquireDrop core g.part).l1Trim ⟨0, core, g.part⟩).oldRows core g.part b.scrRow g.scrRows
    let s := s.modCore core (fun c => { c with kept := c.kept.filter (fun r => !(b.rowsOf g).contains r) })
    if g.lq then s
    else (List.range g.cohN).foldl (fun s c => s.startCohort key c (entryLanes g c id [])) s

/-- A cluster of blocks is placed (R185); the first one starts the grid (R177, R182). -/
def State.placeCluster (s : State) (k e j die clu : Nat) (cores : List Nat) : State :=
  let g := s.grd k
  let s := if g.done = [] then let s := s.tick; s.modGrd k (fun r => { r with tstart := s.time }) else s
  let p := s.fresh
  let s := { s with placed := set s.placed p ⟨k, e, j, die, clu, cores, []⟩, fresh := s.fresh + 1 }
  let q := (g.gang.map (fun x => x.q)).getD 0
  let base := ((q * g.nd + e) * g.cpd + j) * g.bpc
  let s := (cores.zipIdx).foldl (fun s c => s.placeBlock k p c.2 c.1 (base + c.2)) s
  (s.modGrd k (fun r => { r with state := .running, done := r.done ++ [(e, j)], turn := s.fresh })).putStat k

/-- Rank 0 holds READY from every member, with equal digests (R404). -/
def Gang.allReady (q : Gang) : Bool :=
  q.q == 0 && (List.range q.members.length).all (fun r => q.ready.any (fun x => x.1 == r && x.2 == q.digest))

/-- Rank 0 sends GO once it may. -/
def State.gangTryGo (s : State) (k : Nat) : State :=
  match (s.grd k).gang with
  | none => s
  | some q => if q.phase = .readySent ∧ q.allReady then s.emit (.go q.gid) else s

/-- A gang member reserves its first cluster and reports READY (R404). -/
def State.gangReserve (s : State) (k clu : Nat) (cores : List Nat) : State :=
  match (s.grd k).gang with
  | none => s
  | some q =>
    let s := s.tick
    let s := s.modGrd k (fun r => { r with gang := some { q with
      phase := .readySent
      reserved := some (clu, cores)
      ready := if q.q = 0 then q.ready ++ [(0, q.digest)] else q.ready
      readyAt := s.time } })
    (s.emit (.ready q.gid q.q q.digest)).gangTryGo k

/-- An evicted cohort of a partition that only waits for room on a core (R190). -/
def State.wantsBack (s : State) (part core : Nat) : Bool :=
  s.cohorts.any (fun e => e.2.place == .evicted && s.cohPart e.1 == part && s.cohCore e.1 == core && e.2.absent.isEmpty &&
    (s.groups e.1).any (fun m => !s.waitsFor e.1 m))

/-- CLUSTER_PLACE (R185, R191). A gang member that has not gone reserves the cluster instead. -/
def execClusterPlace (grid e j die clu : Nat) (cores : List Nat) (s : State) : Host.Outcome State Fault Refusal :=
  .next (
    let g := s.grd grid
    if !s.canPlace grid e j die clu cores ∨ cores.any (s.wantsBack g.part) then s
    else
      match g.gang with
      | none => s.placeCluster grid e j die clu cores
      | some q =>
        match q.phase with
        | .preparing => s.gangReserve grid (die * Config.clustersPerDie + clu) cores
        | .going => s.placeCluster grid e j die clu cores
        | .done => s.placeCluster grid e j die clu cores
        | .readySent => s
        | .cancelled => s
        | .aborted => s)

/-! ### Eviction at blocking points -/

/-- A waiting launch may place a cluster on a core: on a die where it has one left to place, and with its fixed cores where
it is deterministic (R185, R191). -/
def Grid.serves (g : Grid) (core : Nat) : Bool :=
  let clu := core % 192 / 8
  g.waits && g.dies.zipIdx.any (fun d => d.1 == dieOf core && (g.done.filter (fun x => x.1 == d.2)).length < g.cpd &&
    (!g.det || (clu < g.cpd && core % 8 < g.bpc && !g.done.contains (d.2, clu))))

/-- The cohort waits in one of the ways of R189. -/
def State.blockedLong (s : State) (c : Nat) : Bool :=
  let k := s.coh c
  let mine := s.ops.filter (fun o => o.2.coh == c)
  let old := fun (f : BitVec 12) =>
    (List.range 12).any (fun i => f.getLsbD i && mine.any (fun o => o.2.flag == some i && o.2.time + 2000 < s.time))
  !k.barHold.isEmpty || !k.absent.isEmpty ||
    -- at a controller for more than 2 µs (R336)
    mine.any (fun o => o.2.hold != 0 && o.2.time + 2000 < s.time) ||
    (s.groups c).any (fun m =>
      old (s.flagWait c m) &&
        -- a WAITF stall itself must have lasted more than 2 µs (R300)
        (!s.atWaitf c m || (lanesOf m).all (fun l => (look k.wfSince l).any (· + 2000 < s.time))))

/-- It owns nothing that keeps it, and it waits: parked on a line or with a lane at a barrier (R189, R305), or with no group
that could issue. A cohort with a lane at a barrier is evictable though another group of it could issue: R305 says so. What
wakes such a cohort is log entry 94. -/
def State.evictable (s : State) (c : Nat) : Bool :=
  let k := s.coh c
  let core := s.core (s.cohCore c)
  k.place == .resident && !k.isOver && !(core.slots.any (fun x => x.2.owner == some c)) &&
    !(core.accs.any (fun x => x.2.owner == some c)) && !(k.tx.any (fun t => t.2.isOpen)) &&
    (!k.absent.isEmpty || !k.barHold.isEmpty || !(s.groups c).any (fun m => s.eligibleGroup c m && !s.waitsFor c m))

/-- What wakes an evicted cohort, as the eviction area holds it (R190): the flags that its groups wait on, its lanes at barriers and
the barrier of each, the queues that its groups wait at, and the absent lines it is parked on. -/
def State.wakeImage (s : State) (c : Nat) : Nat :=
  let k := s.coh c
  let flags := (s.groups c).foldl (fun f m => if k.flagsUp (s.flagWait c m) then f ||| s.flagWait c m else f) (0 : BitVec 12)
  let queues := (s.groups c).filterMap (fun m =>
    match s.nextWord c m with
    | some (_, some (.qpop a _ _ true q)) => some ((s.val c a.base true (lowLane m)).toNat + q.toNat)
    | _ => none)
  packAt 0 4 [flags.toNat, k.atBar.toNat, queues.length, k.absent.length] +
    packAt 0x10 1 ((List.range 32).map (fun l => match look k.barHold l with | some h => h.bar | none => 0xFF)) +
    packAt 0x40 2 (queues.take 32) + packAt 0x80 8 (k.absent.map (fun x => x.1 * 2 ^ 16 + x.2))

/-- It is written beside the cohort's record. -/
def State.putWake (s : State) (c : Nat) : State :=
  match look s.ctl.evictArea (s.cohPart c) with
  | some a => s.putImage (s.cohPart c) (s.norm a + areaSlot * (s.coh c).area + 0x4800) [(0, 0x800, s.wakeImage c)]
  | none => s

/-- The cohort leaves its core: slot and window rows are free. -/
def State.evict (s : State) (c : Nat) : State :=
  let k := s.coh c
  let n := s.freeArea (s.cohPart c)
  let s := if k.place = .resident then s.leaveWindow (s.cohCore c) k else s
  ((((s.withdraw c).modCoh c (fun k => { k.flushRegs with place := .evicted, active := false, area := n, posTime := s.time })).modBlk k.block
    (fun b => { b with
      winRows := b.winRows.set k.idx noRow
      slots := b.slots.set k.idx noSlot })).keepArea c).putWake c

/-- COHORT_EVICT (R189, R190): only for a waiting block of the same partition that would then fit, and where Arbor has granted an
eviction area. -/
def execCohortEvict (coh : Nat) (s : State) : Host.Outcome State Fault Refusal :=
  .next (
    let part := s.cohPart coh
    let s1 := s.tick
    if pte (s.schedctl part) 16 1 = 1 ∧ (look s.ctl.evictArea part).isSome ∧ s.running part ∧ s1.evictable coh ∧ s1.blockedLong coh then
      let t := s1.evict coh
      let core := s.cohCore coh
      if t.grids.any (fun e => e.2.part == part && e.2.serves core && (s1.blockFit e.2 core).isNone && (t.blockFit e.2 core).isSome) then t
      else s
    else s)

/-- A cohort returns to its core with new window rows and a new slot. -/
def State.restore (s : State) (c : Nat) : Option State :=
  let k := s.coh c
  (s.takeRoom k.block k.idx).map (fun s =>
    (s.modCoh c (fun k => { k.back s.time with
      area := 0
      vbase := ((s.blk k.block).winRows[k.idx]?).getD noRow })).takePos c)

/-- COHORT_RESTORE_EVICTED (R190): the wake condition holds, and a slot and rows are free. -/
def execCohortRestoreEvicted (coh : Nat) (s : State) : Host.Outcome State Fault Refusal :=
  .next (
    let k := s.coh coh
    if k.place = .evicted ∧ s.running (s.cohPart coh) ∧ k.absent.isEmpty ∧ (s.groups coh).any (fun m => !s.waitsFor coh m) then
      (s.restore coh).getD s
    else s)

/-! ### The spawn former (R164 to R166) -/

/-- The lowest free cohort index of a block whose cohort would have rows and a slot. -/
def State.lowIdx (s : State) (b : Nat) : Option Nat :=
  (List.range (s.grd (s.blk b).grid).cohN).find? (fun i => s.idxFree b i && (s.takeRoom b i).isSome)

/-- The former may start a cohort from a target list. When the last live cohort has ended, any list may give one: the
oldest entry may belong to a seventeenth target, which has no list yet (R164). -/
def State.mayForm (s : State) (b : Nat) (t : DWord × Bool) : Bool :=
  let k := s.blk b
  let n := (k.spawnQ.filter (fun e => e.target == t.1)).length
  let idle := (s.cohsOf b).all (fun e => e.2.isOver || !s.eligible e.1)
  let ended := (s.cohsOf b).all (fun e => e.2.isOver)
  let oldest := k.spawnQ.head?.any (fun e => e.target == t.1)
  let unlisted := k.spawnQ.head?.any (fun e => !k.lists.any (fun x => x.1 == e.target))
  n != 0 && (32 ≤ n || t.2 || (idle && oldest) || (ended && unlisted))

/-- SPAWN_COHORT_FORM. -/
def execSpawnCohortForm (block list : Nat) (s : State) : Host.Outcome State Fault Refusal :=
  .next (
    let k := s.blk block
    match k.lists[list]?, s.lowIdx block with
    | some t, some idx =>
      if k.exited ∨ k.place ≠ .resident ∨ !s.running (s.grd k.grid).part ∨ !s.mayForm block t then s
      else
        let mine := (k.spawnQ.filter (fun e => e.target == t.1)).take 32
        let rest := k.spawnQ.foldl (fun (a : List SpawnEnt × Nat) e =>
          if e.target = t.1 ∧ a.2 < 32 then (a.1, a.2 + 1) else (a.1 ++ [e], a.2)) ([], 0)
        let left := rest.1.any (fun e => e.target == t.1)
        let lists := k.lists.filterMap (fun x => if x.1 = t.1 then (if left then some (x.1, false) else none) else some x)
        -- entries of a seventeenth target come in when a list has emptied
        let lists := if left then lists
          else
            match rest.1.find? (fun e => !lists.any (fun x => x.1 == e.target)) with
            | some e => lists ++ [(e.target, false)]
            | none => lists
        let s := ((s.takeRoom block idx).getD s).modBlk block (fun b => { b with spawnQ := rest.1, lists := lists })
        (s.startCohort block idx (mine.map (fun e => ⟨e.target, e.orig, e.vals⟩))).ovfCount k.grid
    | _, _ => s)

/-! ### Launch queues (R197) -/

/-- How far a block lies from a queue's ring: 0 in its cluster, 1 on its die, 2 elsewhere. -/
def ringDist (q : QDesc) (core : Nat) : Nat :=
  let v := (paOff q.ringPa - 0x08000000000) / 0x4000000
  if clusterOf core = v then 0 else if dieOf core = v / Config.clustersPerDie then 1 else 2

/-- The block that takes the next entry of a grid's queue. -/
def State.lqBlock (s : State) (g : Nat) (q : QDesc) : Option Nat :=
  let cands := (s.blksOf g).filter (fun b => !b.2.exited && b.2.place == .resident && (s.lowIdx b.1).isSome)
  (sortOn (fun (b : Nat × Block) => ringDist q b.2.core * 2 ^ 33 + b.2.blk) cands).head?.map Prod.fst

/-- LAUNCH_QUEUE_COHORT_START. -/
def execLaunchQueueCohortStart (part q block idx : Nat) (s : State) : Host.Outcome State Fault Refusal :=
  .next (
    let d := s.queue part q
    let b := s.blk block
    let g := s.grd b.grid
    if !d.bound ∨ d.tail ≤ d.head ∨ g.part ≠ part ∨ !g.bound ∨ g.lqn ≠ q ∨ !s.running part ∨ g.aborted then s
    else
      let sentinel := getBytes s.mem (d.ringAt d.head) 8 = 2 ^ 64 - 1
      if sentinel then
        let s := (s.qTake part q (.simt b.core b.placed block .pkg)).2
        let s := (s.modGrd b.grid (fun r => { r with entryDone := true, bound := false })).modQueue part q (fun d => { d with bound := false })
        (s.blksOf b.grid).foldl (fun s x => s.settleBlk x.1) s
      else if s.lqBlock b.grid d ≠ some block ∨ g.cohN ≤ idx ∨ !s.idxFree block idx ∨ (s.takeRoom block idx).isNone then s
      else
        let s := (s.takeRoom block idx).getD s
        let r := s.qTake part q (.simt b.core b.placed block .pkg)
        let vals := (List.range 4).map (fun i => (r.1 >>> (32 * i)).truncate 32)
        r.2.startCohort block idx (entryLanes g idx (fun o => o % 32) vals))

/-! ### The Belvedere (R168, R169) -/

def State.stallctl (s : State) (p : Nat) : Nat := (getD s.ctl.stallctl p 0x80002710#32).toNat

/-- A lane of the cohort has issued since a time. -/
def Cohort.issuedSince (k : Cohort) (m : LaneMask) (t : Nat) : Bool :=
  (lanesOf (k.live &&& ~~~k.exited &&& ~~~m)).any (fun l => t < getD k.since l 0)

/-- The stall that a check reports: lanes of one set, all in it for longer than LIMIT, while others issued. -/
def State.stallAt (s : State) (c : Nat) : Option (LaneMask × Nat) :=
  let k := s.coh c
  let lim := 1000 * pte (s.stallctl (s.cohPart c)) 0 20
  (s.stallSets c).findSome? (fun m =>
    let t := (lanesOf m).foldl (fun t l => max t (getD k.watch l s.time)) 0
    if t + lim < s.time ∧ k.issuedSince m t then some (m, t) else none)

/-- BELVEDERE_CHECK (R169). -/
def execBelvedereCheck (coh : Nat) (s : State) : Host.Outcome State Fault Refusal :=
  .next (
    let part := s.cohPart coh
    let s := s.noted.tick
    let k := s.coh coh
    if pte (s.stallctl part) 31 1 = 0 ∨ k.place ≠ .resident ∨ !s.running part then s
    else
      match s.stallAt coh with
      | none => s
      | some (m, t) =>
        if k.stalled ≠ 0 then s
        else
          let r := s.record coh m (k.pcOf (lowLane m)) ⟨3, 0x26, 0, 0, 15, 0, (s.time - t) / 1000⟩ m.toNat 0x0890 0
          r.2.modCoh coh (fun k => { k with stalled := m, stallHeld := m &&& (k.held ||| k.mendWait) != 0 }))

end Sys2Proof.Machine
end

