-- ==== Sys2Proof/Machine/Traps.lean ====
section
/-! DEFINITION. The trap queue and replies (R369, R371 to R378), the record of a cohort (R383), and the set-up of data queues
(R195, R372). -/

namespace Sys2Proof.Machine

/-! ### The trap queue (R372, R373) -/

def TrapQ.blank : TrapQ := ⟨0, 0, 0⟩

def State.trapq (s : State) (p : Nat) : TrapQ := getD s.traps.queues p .blank
def State.modTrapq (s : State) (p : Nat) (f : TrapQ → TrapQ) : State :=
  { s with traps := { s.traps with queues := set s.traps.queues p (f (s.trapq p)) } }

/-- TRAP_RECORD_WRITE: the oldest waiting record of a partition that runs, or is about to stop (R380, R387), enters its queue;
an unset queue is an event (R414). -/
def execTrapRecordWrite (part : Nat) (s : State) : Host.Outcome State Fault Refusal :=
  .next (match s.traps.pend.find? (fun p => p.part == part) with
    | none => s
    | some r =>
      let q := s.trapq part
      if q.base = 0 then
        (if (s.vfsOf part).any (fun n => (s.vf n).events.any (fun e => e.kind == 5)) then s
         else s.event part 5 r.source 0 0 0)
      else if !(s.running part || s.stopping part) ∨ q.tail - q.head = Config.trapRing ∨ 64 ≤ s.outstanding part then s
      else
        let v := r.words.foldr (fun w acc => w.toNat + 2 ^ 64 * acc) 0
        let s := s.homeWrite (s.norm q.base.toNat + 64 * (q.tail % Config.trapRing)) 64 v none
        let s := s.modTrapq part (fun q => { q with tail := q.tail + 1 })
        let g := (s.traps.info.find? (fun t => t.part == part && t.tid == r.tid)).map (fun t => t.grid)
        let s := { s with traps := { s.traps with
          pend := s.traps.pend.filter (fun p => !(p.part == part && p.tid == r.tid))
          info := s.traps.info.map (fun t => if t.part = part ∧ t.tid = r.tid then { t with written := true } else t) } }
        match g with
        | some g => (s.modGrd g (fun k => { k with traps := k.traps + 1 })).putStat g
        | none => s)

/-- TRAP_QUEUE_SETUP. -/
def execTrapQueueSetup (part : Nat) (base : BitVec 64) (s : State) : Host.Outcome State Fault Refusal :=
  .next (
    let a := s.norm base.toNat
    let last := a + 0x3FFFF
    let mine := fun (x : Nat) => s.isLocal x && regionOf (paOff x) == .hbm && (s.ownAt x).owner == some part
    if Config.parts ≤ part ∨ !s.callRoom part then s
    else if base = 0 ∨ (base.toNat % 4096 = 0 ∧ base.toNat < 2 ^ 52 ∧ mine a ∧ mine last) then
      (s.modTrapq part (fun _ => ⟨base, 0, 0⟩)).emit (.mail part 0)
    else s.emit (.mail part 1))

/-- TRAP_QUEUE_HEAD_WRITE. -/
def execTrapQueueHeadWrite (part : Nat) (head : BitVec 64) (s : State) : Host.Outcome State Fault Refusal :=
  .next (
    let q := s.trapq part
    if Config.parts ≤ part then s
    else if head.toNat < q.head ∨ q.tail < head.toNat then s.emit (.mail part 1)
    else (s.modTrapq part (fun q => { q with head := head.toNat })).emit (.mail part 0))

/-! ### Data queues (R195) -/

/-- The context through which service code names the rings of its queues (notes/assumptions/12.md). -/
def State.callCtx (s : State) (part : Nat) : Option Nat := (s.contextsOf part).head?

/-- The 64 KiB pages of a range of addresses, as a queue's controller may read and write them. -/
def State.ringParts (s : State) (part tctx va n : Nat) : List (Page × Nat × Nat) :=
  (List.range ((va % 2 ^ 16 + n + 65535) / 2 ^ 16)).map (fun i =>
    let a := va / 2 ^ 16 * 2 ^ 16 + i * 2 ^ 16
    (s.page none part tctx 3 a, a, 2 ^ 16))

/-- Their frames, if all of them resolve. -/
def State.ringPages (s : State) (part tctx va n : Nat) : Option (List Nat) :=
  (okPieces (s.ringParts part tctx va n)).map (fun l => l.map Prod.fst)

/-- QUEUE_SETUP: on an empty, unbound queue; at a page that is being moved the call waits (R37). The manual does not say what
lanes that wait at the controller of the queue then get: they go on waiting there (DESIGN CHOICE,
notes/assumptions/95.md). -/
def execQueueSetup (part q : Nat) (ring spill : BitVec 64) (scap : BitVec 32) (s : State) :
    Host.Outcome State Fault Refusal :=
  .next (
    let d := s.queue part q
    let no := s.emit (.mail part 1)
    if Config.parts ≤ part ∨ 256 ≤ q ∨ !s.callRoom part then s
    else if d.bound ∨ d.head ≠ d.tail ∨ ring.toNat % 2 ^ 16 ≠ 0 ∨ spill.toNat % 16 ≠ 0 then no
    else if ring = 0 then
      (s.modQueue part q (fun _ => { QDesc.blank with spill := spill, scap := scap.toNat })).emit (.mail part 0)
    else
      match s.callCtx part with
      | none => no
      | some n =>
        let all := s.ringParts part n ring.toNat 65536 ++
          (if spill = 0 then [] else s.ringParts part n spill.toNat (16 * scap.toNat))
        match s.ringPages part n ring.toNat 65536,
          (if spill = 0 then some [] else s.ringPages part n spill.toNat (16 * scap.toNat)) with
        | some (pa :: _), some ps =>
          let s := s.mvOver (.queue part q)
          let vault := s.isLocal pa && regionOf (paOff pa) == .vault
          let mem := ps.all (fun a => s.isLocal a && (regionOf (paOff a) == .hbm || regionOf (paOff a) == .cap))
          if !vault ∨ !mem then s.emit (.mail part 1)
          else
            (s.modQueue part q (fun _ => ⟨ring, spill, scap.toNat, false, 0, 0, pa, ps, []⟩)).emit (.mail part 0)
        | _, _ =>
          if pagesMove all then
            let w := s.mvMeet (.queue part q) n all
            if w.1 then w.2 else w.2.emit (.mail part 1)
          else no)

/-! ### Replies (R374 to R378) -/

/-- An edit entry (R375). -/
structure Edit where
  kind : Nat
  index : Nat
  mask : LaneMask
  value : DWord
  deriving DecidableEq, Repr

def editOf (v : Nat) : Edit := ⟨pte v 0 8, pte v 8 8, BitVec.ofNat 32 (pte v 16 32), BitVec.ofNat 64 (v / 2 ^ 64)⟩

/-- An edit that may be applied. -/
def editOk (vregs v : Nat) : Bool :=
  let e := editOf v
  pte v 48 16 == 0 &&
    ((e.kind == 0 && e.index < vregs) || (e.kind == 1 && 1 ≤ e.index && e.index < 64) || (e.kind == 2 && e.index < 7) ||
      (e.kind == 3 && (e.value.toNat % 8 == 0 || e.value == noMeet)))

/-- The lanes that are still parked under a record. -/
def State.parkedUnder (s : State) (t : TrapInfo) : LaneMask :=
  let k := s.coh t.coh
  maskOf (fun l => t.lanes.getLsbD l && k.parked.getLsbD l && look k.tid l == some t.tid)

/-- Applies an edit. -/
def State.edit (s : State) (c : Nat) (m : LaneMask) (e : Edit) : State :=
  let ls := lanesOf (m &&& e.mask)
  -- an edit wakes its core (R443)
  let s := s.wakeCore (s.cohCore c)
  match e.kind with
  | 0 => ls.foldl (fun s l => s.modCoh c (fun k => k.winPut true (128 * e.index + 4 * l) 4 (e.value.toNat % 2 ^ 32))) s
  | 1 => s.writeS c e.index e.value
  | 2 => s.modCoh c (fun k => ls.foldl (fun k l => k.setP e.index l (e.value.getLsbD 0)) k)
  | _ => s.modCoh c (fun k => ({ k with meet := ls.foldl (fun p l => put p l e.value noMeet) k.meet } : Cohort).settle)

/-- A v-register edit waits while an operation in flight writes the word (R55). -/
def State.editBusy (s : State) (c : Nat) (m : LaneMask) (e : Edit) : Bool :=
  e.kind == 0 && s.ops.any (fun o => o.2.coh == c && o.2.dst.any (fun d =>
    (lanesOf (m &&& e.mask)).any (fun l => d.1 == Dst.v (32 * e.index + l))))

/-- Lanes leave the parked state. -/
def State.unparkLanes (s : State) (c : Nat) (m : LaneMask) : State :=
  s.modCoh c (fun k => { k with parked := k.parked &&& ~~~m, tid := k.tid.filter (fun t => !m.getLsbD t.1) })

/-- The transactions of lanes that are killed or redirected end (R377). -/
def State.endTx (s : State) (c : Nat) (m : LaneMask) (cause : Nat) : State :=
  (lanesOf m).foldl (fun s l =>
    let t := (s.coh c).txOf l
    if !t.isOpen then s
    else if t.fb then (s.fbRelease c t.cls).modCoh c (fun k => { k with tx := del k.tx l })
    else s.modTx c l (fun t => { t.close 0x0A (BitVec.ofNat 8 cause) with fails := min (t.fails + 1) 15 })) s

/-- Lanes end (R377). -/
def State.kill (s : State) (c : Nat) (m : LaneMask) (cause : Nat) : State := (s.endTx c m cause).exitLanes c m

/-- Lanes go to another PC (R161, R377). -/
def State.redirect (s : State) (c : Nat) (m : LaneMask) (cause : Nat) (pc : DWord) : State :=
  let s := (s.endTx c m cause).unparkLanes c m
  let inside := fun (k : Cohort) => k.brm.toNat < pc.toNat && pc.toNat ≤ k.mend.toNat
  let s := s.modCoh c (fun k => if k.regionOpen ∧ !inside k then k.leaveRegion m else k)
  let s := s.modCoh c (fun k => { k with
    held := k.held &&& ~~~m
    lockWait := k.lockWait &&& ~~~m
    mendWait := k.mendWait &&& ~~~m
    barHold := k.barHold.filter (fun h => !m.getLsbD h.1) })
  s.arriveAt c ((lanesOf m).map (fun l => (l, pc)))

/-- Resume by cause (R369). -/
def State.resume (s : State) (c : Nat) (m : LaneMask) (cause : Nat) : State :=
  if cause = 0x01 ∨ cause = 0x1D ∨ cause = 0x1E ∨ cause = 0x23 then (s.unparkLanes c m).modCoh c Cohort.settle
  else if cause = 0x21 ∨ cause = 0x28 ∨ cause = 0x29 then
    let k := s.coh c
    (s.unparkLanes c m).arrive c ((lanesOf m).map (fun l => (l, nextPc (k.pcOf l) (s.nwAt c (k.pcOf l))))) true
  else s.kill c m cause

/-- ACTION on a lane or gang record. -/
def State.laneAction (s : State) (t : TrapInfo) (m : LaneMask) (action : Nat) (pc : DWord) : State :=
  match action with
  | 1 => s.resume t.coh m t.cause
  | 2 => s.redirect t.coh m t.cause pc
  | _ => s.kill t.coh m t.cause

/-- ACTION on an engine record: the command continues, or ends with status 0x01, detail 0x01. -/
def State.engineAction (s : State) (t : TrapInfo) (action : Nat) : State :=
  match s.optOf t.core t.slot with
  | none => s
  | some o =>
    if o.busy ∧ o.st = .pageFault t.tid then
      if action = 1 then s.modOpt t.core t.slot (fun o => { o with st := .running })
      else
        let c := s.collOf t.core t.slot o
        let s := s.cmdJunk t.core o
        -- one that was held at its record leaves none
        if o.fin.isSome then
          let s := s.finishCmd t.core t.slot 1 0x01
          match c with
          | some c => s.closeColl c 3
          | none => s
        else
          match o.instr with
          | .put _ _ _ => s.fabEnd t.core t.slot o 1 0x01
          | .get _ _ _ => s.fabEnd t.core t.slot o 1 0x01
          | .coll _ _ _ _ => s.collFail t.core t.slot o 1 0x01
          | _ => s.finishCmd t.core t.slot 1 0x01
    else s

/-- ACTION on a stall record: lanes still held at its PC, behind MEND too (R155). -/
def State.stallAction (s : State) (t : TrapInfo) (action : Nat) (pc : DWord) : State :=
  let k := s.coh t.coh
  let m := maskOf (fun l => t.lanes.getLsbD l && (k.held ||| k.mendWait).getLsbD l && k.awake.getLsbD l && k.pcOf l == t.pc)
  match action with
  | 2 => s.redirect t.coh m t.cause pc
  | 3 => s.kill t.coh m t.cause
  | _ => s

/-- The reply's own fields (R374). -/
def replyOk (r : Reply) : Bool :=
  let w := r.w0.toNat
  let action := pte w 32 2
  let dump := pte w 34 1
  let n := pte w 40 7
  pte w 35 5 == 0 && w / 2 ^ 47 == 0 && n ≤ 64 && r.edits.toNat % 16 == 0 && r.dumpva.toNat % 64 == 0 &&
    (n != 0 || r.edits == 0) && (dump == 1 || r.dumpva == 0) &&
    (if action = 2 then canonical r.newpc.toNat && r.newpc.toNat % 8 == 0 else r.newpc == 0)

/-- A record is answered for good. -/
def State.endTrap (s : State) (t : TrapInfo) : State :=
  { s with traps := { s.traps with info := s.traps.info.filter (fun x => !(x.part == t.part && x.tid == t.tid)) } }

/-- A record has had a reply that leaves its lanes parked. -/
def State.markReplied (s : State) (t : TrapInfo) : State :=
  { s with traps := { s.traps with info := s.traps.info.map (fun x =>
      if x.part = t.part ∧ x.tid = t.tid then { x with replied := true } else x) } }

/-- A reply that ends lanes or sends them elsewhere waits for earlier accesses of those that run in fallback mode: their class
lock is released as a release of scope pkg (R377, R101). -/
def State.fbWaits (s : State) (t : TrapInfo) (m : LaneMask) (action : Nat) : Bool :=
  let ends := action == 2 || action == 3 || (action == 1 && !([0x01, 0x1D, 0x1E, 0x23, 0x21, 0x28, 0x29].contains t.cause))
  let fb := maskOf (fun l => (if t.kind = 3 then t.lanes else m).getLsbD l && ((s.coh t.coh).txOf l).isOpen && ((s.coh t.coh).txOf l).fb)
  (t.kind != 2 && ends) && s.ops.any (fun e => e.2.coh == t.coh && e.2.kind.isAccess && e.2.pendingFor fb)

/-- The reply reaches its record: the status for the ring (R374, R376), or none where a page that it needs is being
moved or a register that it edits is about to be written, and the reply waits. -/
def State.answer (s : State) (r : Reply) : Option (Nat × State) :=
  let w := r.w0.toNat
  let tid := pte w 0 32
  let action := pte w 32 2
  if !replyOk r then some (2, s)
  else
    match s.traps.info.find? (fun t => t.part == r.part && t.tid == tid && t.written) with
    | none => some (1, s)
    | some t =>
      let m := s.parkedUnder t
      let laneKind := t.kind == 1 || t.kind == 4
      if laneKind ∧ m = 0 ∧ t.lanes ≠ 0 then some (1, s)
      else if s.fbWaits t m action then none
      else
        let g := s.cohGrd t.coh
        let n := pte w 40 7
        let core := some t.core
        let ep := s.pages core g.part g.tctx 1 r.edits.toNat (16 * n)
        -- a stale MV = 1 faults after 40 µs (R37)
        let moving := fun (l : List (Page × Nat × Nat)) => l.any (fun p => p.1 == .mv &&
          !(r.mv.any (fun t => t + 40000 ≤ s.time) && !s.moving g.tctx p.2.1))
        if n ≠ 0 ∧ moving ep then none
        else
          match (if n = 0 then some [] else okPieces ep) with
          | none => some (3, s)
          | some eps =>
            let v := s.getPieces eps
            let es := (List.range n).map (fun i => pte v (128 * i) 128)
            if !(es.all (editOk g.vregs)) then some (2, s)
            else if (es.map editOf).any (s.editBusy t.coh m) then none
            else
              let size := 0x800 + g.vregs * 128
              let dp := s.pages core g.part g.tctx 2 r.dumpva.toNat size
              let dump := pte w 34 1 = 1
              let s := if n = 0 then s else s.fillSpan t.core g.tctx r.edits.toNat (16 * n)
              if dump ∧ moving dp then none
              else
                match (if dump then okPieces dp else some []) with
                | none => some (3, s)
                | some dps =>
                  let s := if dump then
                      (((s.fillSpan t.core g.tctx r.dumpva.toNat size).modCoh t.coh Cohort.flushRegs).wbAll t.core g.part).putPieces dps
                        (s.cohRecord t.coh (s.blockNo (s.coh t.coh).block))
                    else s
                  let s := (es.map editOf).foldl (fun s e => s.edit t.coh m e) s
                  if action = 0 then some (0, s.markReplied t)
                  else if t.kind = 3 then some (0, (s.stallAction t action r.newpc).endTrap t)
                  else if t.kind = 2 then some (0, (s.engineAction t action).endTrap t)
                  else some (0, ((s.laneAction t m action r.newpc).endTrap t).settleBlk (s.coh t.coh).block)

/-- Replies are carried out in ring order, up to one that must wait (R378): those that are left. -/
def State.answerAll : List Reply → State → List Reply × State
  | [], s => ([], s)
  | r :: t, s =>
    match s.answer r with
    | some (st, u) =>
      let u := match s.traps.info.find? (fun t => t.part == r.part && t.tid == r.w0.toNat % 2 ^ 32) with
        | some t => u.keepArea t.coh
        | none => u
      State.answerAll t (u.emit (.mail r.part st))
    | none => ({ r with mv := some (r.mv.getD s.time) } :: t, s)

/-- The held replies of a partition are tried. -/
def State.applyHeld (s : State) (p : Nat) : State :=
  let mine := s.traps.held.filter (fun r => r.part == p)
  if mine.isEmpty then s
  else
    let a := State.answerAll mine s.tick
    { a.2 with traps := { a.2.traps with held := a.2.traps.held.filter (fun r => r.part != p) ++ a.1 } }

/-- TRAP_REPLY (R374, R376, R378): a reply for a partition that is not running is held, one behind a reply that waits
waits with it. -/
def execTrapReply (part : Nat) (w0 newpc edits dumpva : BitVec 64) (s : State) : Host.Outcome State Fault Refusal :=
  .next (
    -- a reply to a record that is outstanding itself is no call more (R415)
    if Config.parts ≤ part ∨ !(s.callRoom part || s.traps.info.any (fun t => s.unanswered part t && t.tid == w0.toNat % 2 ^ 32)) then s
    else
      let s := { s with traps := { s.traps with held := s.traps.held ++ [(⟨part, w0, newpc, edits, dumpva, none⟩ : Reply)] } }
      if s.running part then s.applyHeld part else s)

end Sys2Proof.Machine
end

