-- ==== Sys2Proof/Machine/Switch.lean ====
section
/-! DEFINITION. The tenant switch (R379 to R387, R366, R402): slice end, halt, quiesce, save, scrub, restore, and the time
accounts (R409, R410). -/

namespace Sys2Proof.Machine

def State.share (s : State) (n : Nat) : Share := getD s.shares n .blank
def State.modShare (s : State) (n : Nat) (f : Share → Share) : State := { s with shares := set s.shares n (f (s.share n)) }

/-- The partition has work (R409). -/
def State.hasWork (s : State) (p : Nat) : Bool :=
  s.grids.any (fun e => e.2.part == p && e.2.state != .retired) ||
    s.cohorts.any (fun e => e.2.place == .evicted && s.cohPart e.1 == p)

/-- The enabled partition with work on a share that follows one, cyclically (R409). -/
def State.follower (s : State) (n p : Nat) : Option Nat :=
  (upto (p + 1) (Config.parts - 1)).findSome? (fun i =>
    let q := i % Config.parts
    if s.shareOf q = n ∧ pte (s.pctlOf q) 7 1 = 1 ∧ s.hasWork q then some q else none)

/-- Time is charged to a partition (R410). -/
def State.chargeTime (s : State) (p ns : Nat) : State :=
  { s with ctl := { s.ctl with acct := put s.ctl.acct p ((getD s.ctl.acct p 0 + ns) % 2 ^ 64) 0 } }

/-- The cohorts of a partition on their cores, or saved. -/
def State.cohortsOf (s : State) (p : Nat) : List (Nat × Cohort) := s.cohorts.filter (fun e => s.cohPart e.1 == p)

/-- The blocks of a partition. -/
def State.blocksOf (s : State) (p : Nat) : List (Nat × Block) := s.blocks.filter (fun b => (s.grd b.2.grid).part == p)

/-- The attestation of a partition. -/
def State.attest (s : State) (p : Nat) : Attest := (look s.svc.attest p).getD ⟨[], 0, 0⟩

def State.modAttest (s : State) (p : Nat) (f : Attest → Attest) : State :=
  { s with svc := { s.svc with attest := set s.svc.attest p (f (s.attest p)) } }

/-- The turn of the partition that runs on a share ends (R379, R380): issue and placement stop for it, and it has been charged
for its turn (R410). -/
def State.endTurn (s : State) (share p : Nat) (next : Option Nat) : State :=
  let t := s.chargeTime p (s.time - (s.share share).since)
  let t := { t with tier := { t.tier with swaps := t.tier.swaps.filter (fun w => w.part != p) } }
  t.modShare share (fun _ => ⟨none, .halt, p, next, t.time, 0⟩)

/-- SLICE_END (R409, R380). -/
def execSliceEnd (share : Nat) (s : State) : Host.Outcome State Fault Refusal :=
  .next (
    let h := s.share share
    match h.phase, h.running with
    | .idle, some p =>
      let t := s.tick
      let slice := max 1 (pte (t.pctlOf p) 8 16)
      (match t.follower share p with
       | none => s
       | some q => if t.hasWork p ∧ t.time < h.since + 1000 * slice then s else t.endTurn share p (some q))
    | _, _ => s)

/-- A setting of PCTL_p is made (R408, R417): a partition that comes to exist starts its attestation record at zero, and runs on
a share where none does (R409). -/
def State.setPctl (s : State) (p w : Nat) : State :=
  let old := s.pctlOf p
  let here := pte w 7 1 == 1
  let s := { s with ctl := { s.ctl with
    pctl := put s.ctl.pctl p (BitVec.ofNat 32 w) 0x0003E800#32
    pctlHold := del s.ctl.pctlHold p } }
  let s := if here ∧ pte old 7 1 = 0 then s.modAttest p (fun a => { a with record := 0, count := 0 }) else s
  if here then s.wake p else s

/-- A partition has its turn on a share, or comes to it, or leaves it. -/
def State.onShare (s : State) (share p : Nat) : Bool :=
  let h := s.share share
  h.running == some p || (h.phase != .idle && (h.out == p || h.next == some p))

/-- Where the setting that waits for a partition asks it, its turn on the share ends (R409; notes/assumptions/50.md). -/
def State.leaveShare (s : State) (share p : Nat) : State :=
  let h := s.share share
  if h.phase = .idle ∧ h.running = some p ∧ (look s.ctl.pctlHold p).isSome then
    let t := s.tick
    t.endTurn share p (t.follower share p)
  else s

/-- An access of a word that has issued waits for its walk, or for a peer (R380); a walk of the word's own clause is its
fetch. -/
def Walk.isData (w : Walk) : Bool := clauseAt w.pc != clauseAt (BitVec.ofNat 64 w.va)

def State.unfinishedAt (s : State) (c : Nat) (pc : DWord) : Bool :=
  s.walks.any (fun w => w.2.coh == c && w.2.pc == pc && w.2.isData) || s.transit.any (fun t => t.2.coh == c && t.2.pc == pc)

def State.unfinished (s : State) (c : Nat) : Bool :=
  s.walks.any (fun w => w.2.coh == c && w.2.isData) || s.transit.any (fun t => t.2.coh == c)

/-- What the halt does to the cohorts of a partition at once: waiting lanes leave their queues, speculative attempts abort
(R143, R336, R380). -/
def State.haltCohorts (s : State) (p : Nat) : State :=
  (s.cohortsOf p).foldl (fun (s : State) (e : Nat × Cohort) =>
    let s := (s.wakeCore (s.cohCore e.1)).withdraw e.1
    let spec := (lanesOf e.2.live).filter e.2.spec
    spec.foldl (fun s l => s.txAbort e.1 l 0x06 0) s) s

/-- HALT_COMPLETE (R380): every flag reads zero, nothing is in flight, no access that has issued still waits for its walk or for
a peer; operand caches and L1 are written back. Walks of fetches are given up. -/
def execHaltComplete (share : Nat) (s : State) : Host.Outcome State Fault Refusal :=
  .next (
    let h := s.share share
    let p := h.out
    if h.phase ≠ .halt then s
    else
      let t := s.haltCohorts p
      let cs := t.cohortsOf p
      if cs.any (fun e => e.2.cf.any (fun f => f.2 != 0) || t.ops.any (fun o => o.2.coh == e.1) || t.unfinished e.1) then t
      else
        let t := cs.foldl (fun t e => t.modCoh e.1 (fun k => { k.flushRegs with
          active := false
          posTime := if k.place = .resident then h.since else k.posTime })) t
        let t := t.cores.foldl (fun t e => t.wbAll e.1 p) t
        let t := { t with walks := t.walks.filter (fun w => t.cohPart w.2.coh != p) }
        t.modShare share (fun h => { h with phase := .quiesce }))

/-- Commands of a partition in flight. -/
def State.partCmds (s : State) (p : Nat) : List (Nat × Nat × Opt) :=
  s.cores.flatMap (fun e => (e.2.opt.filter (fun o => o.2.busy && (s.grd o.2.grid).part == p)).map (fun o => (e.1, o.1, o.2)))

/-- Cohorts that owned claims, or whose matrix commands are about to be discarded, follow-ons of copies that are held at a
page among them, are marked (R366). -/
def State.markLost (s : State) (p : Nat) : State :=
  (s.cohortsOf p).foldl (fun (s : State) (e : Nat × Cohort) =>
    let core := s.cohCore e.1
    let k := s.core core
    let owns := k.slots.any (fun x => x.2.owner == some e.1) || k.accs.any (fun x => x.2.owner == some e.1)
    let lost := k.opt.any (fun o => o.2.busy && o.2.coh == e.1 && (o.2.inMatrix || o.2.lostFollow))
    if owns ∨ lost then (s.modCoh e.1 (fun c => { c with lost := true })).freeClaims core e.1 else s) s

/-- A copy that is held at a page gives up its follow-on (R366). -/
def Opt.dropFollow (o : Opt) : Opt :=
  match o.st with
  | .pageFault _ => if o.follow.isSome then { o with follow := none, lostFollow := true } else o
  | _ => o

/-- The follow-ons of a partition's held copies are discarded. -/
def State.dropFollows (s : State) (p : Nat) : State :=
  (s.partCmds p).foldl (fun (s : State) c => s.modOpt c.1 c.2.1 Opt.dropFollow) s

/-- QUIESCE_MARKER_RETURN (R366, R381, R402): matrix commands are discarded, follow-ons included; copies, PUT and GET ahead
of the markers have ended, their writes performed, or are held at a page; collectives stay as they are. -/
def execQuiesceMarkerReturn (share : Nat) (s : State) : Host.Outcome State Fault Refusal :=
  .next (
    let h := s.share share
    let p := h.out
    if h.phase ≠ .quiesce then s
    else
      let t := (s.dropFollows p).markLost p
      let t := (t.partCmds p).foldl (fun (t : State) c =>
        if c.2.2.inMatrix then (t.accstJunk c.1 c.2.2).finishCmd c.1 c.2.1 3 0 else t) t
      let moving := (t.partCmds p).any (fun c =>
        (c.2.2.eng == 1 || c.2.2.eng == 4) && (match c.2.2.st with | .pageFault _ => false | _ => true))
      if moving then t
      else
        let t := (t.drainWrites (fun w => w.part == p)).tick
        t.modShare share (fun h => { h with phase := .save, stop := t.time }))

/-- IMAGE_SAVE_COMPLETE (R382 to R384): the image is written. -/
def execImageSaveComplete (share : Nat) (s : State) : Host.Outcome State Fault Refusal :=
  .next (
    let h := s.share share
    let p := h.out
    if h.phase ≠ .save then s
    else
      let s := s.tick.saveImage p
      let s := (s.cohortsOf p).foldl (fun (s : State) (e : Nat × Cohort) => if e.2.place = .resident then s.modCoh e.1 (fun k => { k with place := .saved }) else s) s
      let s := (s.blocksOf p).foldl (fun (s : State) (b : Nat × Block) => s.modBlk b.1 (fun k => { k with place := .saved, scr := s.scrOf k })) s
      s.modShare share (fun h => { h with phase := .scrub }))

/-- The op-table and order-buffer entries of the grids of a partition leave the core: the saved image holds them (R342,
R382, R385). -/
def Core.saveOpts (k : Core) (mine : Nat → Bool) (p : Nat) : Core :=
  { k with
    opt := k.opt.filter (fun o => !mine o.2.grid)
    saved := k.saved ++ (k.opt.filter (fun o => mine o.2.grid)).map (fun o => (p, o.1, o.2))
    obuf := k.obuf.filter (fun e => !mine e.grid)
    savedBuf := k.savedBuf ++ k.obuf.filter (fun e => mine e.grid) }

/-- They come back. A completed entry whose place a pending command of another share has taken meanwhile has been taken again
(R340). -/
def Core.loadOpts (k : Core) (mine : Nat → Bool) (p : Nat) : Core :=
  let back := k.saved.filter (fun e => e.1 == p && (e.2.2.busy || (look k.opt e.2.1).all (fun o => !o.busy)))
  { k with
    opt := back.foldl (fun t e => set t e.2.1 e.2.2) k.opt
    saved := k.saved.filter (fun e => e.1 != p)
    obuf := k.obuf ++ k.savedBuf.filter (fun e => mine e.grid)
    savedBuf := k.savedBuf.filter (fun e => !mine e.grid) }

/-- SCRUB_COMPLETE (R385, R83, R84): rows, slots, accumulators, op-table entries and translations are cleared; the record is
rebuilt, the swap begins. -/
def execScrubComplete (share : Nat) (s : State) : Host.Outcome State Fault Refusal :=
  .next (
    let h := s.share share
    let p := h.out
    if h.phase ≠ .scrub then s
    else
      let cs := s.cshareOf share
      let inRows := fun (a : Nat) =>
        let r := a % 0x180000 / 2048
        csRowBase cs ≤ r && r < csRowBase cs + csRows cs
      let s := { s with
        bank := s.bank.filter (fun c => !inRows c.1)
        cluTlb := []
        walkC := []
        svc := { s.svc with
          badBank := s.svc.badBank.filter (fun b => !inRows b)
          badOper := s.svc.badOper.filter (fun x =>
            if x.2 < 2 ^ 20 then x.2 / 32 != share else (x.2 - 2 ^ 20) / 8 != share) }
        cores := s.cores.map (fun (e : Nat × Core) => (e.1, { e.2.saveOpts (fun g => (s.grd g).part == p) p with
          tlb := []
          l1 := e.2.l1.filter (fun x => x.part != p)
          rel := e.2.rel.filter (fun x => x.part != p)
          l1Used := e.2.l1Used.filter (fun x => x != p)
          kept := e.2.kept.filter (fun r => !(csRowBase cs ≤ r && r < csRowBase cs + csRows cs))
          slots := e.2.slots.filter (fun x => x.1 / 32 != share)
          accs := e.2.accs.filter (fun x => x.1 / 8 != share) })) }
      let t := s.tick
      let t := (t.chargeTime p (t.time - h.since)).rebuild p
      let t := t.modShare share (fun h => { h with phase := if h.next.isSome then .restore else .idle, since := t.time })
      let t := match h.next with
        | some q => if t.swapen q then t.swapStart q (some p) else t
        | none => t
      -- a setting of PCTL_p that has waited for this is made; a share with no partition takes the first that has work
      let t := match look t.ctl.pctlHold p with
        | some w => t.setPctl p w.toNat
        | none => t
      match h.next, t.follower share p with
      | none, some q => t.wake q
      | _, _ => t)

/-- A block returns to its core, with rows and slots anew for what is not evicted; an exited one holds none. The rows of its
scratchpad hold what they held, whatever stood in them. It stays saved where its share, which it has changed meanwhile, has no
room for it. -/
def State.restoreBlock (s : State) (b : Nat) : State :=
  let k := s.blk b
  if k.exited then s.modBlk b (fun k => { k with place := .resident, scr := [] }) else
  let g := s.grd k.grid
  let cs := s.cshareOf (s.shareOf g.part)
  let used := s.rowsUsed k.core g.part
  let wins := k.winRows.map (fun r => if r < noRow then g.winSize else 0)
  let free := (upto (csSlotBase cs) (csNslot cs)).filter (fun x => !(s.slotsUsed k.core g.part).contains x)
  match allRuns (csRowBase cs) (csRows cs) ([g.scrRows, g.spRows] ++ wins) used with
  | none => s
  | some rows =>
  if free.length < (k.slots.filter (· < noSlot)).length then s else
  let win := (k.winRows.zip (rows.drop 2)).map (fun p => if p.1 < noRow then p.2 else noRow)
  let slots := k.slots.foldl (fun (a : List Nat × List Nat) x =>
    if x < noSlot then (a.1 ++ [(a.2.head?).getD x], a.2.drop 1) else (a.1 ++ [x], a.2)) ([], free)
  let base := k.core * 0x180000 + (rows[0]?).getD 0 * 2048
  let clear := s.bank.filter (fun c => !(base ≤ c.1 && c.1 < base + 2048 * g.scrRows))
  let s := { s with bank := k.scr.foldl (fun (m : List Host.Cell) (c : Host.Cell) => put m (base + c.1) c.2 0) clear }
  let s := s.modBlk b (fun k => { k with
    place := .resident
    scrRow := (rows[0]?).getD 0
    spRow := (rows[1]?).getD 0
    winRows := win
    slots := slots.1
    scr := [] })
  (s.cohsOf b).foldl (fun (s : State) (e : Nat × Cohort) =>
    if e.2.place = .saved then
      (s.modCoh e.1 (fun c => { c.back s.time with vbase := (win[c.idx]?).getD noRow })).takePos e.1
    else s) s

/-- The lanes of a cohort that are neither ended nor parked take a precise trap at their saved PCs, one record for each PC,
as far as the core has room for records (R373). -/
def State.parkAll (s : State) (c cause sub : Nat) : State :=
  let k := s.coh c
  let m := k.awake
  let at_ := fun (l : Nat) => maskOf (fun j => m.getLsbD j && k.pcOf j == k.pcOf l)
  ((lanesOf m).filter (fun l => lowLane (at_ l) == l)).foldl (fun s l =>
    s.fits (s.cohCore c) (s.park c (at_ l) (k.pcOf l) (.plain cause sub))) s

/-- The group of a restarted cohort stands at the restart address (R366). -/
def State.restartAt (s : State) (c : Nat) : State :=
  let k := s.coh c
  let m := k.awake
  let s := (lanesOf m).foldl (fun s l =>
    let t := (s.coh c).txOf l
    if t.isOpen ∧ t.fb then (s.fbRelease c t.cls).modCoh c (fun k => { k with tx := del k.tx l }) else s) s
  let s := s.modCoh c (fun k => { k.closeRegion with
    lost := false
    held := 0
    lockWait := 0
    mendWait := 0
    barHold := k.barHold.filter (fun h => !m.getLsbD h.1)
    absent := [] })
  s.arrive c ((lanesOf m).map (fun l => (l, k.restart))) false

/-- Before a restored cohort issues: a damaged record parks its lanes (R386), and the restart rule applies to one that has
lost engine state (R366). What finds no room for its records waits, and the cohort with it. -/
def State.restartCohort (s : State) (c : Nat) : State :=
  let k := s.coh c
  if k.damaged then
    let t := s.parkAll c 0x23 1
    if (t.coh c).awake = 0 then t.modCoh c (fun k => { k with damaged := false, lost := false }) else t
  else if !k.lost then s
  else if k.restart ≠ 0 then s.restartAt c
  else
    let t := s.parkAll c 0x24 0
    if (t.coh c).awake = 0 then t.modCoh c (fun k => { k with lost := false }) else t

/-- RESTORE_COMPLETE (R386, R366, R402): once the order buffers of its cores have room (R194) and every held reply has been
applied. -/
def execRestoreComplete (share : Nat) (s : State) : Host.Outcome State Fault Refusal :=
  .next (
    let h := s.share share
    match h.phase, h.next with
    | .restore, some q =>
      let s := s.tick
      let s0 := s
      let bad := ((s.cohortsOf q).filter (fun e => e.2.place == .saved && s.badRecord q e.1)).map Prod.fst
      let s := s.readImage q
      let s := ((s.blocksOf q).filter (fun b => b.2.place == .saved)).foldl (fun s b => s.restoreBlock b.1) s
      let s := { s with
        ctl := { s.ctl with images := del s.ctl.images q }
        cores := s.cores.map (fun (e : Nat × Core) => (e.1, e.2.loadOpts (fun g => (s.grd g).part == q) q))
        cohorts := s.cohorts.map (fun (e : Nat × Cohort) => if bad.contains e.1 then (e.1, { e.2 with damaged := true }) else e) }
      let s := s.applyHeld q
      if (s.blocksOf q).any (fun b => b.2.place == .saved) then s0 else
      let full := (s.coresOf q).any (fun c => Config.orderPerCore < s.orderUsed c)
      if full ∨ s.traps.held.any (fun r => r.part == q) then s
      else
        let s := (s.cohortsOf q).foldl (fun s e => s.restartCohort e.1) s
        let s := (s.partCmds q).foldl (fun (s : State) (c : Nat × Nat × Opt) =>
          match c.2.2.st with
          | .pageFault _ => s.modOpt c.1 c.2.1 (fun o => { o with st := .running })
          -- a collective that ended meanwhile completes now (R402)
          | .ended v => s.finishCmd c.1 c.2.1 (v / 256) (v % 256)
          | _ => s) s
        (s.modShare share (fun h => { h with running := some q, phase := .idle, next := none })).launchRun.leaveShare share q
    | _, _ => s)

/-- What waits in the units of the package goes on: the oldest engine write on its way is performed (R115), writes that
waited for a region move are tried again (R37), as are held replies (R378) and restarts (R366, R373) of partitions that
run. -/
def State.unitsTurn (s : State) : State :=
  let s := match s.ewr with
    | [] => s
    | w :: t => (({ s with ewr := t } : State).homeWrite w.pa w.n w.v none).l1Stale w.core w.part (sectors w.pa w.n)
  let s := if s.late.isEmpty then s else s.tick.retryLate
  let s := (s.traps.held.map (fun r => r.part)).eraseDups.foldl (fun s p => if s.running p then s.applyHeld p else s) s
  (s.cohorts.filter (fun e => (e.2.lost || e.2.damaged) && s.running (s.cohPart e.1))).foldl (fun s e => s.restartCohort e.1) s

end Sys2Proof.Machine
end

