-- ==== Sys2Proof/Machine/Fabric.lean ====
section
/-! DEFINITION. The fabric as this package meets it: requests of other packages (R390, R391), payloads and completion
records that they deliver (R116, R392, R393), collectives in the switches (R397, R400, R401), requests that cannot be
delivered (R389), and ports that leave service (R12, R389). -/

namespace Sys2Proof.Machine

/-! ### Requests of other packages -/

/-- The checks of R390 on n bytes at an OFFSET for a DTID; 0 where they pass. -/
def State.remoteCause (s : State) (dtid off n : Nat) (write : Bool) : Nat :=
  let last := off + max n 1 - 1
  let base := s.ctl.pkg * 2 ^ 42
  let regs := upto ((base + off) / 2 ^ 21) (last / 2 ^ 21 + 1 - off / 2 ^ 21)
  let mapped := fun (x : Nat) => x < 2 ^ 42 && (regionOf x == .hbm || regionOf x == .vault || regionOf x == .cap)
  match s.dtidPart s.ctl.pkg dtid with
  | none => 0x14
  | some p =>
    if !mapped off ∨ !mapped last then 0x16
    else if regs.any (fun f => (getD s.own f .blank).owner != some p || !(getD s.own f .blank).exported) then 0x14
    else if write ∧ regs.any (fun f => (getD s.own f .blank).sealed) then 0x12
    else 0

/-- The request changes memory. -/
def remoteWrites : RemoteKind → Bool
  | .load => false
  | .store => true
  | .rmw _ _ => true
  | .cas => true

/-- What the target finds and does (R391): the value returned. A compare-and-swap carries the compared value in the low
64 bits of its data and the new one above. A read pulls release sets of scope dom (R106). -/
def State.remoteDo (s : State) (kind : RemoteKind) (pa n : Nat) (x : BitVec 128) : Nat × State :=
  let s := if kind = .store then s else s.pullAll (s.tagsAt (sectors pa n) .remote)
  let old := getBytes s.mem pa n
  match kind with
  | .load => (old, s.l2Read pa n)
  | .store => (0, s.homeWrite pa n (x.toNat % 2 ^ (8 * n)) none)
  | .rmw op ty => (old, (s.atomicAt pa n).homeWrite pa n (aopVal op ty old x.toNat).1 none)
  | .cas =>
    let s := s.atomicAt pa n
    -- one that stores nothing reaches the home all the same (R141)
    (old, if old = x.toNat % 2 ^ 64 % 2 ^ (8 * n) then s.homeWrite pa n (x.toNat / 2 ^ 64 % 2 ^ (8 * n)) none
      else s.conflictWrite pa n none)

/-- REMOTE_REQUEST (R390, R391): no byte is performed before the checks pass. An RMW that finds damaged data, as a load,
is answered with cause 0x23 (R370). -/
def execRemoteRequest (src : Nat) (dtid : BitVec 16) (kind : RemoteKind) (off size : Nat) (data : BitVec 128) (s : State) :
    Host.Outcome State Fault Refusal :=
  .next (
    let c := s.remoteCause dtid.toNat off size (remoteWrites kind)
    let pa := s.ctl.pkg * 2 ^ 42 + off
    if c ≠ 0 then s.emit (.remoteReply src c 0)
    else if kind ≠ .store ∧ s.badAt pa size then
      (s.logBad ((s.dtidPart s.ctl.pkg dtid.toNat).getD 31) pa).emit (.remoteReply src 0x23 0)
    else
      let r := s.remoteDo kind pa size data
      r.2.emit (.remoteReply src 0 (BitVec.ofNat 128 r.1)))

/-- PAYLOAD_DELIVERY (R116, R392, R393): the bytes at their homes, then the record. -/
def execPayloadDelivery (src : Nat) (dtid : BitVec 16) (off : Nat) (bytes : List (BitVec 8)) (rec : Option Nat)
    (code detail : BitVec 8) (s : State) : Host.Outcome State Fault Refusal :=
  .next (
    let base := s.ctl.pkg * 2 ^ 42
    let c := if bytes.isEmpty then 0 else s.remoteCause dtid.toNat off bytes.length true
    if c ≠ 0 then s.emit (.remoteReply src c 0)
    else
      let s := bytes.zipIdx.foldl (fun (s : State) b => s.homeWrite (base + off + b.2) 1 b.1.toNat none) s
      match rec with
      | none => s.emit (.remoteReply src 0 0)
      | some r =>
        let c := s.remoteCause dtid.toNat r 16 true
        if c ≠ 0 then s.emit (.remoteReply src c 0)
        else
          let s := s.tick
          let v := (if code = 0 then 1 else 3) + 2 ^ 8 * code.toNat + 2 ^ 16 * detail.toNat + 2 ^ 64 * s.time
          (s.homeWrite (base + r) 16 v none).emit (.remoteReply src 0 0))

/-! ### Collectives -/

/-- COLL_CHUNK_ARRIVAL (R397, R400): another member's contribution; each member contributes once, and one that comes after the
time limit finds the collective timed out (R401). A member may report that it has failed a target check (R398). -/
def execCollChunkArrival (dtid : BitVec 16) (cid : BitVec 32) (rank : Nat) (head : CollHead) (elems : List Int) (s : State) :
    Host.Outcome State Fault Refusal :=
  .next (
    let s := s.tick.collDue dtid.toNat cid
    let c := (s.collAt dtid.toNat cid).getD (s.newColl dtid.toNat cid head.tmo)
    if s.collExpired dtid.toNat cid then s
    else
      let c := if head.fail then { c with failed := some (c.failed.getD 3) } else c
      let c := if (look c.heads rank).isSome then c
        else { c with heads := set c.heads rank head, elems := if head.fail then c.elems else set c.elems rank elems }
      -- one that is over here is forgotten with its last contribution
      if c.own.isNone ∧ c.failed.isSome ∧ (if c.members.isEmpty then head.nmem else c.members.length) ≤ c.heads.length then
        s.dropColl c.dtid c.cid
      else s.putColl c)

/-- COLL_TIMEOUT (R401). -/
def execCollTimeout (dtid : BitVec 16) (cid : BitVec 32) (s : State) : Host.Outcome State Fault Refusal :=
  .next (s.tick.collDue dtid.toNat cid)

/-! ### What cannot be delivered, and ports -/

/-- A lane's part of an operation that goes to another package. -/
def State.farLane (s : State) (o : Op) (l : Nat) : Bool :=
  (look o.acc l).any (fun a => a.segs.any (fun g => g.loc == .mem && !s.isLocal g.a))

/-- FLIT_REPLAY_EXHAUSTED (R389): lanes fail with cause 0x23, commands with status 0x09, detail 6. The record of a PUT,
which lies on the package that cannot be reached, is not written. -/
def execFlitReplayExhausted (what : FlitWhat) (s : State) : Host.Outcome State Fault Refusal :=
  .next (match what with
    | .op id lanes =>
      (match look s.ops id with
       | none => s
       | some o =>
         let m := maskOf (fun l => lanes.getLsbD l && o.lanes.getLsbD l && s.farLane o l)
         if m = 0 then s
         else s.fits o.core (((s.failLate id m ⟨1, 0x23, 0, o.kind.access, 15, 0, 0⟩).retestBars (s.coh o.coh).block).settleBlk
           (s.coh o.coh).block))
    | .cmd core slot =>
      (match s.optOf core slot with
       | none => s
       | some o =>
         if !o.busy ∨ o.fin.isSome then s
         else
           match o.instr with
           | .put _ _ _ => s.finishCmd core slot 9 6
           | .get _ _ _ => s.fabEnd core slot o 9 6
           | .coll _ _ _ _ => s.collFail core slot o 9 6
           | _ => s))

/-- What has been sent to another package on a port and is not delivered yet. -/
def State.portBusy (s : State) (port : Nat) : Bool :=
  s.ops.any (fun e => (lanesOf e.2.lanes).any (fun j =>
    (look e.2.acc j).any (fun b => (s.routes b).any (fun r => r.2 == some port) && !s.unsent e.1 e.2 j)))

/-- PORT_OUT_OF_SERVICE (R12, R389): a port leaves service; what has been sent on it is delivered first, and what follows goes
by the new list. -/
def execPortOutOfService (port : Nat) (s : State) : Host.Outcome State Fault Refusal :=
  .next (if s.portBusy port then s
    else
      let s := s.drainWrites (fun w => w.route.isSome)
      { s with fab := { s.fab with ports := s.fab.ports &&& ~~~(1#18 <<< port) } })

end Sys2Proof.Machine
end

