-- ==== Sys2Proof/Machine/Gang.lean ====
section
/-! DEFINITION. Gang launches (R403 to R405): READY, GO, CANCEL, ACK and ABORT as they arrive, and the three timers. -/

namespace Sys2Proof.Machine

/-- The launch of a gang on this package that has not retired. -/
def State.gangOf (s : State) (gid : BitVec 32) : Option (Nat × Gang) :=
  s.grids.findSome? (fun e => match e.2.gang with
    | some q => if q.gid = gid ∧ e.2.state ≠ .retired then some (e.1, q) else none
    | none => none)

def State.modGang (s : State) (k : Nat) (f : Gang → Gang) : State :=
  s.modGrd k (fun g => { g with gang := g.gang.map f })

/-- A member that has not begun retires with STATE 3, cause 5 (R404, R405). -/
def State.gangDrop (s : State) (k : Nat) (p : GangPhase) : State :=
  ((s.modGang k (fun q => { q with phase := p, reserved := none })).retire k 3 5 true).launchRun

/-- The member has not begun to run. -/
def Gang.waiting (q : Gang) : Bool := q.phase == .preparing || q.phase == .readySent

/-- GANG_READY (R404): at rank 0, one READY from each member counts. -/
def execGangReady (gid : BitVec 32) (rank : Nat) (digest : BitVec 384) (s : State) : Host.Outcome State Fault Refusal :=
  .next (match s.gangOf gid with
    | none => s
    | some (k, q) =>
      if q.q ≠ 0 ∨ !q.waiting ∨ q.members.length ≤ rank ∨ q.ready.any (fun x => x.1 == rank) then s
      else (s.modGang k (fun q => { q with ready := q.ready ++ [(rank, digest)] })).gangTryGo k)

/-- Every member has acknowledged: nothing of the gang is left to wait for. -/
def State.gangSettle (s : State) (k : Nat) : State :=
  s.modGang k (fun q =>
    if q.phase = .going ∧ (List.range q.members.length).all q.acks.contains then { q with phase := .done } else q)

/-- A member waits for GO or CANCEL no longer than PTMO + 100 µs (R404). -/
def Gang.late (q : Gang) (now : Nat) : Bool := q.phase == .readySent && q.readyAt + 1000000 * q.ptmo + 100000 ≤ now

/-- GANG_GO (R404): the reserved cluster is placed, ACK goes to every member. A GO that comes too late finds the launch
retired; rank 0 goes once it holds every READY. -/
def execGangGo (gid : BitVec 32) (s : State) : Host.Outcome State Fault Refusal :=
  .next (match s.gangOf gid with
    | none => s
    | some (k, q) =>
      match q.reserved with
      | none => s
      | some (clu, cores) =>
        let g := s.grd k
        let t := s.tick
        if q.late t.time then t.gangDrop k .cancelled
        else if q.phase ≠ .readySent ∨ (q.q = 0 ∧ !q.allReady) ∨ !s.running g.part ∨
            !cores.all (fun c => (s.blockRoom g c).isSome) then s
        else
          let die := clu / Config.clustersPerDie
          let c := clu % Config.clustersPerDie
          let now := t.time
          let s := t.modGang k (fun q => { q with phase := .going, reserved := none, goAt := now, acks := q.acks ++ [q.q] })
          let s := s.placeCluster k (g.dies.findIdx (· == die)) (if g.det then c else 0) die c cores
          (s.emit (.ack gid q.q)).gangSettle k)

/-- GANG_CANCEL (R404). -/
def execGangCancel (gid : BitVec 32) (s : State) : Host.Outcome State Fault Refusal :=
  .next (match s.gangOf gid with
    | none => s
    | some (k, q) => if q.waiting then s.gangDrop k .cancelled else s)

/-! ### Abort (R405) -/

/-- One gang record for each cohort of a grid that has a lane left: it parks those that are not parked, and names the PC of the
lowest one. -/
def State.gangPark (s : State) (k : Nat) (gid : BitVec 32) : State :=
  let bs := (s.blksOf k).map Prod.fst
  (s.cohorts.filter (fun e => bs.contains e.2.block && e.2.live &&& ~~~e.2.exited != 0)).foldl (fun (s : State) (e : Nat × Cohort) =>
    let m := (s.coh e.1).awake
    let pc := (s.coh e.1).pcOf (lowLane (if m = 0 then e.2.live &&& ~~~e.2.exited else m))
    let r := (s.withdraw e.1).record e.1 m pc ⟨4, 0x25, 0, 0, 15, 0, gid.toNat⟩ m.toNat (s.grd k).source 0
    -- halted for a trap, its register writes become visible to siblings (R56)
    r.2.modCoh e.1 (fun c => { c.flushRegs with
      parked := c.parked ||| m
      tid := (lanesOf m).foldl (fun x l => set x l r.1) c.tid })) s

/-- The member list of a COLL: as it began with it, or as its group descriptor stands. -/
def State.collMembers (s : State) (core slot : Nat) (o : Opt) : List Nat :=
  match s.collOf core slot o with
  | some c => c.members
  | none =>
    match s.groupOf_ (s.optPart o) (s.grd o.grid).tctx (o.d 3).toNat with
    | some v => v.2.2.2.2.1
    | none => []

/-- The COLLs of a partition that have not completed, in the op tables or saved. -/
def State.partColls (s : State) (part : Nat) : List (Nat × Nat × Opt) :=
  let coll := fun (o : Opt) => o.busy && o.fin.isNone && s.optPart o == part && o.eng == 3 &&
    (match o.st with | .ended _ => false | _ => true)
  s.cores.flatMap (fun c => ((c.2.opt ++ c.2.saved.map (fun e => e.2)).filter (fun o => coll o.2)).map (fun o => (c.1, o.1, o.2)))

/-- Collectives of a partition whose member list names a missing package end with status 0x09, detail 2. -/
def State.gangColls (s : State) (part : Nat) (missing : List Nat) : State :=
  (s.partColls part).foldl (fun (s : State) c =>
    if (s.collMembers c.1 c.2.1 c.2.2).any missing.contains then s.collFail c.1 c.2.1 c.2.2 9 2 else s) s

/-- What a member does that raises or receives ABORT. -/
def State.gangStop (s : State) (k : Nat) (q : Gang) (missing : List Nat) : State :=
  let part := (s.grd k).part
  if q.waiting then (s.gangColls part missing).gangDrop k .aborted
  else if (s.grd k).aborted then s.gangColls part missing
  else
    let s := (s.modGang k (fun q => { q with phase := .aborted })).modGrd k (fun g => { g with aborted := true })
    let s := (s.gangPark k q.gid).gangColls part missing
    (s.blksOf k).foldl (fun (s : State) (b : Nat × Block) => s.settleBlk b.1) (s.settleGrid k)

/-- 100 µs after RUNNING an ACK is missing: the member raises a gang abort (R405). -/
def State.gangRaise (s : State) (k : Nat) (q : Gang) : State :=
  let missing := (q.members.zipIdx.filter (fun m => !q.acks.contains m.2)).map Prod.fst
  (s.emit (.abort q.gid missing)).gangStop k q missing

/-- Its timer has run out. -/
def Gang.overdue (q : Gang) (now : Nat) : Bool := q.phase == .going && q.goAt + 100000 ≤ now

/-- GANG_ACK (R404, R405): one that comes after the timer finds the gang aborted. -/
def execGangAck (gid : BitVec 32) (rank : Nat) (s : State) : Host.Outcome State Fault Refusal :=
  .next (match s.gangOf gid with
    | none => s
    | some (k, q) =>
      let s := s.tick
      if q.overdue s.time then s.gangRaise k q
      else if q.members.length ≤ rank ∨ q.acks.contains rank then s
      else (s.modGang k (fun q => { q with acks := q.acks ++ [rank] })).gangSettle k)

/-- GANG_ABORT (R405). -/
def execGangAbort (gid : BitVec 32) (missing : List Nat) (s : State) : Host.Outcome State Fault Refusal :=
  .next (match s.gangOf gid with
    | none => s
    | some (k, q) => s.gangStop k q missing)

/-! ### Timers -/

/-- GANG_PREPARE_TIMEOUT (R404): PTMO after its own READY, rank 0 sends CANCEL and retires. -/
def execGangPrepareTimeout (gid : BitVec 32) (s : State) : Host.Outcome State Fault Refusal :=
  .next (match s.gangOf gid with
    | none => s
    | some (k, q) =>
      let s := s.tick
      if q.q = 0 ∧ q.phase = .readySent ∧ !q.allReady ∧ q.readyAt + 1000000 * q.ptmo ≤ s.time then
        (s.emit (.cancel gid)).gangDrop k .cancelled
      else s)

/-- GANG_GO_TIMEOUT (R404): PTMO + 100 µs after READY with neither GO nor CANCEL. -/
def execGangGoTimeout (gid : BitVec 32) (s : State) : Host.Outcome State Fault Refusal :=
  .next (match s.gangOf gid with
    | none => s
    | some (k, q) =>
      let s := s.tick
      if q.late s.time then s.gangDrop k .cancelled else s)

/-- GANG_ACK_TIMEOUT (R405): an ACK is missing 100 µs after RUNNING. -/
def execGangAckTimeout (gid : BitVec 32) (s : State) : Host.Outcome State Fault Refusal :=
  .next (match s.gangOf gid with
    | none => s
    | some (k, q) =>
      let s := s.tick
      if q.overdue s.time then s.gangRaise k q else s)

end Sys2Proof.Machine
end

