-- ==== Sys2Proof/Machine/Loader.lean ====
section
/-! DEFINITION. GKX images and the loader engine (R418 to R420). One event carries one segment from the copy to its end;
the marks of R419 stand in between. -/

namespace Sys2Proof.Machine

/-! ### Bytes of an address space -/

/-- The pages that n bytes touch: address and length of each part. -/
def pageParts (va n : Nat) : List (Nat × Nat) :=
  (List.range ((va % 2 ^ 16 + n + 65535) / 2 ^ 16)).map (fun i =>
    let a := if i = 0 then va else va / 2 ^ 16 * 2 ^ 16 + i * 2 ^ 16
    (a % 2 ^ 64, min (va + n) (a / 2 ^ 16 * 2 ^ 16 + 2 ^ 16) - a))

/-- Bytes of the image; none where a page cannot be read. -/
def State.imageBytes (s : State) (l : Load) (off n : Nat) : Option (List Byte) :=
  (pageParts (l.va.toNat + off) n).foldr (fun p acc =>
    match s.page none l.part l.tctx 5 p.1, acc with
    | .ok pa _, some t => some ((upto pa p.2).map (fun a => getD s.mem a 0) ++ t)
    | _, _ => none) (some [])

/-- The loader meets MV = 1 at some pages, none of which faults: it waits there, 40 µs at most without a move (R37). -/
def State.loadMeets (s : State) (l : Load) (ps : List (Page × Nat × Nat)) : Bool × State :=
  if pagesMove ps then s.mvMeet (.load l.vf) l.tctx ps else (false, s)

/-- The same for bytes of the image. -/
def State.imageMeets (s : State) (l : Load) (off n : Nat) : Bool × State :=
  s.loadMeets l ((pageParts (l.va.toNat + off) n).map (fun p => (s.page none l.part l.tctx 5 p.1, p.1, p.2)))

/-- A number of the image. -/
def State.imageNat (s : State) (l : Load) (off n : Nat) : Option Nat :=
  (s.imageBytes l off n).map (fun b => b.foldr (fun x acc => x.toNat + 256 * acc) 0)

/-- Where the loader writes a page: memory of the partition (R29). -/
def State.loadPage (s : State) (l : Load) (va : Nat) : Page :=
  if !canonical va then .bad 0x10 15
  else if isWindow va then .bad 0x17 15
  else
    match s.walk l.tctx va with
    | .ok e _ =>
      let pa := e.pa + (va - e.va)
      let mapped := regionOf (paOff pa) == .hbm || regionOf (paOff pa) == .vault || regionOf (paOff pa) == .cap
      if s.isLocal pa ∧ mapped ∧ (s.ownAt pa).owner = some l.part then .ok pa e.tier else .bad 0x14 15
    | .bad c x => .bad c x
    | .mv _ => .mv

/-! ### Segments -/

/-- Fields of a segment entry (R418). -/
def segKind (e : Nat) : Nat := pte e 0 8
def segOff (e : Nat) : Nat := pte e 64 64
def segSize (e : Nat) : Nat := pte e 128 64
def segVoff (e : Nat) : Nat := pte e 192 64
def segMeas (e : Nat) : Nat := pte e 256 384
def segSig (e : Nat) : Nat := pte e 640 64

/-- Bytes that the loader writes for a segment: a code segment's last region is filled up. -/
def segSpan (e : Nat) : Nat :=
  if segKind e = 4 then 0
  else if segKind e = 1 then (segSize e + 2 ^ 21 - 1) / 2 ^ 21 * 2 ^ 21
  else segSize e

/-- First address of the target. -/
def Load.target (l : Load) : Nat := (l.base.toNat + segVoff l.entry) % 2 ^ 64

/-- The target's parts in physical memory; none where one cannot be written. -/
def State.targetParts (s : State) (l : Load) : Option (List (Nat × Nat)) :=
  (pageParts l.target (segSpan l.entry)).foldr (fun p acc =>
    match s.loadPage l p.1, acc with
    | .ok pa _, some t => some ((pa, p.2) :: t)
    | _, _ => none) (some [])

/-- The loader meets MV = 1 at the target (R37). -/
def State.targetMeets (s : State) (l : Load) : Bool × State :=
  s.loadMeets l ((pageParts l.target (segSpan l.entry)).map (fun p => (s.loadPage l p.1, p.1, p.2)))

/-- Frames of parts. -/
def framesOf (ps : List (Nat × Nat)) : List Nat := (ps.map (fun p => p.1 / 2 ^ 21)).eraseDups

def State.modOwn (s : State) (fs : List Nat) (f : Own → Own) : State :=
  { s with own := fs.foldl (fun m x => set m x (f (getD m x .blank))) s.own }

/-- What a load reports: 0, or the step and the segment at which it failed. -/
def loadStatus (step seg : Nat) : Nat := step + 256 * seg

/-- The load ends with a status. -/
def State.endLoad (s : State) (k : Nat) (l : Load) (status : Nat) : State :=
  (({ s with svc := { s.svc with loads := del s.svc.loads k } } : State).mvOver (.load l.vf)).emit (.ctl l.vf status [])

/-- Header, entry and key of a segment are good (step 1). -/
def State.segOk (s : State) (l : Load) : Bool :=
  let h := l.header
  let e := l.entry
  let key := pte h 64 32
  pte h 0 32 == 0x31584B47 && pte h 32 16 == 1 && key ≤ 3 &&
    ((look s.svc.attest l.part).any (fun a => (look a.keys key).isSome)) &&
    1 ≤ segKind e && segKind e ≤ 4 && (segKind e != 1 || segVoff e % 2 ^ 21 == 0) && (segKind e != 4 || segVoff e == 0) &&
    l.base.toNat % 2 ^ 21 == 0

/-- Steps 1 and 2 of a segment: the load goes on with it, or ends; `error` where it waits at MV = 1. -/
def State.openSeg (s : State) (k : Nat) (l : Load) : Except State State :=
  let w := s.imageMeets l 0 32
  if w.1 then .error w.2
  else
    let s := w.2
    match s.imageNat l 0 32 with
    | none => .ok (s.endLoad k l (loadStatus 1 l.seg))
    | some h =>
      if pte h 0 32 = 0x31584B47 ∧ pte h 48 16 ≤ l.seg then .ok (s.endLoad k l 0)
      else
        let w := s.imageMeets l (32 + 96 * l.seg) 96
        if w.1 then .error w.2
        else
          let s := w.2
          match s.imageNat l (32 + 96 * l.seg) 96 with
          | none => .ok (s.endLoad k l (loadStatus 1 l.seg))
          | some e =>
            let l := { l with header := h, entry := e }
            if !s.segOk l then .ok (s.endLoad k l (loadStatus 1 l.seg))
            else
              let w := s.targetMeets l
              if w.1 then .error w.2
              else
                let s := w.2
                match s.targetParts l with
                | none => .ok (s.endLoad k l (loadStatus 2 l.seg))
                | some ps =>
                  let fs := framesOf ps
                  if fs.any (fun f => (getD s.own f .blank).sealed) then .ok (s.endLoad k l (loadStatus 2 l.seg))
                  else
                    let s := fs.foldl (fun s f => s.clearFrame f) s
                    let s := (s.modOwn fs (fun o => { o with loading := true })).mvOver (.load l.vf)
                    .ok { s with svc := { s.svc with loads := set s.svc.loads k { l with parts := ps } } }

/-- What a waiting loader leaves of its attempt: since when it waits. -/
def State.keepMeets (s t : State) : State := { s with mvWaits := t.mvWaits, time := t.time }

/-- LOAD_IMAGE (R413, R418). -/
def execLoadImage (vf : Nat) (va base : BitVec 64) (s : State) : Host.Outcome State Fault Refusal :=
  .next (
    let part := s.tctxPart vf
    if !(s.vf vf).featuresOk ∨ !s.tctxEn vf ∨ !s.callRoom part then s
    else
      match s.openSeg (freshKey s.svc.loads) ⟨vf, part, vf, va, base, 0, 0, 0, [], []⟩ with
      | .ok t => t
      | .error t => s.keepMeets t)

/-- The bytes of parts are written. -/
def State.putParts (s : State) (ps : List (Nat × Nat)) (bs : List Byte) : State :=
  ((ps.flatMap (fun p => upto p.1 p.2)).zip bs).foldl (fun s b => s.homeWrite b.1 1 b.2.toNat none) s

/-- An entry of a relocation segment (R420). -/
def relocOk (l : Load) (e : Nat) : Bool :=
  let site := e % 2 ^ 64
  site % 8 == 0 && pte e 64 4 == 1 && e / 2 ^ 68 == 0 && l.earlier.any (fun x => x.1 ≤ site && site + 8 ≤ x.1 + x.2.1)

/-- The physical address of a byte of parts. -/
def atParts : List (Nat × Nat) → Nat → Option Nat
  | [], _ => none
  | (pa, n) :: t, off => if off < n then some (pa + off) else atParts t (off - n)

/-- Where the 8 bytes of a site lie: the segment that holds them was copied there. -/
def Load.site (l : Load) (site : Nat) : Option Nat :=
  (l.earlier.find? (fun x => x.1 ≤ site && site + 8 ≤ x.1 + x.2.1)).bind (fun x => atParts x.2.2 (site - x.1))

/-- One word is patched. -/
def State.reloc (s : State) (l : Load) (site : Nat) : State :=
  match l.site site with
  | some pa => s.homeWrite pa 8 ((getBytes s.mem pa 8 + l.base.toNat) % 2 ^ 64) none
  | none => s

/-- The signed message of a segment. -/
def Load.message (l : Load) : List Byte := leBytes 32 l.header ++ leBytes 80 l.entry

/-- The attestation record of a partition takes a value (R417). -/
def State.extend (s : State) (part v : Nat) : State :=
  let a := (look s.svc.attest part).getD ⟨[], 0, 0⟩
  { s with svc := { s.svc with attest := set s.svc.attest part { a with
      record := Config.sha384 (leBytes 48 a.record.toNat ++ leBytes 48 v)
      count := a.count + 1 } } }

/-- The partition still has memory that a load has copied to: where Arbor has taken it back meanwhile, the copy fails at step 3,
a relocation at step 7 (DESIGN CHOICE, notes/assumptions/98.md). -/
def State.stillOwns (s : State) (l : Load) (ps : List (Nat × Nat)) : Bool :=
  (framesOf ps).all (fun f => (getD s.own f .blank).owner == some l.part)

/-- Steps 3 to 8 of a segment: the step that failed, 0 where none did. A relocation segment has no step 3: bytes of it that
cannot be read fail step 4 (R420). -/
def State.runSeg (s : State) (l : Load) (ps : List (Nat × Nat)) : Nat × State :=
  let e := l.entry
  match s.imageBytes l (segOff e) (segSize e) with
  | none => (if segKind e = 4 then 4 else 3, s)
  | some src =>
    if !s.stillOwns l ps then (3, s) else
    let s := if segKind e = 4 then s else s.putParts ps (src ++ List.replicate (segSpan e - segSize e) 0)
    let target := (ps.flatMap (fun p => upto p.1 p.2)).take (segSize e)
    let hashed := if segKind e = 4 then src else target.map (fun a => getD s.mem a 0)
    if (Config.sha384 hashed).toNat ≠ segMeas e then (4, s)
    else
      let key := ((look s.svc.attest l.part).bind (fun a => look a.keys (pte l.header 64 32))).getD []
      match s.imageBytes l (segSig e) 4627 with
      | none => (5, s)
      | some sig =>
        if !Config.mlDsaOk key l.message sig then (5, s)
        else
          let s := s.extend l.part (segMeas e)
          let fs := framesOf ps
          if segKind e = 4 then
            let es := (List.range (src.length / 16)).map (fun i =>
              ((src.drop (16 * i)).take 16).foldr (fun x acc => x.toNat + 256 * acc) 0)
            if segSize e % 16 ≠ 0 ∨ !es.all (relocOk l) ∨ !l.earlier.all (fun x => s.stillOwns l x.2.2) then (7, s)
            else (0, es.foldl (fun s x => s.reloc l (x % 2 ^ 64)) s)
          else if segKind e = 1 then (0, s.modOwn fs (fun o => { o with ex := true, loading := false }))
          else (0, s.modOwn fs (fun o => { o with loading := false }))

/-- The segment waits at MV = 1 for its bytes or its signature (R37). -/
def State.segMeets (s : State) (l : Load) : Bool × State :=
  let w := s.imageMeets l (segOff l.entry) (segSize l.entry)
  if w.1 then w else w.2.imageMeets l (segSig l.entry) 4627

/-- Memory that it writes is being moved, or accesses to it are still to be performed. -/
def State.segBusy (s : State) (l : Load) : Bool :=
  (framesOf (l.parts ++ l.earlier.flatMap (fun x => x.2.2))).any s.frameMoves || (framesOf l.parts).any s.frameBusy

/-- LOADER_COMPLETE (R419): the segment in hand ends; the next one begins, or the load reports. -/
def execLoaderComplete (k : Nat) (s : State) : Host.Outcome State Fault Refusal :=
  .next (match look s.svc.loads k with
    | none => s
    | some l =>
      let w := s.segMeets l
      if s.segBusy l then s
      else if w.1 then w.2
      else
        let r := (w.2.mvOver (.load l.vf)).runSeg l l.parts
        if r.1 ≠ 0 then
          (r.2.modOwn ((framesOf l.parts).filter (fun f => (getD r.2.own f .blank).owner.isSome)) (fun o => { o with loading := false })).endLoad
            k l (loadStatus r.1 l.seg)
        else
          let kind := segKind l.entry
          let l := { l with
            seg := l.seg + 1
            parts := []
            earlier := if kind = 2 ∨ kind = 3 then l.earlier ++ [(segVoff l.entry, segSize l.entry, l.parts)] else l.earlier }
          match r.2.openSeg k l with
          | .ok t => t
          | .error t => w.2.keepMeets t)

end Sys2Proof.Machine
end

