-- ==== Sys2Proof/Machine/HostIf.lean ====
section
/-! DEFINITION. The host's side of a virtual function: features and resets (R411, R413), control requests (R413), the
completion and event queues (R412, R414), and the SPDM requests of attestation (R416, R417). -/

namespace Sys2Proof.Machine

/-- The control queue of a virtual function takes a request (R413, R415). -/
def State.takesRequest (s : State) (vf : Nat) : Bool :=
  (s.vf vf).featuresOk && s.tctxEn vf && s.callRoom (s.tctxPart vf)

/-! ### Features and resets -/

/-- Feature bits that the devices offer (R411): INDIRECT_DESC 28, EVENT_IDX 29, VERSION_1 32, ACCESS_PLATFORM 33,
RING_PACKED 34, by their virtio numbers. -/
def offered : BitVec 64 := 0x730000000#64

/-- The two that they require. -/
def required : BitVec 64 := 0x300000000#64

/-- The function that serves Arbor's own use: it accepts no launch and is bound to no context (R411). Its number is the model's
(notes/assumptions/82.md). -/
def physFn : Nat := 64

/-- FEATURES_OK (R411, R445): a virtual function needs an enabled context. -/
def execFeaturesOk (vf : Nat) (features : BitVec 64) (s : State) : Host.Outcome State Fault Refusal :=
  .next (
    if physFn < vf ∨ !s.ctl.ready ∨ (vf ≠ physFn ∧ !s.tctxEn vf) ∨ features &&& ~~~offered ≠ 0 ∨ features &&& required ≠ required then s
    else s.modVf vf (fun v => { v with featuresOk := true, features := features }))

/-- VF_RESET of a function (R413): launches that have not reached RUNNING are cancelled; the running ones write no completion entry. -/
def execVfReset (vf : Nat) (s : State) : Host.Outcome State Fault Refusal :=
  .next (
    if physFn < vf then s
    else
      let s := (s.cancelIf (fun g => g.vf == vf)).2
      let s := { s with grids := s.grids.map (fun (e : Nat × Grid) =>
        if e.2.vf = vf ∧ e.2.state ≠ GState.retired then (e.1, { e.2 with note := false }) else e) }
      s.modVf vf (fun v => { v with featuresOk := false, features := 0 }))

/-! ### Control requests -/

/-- ACCT_p with what has run since it was last charged (R410). -/
def State.account (s : State) (p : Nat) : Nat :=
  let h := s.share (s.shareOf p)
  let mine := h.running == some p || (h.phase != .idle && h.phase != .restore && h.out == p) ||
    (h.phase == .restore && h.next == some p)
  (getD s.ctl.acct p 0 + (if mine then s.time - h.since else 0)) % 2 ^ 64

/-- READ_ACCOUNT (R410, R413). -/
def execReadAccount (vf : Nat) (s : State) : Host.Outcome State Fault Refusal :=
  .next (
    if !s.takesRequest vf then s
    else
      let s := s.tick
      s.emit (.ctl vf 0 (leBytes 8 (s.account (s.tctxPart vf)))))

/-- UNKNOWN_CONTROL_REQUEST (R413). -/
def execUnknownControlRequest (vf : Nat) (_code : BitVec 32) (s : State) : Host.Outcome State Fault Refusal :=
  .next (if !s.takesRequest vf then s else s.emit (.ctl vf 0xFF []))

/-! ### Completion and event queues -/

/-- COMPLETION_ENTRY_WRITE (R412): entries leave in order. -/
def execCompletionEntryWrite (vf : Nat) (s : State) : Host.Outcome State Fault Refusal :=
  .next (match (s.vf vf).compl with
    | [] => s
    | e :: t =>
      if (s.vf vf).featuresOk then (s.modVf vf (fun v => { v with compl := t })).emit (.completion vf e) else s)

/-- EVENT_DELIVERY (R414): the oldest event goes, with LOST saturated at 255. -/
def execEventDelivery (vf : Nat) (s : State) : Host.Outcome State Fault Refusal :=
  .next (match (s.vf vf).events with
    | [] => s
    | e :: t =>
      if (s.vf vf).featuresOk then
        (s.modVf vf (fun v => { v with events := t, lost := 0 })).emit (.event vf { e with lost := min (s.vf vf).lost 255 })
      else s)

/-! ### SPDM (R416, R417) -/

/-- How far a connection is: nothing, version, capabilities, algorithms, key exchange. -/
def spdmStage (code : Nat) : Nat :=
  if code = 0x84 then 0 else if code = 0xE1 then 1 else if code = 0xE3 then 2 else if code = 0xE5 then 4 else 3

/-- A request of an SPDM connection: answered with the response of its code, or with ERROR where it comes out of order.
`data` is what the response depends on. -/
def State.spdm (s : State) (vf code : Nat) (data : List Byte) (f : Vf → Vf) : State :=
  let v := s.vf vf
  if v.handshake < spdmStage code then s.emit (.ctl vf 0 (Config.spdm 0x7F data))
  else (s.modVf vf f).emit (.ctl vf 0 (Config.spdm code data))

/-- GET_VERSION starts a connection anew. -/
def execGetVersion (vf : Nat) (s : State) : Host.Outcome State Fault Refusal :=
  .next (if !s.takesRequest vf then s else s.spdm vf 0x84 [] (fun v => { v with handshake := 1, session := false }))

/-- GET_CAPABILITIES. -/
def execGetCapabilities (vf : Nat) (s : State) : Host.Outcome State Fault Refusal :=
  .next (if !s.takesRequest vf then s else s.spdm vf 0xE1 [] (fun v => { v with handshake := max v.handshake 2 }))

/-- NEGOTIATE_ALGORITHMS. -/
def execNegotiateAlgorithms (vf : Nat) (s : State) : Host.Outcome State Fault Refusal :=
  .next (if !s.takesRequest vf then s else s.spdm vf 0xE3 [] (fun v => { v with handshake := max v.handshake 3 }))

/-- GET_DIGESTS. -/
def execGetDigests (vf : Nat) (s : State) : Host.Outcome State Fault Refusal :=
  .next (if !s.takesRequest vf then s else s.spdm vf 0x81 [] id)

/-- GET_CERTIFICATE. -/
def execGetCertificate (vf : Nat) (s : State) : Host.Outcome State Fault Refusal :=
  .next (if !s.takesRequest vf then s else s.spdm vf 0x82 [] id)

/-- CHALLENGE. -/
def execChallenge (vf : Nat) (nonce : BitVec 256) (s : State) : Host.Outcome State Fault Refusal :=
  .next (if !s.takesRequest vf then s else s.spdm vf 0x83 (leBytes 32 nonce.toNat) id)

/-- The settings that measurement 2 digests: PCTL, CSHARE and the floors. -/
def State.settings (s : State) (p : Nat) : List Byte :=
  leBytes 4 (s.pctlOf p) ++ leBytes 8 (s.cshareOf (s.shareOf p)) ++
    (s.ctl.floor.filter (fun e => e.1 / 1024 == p)).flatMap (fun e => leBytes 2 (e.1 % 1024) ++ leBytes 2 e.2.toNat)

/-- The content of a measurement block (R416). Block 1 digests firmware that the manual does not give. -/
def State.measurement (s : State) (p index : Nat) : List Byte :=
  if index = 2 then leBytes 48 (Config.sha384 (s.settings p)).toNat
  else if index = 3 then leBytes 48 (s.attest p).record.toNat ++ leBytes 8 (s.attest p).count
  else []

/-- GET_MEASUREMENTS. -/
def execGetMeasurements (vf : Nat) (index : Nat) (s : State) : Host.Outcome State Fault Refusal :=
  .next (if !s.takesRequest vf then s
    else s.spdm vf 0xE0 (BitVec.ofNat 8 index :: s.measurement (s.tctxPart vf) index) id)

/-- KEY_EXCHANGE. -/
def execKeyExchange (vf : Nat) (s : State) : Host.Outcome State Fault Refusal :=
  .next (if !s.takesRequest vf then s else s.spdm vf 0xE4 [] (fun v => { v with handshake := 4 }))

/-- FINISH opens the session. -/
def execFinish (vf : Nat) (s : State) : Host.Outcome State Fault Refusal :=
  .next (if !s.takesRequest vf then s else s.spdm vf 0xE5 [] (fun v => { v with session := true }))

/-- END_SESSION. -/
def execEndSession (vf : Nat) (s : State) : Host.Outcome State Fault Refusal :=
  .next (if !s.takesRequest vf then s
    else if (s.vf vf).session then s.spdm vf 0xEC [] (fun v => { v with session := false, handshake := 3 })
    else s.emit (.ctl vf 0 (Config.spdm 0x7F [])))

/-- A vendor-defined request is accepted within a session and where its own condition holds (R417). -/
def State.vendor (s : State) (vf : Nat) (ok : Bool) (f : State → State) : State :=
  if !s.takesRequest vf then s
  else if (s.vf vf).session ∧ ok then (f s).emit (.ctl vf 0 (Config.spdm 0xFE []))
  else s.emit (.ctl vf 0 (Config.spdm 0x7F []))

/-- SET_IMAGE_KEY. -/
def execSetImageKey (vf : Nat) (k : Nat) (key : List (BitVec 8)) (s : State) : Host.Outcome State Fault Refusal :=
  .next (s.vendor vf (k ≤ 3) (fun s => s.modAttest (s.tctxPart vf) (fun a => { a with keys := set a.keys k key })))

/-- SET_DTID. -/
def execSetDtid (vf : Nat) (dtid : BitVec 16) (s : State) : Host.Outcome State Fault Refusal :=
  .next (
    let p := s.tctxPart vf
    let free := (s.dtidPart s.ctl.pkg dtid.toNat).all (· == p)
    s.vendor vf free (fun s => { s with ctl := { s.ctl with
      dtid := set (s.ctl.dtid.filter (fun e => !(e.1 / 65536 == s.ctl.pkg && e.2 == p))) (65536 * s.ctl.pkg + dtid.toNat) p } }))

/-- RESET_RECORD. -/
def execResetRecord (vf : Nat) (s : State) : Host.Outcome State Fault Refusal :=
  .next (
    let p := s.tctxPart vf
    let ex := s.own.any (fun e => e.2.owner == some p && e.2.ex)
    s.vendor vf (!ex) (fun s => s.modAttest p (fun a => { a with record := 0, count := 0 })))

end Sys2Proof.Machine
end

