-- ==== Sys2Proof/Machine/Service.lean ====
section
/-! DEFINITION. Registers that Arbor writes (R5, R30, R81, R128, R168, R175, R407, R408, R442), scrubbing and the error log
(R439, R440), spares (R9, R441, R442), power gating (R443), the capability words and reset (R445). -/

namespace Sys2Proof.Machine

/-! ### Core shares and partitions -/

/-- A field as stored: reserved bits read zero (R5). -/
def keepBits (m : List (Nat × Nat)) (v : Nat) : Nat := m.foldl (fun a f => a + pte v f.1 f.2 * 2 ^ f.1) 0

/-- Two ranges overlap. -/
def overlap (a n b m : Nat) : Bool := n != 0 && m != 0 && a < b + m && b < a + n

/-- Arbor accepts a share's setting beside the others (R407). -/
def State.cshareOk (s : State) (n v : Nat) : Bool :=
  let others := ((List.range 20).filter (fun k => k != n)).map s.cshareOf
  let sum := fun (f : Nat → Nat) => f v + (others.map f).foldl (· + ·) 0
  !(others.any (fun o => overlap (csRowBase v) (csRows v) (csRowBase o) (csRows o) ||
      overlap (csSlotBase v) (csNslot v) (csSlotBase o) (csNslot o))) &&
    csRowBase v + csRows v ≤ 768 && csSlotBase v + csNslot v ≤ 64 && csL1Min v ≤ csRows v &&
    (csNslot v == 0 || csNact v != 0) && sum csNact ≤ 8 && sum csNs ≤ 32 && sum csNa ≤ 8 && sum csNu ≤ 32

/-- CSHARE_WRITE (R407): the L1s of the share follow its new size (R51, R78). -/
def execCshareWrite (n : Nat) (v : BitVec 64) (s : State) : Host.Outcome State Fault Refusal :=
  .next (
    let w := v.toNat % 2 ^ 60
    if 20 ≤ n ∨ !s.cshareOk n w then s
    else
      let s := { s with ctl := { s.ctl with cshare := put s.ctl.cshare n (BitVec.ofNat 64 w) 0 } }
      let ps := (List.range Config.parts).filter (fun p => s.shareOf p == n)
      s.cores.foldl (fun (s : State) (e : Nat × Core) => ps.foldl (fun (s : State) p => s.l1Trim ⟨0, e.1, p⟩) s) s)

/-- A partition's control word as stored. -/
def pctlStored (v : Nat) : Nat :=
  let w := keepBits [(0, 5), (7, 1), (8, 16), (24, 8)] v
  if pte w 8 16 = 0 then w + 2 ^ 8 else w

/-- Arbor accepts it (R408, R442). -/
def State.pctlOk (s : State) (p w : Nat) : Bool :=
  -- a setting that still waits counts beside the one in force
  let share := fun (v : Nat) => if pte v 7 1 = 1 then pte v 24 8 else 0
  let of := fun (q : Nat) => max (share (s.pctlOf q)) (share ((look s.ctl.pctlHold q).getD 0).toNat)
  let sum := ((List.range Config.parts).filter (fun q => q != p)).foldl (fun n q => n + of q) (pte w 24 8)
  pte w 0 5 < 20 && pte w 24 8 ≤ 90 && (pte w 7 1 == 0 || (sum ≤ 90 && !s.ctl.degraded))

/-- PCTL_WRITE (R408, R409, R417). A setting that takes the partition from the share where it has its turn, or ends its
existence there, waits until it has been switched out: no two partitions hold rows of a share (R421), and its account is
charged (R410). That the turn ends so is the model's (DESIGN CHOICE, notes/assumptions/50.md). -/
def execPctlWrite (p : Nat) (v : BitVec 32) (s : State) : Host.Outcome State Fault Refusal :=
  .next (
    let w := pctlStored v.toNat
    if Config.parts ≤ p ∨ !s.pctlOk p w then s
    else
      let old := pte (s.pctlOf p) 0 5
      if s.onShare old p ∧ (pte w 7 1 = 0 ∨ pte w 0 5 ≠ old) then
        ({ s with ctl := { s.ctl with pctlHold := set s.ctl.pctlHold p (BitVec.ofNat 32 w) } } : State).leaveShare old p
      else s.setPctl p w)

/-! ### Registers without a row of their own -/

/-- REGISTER_WRITE (R5): reserved fields read zero; where a rule stores another value, that one is stored. -/
def execRegisterWrite (r : CtlReg) (v : BitVec 64) (s : State) : Host.Outcome State Fault Refusal :=
  .next (
    let n := v.toNat
    let w := fun (x : Nat) => BitVec.ofNat 32 x
    match r with
    | .tctx k =>
      if 64 ≤ k then s
      else { s with ctl := { s.ctl with tctx := put s.ctl.tctx k (BitVec.ofNat 64 (keepBits [(0, 6), (14, 38)] n)) 0 } }
    | .tierctl p =>
      if Config.parts ≤ p then s
      else
        let x := max 1 (pte n 0 4) + pte n 8 1 * 2 ^ 8
        ({ s with ctl := { s.ctl with tierctl := put s.ctl.tierctl p (w x) 0x102#32 } } : State).tierRun
    | .txctl p =>
      if Config.parts ≤ p then s
      else
        let x := max 1 (pte n 0 16) + pte n 16 1 * 2 ^ 16
        { s with ctl := { s.ctl with txctl := put s.ctl.txctl p (w x) 0x64#32 } }
    | .stallctl p =>
      if Config.parts ≤ p then s
      else
        let x := max 1 (pte n 0 20) + pte n 31 1 * 2 ^ 31
        { s with ctl := { s.ctl with stallctl := put s.ctl.stallctl p (w x) 0x80002710#32 } }
    | .schedctl p =>
      if Config.parts ≤ p then s
      else
        let x := min 64 (max 1 (pte n 0 7)) + pte n 16 1 * 2 ^ 16
        ({ s with ctl := { s.ctl with schedctl := put s.ctl.schedctl p (w x) 0x10010#32 } } : State).launchRun
    | .defPoint d =>
      if Config.dies ≤ d then s
      else ({ s with ctl := { s.ctl with defPoint := put s.ctl.defPoint d (n % 16) 0 } } : State).request.launchRun
    | .saveArea p =>
      if Config.parts ≤ p then s else { s with ctl := { s.ctl with saveArea := put s.ctl.saveArea p (n % 2 ^ 52) 0 } }
    | .evictArea p =>
      if Config.parts ≤ p then s else { s with ctl := { s.ctl with evictArea := put s.ctl.evictArea p (n % 2 ^ 52) 0 } }
    | .logRing => { s with ctl := { s.ctl with logRing := n % 2 ^ 52 / 64 * 64 } }
    | .logTake => s.takeRecords n)

/-! ### Errors and scrubbing -/

/-- Which byte of a core's bank store, slot or accumulator an event names that no physical address names: a number from 2^52 up
(DESIGN CHOICE, notes/assumptions/99.md). -/
def arrayKey (pa : Nat) : Option Nat := if 2 ^ 52 ≤ pa then some (pa - 2 ^ 52) else none

/-- A word of an L1's row is damaged (R370); a lane whose log holds its sector aborts (R142). -/
def State.damageL1 (s : State) (core pa : Nat) : State :=
  let s := s.modCore core (fun k => { k with
    l1 := k.l1.map (fun e => if e.sector = pa / 64 then { e with bad := e.bad ||| (1#8 <<< (pa % 64 / 8)) } else e) })
  (s.cohorts.filter (fun e => s.cohCore e.1 == core)).foldl (fun (s : State) e =>
    ((lanesOf e.2.live).filter (fun l => e.2.spec l && ((e.2.txOf l).rlog ++ (e.2.txOf l).wlog).any (fun x => x.sector == pa / 64))).foldl
      (fun s l => s.txAbort e.1 l 0x07 0) s) s

/-- A word is damaged (R438, R439): in the arrays that a physical address names; in an L2 slice that holds it, where a dirty
sector's word is lost and a clean one's stands in memory still; in a core's bank store, its L1 included; in its operand memory
and accumulators. -/
def State.damage (s : State) (unit : BitVec 8) (src pa : Nat) : State :=
  let w := pa / 8 * 8
  match arrayKey pa with
  | some k =>
    if Config.cores ≤ src then s
    else if unit = 1 then
      let b := src * 0x180000 + k % 0x180000 / 8 * 8
      if s.svc.badBank.contains b then s else { s with svc := { s.svc with badBank := s.svc.badBank ++ [b] } }
    else if unit = 2 ∧ !s.svc.badOper.contains (src, k) then { s with svc := { s.svc with badOper := s.svc.badOper ++ [(src, k)] } }
    else s
  | none =>
    if unit = 1 ∧ src < Config.cores then s.damageL1 src pa
    else if unit = 3 ∧ s.l2Holds w then
      (if s.l2Dirty w then s.markBad w
       else if s.svc.badL2.contains w then s else { s with svc := { s.svc with badL2 := s.svc.badL2 ++ [w] } })
    else if unit = 4 ∨ unit = 5 ∨ unit = 6 then s.markBad w
    else s

/-- The PA of such a record (R439): 0 where there is none. -/
def recordPa (pa : Nat) : DWord := if (arrayKey pa).isSome then 0 else BitVec.ofNat 64 pa

/-- ARRAY_SCRUB_PASS (R440): what it corrects changes no value; uncorrectable words are logged for nobody. A reserved source
number is never written (R19). -/
def execArrayScrubPass (unit : BitVec 8) (src : BitVec 16) (bad : List Nat) (s : State) : Host.Outcome State Fault Refusal :=
  .next (if !isSource src.toNat then s
    else bad.foldl (fun (s : State) pa => (s.damage unit src.toNat pa).logError 2 unit src 31 (recordPa pa) 0) s)

/-- ERROR_LOG_RECORD (R19, R439): for a KIND 1 record, `count` tells how many errors were corrected, one at least. -/
def execErrorLogRecord (kind unit : BitVec 8) (src : BitVec 16) (part : BitVec 5) (pa : BitVec 64) (count : BitVec 32)
    (s : State) : Host.Outcome State Fault Refusal :=
  .next (if !isSource src.toNat then s
    else (if kind = 2 then s.damage unit src.toNat pa.toNat else s).logError kind unit src part (recordPa pa.toNat) count.toNat)

/-! ### Spares -/

/-- The package has the unit in service (R9). -/
def unitHere : SpareUnit → Bool
  | .core n => n < Config.cores
  | .slice d k => d < Config.dies && k < 160
  | .channel st k => st < 8 && k < 128
  | .lane p => p < 18
  | .baseCore n => n < Config.harts
  | .vault n => n < Config.dies * Config.clustersPerDie
  | .agent d => d < Config.dies
  | .walker d k => d < Config.dies && k < 64

/-- The pool that a unit's spare comes from, how many it holds, the unit's log code and source number (R9, R19, R439). R19 has no
number for a page walker: its die's launch scheduler stands for it (DESIGN CHOICE, notes/assumptions/83.md). -/
def sparePool : SpareUnit → Nat × Nat × Nat × Nat
  | .core n => (dieOf n, 8, 9, n)
  | .slice d k => (1000 + d, 8, 3, 0x0400 + 160 * d + k)
  | .channel st _ => (2000 + st, 4, 5, 0x0810 + st)
  | .lane p => (3000 + p, 1, 7, 0x0830 + p)
  | .baseCore n => (4000, 0, 8, 0x0300 + n)
  | .vault n => (4000, 0, 4, 0x0700 + n)
  | .agent d => (4000, 0, 9, 0x0800 + d)
  | .walker d _ => (4000, 0, 9, 0x0870 + d)

/-- Transactions with signatures in a slice abort, code pre-empted; its dirty sectors are written back (R441). -/
def State.sliceAbort (s : State) (die k : Nat) : State :=
  let here := fun (x : Nat) => (inHbm (x / 2 ^ 15) || inCap (x / 2 ^ 15)) && sliceOf (64 * x) == (die, k)
  (s.harts.filter (fun e => e.2.tx.any (fun t => (t.reads ++ t.wlines).any here))).foldl
    (fun (s : State) (e : Nat × Hart) => s.hartAbort e.1 0x06 0) s

/-- SPARE_BRING_IN (R441, R442): a KIND 3 record where a spare is left, else KIND 4 and the unit stays until reset. -/
def execSpareBringIn (u : SpareUnit) (s : State) : Host.Outcome State Fault Refusal :=
  .next (
    let p := sparePool u
    let used := getD s.svc.spares p.1 0
    let unit := BitVec.ofNat 8 p.2.2.1
    let src := BitVec.ofNat 16 p.2.2.2
    if !unitHere u ∨ s.svc.swapping.contains u ∨ s.svc.retire.contains u then s
    else if p.2.1 ≤ used then
      ({ s with svc := { s.svc with retire := s.svc.retire ++ [u] } } : State).logError 4 unit src 31 0 0
    else
      let s := { s with svc := { s.svc with spares := put s.svc.spares p.1 (used + 1) 0, swapping := s.svc.swapping ++ [u] } }
      let s := match u with
        | .slice d k => (s.sliceAbort d k).l2Empty (160 * d + k)
        | _ => s
      s.logError 3 unit src 31 0 0)

/-- Nothing remains on a logical core (R441). -/
def State.coreEmpty (s : State) (core : Nat) : Bool :=
  !s.cohorts.any (fun e => s.cohCore e.1 == core && !e.2.isOver) && !(s.core core).opt.any (fun o => o.2.busy) &&
    !s.blocks.any (fun b => b.2.core == core && !b.2.exited)

/-- SPARE_SWAP_COMPLETE (R441): a core's caches go with the old unit, their dirty bytes written back. -/
def execSpareSwapComplete (u : SpareUnit) (s : State) : Host.Outcome State Fault Refusal :=
  .next (
    if !s.svc.swapping.contains u then s
    else
      let done := fun (s : State) => { s with svc := { s.svc with swapping := s.svc.swapping.filter (fun x => x != u) } }
      match u with
      | .core n =>
        if !s.coreEmpty n then s
        else
          let s := (List.range Config.parts).foldl (fun (s : State) p => s.wbAll n p) s
          let s := { s with svc := { s.svc with
            badBank := s.svc.badBank.filter (fun b => b / 0x180000 != n)
            badOper := s.svc.badOper.filter (fun x => x.1 != n) } }
          done (s.modCore n (fun k => { k with l1 := [], tlb := [], rel := [] }))
      | _ => done s)

/-! ### Power gating (R443) -/

/-- CORE_POWER_GATE: the conditions of R443 have held for 50 µs; dirty operand-cache entries are written back. -/
def execCorePowerGate (core : Nat) (s : State) : Host.Outcome State Fault Refusal :=
  .next (
    let s1 := (s.noted.noteCore core).tick
    let mine := s.cohorts.filter (fun e => s.cohCore e.1 == core && e.2.place == .resident && !e.2.isOver)
    if Config.cores ≤ core ∨ (s.core core).gated then s
    else if !(s1.core core).quiet.any (· + 50000 ≤ s1.time) then s1
    else
      (mine.foldl (fun (s : State) (e : Nat × Cohort) => s.modCoh e.1 Cohort.flushRegs) s1).modCore core (fun k => { k with gated := true }))

/-- CORE_WAKE. -/
def execCoreWake (core : Nat) (s : State) : Host.Outcome State Fault Refusal := .next (s.wakeCore core)

/-! ### Reset (R445) -/

/-- Ports in service. -/
def State.portCount (s : State) : Nat := ((List.range 18).filter (fun i => s.fab.ports.getLsbD i)).length

/-- The capability words that each virtual function presents: zero until READY is 1. -/
def State.capability0 (s : State) : DWord :=
  if !s.ctl.ready then 0
  else BitVec.ofNat 64 (1 + (if s.ctl.degraded then 2 else 0) + 1 * 2 ^ 8 + s.portCount * 2 ^ 16 + 8 * 2 ^ 24 + 24 * 2 ^ 32 +
    4 * 2 ^ 40 + s.ctl.pkg * 2 ^ 48)

def State.capability1 (s : State) : DWord :=
  if !s.ctl.ready then 0 else BitVec.ofNat 64 (s.ctl.domain + 1536 * 2 ^ 16 + 512 * 2 ^ 32 + 160 * 2 ^ 48)

/-- A unit that the self-test finds failed: its spare comes in, or none is left (R9, R442, R445). -/
def State.selfTest (s : State) (u : SpareUnit) : State :=
  let p := sparePool u
  let used := getD s.svc.spares p.1 0
  let log := fun (s : State) (kind : BitVec 8) => s.logError kind (BitVec.ofNat 8 p.2.2.1) (BitVec.ofNat 16 p.2.2.2) 31 0 0
  if !unitHere u then s
  else if p.2.1 ≤ used then log s 4
  else log { s with svc := { s.svc with spares := put s.svc.spares p.1 (used + 1) 0 } } 3

/-- RESET (R18, R442, R445): this package begins anew. Memory, the damage in it, the spares already in use, the domain's
timestamp and what other packages hold stay. `failed` are the units that the self-test finds failed: spares come in for them, in
that order. -/
def execReset (pkg : Nat) (ports : BitVec 18) (failed : List SpareUnit) (s : State) : Host.Outcome State Fault Refusal :=
  .next (
    if s.ctl.domain ≤ pkg then s
    else
    let t := { State.reset with
      ctl := { Ctl.reset with
        pkg := pkg
        domain := s.ctl.domain
        epoch := s.time
        dtid := s.ctl.dtid.filter (fun e => e.1 / 65536 != pkg) }
      mem := s.mem
      own := s.own.filter (fun e => !(e.1 / 2 ^ 21 == pkg))
      fab := ⟨ports, [], []⟩
      svc := { State.reset.svc with bad := s.svc.bad, out := s.svc.out, spares := s.svc.spares }
      agenda := s.agenda
      time := s.time
      fresh := s.fresh }
    let t := failed.foldl State.selfTest t
    { t with ctl := { t.ctl with ready := true, degraded := t.svc.failed || s.svc.failed || !s.svc.retire.isEmpty } })

end Sys2Proof.Machine
end

