-- ==== Sys2Proof/Machine/Issue.lean ====
section
/-! DEFINITION. A turn of a cohort (R150, R151, R154, R187, R226 to R228, R242, R373), of a base-die hart (R119, R332), and
what happens when nobody has been named to move. `run` stands for the meaning of an instruction, which Dispatch.lean
gives. -/

namespace Sys2Proof.Machine

/-- The meaning of an instruction in a state. -/
abbrev Meaning := Instr → State → Host.Outcome State Fault Refusal

/-- How an attempt of a group ends: with an outcome, or not issued, with what it waits for. -/
inductive Attempt where
  | done (o : Host.Outcome State Fault Refusal)
  | held (s : State)

/-! ### Entering a clause -/

/-- The group's lanes at a PC are about to issue a word of a clause with header h. -/
def State.setCur (s : State) (c : Nat) (m : LaneMask) (pc : DWord) (h : DWord) : State :=
  { s with cur := ⟨c, m, pc, hdrNw h, hdrSfa h, hdrSfb h, hdrYld h, 0, false⟩ }

/-- A lane enters its clause at word 1 where it stood at the header (R226): it has arrived at that word. A lane of a
region whose meeting is released is not held again. -/
def Cohort.enterLane (k : Cohort) (pc : DWord) (l : Nat) : Cohort :=
  let k := { k with entered := k.entered ||| oneLane l }
  if k.pcOf l = pc then k
  else if k.mendOpen ∧ k.inRegion l then { k with pc := put k.pc l pc 0 }
  else k.arriveLane l pc true

/-- A clause is fetched: the core TLB takes a translation that the cluster TLB held (R39), and the sector comes through its
slice (R72). That every entry into a clause fetches it, none served by an instruction cache, whose size the manual does not
state, is the model's choice (DESIGN CHOICE, notes/assumptions/89.md). -/
def State.fetched (s : State) (c va : Nat) : State :=
  let core := s.cohCore c
  let tctx := (s.cohGrd c).tctx
  match s.tlbHit core tctx va with
  | some e => (s.fillHit core tctx va).l2Read (e.pa + (va - e.va)) 64
  | none => s

/-- The lanes of a group enter the clause; a MEND address at its header is the word's from then on. -/
def State.enter (s : State) (c : Nat) (m : LaneMask) (pc : DWord) : State :=
  let s := if m &&& ~~~(s.coh c).entered = 0 then s else s.fetched c (clauseAt pc)
  s.modCoh c (fun k =>
    let old := k.pcOf (lowLane m)
    let k' := (lanesOf m).foldl (fun k l => k.enterLane pc l) k
    (if k.mendOpen ∧ k.mend = old then { k' with mend := pc } else k').settle)

/-! ### Words that do not decode -/

/-- The meld-fault subcode of an instruction in a region (R160): BRM there opens a second region. -/
def meldSub : Instr → Option Nat
  | .brm _ _ _ _ _ => some 2
  | .rnld _ _ _ _ => some 3
  | .meet _ _ _ _ => some 3
  | .spawn _ _ _ => some 3
  | .spflush _ => some 3
  | .txbeg _ _ _ _ _ _ => some 3
  | .txend _ => some 3
  | .txabt _ _ => some 3
  | .bar _ _ => some 3
  | .bara _ _ => some 3
  | .barw _ _ => some 3
  | .cbar _ _ => some 3
  | _ => none

/-- Where the lanes of a branch word go, if it branches (R288 to R292). -/
def State.branchTo (s : State) : Instr → Option (Nat → DWord)
  | .bra _ off idx => some (fun _ => s.target off idx)
  | .call _ _ off idx => some (fun _ => s.target off idx)
  | .loop _ cnt off idx => if ((s.coh s.cur.coh).sreg cnt.toNat).toNat ≤ 1 then none else some (fun _ => s.target off idx)
  | .brx _ a => some (s.val s.cur.coh a true)
  | .callx _ _ a => some (s.val s.cur.coh a true)
  | .ret _ a => some (s.val s.cur.coh a true)
  | _ => none

/-- The meld-fault subcode that applies to a word beside an illegal-instruction reason (R160, R242). -/
def State.meldOf (s : State) (i : Instr) (act : LaneMask) : Option Nat :=
  let k := s.coh s.cur.coh
  let region := (lanesOf s.cur.lanes).any (fun l => k.inRegion l)
  match i with
  | .brm _ _ _ off idx => if k.regionOpen ∨ (s.target off idx).toNat ≤ s.cur.pc.toNat then some 2 else none
  | i =>
    if !region then none
    else
      match s.branchTo i with
      | some tgt => if s.agree act tgt then none else some 1
      | none => meldSub i

/-- A word that the checks of R242 refuse: a no-operation without active lanes, else a meld fault where one applies, else
an illegal-instruction fault. -/
def State.badWord (s : State) (w : DWord) (sub : Nat) : State :=
  let act := s.active (guardOf w)
  if act = 0 then s.advance
  else
    match s.meldOf (parseFull w).2 act with
    | some m => (s.meldFault act m).advance
    | none => (s.illegal act sub).advance

/-! ### One group -/

/-- A fetch fault parks the group at the word it could not fetch (R154). -/
def State.fetchFault (s : State) (c : Nat) (m : LaneMask) (pc : DWord) (va cause level : Nat) : State :=
  let t := ((s.setCur c m pc 0).endWaits c pc).forget cause (s.cohGrd c).tctx va
  let t := if cause ≠ 0x23 then t
    else
      match t.page (some (t.cohCore c)) (t.cohPart c) (t.cohGrd c).tctx 4 va with
      | .ok pa _ => t.logBad (t.cohPart c) pa
      | .bad _ _ => t
      | .mv => t
  t.fail m ⟨1, cause, 0, 4, level, BitVec.ofNat 64 va, 0⟩

/-- The group waits for the translation of its code. -/
def State.fetchWait (s : State) (c : Nat) (m : LaneMask) (pc : DWord) (va : Nat) : State :=
  (lanesOf m).foldl (fun s l => s.addWalk l va) (s.setCur c m pc 0)

/-- Whether the region's close comes before the word: its lanes stand released at the MEND address and the word is no MEND
(R295). -/
def State.closes (s : State) (c : Nat) (m : LaneMask) (pc : DWord) (i : Option Instr) : Bool :=
  let k := s.coh c
  k.mendOpen && pc == k.mend && (lanesOf m).any k.inRegion &&
    (match i with
     | some (.mend _) => false
     | _ => true)

/-- The word at a PC issues for a group that has entered its clause. -/
def State.issueWord (run : Meaning) (s : State) (c l : Nat) (pc h w : DWord) : Host.Outcome State Fault Refusal :=
  let d := decodeWord w
  let i := match d with | .ok i => some i | .error _ => none
  let s := if s.closes c (s.groupOf c l) pc i then s.modCoh c Cohort.closeRegion else s
  let m := s.groupOf c l
  if m = 0 then .next s
  else
    let s := (s.modCoh c (fun k => { k with entered := k.entered ||| m })).setCur c m pc h
    match d with
    | .ok i => run i s
    | .error sub => .next (s.badWord w sub)

/-- After an issue: the order of R187, the clocks of R169, the group store (R150), the Belvedere's mark (R169); the clock
has moved on. -/
def State.afterIssue (s : State) (c : Nat) (m : LaneMask) : State :=
  let t := (s.endWaits c s.cur.pc).modCoh c (fun k => { k with
    lastIssue := s.fresh
    since := (lanesOf m).foldl (fun p l => put p l s.time 0) k.since })
  -- an observed release is acquired before any later access issues (R107, R115)
  let t := if (t.coh c).observed then
      (t.acquireDrop (t.cohCore c) (t.cohPart c)).modCoh c (fun k => { k with observed := false })
    else t
  ({ (t.clearStall c m).fitStore c with cur := .none } : State).tick

/-- What comes of an issue: a stalled word, or one whose records would not fit (R373), has not issued. -/
def State.settleIssue (s : State) (c : Nat) (m : LaneMask) (o : Host.Outcome State Fault Refusal) : Attempt :=
  match o with
  | .next t =>
    let core := s.cohCore c
    if t.cur.stall then .held (s.keepWaits t)
    else if Config.waitingRecords < t.waitingAt core ∧ s.waitingAt core < t.waitingAt core then .held s
    else .done (.next (t.afterIssue c m))
  | .fault f => .done (.fault f)
  | .refused r => .done (.refused r)

/-- One group at its issue opportunity (R151, R154, R226 to R228). -/
def State.tryGroup (run : Meaning) (s : State) (c : Nat) (m : LaneMask) : Attempt :=
  let k := s.coh c
  let l := lowLane m
  let pc := k.pcOf l
  let ca := clauseAt pc
  let at_ := if pc.toNat % 64 = 0 then pc + 8 else pc
  let s := s.setCur c m pc 0
  let take := fun (t : State) => s.settleIssue c m (.next t)
  match s.fetch c m pc ca with
  | .wait => .held (s.fetchWait c m pc ca)
  | .bad cause lvl => take (s.fetchFault c m pc ca cause lvl)
  | .word h =>
    let entering := (m &&& ~~~k.entered) != 0
    if entering && !hdrOk h then
      take ((s.setCur c m (BitVec.ofNat 64 ca) h).illegal m 5)
    else if entering && hdrNw h < at_.toNat / 8 % 8 then take ((s.setCur c m pc h).illegal m 6)
    else if entering && k.flagsUp (hdrWait h) then .held s
    else
      match s.fetch c m pc at_.toNat with
      | .wait => .held (s.fetchWait c m pc at_.toNat)
      | .bad cause lvl => take (s.fetchFault c m pc at_.toNat cause lvl)
      | .word w =>
        let t := (if at_ = pc then s else s.endWaits c pc).enter c m at_
        match (lanesOf m).find? (fun j => (t.ready c).getLsbD j && (t.coh c).pcOf j == at_) with
        | none => .done (.next (t.afterIssue c 0))
        | some j => s.settleIssue c (t.groupOf c j) (State.issueWord run t c j at_ h w)

/-- The groups of a cohort, lowest PC first, until one issues; a cohort that has parked on an absent scratchpad line does
not issue (R63). -/
def State.tryGroups (run : Meaning) (c : Nat) : List LaneMask → State → Attempt
  | [], s => .held { s with cur := .none }
  | m :: ms, s =>
    match s.tryGroup run c m with
    | .done o => .done o
    | .held t => if (t.coh c).absent.isEmpty then State.tryGroups run c ms t else .held { t with cur := .none }

/-- The groups that a cohort offers: those that are not in its store. -/
def State.offered (s : State) (c : Nat) : List LaneMask := (s.groups c).filter (fun m => (m &&& (s.coh c).store) == 0)

/-- The cohort may issue: resident, on a running partition, not parked on a line, in an active position (R188), the holder of
its pipe where its grid is deterministic (R192), and past what its restore asks (R366, R386). -/
def State.mayIssue (s : State) (c : Nat) : Bool :=
  let k := s.coh c
  k.place == .resident && s.running (s.cohPart c) && k.absent.isEmpty && k.active && (!(s.cohGrd c).det || k.detHolder) && !k.lost && !k.damaged

/-- The cohort has a group whose next word issues. -/
def State.canIssue (run : Meaning) (s : State) (c : Nat) : Bool :=
  let s := s.fitStore c
  match State.tryGroups run c (s.offered c) s with
  | .done _ => true
  | .held _ => false

/-- Another active cohort of the pipe issued less recently and can issue now: the pipe chooses it (R187). -/
def State.comesLater (run : Meaning) (s : State) (c : Nat) : Bool :=
  s.cohorts.any (fun e => e.1 != c && e.2.active && e.2.pipe == (s.coh c).pipe && e.2.lastIssue < (s.coh c).lastIssue &&
    s.cohCore e.1 == s.cohCore c && s.mayIssue e.1 && s.canIssue run e.1)

/-- While its partition is halted, a cohort performs the accesses of words that have issued, as their walks and peers let it
(R380); a word that then waits for something else has its next issue after the restore. -/
def State.haltTurn (run : Meaning) (s : State) (c : Nat) : Host.Outcome State Fault Refusal :=
  match (s.groups c).find? (fun m => s.unfinishedAt c ((s.coh c).pcOf (lowLane m))) with
  | none => .next s
  | some m =>
    match s.tryGroup run c m with
    | .done o => o
    | .held u =>
      let pc := (s.coh c).pcOf (lowLane m)
      let waits := u.walks.any (fun w => w.2.coh == c && w.2.pc == pc && w.2.bad.isNone && w.2.lvl.isNone) ||
        u.transit.any (fun t => t.2.coh == c && t.2.pc == pc && !t.2.arrived)
      .next ({ (if waits then u else u.endWaits c pc) with cur := .none } : State)

/-- A turn of a cohort, once what is known of waiting cohorts is up to date. -/
def State.cohortTurn (run : Meaning) (s : State) (c : Nat) : Host.Outcome State Fault Refusal :=
  let s := s.noted
  if s.halting (s.cohPart c) then s.haltTurn run c else
  let t := if (s.coh c).place = .resident ∧ s.running (s.cohPart c) then (s.takePos c).wakeCore (s.cohCore c) else s
  if t.mayIssue c then
    if t.comesLater run c then .next s
    else
      let t := t.fitStore c
      match State.tryGroups run c (t.offered c) t with
      | .done o => o
      | .held u => .next u
  else .next s

/-! ### Base-die harts -/

/-- A turn of a base-die hart: it fetches the word at its pc and executes it. -/
def State.hartTurn (run : Meaning) (s : State) (h : Nat) : Host.Outcome State Fault Refusal :=
  if Config.harts ≤ h then .next s
  else
    match s.hartHit (s.hart h) 4 (s.hart h).pc.toNat 4 with
    | .exc c => .next (s.hartTrap h (BitVec.ofNat 64 c) (s.hart h).pc)
    | .io _ => .next (s.hartTrap h 1 (s.hart h).pc)
    | .mem pa =>
      let w := BitVec.ofNat 32 (getBytes s.mem pa 4)
      let s := s.l2Read pa 4
      if w.extractLsb' 0 7 = 0x0B#7 then
        match decodeKx w with
        | some i => run i { s with cur := { Issue.none with hart := h } }
        | none => .next (s.hartIllegal h)
      else
        match decodeRvMem w with
        | some op => run (.baseDieMemoryAccess h op) s
        | none =>
          match (rvBase (s.hart h) w).bind (s.rvDo h) with
          | some t => .next t
          | none => .refused .rvOutsideManual

/-! ### Turns -/

/-- Who was named to move, moves. -/
def State.turn (run : Meaning) (s : State) : Turn → Host.Outcome State Fault Refusal
  | .event i => run i s
  | .cohort c => s.cohortTurn run c
  | .hart h => s.hartTurn run h
  | .units => .next s.unitsTurn

/-- Where nobody is named, the cohorts that can issue, the least recently issued one first (R187). -/
def State.issueOrder (s : State) : List Turn :=
  ((sortOn (fun (e : Nat × Cohort) => e.2.lastIssue) s.cohorts).filter (fun e => s.mayIssue e.1 && s.eligible e.1)).map
    (fun e => Turn.cohort e.1)

/-- Where none can, a cohort fetches, or work in flight goes on: operations, pulls, walks, accesses to peers, engine
commands, what waits in units. -/
def State.inFlightWork (s : State) : List Turn :=
  (sortOn (fun (e : Nat × Cohort) => e.2.lastIssue) s.cohorts).map (fun e => Turn.cohort e.1) ++
  (s.pulls.map (fun p => if p.2.acked then Instr.pullAck p.1 else .releasePull p.1) ++
    s.ops.map (fun o => Instr.flaggedOpComplete o.1 allLanes) ++
    s.walks.map (fun w => Instr.walkComplete w.1) ++
    (s.transit.filter (fun t => !t.2.arrived)).map (fun t => Instr.peerAccessArrive t.1) ++
    s.cores.flatMap (fun c => (c.2.opt.filter (fun o => o.2.busy)).flatMap (fun o =>
      [Instr.engineOpComplete c.1 o.1, .fillLanded c.1 o.1, .collResult c.1 o.1]))).map Turn.event ++ [Turn.units]

/-- The first of some turns that changes more than the clock; where none does, time goes by. -/
def State.firstChange (run : Meaning) (s : State) : List Turn → Host.Outcome State Fault Refusal
  | [] => .next s.tick
  | i :: is =>
    match s.turn run i with
    | .next t => if { t with time := s.time, fresh := s.fresh } = s then State.firstChange run s is else .next t
    | .fault f => .fault f
    | .refused r => .refused r

/-- Hand-offs of active positions to cohorts that wait for one (R167, R188). -/
def State.handOffs (s : State) : List Turn :=
  (s.cohorts.filter (fun e => s.posWaits e.1)).flatMap (fun i =>
    (s.cohorts.filter (fun e => e.2.active && s.samePipe e.1 i.1)).map (fun o => Turn.event (.activePositionHandoff o.1 i.1)))

/-- What happens when nobody has been named (notes/assumptions/1.md). -/
def State.idle (run : Meaning) (s : State) : Host.Outcome State Fault Refusal :=
  s.firstChange run (s.handOffs ++ s.issueOrder ++ s.inFlightWork)

/-- One step: the next turn of the agenda, or what happens without one. -/
def State.oneStep (run : Meaning) (s : State) : Host.Outcome State Fault Refusal :=
  match s.agenda with
  | t :: rest => ({ s with agenda := rest } : State).turn run t
  | [] => s.idle run

end Sys2Proof.Machine
end

