-- ==== Sys2Proof/Machine/Lanes.lean ====
section
/-! DEFINITION. Lane instructions, opcode 0x28 (R280 to R285): they combine the values of the active lanes of the
issuing group. -/

namespace Sys2Proof.Machine

/-- The source lane of SHFL (R281). -/
def shflSrc (mode : ShflMode) (l : Nat) (b : DWord) : Int :=
  match mode with
  | .idx => (b.truncate 32 : Word).toNat
  | .up => (l : Int) - (b.truncate 32 : Word).toInt
  | .down => (l : Int) + (b.truncate 32 : Word).toInt
  | .xor => ((l ^^^ (b.truncate 32 : Word).toNat : Nat) : Int)

/-- A lane whose source is not active keeps its own value (R281). -/
def execShfl (r : R3) (mode : ShflMode) (w : Bool) (s : State) : Host.Outcome State Fault Refusal :=
  .next (s.issue (.of r.g [(r.d, wordsOf w)] [(r.a, wordsOf w), (r.b, 1)]) fun t run =>
    let c := t.cur.coh
    t.result r.d w run (fun l =>
      let k := shflSrc mode l (t.val c r.b false l)
      let src := if 0 ≤ k ∧ k ≤ 31 ∧ run.getLsbD k.toNat then k.toNat else l
      t.val c r.a w src))

/-- VOTE (R282): modes 0 to 2 write a predicate in every active lane, mode 3 a mask. -/
def execVote (g : Guard) (d : Opnd) (p : BitVec 3) (mode : VoteMode) (pn : Bool) (s : State) :
    Host.Outcome State Fault Refusal :=
  let dst := match mode with | .ballot => [(d, 1)] | .all => [] | .any => [] | .uni => []
  .next (s.issue (.of g dst []) fun t run =>
    let k := t.coh t.cur.coh
    let yes := maskOf (fun l => run.getLsbD l && (k.pred p.toNat l true != pn))
    let pd := match d with | .v n => n.truncate 3 | .s _ => 0 | .i _ => 0 | .f _ => 0 | .x _ => 0
    match mode with
    | .all => t.resultP pd run (fun _ => yes == run)
    | .any => t.resultP pd run (fun _ => yes != 0)
    | .uni => t.resultP pd run (fun _ => yes == run || yes == 0)
    | .ballot => t.result d false run (fun _ => yes.zeroExtend 64))

/-- The identity of an operation at width w (R284). -/
def laneIdentity (op : LaneOp) (u w : Bool) : DWord :=
  let n := bitsOf w
  match op with
  | .iadd => 0
  | .or => 0
  | .xor => 0
  | .and => wrap w (-1)
  | .imin => wrap w (if u then 2 ^ n - 1 else 2 ^ (n - 1) - 1)
  | .imax => wrap w (if u then 0 else -(2 ^ (n - 1)))
  | .fadd => BitVec.ofNat 64 ((fmtF w).signBit true)
  | .fmin => BitVec.ofNat 64 ((fmtF w).inf false)
  | .fmax => BitVec.ofNat 64 ((fmtF w).inf true)

/-- FMIN or FMAX across values, each pair as R273. -/
def Fmt.minmaxAll (f : Fmt) (mx : Bool) : List FVal → Nat × NFlags
  | [] => (0, 0)
  | v :: vs => vs.foldl (fun a v => let r := f.minmax mx false (f.dec a.1) v; (r.1, a.2 ||| r.2)) (f.minmax mx false v v)

/-- The reduction of some lanes' values (R283). -/
def laneRed (op : LaneOp) (u w : Bool) (md : RMode) (xs : List DWord) (fs : List FVal) : DWord × NFlags :=
  match op with
  | .iadd => (wrap w ((xs.map (uval w)).foldl (· + ·) 0), 0)
  | .imin => (match xs.map (ext u w) with | [] => 0 | y :: ys => wrap w (ys.foldl min y), 0)
  | .imax => (match xs.map (ext u w) with | [] => 0 | y :: ys => wrap w (ys.foldl max y), 0)
  | .and => (wrap w (xs.foldl (· &&& ·) (BitVec.allOnes 64)).toNat, 0)
  | .or => (wrap w (xs.foldl (· ||| ·) 0).toNat, 0)
  | .xor => (wrap w (xs.foldl (· ^^^ ·) 0).toNat, 0)
  | .fadd => fres ((fmtF w).sum md true fs)
  | .fmin => fres (Fmt.minmaxAll (fmtF w) false fs)
  | .fmax => fres (Fmt.minmaxAll (fmtF w) true fs)

/-- The reduction of source a over some lanes, rounded for lane `at_` (R283, R284). -/
def State.redOver (s : State) (r : R3) (op : LaneOp) (w u : Bool) (rnd : Rnd) (at_ : Nat) (ls : List Nat) :
    DWord × NFlags :=
  let c := s.cur.coh
  laneRed op u w (s.rmode rnd false false (idxOf rnd r.c) at_) (ls.map (s.val c r.a w))
    (ls.map (s.fval c r.a (fmtF w) w))

/-- The registers of LRED and LSCAN. -/
def redNeed (r : R3) (w : Bool) (rnd : Rnd) : Need :=
  .of r.g [(r.d, wordsOf w)] ((withIdx [(r.a, w)] rnd r.c).map (fun e => (e.1, wordsOf e.2)))

/-- LRED (R283): one value for every active lane. -/
def execLred (r : R3) (op : LaneOp) (w u : Bool) (rnd : Rnd) (s : State) : Host.Outcome State Fault Refusal :=
  .next (s.issue (redNeed r w rnd) fun t run =>
    let v := t.redOver r op w u rnd (lowLane run) (lanesOf run)
    (t.result r.d w run (fun _ => v.1)).raise t.cur.coh v.2)

/-- The value of LSCAN in lane l (R284). -/
def State.scanAt (s : State) (r : R3) (op : LaneOp) (w u : Bool) (rnd : Rnd) (excl : Bool) (run : LaneMask) (l : Nat) :
    DWord × NFlags :=
  let ls := (lanesOf run).filter (fun k => if excl then k < l else k ≤ l)
  if ls.isEmpty then (laneIdentity op u w, 0) else s.redOver r op w u rnd l ls

/-- LSCAN (R284). -/
def execLscan (r : R3) (op : LaneOp) (w u : Bool) (rnd : Rnd) (excl : Bool) (s : State) :
    Host.Outcome State Fault Refusal :=
  .next (s.issue (redNeed r w rnd) fun t run =>
    (t.result r.d w run (fun l => (t.scanAt r op w u rnd excl run l).1)).raise t.cur.coh
      ((lanesOf (once r.d run)).foldl (fun a l => a ||| (t.scanAt r op w u rnd excl run l).2) 0))

/-- MATCH (R285). -/
def execMatchL (r : R3) (w : Bool) (s : State) : Host.Outcome State Fault Refusal :=
  .next (s.issue (.of r.g [(r.d, 1)] [(r.a, wordsOf w)]) fun t run =>
    let c := t.cur.coh
    t.result r.d false run (fun l =>
      (maskOf (fun k => run.getLsbD k && t.val c r.a w k == t.val c r.a w l)).zeroExtend 64))

end Sys2Proof.Machine
end

