-- ==== Sys2Proof/Machine/Paired.lean ====
section
/-! DEFINITION. Paired words (R239 to R241): two restricted halves in one word, co-issued or split by path (R158). -/

namespace Sys2Proof.Machine

/-! ### Legality of a half (R241, R242) -/

def halfB (h : Half) : Opnd := .ofCode h.b
def halfD (h : Half) : Opnd := .v h.d

/-- The half takes a register in m. -/
def halfM (h : Half) : Bool := h.rop == 0x1D#6 || h.rop == 0x22#6

/-- A special function. -/
def halfSf (h : Half) : Bool := 0x28 ≤ h.rop.toNat && h.rop.toNat ≤ 0x2F

/-- The restricted opcodes that are reserved (R241). -/
def halfReserved (h : Half) : Bool :=
  let r := h.rop.toNat
  (0x13 ≤ r && r ≤ 0x17) || (0x23 ≤ r && r ≤ 0x27) || 0x32 ≤ r

/-- m holds only what the table of R241 gives it. -/
def halfMOk (h : Half) : Bool :=
  let r := h.rop.toNat
  let m := h.m.toNat
  if r = 4 ∨ r = 5 then m ≤ 1
  else if r = 0x0E then true
  else if 0x0F ≤ r ∧ r ≤ 0x11 then m < 32
  else if r = 0x12 then m < 7
  else if (0x18 ≤ r ∧ r ≤ 0x1C) ∨ r = 0x20 ∨ r = 0x21 then m < 16 && m % 8 ≤ 4
  else if r = 0x1D ∨ r = 0x22 then true
  else if 0x28 ≤ r ∧ r ≤ 0x2F then m < 8 && m % 4 ≤ 2
  else if r = 0x30 ∨ r = 0x31 then m ≤ 4
  else m = 0

/-- The flag that a half selects. -/
def halfFlag (h : Half) : FlagSel := if halfSf h then flagOf (h.m.extractLsb' 0 2) else .off

/-- The subcode of a half, 0 where it is legal: the lowest of its failing checks. -/
def halfIllegal (h : Half) : Nat :=
  if halfReserved h then 1
  else if halfMOk h = false ∨ (h.rop = 0#6 ∧ (h.d ≠ 0 ∨ h.b ≠ 0)) then 2
  else if (halfB h).okCode then 0
  else 3

/-- The pairing rules of R240 on the encoded names. A NOP half takes no part. -/
def pairBroken (h0 h1 : Half) : Bool :=
  if h0.rop = 0#6 ∨ h1.rop = 0#6 then false
  else
    let banks := fun (x y : Opnd) => match x, y with
      | .v i, .v j => i.toNat % 4 == j.toNat % 4
      | _, _ => false
    banks (halfD h0) (halfD h1) || banks (halfB h0) (halfB h1) || halfB h1 == halfD h0 || (halfM h1 && h1.m == h0.d)

/-! ### What a half computes -/

/-- The value of a fixed half in lane l, and its numeric flags (R241). -/
def State.halfVal (s : State) (h : Half) (l : Nat) : DWord × NFlags :=
  let c := s.cur.coh
  let r := h.rop.toNat
  let m := h.m.toNat
  let b := halfB h
  let d := s.val c (halfD h) false l
  let x := s.val c b false l
  let i := fun (v : DWord) => (v, (0 : NFlags))
  let w := fun (v : Int) => i (wrap false v)
  let ftz := m / 8 % 2 == 1
  let rnd := Rnd.ofCode (h.m.extractLsb' 0 3)
  let md := s.rmode rnd false ftz none l
  let fd := s.fsrc (halfD h) false ftz l
  let fb := s.fsrc b false ftz l
  let fdn := s.fsrc (halfD h) false false l
  let fbn := s.fsrc b false false l
  let fm := s.fsrc (.v h.m) false false l
  if r = 1 then w (sval false d + sval false x)
  else if r = 2 then w (sval false d - sval false x)
  else if r = 3 then w (sval false d * sval false x)
  else if r = 4 then w (min (ext (m == 1) false d) (ext (m == 1) false x))
  else if r = 5 then w (max (ext (m == 1) false d) (ext (m == 1) false x))
  else if r = 6 then i (d &&& x)
  else if r = 7 then i (d ||| x)
  else if r = 8 then i (d ^^^ x)
  else if r = 9 then w (d &&& ~~~x).toNat
  else if r = 0x0A then i (shlVal false d x)
  else if r = 0x0B then i (shrVal false d x)
  else if r = 0x0C then i (sarVal false d x)
  else if r = 0x0D then i x
  else if r = 0x0E then w (sval false x + h.m.toInt)
  else if r = 0x0F then i (shlVal false x (BitVec.ofNat 64 m))
  else if r = 0x10 then i (shrVal false x (BitVec.ofNat 64 m))
  else if r = 0x11 then i (sarVal false x (BitVec.ofNat 64 m))
  else if r = 0x12 then i (if (s.coh c).pred (m % 8) l false then x else d)
  else if r = 0x18 then fres (Fmt.fp32.add md fd fb)
  else if r = 0x19 then fres (Fmt.fp32.add md fd fb.flip)
  else if r = 0x1A then fres (Fmt.fp32.mul md fd fb)
  else if r = 0x1B then fres (Fmt.fp32.minmax false ftz fdn fbn)
  else if r = 0x1C then fres (Fmt.fp32.minmax true ftz fdn fbn)
  else if r = 0x1D then fres (Fmt.fp32.fma .rne fbn fm fdn)
  else if r = 0x1E then i ((s.bits32 b l &&& 0x7FFFFFFF#32).zeroExtend 64)
  else if r = 0x1F then i ((s.bits32 b l ^^^ 0x80000000#32).zeroExtend 64)
  else if r = 0x20 then
    s.halves2 rnd false ftz none l (fun md j => Fmt.fp16.add md (s.hsrc (halfD h) ftz l j) (s.hsrc b ftz l j))
  else if r = 0x21 then
    s.halves2 rnd false ftz none l (fun md j => Fmt.fp16.mul md (s.hsrc (halfD h) ftz l j) (s.hsrc b ftz l j))
  else if r = 0x22 then
    s.halves2 .rne false false none l (fun md j =>
      Fmt.fp16.fma md (s.hsrc b false l j) (s.hsrc (.v h.m) false l j) (s.hsrc (halfD h) false l j))
  else if halfSf h then fres (sfVal (r - 0x28) (m / 4 % 2 == 1) (s.bits32 b l))
  else if r = 0x30 then cvtVal (s.rmode rnd false false none l) .f32 .s32 x.toNat (.fin false 0 0)
  else cvtVal (s.rmode rnd false false none l) .s32 .f32 0 fbn

/-! ### Issue -/

/-- The lanes of a half: its guard, and in a path-split word its path (R158, R239). -/
def State.halfLanes (s : State) (h : Half) (split side : Bool) : LaneMask :=
  let k := s.coh s.cur.coh
  maskOf (fun l => s.cur.lanes.getLsbD l && k.pred h.p.toNat l true && (!split || (k.path.getLsbD l == side)))

/-- Registers of a half. -/
def halfRegs (h : Half) : List (Opnd × Nat) :=
  if h.rop = 0#6 then [] else [(halfD h, 1), (halfB h, 1)] ++ (if halfM h then [(.v h.m, 1)] else [])

/-- A half writes its results, or starts its flagged operation, from values read before (R240). -/
def State.halfWrite (s : State) (h : Half) (run : LaneMask) (v : Nat → DWord × NFlags) : State :=
  if h.rop = 0#6 ∨ run = 0 then s
  else if halfFlag h = .off then
    (s.result (halfD h) false run (fun l => (v l).1)).raise s.cur.coh ((lanesOf run).foldl (fun a l => a ||| (v l).2) 0)
  else s.startComp (halfFlag h) (halfD h) false run v

/-- Renaming does not apply to path-split halves (R158). -/
def State.openRegion (s : State) (on : Bool) : State := s.modCoh s.cur.coh (fun k => { k with regionOpen := on })

/-- Both halves for their lanes. -/
def State.pair (s : State) (split : Bool) (h0 h1 : Half) : State :=
  let c := s.cur.coh
  let inR := (s.coh c).inRegion (lowLane s.cur.lanes)
  let act0 := s.halfLanes h0 (split && inR) false
  let act1 := s.halfLanes h1 (split && inR) true
  let act := act0 ||| act1
  if act = 0 then s.advance
  else if split ∧ inR = false then (s.meldFault act 4).advance
  else
    let one := fun (h : Half) (a : LaneMask) =>
      if a = 0 then 0 else lowest (halfIllegal h) (chk 2 (!s.badFlag (halfFlag h)))
    let k := lowest (lowest (one h0 act0) (one h1 act1)) (chk 4 (split || !pairBroken h0 h1))
    if k ≠ 0 then (s.illegal act k).advance
    else
      let r := if split then s.openRegion false else s
      let ok := fun (h : Half) (l : Nat) => (halfRegs h).all (fun e => r.regOk c l e.1 e.2)
      -- lanes that name alike fail together: the two paths of a region are renamed each for itself (R157, R242)
      let fails := fun (l : Nat) => (act0.getLsbD l && !ok h0 l) || (act1.getLsbD l && !ok h1 l)
      let alike := fun (l j : Nat) => split || !inR || (s.coh c).path.getLsbD l == (s.coh c).path.getLsbD j
      let bad := maskOf (fun l => act.getLsbD l && (lanesOf act).any (fun j => fails j && alike l j))
      let run0 := act0 &&& ~~~bad
      let run1 := act1 &&& ~~~bad
      let sel := fun (h : Half) (run : LaneMask) => if run = 0 then FlagSel.off else halfFlag h
      let cnt := fun (f : FlagSel) => match s.flagOf f with | some i => getD (s.coh c).cf i 0 | none => 0
      let same := s.flagOf (sel h0 run0) == s.flagOf (sel h1 run1)
      let full := s.flagFull (sel h0 run0) || s.flagFull (sel h1 run1) || (same && cnt (sel h0 run0) == 62)
      let rs := (if run0 = 0 then [] else sregsOf [halfB h0]) ++ (if run1 = 0 then [] else sregsOf [halfB h1])
      if s.handlePending rs ∨ full then s.stall
      else
        let t := s.illegal bad 3
        let was := (t.coh c).regionOpen
        let t := if split then t.openRegion false else t
        let t := (t.useRegs c run1 (if run1 = 0 then [] else halfRegs h1) rs).useRegs c run0
          (if run0 = 0 then [] else halfRegs h0) rs
        let t' := (t.halfWrite h0 run0 (t.halfVal h0)).halfWrite h1 run1 (t.halfVal h1)
        (if split then t'.openRegion was else t').advance

/-- Both halves for the active lanes of each (R240). -/
def execPairedCoIssue (h0 h1 : Half) (s : State) : Host.Outcome State Fault Refusal := .next (s.pair false h0 h1)

/-- Half 0 on path 0, half 1 on path 1, not renamed (R158). -/
def execPairedPathSplit (h0 h1 : Half) (s : State) : Host.Outcome State Fault Refusal := .next (s.pair true h0 h1)

end Sys2Proof.Machine
end

