-- ==== Sys2Proof/Machine/Dispatch.lean ====
section
/-! DEFINITION. The meaning of each instruction: one arm for each constructor of `Instr`, one direct call each. -/

namespace Sys2Proof.Machine

/-- The meaning of an instruction in a state. -/
def exec (i : Instr) (s : State) : Host.Outcome State Fault Refusal :=
  match i with
  | .iadd r m => Sys2Proof.Machine.execIadd r m s
  | .iadd3 r m => Sys2Proof.Machine.execIadd3 r m s
  | .isub r m => Sys2Proof.Machine.execIsub r m s
  | .ineg r m => Sys2Proof.Machine.execIneg r m s
  | .iabs r m => Sys2Proof.Machine.execIabs r m s
  | .imin r m => Sys2Proof.Machine.execImin r m s
  | .imax r m => Sys2Proof.Machine.execImax r m s
  | .lea r sh u => Sys2Proof.Machine.execLea r sh u s
  | .icmp g p a b c w u => Sys2Proof.Machine.execIcmp g p a b c w u s
  | .imul r m => Sys2Proof.Machine.execImul r m s
  | .imulh r m => Sys2Proof.Machine.execImulh r m s
  | .imad r m => Sys2Proof.Machine.execImad r m s
  | .imadw r m => Sys2Proof.Machine.execImadw r m s
  | .idiv r f w u dzt => Sys2Proof.Machine.execIdiv r f w u dzt s
  | .irem r f w u dzt => Sys2Proof.Machine.execIrem r f w u dzt s
  | .iaddImm g d a imm => Sys2Proof.Machine.execIaddImm g d a imm s
  | .imulImm g d a imm => Sys2Proof.Machine.execImulImm g d a imm s
  | .andImm g d a imm => Sys2Proof.Machine.execAndImm g d a imm s
  | .orImm g d a imm => Sys2Proof.Machine.execOrImm g d a imm s
  | .xorImm g d a imm => Sys2Proof.Machine.execXorImm g d a imm s
  | .and r w => Sys2Proof.Machine.execAnd r w s
  | .or r w => Sys2Proof.Machine.execOr r w s
  | .xor r w => Sys2Proof.Machine.execXor r w s
  | .andn r w => Sys2Proof.Machine.execAndn r w s
  | .orn r w => Sys2Proof.Machine.execOrn r w s
  | .not r w => Sys2Proof.Machine.execNot r w s
  | .shl r w => Sys2Proof.Machine.execShl r w s
  | .shr r w => Sys2Proof.Machine.execShr r w s
  | .sar r w => Sys2Proof.Machine.execSar r w s
  | .rot r w => Sys2Proof.Machine.execRot r w s
  | .funl r w => Sys2Proof.Machine.execFunl r w s
  | .bfx r w u => Sys2Proof.Machine.execBfx r w u s
  | .bfi r w => Sys2Proof.Machine.execBfi r w s
  | .popc r w => Sys2Proof.Machine.execPopc r w s
  | .clz r w => Sys2Proof.Machine.execClz r w s
  | .ctz r w => Sys2Proof.Machine.execCtz r w s
  | .brev r w => Sys2Proof.Machine.execBrev r w s
  | .perm r => Sys2Proof.Machine.execPerm r s
  | .mov r w => Sys2Proof.Machine.execMov r w s
  | .sel r w p inv => Sys2Proof.Machine.execSel r w p inv s
  | .plog g p pa pb pc lut => Sys2Proof.Machine.execPlog g p pa pb pc lut s
  | .movi g d sx imm => Sys2Proof.Machine.execMovi g d sx imm s
  | .movw g d lo imm => Sys2Proof.Machine.execMovw g d lo imm s
  | .fadd r m => Sys2Proof.Machine.execFadd r m s
  | .fsub r m => Sys2Proof.Machine.execFsub r m s
  | .fmul r m => Sys2Proof.Machine.execFmul r m s
  | .ffma r m na nc => Sys2Proof.Machine.execFfma r m na nc s
  | .fmin r ftz f64 => Sys2Proof.Machine.execFmin r ftz f64 s
  | .fmax r ftz f64 => Sys2Proof.Machine.execFmax r ftz f64 s
  | .fscale r m => Sys2Proof.Machine.execFscale r m s
  | .fcmp g p a b c ftz f64 => Sys2Proof.Machine.execFcmp g p a b c ftz f64 s
  | .fclass r f64 => Sys2Proof.Machine.execFclass r f64 s
  | .frint r rnd ftz f64 => Sys2Proof.Machine.execFrint r rnd ftz f64 s
  | .hadd2 r rnd ftz sat => Sys2Proof.Machine.execHadd2 r rnd ftz sat s
  | .hmul2 r rnd ftz sat => Sys2Proof.Machine.execHmul2 r rnd ftz sat s
  | .hfma2 r rnd ftz sat => Sys2Proof.Machine.execHfma2 r rnd ftz sat s
  | .faddImm g d a imm => Sys2Proof.Machine.execFaddImm g d a imm s
  | .fmulImm g d a imm => Sys2Proof.Machine.execFmulImm g d a imm s
  | .fminImm g d a imm => Sys2Proof.Machine.execFminImm g d a imm s
  | .fmaxImm g d a imm => Sys2Proof.Machine.execFmaxImm g d a imm s
  | .rcp r f ftz => Sys2Proof.Machine.execRcp r f ftz s
  | .rsq r f ftz => Sys2Proof.Machine.execRsq r f ftz s
  | .sqrt r f ftz => Sys2Proof.Machine.execSqrt r f ftz s
  | .exp2 r f ftz => Sys2Proof.Machine.execExp2 r f ftz s
  | .log2 r f ftz => Sys2Proof.Machine.execLog2 r f ftz s
  | .sinpi r f ftz => Sys2Proof.Machine.execSinpi r f ftz s
  | .cospi r f ftz => Sys2Proof.Machine.execCospi r f ftz s
  | .tanh r f ftz => Sys2Proof.Machine.execTanh r f ftz s
  | .cvt r rnd sat dt st => Sys2Proof.Machine.execCvt r rnd sat dt st s
  | .shfl r mode w => Sys2Proof.Machine.execShfl r mode w s
  | .vote g d p mode pn => Sys2Proof.Machine.execVote g d p mode pn s
  | .lred r op w u rnd => Sys2Proof.Machine.execLred r op w u rnd s
  | .lscan r op w u rnd excl => Sys2Proof.Machine.execLscan r op w u rnd excl s
  | .matchL r w => Sys2Proof.Machine.execMatchL r w s
  | .pairedCoIssue h0 h1 => Sys2Proof.Machine.execPairedCoIssue h0 h1 s
  | .pairedPathSplit h0 h1 => Sys2Proof.Machine.execPairedPathSplit h0 h1 s
  | .bra g off idx => Sys2Proof.Machine.execBra g off idx s
  | .call g link off idx => Sys2Proof.Machine.execCall g link off idx s
  | .loop g cnt off idx => Sys2Proof.Machine.execLoop g cnt off idx s
  | .brm g p inv off idx => Sys2Proof.Machine.execBrm g p inv off idx s
  | .meet g clr off idx => Sys2Proof.Machine.execMeet g clr off idx s
  | .spawn g n off => Sys2Proof.Machine.execSpawn g n off s
  | .brx g a => Sys2Proof.Machine.execBrx g a s
  | .callx g link a => Sys2Proof.Machine.execCallx g link a s
  | .ret g a => Sys2Proof.Machine.execRet g a s
  | .mend g => Sys2Proof.Machine.execMend g s
  | .spflush g => Sys2Proof.Machine.execSpflush g s
  | .exit g => Sys2Proof.Machine.execExit g s
  | .yield g => Sys2Proof.Machine.execYield g s
  | .waitf g mask => Sys2Proof.Machine.execWaitf g mask s
  | .nop g => Sys2Proof.Machine.execNop g s
  | .rnld m path idx off => Sys2Proof.Machine.execRnld m path idx off s
  | .bar g id => Sys2Proof.Machine.execBar g id s
  | .bara g id => Sys2Proof.Machine.execBara g id s
  | .barw g id => Sys2Proof.Machine.execBarw g id s
  | .cbar g id => Sys2Proof.Machine.execCbar g id s
  | .srd g d r => Sys2Proof.Machine.execSrd g d r s
  | .swr g a r => Sys2Proof.Machine.execSwr g a r s
  | .gts g d => Sys2Proof.Machine.execGts g d s
  | .clk g d => Sys2Proof.Machine.execClk g d s
  | .trap g a code => Sys2Proof.Machine.execTrap g a code s
  | .brkp g code => Sys2Proof.Machine.execBrkp g code s
  | .ld m d idx off => Sys2Proof.Machine.execLd m d idx off s
  | .st m x off => Sys2Proof.Machine.execSt m x off s
  | .ldc m d idx off => Sys2Proof.Machine.execLdc m d idx off s
  | .atom m op d x off => Sys2Proof.Machine.execAtom m op d x off s
  | .atoms m op d x off => Sys2Proof.Machine.execAtoms m op d x off s
  | .red m op x off => Sys2Proof.Machine.execRed m op x off s
  | .cas m d x off => Sys2Proof.Machine.execCas m d x off s
  | .aflush g => Sys2Proof.Machine.execAflush g s
  | .fence g k sc => Sys2Proof.Machine.execFence g k sc s
  | .pref g l2 base idx off => Sys2Proof.Machine.execPref g l2 base idx off s
  | .cwb g all base idx off => Sys2Proof.Machine.execCwb g all base idx off s
  | .cinv g all base idx off => Sys2Proof.Machine.execCinv g all base idx off s
  | .txbeg g d cls n off idx => Sys2Proof.Machine.execTxbeg g d cls n off idx s
  | .txend g => Sys2Proof.Machine.execTxend g s
  | .txabt g code => Sys2Proof.Machine.execTxabt g code s
  | .txst g d => Sys2Proof.Machine.execTxst g d s
  | .qpush m st x q => Sys2Proof.Machine.execQpush m st x q s
  | .qpop m d st wait q => Sys2Proof.Machine.execQpop m d st wait q s
  | .qcnt m d q => Sys2Proof.Machine.execQcnt m d q s
  | .cpy e a => Sys2Proof.Machine.execCpy e a s
  | .cpyg e a b => Sys2Proof.Machine.execCpyg e a b s
  | .cpys e a b => Sys2Proof.Machine.execCpys e a b s
  | .cpym e a c slot => Sys2Proof.Machine.execCpym e a c slot s
  | .omclm e a b t scu => Sys2Proof.Machine.execOmclm e a b t scu s
  | .omrel e a b => Sys2Proof.Machine.execOmrel e a b s
  | .accz e acc => Sys2Proof.Machine.execAccz e acc s
  | .accld e a b acc => Sys2Proof.Machine.execAccld e a b acc s
  | .accst e a b c acc => Sys2Proof.Machine.execAccst e a b c acc s
  | .accmv e slot c acc h => Sys2Proof.Machine.execAccmv e slot c acc h s
  | .mma e sa sb acc => Sys2Proof.Machine.execMma e sa sb acc s
  | .mmb e sa sb acc => Sys2Proof.Machine.execMmb e sa sb acc s
  | .futw g d a => Sys2Proof.Machine.execFutw g d a s
  | .futt g p a => Sys2Proof.Machine.execFutt g p a s
  | .futc g a => Sys2Proof.Machine.execFutc g a s
  | .rstl g ix clr => Sys2Proof.Machine.execRstl g ix clr s
  | .coll e a b kind => Sys2Proof.Machine.execColl e a b kind s
  | .put e a b => Sys2Proof.Machine.execPut e a b s
  | .get e a b => Sys2Proof.Machine.execGet e a b s
  | .qnt e a b c wt => Sys2Proof.Machine.execQnt e a b c wt s
  | .dqnt e a b c wt => Sys2Proof.Machine.execDqnt e a b c wt s
  | .amax g f a ring adv => Sys2Proof.Machine.execAmax g f a ring adv s
  | .sring g f d ring => Sys2Proof.Machine.execSring g f d ring s
  | .kxBegin rd rs1 => Sys2Proof.Machine.execKxBegin rd rs1 s
  | .kxEnd => Sys2Proof.Machine.execKxEnd s
  | .kxAbort code => Sys2Proof.Machine.execKxAbort code s
  | .kxStat rd => Sys2Proof.Machine.execKxStat rd s
  | .kxLock rs1 => Sys2Proof.Machine.execKxLock rs1 s
  | .flaggedOpComplete op lanes => Sys2Proof.Machine.execFlaggedOpComplete op lanes s
  | .walkComplete k => Sys2Proof.Machine.execWalkComplete k s
  | .mvWaitTimeout k => Sys2Proof.Machine.execMvWaitTimeout k s
  | .tlbInvalidate tctx what => Sys2Proof.Machine.execTlbInvalidate tctx what s
  | .tlbInvalidateComplete k => Sys2Proof.Machine.execTlbInvalidateComplete k s
  | .peerAccessArrive k => Sys2Proof.Machine.execPeerAccessArrive k s
  | .copyLineLanded core slot line => Sys2Proof.Machine.execCopyLineLanded core slot line s
  | .releasePull k => Sys2Proof.Machine.execReleasePull k s
  | .pullAck k => Sys2Proof.Machine.execPullAck k s
  | .releaseSetTimeout core k => Sys2Proof.Machine.execReleaseSetTimeout core k s
  | .regionMoveComplete k => Sys2Proof.Machine.execRegionMoveComplete k s
  | .floorWindow => Sys2Proof.Machine.execFloorWindow s
  | .txLockWaitEnd part cls => Sys2Proof.Machine.execTxLockWaitEnd part cls s
  | .txTimeLimit who => Sys2Proof.Machine.execTxTimeLimit who s
  | .spawnCohortForm block list => Sys2Proof.Machine.execSpawnCohortForm block list s
  | .belvedereCheck coh => Sys2Proof.Machine.execBelvedereCheck coh s
  | .submitEntry vf record gang tag flags => Sys2Proof.Machine.execSubmitEntry vf record gang tag flags s
  | .dependencePoll => Sys2Proof.Machine.execDependencePoll s
  | .railsSettled die => Sys2Proof.Machine.execRailsSettled die s
  | .clusterPlace grid e j die clu cores => Sys2Proof.Machine.execClusterPlace grid e j die clu cores s
  | .gridRetire grid => Sys2Proof.Machine.execGridRetire grid s
  | .activePositionHandoff out into => Sys2Proof.Machine.execActivePositionHandoff out into s
  | .cohortEvict coh => Sys2Proof.Machine.execCohortEvict coh s
  | .cohortRestoreEvicted coh => Sys2Proof.Machine.execCohortRestoreEvicted coh s
  | .launchQueueCohortStart part q block idx => Sys2Proof.Machine.execLaunchQueueCohortStart part q block idx s
  | .powerLimitStepDown => Sys2Proof.Machine.execPowerLimitStepDown s
  | .powerLimitStepUp => Sys2Proof.Machine.execPowerLimitStepUp s
  | .trapRecordWrite part => Sys2Proof.Machine.execTrapRecordWrite part s
  | .trapReply part w0 newpc edits dumpva => Sys2Proof.Machine.execTrapReply part w0 newpc edits dumpva s
  | .trapQueueSetup part base => Sys2Proof.Machine.execTrapQueueSetup part base s
  | .trapQueueHeadWrite part head => Sys2Proof.Machine.execTrapQueueHeadWrite part head s
  | .queueSetup part q ring spill scap => Sys2Proof.Machine.execQueueSetup part q ring spill scap s
  | .exportRegion part region => Sys2Proof.Machine.execExportRegion part region s
  | .memoryGrant part region on => Sys2Proof.Machine.execMemoryGrant part region on s
  | .floorRequest part ch units => Sys2Proof.Machine.execFloorRequest part ch units s
  | .sliceEnd share => Sys2Proof.Machine.execSliceEnd share s
  | .haltComplete share => Sys2Proof.Machine.execHaltComplete share s
  | .quiesceMarkerReturn share => Sys2Proof.Machine.execQuiesceMarkerReturn share s
  | .imageSaveComplete share => Sys2Proof.Machine.execImageSaveComplete share s
  | .scrubComplete share => Sys2Proof.Machine.execScrubComplete share s
  | .restoreComplete share => Sys2Proof.Machine.execRestoreComplete share s
  | .engineOpComplete core slot => Sys2Proof.Machine.execEngineOpComplete core slot s
  | .claimGrant core slot => Sys2Proof.Machine.execClaimGrant core slot s
  | .fillLanded core slot => Sys2Proof.Machine.execFillLanded core slot s
  | .remoteRequest src dtid kind off size data => Sys2Proof.Machine.execRemoteRequest src dtid kind off size data s
  | .payloadDelivery src dtid off bytes rec code detail => Sys2Proof.Machine.execPayloadDelivery src dtid off bytes rec code detail s
  | .collChunkArrival dtid cid rank head elems => Sys2Proof.Machine.execCollChunkArrival dtid cid rank head elems s
  | .collResult core slot => Sys2Proof.Machine.execCollResult core slot s
  | .collTimeout dtid cid => Sys2Proof.Machine.execCollTimeout dtid cid s
  | .flitReplayExhausted what => Sys2Proof.Machine.execFlitReplayExhausted what s
  | .portOutOfService port => Sys2Proof.Machine.execPortOutOfService port s
  | .gangReady gid rank digest => Sys2Proof.Machine.execGangReady gid rank digest s
  | .gangGo gid => Sys2Proof.Machine.execGangGo gid s
  | .gangCancel gid => Sys2Proof.Machine.execGangCancel gid s
  | .gangAck gid rank => Sys2Proof.Machine.execGangAck gid rank s
  | .gangAbort gid missing => Sys2Proof.Machine.execGangAbort gid missing s
  | .gangPrepareTimeout gid => Sys2Proof.Machine.execGangPrepareTimeout gid s
  | .gangGoTimeout gid => Sys2Proof.Machine.execGangGoTimeout gid s
  | .gangAckTimeout gid => Sys2Proof.Machine.execGangAckTimeout gid s
  | .featuresOk vf features => Sys2Proof.Machine.execFeaturesOk vf features s
  | .vfReset vf => Sys2Proof.Machine.execVfReset vf s
  | .cancelLaunch vf tag => Sys2Proof.Machine.execCancelLaunch vf tag s
  | .readAccount vf => Sys2Proof.Machine.execReadAccount vf s
  | .loadImage vf va base => Sys2Proof.Machine.execLoadImage vf va base s
  | .loaderComplete k => Sys2Proof.Machine.execLoaderComplete k s
  | .eventDelivery vf => Sys2Proof.Machine.execEventDelivery vf s
  | .completionEntryWrite vf => Sys2Proof.Machine.execCompletionEntryWrite vf s
  | .getVersion vf => Sys2Proof.Machine.execGetVersion vf s
  | .getCapabilities vf => Sys2Proof.Machine.execGetCapabilities vf s
  | .negotiateAlgorithms vf => Sys2Proof.Machine.execNegotiateAlgorithms vf s
  | .getDigests vf => Sys2Proof.Machine.execGetDigests vf s
  | .getCertificate vf => Sys2Proof.Machine.execGetCertificate vf s
  | .challenge vf nonce => Sys2Proof.Machine.execChallenge vf nonce s
  | .getMeasurements vf index => Sys2Proof.Machine.execGetMeasurements vf index s
  | .keyExchange vf => Sys2Proof.Machine.execKeyExchange vf s
  | .finish vf => Sys2Proof.Machine.execFinish vf s
  | .endSession vf => Sys2Proof.Machine.execEndSession vf s
  | .setImageKey vf k key => Sys2Proof.Machine.execSetImageKey vf k key s
  | .setDtid vf dtid => Sys2Proof.Machine.execSetDtid vf dtid s
  | .resetRecord vf => Sys2Proof.Machine.execResetRecord vf s
  | .cshareWrite n v => Sys2Proof.Machine.execCshareWrite n v s
  | .pctlWrite p v => Sys2Proof.Machine.execPctlWrite p v s
  | .registerWrite r v => Sys2Proof.Machine.execRegisterWrite r v s
  | .arrayScrubPass unit src bad => Sys2Proof.Machine.execArrayScrubPass unit src bad s
  | .errorLogRecord kind unit src part pa count => Sys2Proof.Machine.execErrorLogRecord kind unit src part pa count s
  | .spareBringIn u => Sys2Proof.Machine.execSpareBringIn u s
  | .spareSwapComplete u => Sys2Proof.Machine.execSpareSwapComplete u s
  | .corePowerGate core => Sys2Proof.Machine.execCorePowerGate core s
  | .coreWake core => Sys2Proof.Machine.execCoreWake core s
  | .reset pkg ports failed => Sys2Proof.Machine.execReset pkg ports failed s
  | .baseDieMemoryAccess hart op => Sys2Proof.Machine.execBaseDieMemoryAccess hart op s
  | .hartTrap hart cause => Sys2Proof.Machine.execHartTrap hart cause s
  | .instructionCacheFill coh pc => Sys2Proof.Machine.execInstructionCacheFill coh pc s
  | .unknownControlRequest vf code => Sys2Proof.Machine.execUnknownControlRequest vf code s

end Sys2Proof.Machine
end

