-- ==== Sys2Proof/Machine/Fetch.lean ====
section
/-! DEFINITION. How a word is put where the next turn fetches it: for an Izusk word a clause of one word in an executable
region, with the cohort that stands at its header (notes/assumptions/13.md); for a base-die word the memory at hart 0's
pc. -/

namespace Sys2Proof.Machine

/-- The header of a clause of one word whose flags are cf0 and cf1 (R227). -/
def oneWordHeader : DWord := 0xC100001200000000#64

/-- A launch record of one block of one cohort with 128 v-registers, whose entry is the clause (R172). -/
def oneCohortRecord : List DWord :=
  [0x200000#64, 0x0001000100010001#64, 0x0000000000800001#64] ++ List.replicate 29 0#64

/-- A share with one active position on each pipe and every row, slot and unit of its core (R407). -/
def oneShare : DWord := BitVec.ofNat 64 (2 ^ 40 + 64 * 2 ^ 33 + 32 * 2 ^ 20 + 768 * 2 ^ 10 + 32 * 2 ^ 44 + 8 * 2 ^ 50 + 32 * 2 ^ 54)

/-- The one cohort: 32 lanes at the clause header. -/
def oneCohort : Cohort := { Cohort.blank with
  active := true
  live := allLanes
  pc := (List.range 32).map (fun l => (l, 0x200000#64))
  orig := (List.range 31).map (fun l => (l + 1, l + 1)) }

/-- An Izusk word stands in a clause that the next turn issues. -/
def State.placeWord (s : State) (w : DWord) : State :=
  { s with
    ctl := { s.ctl with
      tctx := put s.ctl.tctx 0 1#64 0
      pctl := put s.ctl.pctl 0 0x0003E880#32 0x0003E800#32
      cshare := put s.ctl.cshare 0 oneShare 0 }
    mem := putBytes s.mem (s.ctl.pkg * 2 ^ 42 + 0x200000) 16 (oneWordHeader.toNat + 2 ^ 64 * w.toNat)
    own := set s.own (s.ctl.pkg * 2 ^ 21 + 1) ⟨some 0, true, false, false⟩
    grids := set s.grids 0 { Grid.blank with
      rcd := oneCohortRecord
      state := .running
      cpd := 1
      dies := [0]
      done := [(0, 0)] }
    placed := set s.placed 0 ⟨0, 0, 0, 0, 0, [0], []⟩
    blocks := set s.blocks 0 { Block.blank with exited := false, winRows := [0], slots := [0] }
    cohorts := set s.cohorts 0 oneCohort
    cores := set s.cores 0 { s.core 0 with
      tlb := [⟨0, 0x200000, 0x200000, s.ctl.pkg * 2 ^ 42 + 0x200000, 0, 0, true, false, true⟩] }
    shares := set s.shares 0 ⟨some 0, .idle, 0, none, s.time, 0⟩
    agenda := [.cohort 0] }

/-- A base-die word stands at hart 0's pc, and hart 0 moves next. -/
def State.placeHartWord (s : State) (w : Word) : State :=
  { s with
    mem := putBytes s.mem (s.norm (s.hart 0).pc.toNat) 4 w.toNat
    agenda := [.hart 0] }

end Sys2Proof.Machine
end

