-- ==== Sys2Proof/Machine/Step.lean ====
section
/-! DEFINITION. The step function, and the state in which the next step runs a given word. -/

namespace Sys2Proof.Machine

/-- One step of the package. -/
def step (s : State) : Host.Outcome State Fault Refusal := s.oneStep exec

/-- `s` with a word placed where the next step fetches it: 32 bits for a base-die word, 64 for an Izusk word. -/
def State.withFetchWord (s : State) (nbits w : Nat) : State :=
  if nbits ≤ 32 then s.placeHartWord (BitVec.ofNat 32 w) else s.placeWord (BitVec.ofNat 64 w)

end Sys2Proof.Machine
end

