-- ==== Sys2Proof/Safety.lean ====
section
/-! DEFINITION. What a safe run is, and the terms in which claims speak of one word: when it issues, what it writes, and
what it leaves alone. -/

namespace Sys2Proof

/-- n steps from a state all answer a next state. -/
def safe (n : Nat) (s : Machine.State) : Prop := ∃ t, Host.Core.run core n s = .next t

namespace Machine

/-- The canonical form of memory: addresses rise strictly, and no entry equals what an unlisted address reads as. -/
abbrev Memory.wf (m : List Host.Cell) : Prop := canon m 0 = true

/-- Both byte stores, memory and the bank rows of the scratchpads, have the canonical form. -/
def State.memWf (s : State) : Prop := Memory.wf s.mem ∧ Memory.wf s.bank

/-- The answer is a next state of which P holds. -/
def Gives (o : Host.Outcome State Fault Refusal) (P : State → Prop) : Prop := ∃ t, o = .next t ∧ P t

/-- The conditions under which a word issues for all its active lanes (R151, R242, R160, R140, R229, R342): its cohort is
there, some lane is active, no active lane fails a check, no handle is pending and the flag has room. -/
structure State.CanIssue (s : State) (n : Need) : Prop where
  there : (look s.cohorts s.cur.coh).isSome = true
  fresh : s.cur.stall = false
  act : s.active n.g ≠ 0
  ban : n.meldBan = true → ∀ l < 32, s.cur.lanes.getLsbD l = true → (s.coh s.cur.coh).inRegion l = false
  flag : s.badFlag n.flag = false
  regs : ∀ l < 32, (s.active n.g).getLsbD l = true → ∀ e ∈ n.regs, s.regOk s.cur.coh l e.1 e.2 = true
  plain : n.disallow.isSome = true → ∀ l < 32, (s.active n.g).getLsbD l = true → (s.coh s.cur.coh).spec l = false
  handle : s.handlePending n.sread = false
  room : s.flagFull n.flag = false

/-- The state in which the body of a word runs: its registers have been used in the operand cache (R57), and
what its s-registers show of completed commands has been seen (R115). -/
def State.used (s : State) (n : Need) : State := s.useRegs s.cur.coh (s.active n.g) n.regs n.sread

/-- What a cohort holds beyond where its lanes stand and which registers its operand cache holds, as every word changes
(R57), and whether the word has observed a completion (R115): everything but the PCs, the lanes that are held or have entered their clause, and the bookkeeping of a region's
meeting. -/
def Cohort.bare (k : Cohort) : Cohort := { k with
  dirty := []
  observed := false
  pc := []
  held := 0
  entered := 0
  regionOpen := false
  memb := 0
  path := 0
  mendOpen := false
  mendWait := 0 }

/-- The same without the registers of all kinds. -/
def Cohort.frame (k : Cohort) : Cohort := { k.bare with
  regs := []
  sregs := []
  preds := []
  nflags := 0
  handles := []
  relS := [] }

/-- An operation in flight without the places that its result still writes (R231). -/
def Op.body (o : Op) : Op := { o with dst := [] }

/-- Every piece of the state outside the cohorts is as before, but for destinations withdrawn from operations in flight
(R231); every other cohort is as before. -/
structure State.Elsewhere (s t : State) (c : Nat) : Prop where
  rest : t = { s with
    cohorts := t.cohorts
    ops := t.ops }
  ops : t.ops.map (fun o => (o.1, o.2.body)) = s.ops.map (fun o => (o.1, o.2.body))
  others : ∀ j, j ≠ c → t.coh j = s.coh j

/-- The group's lanes go on to the next word (R226, R288); no other lane moves. -/
def State.GoesOn (s t : State) : Prop :=
  ∀ l < 32, (t.coh s.cur.coh).pcOf l =
    if s.cur.lanes.getLsbD l = true then nextPc s.cur.pc s.cur.nw else (s.coh s.cur.coh).pcOf l

/-- Word m of lane j after the lanes of `run` wrote f(l) into operand d (R157, R258): a v-register or an even-odd pair,
renamed by the lane's path. -/
def Cohort.wordAfter (k : Cohort) (d : Opnd) (wide : Bool) (run : LaneMask) (f : Nat → DWord) (m j : Nat) : Word :=
  match d with
  | .v n =>
    if run.getLsbD j = true ∧ m = k.name j n.toNat then (f j).truncate 32
    else if run.getLsbD j = true ∧ wide = true ∧ m = k.name j n.toNat + 1 then (f j).extractLsb' 32 32
    else k.v m j
  | _ => k.v m j

/-- s-register m after the same (R234, R238, R258): written once, with the lowest lane's value; s0 discards it. -/
def Cohort.sregAfter (k : Cohort) (d : Opnd) (wide : Bool) (run : LaneMask) (f : Nat → DWord) (m : Nat) : DWord :=
  match d with
  | .s n =>
    if m = n.toNat ∧ m ≠ 0 then (if wide then f (lowLane run) else ((f (lowLane run)).truncate 32).zeroExtend 64)
    else k.sreg m
  | _ => k.sreg m

/-- A handle is one no more where a result has been written over it (R342). -/
def Cohort.handleAfter (k : Cohort) (d : Opnd) (m : Nat) : Option Nat :=
  match d with
  | .s n => if m = n.toNat ∧ m ≠ 0 then none else look k.handles m
  | _ => look k.handles m

/-- A word wrote f(l) into operand d for the lanes of `run`, raised numeric flags, and left everything else as it was:
every other register, predicate and cohort, memory, and every other piece of the state. -/
structure State.Wrote (s t : State) (d : Opnd) (wide : Bool) (run : LaneMask) (f : Nat → DWord) (fl : NFlags) : Prop where
  rest : s.Elsewhere t s.cur.coh
  goes : s.GoesOn t
  frame : (t.coh s.cur.coh).frame = (s.coh s.cur.coh).frame
  v : ∀ m, ∀ j < 32, (t.coh s.cur.coh).v m j = (s.coh s.cur.coh).wordAfter d wide run f m j
  sreg : ∀ m, (t.coh s.cur.coh).sreg m = (s.coh s.cur.coh).sregAfter d wide run f m
  handle : ∀ m, look (t.coh s.cur.coh).handles m = (s.coh s.cur.coh).handleAfter d m
  pred : ∀ p, ∀ l < 32, (t.coh s.cur.coh).pred p l true = (s.coh s.cur.coh).pred p l true
  flags : (t.coh s.cur.coh).nflags = (s.coh s.cur.coh).nflags ||| fl

/-- A word wrote predicate p for the lanes of `run`, raised numeric flags, and left everything else as it was. -/
structure State.WroteP (s t : State) (p : Nat) (run : LaneMask) (f : Nat → Bool) (fl : NFlags) : Prop where
  rest : s.Elsewhere t s.cur.coh
  goes : s.GoesOn t
  frame : (t.coh s.cur.coh).frame = (s.coh s.cur.coh).frame
  v : ∀ m, ∀ j < 32, (t.coh s.cur.coh).v m j = (s.coh s.cur.coh).v m j
  sreg : ∀ m, (t.coh s.cur.coh).sreg m = (s.coh s.cur.coh).sreg m
  handle : ∀ m, look (t.coh s.cur.coh).handles m = look (s.coh s.cur.coh).handles m
  pred : ∀ q, ∀ l < 32, (t.coh s.cur.coh).pred q l true =
    if q = p ∧ q ≠ 7 ∧ run.getLsbD l = true then f l else (s.coh s.cur.coh).pred q l true
  flags : (t.coh s.cur.coh).nflags = (s.coh s.cur.coh).nflags ||| fl

/-! ### What a word that computes claims -/

/-- An operand of the issuing word in lane l (R234, R257). -/
def State.arg (s : State) (o : Opnd) (wide : Bool) (l : Nat) : DWord := s.val s.cur.coh o wide l

/-- What a word with one, two or three sources of one width and a destination of that width needs. -/
def need1 (r : R3) (w : Bool) : Need := .of r.g [(r.d, wordsOf w)] [(r.a, wordsOf w)]
def need2 (r : R3) (w : Bool) : Need := .of r.g [(r.d, wordsOf w)] [(r.a, wordsOf w), (r.b, wordsOf w)]
def need3 (r : R3) (w : Bool) : Need :=
  .of r.g [(r.d, wordsOf w)] [(r.a, wordsOf w), (r.b, wordsOf w), (r.c, wordsOf w)]

/-- Wherever it can issue, i completes: each active lane's f(l) goes into d, from values read before any is written (R7,
R258), the lanes go on, and nothing else changes. -/
def Computes (i : Instr) (n : Need) (d : Opnd) (wide : Bool) (f : State → Nat → DWord) : Prop :=
  ∀ s : State, s.CanIssue n → Gives (exec i s) (fun t => s.Wrote t d wide (s.active n.g) (f s) 0)

/-- The flags of some lanes, merged (R208). -/
def mergeFlags (run : LaneMask) (f : Nat → NFlags) : NFlags := (lanesOf run).foldl (fun a l => a ||| f l) 0

/-- The same, with the numeric flags of the lanes that were computed merged into sr.nflags (R208, R238, R262). -/
def ComputesF (i : Instr) (n : Need) (d : Opnd) (wide : Bool) (f : State → Nat → DWord × NFlags) : Prop :=
  ∀ s : State, s.CanIssue n → Gives (exec i s) (fun t =>
    s.Wrote t d wide (s.active n.g) (fun l => (f s l).1) (mergeFlags (once d (s.active n.g)) (fun l => (f s l).2)))

/-- The same for a word that writes predicate p. -/
def ComputesP (i : Instr) (n : Need) (p : BitVec 3) (f : State → Nat → Bool × NFlags) : Prop :=
  ∀ s : State, s.CanIssue n → Gives (exec i s) (fun t =>
    s.WroteP t p.toNat (s.active n.g) (fun l => (f s l).1) (mergeFlags (s.active n.g) (fun l => (f s l).2)))

/-! ### Arithmetic of a width, said with bit vectors of that width -/

/-- An operation on the low 32 bits, zero-extended, or on all 64. -/
def at1 (w : Bool) (f : ∀ {n : Nat}, BitVec n → BitVec n) (x : DWord) : DWord :=
  if w then f x else (f (x.truncate 32)).zeroExtend 64

def at2 (w : Bool) (f : ∀ {n : Nat}, BitVec n → BitVec n → BitVec n) (x y : DWord) : DWord :=
  if w then f x y else (f (x.truncate 32) (y.truncate 32)).zeroExtend 64

def at3 (w : Bool) (f : ∀ {n : Nat}, BitVec n → BitVec n → BitVec n → BitVec n) (x y z : DWord) : DWord :=
  if w then f x y z else (f (x.truncate 32) (y.truncate 32) (z.truncate 32)).zeroExtend 64

/-- ext(x) of R264. -/
def num (u w : Bool) (x : DWord) : Int :=
  match u, w with
  | true, true => x.toNat
  | true, false => (x.truncate 32).toNat
  | false, true => x.toInt
  | false, false => (x.truncate 32).toInt

/-- The exact result clamped once to the range of R263. -/
def clamped (u w : Bool) (i : Int) : DWord :=
  let lo : Int := if u then 0 else if w then -0x8000000000000000 else -0x80000000
  let hi : Int := if u then (if w then 0xFFFFFFFFFFFFFFFF else 0xFFFFFFFF)
    else if w then 0x7FFFFFFFFFFFFFFF else 0x7FFFFFFF
  let v := if i < lo then lo else if hi < i then hi else i
  if w then BitVec.ofInt 64 v else (BitVec.ofInt 32 v).zeroExtend 64

/-- bfx of R268 at one width. -/
def bfxAt (u : Bool) {n : Nat} (a ctl : BitVec n) : BitVec n :=
  let pos := ctl.toNat % 64
  let len := min (ctl.toNat / 256 % 128) (n - pos)
  if n ≤ pos ∨ len = 0 then 0
  else if u then (a.extractLsb' pos len).zeroExtend n else (a.extractLsb' pos len).signExtend n

/-- bfi of R268 at one width. -/
def bfiAt {n : Nat} (a b ctl : BitVec n) : BitVec n :=
  let pos := ctl.toNat % 64
  let len := min (ctl.toNat / 256 % 128) (n - pos)
  let field := (BitVec.allOnes len).zeroExtend n <<< pos
  if n ≤ pos ∨ len = 0 then a else (a &&& ~~~field) ||| ((b <<< pos) &&& field)

/-- Byte i of perm of R268. -/
def permByte (a b c : Word) (i : Nat) : Byte :=
  let x := (b ++ a).extractLsb' (8 * (c.extractLsb' (4 * i) 3).toNat) 8
  if c.getLsbD (4 * i + 3) then (if x.msb then 0xFF else 0) else x

/-! ### Floating point -/

/-- The mode in which a lane rounds: under SR with the draw for its element index and index operand (R206). -/
def State.modeAt (s : State) (rnd : Rnd) (sat ftz : Bool) (l j : Nat) : RMode :=
  ⟨rnd, sat, ftz, if rnd = .sr then s.draw s.cur.coh l j else 0⟩

/-- The mode of a word whose C field is the index operand under SR (R259). -/
def State.mode (s : State) (m : FMod) (r : R3) (l : Nat) : RMode :=
  s.modeAt m.rnd m.sat m.ftz l (if m.rnd = .sr then (s.arg r.c false l).toNat % 2 ^ 32 else 0)

/-- What a word with an index operand under SR needs (R259). -/
def needIdx (r : R3) (src : List (Opnd × Bool)) (rnd : Rnd) (wide : Bool) : Need :=
  .of r.g [(r.d, wordsOf wide)] (src.map (fun e => (e.1, wordsOf e.2)) ++ (if rnd = .sr then [(r.c, 1)] else []))

/-- The value of a finite pattern. -/
def FVal.rat : FVal → Option Rat
  | .fin neg m e => some ((if neg then -1 else 1) * m * (2 : Rat) ^ e)
  | .inf _ => none
  | .nan _ => none

/-- An exact value: (−1)^neg · n/d · 2^e. -/
def Exact.rat (x : Exact) : Rat := (if x.neg then -1 else 1) * (x.n : Rat) / x.d * (2 : Rat) ^ x.e

/-- The low w bits as an integer, signed or not. -/
def lowInt (w : Nat) (sg : Bool) (x : DWord) : Int := if sg then (x.truncate w).toInt else (x.truncate w).toNat

/-! ### Lane words -/

/-- The better of some values by a test, the first of equals. -/
def bestBy (lt : DWord → DWord → Bool) : List DWord → DWord
  | [] => 0
  | y :: ys => ys.foldl (fun m x => if lt x m then x else m) y

/-- The reduction of R283 of some lanes' values: `xs` as integers, `fs` as floating values. -/
def reduced (op : LaneOp) (u w : Bool) (md : RMode) (xs : List DWord) (fs : List FVal) : DWord × NFlags :=
  match op with
  | .iadd => (xs.foldl (at2 w (· + ·)) 0, 0)
  | .imin => (bestBy (fun x y => num u w x < num u w y) xs, 0)
  | .imax => (bestBy (fun x y => num u w y < num u w x) xs, 0)
  | .and => (xs.foldl (· &&& ·) (if w then BitVec.allOnes 64 else 0xFFFFFFFF), 0)
  | .or => (xs.foldl (· ||| ·) 0, 0)
  | .xor => (xs.foldl (· ^^^ ·) 0, 0)
  | .fadd => fres ((fmtF w).sum md true fs)
  | .fmin => fres (Fmt.minmaxAll (fmtF w) false fs)
  | .fmax => fres (Fmt.minmaxAll (fmtF w) true fs)

/-- The identities of R284. -/
def identity (op : LaneOp) (u w : Bool) : DWord :=
  match op with
  | .iadd => 0
  | .or => 0
  | .xor => 0
  | .and => if w then 0xFFFFFFFFFFFFFFFF else 0xFFFFFFFF
  | .imin => if u then (if w then 0xFFFFFFFFFFFFFFFF else 0xFFFFFFFF) else if w then 0x7FFFFFFFFFFFFFFF else 0x7FFFFFFF
  | .imax => if u then 0 else if w then 0x8000000000000000 else 0x80000000
  | .fadd => if w then 0x8000000000000000 else 0x80000000
  | .fmin => if w then 0x7FF0000000000000 else 0x7F800000
  | .fmax => if w then 0xFFF0000000000000 else 0xFF800000

/-- Source a of some lanes, reduced in the rounding mode of lane `at_`. -/
def State.reduce (s : State) (r : R3) (op : LaneOp) (w u : Bool) (rnd : Rnd) (at_ : Nat) (ls : List Nat) : DWord × NFlags :=
  reduced op u w (s.modeAt rnd false false at_ (if rnd = .sr then (s.arg r.c false at_).toNat % 2 ^ 32 else 0))
    (ls.map (s.arg r.a w)) (ls.map (s.fval s.cur.coh r.a (fmtF w) w))

/-! ### Operations in flight -/

/-- A flagged operation has started (R229, R231): it stands in flight under the next number, its flag counts one more, an
s-register that it will write is no handle any more, the group goes on, and nothing else changes but that earlier
operations lose the registers it names, that the word's waits are forgotten, and that the core's TLB takes what its cluster's
TLB served (R39). -/
structure State.Began (s t : State) (o : Op) : Prop where
  op : look t.ops (t.fresh - 1) = some o
  fresh : s.fresh < t.fresh
  others : ∀ i, i ≠ t.fresh - 1 → (look t.ops i).map Op.body = (look s.ops i).map Op.body
  rest : t = { s with
    cohorts := t.cohorts
    cores := t.cores
    ops := t.ops
    fresh := t.fresh
    walks := t.walks
    transit := t.transit }
  cores : ∀ j, t.core j = { s.core j with tlb := (t.core j).tlb }
  tlbs : ∀ j, ∀ e ∈ (t.core j).tlb, e ∈ (s.core j).tlb ∨
    (j = s.cohCore s.cur.coh ∧ e ∈ getD s.cluTlb (clusterOf j) [])
  waits : (∀ w ∈ t.walks, w ∈ s.walks) ∧ (∀ w ∈ t.transit, w ∈ s.transit)
  cohorts : ∀ j, j ≠ s.cur.coh → t.coh j = s.coh j
  goes : s.GoesOn t
  frame : { (t.coh s.cur.coh).frame with cf := [] } = { (s.coh s.cur.coh).frame with cf := [] }
  v : ∀ m, ∀ j < 32, (t.coh s.cur.coh).v m j = (s.coh s.cur.coh).v m j
  sreg : ∀ m, (t.coh s.cur.coh).sreg m = (s.coh s.cur.coh).sreg m
  pred : ∀ p, ∀ l < 32, (t.coh s.cur.coh).pred p l true = (s.coh s.cur.coh).pred p l true
  nflags : (t.coh s.cur.coh).nflags = (s.coh s.cur.coh).nflags
  handle : ∀ m, look (t.coh s.cur.coh).handles m =
    if ∃ e ∈ o.dst, e.1 = .s m then none else look (s.coh s.cur.coh).handles m
  flag : ∀ i, getD (t.coh s.cur.coh).cf i 0 = getD (s.coh s.cur.coh).cf i 0 + (if o.flag = some i then 1 else 0)

/-- The operation belongs to the issuing word and its flag select. -/
structure State.OfWord (s : State) (o : Op) (f : FlagSel) : Prop where
  coh : o.coh = s.cur.coh
  core : o.core = s.cohCore s.cur.coh
  part : o.part = s.cohPart s.cur.coh
  pc : o.pc = s.cur.pc
  flag : o.flag = s.flagOf f
  next : o.next = nextPc s.cur.pc s.cur.nw

/-- Wherever it can issue, i starts a flagged operation whose result for each lane is v(l), with its numeric flags; they
reach the registers as it completes (R229, R262, R279). -/
def Starts (i : Instr) (n : Need) (d : Opnd) (wide : Bool) (v : State → Nat → DWord × NFlags) : Prop :=
  ∀ s : State, s.CanIssue n → Gives (exec i s) (fun t => ∃ o, s.Began t o ∧ s.OfWord o n.flag ∧ o.kind = .comp ∧
    o.lanes = once d (s.active n.g) ∧ o.dst = s.dstOf s.cur.coh d (wordsOf wide) (s.active n.g) ∧
    ∀ l < 32, o.lanes.getLsbD l = true → ∃ a, look o.acc l = some a ∧
      a.x = (v s l).1.zeroExtend 128 ∧ a.cmp = (v s l).2.zeroExtend 128)

/-- The quotient or the remainder of R265, with its flag. -/
def quotient (rem u w : Bool) (x y : DWord) : DWord × NFlags :=
  if num u w y = 0 then (if rem then x else if w then 0xFFFFFFFFFFFFFFFF else 0xFFFFFFFF, fDZ)
  else
    (if rem then at2 w (fun p q => if u then p % q else p.srem q) x y
     else at2 w (fun p q => if u then p / q else p.sdiv q) x y, 0)

/-! ### Where lanes go -/

/-- The group's active lanes have gone to their targets and its other lanes to the next word (R288); f(l) is written into
d as a result (R290, R292); nothing else changes. -/
structure State.Went (s t : State) (run : LaneMask) (tgt : Nat → DWord) (d : Opnd) (f : Nat → DWord) : Prop where
  rest : t = { s with
    cohorts := t.cohorts
    ops := t.ops
    cur := t.cur }
  ops : t.ops.map (fun o => (o.1, o.2.body)) = s.ops.map (fun o => (o.1, o.2.body))
  others : ∀ j, j ≠ s.cur.coh → t.coh j = s.coh j
  goes : ∀ l < 32, (t.coh s.cur.coh).pcOf l =
    if run.getLsbD l = true then tgt l
    else if s.cur.lanes.getLsbD l = true then nextPc s.cur.pc s.cur.nw else (s.coh s.cur.coh).pcOf l
  frame : (t.coh s.cur.coh).frame = (s.coh s.cur.coh).frame
  v : ∀ m, ∀ j < 32, (t.coh s.cur.coh).v m j = (s.coh s.cur.coh).wordAfter d true run f m j
  sreg : ∀ m, (t.coh s.cur.coh).sreg m = (s.coh s.cur.coh).sregAfter d true run f m
  handle : ∀ m, look (t.coh s.cur.coh).handles m = (s.coh s.cur.coh).handleAfter d m
  pred : ∀ p, ∀ l < 32, (t.coh s.cur.coh).pred p l true = (s.coh s.cur.coh).pred p l true
  nflags : (t.coh s.cur.coh).nflags = (s.coh s.cur.coh).nflags

/-- The word had no effect but that its group goes on. -/
structure State.Quiet (s t : State) : Prop where
  rest : t = { s with cohorts := t.cohorts }
  others : ∀ j, j ≠ s.cur.coh → t.coh j = s.coh j
  goes : s.GoesOn t
  bare : (t.coh s.cur.coh).bare = (s.coh s.cur.coh).bare

/-- In a region the lanes of each path agree on where they go, inactive ones going to the next word (R159). -/
def State.Agrees (s : State) (run : LaneMask) (tgt : Nat → DWord) : Prop :=
  let k := s.coh s.cur.coh
  let dest := fun l => if run.getLsbD l = true then tgt l else nextPc s.cur.pc s.cur.nw
  ∀ l < 32, ∀ j < 32, s.cur.lanes.getLsbD l = true → s.cur.lanes.getLsbD j = true →
    k.inRegion l = true → k.inRegion j = true → k.path.getLsbD l = k.path.getLsbD j → dest l = dest j

/-- CA + sext(offset) · 64 + index · 8 (R233). -/
def State.label (s : State) (off : BitVec 32) (idx : BitVec 3) : DWord :=
  (s.cur.pc &&& ~~~63#64) + off.signExtend 64 * 64 + idx.zeroExtend 64 * 8

/-- What a control word needs: a guard, some 64-bit sources, a link. -/
def ctlNeed (g : Guard) (src dst : List Opnd) : Need :=
  ⟨g, dst.map (fun o => (o, 2)) ++ src.map (fun o => (o, 2)), sregsOf src, .off, false, none⟩

/-- What a word without operands needs; some are banned from meld regions or abort a speculative lane. -/
def bareNeed (g : Guard) (ban : Bool) (dis : Option (BitVec 8)) : Need := ⟨g, [], [], .off, ban, dis⟩

/-- The word of the issuing group does not issue. -/
def Stalls (i : Instr) (s : State) : Prop := Gives (exec i s) (fun t => t.cur.stall = true)

/-- The registers of every cohort are as before. -/
def State.SameRegs (s t : State) : Prop :=
  ∀ j, (t.coh j).regs = (s.coh j).regs ∧ (t.coh j).sregs = (s.coh j).sregs ∧ (t.coh j).preds = (s.coh j).preds

/-! ### Traps -/

/-- The lanes of m have been parked at pc by one record with the next trap identifier T of their partition (R46, R370,
R371), which waits to be written; the record holds KIND 1, the cause, the subcode, the lane mask, VA and DETAIL. No
register changes. -/
structure State.Trapped (s t : State) (m : LaneMask) (pc : DWord) (cause sub : Nat) (va : DWord) (detail : Nat) : Prop where
  parked : (t.coh s.cur.coh).parked = (s.coh s.cur.coh).parked ||| m
  tids : ∀ l < 32, m.getLsbD l = true →
    look (t.coh s.cur.coh).tid l = some (getD s.traps.nextTid (s.cohPart s.cur.coh) 0)
  stay : ∀ l < 32, m.getLsbD l = true → (t.coh s.cur.coh).pcOf l = (s.coh s.cur.coh).pcOf l
  next : getD t.traps.nextTid (s.cohPart s.cur.coh) 0 = (getD s.traps.nextTid (s.cohPart s.cur.coh) 0 + 1) % 2 ^ 32
  regs : s.SameRegs t
  mem : t.mem = s.mem ∧ t.bank = s.bank
  wrote : ∃ r, t.traps.pend = s.traps.pend ++ [r] ∧
    r.part = s.cohPart s.cur.coh ∧ r.tid = getD s.traps.nextTid (s.cohPart s.cur.coh) 0 ∧ r.source = s.cohCore s.cur.coh ∧
    ∃ w0 w1 w2 w4 w5 w7, r.words = [w0, w1, w2, pc, w4, w5, va, w7] ∧
      w0.extractLsb' 0 8 = 1 ∧ w0.extractLsb' 8 8 = BitVec.ofNat 8 cause ∧ w0.extractLsb' 16 8 = BitVec.ofNat 8 sub ∧
      w0.extractLsb' 40 16 = BitVec.ofNat 16 (s.cohCore s.cur.coh) ∧
      w1.extractLsb' 0 32 = BitVec.ofNat 32 r.tid ∧ w1.extractLsb' 32 32 = BitVec.ofNat 32 (s.cohBlk s.cur.coh).blk ∧
      w4.extractLsb' 0 32 = m ∧ w7.extractLsb' 0 32 = BitVec.ofNat 32 detail ∧
      w7.extractLsb' 32 32 = BitVec.ofNat 32 (s.cohGrd s.cur.coh).serial

/-- Cohort j is the next holder of the pipe after c in a deterministic block (R192): of the cohorts of the block on that
pipe that live and wait at no barrier, the one with the least index above c's. -/
def State.NextOnPipe (s : State) (c j : Nat) : Prop :=
  let mate := fun (m : Nat) => ∃ e ∈ s.cohsOf (s.coh c).block, e.1 = m ∧ e.2.pipe = (s.coh c).pipe ∧
    e.2.live &&& ~~~e.2.exited ≠ 0 ∧ e.2.barHold = []
  sorted s.cohorts = true ∧ (look s.cohorts j).isSome = true ∧ mate j ∧ (s.coh c).idx < (s.coh j).idx ∧
    ∀ e ∈ s.cohorts, e.1 ≠ j → mate e.1 → (s.coh c).idx < e.2.idx → (s.coh j).idx < e.2.idx

/-! ### Memory words -/

/-- The address of lane l (R237, R313): base + index + sext(offset) · size, within a window for spaces 1 to 4. -/
def State.addr (s : State) (m : MArgs) (idx : Option Opnd) (off : DWord) (l : Nat) : Nat :=
  let i : DWord := match idx with | some o => ((s.arg o false l).truncate 32 : Word).signExtend 64 | none => 0
  let a := s.arg m.base true l + i + off * BitVec.ofNat 64 m.ty.bytes
  match m.sp with
  | .gen => a.toNat
  | .scr => 0x00F0000000000000 + a.toNat % 2 ^ 32
  | .peer => 0x00F1000000000000 + a.toNat % 2 ^ 32
  | .reg => 0x00F2000000000000 + a.toNat % 2 ^ 32
  | .vault => 0x00F4000000000000 + a.toNat % 2 ^ 32

/-- What an access of lane l comes to: `pre` are causes known from the address, `post` those known from the location. -/
def State.seek (s : State) (kind : Nat) (va n : Nat) (pre : List Nat) (post : List Seg → List Nat → List Nat) (l : Nat) :
    LaneRes := s.laneRes l kind ((s.coh s.cur.coh).spec l) va n pre post

/-- The access passes every check (R45, R46) and need not wait for a walk (R40), a peer (R66) or a scratchpad line
(R63). -/
structure State.Reaches (s : State) (r : LaneRes) : Prop where
  cause : r.cause = 0
  walks : r.walks = []
  peers : r.peers = []
  cross : r.cross = false
  lines : ∀ g ∈ r.segs, s.absentLines g = []

/-- The same, outside the issuing cohort's own register window. -/
structure State.Passes (s : State) (r : LaneRes) : Prop extends s.Reaches r where
  own : ∀ g ∈ r.segs, g.loc ≠ .reg s.cur.coh

/-- The access is settled as the word issues: it passes, or fails with a cause of R45's order. -/
structure State.Settled (s : State) (r : LaneRes) : Prop where
  good : r.cause = 0 → s.Passes r
  bad : r.cause ≠ 0 → r.cause ∈ causeOrder ∧ r.walks = [] ∧ r.peers = [] ∧ r.cross = false

/-- The lanes of the issuing word whose access fails have been parked at it, those of one cause by one record with KIND 1,
the cause, the access, the lane mask and the lowest lane's address; every other lane of the group has gone on (R45, R46,
R370, R371). No register changes, and no memory but by the error log. -/
structure State.Split (s t : State) (run : LaneMask) (access : Nat) (res : Nat → LaneRes) : Prop where
  parked : ∀ l < 32, (t.coh s.cur.coh).parked.getLsbD l =
    ((s.coh s.cur.coh).parked.getLsbD l || (run.getLsbD l && (res l).cause != 0))
  stay : ∀ l < 32, run.getLsbD l = true → (res l).cause ≠ 0 → (t.coh s.cur.coh).pcOf l = (s.coh s.cur.coh).pcOf l
  goes : ∀ l < 32, s.cur.lanes.getLsbD l = true → (run.getLsbD l = true → (res l).cause = 0) →
    (t.coh s.cur.coh).pcOf l = nextPc s.cur.pc s.cur.nw
  regs : s.SameRegs t
  mem : (∀ l < 32, run.getLsbD l = true → (res l).cause ≠ 0x23) → t.mem = s.mem ∧ t.bank = s.bank
  records : ∀ l < 32, run.getLsbD l = true → (res l).cause ≠ 0 → ∃ r ∈ t.traps.pend,
    look (t.coh s.cur.coh).tid l = some r.tid ∧ r.part = s.cohPart s.cur.coh ∧ r.source = s.cohCore s.cur.coh ∧
    ∃ w0 w1 w2 w4 w5 va w7, r.words = [w0, w1, w2, s.cur.pc, w4, w5, va, w7] ∧
      w0.extractLsb' 0 8 = 1 ∧ w0.extractLsb' 8 8 = BitVec.ofNat 8 (res l).cause ∧
      w0.extractLsb' 24 8 = BitVec.ofNat 8 access ∧ w1.extractLsb' 0 32 = BitVec.ofNat 32 r.tid ∧
      (∀ j < 32, w4.getLsbD j = (run.getLsbD j && (res j).cause != 0 && (res j).cause % 256 == (res l).cause % 256)) ∧
      va = BitVec.ofNat 64 (res (lowLane (w4.truncate 32))).va

/-- Where lanes may trap at the issuing word: its lanes stand there, none waits for an operation, none is in a speculative
attempt. -/
structure State.MayTrap (s : State) (run : LaneMask) : Prop where
  here : ∀ l < 32, s.cur.lanes.getLsbD l = true → (s.coh s.cur.coh).pcOf l = s.cur.pc
  free : s.opHeld s.cur.coh &&& s.cur.lanes = 0
  tid : getD s.traps.nextTid (s.cohPart s.cur.coh) 0 < 2 ^ 32
  plain : ∀ l < 32, run.getLsbD l = true → (s.coh s.cur.coh).spec l = false

/-- The pieces in which an access of n bytes at an address is performed (R100): a load or store of 16 aligned bytes outside
scratchpad, windows and vaults in two halves, a misaligned one byte by byte, any other access as it lies. -/
def cut (k : OpKind) (va n : Nat) (gs : List Seg) : List Seg :=
  if k ≠ .load ∧ k ≠ .store then gs
  else if va % n ≠ 0 then gs.flatMap (fun g => (List.range g.n).map (fun i => ⟨g.loc, g.a + i, 1, g.l1⟩))
  else gs.flatMap (fun g =>
    if n = 16 ∧ g.n = 16 ∧ g.loc = .mem ∧ regionOf (paOff g.a) ≠ .vault then [⟨.mem, g.a, 8, g.l1⟩, ⟨.mem, g.a + 8, 8, g.l1⟩]
    else [g])

/-- Lane l's part of an operation: its address, its pieces, its data, its attempt. -/
def Op.HasPart (o : Op) (s : State) (r : LaneRes) (l : Nat) (x cmp : BitVec 128) : Prop :=
  look o.acc l = some ⟨r.va,
    if s.txOfAcc s.cur.coh l r.segs = 0 then cut o.kind r.va o.ty.bytes r.segs else r.segs, x, cmp,
    s.txOfAcc s.cur.coh l r.segs⟩

/-- Lanes whose access a memory word makes: of a word that executes once (R238) the lowest lane without a transaction, for
all of those, and each lane whose access is transactional (R136). -/
def accLanes (tx : Nat → Bool) (one : Bool) (run : LaneMask) : LaneMask :=
  if one then maskOf (fun l => run.getLsbD l && (tx l || l == lowLane (maskOf (fun j => run.getLsbD j && !tx j)))) else run

/-- The lanes of `run` whose access passes. -/
def goodLanes (run : LaneMask) (res : Nat → LaneRes) : LaneMask := maskOf (fun l => run.getLsbD l && (res l).cause == 0)

/-- What the bytes of some segments hold for a thread of cohort c that reads them at their homes: memory, a core's scratchpad
rows, a register window (R55). -/
def State.seen (s : State) (c : Nat) (gs : List Seg) : Nat :=
  gs.foldr (fun g v => (match g.loc with
    | .mem => getBytes s.mem g.a g.n
    | .bank k => getBytes s.bank (k * 0x180000 + g.a) g.n
    | .reg j => (s.coh j).winGet (j == c) g.a g.n) + 2 ^ (8 * g.n) * v) 0

/-- Alignment of an atomic (R315). -/
def aligned (n va : Nat) : List Nat := if va % n = 0 then [] else [0x119]

/-! ### What lanes have performed -/

/-- The cohort is not one whose results go to an eviction area as well (R190). -/
def State.NoArea (s : State) (c : Nat) : Prop :=
  (s.coh c).place = .evicted → look s.ctl.evictArea (s.cohPart c) = none

/-- Lane l's part `a` of operation i is next to be performed: nothing holds it (R12, R97, R99, R101, R223), the channel
serves no other partition first (R92), no release set must be pulled first (R106), its data is undamaged (R370), and it
belongs to no transaction. -/
structure State.Performs (s : State) (i l : Nat) (o : Op) (a : LaneAcc) : Prop where
  op : look s.ops i = some o
  part : look o.acc l = some a
  lane : l < 32 ∧ o.lanes.getLsbD l = true
  there : (look s.cohorts o.coh).isSome = true
  free : s.laneBlocked i o l = false
  turn : s.arbiterHolds o a = false
  pull : s.pulling i l = false ∧ s.pullsOf o a = []
  good : s.lateBad o a = none
  plain : a.tx = 0
  /-- No engine write is on its way where the access goes to another package (R12). -/
  sent : (s.ewr.any (fun w => w.route.any (fun x => (s.routes a).contains (x.1, some x.2)))) = false
  /-- No barrier phase of a deterministic grid completes by the end of the operation or of the cohort (R301, R305). -/
  calm : (s.grd (s.blk (s.coh o.coh).block).grid).det = false ∨
    ((s.coh o.coh).live &&& ~~~(s.coh o.coh).exited ≠ 0 ∧ ∀ i < 16, ((s.blk (s.coh o.coh).block).bar i).arrived = 0)
  once : ((o.dst.filter (fun e => e.2.1 == l)).map (·.1)).Nodup
  area : s.NoArea o.coh

/-- The block of an operation's cohort does not exit as the operation ends, so that its rows keep an owner (R60, R65). -/
def State.Stays (s : State) (o : Op) : Prop :=
  (s.blk (s.coh o.coh).block).exited = true ∨ ∃ e ∈ s.cohsOf (s.coh o.coh).block, e.2.live &&& ~~~e.2.exited ≠ 0

/-- Lanes m of operation i are done (R229): it counts the others; with the last lane it leaves and its flag falls. -/
structure State.LanesDone (s t : State) (i : Nat) (o : Op) (m : LaneMask) : Prop where
  left : (look t.ops i).map Op.lanes = if o.lanes &&& ~~~m = 0 then none else some (o.lanes &&& ~~~m)
  flag : ∀ f, getD (t.coh o.coh).cf f 0 =
    getD (s.coh o.coh).cf f 0 - (if o.lanes &&& ~~~m = 0 ∧ o.flag = some f then 1 else 0)

/-- Lane l's result w has been bound (R229, R231): each destination word that the operation still names for the lane
holds its word of w; every other register of every cohort is as before. -/
structure State.Bound (s t : State) (o : Op) (l : Nat) (w : BitVec 160) : Prop where
  v : ∀ m, ∀ j < 32, (t.coh o.coh).v m j =
    match o.dst.find? (fun e => e.1 == .v (32 * m + j) && e.2.1 == l) with
    | some e => w.extractLsb' (32 * e.2.2) 32
    | none => (s.coh o.coh).v m j
  sreg : ∀ m, m ≠ 0 → (t.coh o.coh).sreg m =
    match o.dst.find? (fun e => e.1 == .s m && e.2.1 == l) with
    | some _ => w.truncate 64
    | none => (s.coh o.coh).sreg m
  others : ∀ j, j ≠ o.coh → (t.coh j).regs = (s.coh j).regs ∧ (t.coh j).sregs = (s.coh j).sregs
  preds : ∀ j, (t.coh j).preds = (s.coh j).preds

/-- Placement of loaded bytes in a register by type (R314). -/
def placed (t : MType) (v : Nat) : BitVec 160 :=
  match t with
  | .s8 => ((BitVec.ofNat 8 v).signExtend 128).zeroExtend 160
  | .s16 => ((BitVec.ofNat 16 v).signExtend 128).zeroExtend 160
  | .s32 => ((BitVec.ofNat 32 v).signExtend 128).zeroExtend 160
  | _ => BitVec.ofNat 160 v

/-- The new value of R318 at a location of w bits. -/
def newValue (op : AOp) (t : MType) (w : Nat) (old x : BitVec w) : BitVec w :=
  let sg := t == .s8 || t == .s16 || t == .s32 || t == .s64
  match op with
  | .add => old + x
  | .min => if (if sg then old.sle x else old ≤ x) then old else x
  | .max => if (if sg then old.sle x else old ≤ x) then x else old
  | .and => old &&& x
  | .or => old ||| x
  | .xor => old ^^^ x
  | .exch => x
  | .inc => if x ≤ old then 0 else old + 1
  | .dec => if old = 0 ∨ x < old then x else old - 1
  | .fadd => BitVec.ofNat w ((fmtTy t).add .rne ((fmtTy t).dec old.toNat) ((fmtTy t).dec x.toNat)).1
  | .fmin => BitVec.ofNat w ((fmtTy t).minmax false false ((fmtTy t).dec old.toNat) ((fmtTy t).dec x.toNat)).1
  | .fmax => BitVec.ofNat w ((fmtTy t).minmax true false ((fmtTy t).dec old.toNat) ((fmtTy t).dec x.toNat)).1

/-- The bytes of an access that lies in one piece of a scratchpad, or of memory that the L1 does not hold (R76): the store
and where they lie in it. -/
def Seg.plain (g : Seg) (s : State) : Option (List Host.Cell × Nat) :=
  match g.loc with
  | .bank k => some (s.bank, k * 0x180000 + g.a)
  | .mem => if g.l1 then none else some (s.mem, g.a)
  | .reg _ => none

/-- What n bytes at a place of a scratchpad or of such memory hold. -/
def Seg.bytes (g : Seg) (s : State) : Nat := match g.plain s with | some p => getBytes p.1 p.2 g.n | none => 0

/-- The two byte stores after the bytes of such a segment became v: every other byte reads as before, bytes of a scratchpad
under the condition `calm`. -/
def State.StoredAt (s t : State) (g : Seg) (v : Nat) (calm : Prop) : Prop :=
  match g.loc with
  | .bank k => t.mem = s.mem ∧ (calm → ∀ a, getD t.bank a 0 =
      if k * 0x180000 + g.a ≤ a ∧ a < k * 0x180000 + g.a + g.n then BitVec.ofNat 8 (v >>> (8 * (a - (k * 0x180000 + g.a))))
      else getD s.bank a 0)
  | .mem => (calm → t.bank = s.bank) ∧ ∀ a, getD t.mem a 0 =
      if g.a ≤ a ∧ a < g.a + g.n then BitVec.ofNat 8 (v >>> (8 * (a - g.a))) else getD s.mem a 0
  | .reg _ => True

/-! ### Transactions -/

/-- The fields of a status word (R144): FB, FAILS, SUB, CODE. -/
def statusWord (fb : Bool) (fails : Nat) (sub code : BitVec 8) : Word :=
  (if fb then 0x100000 else 0) ||| (BitVec.ofNat 32 (min fails 15) <<< 16) ||| (sub.zeroExtend 32 <<< 8) ||| code.zeroExtend 32

/-- A v-register of some lanes holds w after the word, and no other register of any cohort has changed. -/
def State.StatusIn (s t : State) (n : Nat) (run : LaneMask) (w : Nat → Word) : Prop :=
  (∀ m, ∀ j < 32, (t.coh s.cur.coh).v m j =
    if run.getLsbD j = true ∧ m = (s.coh s.cur.coh).name j n then w j else (s.coh s.cur.coh).v m j) ∧
  (∀ j, j ≠ s.cur.coh → (t.coh j).regs = (s.coh j).regs) ∧
  ∀ j, (t.coh j).sregs = (s.coh j).sregs ∧ (t.coh j).preds = (s.coh j).preds

/-- Nothing of the partition is dirty in the L1 of the issuing core. -/
def State.Clean (s : State) : Prop := s.dirtySectors (s.cohCore s.cur.coh) (s.cohPart s.cur.coh) = []
/-! ### Paired words -/

/-- The value of a half in lane l, and its numeric flags (R241): d and b are its sources, m its modifier. -/
def State.halfResult (s : State) (h : Half) (l : Nat) : DWord × NFlags :=
  let d := halfD h
  let b := halfB h
  let x := s.arg d false l
  let y := s.arg b false l
  let i := fun (v : DWord) => (v, (0 : NFlags))
  let u := h.m.getLsbD 0
  let ftz := h.m.getLsbD 3
  let rnd := Rnd.ofCode (h.m.extractLsb' 0 3)
  let md := s.modeAt rnd false ftz l 0
  let f := fun (o : Opnd) => s.fsrc o false ftz l
  let raw := fun (o : Opnd) => s.fval s.cur.coh o .fp32 false l
  let half := fun (z : Bool) (o : Opnd) (k : Nat) =>
    Fmt.fp16.ftzIn z (Fmt.fp16.dec (if k = 0 then s.h2val s.cur.coh o l % 65536 else s.h2val s.cur.coh o l / 65536 % 65536))
  let both := fun (r : Rnd) (z : Bool) (op : RMode → Nat → Nat × NFlags) =>
    let p := op (s.modeAt r false z l 0) 0
    let q := op (s.modeAt r false z l 0x80000000) 1
    (BitVec.ofNat 64 (p.1 + 65536 * q.1), p.2 ||| q.2)
  match h.rop.toNat with
  | 0x01 => i (at2 false (· + ·) x y)
  | 0x02 => i (at2 false (· - ·) x y)
  | 0x03 => i (at2 false (· * ·) x y)
  | 0x04 => i (if num u false x ≤ num u false y then x else y)
  | 0x05 => i (if num u false x ≤ num u false y then y else x)
  | 0x06 => i (at2 false (· &&& ·) x y)
  | 0x07 => i (at2 false (· ||| ·) x y)
  | 0x08 => i (at2 false (· ^^^ ·) x y)
  | 0x09 => i (at2 false (fun p q => p &&& ~~~q) x y)
  | 0x0A => i (at2 false (fun {n} p q => p <<< (q.toNat % n)) x y)
  | 0x0B => i (at2 false (fun {n} p q => p >>> (q.toNat % n)) x y)
  | 0x0C => i (at2 false (fun {n} p q => p.sshiftRight (q.toNat % n)) x y)
  | 0x0D => i y
  | 0x0E => i (at2 false (· + ·) y (h.m.signExtend 64))
  | 0x0F => i (at2 false (fun {n} p q => p <<< (q.toNat % n)) y (h.m.zeroExtend 64))
  | 0x10 => i (at2 false (fun {n} p q => p >>> (q.toNat % n)) y (h.m.zeroExtend 64))
  | 0x11 => i (at2 false (fun {n} p q => p.sshiftRight (q.toNat % n)) y (h.m.zeroExtend 64))
  | 0x12 => i (if (s.coh s.cur.coh).pred (h.m.extractLsb' 0 3).toNat l false then y else x)
  | 0x18 => fres (Fmt.fp32.add md (f d) (f b))
  | 0x19 => fres (Fmt.fp32.add md (f d) (f b).flip)
  | 0x1A => fres (Fmt.fp32.mul md (f d) (f b))
  | 0x1B => fres (Fmt.fp32.minmax false ftz (raw d) (raw b))
  | 0x1C => fres (Fmt.fp32.minmax true ftz (raw d) (raw b))
  | 0x1D => fres (Fmt.fp32.fma .rne (raw b) (raw (.v h.m)) (raw d))
  | 0x1E => i ((s.bits32 b l &&& 0x7FFFFFFF).zeroExtend 64)
  | 0x1F => i ((s.bits32 b l ^^^ 0x80000000).zeroExtend 64)
  | 0x20 => both rnd ftz (fun g k => Fmt.fp16.add g (half ftz d k) (half ftz b k))
  | 0x21 => both rnd ftz (fun g k => Fmt.fp16.mul g (half ftz d k) (half ftz b k))
  | 0x22 => both .rne false (fun g k => Fmt.fp16.fma g (half false b k) (half false (.v h.m) k) (half false d k))
  | 0x30 => fres (Fmt.fp32.ofInt (s.modeAt rnd false false l 0) (lowInt 32 true y))
  | 0x31 =>
    let v := toInt rnd (s.modeAt rnd false false l 0).r (-0x80000000) 0x7FFFFFFF (raw b)
    (placeInt 32 v.1, v.2)
  | _ => fres (sfVal (h.rop.toNat - 0x28) (h.m.getLsbD 2) (s.bits32 b l))

/-- The lanes that a half acts on: its guard, and in a path-split word its path (R158, R239). -/
def State.lanesOfHalf (s : State) (h : Half) (side : Option Bool) : LaneMask :=
  maskOf (fun l => s.cur.lanes.getLsbD l && (s.coh s.cur.coh).pred h.p.toNat l true &&
    side.all (fun b => (s.coh s.cur.coh).path.getLsbD l == b))

/-- A half with a lane passes its checks (R241, R242), names registers that the cohort has (`u` renames them), reads no
handle, and its flag has room for two more. -/
structure State.HalfReady (s u : State) (h : Half) (a : LaneMask) : Prop where
  legal : halfIllegal h = 0 ∧ s.badFlag (halfFlag h) = false
  regs : ∀ l < 32, a.getLsbD l = true → ∀ e ∈ halfRegs h, u.regOk s.cur.coh l e.1 e.2 = true
  handle : s.handlePending (sregsOf [halfB h]) = false
  room : ∀ i, s.flagOf (halfFlag h) = some i → getD (s.coh s.cur.coh).cf i 0 < 62

/-- What a paired word leaves: fixed halves have written their results from values read before, flagged ones have started
their operations; nothing else has changed. `u` is the state whose renaming counts. -/
structure State.Paired (s u t : State) (h0 h1 : Half) (a0 a1 : LaneMask) : Prop where
  rest : t = { s with
    cohorts := t.cohorts
    ops := t.ops
    fresh := t.fresh
    walks := t.walks
    transit := t.transit }
  others : ∀ j, j ≠ s.cur.coh → t.coh j = s.coh j
  goes : s.GoesOn t
  frame : { (t.coh s.cur.coh).frame with cf := [] } = { (s.coh s.cur.coh).frame with cf := [] }
  v : ∀ m, ∀ j < 32, (t.coh s.cur.coh).v m j =
    if h1.rop ≠ 0 ∧ halfFlag h1 = .off ∧ a1.getLsbD j = true ∧ m = (u.coh s.cur.coh).name j h1.d.toNat
      then (u.halfResult h1 j).1.truncate 32
    else if h0.rop ≠ 0 ∧ halfFlag h0 = .off ∧ a0.getLsbD j = true ∧ m = (u.coh s.cur.coh).name j h0.d.toNat
      then (u.halfResult h0 j).1.truncate 32
    else (s.coh s.cur.coh).v m j
  sreg : ∀ m, (t.coh s.cur.coh).sreg m = (s.coh s.cur.coh).sreg m
  pred : ∀ p, ∀ l < 32, (t.coh s.cur.coh).pred p l true = (s.coh s.cur.coh).pred p l true
  nflags : (t.coh s.cur.coh).nflags = (s.coh s.cur.coh).nflags |||
    (if h0.rop ≠ 0 ∧ halfFlag h0 = .off then mergeFlags a0 (fun l => (u.halfResult h0 l).2) else 0) |||
    (if h1.rop ≠ 0 ∧ halfFlag h1 = .off then mergeFlags a1 (fun l => (u.halfResult h1 l).2) else 0)
  begun : ∀ h a, (h = h0 ∧ a = a0) ∨ (h = h1 ∧ a = a1) → halfFlag h ≠ .off → a ≠ 0 →
    (∀ j < 32, (u.coh s.cur.coh).name j h0.d.toNat ≠ (u.coh s.cur.coh).name j h1.d.toNat) ∨ (a0 &&& a1) = 0 ∨ h0.rop = 0 ∨ h1.rop = 0 →
    ∃ i o, look t.ops i = some o ∧ s.OfWord o (halfFlag h) ∧ o.kind = .comp ∧ o.lanes = a ∧
      o.dst = u.dstOf s.cur.coh (halfD h) 1 a ∧
      ∀ l < 32, a.getLsbD l = true → ∃ e, look o.acc l = some e ∧ e.x = (u.halfResult h l).1.zeroExtend 128 ∧
        e.cmp = (u.halfResult h l).2.zeroExtend 128

/-! ### Base-die harts -/

/-- Hart h has become k; no other hart, no cohort and no byte has changed. -/
structure State.HartIs (s t : State) (h : Nat) (k : Hart) : Prop where
  hart : t.hart h = k
  others : ∀ j, j ≠ h → t.hart j = s.hart j
  same : t.cohorts = s.cohorts ∧ t.mem = s.mem ∧ t.bank = s.bank

/-- Register r holds v: x0 keeps reading 0. -/
def Hart.withX (k : Hart) (r : BitVec 5) (v : DWord) : Hart := if r = 0 then k else { k with x := put k.x r.toNat v 0 }

/-- The hart as an abort with a code leaves it (R129, R144). -/
def Hart.aborted (k : Hart) (u : HartTx) (code sub : BitVec 8) : Hart := { k with
  x := if u.rd = 0 then u.ckx else put u.ckx u.rd ((statusWord false 0 sub code).zeroExtend 64) 0
  f := u.ckf
  pc := u.resume
  tx := none
  waitLock := none
  status := statusWord false 0 sub code }

/-- The hart as an exception or interrupt leaves it (R133): pc, cause and value are saved in the supervisor registers of the
world that takes it, and the pc goes to that world's vector. Arbor takes a guest's calls and the faults of its G-stage. -/
def Hart.trapped (k : Hart) (cause tval : DWord) : Hart :=
  let up := k.part < 20 ∧ cause.toNat ∈ [10, 20, 21, 23]
  let c : RvCsr := { (if k.part < 20 ∧ ¬ up then k.guest else k.host) with
    epc := k.pc
    cause := cause
    tval := tval }
  { k with
    part := if up then 31 else k.part
    guest := if k.part < 20 ∧ ¬ up then c else k.guest
    host := if k.part < 20 ∧ ¬ up then k.host else c
    spv := decide up
    pc := c.tvec &&& ~~~3#64
    waitLock := none
    resv := none }

/-- The hart outside a transaction: an open one has aborted with code pre-empted (R133). -/
def Hart.preempted (k : Hart) : Hart := match k.tx with | some u => k.aborted u 0x06 0 | none => k

/-! ### Engine commands -/

/-- The command i has been issued (R340 to R343): the op-table entry holds it under the new generation, its handle stands
in the s-register of D, the scratchpad lines it writes are absent (R62), the group goes on, and no other register, no
byte and no other cohort has changed. -/
structure State.Taken (s t : State) (e : EArgs) (i : Instr) (eng slot gen : Nat) (desc : List DWord)
    (offs : List (Nat × DWord)) (follow : Option Instr) : Prop where
  entry : ∃ o, look (t.core (s.cohCore s.cur.coh)).opt slot = some o ∧ o.gen = gen ∧ o.busy = true ∧ o.eng = eng ∧
    o.coh = s.cur.coh ∧ o.block = (s.coh s.cur.coh).block ∧ o.grid = (s.cohBlk s.cur.coh).grid ∧ o.pc = s.cur.pc ∧
    o.lanes = s.active e.g ∧ o.instr = i ∧ o.desc = desc ∧ o.offs = offs ∧ o.dreg = e.d.toNat ∧ o.st = .queued ∧
    o.follow = follow ∧ o.status = 0 ∧
    ((look s.blocks (s.coh s.cur.coh).block).isSome = true → ∀ x,
      look (t.blk (s.coh s.cur.coh).block).absent x =
        if x ∈ t.cmdLines o then some o.seq else look (s.blk (s.coh s.cur.coh).block).absent x)
  sreg : ∀ m, (t.coh s.cur.coh).sreg m =
    if m = e.d.toNat then BitVec.ofNat 64 (eng * 2 ^ 28 + gen * 2 ^ 16 + slot) else (s.coh s.cur.coh).sreg m
  handle : ∀ m, look (t.coh s.cur.coh).handles m =
    if m = e.d.toNat then some slot else look (s.coh s.cur.coh).handles m
  v : ∀ m, ∀ j < 32, (t.coh s.cur.coh).v m j = (s.coh s.cur.coh).v m j
  pred : ∀ p, ∀ l < 32, (t.coh s.cur.coh).pred p l true = (s.coh s.cur.coh).pred p l true
  frame : (t.coh s.cur.coh).frame = (s.coh s.cur.coh).frame
  nflags : (t.coh s.cur.coh).nflags = (s.coh s.cur.coh).nflags
  goes : s.GoesOn t
  others : ∀ j, j ≠ s.cur.coh → t.coh j = s.coh j
  ops : t.ops.map (fun o => (o.1, o.2.body)) = s.ops.map (fun o => (o.1, o.2.body))
  entries : ∀ x, x ≠ slot → look (t.core (s.cohCore s.cur.coh)).opt x = look (s.core (s.cohCore s.cur.coh)).opt x
  mem : t.mem = s.mem ∧ t.bank = s.bank

/-- What an engine command needs to issue: its v-register sources, the s-registers it reads. -/
def cmdNeed (e : EArgs) (op : BitVec 8) (regs : List (Opnd × Nat)) (reads : List Nat) : Need :=
  ⟨e.g, regs, reads, .off, false, some op⟩

/-- An s-register that a field names unless it is s0. -/
def optReg (b : BitVec 6) : List Nat := if b = 0 then [] else [b.toNat]

/-- The window check of R354 passes at issue for rows of rb bytes at some offsets from `base`. -/
def State.ClearAt (s : State) (kind : Nat) (base : DWord) (offs : List Int) (rb : Nat) : Prop :=
  s.winSpan (s.cohBlk s.cur.coh) kind base offs rb = 0

/-- The same for n rows at a stride. -/
def State.ClearRows (s : State) (kind : Nat) (base : DWord) (n rb : Nat) (stride : Int) : Prop :=
  s.ClearAt kind base (rowOffs n stride) rb

/-- The same for n bytes in a row. -/
def State.Clear (s : State) (kind : Nat) (base : DWord) (n : Nat) : Prop := s.ClearRows kind base 1 n 0

/-- Writes of an engine (address, bytes, value) that go to scratchpads of blocks on their cores. -/
def State.InScratch (s : State) (core : Nat) (o : Opt) (ws : List (Nat × Nat × Nat)) : Prop :=
  ∀ w ∈ ws, s.savedScr o w.1 = none ∧ ∃ g k, s.engWhere core o false 6 w.1 w.2.1 = (.ok, [g]) ∧ g.loc = .bank k

/-- Those writes lie in the scratchpads, in their order, and nothing else has changed in the two byte stores. -/
def State.Laid (s t : State) (core : Nat) (o : Opt) (ws : List (Nat × Nat × Nat)) : Prop :=
  t.mem = s.mem ∧ t.bank = ws.foldl (fun m w =>
    match s.engWhere core o false 6 w.1 w.2.1 with
    | (.ok, [⟨.bank k, a, n, _⟩]) => putBytes m (k * 0x180000 + a) n w.2.2
    | _ => m) s.bank

/-- s-register sA + i of the issuing cohort. -/
def State.dreg (s : State) (a : BitVec 6) (i : Nat) : DWord := (s.coh s.cur.coh).sreg (a.toNat + i)

/-! ### Events -/

/-- The package has said o, and nothing after it. -/
def State.Said (s t : State) (o : Out) : Prop := t.svc.out = s.svc.out ++ [o]

/-- The last thing that the package has said is o. -/
def State.LastSaid (t : State) (o : Out) : Prop := t.svc.out.getLast? = some o

/-- Two events come to the same next state. -/
def SameStep (a b : Host.Outcome State Fault Refusal) : Prop := ∃ t, a = .next t ∧ b = .next t

/-- No byte of the named sectors is dirty in a partition's L1 on a core. -/
def State.Written (t : State) (core part : Nat) (l : List Nat) : Prop :=
  ∀ e ∈ (t.core core).l1, e.part = part → e.sector ∈ l → e.mask = 0

/-- The masked bytes of those sectors of a partition's L1 that satisfy p have reached memory, and every other byte of memory is
as before (R77, R326). -/
def State.Homes (s t : State) (core part : Nat) (p : Nat → Prop) : Prop :=
  ∀ x,
    (∀ e, s.l1Find core part (x / 64) = some e → p (x / 64) → e.mask.getLsbD (x % 64) = true →
      getD t.mem x 0 = secByte e.data (x % 64)) ∧
    ((∀ e, s.l1Find core part (x / 64) = some e → p (x / 64) → e.mask.getLsbD (x % 64) = false) →
      getD t.mem x 0 = getD s.mem x 0)

/-- The same of the L1s of all cores, of the cores, partitions and sectors that p names. A byte that several of them hold dirty becomes one of theirs. -/
def State.AllHome (s t : State) (p : Nat → Nat → Nat → Prop) : Prop :=
  ∀ x,
    (∃ core part e, s.l1Find core part (x / 64) = some e ∧ p core part (x / 64) ∧ e.mask.getLsbD (x % 64) = true ∧
      getD t.mem x 0 = secByte e.data (x % 64)) ∨
    ((∀ core part e, s.l1Find core part (x / 64) = some e → p core part (x / 64) → e.mask.getLsbD (x % 64) = false) ∧
      getD t.mem x 0 = getD s.mem x 0)

/-- A TLB entry is named by an invalidation (R42). -/
def Inval.Names (v : Inval) (e : TlbE) : Prop :=
  e.tctx = v.tctx ∧
    match v.what with
    | .page va n => e.va < va.toNat + n ∧ va.toNat < e.va + e.size
    | .range lo hi => e.va ≤ hi.toNat ∧ lo.toNat < e.va + e.size
    | .space => True

/-! ### Accesses of base-die harts -/

/-- A loaded value of n bytes, extended to 64 bits. -/
def rvLoaded (n : Nat) (uns : Bool) (v : Nat) : DWord :=
  if uns then (BitVec.ofNat (8 * n) v).zeroExtend 64 else (BitVec.ofNat (8 * n) v).signExtend 64

/-- The AMOs of RV64 by funct5: their operation, and whether they compare signed values. -/
def rvAmos : List (BitVec 5 × AOp × Bool) :=
  [(0, .add, false), (1, .exch, false), (4, .xor, false), (8, .or, false), (12, .and, false), (16, .min, true),
    (20, .max, true), (24, .min, false), (28, .max, false)]

/-- The bytes from a became v, and every other byte of memory is as before. -/
def State.BytesAt (s t : State) (a n v : Nat) : Prop :=
  ∀ x, getD t.mem x 0 = if a ≤ x ∧ x < a + n then BitVec.ofNat 8 (v >>> (8 * (x - a))) else getD s.mem x 0

/-! ### Turns -/

/-- The cohort's turn comes (R150, R187, R188, R192): it is resident on an awake core of a running partition, in an active
position, parked on no line, and the holder of its pipe where its grid is deterministic. -/
structure State.MayTurn (s : State) (c : Nat) : Prop where
  home : (s.coh c).place = .resident
  runs : s.running (s.cohPart c) = true
  awake : (s.core (s.cohCore c)).gated = false
  active : (s.coh c).active = true
  lines : (s.coh c).absent = []
  holder : (s.cohGrd c).det = true → (s.coh c).detHolder = true
  whole : (s.coh c).lost = false ∧ (s.coh c).damaged = false

/-- Group m of cohort c is the first that the cohort offers (R150, R151) and stands at a word w of a clause with header
h, which it may issue: its code is mapped, and where a lane enters the clause there the header passes (R226, R227, R228).
`at_` is the word's address. -/
structure State.Offers (s : State) (c : Nat) (m : LaneMask) (at_ h w : DWord) : Prop where
  first : ((s.groups c).filter (fun x => (x &&& (s.coh c).store) == 0)).head? = some m
  word : at_ = if ((s.coh c).pcOf (lowLane m)).toNat % 64 = 0 then (s.coh c).pcOf (lowLane m) + 8 else (s.coh c).pcOf (lowLane m)
  header : (s.setCur c m ((s.coh c).pcOf (lowLane m)) 0).fetch c m ((s.coh c).pcOf (lowLane m))
    (((s.coh c).pcOf (lowLane m)).toNat / 64 * 64) = .word h
  fetched : (s.setCur c m ((s.coh c).pcOf (lowLane m)) 0).fetch c m ((s.coh c).pcOf (lowLane m)) at_.toNat = .word w
  enters : m &&& ~~~(s.coh c).entered ≠ 0 →
    hdrOk h = true ∧ at_.toNat / 8 % 8 ≤ hdrNw h ∧ (s.coh c).flagsUp (hdrWait h) = false

/-- The lanes of the group have entered the clause and stand at the word (R226). -/
def State.entered (s : State) (c : Nat) (m : LaneMask) (at_ : DWord) : State :=
  let pc := (s.coh c).pcOf (lowLane m)
  let u := s.setCur c m pc 0
  (if at_ = pc then u else u.endWaits c pc).enter c m at_

/-- The bytes at an address are mapped for fetching by an entry of the core's TLB (R38, R39). -/
structure State.CodeAt (s : State) (c va pa : Nat) : Prop where
  inside : canonical va = true ∧ isWindow va = false
  hit : ∃ e, s.tlbHit (s.cohCore c) (s.cohGrd c).tctx va = some e ∧ s.entryCause (s.cohGrd c).part 4 e va = 0 ∧
    pa = e.pa + (va - e.va)
  whole : s.badAt pa 8 = false

end Machine

end Sys2Proof
end

