-- ==== Sys2Proof/Certificates/Slice0/Obligations.lean ====
section
/-! DEFINITION. The statements for the provers: what the numbered rules of the manual say of the machine, its
instructions and its events. -/

open Sys2Proof Sys2Proof.Machine

/-- R264 -/
def Obligations.IntegerArithmetic : Prop :=
  (∀ (r : R3) (m : IMod),
  Computes (.iadd r m) (need2 r m.w) r.d m.w (fun s l =>
    let a := s.arg r.a m.w l
    let b := s.arg r.b m.w l
    if m.sat then clamped m.u m.w (num m.u m.w a + num m.u m.w b) else at2 m.w (· + ·) a b) ∧
  Computes (.iadd3 r m) (need3 r m.w) r.d m.w (fun s l =>
    let a := s.arg r.a m.w l
    let b := s.arg r.b m.w l
    let c := s.arg r.c m.w l
    if m.sat then clamped m.u m.w (num m.u m.w a + num m.u m.w b + num m.u m.w c)
    else at3 m.w (· + · + ·) a b c) ∧
  Computes (.isub r m) (need2 r m.w) r.d m.w (fun s l =>
    let a := s.arg r.a m.w l
    let b := s.arg r.b m.w l
    if m.sat then clamped m.u m.w (num m.u m.w a - num m.u m.w b) else at2 m.w (· - ·) a b) ∧
  (m.u = false → Computes (.ineg r m) (need1 r m.w) r.d m.w (fun s l =>
    let a := s.arg r.a m.w l
    if m.sat then clamped false m.w (-num false m.w a) else at1 m.w (- ·) a)) ∧
  (m.u = false → Computes (.iabs r m) (need1 r m.w) r.d m.w (fun s l =>
    let a := s.arg r.a m.w l
    if m.sat then clamped false m.w (num false m.w a).natAbs else at1 m.w BitVec.abs a)) ∧
  Computes (.imin r m) (need2 r m.w) r.d m.w (fun s l =>
    let a := s.arg r.a m.w l
    let b := s.arg r.b m.w l
    if num m.u m.w a ≤ num m.u m.w b then a else b) ∧
  Computes (.imax r m) (need2 r m.w) r.d m.w (fun s l =>
    let a := s.arg r.a m.w l
    let b := s.arg r.b m.w l
    if num m.u m.w a ≤ num m.u m.w b then b else a)) ∧
  (∀ (r : R3) (m : IMod) (sh : BitVec 4) (u : Bool),
  Computes (.imul r m) (need2 r m.w) r.d m.w (fun s l =>
    let a := s.arg r.a m.w l
    let b := s.arg r.b m.w l
    if m.sat then clamped m.u m.w (num m.u m.w a * num m.u m.w b) else at2 m.w (· * ·) a b) ∧
  Computes (.imulh r m) (need2 r m.w) r.d m.w (fun s l =>
    let p := num m.u m.w (s.arg r.a m.w l) * num m.u m.w (s.arg r.b m.w l)
    if m.w then (BitVec.ofInt 128 p).extractLsb' 64 64 else ((BitVec.ofInt 64 p).extractLsb' 32 32).zeroExtend 64) ∧
  Computes (.imad r m) (need3 r m.w) r.d m.w (fun s l =>
    let a := s.arg r.a m.w l
    let b := s.arg r.b m.w l
    let c := s.arg r.c m.w l
    if m.sat then clamped m.u m.w (num m.u m.w a * num m.u m.w b + num m.u m.w c)
    else at3 m.w (· * · + ·) a b c) ∧
  Computes (.imadw r m) (.of r.g [(r.d, 2)] [(r.a, 1), (r.b, 1), (r.c, 2)]) r.d true (fun s l =>
    let a : Word := (s.arg r.a false l).truncate 32
    let b : Word := (s.arg r.b false l).truncate 32
    (if m.u then a.zeroExtend 64 * b.zeroExtend 64 else a.signExtend 64 * b.signExtend 64) + s.arg r.c true l) ∧
  Computes (.lea r sh u) (.of r.g [(r.d, 2)] [(r.a, 2), (r.b, 1)]) r.d true (fun s l =>
    let b : Word := (s.arg r.b false l).truncate 32
    s.arg r.a true l + (if u then b.zeroExtend 64 else b.signExtend 64) <<< sh))

/-- R266 -/
def Obligations.ImmediateForms : Prop := ∀ (g : Guard) (d a : Opnd) (imm : BitVec 32),
  let w := d.isS
  let n := Need.of g [(d, wordsOf w)] [(a, wordsOf (w && !a.isV))]
  let x := fun (s : State) (l : Nat) => s.arg a (w && !a.isV) l
  let k : DWord := if w then imm.signExtend 64 else imm.zeroExtend 64
  Computes (.iaddImm g d a imm) n d w (fun s l => at2 w (· + ·) (x s l) k) ∧
  Computes (.imulImm g d a imm) n d w (fun s l => at2 w (· * ·) (x s l) k) ∧
  Computes (.andImm g d a imm) n d w (fun s l => x s l &&& k) ∧
  Computes (.orImm g d a imm) n d w (fun s l => x s l ||| k) ∧
  Computes (.xorImm g d a imm) n d w (fun s l => x s l ^^^ k)

/-- R267, R268; R268 -/
def Obligations.LogicShiftsAndFields : Prop :=
  (∀ (r : R3) (w : Bool),
  let two := fun (i : Instr) (f : ∀ {n : Nat}, BitVec n → BitVec n → BitVec n) =>
    Computes i (need2 r w) r.d w (fun s l => at2 w f (s.arg r.a w l) (s.arg r.b w l))
  two (.and r w) (· &&& ·) ∧ two (.or r w) (· ||| ·) ∧ two (.xor r w) (· ^^^ ·) ∧
  two (.andn r w) (fun a b => a &&& ~~~b) ∧ two (.orn r w) (fun a b => a ||| ~~~b) ∧
  Computes (.not r w) (need1 r w) r.d w (fun s l => at1 w (~~~ ·) (s.arg r.a w l)) ∧
  two (.shl r w) (fun {n} a b => a <<< (b.toNat % n)) ∧
  two (.shr r w) (fun {n} a b => a >>> (b.toNat % n)) ∧
  two (.sar r w) (fun {n} a b => a.sshiftRight (b.toNat % n)) ∧
  two (.rot r w) (fun {n} a b => a.rotateLeft (b.toNat % n)) ∧
  Computes (.funl r w) (need3 r w) r.d w (fun s l =>
    at3 w (fun {n} a b c => ((a ++ c) >>> (b.toNat % n)).extractLsb' 0 n) (s.arg r.a w l) (s.arg r.b w l) (s.arg r.c w l))) ∧
  (∀ (r : R3) (w u : Bool),
  let one := fun (i : Instr) (f : ∀ {n : Nat}, BitVec n → BitVec n) =>
    Computes i (need1 r w) r.d w (fun s l => at1 w f (s.arg r.a w l))
  one (.popc r w) BitVec.cpop ∧ one (.clz r w) BitVec.clz ∧ one (.ctz r w) BitVec.ctz ∧ one (.brev r w) BitVec.reverse ∧
  Computes (.bfx r w u) (need2 r w) r.d w (fun s l => at2 w (bfxAt u) (s.arg r.a w l) (s.arg r.b w l)) ∧
  Computes (.bfi r w) (need3 r w) r.d w (fun s l => at3 w bfiAt (s.arg r.a w l) (s.arg r.b w l) (s.arg r.c w l)) ∧
  Computes (.perm r) (need3 r false) r.d false (fun s l =>
    let b := permByte ((s.arg r.a false l).truncate 32) ((s.arg r.b false l).truncate 32) ((s.arg r.c false l).truncate 32)
    (b 3 ++ b 2 ++ b 1 ++ b 0).zeroExtend 64))

/-- R269, R270; R263, R264, R269, R274 -/
def Obligations.MovesAndPredicates : Prop :=
  (∀ (r : R3) (w : Bool) (p : BitVec 3) (inv : Bool) (g : Guard) (d : Opnd) (imm : BitVec 32),
  Computes (.mov r w) (need1 r w) r.d w (fun s l => s.arg r.a w l) ∧
  Computes (.sel r w p inv) (need2 r w) r.d w (fun s l =>
    if (s.coh s.cur.coh).pred p.toNat l false ^^ inv then s.arg r.a w l else s.arg r.b w l) ∧
  Computes (.movi g d false imm) (.of g [(d, 1)] []) d false (fun _ _ => imm.zeroExtend 64) ∧
  Computes (.movi g d true imm) (.of g [(d, 2)] []) d true (fun _ _ => imm.signExtend 64) ∧
  Computes (.movw g d false imm) (.of g [(d, 2)] [(d, 2)]) d true (fun s l => imm ++ (s.arg d true l).truncate 32) ∧
  Computes (.movw g d true imm) (.of g [(d, 2)] [(d, 2)]) d true (fun s l => (s.arg d true l).extractLsb' 32 32 ++ imm)) ∧
  (∀ (g : Guard) (p pa pb pc : BitVec 3) (a b : Opnd) (w u ftz f64 : Bool) (lut : BitVec 8),
  let i := fun (s : State) (o : Opnd) (l : Nat) => num u w (s.arg o w l)
  let n := Need.of g [] [(a, wordsOf w), (b, wordsOf w)]
  ComputesP (.icmp g p a b .eq w u) n p (fun s l => (i s a l = i s b l, 0)) ∧
  ComputesP (.icmp g p a b .ne w u) n p (fun s l => (i s a l ≠ i s b l, 0)) ∧
  ComputesP (.icmp g p a b .lt w u) n p (fun s l => (i s a l < i s b l, 0)) ∧
  ComputesP (.icmp g p a b .le w u) n p (fun s l => (i s a l ≤ i s b l, 0)) ∧
  ComputesP (.icmp g p a b .gt w u) n p (fun s l => (i s b l < i s a l, 0)) ∧
  ComputesP (.icmp g p a b .ge w u) n p (fun s l => (i s b l ≤ i s a l, 0)) ∧
  ComputesP (.plog g p pa pb pc lut) (.of g [] []) p (fun s l =>
    let k := fun (q : BitVec 3) => ((s.coh s.cur.coh).pred q.toNat l false).toNat
    (lut.getLsbD (4 * k pa + 2 * k pb + k pc), 0)) ∧
  ∀ c : FCond, ComputesP (.fcmp g p a b c ftz f64) (.of g [] [(a, wordsOf f64), (b, wordsOf f64)]) p (fun s l =>
    fcmpVal c (s.fsrc a f64 ftz l) (s.fsrc b f64 ftz l)))

/-- R271 to R273, R275, R276 -/
def Obligations.FloatArithmetic : Prop :=
  (∀ (r : R3) (m : FMod) (na nc ftz f64 : Bool) (g : Guard) (d a : Opnd) (imm : BitVec 32),
    let f := fmtF m.f64
    let x := fun (s : State) (o : Opnd) (l : Nat) => s.fsrc o m.f64 m.ftz l
    let two := fun (i : Instr) (op : RMode → FVal → FVal → Nat × NFlags) =>
      ComputesF i (needIdx r [(r.a, m.f64), (r.b, m.f64)] m.rnd m.f64) r.d m.f64 (fun s l =>
        fres (op (s.mode m r l) (x s r.a l) (x s r.b l)))
    two (.fadd r m) f.add ∧
    two (.fsub r m) (fun md p q => f.add md p q.flip) ∧
    two (.fmul r m) f.mul ∧
    ComputesF (.fscale r m) (needIdx r [(r.a, m.f64), (r.b, false)] m.rnd m.f64) r.d m.f64 (fun s l =>
      fres (f.scale (s.mode m r l) (x s r.a l) ((s.arg r.b false l).truncate 32 : Word).toInt)) ∧
    ComputesF (.ffma r m na nc) (need3 r m.f64) r.d m.f64 (fun s l =>
      let p := x s r.a l
      let q := x s r.c l
      fres (f.fma (s.modeAt m.rnd m.sat m.ftz l 0) (if na then p.flip else p) (x s r.b l) (if nc then q.flip else q))) ∧
    ComputesF (.frint r m.rnd m.ftz m.f64) (needIdx r [(r.a, m.f64)] m.rnd m.f64) r.d m.f64 (fun s l =>
      fres (f.rint (s.modeAt m.rnd false m.ftz l (if m.rnd = .sr then (s.arg r.c false l).toNat % 2 ^ 32 else 0)) (x s r.a l))) ∧
    ComputesF (.fmin r ftz f64) (need2 r f64) r.d f64 (fun s l =>
      fres ((fmtF f64).minmax false ftz (s.fval s.cur.coh r.a (fmtF f64) f64 l) (s.fval s.cur.coh r.b (fmtF f64) f64 l))) ∧
    ComputesF (.fmax r ftz f64) (need2 r f64) r.d f64 (fun s l =>
      fres ((fmtF f64).minmax true ftz (s.fval s.cur.coh r.a (fmtF f64) f64 l) (s.fval s.cur.coh r.b (fmtF f64) f64 l))) ∧
    Computes (.fclass r f64) (.of r.g [(r.d, 1)] [(r.a, wordsOf f64)]) r.d false (fun s l =>
      BitVec.ofNat 64 ((fmtF f64).classify (s.fval s.cur.coh r.a (fmtF f64) f64 l))) ∧
    (let k := fun (i : Instr) (op : FVal → FVal → Nat × NFlags) =>
      ComputesF i (.of g [(d, 1)] [(a, 1)]) d false (fun s l =>
        fres (op (s.fval s.cur.coh a .fp32 false l) (Fmt.fp32.dec imm.toNat)))
     k (.faddImm g d a imm) (Fmt.fp32.add .rne) ∧ k (.fmulImm g d a imm) (Fmt.fp32.mul .rne) ∧
     k (.fminImm g d a imm) (Fmt.fp32.minmax false false) ∧ k (.fmaxImm g d a imm) (Fmt.fp32.minmax true false))) ∧
  -- both halves of the packed words
  (∀ (r : R3) (rnd : Rnd) (ftz sat : Bool),
    let h := fun (s : State) (o : Opnd) (l k : Nat) =>
      Fmt.fp16.ftzIn ftz (Fmt.fp16.dec (if k = 0 then s.h2val s.cur.coh o l % 65536 else s.h2val s.cur.coh o l / 65536 % 65536))
    let both := fun (s : State) (l j : Nat) (op : RMode → Nat → Nat × NFlags) =>
      let p := op (s.modeAt rnd sat ftz l j) 0
      let q := op (s.modeAt rnd sat ftz l (j ^^^ 0x80000000)) 1
      (BitVec.ofNat 64 (p.1 + 65536 * q.1), p.2 ||| q.2)
    let j := fun (s : State) (l : Nat) => if rnd = .sr then (s.arg r.c false l).toNat % 2 ^ 32 else 0
    ComputesF (.hadd2 r rnd ftz sat) (needIdx r [(r.a, false), (r.b, false)] rnd false) r.d false (fun s l =>
      both s l (j s l) (fun md k => Fmt.fp16.add md (h s r.a l k) (h s r.b l k))) ∧
    ComputesF (.hmul2 r rnd ftz sat) (needIdx r [(r.a, false), (r.b, false)] rnd false) r.d false (fun s l =>
      both s l (j s l) (fun md k => Fmt.fp16.mul md (h s r.a l k) (h s r.b l k))) ∧
    ComputesF (.hfma2 r rnd ftz sat) (need3 r false) r.d false (fun s l =>
      both s l 0 (fun md k => Fmt.fp16.fma md (h s r.a l k) (h s r.b l k) (h s r.c l k))))

/-- R277, R278 -/
def Obligations.Conversions : Prop := ∀ (r : R3) (rnd : Rnd) (sat : Bool) (dt st : CvtTy),
  let j := fun (s : State) (l : Nat) => if rnd = .sr then (s.arg r.c false l).toNat % 2 ^ 32 else 0
  let f := fun (s : State) (l : Nat) =>
    if r.a.isReg then (cvtFmt st).dec ((s.arg r.a st.is64 l).toNat % 2 ^ (cvtFmt st).width)
    else s.fval s.cur.coh r.a (cvtFmt st) st.is64 l
  let i := fun (s : State) (l : Nat) => lowInt (cvtInt st).1 (cvtInt st).2 (s.arg r.a st.is64 l)
  let lo := (intRange (cvtInt dt).1 (cvtInt dt).2).1
  let hi := (intRange (cvtInt dt).1 (cvtInt dt).2).2
  ComputesF (.cvt r rnd sat dt st) (needIdx r [(r.a, st.is64)] rnd dt.is64) r.d dt.is64 (fun s l =>
    let md := s.modeAt rnd sat false l (j s l)
    -- between equal formats nothing changes but a NaN
    if dt.isFloat ∧ st = dt then fres ((cvtFmt dt).same (f s l))
    else if dt.isFloat ∧ st.isFloat then fres ((cvtFmt dt).conv md (f s l))
    else if dt.isFloat then fres ((cvtFmt dt).ofInt md (i s l))
    else if st.isFloat then
      let v := toInt rnd md.r lo hi (f s l)
      (placeInt (cvtInt dt).1 v.1, v.2)
    else
      let x := i s l
      let v := if lo ≤ x ∧ x ≤ hi then x else if sat then (if x < lo then lo else hi)
        else lowInt (cvtInt dt).1 (cvtInt dt).2 (BitVec.ofInt 64 x)
      (placeInt (cvtInt dt).1 v, 0))

/-- R203, R204: for every format and exact magnitude. -/
def Obligations.RoundingIsAdjacent : Prop := ∀ f ∈ [Fmt.fp32, .fp64, .bf16, .fp16, .e5m2, .e4m3], ∀ (md : RMode) (x : Exact),
  x.d ≠ 0 → md.ftz = false → md.r < 2 ^ 32 → (f.round md x).2 &&& fOF = 0 →
  ∃ v : Rat, (f.dec (f.round md x).1).rat = some v ∧
    -- no value of the format lies strictly between
    (∀ b w, (f.dec b).rat = some w → ¬(v < w ∧ w < x.rat) ∧ ¬(x.rat < w ∧ w < v)) ∧
    (md.rnd = .rdn → v ≤ x.rat) ∧ (md.rnd = .rup → x.rat ≤ v) ∧
    (md.rnd = .rtz → (0 ≤ v ∧ v ≤ x.rat) ∨ (x.rat ≤ v ∧ v ≤ 0)) ∧
    -- nearest: no value is closer
    (md.rnd = .rne → ∀ b w, (f.dec b).rat = some w → (v - x.rat) * (v - x.rat) ≤ (w - x.rat) * (w - x.rat)) ∧
    ((f.round md x).2 &&& fNX = 0 ↔ v = x.rat)

/-- R281, R282, R285 -/
def Obligations.LaneExchange : Prop := ∀ (r : R3) (w pn : Bool) (g : Guard) (d : Opnd) (q p : BitVec 3) (mode : ShflMode),
  let is := fun (s : State) (l : Nat) => (s.active g).getLsbD l && ((s.coh s.cur.coh).pred p.toNat l true ^^ pn)
  let vote := fun (m : VoteMode) (b : State → Prop) => ∀ s : State, s.CanIssue (.of g [] []) →
    Gives (exec (.vote g (.v (q.zeroExtend 7)) p m pn) s) (fun t =>
      (b s → s.WroteP t q.toNat (s.active g) (fun _ => true) 0) ∧ (¬ b s → s.WroteP t q.toNat (s.active g) (fun _ => false) 0))
  Computes (.shfl r mode w) (.of r.g [(r.d, wordsOf w)] [(r.a, wordsOf w), (r.b, 1)]) r.d w (fun s l =>
    let b : Word := (s.arg r.b false l).truncate 32
    let src : Int :=
      match mode with
      | .idx => b.toNat
      | .up => l - b.toInt
      | .down => l + b.toInt
      | .xor => (BitVec.ofNat 32 l ^^^ b).toNat
    if 0 ≤ src ∧ src ≤ 31 ∧ (s.active r.g).getLsbD src.toNat = true then s.arg r.a w src.toNat else s.arg r.a w l) ∧
  vote .all (fun s => ∀ l < 32, (s.active g).getLsbD l = true → is s l = true) ∧
  vote .any (fun s => ∃ l < 32, is s l = true) ∧
  vote .uni (fun s => ∀ l < 32, ∀ k < 32, (s.active g).getLsbD l = true → (s.active g).getLsbD k = true → is s l = is s k) ∧
  Computes (.vote g d p .ballot pn) (.of g [(d, 1)] []) d false (fun s _ => (maskOf (is s)).zeroExtend 64) ∧
  Computes (.matchL r w) (.of r.g [(r.d, 1)] [(r.a, wordsOf w)]) r.d false (fun s l =>
    (maskOf (fun k => (s.active r.g).getLsbD k && s.arg r.a w k == s.arg r.a w l)).zeroExtend 64)

/-- R283, R284 -/
def Obligations.Reductions : Prop := ∀ (r : R3) (op : LaneOp) (w u excl : Bool) (rnd : Rnd),
  ComputesF (.lred r op w u rnd) (needIdx r [(r.a, w)] rnd w) r.d w (fun s _ =>
    s.reduce r op w u rnd (lowLane (s.active r.g)) (lanesOf (s.active r.g))) ∧
  ComputesF (.lscan r op w u rnd excl) (needIdx r [(r.a, w)] rnd w) r.d w (fun s l =>
    let below := (lanesOf (s.active r.g)).filter (fun k => k < l || (!excl && k == l))
    if below = [] then (identity op u w, 0) else s.reduce r op w u rnd l below)

/-- R265, R229; R279 -/
def Obligations.DivisionAndFunctionsStart : Prop :=
  (∀ (r : R3) (f : FlagSel) (w u : Bool),
  Starts (.idiv r f w u false) { need2 r w with flag := f } r.d w (fun s l =>
    quotient false u w (s.arg r.a w l) (s.arg r.b w l)) ∧
  Starts (.irem r f w u false) { need2 r w with flag := f } r.d w (fun s l =>
    quotient true u w (s.arg r.a w l) (s.arg r.b w l))) ∧
  (∀ (r : R3) (f : FlagSel) (ftz : Bool),
  let starts := fun (i : Instr) (fn : Nat) => Starts i { need1 r false with flag := f } r.d false (fun s l =>
    fres (sfVal fn ftz (s.bits32 r.a l)))
  starts (.rcp r f ftz) 0 ∧ starts (.rsq r f ftz) 1 ∧ starts (.sqrt r f ftz) 2 ∧ starts (.exp2 r f ftz) 3 ∧
  starts (.log2 r f ftz) 4 ∧ starts (.sinpi r f ftz) 5 ∧ starts (.cospi r f ftz) 6 ∧ starts (.tanh r f ftz) 7)

/-- R233, R288 to R292 -/
def Obligations.BranchesGoWhereTheyPoint : Prop := ∀ (g : Guard) (link a : Opnd) (cnt : BitVec 6) (off : BitVec 32)
    (idx : BitVec 3) (s : State),
  let run := s.active g
  let here := fun (_ : Nat) => s.label off idx
  let there := s.arg a true
  let back := fun (_ : Nat) => nextPc s.cur.pc s.cur.nw
  let n := (s.coh s.cur.coh).sreg cnt.toNat
  let even := ∀ l < 32, run.getLsbD l = true → (there l).toNat % 8 = 0
  (s.CanIssue (ctlNeed g [] []) → s.Agrees run here → Gives (exec (.bra g off idx) s) (fun t => s.Went t run here (.i 0) back)) ∧
  (s.CanIssue (ctlNeed g [] [link]) → s.Agrees run here →
    Gives (exec (.call g link off idx) s) (fun t => s.Went t run here link back)) ∧
  (s.CanIssue (ctlNeed g [a] []) → s.Agrees run there → even →
    Gives (exec (.brx g a) s) (fun t => s.Went t run there (.i 0) back) ∧
    Gives (exec (.ret g a) s) (fun t => s.Went t run there (.i 0) back)) ∧
  (s.CanIssue (ctlNeed g [a] [link]) → s.Agrees run there → even →
    Gives (exec (.callx g link a) s) (fun t => s.Went t run there link back)) ∧
  (s.CanIssue (ctlNeed g [.s cnt] []) → s.Agrees run here → cnt ≠ 0 → n ≠ 0 → n ≠ 1 →
    Gives (exec (.loop g cnt off idx) s) (fun t => s.Went t run here (.s cnt) (fun _ => n - 1))) ∧
  (s.CanIssue (ctlNeed g [.s cnt] []) → cnt ≠ 0 → n = 1 →
    Gives (exec (.loop g cnt off idx) s) (fun t => s.Went t run back (.s cnt) (fun _ => 0))) ∧
  (s.CanIssue (ctlNeed g [.s cnt] []) → n = 0 → Gives (exec (.loop g cnt off idx) s) s.Quiet)

/-- R155, R158, R159, R293 to R295 -/
def Obligations.MeetingsAndRegions : Prop := ∀ (g : Guard) (clr inv : Bool) (p : BitVec 3) (off : BitVec 32) (idx : BitVec 3)
    (s : State),
  let run := s.active g
  let c := s.cur.coh
  let k := s.coh c
  let mend := s.label off idx
  (s.CanIssue { ctlNeed g [] [] with meldBan := true } → Gives (exec (.meet g clr off idx) s) (fun t =>
    t = { s with cohorts := t.cohorts } ∧ (∀ j, j ≠ c → t.coh j = s.coh j) ∧ s.GoesOn t ∧
    { (t.coh c).bare with meet := [] } = { k.bare with meet := [] } ∧
    ∀ l < 32, (t.coh c).meetOf l =
      if run.getLsbD l = true then (if clr then 0xFFFFFFFFFFFFFFFF else mend) else k.meetOf l)) ∧
  (s.CanIssue (ctlNeed g [] []) → k.regionOpen = false → s.cur.pc.toNat < mend.toNat →
    (∀ l < 32, run.getLsbD l = true → k.awake.getLsbD l = true) →
    Gives (exec (.brm g p inv off idx) s) (fun t =>
      t = { s with
        cohorts := t.cohorts
        cur := t.cur } ∧ (∀ j, j ≠ c → t.coh j = s.coh j) ∧
      (t.coh c).regionOpen = true ∧ (t.coh c).mend = mend ∧ (t.coh c).memb = run ∧
      (∀ l < 32, (t.coh c).path.getLsbD l = (run.getLsbD l && (k.pred p.toNat l false ^^ inv))) ∧
      (t.coh c).mendWait = s.cur.lanes &&& ~~~run ∧
      (∀ l < 32, (t.coh c).pcOf l =
        if run.getLsbD l = true then nextPc s.cur.pc s.cur.nw
        else if s.cur.lanes.getLsbD l = true then
          -- a label at a header names word 1 (R226)
          nextPc (if mend.toNat % 64 = 0 then mend + 8 else mend) (s.nwAt c mend)
        else k.pcOf l) ∧
      s.SameRegs t)) ∧
  (s.CanIssue (ctlNeed g [] []) → (k.mendOpen = false ∨ s.cur.pc ≠ k.mend ∨ ∀ l < 32, s.cur.lanes.getLsbD l = true → k.inRegion l = false) →
    Gives (exec (.mend g) s) s.Quiet) ∧
  (s.CanIssue (ctlNeed g [] []) → k.mendOpen = true → s.cur.pc = k.mend → (∃ l < 32, s.cur.lanes.getLsbD l = true ∧ k.inRegion l = true) →
    Gives (exec (.mend g) s) (fun t => (t.coh c).regionOpen = false ∧ (t.coh c).memb = 0 ∧ (t.coh c).mendWait = 0 ∧
      s.GoesOn t ∧ s.SameRegs t ∧ t = { s with cohorts := t.cohorts }))

/-- R163, R297, R298 -/
def Obligations.SpawningQueuesAndFlushes : Prop := ∀ (g : Guard) (n : BitVec 8) (off : BitVec 32) (s : State),
  let run := s.active g
  let c := s.cur.coh
  let k := s.coh c
  let b := s.blk k.block
  (s.CanIssue (bareNeed g true (some 0x35)) → (look s.blocks k.block).isSome = true →
    1 ≤ (s.cohGrd c).spl → n.toNat ≤ (s.cohGrd c).spl → s.accessPending c run (fun _ => true) = false →
    (b.spawnQ.filter (fun e => e.ovf.isNone)).length + (lanesOf run).length ≤ 1024 →
    Gives (exec (.spawn g n off) s) (fun t =>
      (t.blk k.block).spawnQ = b.spawnQ ++ (lanesOf run).map (fun l =>
        ⟨s.label off 0, 32 * k.idx + l, (List.range n.toNat).map (fun i => k.v i l), none⟩) ∧
      (t.coh c).exited = k.exited ||| run ∧ s.SameRegs t)) ∧
  (s.CanIssue (bareNeed g true (some 0x37)) → (look s.blocks k.block).isSome = true →
    Gives (exec (.spflush g) s) (fun t =>
      t = { s with
        cohorts := t.cohorts
        blocks := t.blocks } ∧ s.GoesOn t ∧ (∀ j, j ≠ c → t.coh j = s.coh j) ∧ (t.coh c).bare = k.bare ∧
      (∀ j, j ≠ k.block → t.blk j = s.blk j) ∧
      t.blk k.block = { b with
        lists := b.lists.map (fun e => (e.1, e.2 || b.spawnQ.any (fun q => q.target == e.1))) }))

/-- R288, R299, R300 -/
def Obligations.EndsAndWaits : Prop := ∀ (g : Guard) (mask : BitVec 12) (s : State),
  let run := s.active g
  let c := s.cur.coh
  let k := s.coh c
  (s.CanIssue (bareNeed g false (some 0x37)) → (∀ l < 32, run.getLsbD l = true → (k.txOf l).isOpen = false) →
    Gives (exec (.exit g) s) (fun t => (t.coh c).exited = k.exited ||| run ∧ s.SameRegs t ∧
      ∀ l < 32, s.cur.lanes.getLsbD l = true → run.getLsbD l = false →
        (t.coh c).pcOf l = nextPc s.cur.pc s.cur.nw)) ∧
  (s.CanIssue (bareNeed g false none) →
    Gives (exec (.nop g) s) s.Quiet ∧
    ((s.cohGrd c).det = false → Gives (exec (.yield g) s) s.Quiet) ∧
    ((s.cohGrd c).det = true → ∀ j, k.detHolder = true → s.NextOnPipe c j →
      Gives (exec (.yield g) s) (fun t => (t.coh c).detHolder = false ∧ (t.coh j).detHolder = true ∧ s.GoesOn t ∧ s.SameRegs t)) ∧
    ((∀ i < 12, mask.getLsbD i = true → getD k.cf i 0 = 0) → Gives (exec (.waitf g mask) s) s.Quiet) ∧
    ((∃ i < 12, mask.getLsbD i = true ∧ getD k.cf i 0 ≠ 0) → Stalls (.waitf g mask) s))

/-- R301, R302, R304 -/
def Obligations.BarrierArrivals : Prop := ∀ (g : Guard) (id : BitVec 4) (cid : BitVec 2) (s : State),
  let run := s.active g
  let c := s.cur.coh
  let k := s.coh c
  let b := s.blk k.block
  let r := b.bar id.toNat
  let q := s.plc b.placed
  let mine := slotBits k.idx run
  let cmine := cslotBits b.rank k.idx run
  let held := fun (t : State) (i : Nat) => ∀ l < 32, run.getLsbD l = true → look (t.coh c).barHold l = some ⟨i, false⟩
  -- nothing holds back the order buffer that a completion drains first in a deterministic grid (R194, R305)
  let calm := (s.grd b.grid).det = true → s.drainWaits k.block = false
  let still := fun (t : State) => s.SameRegs t ∧ ((s.grd b.grid).det = false → t.mem = s.mem ∧ t.bank = s.bank)
  -- the phase is over: no arrived bit stands, the parity has toggled, no lane of the block is held at the barrier
  let finished := fun (t : State) => ((t.blk k.block).bar id.toNat).arrived = 0 ∧ ((t.blk k.block).bar id.toNat).parity = !r.parity ∧
    (∀ e ∈ s.cohsOf k.block, ∀ h ∈ (t.coh e.1).barHold, h.2.bar ≠ id.toNat) ∧ still t
  s.CanIssue (bareNeed g true (some 0x39)) → (look s.blocks k.block).isSome = true → (look s.placed b.placed).isSome = true →
  s.accessPending c run (fun _ => true) = false → k.idx < 32 →
  -- BAR: the phase is still short of an arrival
  (r.arrived &&& mine = 0 → s.barMembers k.block &&& ~~~(r.arrived ||| mine) ≠ 0 →
    Gives (exec (.bar g id) s) (fun t => ((t.blk k.block).bar id.toNat) = { r with arrived := r.arrived ||| mine } ∧
      held t id.toNat ∧ s.GoesOn t ∧ still t)) ∧
  -- BAR: the last participant has arrived
  (r.arrived &&& mine = 0 → s.barMembers k.block &&& ~~~(r.arrived ||| mine) = 0 → calm →
    Gives (exec (.bar g id) s) (fun t => finished t ∧ ((t.blk k.block).bar id.toNat).pending = r.pending)) ∧
  -- BAR behind an arrival of its own: held at the word, to arrive in the next phase
  (r.arrived &&& mine = mine → s.barMembers k.block &&& ~~~r.arrived ≠ 0 →
    Gives (exec (.bar g id) s) (fun t => ((t.blk k.block).bar id.toNat) = r ∧ still t ∧
      ∀ l < 32, run.getLsbD l = true → look (t.coh c).barHold l = some ⟨id.toNat, true⟩ ∧ (t.coh c).pcOf l = k.pcOf l)) ∧
  -- BARA: the lanes go on with their arrival recorded
  (r.pending &&& mine = 0 → s.barMembers k.block &&& ~~~(r.arrived ||| mine) ≠ 0 →
    Gives (exec (.bara g id) s) (fun t =>
      ((t.blk k.block).bar id.toNat).arrived = r.arrived ||| mine ∧ ((t.blk k.block).bar id.toNat).parity = r.parity ∧
      ((t.blk k.block).bar id.toNat).pending = r.pending ||| mine ∧
      ((t.blk k.block).bar id.toNat).recd &&& mine = (if r.parity then mine else 0) ∧ s.GoesOn t ∧ still t)) ∧
  -- BARA: the last participant has arrived; the parity recorded is that of the phase it arrived in
  (r.pending &&& mine = 0 → s.barMembers k.block &&& ~~~(r.arrived ||| mine) = 0 → calm →
    Gives (exec (.bara g id) s) (fun t => finished t ∧
      ((t.blk k.block).bar id.toNat).pending = r.pending ||| mine ∧
      ((t.blk k.block).bar id.toNat).recd &&& mine = (if r.parity then mine else 0) ∧
      ∀ l < 32, run.getLsbD l = true → (t.coh c).pcOf l = nextPc s.cur.pc s.cur.nw)) ∧
  -- BARW: a phase that has completed since is passed at once
  (r.pending &&& mine = mine → r.recd &&& mine = (if r.parity then 0 else mine) →
    s.barMembers k.block &&& ~~~r.arrived ≠ 0 →
    Gives (exec (.barw g id) s) (fun t => ((t.blk k.block).bar id.toNat) = { r with pending := r.pending &&& ~~~mine } ∧
      s.GoesOn t ∧ still t)) ∧
  -- BARW: the phase of the arrival is open still
  (r.pending &&& mine = mine → r.recd &&& mine = (if r.parity then mine else 0) →
    s.barMembers k.block &&& ~~~r.arrived ≠ 0 →
    Gives (exec (.barw g id) s) (fun t => ((t.blk k.block).bar id.toNat) = { r with pending := r.pending &&& ~~~mine } ∧
      held t id.toNat ∧ s.GoesOn t ∧ still t)) ∧
  -- BARW with no arrival outstanding arrives itself, and the last one completes the phase
  (r.pending &&& mine = 0 → s.barMembers k.block &&& ~~~(r.arrived ||| mine) ≠ 0 →
    Gives (exec (.barw g id) s) (fun t => ((t.blk k.block).bar id.toNat) = { r with arrived := r.arrived ||| mine } ∧
      held t id.toNat ∧ s.GoesOn t ∧ still t)) ∧
  (r.pending &&& mine = 0 → s.barMembers k.block &&& ~~~(r.arrived ||| mine) = 0 → calm →
    Gives (exec (.barw g id) s) (fun t => finished t ∧ ((t.blk k.block).bar id.toNat).pending = r.pending)) ∧
  -- CBAR: the arrival of a cluster barrier whose phase stays open
  ((q.bar cid.toNat).arrived &&& cmine = 0 → s.cbarMembers b.placed &&& ~~~((q.bar cid.toNat).arrived ||| cmine) ≠ 0 →
    Gives (exec (.cbar g cid) s) (fun t =>
      ((t.plc b.placed).bar cid.toNat) = { q.bar cid.toNat with arrived := (q.bar cid.toNat).arrived ||| cmine } ∧
      held t (16 + cid.toNat) ∧ s.GoesOn t ∧ s.SameRegs t ∧ t.bank = s.bank ∧
      t.dirtySectors b.core (s.grd b.grid).part = [] ∧ s.Homes t b.core (s.grd b.grid).part (fun _ => True))) ∧
  -- CBAR: the last arrival; what the core's L1 held clean is dropped as well (R107)
  ((q.bar cid.toNat).arrived &&& cmine = 0 → s.cbarMembers b.placed &&& ~~~((q.bar cid.toNat).arrived ||| cmine) = 0 → b.rank < 8 →
    Gives (exec (.cbar g cid) s) (fun t =>
      ((t.plc b.placed).bar cid.toNat) = ⟨!(q.bar cid.toNat).parity, 0⟩ ∧
      (∀ e ∈ s.blksAt b.placed, ∀ x ∈ s.cohsOf e.1, ∀ h ∈ (t.coh x.1).barHold, h.2.bar ≠ 16 + cid.toNat) ∧
      s.SameRegs t ∧ t.bank = s.bank ∧ (∀ e ∈ (t.core b.core).l1, e.part ≠ (s.grd b.grid).part) ∧
      s.Homes t b.core (s.grd b.grid).part (fun _ => True)))

/-- R306 -/
def Obligations.TrapsPark : Prop := ∀ (g : Guard) (a : Opnd) (code : BitVec 8) (s : State),
  let run := s.active g
  let pass := fun (t : State) => ∀ l < 32, s.cur.lanes.getLsbD l = true → run.getLsbD l = false →
    (t.coh s.cur.coh).pcOf l = nextPc s.cur.pc s.cur.nw
  (∀ l < 32, s.cur.lanes.getLsbD l = true → (s.coh s.cur.coh).pcOf l = s.cur.pc) →
  s.opHeld s.cur.coh &&& s.cur.lanes = 0 → s.cohCore s.cur.coh < 768 →
  getD s.traps.nextTid (s.cohPart s.cur.coh) 0 < 2 ^ 32 →
  (s.CanIssue { Need.of g [] [(a, 2)] with disallow := some 0x71 } → Gives (exec (.trap g a code) s) (fun t =>
    s.Trapped t run s.cur.pc 0x28 0 (s.arg a true (lowLane run)) code.toNat ∧ pass t)) ∧
  (s.CanIssue (.of g [] []) → (∀ l < 32, run.getLsbD l = true → (s.coh s.cur.coh).spec l = false) →
    Gives (exec (.brkp g code) s) (fun t => s.Trapped t run s.cur.pc 0x29 0 0 code.toNat ∧ pass t)) ∧
  (s.CanIssue (.of g [] []) → (∀ l < 32, run.getLsbD l = true → (s.coh s.cur.coh).spec l = true) →
    Gives (exec (.brkp g code) s) s.Quiet)

/-- R307 to R309 -/
def Obligations.SpecialRegisters : Prop := ∀ (g : Guard) (d a : Opnd) (r : SpReg) (s : State),
  let c := s.cur.coh
  let k := s.coh c
  let b := s.cohBlk c
  let run := s.active g
  Computes (.srd g d r) (.of g [(d, wordsOf r.is64)] []) d r.is64 (fun s l =>
    let c := s.cur.coh
    let k := s.coh c
    let b := s.cohBlk c
    match r with
    | .lane => BitVec.ofNat 64 l
    | .coh => BitVec.ofNat 64 k.idx
    | .blk => BitVec.ofNat 64 (b.blk % 2 ^ 32)
    | .crank => BitVec.ofNat 64 b.rank
    | .clu => BitVec.ofNat 64 (s.plc b.placed).clu
    | .die => BitVec.ofNat 64 (s.plc b.placed).die
    | .pkg => BitVec.ofNat 64 s.ctl.pkg
    | .orig => BitVec.ofNat 64 (getD k.orig l 0 % 1024)
    | .vbase => BitVec.ofNat 64 k.vbase
    | .args => (s.cohGrd c).args
    | .nflags => k.nflags.zeroExtend 64
    | .act => (s.active g).zeroExtend 64
    | .path => if k.inRegion l && k.path.getLsbD l then 1 else 0
    | .meet => k.meetOf l
    | .part => BitVec.ofNat 64 (s.cohPart c)
    | .opp => BitVec.ofNat 64 (min (getD s.ctl.point (s.plc b.placed).die 0) (getD s.ctl.want (s.plc b.placed).die 0))) ∧
  (s.CanIssue (.of g [] [(a, 1)]) → s.flagsPending c = false → Gives (exec (.swr g a .nflags) s) (fun t =>
    t = { s with cohorts := t.cohorts } ∧ (∀ j, j ≠ c → t.coh j = s.coh j) ∧ s.GoesOn t ∧
    { (t.coh c).bare with nflags := 0 } = { k.bare with nflags := 0 } ∧
    (t.coh c).nflags = (s.arg a false (lowLane run)).truncate 5)) ∧
  (s.CanIssue (.of g [] [(a, 1)]) → s.flagsPending c = true → Stalls (.swr g a .nflags) s) ∧
  (s.CanIssue (.of g [] [(a, 2)]) →
    (∀ l < 32, run.getLsbD l = true → (s.arg a true l).toNat % 8 = 0 ∨ s.arg a true l = 0xFFFFFFFFFFFFFFFF) →
    Gives (exec (.swr g a .meet) s) (fun t =>
      t = { s with cohorts := t.cohorts } ∧ (∀ j, j ≠ c → t.coh j = s.coh j) ∧ s.GoesOn t ∧
      { (t.coh c).bare with meet := [] } = { k.bare with meet := [] } ∧
      ∀ l < 32, (t.coh c).meetOf l = if run.getLsbD l = true then s.arg a true l else k.meetOf l)) ∧
  -- the clocks do not go back, and every lane gets one value
  (s.CanIssue (.of g [(d, 2)] []) → Gives (exec (.gts g d) s) (fun t => ∃ u : State,
    u = { s with
      time := u.time
      fresh := u.fresh } ∧ s.time < u.time ∧ u.Wrote t d true run (fun _ => BitVec.ofNat 64 u.time) 0)) ∧
  (s.CanIssue (.of g [(d, 2)] []) → Gives (exec (.clk g d) s) (fun t => ∃ u : State,
    u = { s with
      cores := u.cores
      fresh := u.fresh } ∧ (s.core b.core).clk < (u.core b.core).clk ∧
    u.core b.core = { s.core b.core with clk := (u.core b.core).clk } ∧ (∀ j, j ≠ b.core → u.core j = s.core j) ∧
    u.Wrote t d true run (fun _ => BitVec.ofNat 64 (u.core b.core).clk) 0))

/-- R237, R313, R316, R229 -/
def Obligations.LoadsAndStoresStart : Prop := ∀ (m : MArgs) (d idx x : Opnd) (off : BitVec 14) (s : State),
  let run := s.active m.g
  let c := s.cur.coh
  let ldAt := s.addr m (some idx) (off.signExtend 64)
  let stAt := s.addr m none (off.signExtend 64)
  -- a word that executes once uses the lowest lane's address (R238)
  let ldTo := fun l => s.seek 1 (ldAt (if d.isS then lowLane run else l)) m.ty.bytes [] (fun _ _ => []) l
  let stTo := fun l => s.seek 2 (stAt l) m.ty.bytes [] (fun _ _ => []) l
  let ls := accLanes (s.coh c).spec d.isS run
  let ldGood := goodLanes run ldTo
  let stGood := goodLanes run stTo
  (s.CanIssue (memNeed m [regTy d m.ty, (idx, 1)] [idx]) →
    (∀ l < 32, ls.getLsbD l = true → s.Passes (ldTo l)) →
    (d.isS = true → ls = oneLane (lowLane run) ∨ ∀ l < 32, ls.getLsbD l = true → ∀ g ∈ (ldTo l).segs, g.loc = .mem) →
    Gives (exec (.ld m d idx off) s) (fun t => ∃ o, s.Began t o ∧ s.OfWord o m.f ∧ o.kind = .load ∧ o.ty = m.ty ∧
      o.ord = m.ord ∧ o.sc = m.sc ∧ o.lanes = ls ∧ o.grp = (if d.isS then run else 0) ∧
      o.dst = s.dstOf c d (wordsTy m.ty) ls ∧
      ∀ l < 32, o.lanes.getLsbD l = true → o.HasPart s (ldTo l) l 0 0)) ∧
  -- lanes that fail are parked with their cause, and the others start their operation
  (s.CanIssue (memNeed m [regTy d m.ty, (idx, 1)] [idx]) → d.isS = false → s.MayTrap run →
    (∀ l < 32, run.getLsbD l = true → s.Settled (ldTo l)) →
    Gives (exec (.ld m d idx off) s) (fun t => s.Split t run 1 ldTo ∧ (ldGood ≠ 0 →
      ∃ o, look t.ops (t.fresh - 1) = some o ∧ s.OfWord o m.f ∧ o.kind = .load ∧ o.ty = m.ty ∧ o.lanes = ldGood ∧
        o.dst = s.dstOf c d (wordsTy m.ty) ldGood ∧ ∀ l < 32, o.lanes.getLsbD l = true → o.HasPart s (ldTo l) l 0 0))) ∧
  (s.CanIssue (memNeed m [regTy x m.ty] []) → s.MayTrap run → (∀ l < 32, run.getLsbD l = true → s.Settled (stTo l)) →
    Gives (exec (.st m x off) s) (fun t => s.Split t run 2 stTo ∧ (stGood ≠ 0 →
      ∃ o, look t.ops (t.fresh - 1) = some o ∧ s.OfWord o m.f ∧ o.kind = .store ∧ o.ty = m.ty ∧ o.lanes = stGood ∧
        ∀ l < 32, o.lanes.getLsbD l = true → o.HasPart s (stTo l) l (s.dataOf x m.ty l) 0))) ∧
  (s.CanIssue (memNeed m [regTy x m.ty] []) → (∀ l < 32, run.getLsbD l = true → s.Passes (stTo l)) →
    Gives (exec (.st m x off) s) (fun t => ∃ o, s.Began t o ∧ s.OfWord o m.f ∧ o.kind = .store ∧ o.ty = m.ty ∧
      o.ord = m.ord ∧ o.sc = m.sc ∧ o.lanes = run ∧ o.grp = 0 ∧ o.dst = [] ∧
      ∀ l < 32, run.getLsbD l = true → o.HasPart s (stTo l) l (s.dataOf x m.ty l) 0))

/-- R317 -/
def Obligations.ConstantLoadsRead : Prop := ∀ (m : MArgs) (d idx : Opnd) (off : BitVec 14) (s : State),
  let run := s.active m.g
  let c := s.cur.coh
  -- inside a speculative attempt as outside one (R140)
  let to_ := fun l => s.laneRes l 1 false (s.addr m (some idx) (off.signExtend 64) l) m.ty.bytes [] (fun _ _ => [])
  let ls := accLanes (fun _ => false) d.isS run
  s.CanIssue (memNeed m [regTy d m.ty, (idx, 1)] [idx]) → m.ord = .rlx →
  -- no operation that writes a word of the own register window is in flight (R55)
  (∀ l < 32, ls.getLsbD l = true → s.Reaches (to_ l) ∧ s.ownBusy c false l (to_ l).segs = false) →
  -- no line of the grid stands in the cluster's constant cache: the bytes come from their homes
  (∀ e ∈ getD s.constC (clusterOf (s.cohCore c)) [], e.grid ≠ (s.cohBlk c).grid) →
  Gives (exec (.ldc m d idx off) s) (fun t => t.mem = s.mem ∧ t.bank = s.bank ∧ s.SameRegs t ∧ s.GoesOn t ∧
    ∃ o, look t.ops (t.fresh - 1) = some o ∧ s.OfWord o m.f ∧ o.kind = .ldc ∧ o.ty = m.ty ∧
      o.lanes = ls ∧ o.dst = s.dstOf c d (wordsTy m.ty) ls ∧
      ∀ l < 32, o.lanes.getLsbD l = true → ∃ a, look o.acc l = some a ∧ a.segs = [] ∧
        a.x = BitVec.ofNat 128 (s.seen c (to_ l).segs))

/-- R315, R318 to R322 -/
def Obligations.AtomicsStart : Prop := ∀ (m : MArgs) (op : AOp) (d x : Opnd) (off : BitVec 10) (coff : BitVec 14) (s : State),
  let run := s.active m.g
  let c := s.cur.coh
  let n := m.ty.bytes
  let at_ := s.addr m none (off.signExtend 64)
  let cat := s.addr m none (coff.signExtend 64)
  let to_ := fun l => s.seek 3 (at_ l) n (aligned n (at_ l)) (kindPost s false) l
  let low := fun l => if d.isS then lowLane run else l
  let cto := fun l => s.seek 3 (cat (low l)) n (aligned n (cat (low l))) (kindPost s (m.ty == .b128)) l
  let ls := accLanes (s.coh c).spec d.isS run
  let good := goodLanes run to_
  -- lanes that fail are parked with their cause, and the others start their operation
  let split := fun (t : State) (e : Opnd) => s.Split t run 3 to_ ∧ (good ≠ 0 →
    ∃ o, look t.ops (t.fresh - 1) = some o ∧ s.OfWord o m.f ∧ o.kind = .rmw op ∧ o.ty = m.ty ∧ o.lanes = good ∧
      o.dst = s.dstOf c e (wordsTy m.ty) good ∧ ∀ l < 32, o.lanes.getLsbD l = true → o.HasPart s (to_ l) l (s.dataOf x m.ty l) 0)
  let is := fun (t : State) (o : Op) (k : OpKind) (e : Opnd) => s.Began t o ∧ s.OfWord o m.f ∧ o.kind = k ∧ o.ty = m.ty ∧
    o.ord = m.ord ∧ o.sc = m.sc ∧ o.dst = s.dstOf c e (wordsTy m.ty) run
  -- a deterministic grid buffers or refuses some of these (R193, R194, R323)
  (s.cohGrd c).det = false →
  (d.isS0 = false → s.CanIssue (memNeed m [regTy d m.ty, regTy x m.ty] [x]) →
    (∀ l < 32, run.getLsbD l = true → s.Passes (to_ l)) →
    Gives (exec (.atom m op d x off) s) (fun t => ∃ o, is t o (.rmw op) d ∧ o.lanes = run ∧
      ∀ l < 32, run.getLsbD l = true → o.HasPart s (to_ l) l (s.dataOf x m.ty l) 0)) ∧
  (s.CanIssue (memNeed m [regTy x m.ty] [x]) → (∀ l < 32, run.getLsbD l = true → s.Passes (to_ l)) →
    Gives (exec (.red m op x off) s) (fun t => ∃ o, is t o (.rmw op) (.s 0) ∧ o.lanes = run ∧
      ∀ l < 32, run.getLsbD l = true → o.HasPart s (to_ l) l (s.dataOf x m.ty l) 0) ∧
    Gives (exec (.atom m op (.s 0) x off) s) (fun t => ∃ o, is t o (.rmw op) (.s 0) ∧ o.lanes = run ∧
      ∀ l < 32, run.getLsbD l = true → o.HasPart s (to_ l) l (s.dataOf x m.ty l) 0)) ∧
  (d.isS0 = false → s.CanIssue (memNeed m [regTy d m.ty, regTy x m.ty] [x]) →
    (∀ l < 32, run.getLsbD l = true → s.Passes (to_ l) ∧ (s.coh c).spec l = false) →
    Gives (exec (.atoms m op d x off) s) (fun t => ∃ o, is t o (.atoms op) d ∧ o.lanes = run ∧
      ∀ l < 32, run.getLsbD l = true → o.HasPart s (to_ l) l (s.dataOf x m.ty l) 0)) ∧
  (s.CanIssue (memNeed m [regTy d m.ty, regTy x m.ty] [d, x]) →
    (∀ l < 32, ls.getLsbD l = true → s.Passes (cto l)) →
    (d.isS = true → ls = oneLane (lowLane run) ∨ ∀ l < 32, ls.getLsbD l = true → ∀ g ∈ (cto l).segs, g.loc = .mem) →
    Gives (exec (.cas m d x coff) s) (fun t => ∃ o, s.Began t o ∧ s.OfWord o m.f ∧ o.kind = .cas ∧ o.ty = m.ty ∧
      o.ord = m.ord ∧ o.sc = m.sc ∧ o.dst = s.dstOf c d (wordsTy m.ty) ls ∧ o.lanes = ls ∧
      o.grp = (if d.isS then run else 0) ∧
      ∀ l < 32, o.lanes.getLsbD l = true → o.HasPart s (cto l) l (s.dataOf x m.ty (low l)) (s.dataOf d m.ty (low l)))) ∧
  (s.MayTrap run → (∀ l < 32, run.getLsbD l = true → s.Settled (to_ l)) →
    (d.isS = false → s.CanIssue (memNeed m [regTy d m.ty, regTy x m.ty] [x]) →
      Gives (exec (.atom m op d x off) s) (fun t => split t d)) ∧
    (s.CanIssue (memNeed m [regTy x m.ty] [x]) → Gives (exec (.red m op x off) s) (fun t => split t (.s 0))))

/-- R229, R314, R316: a load or a computed result reaches its registers. -/
def Obligations.ResultsBind : Prop := ∀ (s : State) (i l : Nat) (o : Op) (a : LaneAcc), s.Performs i l o a → o.hold = 0 →
  -- the last piece of a load, or its only one
  (∀ g, o.kind = .load → a.segs = [g] → g.n ≤ o.ty.bytes → Gives (exec (.flaggedOpComplete i (oneLane l)) s) (fun t =>
    s.Bound t o l (placed o.ty (a.x.toNat + (s.readSeg o.who o.sc g).1 * 2 ^ (8 * (o.ty.bytes - g.n)))) ∧
    s.LanesDone t i o (oneLane l) ∧
    ((g.plain s).isSome = true → (s.readSeg o.who o.sc g).1 = g.bytes s ∧ t.mem = s.mem ∧ (s.Stays o → t.bank = s.bank)))) ∧
  -- an earlier piece: its bytes are kept, and the lane stays in flight with the others
  (∀ g h r, o.kind = .load → a.segs = g :: h :: r → Gives (exec (.flaggedOpComplete i (oneLane l)) s) (fun t =>
    look t.ops i = some { o with acc := set o.acc l { a with
      segs := h :: r
      x := a.x ||| (BitVec.ofNat 128 (s.readSeg o.who o.sc g).1 <<< (8 * (o.ty.bytes - (a.segs.map (·.n)).sum))) } } ∧
    s.SameRegs t)) ∧
  -- a load of the own register window was performed as it issued (R55)
  (o.kind = .load → a.segs = [] → Gives (exec (.flaggedOpComplete i (oneLane l)) s) (fun t =>
    s.Bound t o l (placed o.ty a.x.toNat) ∧ s.LanesDone t i o (oneLane l) ∧ t.mem = s.mem ∧ (s.Stays o → t.bank = s.bank))) ∧
  (o.kind = .ldc → Gives (exec (.flaggedOpComplete i (oneLane l)) s) (fun t =>
    s.Bound t o l (placed o.ty a.x.toNat) ∧ s.LanesDone t i o (oneLane l) ∧ t.mem = s.mem ∧ (s.Stays o → t.bank = s.bank))) ∧
  (o.kind = .comp → Gives (exec (.flaggedOpComplete i (oneLane l)) s) (fun t =>
    s.Bound t o l (a.x.zeroExtend 160) ∧ s.LanesDone t i o (oneLane l) ∧ t.mem = s.mem ∧ (s.Stays o → t.bank = s.bank) ∧
    (t.coh o.coh).nflags = (s.coh o.coh).nflags ||| a.cmp.truncate 5))

/-- R96, R316, R319, R322: stores and atomics are applied at their homes. -/
def Obligations.StoresAndAtomicsApply : Prop := ∀ (s : State) (i l : Nat) (o : Op) (a : LaneAcc) (g : Seg), s.Performs i l o a →
  o.hold = 0 → (g.plain s).isSome = true → o.ord = .rlx →
  let w := 8 * o.ty.bytes
  let old := g.bytes s
  -- a store that goes in pieces: each takes its own bytes of the data
  (∀ r, o.kind = .store → a.segs = g :: r → (a.segs.map (·.n)).sum ≤ o.ty.bytes →
    Gives (exec (.flaggedOpComplete i (oneLane l)) s) (fun t =>
      s.StoredAt t g (a.x.toNat >>> (8 * (o.ty.bytes - (a.segs.map (·.n)).sum))) (s.Stays o) ∧ s.SameRegs t ∧
      (r ≠ [] → look t.ops i = some { o with acc := set o.acc l { a with segs := r } }) ∧
      (r = [] → s.LanesDone t i o (oneLane l)))) ∧
  (a.segs = [g] → g.n = o.ty.bytes →
  (o.kind = .store → Gives (exec (.flaggedOpComplete i (oneLane l)) s) (fun t =>
    s.StoredAt t g a.x.toNat (s.Stays o) ∧ s.LanesDone t i o (oneLane l) ∧ s.SameRegs t)) ∧
  (∀ op, o.kind = .rmw op → Gives (exec (.flaggedOpComplete i (oneLane l)) s) (fun t =>
    s.StoredAt t g (newValue op o.ty w (BitVec.ofNat w old) (a.x.truncate w)).toNat (s.Stays o) ∧
    s.Bound t o l (placed o.ty old) ∧ s.LanesDone t i o (oneLane l))) ∧
  (o.kind = .cas → Gives (exec (.flaggedOpComplete i (oneLane l)) s) (fun t =>
    s.StoredAt t g (if BitVec.ofNat w old = a.cmp.truncate w then a.x.toNat else old) (s.Stays o) ∧
    s.Bound t o l (placed o.ty old) ∧ s.LanesDone t i o (oneLane l))))

/-- R320: one RMW for the group; each lane gets the value as if the lanes had gone one by one. -/
def Obligations.GroupAtomicsCombine : Prop := ∀ (s : State) (i : Nat) (o : Op) (op : AOp) (g : Seg) (n : LaneMask),
  look s.ops i = some o → o.kind = .atoms op → op ∈ [.add, .min, .max, .and, .or, .xor] → o.acc ≠ [] → sorted o.acc = true →
  (∀ e ∈ o.acc, e.1 < 32 ∧ o.lanes.getLsbD e.1 = true ∧ s.Performs i e.1 o e.2 ∧ e.2.segs = [g]) →
  (∀ l < 32, o.lanes.getLsbD l = true → (look o.acc l).isSome = true) →
  (o.dst.map (·.1)).Nodup → o.hold = 0 → (g.plain s).isSome = true → o.ord = .rlx → g.n = o.ty.bytes → n &&& o.lanes ≠ 0 →
  let w := 8 * o.ty.bytes
  let after := fun (k : Nat) => (o.acc.filter (fun e => e.1 < k)).foldl (fun v e =>
    newValue op o.ty w v (e.2.x.truncate w)) (BitVec.ofNat w (g.bytes s))
  Gives (exec (.flaggedOpComplete i n) s) (fun t => s.StoredAt t g (after 32).toNat (s.Stays o) ∧ s.LanesDone t i o o.lanes ∧
    ∀ e ∈ o.dst, (look o.acc e.2.1).isSome = true → ∀ m, ∀ j < 32, e.1 = .v (32 * m + j) →
      (t.coh o.coh).v m j = (placed o.ty (after e.2.1).toNat).extractLsb' (32 * e.2.2) 32)

/-- R111, R324 to R327 -/
def Obligations.FencesAndCacheControl : Prop := ∀ (g : Guard) (k : FenceKind) (sc : Scope) (l2 all : Bool) (base idx : Opnd)
    (off : BitVec 14) (s : State),
  let run := s.active g
  let c := s.cur.coh
  let core := s.cohCore c
  let part := s.cohPart c
  let at_ := s.lineVa base idx off
  -- a fence has no effect for lanes in a speculative attempt (R140)
  let plain := maskOf (fun l => run.getLsbD l && !(s.coh c).spec l)
  let waits := s.accessPending c plain (if k = .acq then (fun q => q != .store) else fun _ => true)
  let dis := fun (op : BitVec 8) => if all then bareNeed g false (some op) else lineNeed g base idx (some op)
  let named := fun (x : Nat) => all = false → ∃ l < 32, run.getLsbD l = true ∧ ∃ pa, (s.cacheable l (at_ l)).1 = some pa ∧ x = pa / 64
  let ready := all = false → ∀ l < 32, run.getLsbD l = true → (s.cacheable l (at_ l)).2 = false
  -- the core's TLB translates each address, so that no walk counts it (R36)
  let known := all = false → ∀ l < 32, run.getLsbD l = true → canonical (at_ l) = false ∨ isWindow (at_ l) = true ∨
    (s.core core).tlb.any (fun e => e.has (s.cohGrd c).tctx (at_ l)) = true
  let goes := fun (t : State) => s.SameRegs t ∧ s.GoesOn t ∧ t.bank = s.bank ∧ t.ops = s.ops
  (s.CanIssue (bareNeed g false (if k = .sc then some 0x48 else none)) →
    (plain = 0 → Gives (exec (.fence g k sc) s) s.Quiet) ∧
    (plain ≠ 0 → waits = true → Stalls (.fence g k sc) s) ∧
    (plain ≠ 0 → waits = false → Gives (exec (.fence g k sc) s) (fun t => goes t ∧ (t.coh c).dirty = [] ∧
      (sc ≠ .blk → k ≠ .acq → t.dirtySectors core part = [] ∧ s.Homes t core part (fun _ => True)) ∧
      (sc = .blk ∨ k = .acq → t.mem = s.mem) ∧
      (sc ≠ .blk → k ≠ .rel → ∀ e ∈ (t.core core).l1, e.part = part → e.filled = false ∧ e.mask ≠ 0) ∧
      (sc = .blk → (t.core core).l1 = (s.core core).l1)))) ∧
  -- a hint for the L2 may be dropped; for the L1 it takes the sector where the L1 has room, with the bytes of memory
  (s.CanIssue (lineNeed g base idx none) → Gives (exec (.pref g l2 base idx off) s) (fun t => goes t ∧
    (l2 = true → s.Quiet t) ∧
    (∀ x, getD t.mem x 0 = getD s.mem x 0 ∨ ∃ e, s.l1Find core part (x / 64) = some e ∧ e.mask.getLsbD (x % 64) = true ∧
      getD t.mem x 0 = secByte e.data (x % 64)) ∧
    ∀ l q tier, l2 = false → l < 32 → run = oneLane l → s.hit l 1 false (at_ l) 1 = .seg q tier → tier ≤ 1 → q.loc = .mem →
      q.l1 = true → s.l1Cap core part ≠ 0 → ∃ e, t.l1Find core part (q.a / 64) = some e ∧ e.filled = true ∧
        (s.l1Find core part (q.a / 64) = none → ∀ i < 64, secByte e.data i = getD t.mem (64 * (q.a / 64) + i) 0))) ∧
  -- what is written back reaches memory, and no write is lost
  (s.CanIssue (dis 0x4A) → ready → Gives (exec (.cwb g all base idx off) s) (fun t => goes t ∧
    (∀ x, named x → t.l1Find core part x = (s.l1Find core part x).map (fun e => { e with mask := 0 })) ∧
    (∀ x, ¬ named x → t.l1Find core part x = s.l1Find core part x) ∧
    (known → s.Homes t core part named))) ∧
  (s.CanIssue (dis 0x4B) → ready → Gives (exec (.cinv g all base idx off) s) (fun t => goes t ∧
    (∀ x, named x → t.l1Find core part x = none) ∧
    (∀ x, ¬ named x → t.l1Find core part x = s.l1Find core part x) ∧
    (known → s.Homes t core part named))) ∧
  (s.CanIssue (bareNeed g false (some 0x47)) →
    let mine := fun (e : BufEnt) => e.block == (s.coh c).block && e.coh == (s.coh c).idx
    (∀ e ∈ (s.core core).obuf, mine e = true → s.bufWaits e = false) →
    Gives (exec (.aflush g) s) (fun t => s.SameRegs t ∧ s.GoesOn t ∧ t.bank = s.bank ∧
      (t.core core).obuf = (s.core core).obuf.filter (fun e => !mine e) ∧
      -- the entries one after another in the order of R194
      (∀ es : List BufEnt, es.Perm ((s.core core).obuf.filter mine) → es.Pairwise (fun a b => bufLt a b = true) →
        (∀ e ∈ es, e.ord = .rlx ∧ (s.grd e.grid).stat = 0) → (s.core core).l1 = [] → (∀ k ∈ s.cores, k.2.rel = []) →
        ∀ a, getD t.mem a 0 = getD (es.foldl (fun m e =>
          let w := 8 * e.ty.bytes
          putBytes m e.pa e.ty.bytes (newValue e.op e.ty w (BitVec.ofNat w (getBytes m e.pa e.ty.bytes)) (e.x.truncate w)).toNat)
          s.mem) a 0)))

/-- R127, R128, R138, R329 -/
def Obligations.TransactionsBegin : Prop := ∀ (g : Guard) (d : BitVec 7) (cls : BitVec 8) (n : BitVec 4) (off : BitVec 29)
    (idx : BitVec 3) (s : State),
  let run := s.active g
  let c := s.cur.coh
  let k := s.coh c
  let part := s.cohPart c
  let exit := s.label (off.signExtend 32) idx
  s.CanIssue { bareNeed g true none with regs := [(.v d, 1)] } → s.cur.pc.toNat < exit.toNat →
  (s.cohGrd c).det = false → s.lockHeld part cls.toNat = none →
  (∀ l < 32, run.getLsbD l = true → (k.txOf l).isOpen = false ∧ (k.txOf l).retry = false) →
  (n ≠ 0 → Gives (exec (.txbeg g d cls n off idx) s) (fun t => s.GoesOn t ∧ t.mem = s.mem ∧ t.bank = s.bank ∧
    t.kiosk = s.kiosk ∧ s.StatusIn t d.toNat run (fun _ => 0) ∧
    ∀ l < 32, run.getLsbD l = true →
      let x := (t.coh c).txOf l
      (t.coh c).spec l = true ∧ x.cls = cls.toNat ∧ x.n = n.toNat ∧ x.fails = 0 ∧ x.beg = s.cur.pc ∧ x.exit = exit ∧
      x.sreg = d.toNat ∧ x.retry = false ∧ x.rlog = [] ∧ x.wlog = [])) ∧
  -- n = 0: every lane runs in fallback mode; the lowest takes the lock, the others wait for it at the word
  (n = 0 → Gives (exec (.txbeg g d cls n off idx) s) (fun t =>
    let x := (t.coh c).txOf (lowLane run)
    t.lockHeld part cls.toNat = some (.lane c (lowLane run)) ∧ x.isOpen = true ∧ x.fb = true ∧ x.cls = cls.toNat ∧
    x.beg = s.cur.pc ∧ x.exit = exit ∧ (t.coh c).v (k.name (lowLane run) d.toNat) (lowLane run) = 0x100000 ∧
    ∀ l < 32, run.getLsbD l = true → l ≠ lowLane run → (t.coh c).lockWait.getLsbD l = true ∧ (t.coh c).pcOf l = k.pcOf l))

/-- R137 to R139, R144, R330 -/
def Obligations.TransactionsEnd : Prop := ∀ (g : Guard) (d : BitVec 7) (code : BitVec 8) (l : Nat) (s : State),
  let run := s.active g
  let c := s.cur.coh
  let k := s.coh c
  let x := k.txOf l
  let closed := ∀ j < 32, run.getLsbD j = true → (k.txOf j).isOpen = false
  let alone := l < 32 ∧ run = oneLane l
  let idle := s.ops.all (fun o => o.2.coh != c) = true
  let passes := fun (t : State) => ∀ j < 32, s.cur.lanes.getLsbD j = true → (t.coh c).pcOf j = nextPc s.cur.pc s.cur.nw
  Computes (.txst g d) (.of g [(.v d, 1)] []) (.v d) false (fun s l =>
    let x := (s.coh s.cur.coh).txOf l
    (if x.isOpen then statusWord x.fb x.fails 0 0 else statusWord x.fb x.fails x.sub x.code).zeroExtend 64) ∧
  (s.CanIssue (bareNeed g true none) → idle →
    (closed → Gives (exec (.txend g) s) s.Quiet ∧ Gives (exec (.txabt g code) s) (fun t => s.SameRegs t ∧ s.GoesOn t ∧
      t = { s with
        cohorts := t.cohorts
        cur := t.cur })) ∧
    -- a commit: the write log is at the homes, the status says so
    (alone → k.spec l = true → s.Clean → s.txBad x = none → s.txValid x = true → (x.wlog.map (·.sector)).Nodup →
      Gives (exec (.txend g) s) (fun t => passes t ∧ ((t.coh c).txOf l).isOpen = false ∧
        s.StatusIn t x.sreg run (fun _ => statusWord false x.fails 0 0) ∧
        ∀ a, getD t.mem a 0 = match x.wlog.find? (fun e => e.sector == a / 64 && e.mask.getLsbD (a % 64)) with
          | some e => secByte e.data (a % 64)
          | none => getD s.mem a 0)) ∧
    -- a failed validation: the lane stands at its TXBEG again
    (alone → k.spec l = true → s.Clean → s.txBad x = none → s.txValid x = false → Gives (exec (.txend g) s) (fun t =>
      (t.coh c).pcOf l = x.beg ∧ ((t.coh c).txOf l).isOpen = false ∧ ((t.coh c).txOf l).retry = true ∧
      ((t.coh c).txOf l).fails = min (x.fails + 1) 15 ∧ ((t.coh c).txOf l).code = 0x03 ∧ ((t.coh c).txOf l).wlog = [] ∧
      s.SameRegs t ∧ t.mem = s.mem)) ∧
    -- the end of a fallback run
    (alone → x.isOpen = true → x.fb = true → Gives (exec (.txend g) s) (fun t => passes t ∧
      ((t.coh c).txOf l).isOpen = false ∧ t.lockHeld (s.cohPart c) x.cls = none ∧
      s.Homes t (s.cohCore c) (s.cohPart c) (fun _ => True) ∧
      s.StatusIn t x.sreg run (fun _ => statusWord true x.fails 0 0))) ∧
    -- an explicit abort of a fallback run keeps what it wrote and gives up its lock
    (alone → x.isOpen = true → x.fb = true → Gives (exec (.txabt g code) s) (fun t => (t.coh c).pcOf l = x.exit ∧
      ((t.coh c).txOf l).isOpen = false ∧ t.lockHeld (s.cohPart c) x.cls = none ∧
      s.Homes t (s.cohCore c) (s.cohPart c) (fun _ => True) ∧
      s.StatusIn t x.sreg run (fun _ => statusWord true x.fails code 0x01))) ∧
    -- an explicit abort: the logs are gone and the lane stands at its exit
    (alone → k.spec l = true → Gives (exec (.txabt g code) s) (fun t => (t.coh c).pcOf l = x.exit ∧
      ((t.coh c).txOf l).isOpen = false ∧ ((t.coh c).txOf l).wlog = [] ∧ t.mem = s.mem ∧
      s.StatusIn t x.sreg run (fun _ => statusWord false x.fails code 0x01))))

/-- R222, R229, R313, R335 to R337, R363: queue and ring words start. -/
def Obligations.QueueAndRingWordsStart : Prop := ∀ (m : MArgs) (g : Guard) (f : FlagSel) (d st x a : Opnd) (q : BitVec 8) (ring : BitVec 6)
    (adv : Bool) (s : State),
  let c := s.cur.coh
  let run := s.active m.g
  let no := (s.arg m.base true (lowLane run)).toNat + q.toNat
  let is := fun (t : State) (o : Op) (k : OpKind) => s.Began t o ∧ s.OfWord o m.f ∧ o.kind = k ∧ o.ty = m.ty ∧ o.ord = m.ord ∧ o.sc = m.sc
  (s.CanIssue { memNeed m [(st, 1), regTy x m.ty] [x] with disallow := some 0x4E } → no ≤ 255 →
    Gives (exec (.qpush m st x q) s) (fun t => ∃ o, is t o (.qpush no) ∧ o.lanes = run ∧ o.hold = 0 ∧
      o.dst = (if st.isV then s.dstOf c st 1 run else []) ∧
      ∀ l < 32, run.getLsbD l = true → ∃ e, look o.acc l = some e ∧
        e.x.toNat = (s.dataOf x m.ty l).toNat % 2 ^ (8 * m.ty.bytes))) ∧
  (s.CanIssue { memNeed m [regTy d m.ty, (st, 1)] [] with disallow := some 0x4F } → no ≤ 255 →
    Gives (exec (.qpop m d st false q) s) (fun t => ∃ o, is t o (.qpop no) ∧ o.lanes = accLanes (fun _ => false) (!d.isV) run ∧
      o.grp = (if d.isV then 0 else run) ∧ o.hold = 0)) ∧
  -- with WAIT the group stays at the word until every lane has a status
  (s.CanIssue { memNeed m [regTy d m.ty, (st, 1)] [] with disallow := some 0x4F } → no ≤ 255 →
    Gives (exec (.qpop m d st true q) s) (fun t => ∃ o, look t.ops s.fresh = some o ∧ s.OfWord o m.f ∧ o.kind = .qpop no ∧
      o.lanes = accLanes (fun _ => false) (!d.isV) run ∧ o.hold = s.cur.lanes ∧ s.SameRegs t ∧
      ∀ l < 32, (t.coh c).pcOf l = (s.coh c).pcOf l)) ∧
  (s.CanIssue { memNeed m [(d, if m.ty = .b64 then 2 else 1)] [] with disallow := some 0x50 } → no ≤ 255 →
    Gives (exec (.qcnt m d q) s) (fun t => ∃ o, is t o (.qcnt no) ∧ o.lanes = oneLane (lowLane run) ∧ o.grp = run ∧
      o.dst = s.dstOf c d (if m.ty = .b64 then 2 else 1) run)) ∧
  (s.CanIssue { Need.of g [] [(a, 1)] with flag := f, disallow := some 0x66 } → ring.toNat < (s.cohGrd c).nring →
    Gives (exec (.amax g f a ring adv) s) (fun t => ∃ o, s.Began t o ∧ s.OfWord o f ∧ o.kind = .amax ring.toNat adv ∧
      o.lanes = oneLane (lowLane (s.active g)) ∧ o.dst = [] ∧ ∃ e, look o.acc (lowLane (s.active g)) = some e ∧
      e.x = (amaxOf ((lanesOf (s.active g)).map (fun l => s.fval c a .fp32 false l))).1.zeroExtend 128)) ∧
  (s.CanIssue { Need.of g [(d, 1)] [] with flag := f, disallow := some 0x66 } → ring.toNat < (s.cohGrd c).nring →
    Gives (exec (.sring g f d ring) s) (fun t => ∃ o, s.Began t o ∧ s.OfWord o f ∧ o.kind = .sring ring.toNat ∧
      o.lanes = oneLane (lowLane (s.active g)) ∧ o.dst = s.dstOf c d 1 (s.active g)))

/-- R195, R196, R222, R334 to R337, R363: what they do at the controller and at the ring. -/
def Obligations.QueuesAndRingsServe : Prop := ∀ (s : State) (i l : Nat) (o : Op) (e : LaneAcc) (n : LaneMask),
  look s.ops i = some o → o.acc = [(l, e)] → o.lanes = oneLane l → l < 32 → n.getLsbD l = true → o.hold = 0 →
  s.laneBlocked i o l = false → s.pulling i l = false → e.segs = [] → o.ord = .rlx → (look s.cohorts o.coh).isSome = true →
  ((s.grd (s.blk (s.coh o.coh).block).grid).det = false ∨
    ((s.coh o.coh).live &&& ~~~(s.coh o.coh).exited ≠ 0 ∧ ∀ i < 16, ((s.blk (s.coh o.coh).block).bar i).arrived = 0)) →
  (o.dst.map (·.1)).Nodup → s.qwaits = [] → s.NoArea o.coh →
  let done := fun (t : State) => s.LanesDone t i o (oneLane l)
  let into := fun (t : State) (w : BitVec 160) => ∀ y ∈ o.dst, ∀ m, ∀ j < 32, y.1 = .v (32 * m + j) → y.2.1 = l →
    (t.coh o.coh).v m j = w.extractLsb' (32 * y.2.2) 32
  (∀ q, o.kind = .qpush q →
    let d := s.queue o.part q
    (d.ring = 0 → Gives (exec (.flaggedOpComplete i n) s) (fun t => done t ∧ into t 3 ∧ t.queue o.part q = d ∧ t.mem = s.mem)) ∧
    (d.ring ≠ 0 → d.tail - d.head = 4096 + (if d.spill = 0 then 0 else d.scap) →
      Gives (exec (.flaggedOpComplete i n) s) (fun t => done t ∧ into t 1 ∧ t.queue o.part q = d ∧ t.mem = s.mem)) ∧
    (d.ring ≠ 0 → d.tail - d.head ≠ 4096 + (if d.spill = 0 then 0 else d.scap) → d.tail < d.head + 4096 →
      Gives (exec (.flaggedOpComplete i n) s) (fun t => done t ∧ into t 0 ∧ (t.queue o.part q).head = d.head ∧
        (t.queue o.part q).tail = d.tail + 1 ∧ ∀ a, getD t.mem a 0 =
          if d.ringPa + 16 * (d.tail % 4096) ≤ a ∧ a < d.ringPa + 16 * (d.tail % 4096) + 16 then
            BitVec.ofNat 8 (e.x.toNat >>> (8 * (a - (d.ringPa + 16 * (d.tail % 4096)))))
          else getD s.mem a 0))) ∧
  -- with an s-register destination one entry serves the group (R238)
  (∀ q, o.kind = .qpop q → (o.grp = 0 ∨ o.grp.getLsbD l = true) →
    let d := s.queue o.part q
    let status := fun (t : State) (w : Word) => ∀ y ∈ o.dst, ∀ m, ∀ j < 32, y.1 = .v (32 * m + j) → y.2.1 = l → y.2.2 = 4 →
      (t.coh o.coh).v m j = w
    (d.ring = 0 → Gives (exec (.flaggedOpComplete i n) s) (fun t => done t ∧ status t 3 ∧ t.queue o.part q = d)) ∧
    (d.ring ≠ 0 → (d.bound = true ∨ d.tail ≤ d.head) →
      Gives (exec (.flaggedOpComplete i n) s) (fun t => done t ∧ status t 2 ∧ t.queue o.part q = d)) ∧
    (d.ring ≠ 0 → d.bound = false → d.head < d.tail →
      d.ents.head? = some (BitVec.ofNat 128 (getBytes s.mem (d.ringPa + 16 * (d.head % 4096)) 16)) → o.ty = .b128 →
      s.tagsAt [(d.ringPa + 16 * (d.head % 4096)) / 64] (.simt o.core (s.cohBlk o.coh).placed (s.coh o.coh).block o.sc) = [] →
      Gives (exec (.flaggedOpComplete i n) s) (fun t => done t ∧ status t 0 ∧ (t.queue o.part q).head = d.head + 1 ∧
        (t.queue o.part q).tail = d.tail ∧ ∀ y ∈ o.dst, ∀ m, ∀ j < 32, y.1 = .v (32 * m + j) → y.2.1 = l → y.2.2 < 4 →
          (t.coh o.coh).v m j = (BitVec.ofNat 160 (getBytes s.mem (d.ringPa + 16 * (d.head % 4096)) 16)).extractLsb' (32 * y.2.2) 32))) ∧
  (∀ q, o.kind = .qcnt q → o.grp = oneLane l →
    let d := s.queue o.part q
    let v := if d.ring = 0 then 0 else d.tail - d.head
    (o.ty = .b64 → Gives (exec (.flaggedOpComplete i n) s) (fun t => done t ∧ into t (BitVec.ofNat 160 v))) ∧
    (o.ty = .b32 → Gives (exec (.flaggedOpComplete i n) s) (fun t => done t ∧ into t (BitVec.ofNat 160 (min v 0xFFFFFFFF))))) ∧
  (∀ r adv, o.kind = .amax r adv →
    let b := (s.cohBlk o.coh).grid
    let k := s.ring b r
    let top : Word := if k.c.toNat < (e.x.truncate 32 : Word).toNat then e.x.truncate 32 else k.c
    (look s.grids b).isSome = true → Gives (exec (.flaggedOpComplete i n) s) (fun t => done t ∧
      t.ring b r = (if adv then ⟨0, k.h.set k.cursor top, (k.cursor + 1) % 16⟩ else { k with c := top }) ∧ s.SameRegs t)) ∧
  (∀ r, o.kind = .sring r → o.grp = oneLane l → Gives (exec (.flaggedOpComplete i n) s) (fun t =>
    done t ∧ into t (BitVec.ofNat 160 (s.ring (s.cohBlk o.coh).grid r).scale)))

/-- R158, R239 to R241: both halves of a paired word. -/
def Obligations.PairedWords : Prop := ∀ (h0 h1 : Half) (s : State),
  let c := s.cur.coh
  let x0 := s.lanesOfHalf h0 none
  let x1 := s.lanesOfHalf h1 none
  let p0 := s.lanesOfHalf h0 (some false)
  let p1 := s.lanesOfHalf h1 (some true)
  let u := s.openRegion false
  (look s.cohorts c).isSome = true → s.cur.stall = false →
  ((x0 ||| x1) ≠ 0 → (x0 ≠ 0 → s.HalfReady s h0 x0) → (x1 ≠ 0 → s.HalfReady s h1 x1) → pairBroken h0 h1 = false →
    Gives (exec (.pairedCoIssue h0 h1) s) (fun t => s.Paired s t h0 h1 x0 x1)) ∧
  ((p0 ||| p1) ≠ 0 → (∀ l < 32, s.cur.lanes.getLsbD l = true → (s.coh c).inRegion l = true) →
    (p0 ≠ 0 → s.HalfReady u h0 p0) → (p1 ≠ 0 → s.HalfReady u h1 p1) →
    Gives (exec (.pairedPathSplit h0 h1) s) (fun t => s.Paired u t h0 h1 p0 p1))

/-- R129, R132, R133, R144, R332: the base-die words. -/
def Obligations.BaseDieWords : Prop := ∀ (rd rs1 : BitVec 5) (code : BitVec 8) (s : State),
  let h := s.cur.hart
  let k := s.hart h
  let cls := (k.xr rs1).toNat % 256
  -- kx.begin: the checkpoint, the ticket and status 0; no wait for a held lock; nesting aborts
  (k.tx = none → k.lock = none → s.lockHeld k.part cls = none → Gives (exec (.kxBegin rd rs1) s) (fun t =>
    ∃ start, s.HartIs t h ({ k with
      tx := some ⟨cls, s.kiosk.ticket, rd.toNat, k.pc + 4, [], [], [], k.x, k.f, start⟩
      status := 0
      pc := k.pc + 4 }.withX rd 0) ∧ s.kiosk.ticket < t.kiosk.ticket)) ∧
  (∀ w, k.tx = none → k.lock = none → s.lockHeld k.part cls = some w → Gives (exec (.kxBegin rd rs1) s) (fun t =>
    s.HartIs t h ({ k with
      status := statusWord false 0 (BitVec.ofNat 8 cls) 0x0D
      pc := k.pc + 4 }.withX rd ((statusWord false 0 (BitVec.ofNat 8 cls) 0x0D).zeroExtend 64)))) ∧
  (∀ held, k.tx = none → k.lock = some held → Gives (exec (.kxBegin rd rs1) s) (fun t =>
    s.HartIs t h ({ k with
      status := statusWord false 0 (BitVec.ofNat 8 held) 0x0D
      pc := k.pc + 4 }.withX rd ((statusWord false 0 (BitVec.ofNat 8 held) 0x0D).zeroExtend 64)))) ∧
  (∀ u, k.tx = some u → Gives (exec (.kxBegin rd rs1) s) (fun t => s.HartIs t h (k.aborted u 0x09 0))) ∧
  -- kx.end: the writes are published; or the lock is released; or nothing
  (∀ u, k.tx = some u → sorted u.writes = true → Gives (exec .kxEnd s) (fun t =>
    t.hart h = { k with
      tx := none
      status := 0
      pc := k.pc + 4 } ∧ (∀ a, getD t.mem a 0 = (look u.writes a).getD (getD s.mem a 0)) ∧ t.bank = s.bank ∧
    t.cohorts = s.cohorts ∧ s.kiosk.ticket < t.kiosk.ticket)) ∧
  (∀ held, k.tx = none → k.lock = some held → Gives (exec .kxEnd s) (fun t => t.lockHeld k.lockPart held = none ∧
    s.HartIs t h { k with
      lock := none
      status := 0
      pc := k.pc + 4 })) ∧
  (k.tx = none → k.lock = none → Gives (exec .kxEnd s) (fun t => s.HartIs t h { k with
    status := 0
    pc := k.pc + 4 })) ∧
  -- kx.abort, kx.stat
  (∀ u, k.tx = some u → Gives (exec (.kxAbort code) s) (fun t => s.HartIs t h (k.aborted u 0x01 code))) ∧
  (k.tx = none → Gives (exec (.kxAbort code) s) (fun t => s.HartIs t h { k with pc := k.pc + 4 })) ∧
  Gives (exec (.kxStat rd) s) (fun t => s.HartIs t h ({ k with pc := k.pc + 4 }.withX rd (k.status.zeroExtend 64))) ∧
  -- kx.lock: taken, or waited for at the word; nested and second locks
  (k.tx = none → k.lock = none → s.lockHeld k.part cls = none → Gives (exec (.kxLock rs1) s) (fun t =>
    t.lockHeld k.part cls = some (.hart h) ∧ t.hart h = { k with
      lock := some cls
      lockPart := k.part
      waitLock := none
      status := 0
      pc := k.pc + 4 } ∧
    (∀ j ∈ s.harts, ∀ u, j.1 ≠ h → j.2.tx = some u → s.hart j.1 = j.2 → j.2.part = k.part → u.cls = cls →
      t.hart j.1 = j.2.aborted u 0x08 (BitVec.ofNat 8 cls)))) ∧
  (∀ w, k.tx = none → k.lock = none → s.lockHeld k.part cls = some w → Gives (exec (.kxLock rs1) s) (fun t =>
    s.HartIs t h { k with waitLock := some cls })) ∧
  (∀ u, k.tx = some u → Gives (exec (.kxLock rs1) s) (fun t => s.HartIs t h (k.aborted u 0x09 0))) ∧
  (∀ held, k.tx = none → k.lock = some held → Gives (exec (.kxLock rs1) s) (fun t =>
    s.HartIs t h (k.trapped 2 0)))

/-- R156, R296, R365: renaming tables and the restart register are loaded as the word issues. -/
def Obligations.TablesLoad : Prop := ∀ (m : MArgs) (path : Bool) (idx : Opnd) (off : BitVec 14) (g : Guard) (i : BitVec 6)
    (seg : Seg) (s : State),
  let c := s.cur.coh
  let k := s.coh c
  let at_ := fun (g : Guard) => lowLane (s.active g)
  let va := s.addr m (some idx) (off.signExtend 64) (at_ m.g)
  let lbl := ((s.cohGrd c).rstt + 8 * i.toNat) % 2 ^ 64
  let v := seg.bytes s
  let same := fun (t : State) => s.SameRegs t ∧ s.GoesOn t ∧ t.mem = s.mem ∧ t.bank = s.bank
  (s.CanIssue ⟨g, [], [], .off, false, some 0x63⟩ → Gives (exec (.rstl g i true) s) (fun t => same t ∧ (t.coh c).restart = 0)) ∧
  -- nothing of the cohort is in flight, nothing must be pulled, and the access lies in one plain piece
  (s.ops.all (fun o => o.2.coh != c) = true → (∀ e ∈ s.cores, e.2.rel = []) → (seg.plain s).isSome = true →
    (s.CanIssue { memNeed m [(idx, 1)] [idx] with meldBan := true } → m.ty = .b128 → m.ord = .rlx → va % 16 = 0 →
      s.Passes (s.seek 1 va 16 [] (fun _ _ => []) (at_ m.g)) → (s.seek 1 va 16 [] (fun _ _ => []) (at_ m.g)).segs = [seg] →
      (∀ l < 32, (s.active m.g).getLsbD l = true → k.spec l = false) → (∀ j < 8, v.testBit (16 * j + 7) = false) →
      Gives (exec (.rnld m path idx off) s) (fun t => same t ∧
        (t.coh c).rnt0 = (if path then k.rnt0 else BitVec.ofNat 128 v) ∧
        (t.coh c).rnt1 = (if path then BitVec.ofNat 128 v else k.rnt1))) ∧
    (s.CanIssue ⟨g, [], [], .off, false, some 0x63⟩ → (s.cohGrd c).rstt ≠ 0 →
      s.Passes (s.seek 1 lbl 8 [] (fun _ _ => []) (at_ g)) → (s.seek 1 lbl 8 [] (fun _ _ => []) (at_ g)).segs = [seg] →
      v % 64 = 0 → canonical v = true →
      Gives (exec (.rstl g i false) s) (fun t => same t ∧ (t.coh c).restart = BitVec.ofNat 64 v)))

/-- R340: which op-table entry a command takes; R364: future handles. -/
def Obligations.FuturesAndOpTable : Prop :=
  -- `away`: slots to which pending commands of a partition that is switched out will return (R342, R386)
  (∀ (k : Core) (away : Nat → Bool),
  let taken := fun (j : Nat) => (look k.opt j).isSome = true ∨ away j = true
  (∀ slot gen, k.freeOpt away = some (slot, gen) → away slot = false ∧
    ((slot < 256 ∧ look k.opt slot = none ∧ gen = 1 ∧ ∀ j < slot, taken j) ∨
    ((∀ j < 256, taken j) ∧ ∃ o, (slot, o) ∈ k.opt ∧ o.busy = false ∧ gen = (o.gen + 1) % 4096 ∧
      ∀ e ∈ k.opt, e.2.busy = false → away e.1 = false → o.doneSeq ≤ e.2.doneSeq))) ∧
  (k.freeOpt away = none ↔ (∀ j < 256, taken j) ∧ ∀ e ∈ k.opt, e.2.busy = true ∨ away e.1 = true)) ∧
  (∀ (g : Guard) (d a : Opnd) (p : BitVec 3) (s : State),
  let run := s.active g
  let c := s.cur.coh
  let h := (s.arg a false (lowLane run)).toNat
  let ours := fun (o : Opt) => look (s.core (s.cohCore c)).opt (h % 256) = some o ∧ 1 ≤ h / 2 ^ 28 % 16 ∧ h / 2 ^ 28 % 16 ≤ 4 ∧
    h / 2 ^ 8 % 2 ^ 8 = 0 ∧ o.block = (s.coh c).block
  let match_ := fun (o : Opt) => o.gen = h / 2 ^ 16 % 2 ^ 12
  let w := fun (v : Nat) => Gives (exec (.futw g d a) s) (fun t => s.Wrote t d false run (fun _ => BitVec.ofNat 64 v) 0)
  let test := fun (b : Bool) => Gives (exec (.futt g p a) s) (fun t => s.WroteP t p.toNat run (fun _ => b) 0)
  (s.CanIssue { Need.of g [(d, 1)] [(a, 1)] with disallow := some 0x63 } →
    (h / 2 ^ 28 % 16 = 0 → w h) ∧
    (h / 2 ^ 28 % 16 ≠ 0 → (¬ ∃ o, ours o) → w 0x0700) ∧
    (∀ o, ours o → ¬ match_ o → w 0x0600) ∧
    (∀ o, ours o → match_ o → o.busy = false → w o.status.toNat) ∧
    (∀ o, ours o → match_ o → o.busy = true → Stalls (.futw g d a) s)) ∧
  (s.CanIssue { Need.of g [] [(a, 1)] with sread := [], disallow := some 0x63 } →
    (∀ o, ours o → match_ o → o.busy = true → test false) ∧
    ((¬ ∃ o, ours o ∧ match_ o ∧ o.busy = true) → test true) ∧
    (∀ o, ours o → match_ o → o.busy = true → Gives (exec (.futc g a) s) (fun t => s.GoesOn t ∧ s.SameRegs t ∧ t.mem = s.mem ∧
      look (t.core (s.cohCore c)).opt (h % 256) = some { o with cancel := true })) ∧
    ((¬ ∃ o, ours o ∧ match_ o ∧ o.busy = true) → Gives (exec (.futc g a) s) s.Quiet)))

/-- R340 to R345, R352 to R355, R361, R392, R394: copies, conversions and fabric commands issue. -/
def Obligations.CopiesAndTransfersIssue : Prop := ∀ (e : EArgs) (a b c : BitVec 6) (vb : BitVec 7) (om : BitVec 5) (wt : BitVec 4)
    (kind : BitVec 2) (slot gen : Nat) (s : State),
  let me := s.cur.coh
  let run := s.active e.g
  let r := s.dreg a
  let f := (s.cohGrd me).fslot e.fs.toNat
  let code := fsCode f
  let bfp := isBfp code
  let low := fun (i : Nat) => ((r i).toNat % 2 ^ 32 : Nat)
  let slo := fun (i : Nat) => ((r i).extractLsb' 0 32).toInt
  let shi := fun (i : Nat) => ((r i).extractLsb' 32 32).toInt
  let rows := (r 2).toNat / 2 ^ 32 % 2 ^ 16
  let group := upto a.toNat 4
  let three := upto a.toNat 3
  let vo := fun (l : Nat) => s.arg (.v vb) true l
  -- a gather's or scatter's strided side is checked over its span, and each row of both sides by itself
  let strided := fun (st : Int) => (lanesOf run).map (fun (l : Nat) => l * st)
  let copyOk := low 2 ≤ 0x1000000 ∧ (r 2).toNat < 2 ^ 48
  let takes := fun (i : Instr) (eng : Nat) (desc : List DWord) (offs : List (Nat × DWord)) (fo : Option Instr) =>
    Gives (exec i s) (fun t => ∃ more, s.Taken t e i eng slot gen (desc ++ more) offs fo)
  let n := ((s.coh me).sreg b.toNat).toNat % 2 ^ 32
  let narrow := if bfp then n * bfpM code / 8 else n * elemSize code
  let scales := if bfp then 2 * (n / blockSize (fsBsz f)) else 0
  let qOk := (wt.toNat ≤ 2 ∨ wt.toNat = 13) ∧ isTile code = true ∧ (bfp = true → n % blockSize (fsBsz f) = 0)
  let narrowAt := fun (i : Nat) => (r i).toNat % (if bfp then 2 else max 2 (elemSize code)) = 0
  let scalesAt := fun (i : Nat) => (r i).toNat % 2 = 0 ∧ (bfp = false → r i = 0)
  let wideAt := fun (i : Nat) => (r i).toNat % max 2 (elemSize wt.toNat) = 0
  let rec_ := (s.coh me).sreg b.toNat
  e.d ≠ 0 → s.freeOpt (s.cohCore me) (s.cohPart me) = some (slot, gen) →
  (s.CanIssue (cmdNeed e 0x60 [] group) → copyOk →
    (low 2 = 0 ∨ rows = 0 ∨ (s.ClearRows 5 (r 0) rows (low 2) (slo 3) ∧ s.ClearRows 6 (r 1) rows (low 2) (shi 3))) →
    takes (.cpy e a) 1 [r 0, r 1, r 2, r 3] [] none) ∧
  (s.CanIssue (cmdNeed e 0x60 [(.v vb, 2)] group) → copyOk → rows = 1 →
    (slo 3 = 0 → (low 2 = 0 ∨ (s.ClearAt 6 (r 1) (strided (shi 3)) (low 2) ∧ ∀ l < 32, run.getLsbD l = true →
        s.ClearAt 5 (r 0) [(vo l).toInt] (low 2) ∧ s.ClearAt 6 (r 1) [l * shi 3] (low 2))) →
      takes (.cpyg e a vb) 1 [r 0, r 1, r 2, r 3] ((lanesOf run).map (fun l => (l, vo l))) none) ∧
    (shi 3 = 0 → (s.ClearAt 5 (r 0) (strided (slo 3)) (low 2) ∧ ∀ l < 32, run.getLsbD l = true →
        s.ClearAt 5 (r 0) [l * slo 3] (low 2) ∧ s.ClearAt 6 (r 1) [(vo l).toInt] (low 2)) →
      takes (.cpys e a vb) 1 [r 0, r 1, r 2, r 3] ((lanesOf run).map (fun l => (l, vo l))) none)) ∧
  -- CPYM with a follow-on or without
  (∀ fo : Option Instr, (c = 0 ∧ fo = none) ∨ (c ≠ 0 ∧ fo.isSome = true ∧ followOf ((s.coh me).sreg c.toNat) = fo) →
    s.CanIssue (cmdNeed e 0x60 [] (group ++ optReg c)) → isTile code = true → (r 0).toNat % 16 = 0 →
    (if bfp then (r 1).toNat % 2 = 0 else r 1 = 0) → (r 2).toNat < 2 ^ 32 → slo 2 % 16 = 0 → (r 3).toNat < 2 ^ 32 →
    (if bfp then slo 3 % 2 = 0 else r 3 = 0) →
    s.mayUse me (om.toNat :: (fo.map cmdSlotsRead).getD []) (fo.bind cmdAcc).toList = true →
    unitsOf code (fsBsz f) ≤ s.unitsAt me om.toNat →
    (∀ i ∈ fo, let q := s.pairFmt me i (some (om.toNat, code, fsBsz f)); pairOk (isMmb i) q.1 q.2.2.1 = true) →
    s.ClearRows 5 (r 0) 64 (rowBytes code) (slo 2) → (bfp = true → s.ClearRows 5 (r 1) 64 (scaleBytes code (fsBsz f)) (slo 3)) →
    Gives (exec (.cpym e a c om) s) (fun t => ∃ more, s.Taken t e (.cpym e a c om) 1 slot gen ([r 0, r 1, r 2, r 3] ++ more) [] fo ∧
      (t.slot (s.cohCore me) (s.cohPart me) om.toNat).fmt = code ∧ (t.slot (s.cohCore me) (s.cohPart me) om.toNat).bsz = fsBsz f)) ∧
  -- QNT and DQNT
  (s.CanIssue (cmdNeed e 0x65 [] (three ++ optReg b ++ optReg c)) → qOk →
    (wideAt 0 → narrowAt 1 → scalesAt 2 → s.Clear 5 (r 0) (n * elemSize wt.toNat) → s.Clear 6 (r 1) narrow →
      s.Clear 6 (r 2) scales →
      takes (.qnt e a b c wt) 1 [r 0, r 1, r 2, (s.coh me).sreg b.toNat, (s.coh me).sreg c.toNat] [] none) ∧
    (narrowAt 0 → scalesAt 1 → wideAt 2 → s.Clear 5 (r 0) narrow → s.Clear 5 (r 1) scales →
      s.Clear 6 (r 2) (n * elemSize wt.toNat) →
      takes (.dqnt e a b c wt) 1 [r 0, r 1, r 2, (s.coh me).sreg b.toNat, (s.coh me).sreg c.toNat] [] none)) ∧
  -- the fabric
  (rec_.toNat % 16 = 0 → (r 2).toNat < 2 ^ 32 →
    (s.CanIssue (cmdNeed e 0x64 [] (group ++ optReg b)) → (r 3).toNat % 64 = 0 → (code ≤ 4 ∨ code = 12 ∨ code = 13) →
      let p := match s.groupOf_ (s.cohPart me) (s.cohGrd me).tctx (r 3).toNat with
        | some v => max 1 v.2.1
        | none => 1
      s.Clear 5 (r 0) (low 2 * elemSize code) → s.Clear 6 (r 1) (collDstElems kind.toNat (low 2) p * elemSize code) →
      takes (.coll e a b kind) 3 [r 0, r 1, r 2, r 3, rec_] [] none) ∧
    (s.CanIssue (cmdNeed e 0x64 [] (three ++ optReg b)) →
      (s.Clear 5 (r 0) (low 2) → takes (.put e a b) 4 [r 0, r 1, r 2, rec_] [] none) ∧
      (s.Clear 6 (r 1) (low 2) → takes (.get e a b) 4 [r 0, r 1, r 2, rec_] [] none)))

/-- R340 to R345, R348, R349, R357, R358, R360: matrix commands issue; a group finds no free entry and waits. -/
def Obligations.MatrixCommandsIssue : Prop := ∀ (e : EArgs) (a b : Opnd) (ra rb rc : BitVec 6) (om om2 : BitVec 5) (acc : BitVec 3)
    (try_ h : Bool) (scu : BitVec 2) (slot gen : Nat) (s : State),
  let me := s.cur.coh
  let f := (s.cohGrd me).fslot e.fs.toNat
  let code := fsCode f
  let base := (s.coh me).sreg ra.toNat
  let st := fun (dense : Nat) => if rb = 0 then (dense : Int) else (((s.coh me).sreg rb.toNat).extractLsb' 0 32).toInt
  let mask := fun (o : Opnd) => s.arg o false (lowLane (s.active e.g))
  let takes := fun (i : Instr) (desc : List DWord) =>
    Gives (exec i s) (fun t => ∃ more, s.Taken t e i 2 slot gen (desc ++ more) [] none)
  let product := fun (i : Instr) => let q := s.pairFmt me i none; pairOk (isMmb i) q.1 q.2.2.1 = true
  (s.CanIssue (cmdNeed e 0x61 [] []) → s.freeOpt (s.cohCore me) (s.cohPart me) = none → s.mayUse me [] [acc.toNat] = true →
    Stalls (.accz e acc) s) ∧
  (e.d ≠ 0 → s.freeOpt (s.cohCore me) (s.cohPart me) = some (slot, gen) →
    (s.CanIssue (cmdNeed e 0x61 [] (sregsOf [a, b])) → takes (.omclm e a b try_ scu) [mask a, mask b] ∧
      takes (.omrel e a b) [mask a, mask b]) ∧
    (s.mayUse me [] [acc.toNat] = true →
      (s.CanIssue (cmdNeed e 0x61 [] []) → takes (.accz e acc) []) ∧
      (s.CanIssue (cmdNeed e 0x61 [] (ra.toNat :: optReg rb)) → (code ≤ 4 ∨ code = 12) →
        let n := elemSize code
        base.toNat % n = 0 → st (64 * n) % n = 0 → s.ClearRows 5 base 64 (64 * n) (st (64 * n)) →
        takes (.accld e ra rb acc) [base, BitVec.ofInt 64 (st (64 * n))]) ∧
      (s.CanIssue (cmdNeed e 0x61 [] (upto ra.toNat 2 ++ optReg rb ++ optReg rc)) → code ≤ 13 →
        s.ClearRows 6 base 64 (denseRow code) (st (denseRow code)) →
        (isBfp code = true → s.Clear 6 (s.dreg ra 1) (64 * 2 * (64 / blockSize (fsBsz f)))) →
        takes (.accst e ra rb rc acc) [base, s.dreg ra 1, BitVec.ofInt 64 (st (denseRow code)), (s.coh me).sreg rc.toNat])) ∧
    (s.CanIssue (cmdNeed e 0x61 [] (optReg rc)) → isTile code = true → ¬ ((code = 1 ∨ code = 2) ∧ h = true) →
      s.mayUse me [om.toNat] [acc.toNat] = true → unitsOf code (fsBsz f) ≤ s.unitsAt me om.toNat →
      Gives (exec (.accmv e om rc acc h) s) (fun t =>
        ∃ more, s.Taken t e (.accmv e om rc acc h) 2 slot gen ((s.coh me).sreg rc.toNat :: more) [] none ∧
          (t.slot (s.cohCore me) (s.cohPart me) om.toNat).fmt = code ∧
          (t.slot (s.cohCore me) (s.cohPart me) om.toNat).bsz = fsBsz f)) ∧
    (s.CanIssue (cmdNeed e 0x62 [] []) → s.mayUse me [om.toNat, om2.toNat] [acc.toNat] = true →
      (product (.mma e om om2 acc) → takes (.mma e om om2 acc) []) ∧
      (product (.mmb e om om2 acc) → takes (.mmb e om om2 acc) [])))

/-- R36, R37, R39, R40, R154: walks end, and every miss that the page serves with them. -/
def Obligations.WalksEnd : Prop := ∀ (s : State) (k : Nat) (w : Walk),
  let core := s.cohCore w.coh
  let end_ := s.walkOn (dieOf core) w.tctx w.va
  look s.walks k = some w → w.bad = none → w.lvl = none →
  -- a walk, and the fetch of a group that waits for one (R154)
  (∀ i, i = .walkComplete k ∨ (i = .instructionCacheFill w.coh w.pc ∧ clauseAt w.pc = clauseAt (BitVec.ofNat 64 w.va) ∧
      s.walks.filter (fun e => e.2.coh == w.coh && e.2.pc == w.pc) = [(k, w)]) →
    (∀ e a, end_ = .ok e a → e.has w.tctx w.va = true → Gives (exec i s) (fun t =>
      look t.walks k = some { w with lvl := some e.lvl } ∧ e ∈ (t.core core).tlb ∧ e ∈ getD t.cluTlb (clusterOf core) [] ∧
      (∀ j x, look s.walks j = some x → x.bad = none → x.lvl = none → dieOf (s.cohCore x.coh) = dieOf core →
        e.has x.tctx x.va = true → look t.walks j = some { x with lvl := some e.lvl }) ∧
      s.SameRegs t ∧ t.bank = s.bank)) ∧
    (∀ c l, end_ = .bad c l → Gives (exec i s) (fun t =>
      look t.walks k = some { w with bad := some (c, l) } ∧ t = { s with walks := t.walks })) ∧
    (∀ l, end_ = .mv l → w.mv = none → Gives (exec i s) (fun t =>
      look t.walks k = some { w with mv := some t.time } ∧ s.time < t.time ∧ s.SameRegs t ∧ t.mem = s.mem ∧ t.bank = s.bank))) ∧
  -- 40 µs after MV = 1 was met, with no move of the region in progress, the word that waits takes cause 0x15; before that, and
  -- while the region moves, the wait goes on
  (∀ l x, end_ = .mv l → w.mv = some x →
    Gives (exec (.mvWaitTimeout k) s) (fun t => s.time < t.time ∧
      look t.walks k = some (if x + 40000 ≤ t.time ∧ s.moving w.tctx w.va = false then { w with bad := some (0x15, l) } else w) ∧
      (∀ j, j ≠ k → look t.walks j = look s.walks j) ∧
      t = { s with
        time := t.time
        fresh := t.fresh
        walks := t.walks })) ∧
  (w.mv = none → Gives (exec (.mvWaitTimeout k) s) (fun t => t = s))

/-- R42: TLB invalidations are accepted, and complete once every access that a dropped entry served is performed at pkg. -/
def Obligations.TlbInvalidations : Prop := ∀ (s : State) (k n : Nat) (what : InvalWhat) (v : Inval),
  (s.tctxEn n = true → s.callRoom (s.tctxPart n) = true → Gives (exec (.tlbInvalidate n what) s) (fun t =>
    t = { s with invals := t.invals } ∧ ∃ j, look s.invals j = none ∧ look t.invals j = some ⟨s.tctxPart n, n, what⟩ ∧
      ∀ i, i ≠ j → look t.invals i = look s.invals i)) ∧
  (look s.invals k = some v → s.inFlight v.tctx (s.dropped v) = false → Gives (exec (.tlbInvalidateComplete k) s) (fun t =>
    look t.invals k = none ∧ s.Said t (.mail v.part 0) ∧ s.SameRegs t ∧ t.bank = s.bank ∧
    (∀ c e, e ∈ (t.core c).tlb ↔ e ∈ (s.core c).tlb ∧ ¬ v.Names e) ∧
    (∀ c e, e ∈ getD t.cluTlb c [] ↔ e ∈ getD s.cluTlb c [] ∧ ¬ v.Names e) ∧
    (∀ d e, e ∈ getD t.walkC d [] ↔ e ∈ getD s.walkC d [] ∧ e.tctx ≠ v.tctx) ∧
    -- what the L1s held dirty at an address of a dropped entry is at its home, and nothing else changes in memory
    (∀ c x, x ∈ (t.core c).l1 → inEntries (s.dropped v) (64 * x.sector) = true → x.mask = 0) ∧
    (∀ w ∈ t.ewr, w.part ≠ v.part) ∧
    ((∀ w ∈ s.ewr, w.part ≠ v.part) → s.AllHome t (fun _ _ x => inEntries (s.dropped v) (64 * x) = true)))) ∧
  -- while an access that was translated so is still on its way, the invalidation goes on
  (look s.invals k = some v → s.inFlight v.tctx (s.dropped v) = true → Gives (exec (.tlbInvalidateComplete k) s) (fun t => t = s))

/-- R62 to R66, R106, R108: peer accesses, lines that land, pulls of release sets. -/
def Obligations.PeersLinesAndPulls : Prop := ∀ (s : State) (k : Nat),
  (∀ x, look s.transit k = some x → x.arrived = false →
    let there := ∃ b, s.blkOfRank (s.cohBlk x.coh).placed x.rank = some b ∧ b.2.exited = false ∧ b.2.place = .resident
    (there → Gives (exec (.peerAccessArrive k) s) (fun t =>
      look t.transit k = some { x with arrived := true } ∧ s.SameRegs t ∧ t.mem = s.mem ∧ t.bank = s.bank)) ∧
    (¬ there → Gives (exec (.peerAccessArrive k) s) (fun t =>
      look t.transit k = some { x with arrived := true, acc := [] } ∧ s.SameRegs t ∧ t.mem = s.mem ∧ t.bank = s.bank))) ∧
  (∀ core slot line o, s.optOf core slot = some o → o.busy = true → (∀ tid, o.st ≠ .pageFault tid) → o.cancel = false →
    engOf o.instr = 1 → o.landed.contains line = false → s.cmdBlocked core o = false →
    let todo := ((o.pieces).drop o.prog).filter (fun a => (ownLines (s.blk o.block) a.2.1 a.2.2).contains line)
    let ran := State.copyRun core o false false todo 0 (s.engAcquire core o)
    todo ≠ [] → ran.1 = .ok →
    Gives (exec (.copyLineLanded core slot line) s) (fun t => s.SameRegs t ∧
      t.optOf core slot = some { o with landed := o.landed ++ [line], st := .running } ∧
      (∀ e, e ∈ (t.blk o.block).absent ↔ e ∈ (s.blk o.block).absent ∧ e ≠ (line, o.seq)) ∧
      t.mem = ran.2.2.mem ∧ t.bank = ran.2.2.bank)) ∧
  (∀ p, look s.pulls k = some p →
    -- the set of the release and every older one of its partition go home: no write of theirs is lost
    (∀ r, (s.core p.core).rel.find? (fun x => x.id == p.rel) = some r →
      let sets := (s.core p.core).rel.takeWhile (fun q => q.id != p.rel) ++ [r]
      Gives (exec (.releasePull k) s) (fun t =>
        look t.pulls k = some { p with acked := true } ∧ t.Written p.core r.part r.set ∧ s.SameRegs t ∧ t.bank = s.bank ∧
        (∀ q ∈ sets, q.part = r.part → t.Written p.core r.part q.set) ∧
        s.Homes t p.core r.part (fun x => ∃ q ∈ sets, q.part = r.part ∧ x ∈ q.set))) ∧
    ((∀ r ∈ (s.core p.core).rel, r.id ≠ p.rel) → Gives (exec (.releasePull k) s) (fun t =>
      look t.pulls k = some { p with acked := true } ∧ s.SameRegs t ∧ t.mem = s.mem ∧ t.bank = s.bank)) ∧
    (p.acked = true → SameStep (exec (.pullAck k) s)
      (exec (.flaggedOpComplete p.op p.lanes) { s with pulls := del s.pulls k })) ∧
    (p.acked = false → Gives (exec (.pullAck k) s) (fun t => t = s))) ∧
  (∀ core r, (s.core core).rel.find? (fun x => x.id == k) = some r →
    Gives (exec (.releaseSetTimeout core k) s) (fun t => s.time < t.time ∧ s.SameRegs t ∧ t.bank = s.bank ∧
      (if r.time + 20000 ≤ t.time then t.Written core r.part r.set ∧ s.Homes t core r.part (· ∈ r.set) else t.mem = s.mem)))

/-- R127, R128, R133, R142: locks that come free, time limits, traps of harts. -/
def Obligations.LocksLimitsAndHartTraps : Prop := ∀ (s : State),
  (∀ part cls, s.lockHeld part cls = none → Gives (exec (.txLockWaitEnd part cls) s) (fun t =>
    (∀ c k, look s.cohorts c = some k → s.cohPart c = part → ∀ l < 32,
      (t.coh c).lockWait.getLsbD l = (k.lockWait.getLsbD l && (k.txOf l).cls != cls)) ∧
    (∀ c, s.cohPart c ≠ part → t.coh c = s.coh c) ∧
    (∀ h k, look s.harts h = some k → k.part = part → k.waitLock = some cls → t.hart h = { k with waitLock := none }) ∧
    s.SameRegs t ∧ t.mem = s.mem)) ∧
  (∀ c l, let x := (s.coh c).txOf l
    l < 32 → (s.coh c).spec l = true → (s.coh c).awake.getLsbD l = true →
    x.start + 1000 * ((getD s.ctl.txctl (s.cohPart c) 100).toNat % 2 ^ 16) ≤ s.time →
    Gives (exec (.txTimeLimit (.lane c l)) s) (fun t => s.SameRegs t ∧ t.mem = s.mem ∧ (t.coh c).pcOf l = x.beg ∧
      (t.coh c).txOf l = { x with
        isOpen := false
        retry := true
        fails := min (x.fails + 1) 15
        code := 0x0B
        sub := 0
        rlog := []
        wlog := [] })) ∧
  (∀ h u, let k := s.hart h
    k.tx = some u → u.start + 1000 * ((getD s.ctl.txctl k.part 100).toNat % 2 ^ 16) ≤ s.time →
    Gives (exec (.txTimeLimit (.hart h)) s) (fun t => s.HartIs t h (k.aborted u 0x0B 0))) ∧
  (∀ h cause, h < 32 →
    Gives (exec (.hartTrap h cause) s) (fun t => s.HartIs t h ((s.hart h).preempted.trapped cause 0)))

/-- R119, R120, R130 to R132, R333: memory accesses of base-die harts. The RISC-V side is the model's reading of the RV64
standards (notes/assumptions/11.md). -/
def Obligations.HartAccesses : Prop := ∀ (s : State) (h : Nat) (rd rs1 rs2 : BitVec 5) (imm : BitVec 12) (size : BitVec 2)
    (uns dbl aq rl : Bool) (op : BitVec 5) (pr su : BitVec 4) (pa : Nat),
  let k := s.hart h
  let n := 2 ^ size.toNat
  let w := if dbl then 8 else 4
  let va := (k.xr rs1 + imm.signExtend 64).toNat
  let at_ := (k.xr rs1).toNat
  let run := fun (o : RvMem) => exec (.baseDieMemoryAccess h o) s
  let on := fun (j : Hart) => { j with pc := j.pc + 4 }
  let old := getBytes s.mem pa w
  h < 32 → k.waitLock = none →
  Gives (run .fenceI) (fun t => s.HartIs t h (on k)) ∧ Gives (run .fenceTso) (fun t => s.HartIs t h (on k)) ∧
  Gives (run (.fence pr su)) (fun t => s.HartIs t h (on k)) ∧
  -- outside a transaction, with nothing to pull
  (k.tx = none → (∀ e ∈ s.cores, e.2.rel = []) →
    (s.hartHit k 1 va n = .mem pa → Gives (run (.load rd rs1 imm size uns)) (fun t =>
      s.HartIs t h (on (k.withX rd (rvLoaded n uns (getBytes s.mem pa n))))) ∧
      Gives (run (.fload rd rs1 imm size)) (fun t => s.HartIs t h (on { k with
        f := put k.f rd.toNat ((BitVec.allOnes 64 <<< (8 * n)) ||| BitVec.ofNat 64 (getBytes s.mem pa n)) 0 }))) ∧
    (s.hartHit k 2 va n = .mem pa → Gives (run (.store rs2 rs1 imm size)) (fun t => t.hart h = on k ∧
      s.BytesAt t pa n (k.xr rs2).toNat) ∧
      Gives (run (.fstore rs2 rs1 imm size)) (fun t => t.hart h = on k ∧ s.BytesAt t pa n (getD k.f rs2.toNat 0).toNat)) ∧
    -- an exception on the way is taken
    (∀ c, s.hartHit k 1 va n = .exc c → Gives (run (.load rd rs1 imm size uns)) (fun t =>
      s.HartIs t h (k.trapped (BitVec.ofNat 64 c) (BitVec.ofNat 64 va)))) ∧
    (∀ c, s.hartHit k 2 va n = .exc c → Gives (run (.store rs2 rs1 imm size)) (fun t =>
      s.HartIs t h (k.trapped (BitVec.ofNat 64 c) (BitVec.ofNat 64 va)))) ∧
    (at_ % w = 0 →
      (∀ e ∈ rvAmos, e.1 = op → s.hartHit k 3 at_ w = .mem pa → Gives (run (.amo op rd rs1 rs2 dbl aq rl)) (fun t =>
        t.hart h = on (k.withX rd (rvLoaded w false old)) ∧
        s.BytesAt t pa w (newValue e.2.1 (if e.2.2 then .s64 else .z64) (8 * w) (BitVec.ofNat (8 * w) old)
          ((k.xr rs2).truncate (8 * w))).toNat)) ∧
      (s.hartHit k 1 at_ w = .mem pa → Gives (run (.lr rd rs1 dbl aq rl)) (fun t =>
        s.HartIs t h { on (k.withX rd (rvLoaded w false old)) with resv := some (pa, w) })) ∧
      (s.hartHit k 2 at_ w = .mem pa →
        (k.resv = some (pa, w) → Gives (run (.sc rd rs1 rs2 dbl aq rl)) (fun t =>
          t.hart h = { on (k.withX rd 0) with resv := none } ∧ s.BytesAt t pa w (k.xr rs2).toNat)) ∧
        (k.resv ≠ some (pa, w) → Gives (run (.sc rd rs1 rs2 dbl aq rl)) (fun t =>
          s.HartIs t h { on (k.withX rd 1) with resv := none }))))) ∧
  -- inside one that meets no other: reads see its own writes, writes stay in the hart's cache
  (∀ u, k.tx = some u → (∀ e ∈ s.harts, e.1 ≠ h → e.2.tx = none) → (∀ e ∈ s.cores, e.2.rel = []) →
    (s.hartHit k 1 va n = .mem pa → Gives (run (.load rd rs1 imm size uns)) (fun t => t.mem = s.mem ∧ t.bank = s.bank ∧
      ∃ u', u' = { u with reads := u'.reads } ∧ (∀ x, x ∈ u'.reads ↔ x ∈ u.reads ∨ x ∈ sectors pa n) ∧
        t.hart h = { on (k.withX rd (rvLoaded n uns ((List.range n).foldr (fun i a =>
          ((look u.writes (pa + i)).getD (getD s.mem (pa + i) 0)).toNat + 256 * a) 0))) with tx := some u' })) ∧
    (s.hartHit k 2 va n = .mem pa → (∀ x ∈ sectors pa n, noRoom u.wlines x = false) →
      Gives (run (.store rs2 rs1 imm size)) (fun t => t.mem = s.mem ∧ t.bank = s.bank ∧
        ∃ u', u' = { u with
            wlines := u'.wlines
            writes := u'.writes } ∧ (∀ x, x ∈ u'.wlines ↔ x ∈ u.wlines ∨ x ∈ sectors pa n) ∧
          (∀ x, look u'.writes x = if pa ≤ x ∧ x < pa + n then some (BitVec.ofNat 8 ((k.xr rs2).toNat >>> (8 * (x - pa))))
            else look u.writes x) ∧
          t.hart h = { on k with tx := some u' })) ∧
    (∀ q, s.hartHit k 1 va n = .io q → Gives (run (.load rd rs1 imm size uns)) (fun t =>
      s.HartIs t h (k.aborted u 0x05 0))) ∧
    Gives (run (.lr rd rs1 dbl aq rl)) (fun t => s.HartIs t h (k.aborted u 0x0C 0x2F)))

/-- R173, R174, R177, R180, R182, R184, R412, R413: launches are accepted, wait, retire and are cancelled. -/
def Obligations.LaunchesAcceptedAndRetired : Prop := ∀ (s : State) (k vf : Nat) (record gang tag flags : BitVec 64),
  let submit := exec (.submitEntry vf record gang tag flags) s
  let part := s.tctxPart vf
  ((s.vf vf).featuresOk = true → s.tctxEn vf = true →
    -- a record that is not 64-byte aligned, with no other launch under way that its retirement would let go on
    ((∀ e ∈ s.grids, e.2.state ∉ [.depwait, .count, .reswait, .opwait]) → record.toNat % 64 ≠ 0 → vf ∈ s.vfsOf part → (s.vf vf).events.length < 256 → Gives submit (fun t =>
      ∃ j g, look s.grids j = none ∧ look t.grids j = some g ∧ g.state = .retired ∧ g.code = 3 ∧ g.cause = 1 ∧ g.tag = tag ∧
        t.serials = s.serials ∧
        (t.vf vf).events = (s.vf vf).events ++ [⟨1, 0, 0x0870, 0, t.time % 2 ^ 64, tag, 1⟩])) ∧
    -- a valid one takes the next serial number of its partition
    (∀ g u, s.readLaunch vf record.toNat gang.toNat tag.toNat flags.toNat = .ok (g, 0, u) → Gives submit (fun t =>
      ∃ j q, look u.grids j = none ∧ look t.grids j = some q ∧ q.rcd = g.rcd ∧ q.tag = tag ∧ q.part = part ∧
        q.serial = getD u.serials part 0 ∧ q.state ≠ .queued ∧
        getD t.serials part 0 = (getD u.serials part 0 + 1) % 2 ^ 32 ∧
        ∀ i, i ≠ part → getD t.serials i 0 = getD u.serials i 0)) ∧
    -- while a page of it is being moved, the submission waits (R37)
    (∀ u, s.readLaunch vf record.toNat gang.toNat tag.toNat flags.toNat = .error u → Gives submit (fun t => t = u ∧ t.grids = s.grids))) ∧
  (∀ g va r u, s.grids = [(k, g)] → g.state = .depwait → g.deps = [va] →
    s.schedRead (.grid k) g.part g.tctx va.toNat 8 = (r, u) →
    (r = .bad → Gives (exec .dependencePoll s) (fun t =>
      (t.grd k).state = .retired ∧ (t.grd k).code = 3 ∧ (t.grd k).cause = 6)) ∧
    (r = .wait → Gives (exec .dependencePoll s) (fun t => t.grids = s.grids)) ∧
    (∀ v, r = .val v →
    (v % 256 = 3 → Gives (exec .dependencePoll s) (fun t =>
      (t.grd k).state = .retired ∧ (t.grd k).code = 3 ∧ (t.grd k).cause = 2)) ∧
    (v % 256 = 1 ∨ v % 256 = 2 → Gives (exec .dependencePoll s) (fun t =>
      (t.grd k).deps = [] ∧ (t.grd k).state ≠ .depwait)) ∧
    (v % 256 = 0 → Gives (exec .dependencePoll s) (fun t => t.grids = s.grids)))) ∧
  (∀ g, look s.grids k = some g → g.state = .draining → s.running g.part = true → s.ops = [] → s.transit = [] →
    (∀ c ∈ s.cores, c.2.obuf = [] ∧ ∀ e ∈ c.2.opt, e.2.busy = true → e.2.grid ≠ k) →
    -- a record that has not been written has not added to TRAPS yet (R371)
    ((∃ x ∈ s.traps.info, x.grid = k ∧ x.written = false) → Gives (exec (.gridRetire k) s) (fun t => t = s)) ∧
    ((∀ x ∈ s.traps.info, x.grid = k → x.written = true) →
    Gives (exec (.gridRetire k) s) (fun t => (t.grd k).state = .retired ∧
      -- what its threads and commands have written is at the homes
      (∀ w ∈ t.ewr, w.part ≠ g.part) ∧
      (∀ b ∈ s.blocks, b.2.grid = k → t.dirtySectors b.2.core g.part = []) ∧
      ((t.grd k).code, (t.grd k).cause) = (if g.aborted then (3, 5) else if g.traps = 0 then (1, 0) else (2, 0)) ∧
      (∀ b ∈ t.blocks, b.2.grid ≠ k) ∧
      (∀ c ∈ t.cohorts, ∀ b ∈ s.blocks, b.2.grid = k → c.2.block ≠ b.1)))) ∧
  ((s.vf vf).featuresOk = true → s.callRoom part = true →
    let hit := fun (g : Grid) => g.vf = vf ∧ g.tag = tag ∧ g.state ≠ .running ∧ g.state ≠ .draining ∧ g.state ≠ .retired
    Gives (exec (.cancelLaunch vf tag) s) (fun t =>
      ((∃ e ∈ s.grids, hit e.2) → t.LastSaid (.ctl vf 0 [])) ∧
      ((∀ e ∈ s.grids, ¬ hit e.2) → t.LastSaid (.ctl vf 1 [])) ∧
      ∀ j g, look s.grids j = some g → hit g → (t.grd j).state = .retired ∧ (t.grd j).code = 3 ∧ (t.grd j).cause = 4))

/-- R14, R17, R183, R444: the points that dies run at. -/
def Obligations.OperatingPoints : Prop := ∀ (s : State) (die : Nat),
  let want := fun (u : State) d => getD u.ctl.want d 0
  let point := fun (u : State) d => getD u.ctl.point d 0
  let lim := fun (u : State) d => getD u.ctl.limit d 0
  (die < Config.dies → Gives (exec (.railsSettled die) s) (fun t =>
    point t die = min (want s die) (15 - lim s die) ∧ (∀ d, d ≠ die → point t d = point s d) ∧ t.ctl.limit = s.ctl.limit)) ∧
  ((∀ d < Config.dies, want s d ≤ 15) → Gives (exec .powerLimitStepDown s) (fun t =>
    (∀ d < Config.dies,
      ((∃ e < Config.dies, want s e < point s d) → point t d = point s d - 1 ∧ lim t d = 15 - point t d) ∧
      ((∀ e < Config.dies, point s d ≤ want s e) → point t d = point s d ∧ lim t d = lim s d)) ∧
    t.ctl.want = s.ctl.want ∧ t.cohorts = s.cohorts ∧ t.mem = s.mem)) ∧
  Gives (exec .powerLimitStepUp s) (fun t =>
    -- a step up gives one step of the limit back; the die runs at the lower point until its rails have settled (R444)
    (∀ d < Config.dies, lim t d = lim s d - 1) ∧ t.ctl.point = s.ctl.point ∧ t.ctl.want = s.ctl.want ∧ t.cohorts = s.cohorts ∧ t.mem = s.mem)

/-- R146, R149, R179, R185, R191: a cluster of blocks is placed and its cohorts start. -/
def Obligations.ClustersPlaced : Prop := ∀ (s : State) (k e j die clu : Nat) (cores : List Nat) (g : Grid),
  look s.grids k = some g → s.canPlace k e j die clu cores = true → cores.any (s.wantsBack g.part) = false →
  (∀ q, g.gang = some q → q.phase = .going ∨ q.phase = .done) →
  Gives (exec (.clusterPlace k e j die clu cores) s) (fun t =>
    (∃ r, look t.grids k = some r ∧ r.state = .running ∧ r.done = g.done ++ [(e, j)] ∧ r.rcd = g.rcd ∧ r.serial = g.serial ∧
      (g.done = [] → s.time < r.tstart)) ∧
    (∃ p, look t.placed p = some ⟨k, e, j, die, clu, cores, []⟩) ∧
    ∀ c, cores = [c] → ∃ b r, look t.blocks b = some r ∧ r.grid = k ∧ r.core = c ∧ r.rank = 0 ∧ r.place = .resident ∧
      r.exited = false ∧ r.blk = (((g.gang.map (fun x => x.q)).getD 0 * g.nd + e) * g.cpd + j) * g.bpc ∧
      ((r.scrRow :: r.spRow :: r.winRows, r.slots) = (s.blockFit g c).getD ([], [])) ∧
      (g.lq = false → ∀ i < g.cohN, ∃ n q, look t.cohorts n = some q ∧ q.block = b ∧ q.idx = i ∧ q.pipe = (i + r.pipe0) % 4 ∧
        q.live = allLanes ∧ q.exited = 0 ∧ q.held = 0 ∧ q.parked = 0 ∧
        ∀ l < 32, q.pcOf l = g.entry ∧ getD q.orig l 0 = 32 * i + l))

/-- R164, R166, R168, R169, R188 to R190, R197: cohorts that start, give way, leave and come back, and those that stall. -/
def Obligations.CohortsComeAndGo : Prop := ∀ (s : State) (c part block : Nat),
  -- from a launch queue
  (∀ q idx, let d := s.queue part q
    let b := s.blk block
    let g := s.grd b.grid
    let entry := getBytes s.mem (d.ringAt d.head) 16
    let start := exec (.launchQueueCohortStart part q block idx) s
    d.bound = true → d.head < d.tail → g.part = part → g.bound = true → g.lqn = q → s.running part = true →
    g.aborted = false → (∀ e ∈ s.cores, e.2.rel = []) → (look s.grids b.grid).isSome = true →
    (entry % 2 ^ 64 = 2 ^ 64 - 1 → Gives start (fun t => (t.grd b.grid).entryDone = true ∧ (t.grd b.grid).bound = false ∧
      (t.queue part q).bound = false ∧ (t.queue part q).head = d.head + 1)) ∧
    (entry % 2 ^ 64 ≠ 2 ^ 64 - 1 → d.ents.head? = some (BitVec.ofNat 128 entry) → s.lqBlock b.grid d = some block →
      idx < g.cohN → s.idxFree block idx = true →
      (∀ u, s.takeRoom block idx = some u → getBytes u.mem (d.ringAt d.head) 16 = entry → Gives start (fun t => (t.queue part q).head = d.head + 1 ∧
        ∃ n k, look t.cohorts n = some k ∧ k.block = block ∧ k.idx = idx ∧ k.live = allLanes ∧ k.exited = 0 ∧
          ∀ l < 32, k.pcOf l = g.entry ∧ getD k.orig l 0 = l ∧
            ∀ m, k.v m l = if m < 4 then (BitVec.ofNat 128 entry).extractLsb' (32 * m) 32 else 0)))) ∧
  -- from a target list
  (∀ list idx tgt fl, let b := s.blk block
    let mine := (b.spawnQ.filter (fun e => e.target == tgt)).take 32
    b.lists[list]? = some (tgt, fl) → s.lowIdx block = some idx → b.exited = false → b.place = .resident →
    s.running (s.grd b.grid).part = true → s.mayForm block (tgt, fl) = true →
    Gives (exec (.spawnCohortForm block list) s) (fun t =>
      (t.blk block).spawnQ.filter (fun e => e.target == tgt) = (b.spawnQ.filter (fun e => e.target == tgt)).drop 32 ∧
      (t.blk block).spawnQ.filter (fun e => e.target != tgt) = b.spawnQ.filter (fun e => e.target != tgt) ∧
      ∃ n k, look t.cohorts n = some k ∧ k.block = block ∧ k.idx = idx ∧ k.live = allLanes ∧
        k.exited = maskOf (fun l => mine.length ≤ l) ∧
        ∀ l e, mine[l]? = some e → k.pcOf l = tgt ∧ getD k.orig l 0 = e.orig ∧ ∀ m, k.v m l = (e.vals[m]?).getD 0)) ∧
  -- positions
  (∀ into, let u := s.noted.tick
    let a := u.coh c
    let b := u.coh into
    -- since when a cohort waits for a position, able to issue
    let since := fun (k : Cohort) => k.waitPos.getD u.time
    a.active = true → a.place = .resident → u.samePipe c into = true → u.posWaits into = true →
    -- the holder has nothing eligible, or has held its position, and the other has waited, for 5 µs; nobody has waited longer
    (u.eligible c = false ∨ (a.posTime + 5000 ≤ u.time ∧ ∃ x, b.waitPos = some x ∧ x + 5000 ≤ u.time)) →
    (∀ e ∈ u.cohorts, u.samePipe e.1 into = true → u.posWaits e.1 = true → since b ≤ since e.2) →
    Gives (exec (.activePositionHandoff c into) s) (fun t => s.SameRegs t ∧ t.mem = s.mem ∧ t.bank = s.bank ∧
      t = { u with cohorts := t.cohorts } ∧ t.coh c = { a with
        dirty := []
        active := false
        posTime := t.time } ∧
      t.coh into = { b with
        active := true
        posTime := t.time
        waitPos := none } ∧ ∀ j, j ≠ c → j ≠ into → t.coh j = u.coh j)) ∧
  -- eviction, for a waiting launch that could place a block on the core then
  (let u := s.tick
    let k := s.coh c
    (∀ a, look s.ctl.evictArea (s.cohPart c) = some a →
      pte (s.schedctl (s.cohPart c)) 16 1 = 1 → s.running (s.cohPart c) = true → u.evictable c = true → u.blockedLong c = true →
      (∃ e ∈ (u.evict c).grids, e.2.part = s.cohPart c ∧ e.2.serves (s.cohCore c) = true ∧ u.blockFit e.2 (s.cohCore c) = none ∧
        ((u.evict c).blockFit e.2 (s.cohCore c)).isSome = true) →
      Gives (exec (.cohortEvict c) s) (fun t => (t.coh c).place = .evicted ∧ (t.coh c).active = false ∧ s.SameRegs t ∧
        -- what is written lies in the partition's eviction area
        (∀ x, (x < s.norm a + 0x5000 * (t.coh c).area ∨ s.norm a + 0x5000 * ((t.coh c).area + 1) ≤ x) →
          getD t.mem x 0 = getD s.mem x 0) ∧
        (t.blk k.block).winRows = (s.blk k.block).winRows.set k.idx noRow ∧
        (t.blk k.block).slots = (s.blk k.block).slots.set k.idx noSlot)) ∧
    (look s.ctl.evictArea (s.cohPart c) = none ∨ pte (s.schedctl (s.cohPart c)) 16 1 = 0 →
      Gives (exec (.cohortEvict c) s) (fun t => t = s))) ∧
  (let k := s.coh c
    let cs := s.cshareOf (s.shareOf (s.cohGrd c).part)
    k.place = .evicted → s.running (s.cohPart c) = true → k.absent = [] →
    k.idx < (s.blk k.block).winRows.length → (s.blk k.block).winRows[k.idx]? = some noRow →
    (∃ m ∈ s.groups c, s.waitsFor c m = false) → (s.restore c).isSome = true →
    Gives (exec (.cohortRestoreEvicted c) s) (fun t => (t.coh c).place = .resident ∧ s.SameRegs t ∧
      ∃ r x, (t.coh c).vbase = r ∧ (t.blk k.block).winRows = (s.blk k.block).winRows.set k.idx r ∧
        (t.blk k.block).slots = (s.blk k.block).slots.set k.idx x ∧ csRowBase cs ≤ r ∧
        r + (s.cohGrd c).winSize ≤ csRowBase cs + csRows cs ∧ csSlotBase cs ≤ x ∧ x < csSlotBase cs + csNslot cs)) ∧
  -- the Belvedere: the lanes go on
  (let u := s.noted.tick
    let k := u.coh c
    -- since when a lane is in such a set without an issue in between
    let since := fun (l : Nat) => getD k.watch l u.time
    let hit := fun (m : LaneMask) =>
      (∀ l < 32, m.getLsbD l = true → since l + 1000 * pte (s.stallctl (s.cohPart c)) 0 20 < u.time) ∧
      ∃ j < 32, m.getLsbD j = false ∧ k.live.getLsbD j = true ∧ k.exited.getLsbD j = false ∧
        ∀ l < 32, m.getLsbD l = true → since l < getD k.since j 0
    pte (s.stallctl (s.cohPart c)) 31 1 = 1 → k.place = .resident → s.running (s.cohPart c) = true → k.stalled = 0 →
    ((∃ m ∈ u.stallSets c, hit m) → Gives (exec (.belvedereCheck c) s) (fun t => s.SameRegs t ∧ t.mem = s.mem ∧
      ∃ m ∈ u.stallSets c, hit m ∧ (t.coh c) = { k with
          stalled := m
          stallHeld := m &&& (k.held ||| k.mendWait) != 0 } ∧
        ∃ r, t.traps.pend = u.traps.pend ++ [r] ∧ r.part = s.cohPart c ∧ r.source = 0x0890 ∧
          ∃ w0 w1 w2 w4 w5 w6 w7, r.words = [w0, w1, w2, k.pcOf (lowLane m), w4, w5, w6, w7] ∧
            w0.extractLsb' 0 8 = 3 ∧ w0.extractLsb' 8 8 = 0x26 ∧ w4.extractLsb' 0 32 = m)) ∧
    ((∀ m ∈ u.stallSets c, ¬ hit m) → Gives (exec (.belvedereCheck c) s) (fun t => t = u)))

/-- R372, R373, R414, R415: the trap queue of a partition: its place, its head, its records. -/
def Obligations.TrapQueues : Prop := ∀ (s : State) (part : Nat) (x : BitVec 64), part < Config.parts →
  let q := s.trapq part
  let mine := fun (a : Nat) => s.isLocal a = true ∧ regionOf (paOff a) = .hbm ∧ (s.ownAt a).owner = some part
  let setup := exec (.trapQueueSetup part x) s
  let head := exec (.trapQueueHeadWrite part x) s
  (s.callRoom part = true →
    (x = 0 ∨ (x.toNat % 4096 = 0 ∧ x.toNat < 2 ^ 52 ∧ mine (s.norm x.toNat) ∧ mine (s.norm x.toNat + 0x3FFFF)) →
      Gives setup (fun t => t.trapq part = ⟨x, 0, 0⟩ ∧ s.Said t (.mail part 0) ∧ (∀ p, p ≠ part → t.trapq p = s.trapq p) ∧
        t = { s with traps := t.traps, svc := t.svc })) ∧
    (x ≠ 0 → (x.toNat % 4096 ≠ 0 ∨ 2 ^ 52 ≤ x.toNat ∨ ¬ mine (s.norm x.toNat) ∨ ¬ mine (s.norm x.toNat + 0x3FFFF)) →
      Gives setup (fun t => s.Said t (.mail part 1) ∧ t = { s with svc := t.svc }))) ∧
  (q.head ≤ x.toNat ∧ x.toNat ≤ q.tail → Gives head (fun t => t.trapq part = { q with head := x.toNat } ∧
    s.Said t (.mail part 0) ∧ t = { s with traps := t.traps, svc := t.svc })) ∧
  (x.toNat < q.head ∨ q.tail < x.toNat → Gives head (fun t => s.Said t (.mail part 1) ∧ t = { s with svc := t.svc })) ∧
  (∀ r, s.traps.pend.find? (fun p => p.part == part) = some r →
    (q.base ≠ 0 → (s.running part = true ∨ s.stopping part = true) → q.tail - q.head < Config.trapRing → s.outstanding part < 64 →
      (∀ i ∈ s.traps.info, (s.grd i.grid).stat = 0) → Gives (exec (.trapRecordWrite part) s) (fun t =>
        s.BytesAt t (s.norm q.base.toNat + 64 * (q.tail % 4096)) 64 (r.words.foldr (fun w a => w.toNat + 2 ^ 64 * a) 0) ∧
        t.trapq part = { q with tail := q.tail + 1 } ∧ s.SameRegs t ∧ t.bank = s.bank ∧
        t.traps.pend = s.traps.pend.filter (fun p => !(p.part == part && p.tid == r.tid)) ∧
        t.traps.info.map (fun i => (i.part, i.tid)) = s.traps.info.map (fun i => (i.part, i.tid)) ∧
        (∀ i ∈ t.traps.info, i.part = part → i.tid = r.tid → i.written = true) ∧
        -- each record adds to TRAPS of its grid
        ∀ i, s.traps.info.find? (fun i => i.part == part && i.tid == r.tid) = some i → (look s.grids i.grid).isSome = true →
          (t.grd i.grid).traps = (s.grd i.grid).traps + 1)) ∧
    (q.base = 0 → (∀ n ∈ s.vfsOf part, ∀ e ∈ (s.vf n).events, e.kind ≠ 5) → Gives (exec (.trapRecordWrite part) s) (fun t =>
      t.traps = s.traps ∧ t.mem = s.mem ∧ s.SameRegs t ∧ ∀ n ∈ s.vfsOf part, (s.vf n).events.length < 256 →
        (t.vf n).events = (s.vf n).events ++ [⟨5, 0, r.source, 0, t.time % 2 ^ 64, 0, 0⟩])))

/-- R369, R374, R376 to R378: replies to the records of lanes that are still parked, and of engine commands. -/
def Obligations.TrapsAnswered : Prop := ∀ (s : State) (part action : Nat) (r : TrapInfo) (pc : BitVec 64),
  let w0 := BitVec.ofNat 64 (r.tid + action * 2 ^ 32)
  let reply := exec (.trapReply part w0 pc 0 0) s
  let m := s.parkedUnder r
  let k := s.coh r.coh
  let gone := fun (t : State) => (∀ i ∈ t.traps.info, ¬ (i.part = part ∧ i.tid = r.tid)) ∧ s.Said t (.mail part 0)
  let at_ := fun (t : State) (f : Nat → DWord) => ((t.coh r.coh).parked = k.parked &&& ~~~m ∧ s.SameRegs t ∧
    (t.coh r.coh).exited = k.exited ∧ ∀ l < 32, (t.coh r.coh).pcOf l = if m.getLsbD l = true then f l else k.pcOf l) ∧ gone t
  let ended := fun (t : State) => ((t.coh r.coh).exited = k.exited ||| m ∧ (t.coh r.coh).parked = k.parked &&& ~~~m ∧
    s.SameRegs t) ∧ gone t
  -- a reply to a record that is outstanding is no further call, any other needs room for one (R415)
  let room := fun (a : BitVec 64) => s.callRoom part = true ∨ ∃ i ∈ s.traps.info, s.unanswered part i = true ∧ i.tid = a.toNat % 2 ^ 32
  part < Config.parts → r.part = part → r.tid < 2 ^ 32 → action < 4 →
  (∀ a b c d, ¬ room a → Gives (exec (.trapReply part a b c d) s) (fun t => t = s)) ∧
  (s.running part = false → ∀ a b c d, room a → Gives (exec (.trapReply part a b c d) s) (fun t =>
    t = { s with traps := { s.traps with held := s.traps.held ++ [⟨part, a, b, c, d, none⟩] } })) ∧
  -- a running partition without a reply that waits
  (s.running part = true → (∀ h ∈ s.traps.held, h.part ≠ part) → (∀ i ∈ s.traps.info, s.NoArea i.coh) →
    -- reserved bits, more than 64 edits, a NEWPC without a redirect
    (∀ a b c d, room a → (a.extractLsb' 35 5 ≠ 0 ∨ a.extractLsb' 47 17 ≠ 0 ∨ 64 < (a.extractLsb' 40 7).toNat ∨
        (b ≠ 0 ∧ a.extractLsb' 32 2 ≠ 2)) → Gives (exec (.trapReply part a b c d) s) (fun t =>
      s.Said t (.mail part 2) ∧ t = { s.tick with svc := t.svc })) ∧
    -- no such record
    (room w0 → action ≠ 2 → pc = 0 → (∀ i ∈ s.traps.info, ¬ (i.part = part ∧ i.tid = r.tid ∧ i.written = true)) → Gives reply (fun t =>
      s.Said t (.mail part 1) ∧ t = { s.tick with svc := t.svc })) ∧
    (room w0 → s.traps.info.find? (fun i => i.part == part && i.tid == r.tid && i.written) = some r →
      -- the lock of a lane in fallback mode is released after its earlier accesses: the reply waits for them
      (r.kind = 1 ∨ r.kind = 4 → m ≠ 0 → action = 3 → pc = 0 → s.fbWaits r m action = true → Gives reply (fun t =>
        t.cohorts = s.cohorts ∧ t.mem = s.mem ∧ t.svc = s.svc ∧ t.traps.info = s.traps.info)) ∧
      (r.kind = 1 ∨ r.kind = 4 → m ≠ 0 → s.fbWaits r m action = false → (∀ l < 32, m.getLsbD l = true → k.live.getLsbD l = true ∧ k.exited.getLsbD l = false) →
        (action = 0 → pc = 0 → Gives reply (fun t => t.cohorts = s.cohorts ∧ s.Said t (.mail part 0))) ∧
        (action = 1 → pc = 0 →
          (r.cause = 0x01 ∨ r.cause = 0x1D ∨ r.cause = 0x1E ∨ r.cause = 0x23 → Gives reply (fun t => at_ t k.pcOf)) ∧
          (r.cause = 0x21 ∨ r.cause = 0x28 ∨ r.cause = 0x29 → Gives reply (fun t =>
            at_ t (fun l => nextPc (k.pcOf l) (s.nwAt r.coh (k.pcOf l))))) ∧
          (r.cause ∉ [0x01, 0x1D, 0x1E, 0x21, 0x23, 0x28, 0x29] → Gives reply ended)) ∧
        (action = 2 → canonical pc.toNat = true → pc.toNat % 8 = 0 → Gives reply (fun t => at_ t (fun _ => pc))) ∧
        (action = 3 → pc = 0 → Gives reply ended)) ∧
      (∀ o, r.kind = 2 → action = 1 → pc = 0 → s.optOf r.core r.slot = some o → o.busy = true → o.st = .pageFault r.tid →
        Gives reply (fun t => t.optOf r.core r.slot = some { o with st := .running } ∧ t.cohorts = s.cohorts ∧ gone t))))

/-- R29, R80, R91, R92, R195, R390, R415: calls of the service code. -/
def Obligations.ServiceCalls : Prop := ∀ (s : State) (part n : Nat),
  let o := getD s.own n .blank
  let no := fun (x : Host.Outcome State Fault Refusal) => Gives x (fun t => s.Said t (.mail part 1) ∧ t = { s with svc := t.svc })
  let owns := fun (t : State) (v : Option Own) => s.Said t (.mail part 0) ∧ look t.own n = v ∧
    (∀ f, f ≠ n → look t.own f = look s.own f) ∧ t.cohorts = s.cohorts ∧ t.mem = s.mem
  let floor := fun (t : State) p c => (getD t.ctl.floor (1024 * p + c) 0).toNat
  Gives (exec .floorWindow s) (fun t => t = { s with ctl := { s.ctl with granted := [] } }) ∧
  (s.callRoom part = true →
    (o.owner = some part → s.frameMoves n = false → Gives (exec (.exportRegion part n) s) (fun t =>
      owns t (some { o with exported := true }))) ∧
    (o.owner ≠ some part → no (exec (.exportRegion part n) s)) ∧
    (part < Config.parts → s.ownable n = true → s.frameMoves n = false →
      -- 512 GiB and 1.5 TiB of regions at most
      (o.owner = none → s.grantedRegions < 0x100000 → Gives (exec (.memoryGrant part n true) s) (fun t =>
        owns t (some { o with owner := some part }))) ∧
      (o.owner ≠ none ∨ 0x100000 ≤ s.grantedRegions → no (exec (.memoryGrant part n true) s)) ∧
      (o.owner = some part → s.frameBusy n = false → (∀ w ∈ s.ewr, ∀ i < w.n, (w.pa + i) / 2 ^ 21 = w.pa / 2 ^ 21) →
        Gives (exec (.memoryGrant part n false) s) (fun t =>
        s.Said t (.mail part 0) ∧ look t.own n = none ∧ (∀ f, f ≠ n → look t.own f = look s.own f) ∧ s.SameRegs t ∧
        ∀ a, a / 2 ^ 21 ≠ n → getD t.mem a 0 = getD s.mem a 0)) ∧
      (o.owner ≠ some part → no (exec (.memoryGrant part n false) s))) ∧
    (s.ownable n = false → ∀ on, no (exec (.memoryGrant part n on) s)) ∧
    (∀ units, part < Config.parts → n < 1024 →
      let rest := ((List.range Config.parts).filter (fun p => p != part)).foldl (fun a p => a + floor s p n) 0
      (rest + units.toNat ≤ 351 → Gives (exec (.floorRequest part n units) s) (fun t => s.Said t (.mail part 0) ∧
        floor t part n = units.toNat ∧ (∀ p c, p ≠ part ∨ c ≠ n → c < 1024 → floor t p c = floor s p c) ∧
        t.cohorts = s.cohorts ∧ t.mem = s.mem)) ∧
      (351 < rest + units.toNat → no (exec (.floorRequest part n units) s))) ∧
    (∀ ring spill scap, let d := s.queue part n
      let set_ := exec (.queueSetup part n ring spill scap) s
      let becomes := fun (e : QDesc) => Gives set_ (fun t => t.queue part n = e ∧ s.Said t (.mail part 0) ∧
        (∀ w ∈ t.mvWaits, w ∈ s.mvWaits) ∧ t = { s with queues := t.queues, svc := t.svc, mvWaits := t.mvWaits })
      part < Config.parts → n < 256 →
      (d.bound = true ∨ d.head ≠ d.tail ∨ ring.toNat % 2 ^ 16 ≠ 0 ∨ spill.toNat % 16 ≠ 0 → no set_) ∧
      (d.bound = false → d.head = d.tail → spill.toNat % 16 = 0 →
        (ring = 0 → becomes ⟨0, spill, scap.toNat, false, 0, 0, 0, [], []⟩) ∧
        (∀ ctx pa l, ring ≠ 0 → ring.toNat % 2 ^ 16 = 0 → s.callCtx part = some ctx →
          s.ringPages part ctx ring.toNat 65536 = some (pa :: l) → s.isLocal pa = true → regionOf (paOff pa) = .vault →
          (spill = 0 → becomes ⟨ring, 0, scap.toNat, false, 0, 0, pa, [], []⟩) ∧
          (∀ ps, spill ≠ 0 → s.ringPages part ctx spill.toNat (16 * scap.toNat) = some ps →
            (∀ a ∈ ps, s.isLocal a = true ∧ (regionOf (paOff a) = .hbm ∨ regionOf (paOff a) = .cap)) →
            becomes ⟨ring, spill, scap.toNat, false, 0, 0, pa, ps, []⟩)) ∧
        -- at a page that is being moved the call waits (R37)
        (∀ ctx, ring ≠ 0 → ring.toNat % 2 ^ 16 = 0 → s.callCtx part = some ctx →
          let pages := s.ringParts part ctx ring.toNat 65536 ++
            (if spill = 0 then [] else s.ringParts part ctx spill.toNat (16 * scap.toNat))
          pagesMove pages = true → (s.mvMeet (.queue part n) ctx pages).1 = true → Gives set_ (fun t =>
            t.queues = s.queues ∧ t.svc = s.svc ∧ t.mem = s.mem ∧ t.cohorts = s.cohorts ∧ ∃ w ∈ t.mvWaits, w.who = .queue part n)))))

/-- R5, R30, R81, R128, R168, R175, R407, R408: what Arbor's writes to control registers leave; a setting that is not accepted
changes nothing. -/
def Obligations.ControlRegisters : Prop := ∀ (s : State) (n : Nat) (v : BitVec 64) (x : BitVec 32),
  let f := fun (w lo k : Nat) => pte w lo k * 2 ^ lo
  let a := v.toNat
  let w := x.toNat
  (n < 64 → Gives (exec (.registerWrite (.tctx n) v) s) (fun t => t.tctxOf n = f a 0 6 + f a 14 38 ∧
    (∀ k, k ≠ n → t.tctxOf k = s.tctxOf k) ∧ t.cohorts = s.cohorts ∧ t.mem = s.mem)) ∧
  (n < Config.parts →
    Gives (exec (.registerWrite (.tierctl n) v) s) (fun t =>
      (getD t.ctl.tierctl n 0x102#32).toNat = max 1 (pte a 0 4) + f a 8 1) ∧
    Gives (exec (.registerWrite (.txctl n) v) s) (fun t => t.txctl n = max 1 (pte a 0 16) + f a 16 1 ∧
      (∀ k, k ≠ n → t.txctl k = s.txctl k) ∧ t.cohorts = s.cohorts ∧ t.mem = s.mem) ∧
    Gives (exec (.registerWrite (.stallctl n) v) s) (fun t => t.stallctl n = max 1 (pte a 0 20) + f a 31 1 ∧
      (∀ k, k ≠ n → t.stallctl k = s.stallctl k) ∧ t.cohorts = s.cohorts ∧ t.mem = s.mem) ∧
    Gives (exec (.registerWrite (.schedctl n) v) s) (fun t => t.schedctl n = min 64 (max 1 (pte a 0 7)) + f a 16 1 ∧
      ∀ k, k ≠ n → t.schedctl k = s.schedctl k) ∧
    Gives (exec (.registerWrite (.saveArea n) v) s) (fun t => getD t.ctl.saveArea n 0 = a % 2 ^ 52 ∧
      t = { s with ctl := { s.ctl with saveArea := t.ctl.saveArea } }) ∧
    Gives (exec (.registerWrite (.evictArea n) v) s) (fun t => getD t.ctl.evictArea n 0 = a % 2 ^ 52 ∧
      t = { s with ctl := { s.ctl with evictArea := t.ctl.evictArea } }) ∧
    -- a setting of a partition, at once unless it would leave the share where it has its turn, or cease to be
    (let here := s.shareOf n
    let leaves := s.onShare here n = true ∧ (pte w 7 1 = 0 ∨ pte w 0 5 ≠ here)
    let stored := f w 0 5 + f w 7 1 + max (2 ^ 8) (f w 8 16) + f w 24 8
    s.pctlOk n stored = true →
      (¬ leaves → Gives (exec (.pctlWrite n x) s) (fun t => t.pctlOf n = stored ∧ (∀ k, k ≠ n → t.pctlOf k = s.pctlOf k) ∧
        t.cohorts = s.cohorts ∧ t.mem = s.mem ∧
        (pte w 7 1 = 1 → pte (s.pctlOf n) 7 1 = 0 → (t.attest n).record = 0 ∧ (t.attest n).count = 0))) ∧
      -- the setting waits; the turn ends, and has been charged (R409, R410; notes/assumptions/50.md)
      (leaves → Gives (exec (.pctlWrite n x) s) (fun t => t.ctl.pctl = s.ctl.pctl ∧
        look t.ctl.pctlHold n = some (BitVec.ofNat 32 stored) ∧ t.cohorts = s.cohorts ∧ t.mem = s.mem ∧
        ((s.share here).phase = .idle → (s.share here).running = some n →
          (t.share here).running = none ∧ (t.share here).phase = .halt ∧ (t.share here).out = n ∧
          (getD t.ctl.acct n 0) = (getD s.ctl.acct n 0 + (t.time - (s.share here).since)) % 2 ^ 64)))) ∧
    (s.svc.logWait = [] → Gives (exec (.registerWrite .logTake v) s) (fun t =>
      t = { s with svc := { s.svc with log := s.svc.log.drop a } })) ∧
    Gives (exec (.registerWrite .logRing v) s) (fun t => t = { s with ctl := { s.ctl with logRing := a % 2 ^ 52 / 64 * 64 } }) ∧
    (s.pctlOk n (f w 0 5 + f w 7 1 + max (2 ^ 8) (f w 8 16) + f w 24 8) = false → exec (.pctlWrite n x) s = .next s)) ∧
  (n < Config.dies → Gives (exec (.registerWrite (.defPoint n) v) s) (fun t => getD t.ctl.defPoint n 0 = a % 16 ∧
    ∀ k, k ≠ n → getD t.ctl.defPoint k 0 = getD s.ctl.defPoint k 0)) ∧
  (n < 20 →
    (s.cshareOk n (a % 2 ^ 60) = true → Gives (exec (.cshareWrite n v) s) (fun t => t.cshareOf n = a % 2 ^ 60 ∧
      (∀ k, k ≠ n → t.cshareOf k = s.cshareOf k) ∧ s.SameRegs t)) ∧
    (s.cshareOk n (a % 2 ^ 60) = false → exec (.cshareWrite n v) s = .next s))

/-- R340, R342, R343, R348 to R350, R352, R355, R357, R360, R364: engine commands as they are performed and end. -/
def Obligations.EnginesComplete : Prop := ∀ (s : State) (core slot : Nat) (o : Opt) (e : EArgs) (a b : Opnd) (ra rb : BitVec 6)
    (om om2 : BitVec 5) (n : BitVec 3) (scu : BitVec 2) (try_ : Bool),
  let part := s.optPart o
  -- one that has waited for a region move reads the clock again
  let u := ((if o.mv.isSome then s.tick else s).engAcquire core o).repairOper core o
  let run := exec (.engineOpComplete core slot) s
  let f := (s.grd o.grid).fslot e.fs.toNat
  let code := fsCode f
  let ends := fun (t : State) (st : Nat) =>
    (∃ q, t.optOf core slot = some q ∧ q.busy = false ∧ q.status = BitVec.ofNat 32 st ∧ q.gen = o.gen) ∧
    ∀ m, (t.coh o.coh).sreg m = if m = o.dreg ∧ m ≠ 0 ∧ look (s.coh o.coh).handles m = some slot then BitVec.ofNat 64 st
      else (s.coh o.coh).sreg m
  -- where its block goes on, no eviction area follows its cohort and its grid keeps no status area, the two byte stores are v's
  let leaves := fun (t v : State) => ends t 0 ∧ ((∃ x ∈ s.cohsOf o.block, x.2.isOver = false) → s.NoArea o.coh →
    (s.grd o.grid).stat = 0 → t.mem = v.mem ∧ t.bank = v.bank)
  -- values written in order from number o.prog on: the command ends, and those to scratchpads lie there
  let writes := fun (q : Opt) (ws : List (Nat × Nat × Nat)) (v : State) =>
    let rest := ws.drop o.prog
    let made := State.engWrites core q rest o.prog v
    (made.1 = .ok → Gives run (fun t => leaves t made.2.2)) ∧
    (v.InScratch core q rest → made.1 = .ok ∧ v.Laid made.2.2 core q rest)
  let bs := blockSize (fsBsz f)
  let m := bfpM code
  let mode := fun (jb : DWord) (i : Nat) => s.engMode o f (lo32n jb) i
  s.optOf core slot = some o → o.busy = true → (∀ tid, o.st ≠ .pageFault tid) → o.fin = none →
  (o.cancel = true → o.instr = .accz e n → o.begun = false → o.rows = [] → Gives run (fun t => ends t 0x200)) ∧
  (o.cancel = false → o.fail = true → Gives run (fun t => ends t 0x804)) ∧
  (o.cancel = false → o.fail = false → s.cmdBlocked core o = false →
    -- an uncorrectable error in operand memory that it reads (R343, R438)
    (s.operBad core o = true → Gives run (fun t => ends t 0x500)) ∧
    (s.operBad core o = false →
    -- the accumulators
    (o.instr = .accz e n → Gives run (fun t => ends t 0 ∧ ∀ i j, (t.acc core part n.toNat).at_ i j = 0)) ∧
    (∀ rows v, o.instr = .accld e ra rb n →
      State.engReads core o ((List.range 64).map (fun (i : Nat) => (addVa (o.d 0) (i * (o.d 1).toInt), 64 * elemSize code))) u =
        (.ok, rows, v) →
      Gives run (fun t => ends t 0 ∧ ∀ i < 64, ∀ j < 64, (t.acc core part n.toNat).at_ i j =
        BitVec.ofNat 32 (Fmt.fp32.conv .rne (elemVal code
          ((rows[i]?).getD 0 / 2 ^ (8 * elemSize code * j) % 2 ^ (8 * elemSize code)))).1)) ∧
    ((o.instr = .mma e om om2 n ∨ o.instr = .mmb e om om2 n) → Gives run (fun t => ends t 0 ∧
      ∀ i < 64, ∀ j < 64, (t.acc core part n.toNat).at_ i j = BitVec.ofNat 32 (productElem (isMmb o.instr)
        (s.slot core part om.toNat) (s.slot core part om2.toNat) (o.d 0).toNat (o.d 1).toNat (o.d 2).toNat (o.d 3).toNat i j
        ((s.acc core part n.toNat).at_ i j)).1)) ∧
    -- claims
    (o.instr = .omclm e a b try_ scu → (∀ x ∈ s.cohorts, x.1 = o.coh → x.2.isOver = false) →
      let claim := exec (.claimGrant core slot) s
      (s.claimNow core o try_ scu.toNat = 0 → Gives claim (fun t => ends t 0 ∧
        (∀ i < 32, o.maskA.testBit i = true → (t.slot core part i).owner = some o.coh ∧
          (t.slot core part i).units = if (s.slot core part i).units = 0 then scuUnits scu.toNat else (s.slot core part i).units) ∧
        ∀ i < 8, o.maskB.testBit i = true → (t.acc core part i).owner = some o.coh)) ∧
      (∀ d, s.claimNow core o try_ scu.toNat = d → d ≠ 0 → d ≠ 4 → Gives claim (fun t => ends t (0x800 + d)))) ∧
    (o.instr = .omrel e a b → Gives run (fun t => ends t 0 ∧
      (∀ i < 32, o.maskA.testBit i = true → (t.slot core part i).owner ≠ some o.coh) ∧
      ∀ i < 8, o.maskB.testBit i = true → (t.acc core part i).owner ≠ some o.coh)) ∧
    -- a fill
    (∀ vs v, o.instr = .cpym e ra rb om → o.eng = 1 → o.st ≠ .landing →
      State.engReads core o (o.fillRows code (fsBsz f)) u = (.ok, vs, v) →
      Gives (exec (.fillLanded core slot) s) (fun t =>
        (o.follow = none → ends t (if o.lostFollow then 0x300 else 0)) ∧ (o.follow ≠ none → ∃ q, t.optOf core slot = some q ∧ q.busy = true ∧ q.st = .landing) ∧
        ∀ i < 64, (∀ k < rowBytes code, getD (t.slot core part om.toNat).data (i * rowBytes code + k) 0 =
            BitVec.ofNat 8 ((vs[i]?).getD 0 / 2 ^ (8 * k))) ∧
          (isBfp code = true → ∀ k < scaleBytes code (fsBsz f),
            getD (t.slot core part om.toNat).scales (i * scaleBytes code (fsBsz f) + k) 0 =
              BitVec.ofNat 8 ((vs[64 + i]?).getD 0 / 2 ^ (8 * k))))) ∧
    -- an accumulator stored, or moved into a slot (R358)
    (∀ rc, o.instr = .accst e ra rb rc n → 4 ≤ o.desc.length →
      let q := u.startScale core slot o f 4
      let ws := (q.2.accstWrites core q.1 f n.toNat).map Prod.fst
      let a := s.acc core part n.toNat
      writes q.1 ws q.2 ∧ ∀ i : Nat, i < 64 →
        (isBfp code = false → ws[i]? = some (addVa (o.d 0) ((i : Int) * (o.d 2).toInt), 64 * elemSize code,
          packNats (8 * elemSize code) ((List.range 64).map (fun j =>
            if code = 0 then (a.at_ i j).toNat
            else (elemConv code (mode (o.d 3) (64 * i + j)) (Fmt.fp32.dec (a.at_ i j).toNat)).1)))) ∧
        (isBfp code = true →
          let r := (s.bfpRun o f (forced (q.1.d 4)) (lo32n (o.d 3)) (64 * i) (a.row i)).1
          ws[2 * i]? = some (addVa (o.d 0) ((i : Int) * (o.d 2).toInt), 8 * m, packBits m (r.flatMap Prod.snd)) ∧
          ws[2 * i + 1]? = some (addVa (o.d 1) (i * 2 * (64 / bs) : Nat), 2 * (64 / bs), packNats 16 (r.map Prod.fst)))) ∧
    (∀ rc h, o.instr = .accmv e om rc n h → 1 ≤ o.desc.length →
      let q := u.startScale core slot o f 1
      let a := s.acc core part n.toNat
      let hn := if h then 1 else 0
      let es := elemSize code
      (isBfp code = false → 64 * es + 64 * hn ≤ 128) →
      Gives run (fun t => ends t 0 ∧
        let x := t.slot core part om.toNat
        (x.fmt = (s.slot core part om.toNat).fmt ∧ x.bsz = (s.slot core part om.toNat).bsz) ∧
        ∀ i < 64,
          (isBfp code = false → ∀ j < 64, ∀ k < es, getD x.data (i * 128 + 64 * hn + es * j + k) 0 =
            BitVec.ofNat 8 ((elemConv code (mode (o.d 0) (64 * i + j)) (Fmt.fp32.dec (a.at_ i j).toNat)).1 / 2 ^ (8 * k))) ∧
          (isBfp code = true →
            let r := (s.bfpRun o f (forced (q.1.d 1)) (lo32n (o.d 0)) (64 * i) (a.row i)).1
            (∀ k < 8 * m, getD x.data (i * 16 * m + 8 * m * hn + k) 0 =
              BitVec.ofNat 8 (packBits m (r.flatMap Prod.snd) / 2 ^ (8 * k))) ∧
            ∀ k < 2 * (64 / bs), getD x.scales (i * scaleBytes code (fsBsz f) + 2 * (64 / bs) * hn + k) 0 =
              BitVec.ofNat 8 (packNats 16 (r.map Prod.fst) / 2 ^ (8 * k))))) ∧
    -- conversions of arrays (R361)
    (∀ rc wt, o.instr = .qnt e ra rb rc wt → 5 ≤ o.desc.length →
      let w := elemSize wt.toNat
      let q := u.startScale core slot o f 5
      ∀ raw v, State.engReads core q.1 ((List.range (lo32n (o.d 3))).map (fun (i : Nat) => (addVa (o.d 0) (i * w : Nat), w))) q.2 =
        (.ok, raw, v) →
      let vs := raw.map (elemVal wt.toNat)
      let ws := (v.qntWrites q.1 f vs).map Prod.fst
      writes q.1 ws v ∧
      (isBfp code = false → ∀ i x, vs[i]? = some x → ws[i]? = some (addVa (o.d 1) (i * elemSize code : Nat), elemSize code,
        (elemConv code (mode (o.d 4) i) x).1)) ∧
      (isBfp code = true → ∀ c, bs * (c + 1) ≤ vs.length →
        let b := bfpBlock m (forced (q.1.d 5)) (fun i => mode (o.d 4) (bs * c + i)) ((vs.drop (bs * c)).take bs)
        ws[2 * c]? = some (addVa (o.d 1) (c * (bs * m / 8) : Nat), bs * m / 8, packBits m b.2.1) ∧
        ws[2 * c + 1]? = some (addVa (o.d 2) (2 * c : Nat), 2, b.1))) ∧
    (∀ rc wt, o.instr = .dqnt e ra rb rc wt →
      let w := elemSize wt.toNat
      let cnt := lo32n (o.d 3)
      let row := fun (i : Nat) => (addVa (o.d 0) (i * (bs * m / 8) : Nat), bs * m / 8)
      let scale := fun (i : Nat) => (addVa (o.d 1) (2 * i : Nat), 2)
      let one := fun (i : Nat) => (addVa (o.d 0) (i * elemSize code : Nat), elemSize code)
      ∀ raw v, State.engReads core o (if isBfp code then (List.range (cnt / bs)).map row ++ (List.range (cnt / bs)).map scale
          else (List.range cnt).map one) u = (.ok, raw, v) →
      let r := u.dqntWrites core o f wt.toNat
      let ws := r.2.1.map Prod.fst
      r.1 = .ok ∧ writes o ws r.2.2 ∧ ∀ i < cnt,
        (isBfp code = false → ∀ x, raw[i]? = some x → ws[i]? = some (addVa (o.d 2) (i * w : Nat), w,
          (elemConv wt.toNat (mode (o.d 4) i) (elemVal code x)).1)) ∧
        (isBfp code = true → ∀ x y, raw[i / bs]? = some x → raw[cnt / bs + i / bs]? = some y →
          ws[i]? = some (addVa (o.d 2) (i * w : Nat), w, (elemConv wt.toNat (mode (o.d 4) i)
            (bfpVal m (y % 2 ^ 10) (BitVec.ofNat m (x / 2 ^ (m * (i % bs)))).toInt)).1))) ∧
    -- copies, gathers and scatters move their rows in pieces (R352, R353); so do PUT and GET, whose record follows (R392, R393)
    (∀ vb p v, o.instr = .cpy e ra ∨ o.instr = .cpyg e ra vb ∨ o.instr = .cpys e ra vb →
      (lo32n (o.d 2) ≠ 0 →
        (o.instr = .cpyg e ra vb → o.rows = o.offs.map (fun x =>
          (addVa (o.d 0) x.2.toInt, addVa (o.d 1) (x.1 * hi32 (o.d 3)), lo32n (o.d 2)))) ∧
        (o.instr = .cpys e ra vb → o.rows = o.offs.map (fun x =>
          (addVa (o.d 0) (x.1 * lo32 (o.d 3)), addVa (o.d 1) x.2.toInt, lo32n (o.d 2))))) ∧
      (State.copyRun core o false false (o.pieces.drop o.prog) o.prog u = (.ok, p, v) → Gives run (fun t => leaves t v))) ∧
    (∀ put p v, o.instr = (if put then .put e ra rb else .get e ra rb) →
      State.copyRun core o (!put) put (o.pieces.drop o.prog) o.prog u = (.ok, p, v) →
      let w := v.fabWrite core { o with prog := p } 0 0
      w.1 = .ok → Gives run (fun t => leaves t w.2)) ∧
    -- a piece that is the last: its bytes go from the one place to the other, where the release bit is clear with the writes that are
    -- still on their way
    (∀ vb src dst len g h, (o.instr = .cpy e ra ∨ o.instr = .cpyg e ra vb ∨ o.instr = .cpys e ra vb ∨
        (rb = 0 ∧ (o.instr = .put e ra rb ∨ o.instr = .get e ra rb))) →
      let near := fun (va : Nat) => isWindow va = true ∨
        (len ≤ 2 ^ 16 - va % 2 ^ 16 ∧ (s.tlbHit core (s.grd o.grid).tctx va).isSome = true)
      e.acq = false → o.pieces.drop o.prog = [(src, dst, len)] → o.landed = [] →
      s.engWhere core o (o.instr == .get e ra rb) 5 src len = (.ok, [g]) →
      s.engWhere core o (o.instr == .put e ra rb) 6 dst len = (.ok, [h]) →
      s.segBad g = false → s.savedScr o dst = none → s.ewr = [] → near src → near dst →
      (∃ x ∈ s.cohsOf o.block, x.2.isOver = false) → s.NoArea o.coh →
      Gives run (fun t => ends t 0 ∧ s.StoredAt (t.drainWrites (fun _ => true)) h (g.bytes s) True ∧
        ∀ x, look (t.blk o.block).absent x ≠ some o.seq))))

/-- R366, R379 to R386, R402, R409, R410: the phases of a tenant switch, each with what it leaves. -/
def Obligations.TenantSwitch : Prop := ∀ (s : State) (n : Nat),
  let h := s.share n
  let p := h.out
  let acct := fun (t : State) q => getD t.ctl.acct q 0
  let toPhase := fun (t : State) (f : Phase) => (t.share n) = { h with phase := f } ∧ ∀ m, m ≠ n → t.share m = s.share m
  let mine := fun (c : Nat) => (look s.cohorts c).isSome = true ∧ s.cohPart c = p
  -- the slice of the partition that runs ends, and its follower comes next
  (∀ r q, h.phase = .idle → h.running = some r → s.tick.follower n r = some q →
    (s.tick.hasWork r = false ∨ h.since + 1000 * max 1 (pte (s.pctlOf r) 8 16) ≤ s.tick.time) →
    Gives (exec (.sliceEnd n) s) (fun t => t.share n = ⟨none, .halt, r, some q, t.time, 0⟩ ∧ s.time < t.time ∧
      acct t r = (acct s r + (t.time - h.since)) % 2 ^ 64 ∧ t.cohorts = s.cohorts ∧ t.mem = s.mem ∧
      (∀ w ∈ t.tier.swaps, w.part ≠ r))) ∧
  -- nothing of it is in flight
  (h.phase = .halt → (∀ e ∈ s.cohorts, s.cohPart e.1 = p → (∀ f ∈ e.2.cf, f.2 = 0) ∧ (∀ o ∈ s.ops, o.2.coh ≠ e.1) ∧
      (∀ l < 32, e.2.spec l = false) ∧ s.unfinished e.1 = false) →
    Gives (exec (.haltComplete n) s) (fun t => toPhase t .quiesce ∧ s.SameRegs t ∧ t.transit = s.transit ∧
      -- what its cores hold dirty of it is in memory, and nothing else has changed there
      s.AllHome t (fun _ part _ => part = p) ∧
      (∀ c, mine c → t.coh c = { s.coh c with
        dirty := []
        active := false
        posTime := if (s.coh c).place = .resident then h.since else (s.coh c).posTime }) ∧
      (∀ k, ∀ e ∈ (t.core k).l1, e.part = p → e.mask = 0) ∧
      ∀ w ∈ t.walks, s.cohPart w.2.coh ≠ p)) ∧
  -- no command of it moves bytes: claims are lost
  (h.phase = .quiesce → (∀ c ∈ s.cores, ∀ o ∈ c.2.opt, o.2.busy = true → (s.grd o.2.grid).part ≠ p) →
    Gives (exec (.quiesceMarkerReturn n) s) (fun t => s.time < t.time ∧
      (t.share n) = { h with
        phase := .save
        stop := t.time } ∧ (∀ m, m ≠ n → t.share m = s.share m) ∧ s.SameRegs t ∧
      ((∀ w ∈ s.ewr, w.part ≠ p) → t.mem = s.mem) ∧ (∀ w ∈ t.ewr, w.part ≠ p) ∧
      ∀ c, mine c → ((∃ x ∈ (s.core (s.cohCore c)).slots, x.2.owner = some c) ∨
          ∃ x ∈ (s.core (s.cohCore c)).accs, x.2.owner = some c) →
        (t.coh c).lost = true ∧ (∀ x ∈ (t.core (s.cohCore c)).slots, x.2.owner ≠ some c) ∧
        ∀ x ∈ (t.core (s.cohCore c)).accs, x.2.owner ≠ some c)) ∧
  -- cohorts and scratchpads are saved
  (h.phase = .save → sorted s.cohorts = true → Gives (exec (.imageSaveComplete n) s) (fun t => toPhase t .scrub ∧ s.SameRegs t ∧
    t.mem = (s.tick.saveImage p).mem ∧ (look s.ctl.saveArea p = none → t.mem = s.mem) ∧
    (∀ a, look s.ctl.saveArea p = some a → look t.ctl.images p = some (s.norm a)) ∧
    (∀ c, mine c → (t.coh c).place = if (s.coh c).place = .resident then .saved else (s.coh c).place) ∧
    ∀ b k, look s.blocks b = some k → (s.grd k.grid).part = p → (t.blk b).place = .saved ∧
      ∀ i < (s.grd k.grid).scrRows * 2048, getD (t.blk b).scr i 0 = getD s.bank (k.core * 0x180000 + k.scrRow * 2048 + i) 0)) ∧
  -- nothing of it is left behind
  (h.phase = .scrub → let cs := s.cshareOf n
    Gives (exec (.scrubComplete n) s) (fun t => s.SameRegs t ∧
      (h.next.isSome = true → (t.share n).phase = .restore ∧ (t.share n).next = h.next) ∧
      (∀ a, csRowBase cs ≤ a % 0x180000 / 2048 → a % 0x180000 / 2048 < csRowBase cs + csRows cs → getD t.bank a 0 = 0) ∧
      (∀ c ∈ t.cores, c.2.tlb = [] ∧ (∀ x ∈ c.2.l1, x.part ≠ p) ∧ (∀ x ∈ c.2.slots, x.1 / 32 ≠ n) ∧
        (∀ x ∈ c.2.accs, x.1 / 8 ≠ n) ∧ (∀ o ∈ c.2.opt, (s.grd o.2.grid).part ≠ p) ∧
        ∀ o ∈ c.2.obuf, (s.grd o.grid).part ≠ p) ∧ t.cluTlb = [])) ∧
  -- the next partition takes its place: its image is read, every block finds rows, its order buffers find room
  (∀ q, h.phase = .restore → h.next = some q → (∀ r ∈ s.traps.held, r.part ≠ q) → look s.ctl.pctlHold q = none →
    (∀ c ∈ s.cores, (∀ o ∈ c.2.saved, ∀ v, o.2.2.st ≠ .ended v) ∧ ∀ o ∈ c.2.opt, ∀ v, o.2.st ≠ .ended v) →
    (∀ e ∈ s.grids, e.2.state = .placing ∨ e.2.state = .running ∨ e.2.state = .draining ∨ e.2.state = .retired) →
    let r := s.tick.readImage q
    let back := ((r.blocksOf q).filter (fun b => b.2.place == .saved)).foldl (fun u b => u.restoreBlock b.1) r
    let full := { back with cores := back.cores.map (fun (e : Nat × Core) => (e.1, e.2.loadOpts (fun g => (back.grd g).part == q) q)) }
    (∀ b ∈ full.blocksOf q, b.2.place ≠ .saved) → (∀ c ∈ full.coresOf q, full.orderUsed c ≤ Config.orderPerCore) →
    Gives (exec (.restoreComplete n) s) (fun t => (t.share n).running = some q ∧ (t.share n).phase = .idle ∧
      (t.share n).next = none ∧ r.SameRegs t ∧
      (∀ b k, look r.blocks b = some k → (s.grd k.grid).part = q → k.place = .saved → (t.blk b).place = .resident) ∧
      (∀ c k, look r.cohorts c = some k → (look r.blocks k.block).isSome = true → r.cohPart c = q → k.place = .saved →
        (r.blk k.block).place = .saved → (r.blk k.block).exited = false → (t.coh c).place = .resident) ∧
      ∀ b k, r.blocksOf q = [(b, k)] → look r.blocks b = some k → k.place = .saved → k.exited = false → s.memWf →
        Memory.wf k.scr → ∀ i < (s.grd k.grid).scrRows * 2048,
          getD t.bank (k.core * 0x180000 + (t.blk b).scrRow * 2048 + i) 0 = getD k.scr i 0))

/-- R12, R116, R370, R389 to R395, R397, R400, R401: what other packages ask of this one, and what reaches it. -/
def Obligations.FabricEvents : Prop := ∀ (s : State) (src off size : Nat) (dtid : BitVec 16) (data : BitVec 128) (core slot : Nat),
  let pa := s.ctl.pkg * 2 ^ 42 + off
  let old := getBytes s.mem pa size
  let req := fun k => exec (.remoteRequest src dtid k off size data) s
  let ok := fun w => s.remoteCause dtid.toNat off size w = 0
  let said := fun (t : State) v => s.Said t (.remoteReply src 0 (BitVec.ofNat 128 v))
  let stored := fun (t : State) v => s.BytesAt t pa size v ∧ s.SameRegs t
  let ends := fun (t : State) st => ∃ q, t.optOf core slot = some q ∧ q.busy = false ∧ q.status = BitVec.ofNat 32 st
  -- a port leaves service once what has been sent on it is delivered
  (s.portBusy size = true → Gives (exec (.portOutOfService size) s) (fun t => t = s)) ∧
  (s.portBusy size = false → Gives (exec (.portOutOfService size) s) (fun t => t.fab.colls = s.fab.colls ∧ s.SameRegs t ∧
    (∀ i < 18, t.fab.ports.getLsbD i = (s.fab.ports.getLsbD i && i != size)) ∧ (∀ w ∈ t.ewr, w.route = none) ∧
    ((∀ w ∈ s.ewr, w.route = none) → t = { s with fab := t.fab }))) ∧
  (∀ k c, s.remoteCause dtid.toNat off size (remoteWrites k) = c → c ≠ 0 → Gives (req k) (fun t =>
    s.Said t (.remoteReply src c 0) ∧ t = { s with svc := t.svc })) ∧
  (s.svc.bad = [] → s.svc.badL2 = [] → (∀ e ∈ s.cores, e.2.rel = []) →
    (ok false → Gives (req .load) (fun t => said t old ∧ t.mem = s.mem ∧ t.bank = s.bank ∧ s.SameRegs t)) ∧
    (ok true →
      Gives (req .store) (fun t => said t 0 ∧ stored t data.toNat) ∧
      (∀ op ty, ty.bytes = size → Gives (req (.rmw op ty)) (fun t => said t old ∧
        stored t (newValue op ty (8 * size) (BitVec.ofNat (8 * size) old) (BitVec.ofNat (8 * size) data.toNat)).toNat)) ∧
      Gives (req .cas) (fun t => said t old ∧
        if old = data.toNat % 2 ^ 64 % 2 ^ (8 * size) then stored t (data.toNat / 2 ^ 64) else t.mem = s.mem))) ∧
  -- a payload and its record
  (∀ (bytes : List Byte) (rec : Nat) (code detail : Byte), bytes ≠ [] → s.remoteCause dtid.toNat off bytes.length true = 0 →
    (rec % 16 = 0 → (rec + 16 ≤ off ∨ off + bytes.length ≤ rec) →
      s.remoteCause dtid.toNat rec 16 true = 0 →
      Gives (exec (.payloadDelivery src dtid off bytes (some rec) code detail) s) (fun t => said t 0 ∧ s.SameRegs t ∧
        s.time < t.time ∧ (∀ i b, bytes[i]? = some b → getD t.mem (pa + i) 0 = b) ∧
        getBytes t.mem (s.ctl.pkg * 2 ^ 42 + rec) 16 % 2 ^ 64 =
          (if code = 0 then 1 else 3) + 2 ^ 8 * code.toNat + 2 ^ 16 * detail.toNat ∧
        getBytes t.mem (s.ctl.pkg * 2 ^ 42 + rec) 16 / 2 ^ 64 = t.time % 2 ^ 64)) ∧
    Gives (exec (.payloadDelivery src dtid off bytes none code detail) s) (fun t => said t 0 ∧ s.SameRegs t ∧
      ∀ x, getD t.mem x 0 = if pa ≤ x then (bytes[x - pa]?).getD (getD s.mem x 0) else getD s.mem x 0)) ∧
  -- contributions of collectives, in time and late
  (∀ cid rank head elems,
    (s.tick.collExpired dtid.toNat cid = false → head.fail = false →
      (∀ c, s.collAt dtid.toNat cid = some c → look c.heads rank = none ∧ c.failed = none ∧
        ((∃ h ∈ c.heads, h.2.nmem ≤ c.heads.length) ∨ s.tick.time < c.start + c.limit)) →
      Gives (exec (.collChunkArrival dtid cid rank head elems) s) (fun t => ∃ c, t.collAt dtid.toNat cid = some c ∧
        look c.heads rank = some head ∧ look c.elems rank = some elems ∧ s.SameRegs t ∧ t.mem = s.mem)) ∧
    -- a member tells that it has failed a target check (R398)
    (∀ c, s.tick.collExpired dtid.toNat cid = false → head.fail = true → s.collAt dtid.toNat cid = some c → c.own ≠ none →
      s.tick.time < c.start + c.limit → c.failed = none →
      Gives (exec (.collChunkArrival dtid cid rank head elems) s) (fun t => s.SameRegs t ∧ t.mem = s.mem ∧
        ∃ d, t.collAt dtid.toNat cid = some d ∧ d.failed = some 3 ∧ d.own = c.own ∧ (look d.heads rank).isSome = true)) ∧
    (s.collAt dtid.toNat cid = none → s.tick.collExpired dtid.toNat cid = true →
      Gives (exec (.collChunkArrival dtid cid rank head elems) s) (fun t => t.fab = s.fab ∧ s.SameRegs t ∧ t.mem = s.mem)) ∧
    -- the time runs out with a contribution missing: whatever comes finds that
    (∀ c, s.collAt dtid.toNat cid = some c → (∀ h ∈ c.heads, c.heads.length < h.2.nmem) → c.start + c.limit ≤ s.time →
      s.tick.time ≤ c.start + 3 * c.limit →
      let finished := fun (t : State) => t.collAt dtid.toNat cid = none ∧ t.collExpired dtid.toNat cid = true
      (c.own = none → Gives (exec (.collTimeout dtid cid) s) finished ∧
        Gives (exec (.collChunkArrival dtid cid rank head elems) s) finished) ∧
      (∀ o e a kind, s.collOpt c = some (core, slot, o) → s.optOf core slot = some o → c.own = some (core, slot) →
        s.fab.colls.filter (fun x => x.own == some (core, slot)) = [c] → o.instr = .coll e a 0 kind → kind.toNat ≤ 1 →
        o.fin = none → Gives (exec (.collTimeout dtid cid) s) (fun t => ends t 0x901 ∧ t.collAt dtid.toNat cid = none)))) ∧
  (∀ o e a b kind, s.optOf core slot = some o → o.instr = .coll e a b kind → o.busy = true → o.fin = none →
    let u := if o.mv.isSome then s.tick else s
    -- the outcome, once its record stands, where one is asked for
    let fails := fun (run : Host.Outcome State Fault Refusal) (v : State) (d : Nat) =>
      ∀ w, v.fabWrite core o 9 d = (.ok, w) → Gives run (fun t => ends t (0x900 + d))
    (∀ c, s.dtidOf (s.optPart o) = some c.dtid → s.fab.colls.filter (fun x => x.own == some (core, slot)) = [c] →
      o.st = .awaiting →
      -- members that do not agree, or one that failed
      (∀ d, c.failed = some d → fails (exec (.collResult core slot) s) u d) ∧
      (∀ x y, c.failed = none → look c.heads (c.members.findIdx (· == s.ctl.pkg)) = some x → y ∈ c.heads →
        sameHead y.2 x = false → fails (exec (.collResult core slot) s) u 3) ∧
      -- every member has contributed, and all agree: the result is written, then the record, if there is one
      (∀ h p v w, c.failed = none → look c.heads (c.members.findIdx (· == s.ctl.pkg)) = some h →
        (∀ y ∈ c.heads, sameHead y.2 h = true) → h.nmem ≤ c.heads.length → c.members.length ≤ c.heads.length →
        let f := (s.grd o.grid).fslot e.fs.toNat
        let es := elemSize (fsCode f)
        let r := u.collElems o f c kind.toNat (c.members.findIdx (· == s.ctl.pkg)) h
        State.engWrites core o ((r.1.zipIdx.map (fun x => (addVa (o.d 1) (x.2 * es : Nat), es, x.1))).drop o.prog) o.prog u =
          (.ok, p, v) →
        (v.raiseGrid o.grid r.2.1 r.2.2).fabWrite core { o with prog := p } 0 0 = (.ok, w) →
        Gives (exec (.collResult core slot) s) (fun t => ends t 0 ∧ t.collAt c.dtid c.cid = none ∧
          ((∃ x ∈ s.cohsOf o.block, x.2.isOver = false) → s.NoArea o.coh → t.mem = w.mem) ∧
          (r.2.1 = 0 → r.2.2 = false → b = 0 → w = v)))) ∧
    -- a message that no link carries
    fails (exec (.flitReplayExhausted (.cmd core slot)) s) s 6)

/-- R404, R405: a gang's member on this package: who may begin, who acknowledges, and how it is called off. The member is the
only launch of its identifier. -/
def Obligations.Gangs : Prop := ∀ (s : State) (k : Nat) (g : Grid) (q : Gang),
  look s.grids k = some g → s.gangOf q.gid = some (k, q) → g.gang = some q →
  let now := fun (t : State) => (t.grd k).gang
  let waits := q.phase = .preparing ∨ q.phase = .readySent
  let dropped := fun (t : State) => (t.grd k).state = .retired ∧ (t.grd k).code = 3 ∧ (t.grd k).cause = 5
  let all := fun (r : List (Nat × BitVec 384)) => ∀ i < q.members.length, ∃ x ∈ r, x.1 = i ∧ x.2 = q.digest
  -- READY at rank 0
  (∀ rank digest, let r := q.ready ++ [(rank, digest)]
    let ready := exec (.gangReady q.gid rank digest) s
    q.q = 0 → waits → rank < q.members.length → (∀ x ∈ q.ready, x.1 ≠ rank) →
    (q.phase = .readySent → all r → Gives ready (fun t => now t = some { q with ready := r } ∧ s.Said t (.go q.gid))) ∧
    (q.phase = .preparing ∨ ¬ all r → Gives ready (fun t => now t = some { q with ready := r } ∧ t = { s with grids := t.grids }))) ∧
  -- GO in time, at rank 0 once every READY is there, where the reserved cores have room
  (∀ clu cores, q.phase = .readySent → q.reserved = some (clu, cores) → s.running g.part = true →
    s.tick.time < q.readyAt + 1000000 * q.ptmo + 100000 → (q.q = 0 → all q.ready) →
    (∀ c ∈ cores, (s.blockRoom g c).isSome = true) →
    Gives (exec (.gangGo q.gid) s) (fun t => (t.grd k).state = .running ∧ s.Said t (.ack q.gid q.q) ∧
      (∃ r, now t = some r ∧ r.acks = q.acks ++ [q.q] ∧ r.reserved = none ∧ (r.phase = .going ∨ r.phase = .done) ∧
        s.time < r.goAt) ∧
      ∃ p x, look t.placed p = some x ∧ x.grid = k ∧ x.cores = cores ∧
        x.die = clu / Config.clustersPerDie ∧ x.clu = clu % Config.clustersPerDie)) ∧
  -- a GO that comes too late finds the launch retired, and one at rank 0 that lacks a READY does nothing
  (∀ r, q.phase = .readySent → q.reserved = some r →
    (q.readyAt + 1000000 * q.ptmo + 100000 ≤ s.time → Gives (exec (.gangGo q.gid) s) dropped) ∧
    (s.tick.time < q.readyAt + 1000000 * q.ptmo + 100000 → q.q = 0 → ¬ all q.ready →
      Gives (exec (.gangGo q.gid) s) (fun t => t = s))) ∧
  -- ACK in time
  (∀ rank, q.phase = .going → rank < q.members.length → rank ∉ q.acks → s.tick.time < q.goAt + 100000 →
    Gives (exec (.gangAck q.gid rank) s) (fun t => t = { s.tick with grids := t.grids } ∧ ∃ r, now t = some r ∧ r.acks = q.acks ++ [rank] ∧
      (r.phase = .done ↔ ∀ i < q.members.length, i ∈ r.acks))) ∧
  -- CANCEL, ABORT and the timers, before it runs
  (waits →
    Gives (exec (.gangCancel q.gid) s) dropped ∧
    (∀ missing, Gives (exec (.gangAbort q.gid missing) s) dropped)) ∧
  (q.phase = .readySent →
    (q.q = 0 → ¬ all q.ready → q.readyAt + 1000000 * q.ptmo ≤ s.time → Gives (exec (.gangPrepareTimeout q.gid) s) (fun t =>
      dropped t ∧ s.Said t (.cancel q.gid))) ∧
    (q.readyAt + 1000000 * q.ptmo + 100000 ≤ s.time → Gives (exec (.gangGoTimeout q.gid) s) (fun t =>
      dropped t ∧ t.svc.out = s.svc.out))) ∧
  -- once it runs
  (q.phase = .going → g.aborted = false →
    let stopped := fun (t : State) => (t.grd k).aborted = true ∧ (∃ r, now t = some r ∧ r.phase = .aborted) ∧
      ∀ c x, look s.cohorts c = some x → (∃ b ∈ s.blocks, b.1 = x.block ∧ b.2.grid = k) →
        ∀ l < 32, x.awake.getLsbD l = true → (t.coh c).parked.getLsbD l = true
    (∀ missing, Gives (exec (.gangAbort q.gid missing) s) stopped) ∧
    -- 100 µs after it began to run an ACK is missing: an ACK that comes then changes nothing
    (q.goAt + 100000 ≤ s.time → ∀ rank, ∀ run ∈ [exec (.gangAckTimeout q.gid) s, exec (.gangAck q.gid rank) s],
      Gives run (fun t => stopped t ∧
        ∃ m, .abort q.gid m ∈ t.svc.out ∧ ∀ i x, q.members[i]? = some x → i ∉ q.acks → x ∈ m)))

/-- R410 to R414, R416 to R420, R445: the host's side of a virtual function. The order that SPDM requests keep and the
contents of their answers are the model's (notes/assumptions/14.md). -/
def Obligations.HostAndAttestation : Prop := ∀ (s : State) (vf : Nat),
  let v := s.vf vf
  let p := s.tctxPart vf
  let becomes := fun (t : State) (w : Vf) => t.vf vf = w ∧ ∀ n, n ≠ vf → t.vf n = s.vf n
  let answers := fun (i : Instr) (st : Nat) (data : List Byte) (w : Vf) => Gives (exec i s) (fun t =>
    s.Said t (.ctl vf st data) ∧ becomes t w ∧ t = { s with svc := t.svc } ∧ t.svc.attest = s.svc.attest)
  let spdm := fun (i : Instr) (code stage : Nat) (data : List Byte) (w : Vf) =>
    (stage ≤ v.handshake → answers i 0 (Config.spdm code data) w) ∧
    (v.handshake < stage → answers i 0 (Config.spdm 0x7F data) v)
  -- function 64 is the physical one, without a context (notes/assumptions/82.md)
  (∀ x, (vf < 64 ∧ s.tctxEn vf = true ∨ vf = physFn → s.ctl.ready = true → x &&& ~~~0x730000000#64 = 0 → x &&& 0x300000000#64 = 0x300000000#64 →
      Gives (exec (.featuresOk vf x) s) (fun t => becomes t { v with
        featuresOk := true
        features := x } ∧ t = { s with svc := t.svc } ∧ t.svc.out = s.svc.out)) ∧
    (s.ctl.ready = false → exec (.featuresOk vf x) s = .next s)) ∧
  (vf ≤ physFn → Gives (exec (.vfReset vf) s) (fun t => (t.vf vf).featuresOk = false ∧ (t.vf vf).features = 0 ∧
    ∀ k g, look s.grids k = some g → g.vf = vf → ((t.grd k).state = .retired ∨ (t.grd k).note = false) ∧
      (g.state = .placing ∨ g.state = .opwait → (t.grd k).state = .retired ∧ (t.grd k).code = 3 ∧ (t.grd k).cause = 4))) ∧
  (v.featuresOk = true →
    (∀ e l, v.events = e :: l → Gives (exec (.eventDelivery vf) s) (fun t =>
      s.Said t (.event vf { e with lost := min v.lost 255 }) ∧ becomes t { v with
        events := l
        lost := 0 } ∧ t = { s with svc := t.svc })) ∧
    (∀ e l, v.compl = e :: l → Gives (exec (.completionEntryWrite vf) s) (fun t =>
      s.Said t (.completion vf e) ∧ becomes t { v with compl := l } ∧ t = { s with svc := t.svc }))) ∧
  (s.takesRequest vf = true →
    (∀ code, answers (.unknownControlRequest vf code) 0xFF [] v) ∧
    Gives (exec (.readAccount vf) s) (fun t => s.time < t.time ∧ s.Said t (.ctl vf 0 (leBytes 8 (t.account p))) ∧
      t.ctl = s.ctl ∧ t.cohorts = s.cohorts ∧ t.mem = s.mem) ∧
    -- SPDM
    spdm (.getVersion vf) 0x84 0 [] { v with
      handshake := 1
      session := false } ∧
    spdm (.getCapabilities vf) 0xE1 1 [] { v with handshake := max v.handshake 2 } ∧
    spdm (.negotiateAlgorithms vf) 0xE3 2 [] { v with handshake := max v.handshake 3 } ∧
    spdm (.getDigests vf) 0x81 3 [] v ∧ spdm (.getCertificate vf) 0x82 3 [] v ∧
    (∀ nonce : BitVec 256, spdm (.challenge vf nonce) 0x83 3 (leBytes 32 nonce.toNat) v) ∧
    (∀ index, spdm (.getMeasurements vf index) 0xE0 3 (BitVec.ofNat 8 index ::
      (if index = 2 then leBytes 48 (Config.sha384 (s.settings p)).toNat
        else if index = 3 then leBytes 48 (s.attest p).record.toNat ++ leBytes 8 (s.attest p).count else [])) v) ∧
    spdm (.keyExchange vf) 0xE4 3 [] { v with handshake := 4 } ∧ spdm (.finish vf) 0xE5 4 [] { v with session := true } ∧
    (v.session = true → 3 ≤ v.handshake → answers (.endSession vf) 0 (Config.spdm 0xEC []) { v with
      handshake := 3
      session := false }) ∧
    (v.session = false → answers (.endSession vf) 0 (Config.spdm 0x7F []) v) ∧
    -- vendor requests, in a session
    (∀ k key, (v.session = true → k ≤ 3 → Gives (exec (.setImageKey vf k key) s) (fun t =>
        s.Said t (.ctl vf 0 (Config.spdm 0xFE [])) ∧ look (t.attest p).keys k = some key ∧ t = { s with svc := t.svc })) ∧
      (v.session = false ∨ 3 < k → answers (.setImageKey vf k key) 0 (Config.spdm 0x7F []) v)) ∧
    (∀ dtid : BitVec 16,
      (v.session = true → (∀ q, s.dtidPart s.ctl.pkg dtid.toNat = some q → q = p) → Gives (exec (.setDtid vf dtid) s) (fun t =>
        s.Said t (.ctl vf 0 (Config.spdm 0xFE [])) ∧ t.dtidPart t.ctl.pkg dtid.toNat = some p ∧
        ∀ d, d ≠ dtid.toNat → d < 2 ^ 16 → t.dtidPart t.ctl.pkg d ≠ some p)) ∧
      (v.session = false ∨ (∃ q, s.dtidPart s.ctl.pkg dtid.toNat = some q ∧ q ≠ p) →
        answers (.setDtid vf dtid) 0 (Config.spdm 0x7F []) v)) ∧
    (v.session = true → (∀ e ∈ s.own, ¬ (e.2.owner = some p ∧ e.2.ex = true)) → Gives (exec (.resetRecord vf) s) (fun t =>
      s.Said t (.ctl vf 0 (Config.spdm 0xFE [])) ∧ (t.attest p).record = 0 ∧ (t.attest p).count = 0 ∧
      (t.attest p).keys = (s.attest p).keys)) ∧
    (v.session = false ∨ (∃ e ∈ s.own, e.2.owner = some p ∧ e.2.ex = true) →
      answers (.resetRecord vf) 0 (Config.spdm 0x7F []) v))

/-- R37, R413, R418, R419: a load begins with its first segment, and a segment of data ends. Reading of the image, hashing and the
signature scheme are those of the standards that the manual names. -/
def Obligations.ImagesLoaded : Prop := ∀ (s : State) (vf k : Nat) (va base : BitVec 64),
  let part := s.tctxPart vf
  let l0 : Load := ⟨vf, part, vf, va, base, 0, 0, 0, [], []⟩
  let begin_ := exec (.loadImage vf va base) s
  let loading := fun (t : State) (ps : List (Nat × Nat)) b => ∀ f ∈ framesOf ps, (getD t.own f .blank).loading = b
  -- what waits at a page that is being moved leaves no more than that
  let waits := fun (run : Host.Outcome State Fault Refusal) => Gives run (fun t =>
    t.svc = s.svc ∧ t.own = s.own ∧ s.SameRegs t ∧ t.mem = s.mem ∧ t.bank = s.bank)
  (s.takesRequest vf = true → (s.imageMeets l0 0 32).1 = true → waits begin_) ∧
  (s.takesRequest vf = true → ∀ h, s.imageNat l0 0 32 = some h →
    (pte h 0 32 ≠ 0x31584B47 → (s.imageNat l0 32 96).isSome = true → Gives begin_ (fun t =>
      s.Said t (.ctl vf 1 []) ∧ s.SameRegs t ∧ t.mem = s.mem ∧ t.own = s.own)) ∧
    (pte h 0 32 = 0x31584B47 → pte h 48 16 = 0 → Gives begin_ (fun t => s.Said t (.ctl vf 0 []) ∧ t.own = s.own)) ∧
    (∀ e ps, let l := { l0 with
        header := h
        entry := e }
      s.imageNat l0 32 96 = some e → pte h 48 16 ≠ 0 → s.segOk l = true → s.targetParts l = some ps →
      ((∀ f ∈ framesOf ps, (getD s.own f .blank).sealed = false) → Gives begin_ (fun t =>
        look t.svc.loads (freshKey s.svc.loads) = some { l with parts := ps } ∧ loading t ps true ∧ s.SameRegs t ∧ t.svc.out = s.svc.out)) ∧
      ((∃ f ∈ framesOf ps, (getD s.own f .blank).sealed = true) → Gives begin_ (fun t =>
        s.Said t (.ctl vf 2 []) ∧ t.own = s.own ∧ t.mem = s.mem)))) ∧
  (∀ l, look s.svc.loads k = some l → (s.segBusy l = true → exec (.loaderComplete k) s = .next s) ∧
    (s.segBusy l = false → (s.segMeets l).1 = true → waits (exec (.loaderComplete k) s))) ∧
  (∀ l src pa, look s.svc.loads k = some l → segKind l.entry = 2 → l.parts = [(pa, segSize l.entry)] →
    (getD s.own (pa / 2 ^ 21) .blank).owner = some l.part → s.segBusy l = false →
    s.imageBytes l (segOff l.entry) (segSize l.entry) = some src → src.length = segSize l.entry →
    (s.imageBytes l (segSig l.entry) 4627).isSome = true →
    let ends := exec (.loaderComplete k) s
    let a := s.attest l.part
    -- the hash of the bytes is not the one of the entry
    ((Config.sha384 src).toNat ≠ segMeas l.entry → Gives ends (fun t =>
      s.Said t (.ctl l.vf (4 + 256 * l.seg) []) ∧ look t.svc.loads k = none ∧ t.svc.attest = s.svc.attest ∧ loading t l.parts false ∧
      s.SameRegs t ∧ t.bank = s.bank ∧
      ∀ x, getD t.mem x 0 = if pa ≤ x then (src[x - pa]?).getD (getD s.mem x 0) else getD s.mem x 0)) ∧
    -- the last segment, well signed
    (∀ (u : State) sig h, u = s.putParts [(pa, segSize l.entry)] src → (Config.sha384 src).toNat = segMeas l.entry →
      u.imageBytes l (segSig l.entry) 4627 = some sig →
      Config.mlDsaOk (((look s.svc.attest l.part).bind (fun x => look x.keys (pte l.header 64 32))).getD []) l.message sig = true →
      u.imageNat l 0 32 = some h → pte h 0 32 = 0x31584B47 → pte h 48 16 ≤ l.seg + 1 → Gives ends (fun t =>
        s.Said t (.ctl l.vf 0 []) ∧ look t.svc.loads k = none ∧ loading t l.parts false ∧ s.SameRegs t ∧
        (t.attest l.part).record = Config.sha384 (leBytes 48 a.record.toNat ++ leBytes 48 (segMeas l.entry)) ∧
        (t.attest l.part).count = a.count + 1 ∧
        ∀ x, getD t.mem x 0 = if pa ≤ x then (src[x - pa]?).getD (getD s.mem x 0) else getD s.mem x 0)))

/-- R9, R86, R438 to R443, R445: errors and their log, spares, gated cores, moves that end, and what a reset leaves. -/
def Obligations.ReliabilityEvents : Prop := ∀ (s : State) (core k : Nat) (kind unit : Byte) (src : BitVec 16) (part : BitVec 5)
    (pa : BitVec 64) (count : BitVec 32) (u : SpareUnit),
  let r := sparePool u
  -- the corrected errors of a unit in the last second, n more among them
  let recent := fun (y : Byte) (z : BitVec 16) (n at_ : Nat) => BitVec.ofNat 32 (n + ((s.svc.corrected.filter (fun q =>
    q.1 == y.toNat && q.2.1 == z.toNat && at_ < q.2.2.1 + 1000000000)).map (fun q => q.2.2.2)).sum)
  let holds := fun (e : ErrRec) (x : Byte) (y : Byte) (z : BitVec 16) (p : BitVec 5) (a : BitVec 64) (n : Nat) =>
    ∃ at_, s.time < at_ ∧ e.tstamp = at_ % 2 ^ 64 ∧ e.kind = x ∧ e.unit = y ∧ e.source = z ∧ e.part = p ∧ e.pa = a ∧
      e.count = recent y z n at_
  let room := s.svc.log.length < logSize ∧ s.svc.logWait = []
  -- a record in a free place of the ring, and in memory where the ring has been given its place
  let logged := fun (t : State) (x : Byte) (y : Byte) (z : BitVec 16) (p : BitVec 5) (a : BitVec 64) (n : Nat) =>
    t.svc.logSeq = (s.svc.logSeq + 1) % 2 ^ 32 ∧ ∃ e, t.svc.log = s.svc.log ++ [e] ∧ holds e x y z p a n ∧
      e.seq = s.svc.logSeq ∧ e.slot ≤ s.svc.log.length ∧ (∀ o ∈ s.svc.log, o.slot ≠ e.slot) ∧
      (s.ctl.logRing = 0 → t.mem = s.mem) ∧
      (s.ctl.logRing ≠ 0 → s.BytesAt t (s.norm s.ctl.logRing + 64 * e.slot) 64 e.bytes)
  let still := fun (t : State) => s.SameRegs t ∧ t.bank = s.bank
  let word := pa.toNat / 8 * 8
  -- the damaged word: in memory, in a slice, in the L1 of a core, in its bank store or its operand memory
  let bad := fun (t : State) => s.ctl.logRing = 0 →
    (∀ n, arrayKey pa.toNat = some n → src.toNat < Config.cores →
      (unit = 1 → src.toNat * 0x180000 + n % 0x180000 / 8 * 8 ∈ t.svc.badBank) ∧ (unit = 2 → (src.toNat, n) ∈ t.svc.badOper)) ∧
    (pa.toNat < 2 ^ 52 →
      (unit = 4 ∨ unit = 5 ∨ unit = 6 → word ∈ t.svc.bad) ∧
      (unit = 3 → s.l2Holds word = true → if s.l2Dirty word then word ∈ t.svc.bad else word ∈ t.svc.badL2) ∧
      (unit = 1 → src.toNat < Config.cores → ∀ x ∈ (t.core src.toNat).l1, x.sector = pa.toNat / 64 →
        x.bad.getLsbD (pa.toNat % 64 / 8) = true))
  let named := if pa.toNat < 2 ^ 52 then pa else 0
  let log := exec (.errorLogRecord kind unit src part pa count) s
  exec (.arrayScrubPass unit src []) s = .next s ∧
  -- reserved source numbers are never written; a unit that the package has not got needs no spare
  (isSource src.toNat = false → exec (.arrayScrubPass unit src [pa.toNat]) s = .next s ∧
    log = .next s) ∧
  (unitHere u = false → exec (.spareBringIn u) s = .next s) ∧
  (room → isSource src.toNat = true →
    Gives (exec (.arrayScrubPass unit src [pa.toNat]) s) (fun t => logged t 2 unit src 31 named 0 ∧ bad t ∧ still t) ∧
    Gives log (fun t => logged t kind unit src part named (if kind = 1 then max 1 count.toNat else 0) ∧ still t ∧
      (kind = 2 → bad t) ∧
      (∀ n, kind = 2 → part ≠ 31 → n ∈ s.vfsOf part.toNat → (s.vf n).events.length < 256 →
        (t.vf n).events = (s.vf n).events ++ [⟨4, 0, src.toNat, 0, t.time % 2 ^ 64, BitVec.ofNat 64 s.svc.logSeq, named⟩]))) ∧
  -- a full ring gives up its oldest record of a corrected error; where it has none, the record waits until some are taken
  (s.svc.log.length = logSize → isSource src.toNat = true → s.svc.logWait = [] →
    (∀ o, s.svc.log.find? (fun x => x.kind == 1) = some o → Gives log (fun t => ∃ e, e.slot = o.slot ∧ e.seq = s.svc.logSeq ∧
      t.svc.log = s.svc.log.filter (fun x => x.slot != o.slot) ++ [e] ∧
      holds e kind unit src part named (if kind = 1 then max 1 count.toNat else 0))) ∧
    ((∀ o ∈ s.svc.log, o.kind ≠ 1) → Gives log (fun t => t.svc.log = s.svc.log ∧ ∃ e, t.svc.logWait = [e] ∧
      holds e kind unit src part named (if kind = 1 then max 1 count.toNat else 0)))) ∧
  (room → unitHere u = true →
    (u ∉ s.svc.swapping → u ∉ s.svc.retire →
      (getD s.svc.spares r.1 0 < r.2.1 → Gives (exec (.spareBringIn u) s) (fun t =>
        logged t 3 (BitVec.ofNat 8 r.2.2.1) (BitVec.ofNat 16 r.2.2.2) 31 0 0 ∧ t.svc.swapping = s.svc.swapping ++ [u] ∧
        getD t.svc.spares r.1 0 = getD s.svc.spares r.1 0 + 1 ∧ still t)) ∧
      (r.2.1 ≤ getD s.svc.spares r.1 0 → Gives (exec (.spareBringIn u) s) (fun t =>
        logged t 4 (BitVec.ofNat 8 r.2.2.1) (BitVec.ofNat 16 r.2.2.2) 31 0 0 ∧ t.svc.retire = s.svc.retire ++ [u] ∧
        t.svc.swapping = s.svc.swapping ∧ still t)))) ∧
  (u ∈ s.svc.swapping → (∀ n, u = .core n → s.coreEmpty n = true) → Gives (exec (.spareSwapComplete u) s) (fun t =>
    t.svc.swapping = s.svc.swapping.filter (fun x => x != u) ∧ s.SameRegs t ∧
    ((∀ n, u ≠ .core n) → t.mem = s.mem) ∧
    -- what a core's L1 holds dirty is in memory
    ∀ n, u = .core n → (t.core n).l1 = [] ∧ (t.core n).tlb = [] ∧ (t.core n).rel = [] ∧
      s.AllHome t (fun c q _ => c = n ∧ q < Config.parts))) ∧
  -- what the core's cohorts wait for is known up to now: a core that has met the conditions for 50 µs is gated
  (core < Config.cores → (s.core core).gated = false →
    let v := (s.noted.noteCore core).tick
    let gate := exec (.corePowerGate core) s
    (∀ q, (v.core core).quiet = some q → q + 50000 ≤ v.time → Gives gate (fun t =>
      (t.core core) = { v.core core with gated := true } ∧ still t ∧ t.mem = s.mem ∧
      ∀ c x, look v.cohorts c = some x → v.cohCore c = core → x.place = .resident → x.isOver = false →
        t.coh c = { x with dirty := [] })) ∧
    ((∀ q, (v.core core).quiet = some q → v.time < q + 50000) → Gives gate (fun t => t = v)) ∧
    ((s.core core).rel ≠ [] ∨ (∃ o ∈ (s.core core).opt, o.2.busy = true) → Gives gate (fun t =>
      (t.core core).gated = false ∧ (t.core core).quiet = none ∧ still t ∧ t.mem = s.mem))) ∧
  Gives (exec (.coreWake core) s) (fun t => still t ∧ t.mem = s.mem ∧ (∀ j, j ≠ core → t.core j = s.core j) ∧
    (t.core core) = if (s.core core).gated then { s.core core with
      gated := false
      quiet := none } else s.core core) ∧
  (∀ pkg ports failed, pkg < s.ctl.domain → Gives (exec (.reset pkg ports failed) s) (fun t =>
    t.ctl.pkg = pkg ∧ t.ctl.ready = true ∧ t.fab.ports = ports ∧
    (∀ n, t.tctxEn n = false) ∧ (∀ p, pte (t.pctlOf p) 7 1 = 0) ∧ (∀ n, (t.vf n).featuresOk = false) ∧ t.cohorts = [] ∧
    t.grids = [] ∧ t.mem = s.mem ∧ t.svc.bad = s.svc.bad ∧
    -- a spare comes in for a unit that the self-test finds failed; without one the package is degraded
    (failed = [] → t.svc.spares = s.svc.spares ∧ t.svc.log = [] ∧ t.time = s.time ∧
      t.ctl.degraded = (s.svc.failed || !s.svc.retire.isEmpty)) ∧
    (failed = [u] → unitHere u = true →
      let left := getD s.svc.spares r.1 0 < r.2.1
      (∃ e, t.svc.log = [e] ∧ e.kind = (if left then 3 else 4) ∧ e.unit = BitVec.ofNat 8 r.2.2.1 ∧
        e.source = BitVec.ofNat 16 r.2.2.2 ∧ e.part = 31 ∧ e.seq = 0) ∧
      getD t.svc.spares r.1 0 = getD s.svc.spares r.1 0 + (if left then 1 else 0) ∧
      t.ctl.degraded = (!decide left || s.svc.failed || !s.svc.retire.isEmpty)) ∧
    (pkg = 0 → s.ctl.domain = 576 → t.ctl.degraded = false → ports = 0x3FFFF#18 →
      t.capability0 = 0x0000041808120101#64 ∧
      t.capability1 = 0x00A0020006000240#64))) ∧
  (∀ m, look s.tier.moves k = some m → m.old ≠ m.new → m.new < 2 ^ 31 → s.frameBusy m.old = false → s.tier.swaps = [] → s.ewr = [] → s.late = [] →
    (∀ e ∈ s.grids, e.2.state = .placing ∨ e.2.state = .running ∨ e.2.state = .draining ∨ e.2.state = .retired) →
    (∀ c ∈ s.cores, ∀ x ∈ c.2.l1, x.sector / 2 ^ 15 ≠ m.old) →
    (∀ a ∈ s.leavesOf m.reg.part m.old, a / 2 ^ 21 ≠ m.old ∧ a / 2 ^ 21 ≠ m.new ∧ a % 8 = 0) →
    Gives (exec (.regionMoveComplete k) s) (fun t => look t.tier.moves k = none ∧ look t.own m.old = none ∧
      look t.own m.new = some (getD s.own m.old .blank) ∧ s.SameRegs t ∧ t.bank = s.bank ∧
      (∀ i < 2 ^ 21, getD t.mem (m.new * 2 ^ 21 + i) 0 = getD s.mem (m.old * 2 ^ 21 + i) 0) ∧
      ∀ a, s.leavesOf m.reg.part m.old = [a] → let e := getBytes s.mem a 8
        let q := getBytes t.mem a 8
        pte q 52 1 = 0 ∧ pte q 8 2 = (if m.promote then 0 else 1) ∧ pte q 16 5 = pte e 16 5 ∧
          pte q 21 31 = m.new ∧ pte q 0 8 = pte e 0 8))

/-- R18, R30, R72, R81, R128, R168, R175, R407, R408, R413, R442, R445: what reset leaves. -/
def Obligations.ResetState : Prop :=
  let s := State.reset
  s.memWf ∧ s.mem = [] ∧ s.bank = [] ∧ s.l2 = [] ∧ s.cores = [] ∧ s.cluTlb = [] ∧ s.time = 0 ∧
  (∀ n, getD s.ctl.tctx n 0 = 0) ∧ (∀ n, getD s.ctl.pctl n 0x0003E800 = 0x0003E800) ∧
  (∀ n, s.pctlOf n / 2 ^ 7 % 2 = 0) ∧ (∀ n, s.cshareOf n = 0) ∧
  (∀ p, s.tierctl p = 0x00000102 ∧ s.txctl p = 100 ∧ s.stallctl p = 0x80002710 ∧ s.schedctl p = 0x00010010) ∧
  s.capability0 = 0 ∧ s.capability1 = 0 ∧
  s.cohorts = [] ∧ s.blocks = [] ∧ s.grids = [] ∧ s.ops = [] ∧ s.kiosk.locks = [] ∧ s.svc.log = [] ∧ s.svc.vfs = []

/-- R4: memory keeps its canonical form in every step. -/
def Obligations.StepKeepsMemory : Prop := ∀ s t : State, s.memWf → step s = .next t → t.memWf

/-- R150, R151, R154, R226 to R228, R332: a turn runs the instruction that the bytes decode to. -/
def Obligations.StepRunsDecoded : Prop := ∀ (s : State) (rest : List Turn),
  let u := { s with agenda := rest }
  (∀ i, s.agenda = .event i :: rest → step s = exec i u) ∧
  (∀ c m at_ h w i j, s.agenda = .cohort c :: rest →
    -- once what is known of waiting cohorts is up to date
    let n := u.noted
    n.MayTurn c → n.halting (n.cohPart c) = false →
    -- no cohort of its pipe that issued longer ago can issue (R187)
    n.comesLater exec c = false →
    let f := n.fitStore c
    f.Offers c m at_ h w → decodeWord w = .ok i →
    let v := f.entered c m at_
    let m' := v.groupOf c j
    let x := (v.modCoh c (fun k => { k with entered := k.entered ||| m' })).setCur c m' at_ h
    (lanesOf m).find? (fun l => (v.ready c).getLsbD l && (v.coh c).pcOf l == at_) = some j →
    v.closes c m' at_ (some i) = false → m' ≠ 0 →
    (∀ t, exec i x = .next t → t.cur.stall = false → t.waitingAt (u.cohCore c) ≤ 16 → step s = .next (t.afterIssue c m')) ∧
    (∀ f, exec i x = .fault f → step s = .fault f) ∧ (∀ r, exec i x = .refused r → step s = .refused r)) ∧
  (∀ c m pc va pa, u.CodeAt c va pa → u.fetch c m pc va = .word (BitVec.ofNat 64 (getBytes u.mem pa 8))) ∧
  (∀ h pa i op, s.agenda = .hart h :: rest → h < 32 → u.hartHit (u.hart h) 4 (u.hart h).pc.toNat 4 = .mem pa →
    let w := BitVec.ofNat 32 (getBytes u.mem pa 4)
    -- the word comes through its slice
    let u := u.l2Read pa 4
    let x := { u with cur := { Issue.none with hart := h } }
    (decodeKx w = some i → step s = exec i x) ∧
    (decodeRvMem w = some op → step s = exec (.baseDieMemoryAccess h op) u) ∧
    -- the other words of RV64 that the model holds (notes/assumptions/11.md)
    (∀ b t, w.extractLsb' 0 7 ≠ 0x0B#7 → decodeRvMem w = none → rvBase (u.hart h) w = some b → u.rvDo h b = some t →
      step s = .next t)) ∧
  (s.agenda = .units :: rest → step s = .next u.unitsTurn) ∧
  -- a fetch that faults
  (∀ h x, s.agenda = .hart h :: rest → h < 32 → u.hartHit (u.hart h) 4 (u.hart h).pc.toNat 4 = .exc x →
    step s = .next (u.hartTrap h (BitVec.ofNat 64 x) (u.hart h).pc))

/-- Words that the manual writes out beside their source text, of every layout. -/
def Obligations.DecodeWords : Prop :=
  let always : Guard := ⟨7, false⟩
  let v := fun (n : Nat) => Opnd.v (BitVec.ofNat 7 n)
  -- icmp.lt.z32 p2, v4, s5
  decodeWord 0x00E0204850020012 = .ok (.icmp always 2 (v 4) (.s 5) .lt false true) ∧
  -- ffma v7, v1, v2, v3
  decodeWord 0x10E070102030C000 = .ok (.ffma ⟨always, v 7, v 1, v 2, v 3⟩ ⟨.rne, false, false, false⟩ false false) ∧
  -- cvt.e4m3.f32.sat v6, v2
  decodeWord 0x21E0602000000038 = .ok (.cvt ⟨always, v 6, v 2, v 0, v 0⟩ .rne true .e4m3 .f32) ∧
  -- st.b32.rel.die [s4 + 8], v3
  decodeWord 0x41E0084038920002 = .ok (.st ⟨always, .s 4, .b32, .rel, .die, .a, .gen⟩ (v 3) 2) ∧
  -- atom.add.z32.rlx.die v6, [s4 + 0], v2
  decodeWord 0x43E0684024120000 = .ok (.atom ⟨always, .s 4, .z32, .rlx, .die, .a, .gen⟩ .add (v 6) (v 2) 0) ∧
  -- fence.sc.die
  decodeWord 0x48E0000000100000 = .ok (.fence always .sc .die) ∧
  -- txbeg v9, 5, 2, done
  decodeWord 0x4CE0905200000010 = .ok (.txbeg always 9 5 2 2 0) ∧
  -- qpop.b128.acq.clu.wait v16, v8, [s6 + 3]
  decodeWord 0x4FE108608A4A0203 = .ok (.qpop ⟨always, .s 6, .b128, .acq, .clu, .a, .gen⟩ (v 16) (v 8) true 3) ∧
  -- coll.allred.ar.dom s30, s16, s21, fs2
  decodeWord 0x64E9E90950001700 = .ok (.coll ⟨always, 30, true, true, .dom, 2⟩ 16 21 0) ∧
  -- amax.adv 5, v3 and sring s9, 5
  decodeWord 0x66E0003000001045 = .ok (.amax always .a (v 3) 5 true) ∧
  decodeWord 0x66E8900000005005 = .ok (.sring always .a (.s 9) 5) ∧
  -- kx.begin a0, a1 and kx.abort 0x2A
  decodeKx 0x0005850B = some (.kxBegin 10 11) ∧ decodeKx 0x02A0200B = some (.kxAbort 0x2A)

/-- R232, R287, R332: what is encoded decodes to itself, in every field. -/
def Obligations.RoundTrip : Prop := ∀ i : Instr, i.wf = true →
  (i.bits = 64 → decodeWord (encode i) = .ok i) ∧ (i.bits = 32 → decodeKx (encodeKx i) = some i)

/-- R160, R229, R242, R342: words without active lanes, words that fail a check, and words that wait. -/
def Obligations.WordsThatDoNotRun : Prop := ∀ s : State,
  let c := s.cur.coh
  let traps := fun (t : State) (run : LaneMask) (cause sub : Nat) => s.Trapped t run s.cur.pc cause sub 0 0
  -- a no-operation, whatever its bits; MEND and the paired words have rules of their own
  (∀ i : Instr, i.wf = true → i.bits = 64 → (∀ g, i ≠ .mend g) → (∀ x y, i ≠ .pairedCoIssue x y) →
    (∀ x y, i ≠ .pairedPathSplit x y) → s.active (guardOf (encode i)) = 0 → exec i s = .next s.advance) ∧
  (∀ x y, s.active ⟨x.p, false⟩ = 0 → s.active ⟨y.p, false⟩ = 0 → exec (.pairedCoIssue x y) s = .next s.advance) ∧
  (∀ w k, s.active (guardOf w) = 0 → s.badWord w k = s.advance) ∧
  -- a failing check parks the active lanes at the word
  ((look s.cohorts c).isSome = true → s.cur.stall = false →
    (∀ l < 32, s.cur.lanes.getLsbD l = true → (s.coh c).pcOf l = s.cur.pc ∧ (s.coh c).spec l = false) →
    s.opHeld c &&& s.cur.lanes = 0 → s.cohCore c < 768 → getD s.traps.nextTid (s.cohPart c) 0 < 2 ^ 32 →
    -- a meld fault where one applies, else an illegal-instruction fault
    (∀ w k, decodeWord w = .error k → s.active (guardOf w) ≠ 0 →
      match s.meldOf (parseFull w).2 (s.active (guardOf w)) with
      | some m => traps (s.badWord w k) (s.active (guardOf w)) 0x1C m
      | none => traps (s.badWord w k) (s.active (guardOf w)) 0x20 k) ∧
    (∀ (r : R3) (m : IMod), s.active r.g ≠ 0 →
      (∀ l < 32, (s.active r.g).getLsbD l = true → s.regOk c l r.d (wordsOf m.w) = false) →
      Gives (exec (.iadd r m) s) (fun t => traps t (s.active r.g) 0x20 3)) ∧
    (∀ (r : R3) (ftz : Bool), s.active r.g ≠ 0 → s.cur.sfa = 15 →
      Gives (exec (.rcp r .a ftz) s) (fun t => traps t (s.active r.g) 0x20 2)) ∧
    (∀ (g : Guard) (id : BitVec 4), s.active g ≠ 0 → (∃ l < 32, s.cur.lanes.getLsbD l = true ∧ (s.coh c).inRegion l = true) →
      Gives (exec (.bar g id) s) (fun t => traps t (s.active g) 0x1C 3))) ∧
  -- a pending handle and a full flag hold the group at the word
  (∀ (r : R3) (m : IMod), s.active r.g ≠ 0 → s.handlePending (need2 r m.w).sread = true →
    (∀ l < 32, (s.active r.g).getLsbD l = true → ∀ e ∈ (need2 r m.w).regs, s.regOk c l e.1 e.2 = true) →
    Stalls (.iadd r m) s) ∧
  (∀ (r : R3) (ftz : Bool), s.active r.g ≠ 0 → s.cur.sfa ≠ 15 → getD (s.coh c).cf s.cur.sfa 0 = 63 →
    (∀ l < 32, (s.active r.g).getLsbD l = true → ∀ e ∈ (need1 r false).regs, s.regOk c l e.1 e.2 = true) →
    Stalls (.rcp r .a ftz) s)
end

