-- ==== Sys2Proof/Laws/Sparse.lean ====
section
/-! SUPPORT. Laws of sparse data: what a key reads after a write, and that every write keeps the canonical form. -/

namespace Sys2Proof.Machine

variable {α : Type}

/-! ### Reading after writing -/

@[simp] theorem look_nil (k : Nat) : look ([] : List (Nat × α)) k = none := rfl

@[simp] theorem getD_nil (k : Nat) (d : α) : getD ([] : List (Nat × α)) k d = d := rfl

theorem look_set (m : List (Nat × α)) (k j : Nat) (v : α) :
    look (set m k v) j = if j = k then some v else look m j := by
  induction m with
  | nil => simp [set, look]
  | cons e t ih =>
    obtain ⟨a, b⟩ := e
    simp only [set]
    split
    · simp [look]
    · split
      · subst a; by_cases h : j = k <;> simp [look, h]
      · simp only [look, ih]
        by_cases h : j = k
        · subst h; simp_all
        · simp [h]

@[simp] theorem look_set_same (m : List (Nat × α)) (k : Nat) (v : α) : look (set m k v) k = some v := by
  simp [look_set]

theorem look_set_other (m : List (Nat × α)) {k j : Nat} (v : α) (h : j ≠ k) : look (set m k v) j = look m j := by
  simp [look_set, h]

theorem look_del (m : List (Nat × α)) (k j : Nat) : look (del m k) j = if j = k then none else look m j := by
  induction m with
  | nil => simp [del]
  | cons e t ih =>
    obtain ⟨a, b⟩ := e
    by_cases h : a = k
    · subst h
      have : del ((a, b) :: t) a = del t a := by simp [del]
      rw [this, ih]
      by_cases hj : j = a <;> simp [look, hj]
    · have : del ((a, b) :: t) k = (a, b) :: del t k := by simp [del, h]
      rw [this]
      simp only [look, ih]
      by_cases hj : j = k
      · subst hj; simp [Ne.symm h]
      · simp [hj]

theorem getD_set (m : List (Nat × α)) (k j : Nat) (v d : α) :
    getD (set m k v) j d = if j = k then v else getD m j d := by
  unfold getD; rw [look_set]; split <;> simp

theorem getD_del (m : List (Nat × α)) (k j : Nat) (d : α) :
    getD (del m k) j d = if j = k then d else getD m j d := by
  unfold getD; rw [look_del]; split <;> simp

theorem getD_put [DecidableEq α] (m : List (Nat × α)) (k j : Nat) (v d : α) :
    getD (put m k v d) j d = if j = k then v else getD m j d := by
  unfold put; split
  · rename_i h; subst h; rw [getD_del]
  · rw [getD_set]

@[simp] theorem getD_put_same [DecidableEq α] (m : List (Nat × α)) (k : Nat) (v d : α) :
    getD (put m k v d) k d = v := by simp [getD_put]

theorem getD_put_other [DecidableEq α] (m : List (Nat × α)) {k j : Nat} (v d : α) (h : j ≠ k) :
    getD (put m k v d) j d = getD m j d := by simp [getD_put, h]

theorem look_upd (m : List (Nat × α)) (k j : Nat) (f : α → α) :
    look (upd m k f) j = if j = k then (look m k).map f else look m j := by
  unfold upd
  cases h : look m k with
  | none => by_cases hj : j = k <;> simp [hj, h]
  | some v => rw [look_set]; split <;> simp

theorem getD_upd (m : List (Nat × α)) (k j : Nat) (f : α → α) (d : α) :
    getD (upd m k f) j d = if j = k ∧ (look m k).isSome then f (getD m k d) else getD m j d := by
  unfold getD; rw [look_upd]
  by_cases hj : j = k
  · subst hj; cases h : look m j <;> simp
  · simp [hj]

/-! ### The canonical form -/

theorem sorted_cons {a : Nat} {b : α} {t : List (Nat × α)} :
    sorted ((a, b) :: t) = true ↔ (∀ e ∈ t, a < e.1) ∧ sorted t = true := by
  induction t generalizing a b with
  | nil => simp [sorted]
  | cons e t ih =>
    obtain ⟨c, d⟩ := e
    rw [sorted, Bool.and_eq_true, decide_eq_true_eq]
    constructor
    · rintro ⟨h, hs⟩
      refine ⟨?_, hs⟩
      intro x hx
      rcases List.mem_cons.mp hx with rfl | hx
      · exact h
      · exact Nat.lt_trans h ((ih.mp hs).1 x hx)
    · rintro ⟨h, hs⟩
      exact ⟨h (c, d) (by simp), hs⟩

theorem mem_set {m : List (Nat × α)} {k : Nat} {v : α} {e : Nat × α} (h : e ∈ set m k v) : e = (k, v) ∨ e ∈ m := by
  induction m with
  | nil => simpa [set] using h
  | cons x t ih =>
    obtain ⟨a, b⟩ := x
    simp only [set] at h
    split at h
    · rcases List.mem_cons.mp h with h | h
      · exact .inl h
      · exact .inr h
    · split at h
      · rcases List.mem_cons.mp h with h | h
        · exact .inl h
        · exact .inr (List.mem_cons_of_mem _ h)
      · rcases List.mem_cons.mp h with h | h
        · exact .inr (by rw [h]; exact List.mem_cons_self)
        · rcases ih h with h | h
          · exact .inl h
          · exact .inr (List.mem_cons_of_mem _ h)

theorem sorted_set {m : List (Nat × α)} (h : sorted m = true) (k : Nat) (v : α) : sorted (set m k v) = true := by
  induction m with
  | nil => rfl
  | cons e t ih =>
    obtain ⟨a, b⟩ := e
    obtain ⟨hlt, hs⟩ := sorted_cons.mp h
    simp only [set]
    split
    · rename_i hk
      refine sorted_cons.mpr ⟨?_, h⟩
      intro x hx
      rcases List.mem_cons.mp hx with rfl | hx
      · exact hk
      · exact Nat.lt_trans hk (hlt x hx)
    · split
      · rename_i _ hk
        subst hk
        exact sorted_cons.mpr ⟨hlt, hs⟩
      · rename_i h1 h2
        refine sorted_cons.mpr ⟨?_, ih hs⟩
        intro x hx
        rcases mem_set hx with rfl | hx
        · simp only; omega
        · exact hlt x hx

theorem mem_del {m : List (Nat × α)} {k : Nat} {e : Nat × α} (h : e ∈ del m k) : e ∈ m := (List.mem_filter.mp h).1

theorem sorted_filter {m : List (Nat × α)} (h : sorted m = true) (p : Nat × α → Bool) : sorted (m.filter p) = true := by
  induction m with
  | nil => rfl
  | cons e t ih =>
    obtain ⟨a, b⟩ := e
    obtain ⟨hlt, hs⟩ := sorted_cons.mp h
    rw [List.filter_cons]
    split
    · exact sorted_cons.mpr ⟨fun x hx => hlt x (List.mem_filter.mp hx).1, ih hs⟩
    · exact ih hs

theorem canon_iff [DecidableEq α] {m : List (Nat × α)} {d : α} :
    canon m d = true ↔ sorted m = true ∧ ∀ e ∈ m, e.2 ≠ d := by
  simp [canon]

@[simp] theorem canon_nil [DecidableEq α] (d : α) : canon ([] : List (Nat × α)) d = true := rfl

/-- A write keeps the canonical form. -/
theorem canon_put [DecidableEq α] {m : List (Nat × α)} {d : α} (h : canon m d = true) (k : Nat) (v : α) :
    canon (put m k v d) d = true := by
  obtain ⟨hs, hd⟩ := canon_iff.mp h
  unfold put
  split
  · exact canon_iff.mpr ⟨sorted_filter hs _, fun e he => hd e (mem_del he)⟩
  · rename_i hv
    refine canon_iff.mpr ⟨sorted_set hs k v, fun e he => ?_⟩
    rcases mem_set he with rfl | he
    · exact hv
    · exact hd e he

theorem canon_filter [DecidableEq α] {m : List (Nat × α)} {d : α} (h : canon m d = true) (p : Nat × α → Bool) :
    canon (m.filter p) d = true := by
  obtain ⟨hs, hd⟩ := canon_iff.mp h
  exact canon_iff.mpr ⟨sorted_filter hs p, fun e he => hd e (List.mem_filter.mp he).1⟩

/-! ### Bytes -/

theorem canon_putBytes {m : List Host.Cell} (h : canon m 0 = true) (a n v : Nat) : canon (putBytes m a n v) 0 = true := by
  unfold putBytes
  generalize List.range n = l
  induction l generalizing m with
  | nil => exact h
  | cons i t ih => exact ih (canon_put h _ _)

/-- A byte of memory after a store of `n` bytes (R4). -/
theorem getD_putBytes (m : List Host.Cell) (a n v j : Nat) :
    getD (putBytes m a n v) j 0 =
      if a ≤ j ∧ j < a + n then BitVec.ofNat 8 (v >>> (8 * (j - a))) else getD m j 0 := by
  unfold putBytes
  induction n with
  | zero =>
    rw [List.range_zero, List.foldl_nil]
    split
    · omega
    · rfl
  | succ n ih =>
    rw [List.range_succ, List.foldl_append, List.foldl_cons, List.foldl_nil, getD_put]
    by_cases hj : j = a + n
    · subst hj; simp
    · rw [if_neg hj, ih]
      by_cases h : a ≤ j ∧ j < a + n
      · rw [if_pos h, if_pos (by omega)]
      · rw [if_neg h, if_neg (by omega)]

/-- A byte outside a store reads as before. -/
theorem getD_putBytes_outside (m : List Host.Cell) {a n v j : Nat} (h : j < a ∨ a + n ≤ j) :
    getD (putBytes m a n v) j 0 = getD m j 0 := by
  rw [getD_putBytes, if_neg (by omega)]

/-- The bytes that lie in an interval determine what it reads as. -/
theorem getBytes_congr {m m' : List Host.Cell} {a n : Nat} (h : ∀ i < n, getD m (a + i) 0 = getD m' (a + i) 0) :
    getBytes m a n = getBytes m' a n := by
  unfold getBytes
  induction n with
  | zero => rfl
  | succ n ih =>
    rw [List.range_succ, List.foldr_append, List.foldr_append]
    simp only [List.foldr_cons, List.foldr_nil]
    rw [h n (by omega)]
    have gen : ∀ (l : List Nat) (z : Nat), (∀ i ∈ l, i < n) →
        l.foldr (fun i acc => (getD m (a + i) 0).toNat + 256 * acc) z =
          l.foldr (fun i acc => (getD m' (a + i) 0).toNat + 256 * acc) z := by
      intro l z hl
      induction l with
      | nil => rfl
      | cons x t iht =>
        simp only [List.foldr_cons]
        rw [iht (fun i hi => hl i (List.mem_cons_of_mem _ hi)), h x (by have := hl x (by simp); omega)]
    exact gen _ _ (fun i hi => List.mem_range.mp hi)

theorem getBytes_succ (m : List Host.Cell) (a n : Nat) :
    getBytes m a (n + 1) = (getD m a 0).toNat + 256 * getBytes m (a + 1) n := by
  unfold getBytes
  rw [List.range_succ_eq_map, List.foldr_cons, List.foldr_map, Nat.add_zero]
  congr 1
  have e : (fun x y => (getD m (a + Nat.succ x) 0).toNat + 256 * y) =
      (fun i acc => (getD m (a + 1 + i) 0).toNat + 256 * acc) := by
    funext i acc
    rw [show a + i.succ = a + 1 + i by omega]
  rw [e]

/-- What a store of `n` bytes reads back as (R4). -/
theorem getBytes_putBytes (m : List Host.Cell) (a n v : Nat) : getBytes (putBytes m a n v) a n = v % 2 ^ (8 * n) := by
  have gen : ∀ (n k : Nat) (m : List Host.Cell),
      (∀ i < n, getD m (a + k + i) 0 = BitVec.ofNat 8 (v >>> (8 * (k + i)))) →
      getBytes m (a + k) n = (v >>> (8 * k)) % 2 ^ (8 * n) := by
    intro n
    induction n with
    | zero => intro k m _; simp [getBytes, Nat.mod_one]
    | succ n ih =>
      intro k m h
      rw [getBytes_succ, show a + k + 1 = a + (k + 1) by omega, ih (k + 1) m (fun i hi => by
        have := h (i + 1) (by omega)
        rw [show a + k + (i + 1) = a + (k + 1) + i by omega, show k + (i + 1) = k + 1 + i by omega] at this
        exact this)]
      have h0 := h 0 (by omega)
      rw [Nat.add_zero] at h0
      rw [h0, BitVec.toNat_ofNat, Nat.add_zero]
      rw [show 8 * (k + 1) = 8 * k + 8 by omega, Nat.shiftRight_add]
      generalize v >>> (8 * k) = x
      rw [show 8 * (n + 1) = 8 + 8 * n by omega, Nat.pow_add, Nat.mod_mul, Nat.shiftRight_eq_div_pow]
  have := gen n 0 (putBytes m a n v) (fun i hi => by
    rw [getD_putBytes, if_pos (by omega)]
    congr 2
    omega)
  simpa using this

end Sys2Proof.Machine
end

