-- ==== Sys2Proof/Laws/State.lean ====
section
/-! SUPPORT. What each update of a record leaves alone: one lemma per field, so that no proof unfolds an update. -/

namespace Sys2Proof.Machine

/-! ### State.modCoh -/

@[simp] theorem State.modCoh_ctl (s : State) (c : Nat) (f : Cohort → Cohort) : (s.modCoh c f).ctl = s.ctl := rfl
@[simp] theorem State.modCoh_mem (s : State) (c : Nat) (f : Cohort → Cohort) : (s.modCoh c f).mem = s.mem := rfl
@[simp] theorem State.modCoh_own (s : State) (c : Nat) (f : Cohort → Cohort) : (s.modCoh c f).own = s.own := rfl
@[simp] theorem State.modCoh_bank (s : State) (c : Nat) (f : Cohort → Cohort) : (s.modCoh c f).bank = s.bank := rfl
@[simp] theorem State.modCoh_cohorts (s : State) (c : Nat) (f : Cohort → Cohort) : (s.modCoh c f).cohorts = upd s.cohorts c f := rfl
@[simp] theorem State.modCoh_blocks (s : State) (c : Nat) (f : Cohort → Cohort) : (s.modCoh c f).blocks = s.blocks := rfl
@[simp] theorem State.modCoh_placed (s : State) (c : Nat) (f : Cohort → Cohort) : (s.modCoh c f).placed = s.placed := rfl
@[simp] theorem State.modCoh_grids (s : State) (c : Nat) (f : Cohort → Cohort) : (s.modCoh c f).grids = s.grids := rfl
@[simp] theorem State.modCoh_cores (s : State) (c : Nat) (f : Cohort → Cohort) : (s.modCoh c f).cores = s.cores := rfl
@[simp] theorem State.modCoh_cluTlb (s : State) (c : Nat) (f : Cohort → Cohort) : (s.modCoh c f).cluTlb = s.cluTlb := rfl
@[simp] theorem State.modCoh_constC (s : State) (c : Nat) (f : Cohort → Cohort) : (s.modCoh c f).constC = s.constC := rfl
@[simp] theorem State.modCoh_l2 (s : State) (c : Nat) (f : Cohort → Cohort) : (s.modCoh c f).l2 = s.l2 := rfl
@[simp] theorem State.modCoh_walkC (s : State) (c : Nat) (f : Cohort → Cohort) : (s.modCoh c f).walkC = s.walkC := rfl
@[simp] theorem State.modCoh_late (s : State) (c : Nat) (f : Cohort → Cohort) : (s.modCoh c f).late = s.late := rfl
@[simp] theorem State.modCoh_mvWaits (s : State) (c : Nat) (f : Cohort → Cohort) : (s.modCoh c f).mvWaits = s.mvWaits := rfl
@[simp] theorem State.modCoh_ewr (s : State) (c : Nat) (f : Cohort → Cohort) : (s.modCoh c f).ewr = s.ewr := rfl
@[simp] theorem State.modCoh_ops (s : State) (c : Nat) (f : Cohort → Cohort) : (s.modCoh c f).ops = s.ops := rfl
@[simp] theorem State.modCoh_pulls (s : State) (c : Nat) (f : Cohort → Cohort) : (s.modCoh c f).pulls = s.pulls := rfl
@[simp] theorem State.modCoh_transit (s : State) (c : Nat) (f : Cohort → Cohort) : (s.modCoh c f).transit = s.transit := rfl
@[simp] theorem State.modCoh_walks (s : State) (c : Nat) (f : Cohort → Cohort) : (s.modCoh c f).walks = s.walks := rfl
@[simp] theorem State.modCoh_invals (s : State) (c : Nat) (f : Cohort → Cohort) : (s.modCoh c f).invals = s.invals := rfl
@[simp] theorem State.modCoh_kiosk (s : State) (c : Nat) (f : Cohort → Cohort) : (s.modCoh c f).kiosk = s.kiosk := rfl
@[simp] theorem State.modCoh_harts (s : State) (c : Nat) (f : Cohort → Cohort) : (s.modCoh c f).harts = s.harts := rfl
@[simp] theorem State.modCoh_traps (s : State) (c : Nat) (f : Cohort → Cohort) : (s.modCoh c f).traps = s.traps := rfl
@[simp] theorem State.modCoh_queues (s : State) (c : Nat) (f : Cohort → Cohort) : (s.modCoh c f).queues = s.queues := rfl
@[simp] theorem State.modCoh_qwaits (s : State) (c : Nat) (f : Cohort → Cohort) : (s.modCoh c f).qwaits = s.qwaits := rfl
@[simp] theorem State.modCoh_tier (s : State) (c : Nat) (f : Cohort → Cohort) : (s.modCoh c f).tier = s.tier := rfl
@[simp] theorem State.modCoh_fab (s : State) (c : Nat) (f : Cohort → Cohort) : (s.modCoh c f).fab = s.fab := rfl
@[simp] theorem State.modCoh_svc (s : State) (c : Nat) (f : Cohort → Cohort) : (s.modCoh c f).svc = s.svc := rfl
@[simp] theorem State.modCoh_shares (s : State) (c : Nat) (f : Cohort → Cohort) : (s.modCoh c f).shares = s.shares := rfl
@[simp] theorem State.modCoh_serials (s : State) (c : Nat) (f : Cohort → Cohort) : (s.modCoh c f).serials = s.serials := rfl
@[simp] theorem State.modCoh_cur (s : State) (c : Nat) (f : Cohort → Cohort) : (s.modCoh c f).cur = s.cur := rfl
@[simp] theorem State.modCoh_agenda (s : State) (c : Nat) (f : Cohort → Cohort) : (s.modCoh c f).agenda = s.agenda := rfl
@[simp] theorem State.modCoh_time (s : State) (c : Nat) (f : Cohort → Cohort) : (s.modCoh c f).time = s.time := rfl
@[simp] theorem State.modCoh_fresh (s : State) (c : Nat) (f : Cohort → Cohort) : (s.modCoh c f).fresh = s.fresh := rfl

/-! ### State.modBlk -/

@[simp] theorem State.modBlk_ctl (s : State) (c : Nat) (f : Block → Block) : (s.modBlk c f).ctl = s.ctl := rfl
@[simp] theorem State.modBlk_mem (s : State) (c : Nat) (f : Block → Block) : (s.modBlk c f).mem = s.mem := rfl
@[simp] theorem State.modBlk_own (s : State) (c : Nat) (f : Block → Block) : (s.modBlk c f).own = s.own := rfl
@[simp] theorem State.modBlk_bank (s : State) (c : Nat) (f : Block → Block) : (s.modBlk c f).bank = s.bank := rfl
@[simp] theorem State.modBlk_cohorts (s : State) (c : Nat) (f : Block → Block) : (s.modBlk c f).cohorts = s.cohorts := rfl
@[simp] theorem State.modBlk_blocks (s : State) (c : Nat) (f : Block → Block) : (s.modBlk c f).blocks = upd s.blocks c f := rfl
@[simp] theorem State.modBlk_placed (s : State) (c : Nat) (f : Block → Block) : (s.modBlk c f).placed = s.placed := rfl
@[simp] theorem State.modBlk_grids (s : State) (c : Nat) (f : Block → Block) : (s.modBlk c f).grids = s.grids := rfl
@[simp] theorem State.modBlk_cores (s : State) (c : Nat) (f : Block → Block) : (s.modBlk c f).cores = s.cores := rfl
@[simp] theorem State.modBlk_cluTlb (s : State) (c : Nat) (f : Block → Block) : (s.modBlk c f).cluTlb = s.cluTlb := rfl
@[simp] theorem State.modBlk_constC (s : State) (c : Nat) (f : Block → Block) : (s.modBlk c f).constC = s.constC := rfl
@[simp] theorem State.modBlk_l2 (s : State) (c : Nat) (f : Block → Block) : (s.modBlk c f).l2 = s.l2 := rfl
@[simp] theorem State.modBlk_walkC (s : State) (c : Nat) (f : Block → Block) : (s.modBlk c f).walkC = s.walkC := rfl
@[simp] theorem State.modBlk_late (s : State) (c : Nat) (f : Block → Block) : (s.modBlk c f).late = s.late := rfl
@[simp] theorem State.modBlk_mvWaits (s : State) (c : Nat) (f : Block → Block) : (s.modBlk c f).mvWaits = s.mvWaits := rfl
@[simp] theorem State.modBlk_ewr (s : State) (c : Nat) (f : Block → Block) : (s.modBlk c f).ewr = s.ewr := rfl
@[simp] theorem State.modBlk_ops (s : State) (c : Nat) (f : Block → Block) : (s.modBlk c f).ops = s.ops := rfl
@[simp] theorem State.modBlk_pulls (s : State) (c : Nat) (f : Block → Block) : (s.modBlk c f).pulls = s.pulls := rfl
@[simp] theorem State.modBlk_transit (s : State) (c : Nat) (f : Block → Block) : (s.modBlk c f).transit = s.transit := rfl
@[simp] theorem State.modBlk_walks (s : State) (c : Nat) (f : Block → Block) : (s.modBlk c f).walks = s.walks := rfl
@[simp] theorem State.modBlk_invals (s : State) (c : Nat) (f : Block → Block) : (s.modBlk c f).invals = s.invals := rfl
@[simp] theorem State.modBlk_kiosk (s : State) (c : Nat) (f : Block → Block) : (s.modBlk c f).kiosk = s.kiosk := rfl
@[simp] theorem State.modBlk_harts (s : State) (c : Nat) (f : Block → Block) : (s.modBlk c f).harts = s.harts := rfl
@[simp] theorem State.modBlk_traps (s : State) (c : Nat) (f : Block → Block) : (s.modBlk c f).traps = s.traps := rfl
@[simp] theorem State.modBlk_queues (s : State) (c : Nat) (f : Block → Block) : (s.modBlk c f).queues = s.queues := rfl
@[simp] theorem State.modBlk_qwaits (s : State) (c : Nat) (f : Block → Block) : (s.modBlk c f).qwaits = s.qwaits := rfl
@[simp] theorem State.modBlk_tier (s : State) (c : Nat) (f : Block → Block) : (s.modBlk c f).tier = s.tier := rfl
@[simp] theorem State.modBlk_fab (s : State) (c : Nat) (f : Block → Block) : (s.modBlk c f).fab = s.fab := rfl
@[simp] theorem State.modBlk_svc (s : State) (c : Nat) (f : Block → Block) : (s.modBlk c f).svc = s.svc := rfl
@[simp] theorem State.modBlk_shares (s : State) (c : Nat) (f : Block → Block) : (s.modBlk c f).shares = s.shares := rfl
@[simp] theorem State.modBlk_serials (s : State) (c : Nat) (f : Block → Block) : (s.modBlk c f).serials = s.serials := rfl
@[simp] theorem State.modBlk_cur (s : State) (c : Nat) (f : Block → Block) : (s.modBlk c f).cur = s.cur := rfl
@[simp] theorem State.modBlk_agenda (s : State) (c : Nat) (f : Block → Block) : (s.modBlk c f).agenda = s.agenda := rfl
@[simp] theorem State.modBlk_time (s : State) (c : Nat) (f : Block → Block) : (s.modBlk c f).time = s.time := rfl
@[simp] theorem State.modBlk_fresh (s : State) (c : Nat) (f : Block → Block) : (s.modBlk c f).fresh = s.fresh := rfl

/-! ### State.modPlc -/

@[simp] theorem State.modPlc_ctl (s : State) (c : Nat) (f : Placed → Placed) : (s.modPlc c f).ctl = s.ctl := rfl
@[simp] theorem State.modPlc_mem (s : State) (c : Nat) (f : Placed → Placed) : (s.modPlc c f).mem = s.mem := rfl
@[simp] theorem State.modPlc_own (s : State) (c : Nat) (f : Placed → Placed) : (s.modPlc c f).own = s.own := rfl
@[simp] theorem State.modPlc_bank (s : State) (c : Nat) (f : Placed → Placed) : (s.modPlc c f).bank = s.bank := rfl
@[simp] theorem State.modPlc_cohorts (s : State) (c : Nat) (f : Placed → Placed) : (s.modPlc c f).cohorts = s.cohorts := rfl
@[simp] theorem State.modPlc_blocks (s : State) (c : Nat) (f : Placed → Placed) : (s.modPlc c f).blocks = s.blocks := rfl
@[simp] theorem State.modPlc_placed (s : State) (c : Nat) (f : Placed → Placed) : (s.modPlc c f).placed = upd s.placed c f := rfl
@[simp] theorem State.modPlc_grids (s : State) (c : Nat) (f : Placed → Placed) : (s.modPlc c f).grids = s.grids := rfl
@[simp] theorem State.modPlc_cores (s : State) (c : Nat) (f : Placed → Placed) : (s.modPlc c f).cores = s.cores := rfl
@[simp] theorem State.modPlc_cluTlb (s : State) (c : Nat) (f : Placed → Placed) : (s.modPlc c f).cluTlb = s.cluTlb := rfl
@[simp] theorem State.modPlc_constC (s : State) (c : Nat) (f : Placed → Placed) : (s.modPlc c f).constC = s.constC := rfl
@[simp] theorem State.modPlc_l2 (s : State) (c : Nat) (f : Placed → Placed) : (s.modPlc c f).l2 = s.l2 := rfl
@[simp] theorem State.modPlc_walkC (s : State) (c : Nat) (f : Placed → Placed) : (s.modPlc c f).walkC = s.walkC := rfl
@[simp] theorem State.modPlc_late (s : State) (c : Nat) (f : Placed → Placed) : (s.modPlc c f).late = s.late := rfl
@[simp] theorem State.modPlc_mvWaits (s : State) (c : Nat) (f : Placed → Placed) : (s.modPlc c f).mvWaits = s.mvWaits := rfl
@[simp] theorem State.modPlc_ewr (s : State) (c : Nat) (f : Placed → Placed) : (s.modPlc c f).ewr = s.ewr := rfl
@[simp] theorem State.modPlc_ops (s : State) (c : Nat) (f : Placed → Placed) : (s.modPlc c f).ops = s.ops := rfl
@[simp] theorem State.modPlc_pulls (s : State) (c : Nat) (f : Placed → Placed) : (s.modPlc c f).pulls = s.pulls := rfl
@[simp] theorem State.modPlc_transit (s : State) (c : Nat) (f : Placed → Placed) : (s.modPlc c f).transit = s.transit := rfl
@[simp] theorem State.modPlc_walks (s : State) (c : Nat) (f : Placed → Placed) : (s.modPlc c f).walks = s.walks := rfl
@[simp] theorem State.modPlc_invals (s : State) (c : Nat) (f : Placed → Placed) : (s.modPlc c f).invals = s.invals := rfl
@[simp] theorem State.modPlc_kiosk (s : State) (c : Nat) (f : Placed → Placed) : (s.modPlc c f).kiosk = s.kiosk := rfl
@[simp] theorem State.modPlc_harts (s : State) (c : Nat) (f : Placed → Placed) : (s.modPlc c f).harts = s.harts := rfl
@[simp] theorem State.modPlc_traps (s : State) (c : Nat) (f : Placed → Placed) : (s.modPlc c f).traps = s.traps := rfl
@[simp] theorem State.modPlc_queues (s : State) (c : Nat) (f : Placed → Placed) : (s.modPlc c f).queues = s.queues := rfl
@[simp] theorem State.modPlc_qwaits (s : State) (c : Nat) (f : Placed → Placed) : (s.modPlc c f).qwaits = s.qwaits := rfl
@[simp] theorem State.modPlc_tier (s : State) (c : Nat) (f : Placed → Placed) : (s.modPlc c f).tier = s.tier := rfl
@[simp] theorem State.modPlc_fab (s : State) (c : Nat) (f : Placed → Placed) : (s.modPlc c f).fab = s.fab := rfl
@[simp] theorem State.modPlc_svc (s : State) (c : Nat) (f : Placed → Placed) : (s.modPlc c f).svc = s.svc := rfl
@[simp] theorem State.modPlc_shares (s : State) (c : Nat) (f : Placed → Placed) : (s.modPlc c f).shares = s.shares := rfl
@[simp] theorem State.modPlc_serials (s : State) (c : Nat) (f : Placed → Placed) : (s.modPlc c f).serials = s.serials := rfl
@[simp] theorem State.modPlc_cur (s : State) (c : Nat) (f : Placed → Placed) : (s.modPlc c f).cur = s.cur := rfl
@[simp] theorem State.modPlc_agenda (s : State) (c : Nat) (f : Placed → Placed) : (s.modPlc c f).agenda = s.agenda := rfl
@[simp] theorem State.modPlc_time (s : State) (c : Nat) (f : Placed → Placed) : (s.modPlc c f).time = s.time := rfl
@[simp] theorem State.modPlc_fresh (s : State) (c : Nat) (f : Placed → Placed) : (s.modPlc c f).fresh = s.fresh := rfl

/-! ### State.modGrd -/

@[simp] theorem State.modGrd_ctl (s : State) (c : Nat) (f : Grid → Grid) : (s.modGrd c f).ctl = s.ctl := rfl
@[simp] theorem State.modGrd_mem (s : State) (c : Nat) (f : Grid → Grid) : (s.modGrd c f).mem = s.mem := rfl
@[simp] theorem State.modGrd_own (s : State) (c : Nat) (f : Grid → Grid) : (s.modGrd c f).own = s.own := rfl
@[simp] theorem State.modGrd_bank (s : State) (c : Nat) (f : Grid → Grid) : (s.modGrd c f).bank = s.bank := rfl
@[simp] theorem State.modGrd_cohorts (s : State) (c : Nat) (f : Grid → Grid) : (s.modGrd c f).cohorts = s.cohorts := rfl
@[simp] theorem State.modGrd_blocks (s : State) (c : Nat) (f : Grid → Grid) : (s.modGrd c f).blocks = s.blocks := rfl
@[simp] theorem State.modGrd_placed (s : State) (c : Nat) (f : Grid → Grid) : (s.modGrd c f).placed = s.placed := rfl
@[simp] theorem State.modGrd_grids (s : State) (c : Nat) (f : Grid → Grid) : (s.modGrd c f).grids = upd s.grids c f := rfl
@[simp] theorem State.modGrd_cores (s : State) (c : Nat) (f : Grid → Grid) : (s.modGrd c f).cores = s.cores := rfl
@[simp] theorem State.modGrd_cluTlb (s : State) (c : Nat) (f : Grid → Grid) : (s.modGrd c f).cluTlb = s.cluTlb := rfl
@[simp] theorem State.modGrd_constC (s : State) (c : Nat) (f : Grid → Grid) : (s.modGrd c f).constC = s.constC := rfl
@[simp] theorem State.modGrd_l2 (s : State) (c : Nat) (f : Grid → Grid) : (s.modGrd c f).l2 = s.l2 := rfl
@[simp] theorem State.modGrd_walkC (s : State) (c : Nat) (f : Grid → Grid) : (s.modGrd c f).walkC = s.walkC := rfl
@[simp] theorem State.modGrd_late (s : State) (c : Nat) (f : Grid → Grid) : (s.modGrd c f).late = s.late := rfl
@[simp] theorem State.modGrd_mvWaits (s : State) (c : Nat) (f : Grid → Grid) : (s.modGrd c f).mvWaits = s.mvWaits := rfl
@[simp] theorem State.modGrd_ewr (s : State) (c : Nat) (f : Grid → Grid) : (s.modGrd c f).ewr = s.ewr := rfl
@[simp] theorem State.modGrd_ops (s : State) (c : Nat) (f : Grid → Grid) : (s.modGrd c f).ops = s.ops := rfl
@[simp] theorem State.modGrd_pulls (s : State) (c : Nat) (f : Grid → Grid) : (s.modGrd c f).pulls = s.pulls := rfl
@[simp] theorem State.modGrd_transit (s : State) (c : Nat) (f : Grid → Grid) : (s.modGrd c f).transit = s.transit := rfl
@[simp] theorem State.modGrd_walks (s : State) (c : Nat) (f : Grid → Grid) : (s.modGrd c f).walks = s.walks := rfl
@[simp] theorem State.modGrd_invals (s : State) (c : Nat) (f : Grid → Grid) : (s.modGrd c f).invals = s.invals := rfl
@[simp] theorem State.modGrd_kiosk (s : State) (c : Nat) (f : Grid → Grid) : (s.modGrd c f).kiosk = s.kiosk := rfl
@[simp] theorem State.modGrd_harts (s : State) (c : Nat) (f : Grid → Grid) : (s.modGrd c f).harts = s.harts := rfl
@[simp] theorem State.modGrd_traps (s : State) (c : Nat) (f : Grid → Grid) : (s.modGrd c f).traps = s.traps := rfl
@[simp] theorem State.modGrd_queues (s : State) (c : Nat) (f : Grid → Grid) : (s.modGrd c f).queues = s.queues := rfl
@[simp] theorem State.modGrd_qwaits (s : State) (c : Nat) (f : Grid → Grid) : (s.modGrd c f).qwaits = s.qwaits := rfl
@[simp] theorem State.modGrd_tier (s : State) (c : Nat) (f : Grid → Grid) : (s.modGrd c f).tier = s.tier := rfl
@[simp] theorem State.modGrd_fab (s : State) (c : Nat) (f : Grid → Grid) : (s.modGrd c f).fab = s.fab := rfl
@[simp] theorem State.modGrd_svc (s : State) (c : Nat) (f : Grid → Grid) : (s.modGrd c f).svc = s.svc := rfl
@[simp] theorem State.modGrd_shares (s : State) (c : Nat) (f : Grid → Grid) : (s.modGrd c f).shares = s.shares := rfl
@[simp] theorem State.modGrd_serials (s : State) (c : Nat) (f : Grid → Grid) : (s.modGrd c f).serials = s.serials := rfl
@[simp] theorem State.modGrd_cur (s : State) (c : Nat) (f : Grid → Grid) : (s.modGrd c f).cur = s.cur := rfl
@[simp] theorem State.modGrd_agenda (s : State) (c : Nat) (f : Grid → Grid) : (s.modGrd c f).agenda = s.agenda := rfl
@[simp] theorem State.modGrd_time (s : State) (c : Nat) (f : Grid → Grid) : (s.modGrd c f).time = s.time := rfl
@[simp] theorem State.modGrd_fresh (s : State) (c : Nat) (f : Grid → Grid) : (s.modGrd c f).fresh = s.fresh := rfl

/-! ### State.modCore -/

@[simp] theorem State.modCore_ctl (s : State) (c : Nat) (f : Core → Core) : (s.modCore c f).ctl = s.ctl := rfl
@[simp] theorem State.modCore_mem (s : State) (c : Nat) (f : Core → Core) : (s.modCore c f).mem = s.mem := rfl
@[simp] theorem State.modCore_own (s : State) (c : Nat) (f : Core → Core) : (s.modCore c f).own = s.own := rfl
@[simp] theorem State.modCore_bank (s : State) (c : Nat) (f : Core → Core) : (s.modCore c f).bank = s.bank := rfl
@[simp] theorem State.modCore_cohorts (s : State) (c : Nat) (f : Core → Core) : (s.modCore c f).cohorts = s.cohorts := rfl
@[simp] theorem State.modCore_blocks (s : State) (c : Nat) (f : Core → Core) : (s.modCore c f).blocks = s.blocks := rfl
@[simp] theorem State.modCore_placed (s : State) (c : Nat) (f : Core → Core) : (s.modCore c f).placed = s.placed := rfl
@[simp] theorem State.modCore_grids (s : State) (c : Nat) (f : Core → Core) : (s.modCore c f).grids = s.grids := rfl
@[simp] theorem State.modCore_cores (s : State) (c : Nat) (f : Core → Core) : (s.modCore c f).cores = set s.cores c (f (s.core c)) := rfl
@[simp] theorem State.modCore_cluTlb (s : State) (c : Nat) (f : Core → Core) : (s.modCore c f).cluTlb = s.cluTlb := rfl
@[simp] theorem State.modCore_constC (s : State) (c : Nat) (f : Core → Core) : (s.modCore c f).constC = s.constC := rfl
@[simp] theorem State.modCore_l2 (s : State) (c : Nat) (f : Core → Core) : (s.modCore c f).l2 = s.l2 := rfl
@[simp] theorem State.modCore_walkC (s : State) (c : Nat) (f : Core → Core) : (s.modCore c f).walkC = s.walkC := rfl
@[simp] theorem State.modCore_late (s : State) (c : Nat) (f : Core → Core) : (s.modCore c f).late = s.late := rfl
@[simp] theorem State.modCore_mvWaits (s : State) (c : Nat) (f : Core → Core) : (s.modCore c f).mvWaits = s.mvWaits := rfl
@[simp] theorem State.modCore_ewr (s : State) (c : Nat) (f : Core → Core) : (s.modCore c f).ewr = s.ewr := rfl
@[simp] theorem State.modCore_ops (s : State) (c : Nat) (f : Core → Core) : (s.modCore c f).ops = s.ops := rfl
@[simp] theorem State.modCore_pulls (s : State) (c : Nat) (f : Core → Core) : (s.modCore c f).pulls = s.pulls := rfl
@[simp] theorem State.modCore_transit (s : State) (c : Nat) (f : Core → Core) : (s.modCore c f).transit = s.transit := rfl
@[simp] theorem State.modCore_walks (s : State) (c : Nat) (f : Core → Core) : (s.modCore c f).walks = s.walks := rfl
@[simp] theorem State.modCore_invals (s : State) (c : Nat) (f : Core → Core) : (s.modCore c f).invals = s.invals := rfl
@[simp] theorem State.modCore_kiosk (s : State) (c : Nat) (f : Core → Core) : (s.modCore c f).kiosk = s.kiosk := rfl
@[simp] theorem State.modCore_harts (s : State) (c : Nat) (f : Core → Core) : (s.modCore c f).harts = s.harts := rfl
@[simp] theorem State.modCore_traps (s : State) (c : Nat) (f : Core → Core) : (s.modCore c f).traps = s.traps := rfl
@[simp] theorem State.modCore_queues (s : State) (c : Nat) (f : Core → Core) : (s.modCore c f).queues = s.queues := rfl
@[simp] theorem State.modCore_qwaits (s : State) (c : Nat) (f : Core → Core) : (s.modCore c f).qwaits = s.qwaits := rfl
@[simp] theorem State.modCore_tier (s : State) (c : Nat) (f : Core → Core) : (s.modCore c f).tier = s.tier := rfl
@[simp] theorem State.modCore_fab (s : State) (c : Nat) (f : Core → Core) : (s.modCore c f).fab = s.fab := rfl
@[simp] theorem State.modCore_svc (s : State) (c : Nat) (f : Core → Core) : (s.modCore c f).svc = s.svc := rfl
@[simp] theorem State.modCore_shares (s : State) (c : Nat) (f : Core → Core) : (s.modCore c f).shares = s.shares := rfl
@[simp] theorem State.modCore_serials (s : State) (c : Nat) (f : Core → Core) : (s.modCore c f).serials = s.serials := rfl
@[simp] theorem State.modCore_cur (s : State) (c : Nat) (f : Core → Core) : (s.modCore c f).cur = s.cur := rfl
@[simp] theorem State.modCore_agenda (s : State) (c : Nat) (f : Core → Core) : (s.modCore c f).agenda = s.agenda := rfl
@[simp] theorem State.modCore_time (s : State) (c : Nat) (f : Core → Core) : (s.modCore c f).time = s.time := rfl
@[simp] theorem State.modCore_fresh (s : State) (c : Nat) (f : Core → Core) : (s.modCore c f).fresh = s.fresh := rfl

/-! ### State.modOp -/

@[simp] theorem State.modOp_ctl (s : State) (c : Nat) (f : Op → Op) : (s.modOp c f).ctl = s.ctl := rfl
@[simp] theorem State.modOp_mem (s : State) (c : Nat) (f : Op → Op) : (s.modOp c f).mem = s.mem := rfl
@[simp] theorem State.modOp_own (s : State) (c : Nat) (f : Op → Op) : (s.modOp c f).own = s.own := rfl
@[simp] theorem State.modOp_bank (s : State) (c : Nat) (f : Op → Op) : (s.modOp c f).bank = s.bank := rfl
@[simp] theorem State.modOp_cohorts (s : State) (c : Nat) (f : Op → Op) : (s.modOp c f).cohorts = s.cohorts := rfl
@[simp] theorem State.modOp_blocks (s : State) (c : Nat) (f : Op → Op) : (s.modOp c f).blocks = s.blocks := rfl
@[simp] theorem State.modOp_placed (s : State) (c : Nat) (f : Op → Op) : (s.modOp c f).placed = s.placed := rfl
@[simp] theorem State.modOp_grids (s : State) (c : Nat) (f : Op → Op) : (s.modOp c f).grids = s.grids := rfl
@[simp] theorem State.modOp_cores (s : State) (c : Nat) (f : Op → Op) : (s.modOp c f).cores = s.cores := rfl
@[simp] theorem State.modOp_cluTlb (s : State) (c : Nat) (f : Op → Op) : (s.modOp c f).cluTlb = s.cluTlb := rfl
@[simp] theorem State.modOp_constC (s : State) (c : Nat) (f : Op → Op) : (s.modOp c f).constC = s.constC := rfl
@[simp] theorem State.modOp_l2 (s : State) (c : Nat) (f : Op → Op) : (s.modOp c f).l2 = s.l2 := rfl
@[simp] theorem State.modOp_walkC (s : State) (c : Nat) (f : Op → Op) : (s.modOp c f).walkC = s.walkC := rfl
@[simp] theorem State.modOp_late (s : State) (c : Nat) (f : Op → Op) : (s.modOp c f).late = s.late := rfl
@[simp] theorem State.modOp_mvWaits (s : State) (c : Nat) (f : Op → Op) : (s.modOp c f).mvWaits = s.mvWaits := rfl
@[simp] theorem State.modOp_ewr (s : State) (c : Nat) (f : Op → Op) : (s.modOp c f).ewr = s.ewr := rfl
@[simp] theorem State.modOp_ops (s : State) (c : Nat) (f : Op → Op) : (s.modOp c f).ops = upd s.ops c f := rfl
@[simp] theorem State.modOp_pulls (s : State) (c : Nat) (f : Op → Op) : (s.modOp c f).pulls = s.pulls := rfl
@[simp] theorem State.modOp_transit (s : State) (c : Nat) (f : Op → Op) : (s.modOp c f).transit = s.transit := rfl
@[simp] theorem State.modOp_walks (s : State) (c : Nat) (f : Op → Op) : (s.modOp c f).walks = s.walks := rfl
@[simp] theorem State.modOp_invals (s : State) (c : Nat) (f : Op → Op) : (s.modOp c f).invals = s.invals := rfl
@[simp] theorem State.modOp_kiosk (s : State) (c : Nat) (f : Op → Op) : (s.modOp c f).kiosk = s.kiosk := rfl
@[simp] theorem State.modOp_harts (s : State) (c : Nat) (f : Op → Op) : (s.modOp c f).harts = s.harts := rfl
@[simp] theorem State.modOp_traps (s : State) (c : Nat) (f : Op → Op) : (s.modOp c f).traps = s.traps := rfl
@[simp] theorem State.modOp_queues (s : State) (c : Nat) (f : Op → Op) : (s.modOp c f).queues = s.queues := rfl
@[simp] theorem State.modOp_qwaits (s : State) (c : Nat) (f : Op → Op) : (s.modOp c f).qwaits = s.qwaits := rfl
@[simp] theorem State.modOp_tier (s : State) (c : Nat) (f : Op → Op) : (s.modOp c f).tier = s.tier := rfl
@[simp] theorem State.modOp_fab (s : State) (c : Nat) (f : Op → Op) : (s.modOp c f).fab = s.fab := rfl
@[simp] theorem State.modOp_svc (s : State) (c : Nat) (f : Op → Op) : (s.modOp c f).svc = s.svc := rfl
@[simp] theorem State.modOp_shares (s : State) (c : Nat) (f : Op → Op) : (s.modOp c f).shares = s.shares := rfl
@[simp] theorem State.modOp_serials (s : State) (c : Nat) (f : Op → Op) : (s.modOp c f).serials = s.serials := rfl
@[simp] theorem State.modOp_cur (s : State) (c : Nat) (f : Op → Op) : (s.modOp c f).cur = s.cur := rfl
@[simp] theorem State.modOp_agenda (s : State) (c : Nat) (f : Op → Op) : (s.modOp c f).agenda = s.agenda := rfl
@[simp] theorem State.modOp_time (s : State) (c : Nat) (f : Op → Op) : (s.modOp c f).time = s.time := rfl
@[simp] theorem State.modOp_fresh (s : State) (c : Nat) (f : Op → Op) : (s.modOp c f).fresh = s.fresh := rfl

/-! ### State.modHart -/

@[simp] theorem State.modHart_ctl (s : State) (c : Nat) (f : Hart → Hart) : (s.modHart c f).ctl = s.ctl := rfl
@[simp] theorem State.modHart_mem (s : State) (c : Nat) (f : Hart → Hart) : (s.modHart c f).mem = s.mem := rfl
@[simp] theorem State.modHart_own (s : State) (c : Nat) (f : Hart → Hart) : (s.modHart c f).own = s.own := rfl
@[simp] theorem State.modHart_bank (s : State) (c : Nat) (f : Hart → Hart) : (s.modHart c f).bank = s.bank := rfl
@[simp] theorem State.modHart_cohorts (s : State) (c : Nat) (f : Hart → Hart) : (s.modHart c f).cohorts = s.cohorts := rfl
@[simp] theorem State.modHart_blocks (s : State) (c : Nat) (f : Hart → Hart) : (s.modHart c f).blocks = s.blocks := rfl
@[simp] theorem State.modHart_placed (s : State) (c : Nat) (f : Hart → Hart) : (s.modHart c f).placed = s.placed := rfl
@[simp] theorem State.modHart_grids (s : State) (c : Nat) (f : Hart → Hart) : (s.modHart c f).grids = s.grids := rfl
@[simp] theorem State.modHart_cores (s : State) (c : Nat) (f : Hart → Hart) : (s.modHart c f).cores = s.cores := rfl
@[simp] theorem State.modHart_cluTlb (s : State) (c : Nat) (f : Hart → Hart) : (s.modHart c f).cluTlb = s.cluTlb := rfl
@[simp] theorem State.modHart_constC (s : State) (c : Nat) (f : Hart → Hart) : (s.modHart c f).constC = s.constC := rfl
@[simp] theorem State.modHart_l2 (s : State) (c : Nat) (f : Hart → Hart) : (s.modHart c f).l2 = s.l2 := rfl
@[simp] theorem State.modHart_walkC (s : State) (c : Nat) (f : Hart → Hart) : (s.modHart c f).walkC = s.walkC := rfl
@[simp] theorem State.modHart_late (s : State) (c : Nat) (f : Hart → Hart) : (s.modHart c f).late = s.late := rfl
@[simp] theorem State.modHart_mvWaits (s : State) (c : Nat) (f : Hart → Hart) : (s.modHart c f).mvWaits = s.mvWaits := rfl
@[simp] theorem State.modHart_ewr (s : State) (c : Nat) (f : Hart → Hart) : (s.modHart c f).ewr = s.ewr := rfl
@[simp] theorem State.modHart_ops (s : State) (c : Nat) (f : Hart → Hart) : (s.modHart c f).ops = s.ops := rfl
@[simp] theorem State.modHart_pulls (s : State) (c : Nat) (f : Hart → Hart) : (s.modHart c f).pulls = s.pulls := rfl
@[simp] theorem State.modHart_transit (s : State) (c : Nat) (f : Hart → Hart) : (s.modHart c f).transit = s.transit := rfl
@[simp] theorem State.modHart_walks (s : State) (c : Nat) (f : Hart → Hart) : (s.modHart c f).walks = s.walks := rfl
@[simp] theorem State.modHart_invals (s : State) (c : Nat) (f : Hart → Hart) : (s.modHart c f).invals = s.invals := rfl
@[simp] theorem State.modHart_kiosk (s : State) (c : Nat) (f : Hart → Hart) : (s.modHart c f).kiosk = s.kiosk := rfl
@[simp] theorem State.modHart_harts (s : State) (c : Nat) (f : Hart → Hart) : (s.modHart c f).harts = set s.harts c (f (s.hart c)) := rfl
@[simp] theorem State.modHart_traps (s : State) (c : Nat) (f : Hart → Hart) : (s.modHart c f).traps = s.traps := rfl
@[simp] theorem State.modHart_queues (s : State) (c : Nat) (f : Hart → Hart) : (s.modHart c f).queues = s.queues := rfl
@[simp] theorem State.modHart_qwaits (s : State) (c : Nat) (f : Hart → Hart) : (s.modHart c f).qwaits = s.qwaits := rfl
@[simp] theorem State.modHart_tier (s : State) (c : Nat) (f : Hart → Hart) : (s.modHart c f).tier = s.tier := rfl
@[simp] theorem State.modHart_fab (s : State) (c : Nat) (f : Hart → Hart) : (s.modHart c f).fab = s.fab := rfl
@[simp] theorem State.modHart_svc (s : State) (c : Nat) (f : Hart → Hart) : (s.modHart c f).svc = s.svc := rfl
@[simp] theorem State.modHart_shares (s : State) (c : Nat) (f : Hart → Hart) : (s.modHart c f).shares = s.shares := rfl
@[simp] theorem State.modHart_serials (s : State) (c : Nat) (f : Hart → Hart) : (s.modHart c f).serials = s.serials := rfl
@[simp] theorem State.modHart_cur (s : State) (c : Nat) (f : Hart → Hart) : (s.modHart c f).cur = s.cur := rfl
@[simp] theorem State.modHart_agenda (s : State) (c : Nat) (f : Hart → Hart) : (s.modHart c f).agenda = s.agenda := rfl
@[simp] theorem State.modHart_time (s : State) (c : Nat) (f : Hart → Hart) : (s.modHart c f).time = s.time := rfl
@[simp] theorem State.modHart_fresh (s : State) (c : Nat) (f : Hart → Hart) : (s.modHart c f).fresh = s.fresh := rfl

/-! ### State.claimDst -/

@[simp] theorem State.claimDst_ctl (s : State) (c : Nat) (d : Dst) : (s.claimDst c d).ctl = s.ctl := rfl
@[simp] theorem State.claimDst_mem (s : State) (c : Nat) (d : Dst) : (s.claimDst c d).mem = s.mem := rfl
@[simp] theorem State.claimDst_own (s : State) (c : Nat) (d : Dst) : (s.claimDst c d).own = s.own := rfl
@[simp] theorem State.claimDst_bank (s : State) (c : Nat) (d : Dst) : (s.claimDst c d).bank = s.bank := rfl
@[simp] theorem State.claimDst_cohorts (s : State) (c : Nat) (d : Dst) : (s.claimDst c d).cohorts = s.cohorts := rfl
@[simp] theorem State.claimDst_blocks (s : State) (c : Nat) (d : Dst) : (s.claimDst c d).blocks = s.blocks := rfl
@[simp] theorem State.claimDst_placed (s : State) (c : Nat) (d : Dst) : (s.claimDst c d).placed = s.placed := rfl
@[simp] theorem State.claimDst_grids (s : State) (c : Nat) (d : Dst) : (s.claimDst c d).grids = s.grids := rfl
@[simp] theorem State.claimDst_cores (s : State) (c : Nat) (d : Dst) : (s.claimDst c d).cores = s.cores := rfl
@[simp] theorem State.claimDst_cluTlb (s : State) (c : Nat) (d : Dst) : (s.claimDst c d).cluTlb = s.cluTlb := rfl
@[simp] theorem State.claimDst_constC (s : State) (c : Nat) (d : Dst) : (s.claimDst c d).constC = s.constC := rfl
@[simp] theorem State.claimDst_l2 (s : State) (c : Nat) (d : Dst) : (s.claimDst c d).l2 = s.l2 := rfl
@[simp] theorem State.claimDst_walkC (s : State) (c : Nat) (d : Dst) : (s.claimDst c d).walkC = s.walkC := rfl
@[simp] theorem State.claimDst_late (s : State) (c : Nat) (d : Dst) : (s.claimDst c d).late = s.late := rfl
@[simp] theorem State.claimDst_mvWaits (s : State) (c : Nat) (d : Dst) : (s.claimDst c d).mvWaits = s.mvWaits := rfl
@[simp] theorem State.claimDst_ewr (s : State) (c : Nat) (d : Dst) : (s.claimDst c d).ewr = s.ewr := rfl
@[simp] theorem State.claimDst_pulls (s : State) (c : Nat) (d : Dst) : (s.claimDst c d).pulls = s.pulls := rfl
@[simp] theorem State.claimDst_transit (s : State) (c : Nat) (d : Dst) : (s.claimDst c d).transit = s.transit := rfl
@[simp] theorem State.claimDst_walks (s : State) (c : Nat) (d : Dst) : (s.claimDst c d).walks = s.walks := rfl
@[simp] theorem State.claimDst_invals (s : State) (c : Nat) (d : Dst) : (s.claimDst c d).invals = s.invals := rfl
@[simp] theorem State.claimDst_kiosk (s : State) (c : Nat) (d : Dst) : (s.claimDst c d).kiosk = s.kiosk := rfl
@[simp] theorem State.claimDst_harts (s : State) (c : Nat) (d : Dst) : (s.claimDst c d).harts = s.harts := rfl
@[simp] theorem State.claimDst_traps (s : State) (c : Nat) (d : Dst) : (s.claimDst c d).traps = s.traps := rfl
@[simp] theorem State.claimDst_queues (s : State) (c : Nat) (d : Dst) : (s.claimDst c d).queues = s.queues := rfl
@[simp] theorem State.claimDst_qwaits (s : State) (c : Nat) (d : Dst) : (s.claimDst c d).qwaits = s.qwaits := rfl
@[simp] theorem State.claimDst_tier (s : State) (c : Nat) (d : Dst) : (s.claimDst c d).tier = s.tier := rfl
@[simp] theorem State.claimDst_fab (s : State) (c : Nat) (d : Dst) : (s.claimDst c d).fab = s.fab := rfl
@[simp] theorem State.claimDst_svc (s : State) (c : Nat) (d : Dst) : (s.claimDst c d).svc = s.svc := rfl
@[simp] theorem State.claimDst_shares (s : State) (c : Nat) (d : Dst) : (s.claimDst c d).shares = s.shares := rfl
@[simp] theorem State.claimDst_serials (s : State) (c : Nat) (d : Dst) : (s.claimDst c d).serials = s.serials := rfl
@[simp] theorem State.claimDst_cur (s : State) (c : Nat) (d : Dst) : (s.claimDst c d).cur = s.cur := rfl
@[simp] theorem State.claimDst_agenda (s : State) (c : Nat) (d : Dst) : (s.claimDst c d).agenda = s.agenda := rfl
@[simp] theorem State.claimDst_time (s : State) (c : Nat) (d : Dst) : (s.claimDst c d).time = s.time := rfl
@[simp] theorem State.claimDst_fresh (s : State) (c : Nat) (d : Dst) : (s.claimDst c d).fresh = s.fresh := rfl

/-! ### State.tick -/

@[simp] theorem State.tick_ctl (s : State) : (s.tick).ctl = s.ctl := rfl
@[simp] theorem State.tick_mem (s : State) : (s.tick).mem = s.mem := rfl
@[simp] theorem State.tick_own (s : State) : (s.tick).own = s.own := rfl
@[simp] theorem State.tick_bank (s : State) : (s.tick).bank = s.bank := rfl
@[simp] theorem State.tick_cohorts (s : State) : (s.tick).cohorts = s.cohorts := rfl
@[simp] theorem State.tick_blocks (s : State) : (s.tick).blocks = s.blocks := rfl
@[simp] theorem State.tick_placed (s : State) : (s.tick).placed = s.placed := rfl
@[simp] theorem State.tick_grids (s : State) : (s.tick).grids = s.grids := rfl
@[simp] theorem State.tick_cores (s : State) : (s.tick).cores = s.cores := rfl
@[simp] theorem State.tick_cluTlb (s : State) : (s.tick).cluTlb = s.cluTlb := rfl
@[simp] theorem State.tick_constC (s : State) : (s.tick).constC = s.constC := rfl
@[simp] theorem State.tick_l2 (s : State) : (s.tick).l2 = s.l2 := rfl
@[simp] theorem State.tick_walkC (s : State) : (s.tick).walkC = s.walkC := rfl
@[simp] theorem State.tick_late (s : State) : (s.tick).late = s.late := rfl
@[simp] theorem State.tick_mvWaits (s : State) : (s.tick).mvWaits = s.mvWaits := rfl
@[simp] theorem State.tick_ewr (s : State) : (s.tick).ewr = s.ewr := rfl
@[simp] theorem State.tick_ops (s : State) : (s.tick).ops = s.ops := rfl
@[simp] theorem State.tick_pulls (s : State) : (s.tick).pulls = s.pulls := rfl
@[simp] theorem State.tick_transit (s : State) : (s.tick).transit = s.transit := rfl
@[simp] theorem State.tick_walks (s : State) : (s.tick).walks = s.walks := rfl
@[simp] theorem State.tick_invals (s : State) : (s.tick).invals = s.invals := rfl
@[simp] theorem State.tick_kiosk (s : State) : (s.tick).kiosk = s.kiosk := rfl
@[simp] theorem State.tick_harts (s : State) : (s.tick).harts = s.harts := rfl
@[simp] theorem State.tick_traps (s : State) : (s.tick).traps = s.traps := rfl
@[simp] theorem State.tick_queues (s : State) : (s.tick).queues = s.queues := rfl
@[simp] theorem State.tick_qwaits (s : State) : (s.tick).qwaits = s.qwaits := rfl
@[simp] theorem State.tick_tier (s : State) : (s.tick).tier = s.tier := rfl
@[simp] theorem State.tick_fab (s : State) : (s.tick).fab = s.fab := rfl
@[simp] theorem State.tick_svc (s : State) : (s.tick).svc = s.svc := rfl
@[simp] theorem State.tick_shares (s : State) : (s.tick).shares = s.shares := rfl
@[simp] theorem State.tick_serials (s : State) : (s.tick).serials = s.serials := rfl
@[simp] theorem State.tick_cur (s : State) : (s.tick).cur = s.cur := rfl
@[simp] theorem State.tick_agenda (s : State) : (s.tick).agenda = s.agenda := rfl
@[simp] theorem State.tick_fresh (s : State) : (s.tick).fresh = s.fresh + 1 := rfl

/-! ### State.next -/

@[simp] theorem State.next_ctl (s : State) : (s.next).ctl = s.ctl := rfl
@[simp] theorem State.next_mem (s : State) : (s.next).mem = s.mem := rfl
@[simp] theorem State.next_own (s : State) : (s.next).own = s.own := rfl
@[simp] theorem State.next_bank (s : State) : (s.next).bank = s.bank := rfl
@[simp] theorem State.next_cohorts (s : State) : (s.next).cohorts = s.cohorts := rfl
@[simp] theorem State.next_blocks (s : State) : (s.next).blocks = s.blocks := rfl
@[simp] theorem State.next_placed (s : State) : (s.next).placed = s.placed := rfl
@[simp] theorem State.next_grids (s : State) : (s.next).grids = s.grids := rfl
@[simp] theorem State.next_cores (s : State) : (s.next).cores = s.cores := rfl
@[simp] theorem State.next_cluTlb (s : State) : (s.next).cluTlb = s.cluTlb := rfl
@[simp] theorem State.next_constC (s : State) : (s.next).constC = s.constC := rfl
@[simp] theorem State.next_l2 (s : State) : (s.next).l2 = s.l2 := rfl
@[simp] theorem State.next_walkC (s : State) : (s.next).walkC = s.walkC := rfl
@[simp] theorem State.next_late (s : State) : (s.next).late = s.late := rfl
@[simp] theorem State.next_mvWaits (s : State) : (s.next).mvWaits = s.mvWaits := rfl
@[simp] theorem State.next_ewr (s : State) : (s.next).ewr = s.ewr := rfl
@[simp] theorem State.next_ops (s : State) : (s.next).ops = s.ops := rfl
@[simp] theorem State.next_pulls (s : State) : (s.next).pulls = s.pulls := rfl
@[simp] theorem State.next_transit (s : State) : (s.next).transit = s.transit := rfl
@[simp] theorem State.next_walks (s : State) : (s.next).walks = s.walks := rfl
@[simp] theorem State.next_invals (s : State) : (s.next).invals = s.invals := rfl
@[simp] theorem State.next_kiosk (s : State) : (s.next).kiosk = s.kiosk := rfl
@[simp] theorem State.next_harts (s : State) : (s.next).harts = s.harts := rfl
@[simp] theorem State.next_traps (s : State) : (s.next).traps = s.traps := rfl
@[simp] theorem State.next_queues (s : State) : (s.next).queues = s.queues := rfl
@[simp] theorem State.next_qwaits (s : State) : (s.next).qwaits = s.qwaits := rfl
@[simp] theorem State.next_tier (s : State) : (s.next).tier = s.tier := rfl
@[simp] theorem State.next_fab (s : State) : (s.next).fab = s.fab := rfl
@[simp] theorem State.next_svc (s : State) : (s.next).svc = s.svc := rfl
@[simp] theorem State.next_shares (s : State) : (s.next).shares = s.shares := rfl
@[simp] theorem State.next_serials (s : State) : (s.next).serials = s.serials := rfl
@[simp] theorem State.next_cur (s : State) : (s.next).cur = s.cur := rfl
@[simp] theorem State.next_agenda (s : State) : (s.next).agenda = s.agenda := rfl
@[simp] theorem State.next_time (s : State) : (s.next).time = s.time := rfl
@[simp] theorem State.next_fresh (s : State) : (s.next).fresh = s.fresh + 1 := rfl

/-! ### State.emit -/

@[simp] theorem State.emit_ctl (s : State) (o : Out) : (s.emit o).ctl = s.ctl := rfl
@[simp] theorem State.emit_mem (s : State) (o : Out) : (s.emit o).mem = s.mem := rfl
@[simp] theorem State.emit_own (s : State) (o : Out) : (s.emit o).own = s.own := rfl
@[simp] theorem State.emit_bank (s : State) (o : Out) : (s.emit o).bank = s.bank := rfl
@[simp] theorem State.emit_cohorts (s : State) (o : Out) : (s.emit o).cohorts = s.cohorts := rfl
@[simp] theorem State.emit_blocks (s : State) (o : Out) : (s.emit o).blocks = s.blocks := rfl
@[simp] theorem State.emit_placed (s : State) (o : Out) : (s.emit o).placed = s.placed := rfl
@[simp] theorem State.emit_grids (s : State) (o : Out) : (s.emit o).grids = s.grids := rfl
@[simp] theorem State.emit_cores (s : State) (o : Out) : (s.emit o).cores = s.cores := rfl
@[simp] theorem State.emit_cluTlb (s : State) (o : Out) : (s.emit o).cluTlb = s.cluTlb := rfl
@[simp] theorem State.emit_constC (s : State) (o : Out) : (s.emit o).constC = s.constC := rfl
@[simp] theorem State.emit_l2 (s : State) (o : Out) : (s.emit o).l2 = s.l2 := rfl
@[simp] theorem State.emit_walkC (s : State) (o : Out) : (s.emit o).walkC = s.walkC := rfl
@[simp] theorem State.emit_late (s : State) (o : Out) : (s.emit o).late = s.late := rfl
@[simp] theorem State.emit_mvWaits (s : State) (o : Out) : (s.emit o).mvWaits = s.mvWaits := rfl
@[simp] theorem State.emit_ewr (s : State) (o : Out) : (s.emit o).ewr = s.ewr := rfl
@[simp] theorem State.emit_ops (s : State) (o : Out) : (s.emit o).ops = s.ops := rfl
@[simp] theorem State.emit_pulls (s : State) (o : Out) : (s.emit o).pulls = s.pulls := rfl
@[simp] theorem State.emit_transit (s : State) (o : Out) : (s.emit o).transit = s.transit := rfl
@[simp] theorem State.emit_walks (s : State) (o : Out) : (s.emit o).walks = s.walks := rfl
@[simp] theorem State.emit_invals (s : State) (o : Out) : (s.emit o).invals = s.invals := rfl
@[simp] theorem State.emit_kiosk (s : State) (o : Out) : (s.emit o).kiosk = s.kiosk := rfl
@[simp] theorem State.emit_harts (s : State) (o : Out) : (s.emit o).harts = s.harts := rfl
@[simp] theorem State.emit_traps (s : State) (o : Out) : (s.emit o).traps = s.traps := rfl
@[simp] theorem State.emit_queues (s : State) (o : Out) : (s.emit o).queues = s.queues := rfl
@[simp] theorem State.emit_qwaits (s : State) (o : Out) : (s.emit o).qwaits = s.qwaits := rfl
@[simp] theorem State.emit_tier (s : State) (o : Out) : (s.emit o).tier = s.tier := rfl
@[simp] theorem State.emit_fab (s : State) (o : Out) : (s.emit o).fab = s.fab := rfl
@[simp] theorem State.emit_shares (s : State) (o : Out) : (s.emit o).shares = s.shares := rfl
@[simp] theorem State.emit_serials (s : State) (o : Out) : (s.emit o).serials = s.serials := rfl
@[simp] theorem State.emit_cur (s : State) (o : Out) : (s.emit o).cur = s.cur := rfl
@[simp] theorem State.emit_agenda (s : State) (o : Out) : (s.emit o).agenda = s.agenda := rfl
@[simp] theorem State.emit_time (s : State) (o : Out) : (s.emit o).time = s.time := rfl
@[simp] theorem State.emit_fresh (s : State) (o : Out) : (s.emit o).fresh = s.fresh := rfl

/-! ### State.stall -/

@[simp] theorem State.stall_ctl (s : State) : (s.stall).ctl = s.ctl := rfl
@[simp] theorem State.stall_mem (s : State) : (s.stall).mem = s.mem := rfl
@[simp] theorem State.stall_own (s : State) : (s.stall).own = s.own := rfl
@[simp] theorem State.stall_bank (s : State) : (s.stall).bank = s.bank := rfl
@[simp] theorem State.stall_cohorts (s : State) : (s.stall).cohorts = s.cohorts := rfl
@[simp] theorem State.stall_blocks (s : State) : (s.stall).blocks = s.blocks := rfl
@[simp] theorem State.stall_placed (s : State) : (s.stall).placed = s.placed := rfl
@[simp] theorem State.stall_grids (s : State) : (s.stall).grids = s.grids := rfl
@[simp] theorem State.stall_cores (s : State) : (s.stall).cores = s.cores := rfl
@[simp] theorem State.stall_cluTlb (s : State) : (s.stall).cluTlb = s.cluTlb := rfl
@[simp] theorem State.stall_constC (s : State) : (s.stall).constC = s.constC := rfl
@[simp] theorem State.stall_l2 (s : State) : (s.stall).l2 = s.l2 := rfl
@[simp] theorem State.stall_walkC (s : State) : (s.stall).walkC = s.walkC := rfl
@[simp] theorem State.stall_late (s : State) : (s.stall).late = s.late := rfl
@[simp] theorem State.stall_mvWaits (s : State) : (s.stall).mvWaits = s.mvWaits := rfl
@[simp] theorem State.stall_ewr (s : State) : (s.stall).ewr = s.ewr := rfl
@[simp] theorem State.stall_ops (s : State) : (s.stall).ops = s.ops := rfl
@[simp] theorem State.stall_pulls (s : State) : (s.stall).pulls = s.pulls := rfl
@[simp] theorem State.stall_transit (s : State) : (s.stall).transit = s.transit := rfl
@[simp] theorem State.stall_walks (s : State) : (s.stall).walks = s.walks := rfl
@[simp] theorem State.stall_invals (s : State) : (s.stall).invals = s.invals := rfl
@[simp] theorem State.stall_kiosk (s : State) : (s.stall).kiosk = s.kiosk := rfl
@[simp] theorem State.stall_harts (s : State) : (s.stall).harts = s.harts := rfl
@[simp] theorem State.stall_traps (s : State) : (s.stall).traps = s.traps := rfl
@[simp] theorem State.stall_queues (s : State) : (s.stall).queues = s.queues := rfl
@[simp] theorem State.stall_qwaits (s : State) : (s.stall).qwaits = s.qwaits := rfl
@[simp] theorem State.stall_tier (s : State) : (s.stall).tier = s.tier := rfl
@[simp] theorem State.stall_fab (s : State) : (s.stall).fab = s.fab := rfl
@[simp] theorem State.stall_svc (s : State) : (s.stall).svc = s.svc := rfl
@[simp] theorem State.stall_shares (s : State) : (s.stall).shares = s.shares := rfl
@[simp] theorem State.stall_serials (s : State) : (s.stall).serials = s.serials := rfl
@[simp] theorem State.stall_agenda (s : State) : (s.stall).agenda = s.agenda := rfl
@[simp] theorem State.stall_time (s : State) : (s.stall).time = s.time := rfl
@[simp] theorem State.stall_fresh (s : State) : (s.stall).fresh = s.fresh := rfl

/-! ### State.drop -/

@[simp] theorem State.drop_ctl (s : State) (m : LaneMask) : (s.drop m).ctl = s.ctl := rfl
@[simp] theorem State.drop_mem (s : State) (m : LaneMask) : (s.drop m).mem = s.mem := rfl
@[simp] theorem State.drop_own (s : State) (m : LaneMask) : (s.drop m).own = s.own := rfl
@[simp] theorem State.drop_bank (s : State) (m : LaneMask) : (s.drop m).bank = s.bank := rfl
@[simp] theorem State.drop_cohorts (s : State) (m : LaneMask) : (s.drop m).cohorts = s.cohorts := rfl
@[simp] theorem State.drop_blocks (s : State) (m : LaneMask) : (s.drop m).blocks = s.blocks := rfl
@[simp] theorem State.drop_placed (s : State) (m : LaneMask) : (s.drop m).placed = s.placed := rfl
@[simp] theorem State.drop_grids (s : State) (m : LaneMask) : (s.drop m).grids = s.grids := rfl
@[simp] theorem State.drop_cores (s : State) (m : LaneMask) : (s.drop m).cores = s.cores := rfl
@[simp] theorem State.drop_cluTlb (s : State) (m : LaneMask) : (s.drop m).cluTlb = s.cluTlb := rfl
@[simp] theorem State.drop_constC (s : State) (m : LaneMask) : (s.drop m).constC = s.constC := rfl
@[simp] theorem State.drop_l2 (s : State) (m : LaneMask) : (s.drop m).l2 = s.l2 := rfl
@[simp] theorem State.drop_walkC (s : State) (m : LaneMask) : (s.drop m).walkC = s.walkC := rfl
@[simp] theorem State.drop_late (s : State) (m : LaneMask) : (s.drop m).late = s.late := rfl
@[simp] theorem State.drop_mvWaits (s : State) (m : LaneMask) : (s.drop m).mvWaits = s.mvWaits := rfl
@[simp] theorem State.drop_ewr (s : State) (m : LaneMask) : (s.drop m).ewr = s.ewr := rfl
@[simp] theorem State.drop_ops (s : State) (m : LaneMask) : (s.drop m).ops = s.ops := rfl
@[simp] theorem State.drop_pulls (s : State) (m : LaneMask) : (s.drop m).pulls = s.pulls := rfl
@[simp] theorem State.drop_transit (s : State) (m : LaneMask) : (s.drop m).transit = s.transit := rfl
@[simp] theorem State.drop_walks (s : State) (m : LaneMask) : (s.drop m).walks = s.walks := rfl
@[simp] theorem State.drop_invals (s : State) (m : LaneMask) : (s.drop m).invals = s.invals := rfl
@[simp] theorem State.drop_kiosk (s : State) (m : LaneMask) : (s.drop m).kiosk = s.kiosk := rfl
@[simp] theorem State.drop_harts (s : State) (m : LaneMask) : (s.drop m).harts = s.harts := rfl
@[simp] theorem State.drop_traps (s : State) (m : LaneMask) : (s.drop m).traps = s.traps := rfl
@[simp] theorem State.drop_queues (s : State) (m : LaneMask) : (s.drop m).queues = s.queues := rfl
@[simp] theorem State.drop_qwaits (s : State) (m : LaneMask) : (s.drop m).qwaits = s.qwaits := rfl
@[simp] theorem State.drop_tier (s : State) (m : LaneMask) : (s.drop m).tier = s.tier := rfl
@[simp] theorem State.drop_fab (s : State) (m : LaneMask) : (s.drop m).fab = s.fab := rfl
@[simp] theorem State.drop_svc (s : State) (m : LaneMask) : (s.drop m).svc = s.svc := rfl
@[simp] theorem State.drop_shares (s : State) (m : LaneMask) : (s.drop m).shares = s.shares := rfl
@[simp] theorem State.drop_serials (s : State) (m : LaneMask) : (s.drop m).serials = s.serials := rfl
@[simp] theorem State.drop_agenda (s : State) (m : LaneMask) : (s.drop m).agenda = s.agenda := rfl
@[simp] theorem State.drop_time (s : State) (m : LaneMask) : (s.drop m).time = s.time := rfl
@[simp] theorem State.drop_fresh (s : State) (m : LaneMask) : (s.drop m).fresh = s.fresh := rfl

/-! ### State.writeV -/

@[simp] theorem State.writeV_ctl (s : State) (c n l : Nat) (w : Word) : (s.writeV c n l w).ctl = s.ctl := rfl
@[simp] theorem State.writeV_mem (s : State) (c n l : Nat) (w : Word) : (s.writeV c n l w).mem = s.mem := rfl
@[simp] theorem State.writeV_own (s : State) (c n l : Nat) (w : Word) : (s.writeV c n l w).own = s.own := rfl
@[simp] theorem State.writeV_bank (s : State) (c n l : Nat) (w : Word) : (s.writeV c n l w).bank = s.bank := rfl
@[simp] theorem State.writeV_blocks (s : State) (c n l : Nat) (w : Word) : (s.writeV c n l w).blocks = s.blocks := rfl
@[simp] theorem State.writeV_placed (s : State) (c n l : Nat) (w : Word) : (s.writeV c n l w).placed = s.placed := rfl
@[simp] theorem State.writeV_grids (s : State) (c n l : Nat) (w : Word) : (s.writeV c n l w).grids = s.grids := rfl
@[simp] theorem State.writeV_cores (s : State) (c n l : Nat) (w : Word) : (s.writeV c n l w).cores = s.cores := rfl
@[simp] theorem State.writeV_cluTlb (s : State) (c n l : Nat) (w : Word) : (s.writeV c n l w).cluTlb = s.cluTlb := rfl
@[simp] theorem State.writeV_constC (s : State) (c n l : Nat) (w : Word) : (s.writeV c n l w).constC = s.constC := rfl
@[simp] theorem State.writeV_l2 (s : State) (c n l : Nat) (w : Word) : (s.writeV c n l w).l2 = s.l2 := rfl
@[simp] theorem State.writeV_walkC (s : State) (c n l : Nat) (w : Word) : (s.writeV c n l w).walkC = s.walkC := rfl
@[simp] theorem State.writeV_late (s : State) (c n l : Nat) (w : Word) : (s.writeV c n l w).late = s.late := rfl
@[simp] theorem State.writeV_mvWaits (s : State) (c n l : Nat) (w : Word) : (s.writeV c n l w).mvWaits = s.mvWaits := rfl
@[simp] theorem State.writeV_ewr (s : State) (c n l : Nat) (w : Word) : (s.writeV c n l w).ewr = s.ewr := rfl
@[simp] theorem State.writeV_pulls (s : State) (c n l : Nat) (w : Word) : (s.writeV c n l w).pulls = s.pulls := rfl
@[simp] theorem State.writeV_transit (s : State) (c n l : Nat) (w : Word) : (s.writeV c n l w).transit = s.transit := rfl
@[simp] theorem State.writeV_walks (s : State) (c n l : Nat) (w : Word) : (s.writeV c n l w).walks = s.walks := rfl
@[simp] theorem State.writeV_invals (s : State) (c n l : Nat) (w : Word) : (s.writeV c n l w).invals = s.invals := rfl
@[simp] theorem State.writeV_kiosk (s : State) (c n l : Nat) (w : Word) : (s.writeV c n l w).kiosk = s.kiosk := rfl
@[simp] theorem State.writeV_harts (s : State) (c n l : Nat) (w : Word) : (s.writeV c n l w).harts = s.harts := rfl
@[simp] theorem State.writeV_traps (s : State) (c n l : Nat) (w : Word) : (s.writeV c n l w).traps = s.traps := rfl
@[simp] theorem State.writeV_queues (s : State) (c n l : Nat) (w : Word) : (s.writeV c n l w).queues = s.queues := rfl
@[simp] theorem State.writeV_qwaits (s : State) (c n l : Nat) (w : Word) : (s.writeV c n l w).qwaits = s.qwaits := rfl
@[simp] theorem State.writeV_tier (s : State) (c n l : Nat) (w : Word) : (s.writeV c n l w).tier = s.tier := rfl
@[simp] theorem State.writeV_fab (s : State) (c n l : Nat) (w : Word) : (s.writeV c n l w).fab = s.fab := rfl
@[simp] theorem State.writeV_svc (s : State) (c n l : Nat) (w : Word) : (s.writeV c n l w).svc = s.svc := rfl
@[simp] theorem State.writeV_shares (s : State) (c n l : Nat) (w : Word) : (s.writeV c n l w).shares = s.shares := rfl
@[simp] theorem State.writeV_serials (s : State) (c n l : Nat) (w : Word) : (s.writeV c n l w).serials = s.serials := rfl
@[simp] theorem State.writeV_cur (s : State) (c n l : Nat) (w : Word) : (s.writeV c n l w).cur = s.cur := rfl
@[simp] theorem State.writeV_agenda (s : State) (c n l : Nat) (w : Word) : (s.writeV c n l w).agenda = s.agenda := rfl
@[simp] theorem State.writeV_time (s : State) (c n l : Nat) (w : Word) : (s.writeV c n l w).time = s.time := rfl
@[simp] theorem State.writeV_fresh (s : State) (c n l : Nat) (w : Word) : (s.writeV c n l w).fresh = s.fresh := rfl

/-! ### State.writeS -/

@[simp] theorem State.writeS_ctl (s : State) (c n : Nat) (v : DWord) : (s.writeS c n v).ctl = s.ctl := rfl
@[simp] theorem State.writeS_mem (s : State) (c n : Nat) (v : DWord) : (s.writeS c n v).mem = s.mem := rfl
@[simp] theorem State.writeS_own (s : State) (c n : Nat) (v : DWord) : (s.writeS c n v).own = s.own := rfl
@[simp] theorem State.writeS_bank (s : State) (c n : Nat) (v : DWord) : (s.writeS c n v).bank = s.bank := rfl
@[simp] theorem State.writeS_blocks (s : State) (c n : Nat) (v : DWord) : (s.writeS c n v).blocks = s.blocks := rfl
@[simp] theorem State.writeS_placed (s : State) (c n : Nat) (v : DWord) : (s.writeS c n v).placed = s.placed := rfl
@[simp] theorem State.writeS_grids (s : State) (c n : Nat) (v : DWord) : (s.writeS c n v).grids = s.grids := rfl
@[simp] theorem State.writeS_cores (s : State) (c n : Nat) (v : DWord) : (s.writeS c n v).cores = s.cores := rfl
@[simp] theorem State.writeS_cluTlb (s : State) (c n : Nat) (v : DWord) : (s.writeS c n v).cluTlb = s.cluTlb := rfl
@[simp] theorem State.writeS_constC (s : State) (c n : Nat) (v : DWord) : (s.writeS c n v).constC = s.constC := rfl
@[simp] theorem State.writeS_l2 (s : State) (c n : Nat) (v : DWord) : (s.writeS c n v).l2 = s.l2 := rfl
@[simp] theorem State.writeS_walkC (s : State) (c n : Nat) (v : DWord) : (s.writeS c n v).walkC = s.walkC := rfl
@[simp] theorem State.writeS_late (s : State) (c n : Nat) (v : DWord) : (s.writeS c n v).late = s.late := rfl
@[simp] theorem State.writeS_mvWaits (s : State) (c n : Nat) (v : DWord) : (s.writeS c n v).mvWaits = s.mvWaits := rfl
@[simp] theorem State.writeS_ewr (s : State) (c n : Nat) (v : DWord) : (s.writeS c n v).ewr = s.ewr := rfl
@[simp] theorem State.writeS_pulls (s : State) (c n : Nat) (v : DWord) : (s.writeS c n v).pulls = s.pulls := rfl
@[simp] theorem State.writeS_transit (s : State) (c n : Nat) (v : DWord) : (s.writeS c n v).transit = s.transit := rfl
@[simp] theorem State.writeS_walks (s : State) (c n : Nat) (v : DWord) : (s.writeS c n v).walks = s.walks := rfl
@[simp] theorem State.writeS_invals (s : State) (c n : Nat) (v : DWord) : (s.writeS c n v).invals = s.invals := rfl
@[simp] theorem State.writeS_kiosk (s : State) (c n : Nat) (v : DWord) : (s.writeS c n v).kiosk = s.kiosk := rfl
@[simp] theorem State.writeS_harts (s : State) (c n : Nat) (v : DWord) : (s.writeS c n v).harts = s.harts := rfl
@[simp] theorem State.writeS_traps (s : State) (c n : Nat) (v : DWord) : (s.writeS c n v).traps = s.traps := rfl
@[simp] theorem State.writeS_queues (s : State) (c n : Nat) (v : DWord) : (s.writeS c n v).queues = s.queues := rfl
@[simp] theorem State.writeS_qwaits (s : State) (c n : Nat) (v : DWord) : (s.writeS c n v).qwaits = s.qwaits := rfl
@[simp] theorem State.writeS_tier (s : State) (c n : Nat) (v : DWord) : (s.writeS c n v).tier = s.tier := rfl
@[simp] theorem State.writeS_fab (s : State) (c n : Nat) (v : DWord) : (s.writeS c n v).fab = s.fab := rfl
@[simp] theorem State.writeS_svc (s : State) (c n : Nat) (v : DWord) : (s.writeS c n v).svc = s.svc := rfl
@[simp] theorem State.writeS_shares (s : State) (c n : Nat) (v : DWord) : (s.writeS c n v).shares = s.shares := rfl
@[simp] theorem State.writeS_serials (s : State) (c n : Nat) (v : DWord) : (s.writeS c n v).serials = s.serials := rfl
@[simp] theorem State.writeS_cur (s : State) (c n : Nat) (v : DWord) : (s.writeS c n v).cur = s.cur := rfl
@[simp] theorem State.writeS_agenda (s : State) (c n : Nat) (v : DWord) : (s.writeS c n v).agenda = s.agenda := rfl
@[simp] theorem State.writeS_time (s : State) (c n : Nat) (v : DWord) : (s.writeS c n v).time = s.time := rfl
@[simp] theorem State.writeS_fresh (s : State) (c n : Nat) (v : DWord) : (s.writeS c n v).fresh = s.fresh := rfl

/-! ### State.raise -/

@[simp] theorem State.raise_ctl (s : State) (c : Nat) (v : NFlags) : (s.raise c v).ctl = s.ctl := rfl
@[simp] theorem State.raise_mem (s : State) (c : Nat) (v : NFlags) : (s.raise c v).mem = s.mem := rfl
@[simp] theorem State.raise_own (s : State) (c : Nat) (v : NFlags) : (s.raise c v).own = s.own := rfl
@[simp] theorem State.raise_bank (s : State) (c : Nat) (v : NFlags) : (s.raise c v).bank = s.bank := rfl
@[simp] theorem State.raise_blocks (s : State) (c : Nat) (v : NFlags) : (s.raise c v).blocks = s.blocks := rfl
@[simp] theorem State.raise_placed (s : State) (c : Nat) (v : NFlags) : (s.raise c v).placed = s.placed := rfl
@[simp] theorem State.raise_grids (s : State) (c : Nat) (v : NFlags) : (s.raise c v).grids = s.grids := rfl
@[simp] theorem State.raise_cores (s : State) (c : Nat) (v : NFlags) : (s.raise c v).cores = s.cores := rfl
@[simp] theorem State.raise_cluTlb (s : State) (c : Nat) (v : NFlags) : (s.raise c v).cluTlb = s.cluTlb := rfl
@[simp] theorem State.raise_constC (s : State) (c : Nat) (v : NFlags) : (s.raise c v).constC = s.constC := rfl
@[simp] theorem State.raise_l2 (s : State) (c : Nat) (v : NFlags) : (s.raise c v).l2 = s.l2 := rfl
@[simp] theorem State.raise_walkC (s : State) (c : Nat) (v : NFlags) : (s.raise c v).walkC = s.walkC := rfl
@[simp] theorem State.raise_late (s : State) (c : Nat) (v : NFlags) : (s.raise c v).late = s.late := rfl
@[simp] theorem State.raise_mvWaits (s : State) (c : Nat) (v : NFlags) : (s.raise c v).mvWaits = s.mvWaits := rfl
@[simp] theorem State.raise_ewr (s : State) (c : Nat) (v : NFlags) : (s.raise c v).ewr = s.ewr := rfl
@[simp] theorem State.raise_ops (s : State) (c : Nat) (v : NFlags) : (s.raise c v).ops = s.ops := rfl
@[simp] theorem State.raise_pulls (s : State) (c : Nat) (v : NFlags) : (s.raise c v).pulls = s.pulls := rfl
@[simp] theorem State.raise_transit (s : State) (c : Nat) (v : NFlags) : (s.raise c v).transit = s.transit := rfl
@[simp] theorem State.raise_walks (s : State) (c : Nat) (v : NFlags) : (s.raise c v).walks = s.walks := rfl
@[simp] theorem State.raise_invals (s : State) (c : Nat) (v : NFlags) : (s.raise c v).invals = s.invals := rfl
@[simp] theorem State.raise_kiosk (s : State) (c : Nat) (v : NFlags) : (s.raise c v).kiosk = s.kiosk := rfl
@[simp] theorem State.raise_harts (s : State) (c : Nat) (v : NFlags) : (s.raise c v).harts = s.harts := rfl
@[simp] theorem State.raise_traps (s : State) (c : Nat) (v : NFlags) : (s.raise c v).traps = s.traps := rfl
@[simp] theorem State.raise_queues (s : State) (c : Nat) (v : NFlags) : (s.raise c v).queues = s.queues := rfl
@[simp] theorem State.raise_qwaits (s : State) (c : Nat) (v : NFlags) : (s.raise c v).qwaits = s.qwaits := rfl
@[simp] theorem State.raise_tier (s : State) (c : Nat) (v : NFlags) : (s.raise c v).tier = s.tier := rfl
@[simp] theorem State.raise_fab (s : State) (c : Nat) (v : NFlags) : (s.raise c v).fab = s.fab := rfl
@[simp] theorem State.raise_svc (s : State) (c : Nat) (v : NFlags) : (s.raise c v).svc = s.svc := rfl
@[simp] theorem State.raise_shares (s : State) (c : Nat) (v : NFlags) : (s.raise c v).shares = s.shares := rfl
@[simp] theorem State.raise_serials (s : State) (c : Nat) (v : NFlags) : (s.raise c v).serials = s.serials := rfl
@[simp] theorem State.raise_cur (s : State) (c : Nat) (v : NFlags) : (s.raise c v).cur = s.cur := rfl
@[simp] theorem State.raise_agenda (s : State) (c : Nat) (v : NFlags) : (s.raise c v).agenda = s.agenda := rfl
@[simp] theorem State.raise_time (s : State) (c : Nat) (v : NFlags) : (s.raise c v).time = s.time := rfl
@[simp] theorem State.raise_fresh (s : State) (c : Nat) (v : NFlags) : (s.raise c v).fresh = s.fresh := rfl

/-! ### State.arrive -/

@[simp] theorem State.arrive_ctl (s : State) (c : Nat) (l : List (Nat × DWord)) (b : Bool) : (s.arrive c l b).ctl = s.ctl := rfl
@[simp] theorem State.arrive_mem (s : State) (c : Nat) (l : List (Nat × DWord)) (b : Bool) : (s.arrive c l b).mem = s.mem := rfl
@[simp] theorem State.arrive_own (s : State) (c : Nat) (l : List (Nat × DWord)) (b : Bool) : (s.arrive c l b).own = s.own := rfl
@[simp] theorem State.arrive_bank (s : State) (c : Nat) (l : List (Nat × DWord)) (b : Bool) : (s.arrive c l b).bank = s.bank := rfl
@[simp] theorem State.arrive_blocks (s : State) (c : Nat) (l : List (Nat × DWord)) (b : Bool) : (s.arrive c l b).blocks = s.blocks := rfl
@[simp] theorem State.arrive_placed (s : State) (c : Nat) (l : List (Nat × DWord)) (b : Bool) : (s.arrive c l b).placed = s.placed := rfl
@[simp] theorem State.arrive_grids (s : State) (c : Nat) (l : List (Nat × DWord)) (b : Bool) : (s.arrive c l b).grids = s.grids := rfl
@[simp] theorem State.arrive_cores (s : State) (c : Nat) (l : List (Nat × DWord)) (b : Bool) : (s.arrive c l b).cores = s.cores := rfl
@[simp] theorem State.arrive_cluTlb (s : State) (c : Nat) (l : List (Nat × DWord)) (b : Bool) : (s.arrive c l b).cluTlb = s.cluTlb := rfl
@[simp] theorem State.arrive_constC (s : State) (c : Nat) (l : List (Nat × DWord)) (b : Bool) : (s.arrive c l b).constC = s.constC := rfl
@[simp] theorem State.arrive_l2 (s : State) (c : Nat) (l : List (Nat × DWord)) (b : Bool) : (s.arrive c l b).l2 = s.l2 := rfl
@[simp] theorem State.arrive_walkC (s : State) (c : Nat) (l : List (Nat × DWord)) (b : Bool) : (s.arrive c l b).walkC = s.walkC := rfl
@[simp] theorem State.arrive_late (s : State) (c : Nat) (l : List (Nat × DWord)) (b : Bool) : (s.arrive c l b).late = s.late := rfl
@[simp] theorem State.arrive_mvWaits (s : State) (c : Nat) (l : List (Nat × DWord)) (b : Bool) : (s.arrive c l b).mvWaits = s.mvWaits := rfl
@[simp] theorem State.arrive_ewr (s : State) (c : Nat) (l : List (Nat × DWord)) (b : Bool) : (s.arrive c l b).ewr = s.ewr := rfl
@[simp] theorem State.arrive_ops (s : State) (c : Nat) (l : List (Nat × DWord)) (b : Bool) : (s.arrive c l b).ops = s.ops := rfl
@[simp] theorem State.arrive_pulls (s : State) (c : Nat) (l : List (Nat × DWord)) (b : Bool) : (s.arrive c l b).pulls = s.pulls := rfl
@[simp] theorem State.arrive_transit (s : State) (c : Nat) (l : List (Nat × DWord)) (b : Bool) : (s.arrive c l b).transit = s.transit := rfl
@[simp] theorem State.arrive_walks (s : State) (c : Nat) (l : List (Nat × DWord)) (b : Bool) : (s.arrive c l b).walks = s.walks := rfl
@[simp] theorem State.arrive_invals (s : State) (c : Nat) (l : List (Nat × DWord)) (b : Bool) : (s.arrive c l b).invals = s.invals := rfl
@[simp] theorem State.arrive_kiosk (s : State) (c : Nat) (l : List (Nat × DWord)) (b : Bool) : (s.arrive c l b).kiosk = s.kiosk := rfl
@[simp] theorem State.arrive_harts (s : State) (c : Nat) (l : List (Nat × DWord)) (b : Bool) : (s.arrive c l b).harts = s.harts := rfl
@[simp] theorem State.arrive_traps (s : State) (c : Nat) (l : List (Nat × DWord)) (b : Bool) : (s.arrive c l b).traps = s.traps := rfl
@[simp] theorem State.arrive_queues (s : State) (c : Nat) (l : List (Nat × DWord)) (b : Bool) : (s.arrive c l b).queues = s.queues := rfl
@[simp] theorem State.arrive_qwaits (s : State) (c : Nat) (l : List (Nat × DWord)) (b : Bool) : (s.arrive c l b).qwaits = s.qwaits := rfl
@[simp] theorem State.arrive_tier (s : State) (c : Nat) (l : List (Nat × DWord)) (b : Bool) : (s.arrive c l b).tier = s.tier := rfl
@[simp] theorem State.arrive_fab (s : State) (c : Nat) (l : List (Nat × DWord)) (b : Bool) : (s.arrive c l b).fab = s.fab := rfl
@[simp] theorem State.arrive_svc (s : State) (c : Nat) (l : List (Nat × DWord)) (b : Bool) : (s.arrive c l b).svc = s.svc := rfl
@[simp] theorem State.arrive_shares (s : State) (c : Nat) (l : List (Nat × DWord)) (b : Bool) : (s.arrive c l b).shares = s.shares := rfl
@[simp] theorem State.arrive_serials (s : State) (c : Nat) (l : List (Nat × DWord)) (b : Bool) : (s.arrive c l b).serials = s.serials := rfl
@[simp] theorem State.arrive_cur (s : State) (c : Nat) (l : List (Nat × DWord)) (b : Bool) : (s.arrive c l b).cur = s.cur := rfl
@[simp] theorem State.arrive_agenda (s : State) (c : Nat) (l : List (Nat × DWord)) (b : Bool) : (s.arrive c l b).agenda = s.agenda := rfl
@[simp] theorem State.arrive_time (s : State) (c : Nat) (l : List (Nat × DWord)) (b : Bool) : (s.arrive c l b).time = s.time := rfl
@[simp] theorem State.arrive_fresh (s : State) (c : Nat) (l : List (Nat × DWord)) (b : Bool) : (s.arrive c l b).fresh = s.fresh := rfl

/-! ### State.advance -/

@[simp] theorem State.advance_ctl (s : State) : (s.advance).ctl = s.ctl := rfl
@[simp] theorem State.advance_mem (s : State) : (s.advance).mem = s.mem := rfl
@[simp] theorem State.advance_own (s : State) : (s.advance).own = s.own := rfl
@[simp] theorem State.advance_bank (s : State) : (s.advance).bank = s.bank := rfl
@[simp] theorem State.advance_blocks (s : State) : (s.advance).blocks = s.blocks := rfl
@[simp] theorem State.advance_placed (s : State) : (s.advance).placed = s.placed := rfl
@[simp] theorem State.advance_grids (s : State) : (s.advance).grids = s.grids := rfl
@[simp] theorem State.advance_cores (s : State) : (s.advance).cores = s.cores := rfl
@[simp] theorem State.advance_cluTlb (s : State) : (s.advance).cluTlb = s.cluTlb := rfl
@[simp] theorem State.advance_constC (s : State) : (s.advance).constC = s.constC := rfl
@[simp] theorem State.advance_l2 (s : State) : (s.advance).l2 = s.l2 := rfl
@[simp] theorem State.advance_walkC (s : State) : (s.advance).walkC = s.walkC := rfl
@[simp] theorem State.advance_late (s : State) : (s.advance).late = s.late := rfl
@[simp] theorem State.advance_mvWaits (s : State) : (s.advance).mvWaits = s.mvWaits := rfl
@[simp] theorem State.advance_ewr (s : State) : (s.advance).ewr = s.ewr := rfl
@[simp] theorem State.advance_ops (s : State) : (s.advance).ops = s.ops := rfl
@[simp] theorem State.advance_pulls (s : State) : (s.advance).pulls = s.pulls := rfl
@[simp] theorem State.advance_transit (s : State) : (s.advance).transit = s.transit := rfl
@[simp] theorem State.advance_walks (s : State) : (s.advance).walks = s.walks := rfl
@[simp] theorem State.advance_invals (s : State) : (s.advance).invals = s.invals := rfl
@[simp] theorem State.advance_kiosk (s : State) : (s.advance).kiosk = s.kiosk := rfl
@[simp] theorem State.advance_harts (s : State) : (s.advance).harts = s.harts := rfl
@[simp] theorem State.advance_traps (s : State) : (s.advance).traps = s.traps := rfl
@[simp] theorem State.advance_queues (s : State) : (s.advance).queues = s.queues := rfl
@[simp] theorem State.advance_qwaits (s : State) : (s.advance).qwaits = s.qwaits := rfl
@[simp] theorem State.advance_tier (s : State) : (s.advance).tier = s.tier := rfl
@[simp] theorem State.advance_fab (s : State) : (s.advance).fab = s.fab := rfl
@[simp] theorem State.advance_svc (s : State) : (s.advance).svc = s.svc := rfl
@[simp] theorem State.advance_shares (s : State) : (s.advance).shares = s.shares := rfl
@[simp] theorem State.advance_serials (s : State) : (s.advance).serials = s.serials := rfl
@[simp] theorem State.advance_cur (s : State) : (s.advance).cur = s.cur := rfl
@[simp] theorem State.advance_agenda (s : State) : (s.advance).agenda = s.agenda := rfl
@[simp] theorem State.advance_time (s : State) : (s.advance).time = s.time := rfl
@[simp] theorem State.advance_fresh (s : State) : (s.advance).fresh = s.fresh := rfl

/-! ### State.setLock -/

@[simp] theorem State.setLock_ctl (s : State) (p c : Nat) (w : TxWho) : (s.setLock p c w).ctl = s.ctl := rfl
@[simp] theorem State.setLock_mem (s : State) (p c : Nat) (w : TxWho) : (s.setLock p c w).mem = s.mem := rfl
@[simp] theorem State.setLock_own (s : State) (p c : Nat) (w : TxWho) : (s.setLock p c w).own = s.own := rfl
@[simp] theorem State.setLock_bank (s : State) (p c : Nat) (w : TxWho) : (s.setLock p c w).bank = s.bank := rfl
@[simp] theorem State.setLock_cohorts (s : State) (p c : Nat) (w : TxWho) : (s.setLock p c w).cohorts = s.cohorts := rfl
@[simp] theorem State.setLock_blocks (s : State) (p c : Nat) (w : TxWho) : (s.setLock p c w).blocks = s.blocks := rfl
@[simp] theorem State.setLock_placed (s : State) (p c : Nat) (w : TxWho) : (s.setLock p c w).placed = s.placed := rfl
@[simp] theorem State.setLock_grids (s : State) (p c : Nat) (w : TxWho) : (s.setLock p c w).grids = s.grids := rfl
@[simp] theorem State.setLock_cores (s : State) (p c : Nat) (w : TxWho) : (s.setLock p c w).cores = s.cores := rfl
@[simp] theorem State.setLock_cluTlb (s : State) (p c : Nat) (w : TxWho) : (s.setLock p c w).cluTlb = s.cluTlb := rfl
@[simp] theorem State.setLock_constC (s : State) (p c : Nat) (w : TxWho) : (s.setLock p c w).constC = s.constC := rfl
@[simp] theorem State.setLock_l2 (s : State) (p c : Nat) (w : TxWho) : (s.setLock p c w).l2 = s.l2 := rfl
@[simp] theorem State.setLock_walkC (s : State) (p c : Nat) (w : TxWho) : (s.setLock p c w).walkC = s.walkC := rfl
@[simp] theorem State.setLock_late (s : State) (p c : Nat) (w : TxWho) : (s.setLock p c w).late = s.late := rfl
@[simp] theorem State.setLock_mvWaits (s : State) (p c : Nat) (w : TxWho) : (s.setLock p c w).mvWaits = s.mvWaits := rfl
@[simp] theorem State.setLock_ewr (s : State) (p c : Nat) (w : TxWho) : (s.setLock p c w).ewr = s.ewr := rfl
@[simp] theorem State.setLock_ops (s : State) (p c : Nat) (w : TxWho) : (s.setLock p c w).ops = s.ops := rfl
@[simp] theorem State.setLock_pulls (s : State) (p c : Nat) (w : TxWho) : (s.setLock p c w).pulls = s.pulls := rfl
@[simp] theorem State.setLock_transit (s : State) (p c : Nat) (w : TxWho) : (s.setLock p c w).transit = s.transit := rfl
@[simp] theorem State.setLock_walks (s : State) (p c : Nat) (w : TxWho) : (s.setLock p c w).walks = s.walks := rfl
@[simp] theorem State.setLock_invals (s : State) (p c : Nat) (w : TxWho) : (s.setLock p c w).invals = s.invals := rfl
@[simp] theorem State.setLock_harts (s : State) (p c : Nat) (w : TxWho) : (s.setLock p c w).harts = s.harts := rfl
@[simp] theorem State.setLock_traps (s : State) (p c : Nat) (w : TxWho) : (s.setLock p c w).traps = s.traps := rfl
@[simp] theorem State.setLock_queues (s : State) (p c : Nat) (w : TxWho) : (s.setLock p c w).queues = s.queues := rfl
@[simp] theorem State.setLock_qwaits (s : State) (p c : Nat) (w : TxWho) : (s.setLock p c w).qwaits = s.qwaits := rfl
@[simp] theorem State.setLock_tier (s : State) (p c : Nat) (w : TxWho) : (s.setLock p c w).tier = s.tier := rfl
@[simp] theorem State.setLock_fab (s : State) (p c : Nat) (w : TxWho) : (s.setLock p c w).fab = s.fab := rfl
@[simp] theorem State.setLock_svc (s : State) (p c : Nat) (w : TxWho) : (s.setLock p c w).svc = s.svc := rfl
@[simp] theorem State.setLock_shares (s : State) (p c : Nat) (w : TxWho) : (s.setLock p c w).shares = s.shares := rfl
@[simp] theorem State.setLock_serials (s : State) (p c : Nat) (w : TxWho) : (s.setLock p c w).serials = s.serials := rfl
@[simp] theorem State.setLock_cur (s : State) (p c : Nat) (w : TxWho) : (s.setLock p c w).cur = s.cur := rfl
@[simp] theorem State.setLock_agenda (s : State) (p c : Nat) (w : TxWho) : (s.setLock p c w).agenda = s.agenda := rfl
@[simp] theorem State.setLock_time (s : State) (p c : Nat) (w : TxWho) : (s.setLock p c w).time = s.time := rfl
@[simp] theorem State.setLock_fresh (s : State) (p c : Nat) (w : TxWho) : (s.setLock p c w).fresh = s.fresh := rfl

/-! ### State.freeLock -/

@[simp] theorem State.freeLock_ctl (s : State) (p c : Nat) : (s.freeLock p c).ctl = s.ctl := rfl
@[simp] theorem State.freeLock_mem (s : State) (p c : Nat) : (s.freeLock p c).mem = s.mem := rfl
@[simp] theorem State.freeLock_own (s : State) (p c : Nat) : (s.freeLock p c).own = s.own := rfl
@[simp] theorem State.freeLock_bank (s : State) (p c : Nat) : (s.freeLock p c).bank = s.bank := rfl
@[simp] theorem State.freeLock_cohorts (s : State) (p c : Nat) : (s.freeLock p c).cohorts = s.cohorts := rfl
@[simp] theorem State.freeLock_blocks (s : State) (p c : Nat) : (s.freeLock p c).blocks = s.blocks := rfl
@[simp] theorem State.freeLock_placed (s : State) (p c : Nat) : (s.freeLock p c).placed = s.placed := rfl
@[simp] theorem State.freeLock_grids (s : State) (p c : Nat) : (s.freeLock p c).grids = s.grids := rfl
@[simp] theorem State.freeLock_cores (s : State) (p c : Nat) : (s.freeLock p c).cores = s.cores := rfl
@[simp] theorem State.freeLock_cluTlb (s : State) (p c : Nat) : (s.freeLock p c).cluTlb = s.cluTlb := rfl
@[simp] theorem State.freeLock_constC (s : State) (p c : Nat) : (s.freeLock p c).constC = s.constC := rfl
@[simp] theorem State.freeLock_l2 (s : State) (p c : Nat) : (s.freeLock p c).l2 = s.l2 := rfl
@[simp] theorem State.freeLock_walkC (s : State) (p c : Nat) : (s.freeLock p c).walkC = s.walkC := rfl
@[simp] theorem State.freeLock_late (s : State) (p c : Nat) : (s.freeLock p c).late = s.late := rfl
@[simp] theorem State.freeLock_mvWaits (s : State) (p c : Nat) : (s.freeLock p c).mvWaits = s.mvWaits := rfl
@[simp] theorem State.freeLock_ewr (s : State) (p c : Nat) : (s.freeLock p c).ewr = s.ewr := rfl
@[simp] theorem State.freeLock_ops (s : State) (p c : Nat) : (s.freeLock p c).ops = s.ops := rfl
@[simp] theorem State.freeLock_pulls (s : State) (p c : Nat) : (s.freeLock p c).pulls = s.pulls := rfl
@[simp] theorem State.freeLock_transit (s : State) (p c : Nat) : (s.freeLock p c).transit = s.transit := rfl
@[simp] theorem State.freeLock_walks (s : State) (p c : Nat) : (s.freeLock p c).walks = s.walks := rfl
@[simp] theorem State.freeLock_invals (s : State) (p c : Nat) : (s.freeLock p c).invals = s.invals := rfl
@[simp] theorem State.freeLock_harts (s : State) (p c : Nat) : (s.freeLock p c).harts = s.harts := rfl
@[simp] theorem State.freeLock_traps (s : State) (p c : Nat) : (s.freeLock p c).traps = s.traps := rfl
@[simp] theorem State.freeLock_queues (s : State) (p c : Nat) : (s.freeLock p c).queues = s.queues := rfl
@[simp] theorem State.freeLock_qwaits (s : State) (p c : Nat) : (s.freeLock p c).qwaits = s.qwaits := rfl
@[simp] theorem State.freeLock_tier (s : State) (p c : Nat) : (s.freeLock p c).tier = s.tier := rfl
@[simp] theorem State.freeLock_fab (s : State) (p c : Nat) : (s.freeLock p c).fab = s.fab := rfl
@[simp] theorem State.freeLock_svc (s : State) (p c : Nat) : (s.freeLock p c).svc = s.svc := rfl
@[simp] theorem State.freeLock_shares (s : State) (p c : Nat) : (s.freeLock p c).shares = s.shares := rfl
@[simp] theorem State.freeLock_serials (s : State) (p c : Nat) : (s.freeLock p c).serials = s.serials := rfl
@[simp] theorem State.freeLock_cur (s : State) (p c : Nat) : (s.freeLock p c).cur = s.cur := rfl
@[simp] theorem State.freeLock_agenda (s : State) (p c : Nat) : (s.freeLock p c).agenda = s.agenda := rfl
@[simp] theorem State.freeLock_time (s : State) (p c : Nat) : (s.freeLock p c).time = s.time := rfl
@[simp] theorem State.freeLock_fresh (s : State) (p c : Nat) : (s.freeLock p c).fresh = s.fresh := rfl

/-! ### Cohort.touch -/

@[simp] theorem Cohort.touch_block (k : Cohort) (n : Nat) : (k.touch n).block = k.block := rfl
@[simp] theorem Cohort.touch_idx (k : Cohort) (n : Nat) : (k.touch n).idx = k.idx := rfl
@[simp] theorem Cohort.touch_pipe (k : Cohort) (n : Nat) : (k.touch n).pipe = k.pipe := rfl
@[simp] theorem Cohort.touch_vbase (k : Cohort) (n : Nat) : (k.touch n).vbase = k.vbase := rfl
@[simp] theorem Cohort.touch_place (k : Cohort) (n : Nat) : (k.touch n).place = k.place := rfl
@[simp] theorem Cohort.touch_active (k : Cohort) (n : Nat) : (k.touch n).active = k.active := rfl
@[simp] theorem Cohort.touch_detHolder (k : Cohort) (n : Nat) : (k.touch n).detHolder = k.detHolder := rfl
@[simp] theorem Cohort.touch_lastIssue (k : Cohort) (n : Nat) : (k.touch n).lastIssue = k.lastIssue := rfl
@[simp] theorem Cohort.touch_detIdx (k : Cohort) (n : Nat) : (k.touch n).detIdx = k.detIdx := rfl
@[simp] theorem Cohort.touch_regs (k : Cohort) (n : Nat) : (k.touch n).regs = k.regs := rfl
@[simp] theorem Cohort.touch_sregs (k : Cohort) (n : Nat) : (k.touch n).sregs = k.sregs := rfl
@[simp] theorem Cohort.touch_preds (k : Cohort) (n : Nat) : (k.touch n).preds = k.preds := rfl
@[simp] theorem Cohort.touch_nflags (k : Cohort) (n : Nat) : (k.touch n).nflags = k.nflags := rfl
@[simp] theorem Cohort.touch_pc (k : Cohort) (n : Nat) : (k.touch n).pc = k.pc := rfl
@[simp] theorem Cohort.touch_meet (k : Cohort) (n : Nat) : (k.touch n).meet = k.meet := rfl
@[simp] theorem Cohort.touch_orig (k : Cohort) (n : Nat) : (k.touch n).orig = k.orig := rfl
@[simp] theorem Cohort.touch_live (k : Cohort) (n : Nat) : (k.touch n).live = k.live := rfl
@[simp] theorem Cohort.touch_exited (k : Cohort) (n : Nat) : (k.touch n).exited = k.exited := rfl
@[simp] theorem Cohort.touch_parked (k : Cohort) (n : Nat) : (k.touch n).parked = k.parked := rfl
@[simp] theorem Cohort.touch_held (k : Cohort) (n : Nat) : (k.touch n).held = k.held := rfl
@[simp] theorem Cohort.touch_entered (k : Cohort) (n : Nat) : (k.touch n).entered = k.entered := rfl
@[simp] theorem Cohort.touch_lockWait (k : Cohort) (n : Nat) : (k.touch n).lockWait = k.lockWait := rfl
@[simp] theorem Cohort.touch_store (k : Cohort) (n : Nat) : (k.touch n).store = k.store := rfl
@[simp] theorem Cohort.touch_barHold (k : Cohort) (n : Nat) : (k.touch n).barHold = k.barHold := rfl
@[simp] theorem Cohort.touch_tid (k : Cohort) (n : Nat) : (k.touch n).tid = k.tid := rfl
@[simp] theorem Cohort.touch_regionOpen (k : Cohort) (n : Nat) : (k.touch n).regionOpen = k.regionOpen := rfl
@[simp] theorem Cohort.touch_mend (k : Cohort) (n : Nat) : (k.touch n).mend = k.mend := rfl
@[simp] theorem Cohort.touch_brm (k : Cohort) (n : Nat) : (k.touch n).brm = k.brm := rfl
@[simp] theorem Cohort.touch_path (k : Cohort) (n : Nat) : (k.touch n).path = k.path := rfl
@[simp] theorem Cohort.touch_memb (k : Cohort) (n : Nat) : (k.touch n).memb = k.memb := rfl
@[simp] theorem Cohort.touch_mendWait (k : Cohort) (n : Nat) : (k.touch n).mendWait = k.mendWait := rfl
@[simp] theorem Cohort.touch_mendOpen (k : Cohort) (n : Nat) : (k.touch n).mendOpen = k.mendOpen := rfl
@[simp] theorem Cohort.touch_rnt0 (k : Cohort) (n : Nat) : (k.touch n).rnt0 = k.rnt0 := rfl
@[simp] theorem Cohort.touch_rnt1 (k : Cohort) (n : Nat) : (k.touch n).rnt1 = k.rnt1 := rfl
@[simp] theorem Cohort.touch_cf (k : Cohort) (n : Nat) : (k.touch n).cf = k.cf := rfl
@[simp] theorem Cohort.touch_handles (k : Cohort) (n : Nat) : (k.touch n).handles = k.handles := rfl
@[simp] theorem Cohort.touch_restart (k : Cohort) (n : Nat) : (k.touch n).restart = k.restart := rfl
@[simp] theorem Cohort.touch_tx (k : Cohort) (n : Nat) : (k.touch n).tx = k.tx := rfl
@[simp] theorem Cohort.touch_absent (k : Cohort) (n : Nat) : (k.touch n).absent = k.absent := rfl
@[simp] theorem Cohort.touch_stalled (k : Cohort) (n : Nat) : (k.touch n).stalled = k.stalled := rfl
@[simp] theorem Cohort.touch_since (k : Cohort) (n : Nat) : (k.touch n).since = k.since := rfl
@[simp] theorem Cohort.touch_watch (k : Cohort) (n : Nat) : (k.touch n).watch = k.watch := rfl
@[simp] theorem Cohort.touch_stallHeld (k : Cohort) (n : Nat) : (k.touch n).stallHeld = k.stallHeld := rfl
@[simp] theorem Cohort.touch_wfSince (k : Cohort) (n : Nat) : (k.touch n).wfSince = k.wfSince := rfl
@[simp] theorem Cohort.touch_posTime (k : Cohort) (n : Nat) : (k.touch n).posTime = k.posTime := rfl
@[simp] theorem Cohort.touch_waitPos (k : Cohort) (n : Nat) : (k.touch n).waitPos = k.waitPos := rfl
@[simp] theorem Cohort.touch_lost (k : Cohort) (n : Nat) : (k.touch n).lost = k.lost := rfl
@[simp] theorem Cohort.touch_damaged (k : Cohort) (n : Nat) : (k.touch n).damaged = k.damaged := rfl
@[simp] theorem Cohort.touch_area (k : Cohort) (n : Nat) : (k.touch n).area = k.area := rfl
@[simp] theorem Cohort.touch_relS (k : Cohort) (n : Nat) : (k.touch n).relS = k.relS := rfl
@[simp] theorem Cohort.touch_observed (k : Cohort) (n : Nat) : (k.touch n).observed = k.observed := rfl

/-! ### Cohort.setV -/

@[simp] theorem Cohort.setV_block (k : Cohort) (n l : Nat) (w : Word) : (k.setV n l w).block = k.block := rfl
@[simp] theorem Cohort.setV_idx (k : Cohort) (n l : Nat) (w : Word) : (k.setV n l w).idx = k.idx := rfl
@[simp] theorem Cohort.setV_pipe (k : Cohort) (n l : Nat) (w : Word) : (k.setV n l w).pipe = k.pipe := rfl
@[simp] theorem Cohort.setV_vbase (k : Cohort) (n l : Nat) (w : Word) : (k.setV n l w).vbase = k.vbase := rfl
@[simp] theorem Cohort.setV_place (k : Cohort) (n l : Nat) (w : Word) : (k.setV n l w).place = k.place := rfl
@[simp] theorem Cohort.setV_active (k : Cohort) (n l : Nat) (w : Word) : (k.setV n l w).active = k.active := rfl
@[simp] theorem Cohort.setV_detHolder (k : Cohort) (n l : Nat) (w : Word) : (k.setV n l w).detHolder = k.detHolder := rfl
@[simp] theorem Cohort.setV_lastIssue (k : Cohort) (n l : Nat) (w : Word) : (k.setV n l w).lastIssue = k.lastIssue := rfl
@[simp] theorem Cohort.setV_detIdx (k : Cohort) (n l : Nat) (w : Word) : (k.setV n l w).detIdx = k.detIdx := rfl
@[simp] theorem Cohort.setV_regs (k : Cohort) (n l : Nat) (w : Word) : (k.setV n l w).regs = put k.regs (32 * n + l) w 0 := rfl
@[simp] theorem Cohort.setV_sregs (k : Cohort) (n l : Nat) (w : Word) : (k.setV n l w).sregs = k.sregs := rfl
@[simp] theorem Cohort.setV_preds (k : Cohort) (n l : Nat) (w : Word) : (k.setV n l w).preds = k.preds := rfl
@[simp] theorem Cohort.setV_nflags (k : Cohort) (n l : Nat) (w : Word) : (k.setV n l w).nflags = k.nflags := rfl
@[simp] theorem Cohort.setV_pc (k : Cohort) (n l : Nat) (w : Word) : (k.setV n l w).pc = k.pc := rfl
@[simp] theorem Cohort.setV_meet (k : Cohort) (n l : Nat) (w : Word) : (k.setV n l w).meet = k.meet := rfl
@[simp] theorem Cohort.setV_orig (k : Cohort) (n l : Nat) (w : Word) : (k.setV n l w).orig = k.orig := rfl
@[simp] theorem Cohort.setV_live (k : Cohort) (n l : Nat) (w : Word) : (k.setV n l w).live = k.live := rfl
@[simp] theorem Cohort.setV_exited (k : Cohort) (n l : Nat) (w : Word) : (k.setV n l w).exited = k.exited := rfl
@[simp] theorem Cohort.setV_parked (k : Cohort) (n l : Nat) (w : Word) : (k.setV n l w).parked = k.parked := rfl
@[simp] theorem Cohort.setV_held (k : Cohort) (n l : Nat) (w : Word) : (k.setV n l w).held = k.held := rfl
@[simp] theorem Cohort.setV_entered (k : Cohort) (n l : Nat) (w : Word) : (k.setV n l w).entered = k.entered := rfl
@[simp] theorem Cohort.setV_lockWait (k : Cohort) (n l : Nat) (w : Word) : (k.setV n l w).lockWait = k.lockWait := rfl
@[simp] theorem Cohort.setV_store (k : Cohort) (n l : Nat) (w : Word) : (k.setV n l w).store = k.store := rfl
@[simp] theorem Cohort.setV_barHold (k : Cohort) (n l : Nat) (w : Word) : (k.setV n l w).barHold = k.barHold := rfl
@[simp] theorem Cohort.setV_tid (k : Cohort) (n l : Nat) (w : Word) : (k.setV n l w).tid = k.tid := rfl
@[simp] theorem Cohort.setV_regionOpen (k : Cohort) (n l : Nat) (w : Word) : (k.setV n l w).regionOpen = k.regionOpen := rfl
@[simp] theorem Cohort.setV_mend (k : Cohort) (n l : Nat) (w : Word) : (k.setV n l w).mend = k.mend := rfl
@[simp] theorem Cohort.setV_brm (k : Cohort) (n l : Nat) (w : Word) : (k.setV n l w).brm = k.brm := rfl
@[simp] theorem Cohort.setV_path (k : Cohort) (n l : Nat) (w : Word) : (k.setV n l w).path = k.path := rfl
@[simp] theorem Cohort.setV_memb (k : Cohort) (n l : Nat) (w : Word) : (k.setV n l w).memb = k.memb := rfl
@[simp] theorem Cohort.setV_mendWait (k : Cohort) (n l : Nat) (w : Word) : (k.setV n l w).mendWait = k.mendWait := rfl
@[simp] theorem Cohort.setV_mendOpen (k : Cohort) (n l : Nat) (w : Word) : (k.setV n l w).mendOpen = k.mendOpen := rfl
@[simp] theorem Cohort.setV_rnt0 (k : Cohort) (n l : Nat) (w : Word) : (k.setV n l w).rnt0 = k.rnt0 := rfl
@[simp] theorem Cohort.setV_rnt1 (k : Cohort) (n l : Nat) (w : Word) : (k.setV n l w).rnt1 = k.rnt1 := rfl
@[simp] theorem Cohort.setV_cf (k : Cohort) (n l : Nat) (w : Word) : (k.setV n l w).cf = k.cf := rfl
@[simp] theorem Cohort.setV_handles (k : Cohort) (n l : Nat) (w : Word) : (k.setV n l w).handles = k.handles := rfl
@[simp] theorem Cohort.setV_restart (k : Cohort) (n l : Nat) (w : Word) : (k.setV n l w).restart = k.restart := rfl
@[simp] theorem Cohort.setV_tx (k : Cohort) (n l : Nat) (w : Word) : (k.setV n l w).tx = k.tx := rfl
@[simp] theorem Cohort.setV_absent (k : Cohort) (n l : Nat) (w : Word) : (k.setV n l w).absent = k.absent := rfl
@[simp] theorem Cohort.setV_stalled (k : Cohort) (n l : Nat) (w : Word) : (k.setV n l w).stalled = k.stalled := rfl
@[simp] theorem Cohort.setV_since (k : Cohort) (n l : Nat) (w : Word) : (k.setV n l w).since = k.since := rfl
@[simp] theorem Cohort.setV_watch (k : Cohort) (n l : Nat) (w : Word) : (k.setV n l w).watch = k.watch := rfl
@[simp] theorem Cohort.setV_stallHeld (k : Cohort) (n l : Nat) (w : Word) : (k.setV n l w).stallHeld = k.stallHeld := rfl
@[simp] theorem Cohort.setV_wfSince (k : Cohort) (n l : Nat) (w : Word) : (k.setV n l w).wfSince = k.wfSince := rfl
@[simp] theorem Cohort.setV_posTime (k : Cohort) (n l : Nat) (w : Word) : (k.setV n l w).posTime = k.posTime := rfl
@[simp] theorem Cohort.setV_waitPos (k : Cohort) (n l : Nat) (w : Word) : (k.setV n l w).waitPos = k.waitPos := rfl
@[simp] theorem Cohort.setV_lost (k : Cohort) (n l : Nat) (w : Word) : (k.setV n l w).lost = k.lost := rfl
@[simp] theorem Cohort.setV_damaged (k : Cohort) (n l : Nat) (w : Word) : (k.setV n l w).damaged = k.damaged := rfl
@[simp] theorem Cohort.setV_area (k : Cohort) (n l : Nat) (w : Word) : (k.setV n l w).area = k.area := rfl
@[simp] theorem Cohort.setV_relS (k : Cohort) (n l : Nat) (w : Word) : (k.setV n l w).relS = k.relS := rfl
@[simp] theorem Cohort.setV_observed (k : Cohort) (n l : Nat) (w : Word) : (k.setV n l w).observed = k.observed := rfl

/-! ### Cohort.setP -/

@[simp] theorem Cohort.setP_block (k : Cohort) (p l : Nat) (b : Bool) : (k.setP p l b).block = k.block := rfl
@[simp] theorem Cohort.setP_idx (k : Cohort) (p l : Nat) (b : Bool) : (k.setP p l b).idx = k.idx := rfl
@[simp] theorem Cohort.setP_pipe (k : Cohort) (p l : Nat) (b : Bool) : (k.setP p l b).pipe = k.pipe := rfl
@[simp] theorem Cohort.setP_vbase (k : Cohort) (p l : Nat) (b : Bool) : (k.setP p l b).vbase = k.vbase := rfl
@[simp] theorem Cohort.setP_place (k : Cohort) (p l : Nat) (b : Bool) : (k.setP p l b).place = k.place := rfl
@[simp] theorem Cohort.setP_active (k : Cohort) (p l : Nat) (b : Bool) : (k.setP p l b).active = k.active := rfl
@[simp] theorem Cohort.setP_detHolder (k : Cohort) (p l : Nat) (b : Bool) : (k.setP p l b).detHolder = k.detHolder := rfl
@[simp] theorem Cohort.setP_lastIssue (k : Cohort) (p l : Nat) (b : Bool) : (k.setP p l b).lastIssue = k.lastIssue := rfl
@[simp] theorem Cohort.setP_detIdx (k : Cohort) (p l : Nat) (b : Bool) : (k.setP p l b).detIdx = k.detIdx := rfl
@[simp] theorem Cohort.setP_regs (k : Cohort) (p l : Nat) (b : Bool) : (k.setP p l b).regs = k.regs := rfl
@[simp] theorem Cohort.setP_dirty (k : Cohort) (p l : Nat) (b : Bool) : (k.setP p l b).dirty = k.dirty := rfl
@[simp] theorem Cohort.setP_sregs (k : Cohort) (p l : Nat) (b : Bool) : (k.setP p l b).sregs = k.sregs := rfl
@[simp] theorem Cohort.setP_nflags (k : Cohort) (p l : Nat) (b : Bool) : (k.setP p l b).nflags = k.nflags := rfl
@[simp] theorem Cohort.setP_pc (k : Cohort) (p l : Nat) (b : Bool) : (k.setP p l b).pc = k.pc := rfl
@[simp] theorem Cohort.setP_meet (k : Cohort) (p l : Nat) (b : Bool) : (k.setP p l b).meet = k.meet := rfl
@[simp] theorem Cohort.setP_orig (k : Cohort) (p l : Nat) (b : Bool) : (k.setP p l b).orig = k.orig := rfl
@[simp] theorem Cohort.setP_live (k : Cohort) (p l : Nat) (b : Bool) : (k.setP p l b).live = k.live := rfl
@[simp] theorem Cohort.setP_exited (k : Cohort) (p l : Nat) (b : Bool) : (k.setP p l b).exited = k.exited := rfl
@[simp] theorem Cohort.setP_parked (k : Cohort) (p l : Nat) (b : Bool) : (k.setP p l b).parked = k.parked := rfl
@[simp] theorem Cohort.setP_held (k : Cohort) (p l : Nat) (b : Bool) : (k.setP p l b).held = k.held := rfl
@[simp] theorem Cohort.setP_entered (k : Cohort) (p l : Nat) (b : Bool) : (k.setP p l b).entered = k.entered := rfl
@[simp] theorem Cohort.setP_lockWait (k : Cohort) (p l : Nat) (b : Bool) : (k.setP p l b).lockWait = k.lockWait := rfl
@[simp] theorem Cohort.setP_store (k : Cohort) (p l : Nat) (b : Bool) : (k.setP p l b).store = k.store := rfl
@[simp] theorem Cohort.setP_barHold (k : Cohort) (p l : Nat) (b : Bool) : (k.setP p l b).barHold = k.barHold := rfl
@[simp] theorem Cohort.setP_tid (k : Cohort) (p l : Nat) (b : Bool) : (k.setP p l b).tid = k.tid := rfl
@[simp] theorem Cohort.setP_regionOpen (k : Cohort) (p l : Nat) (b : Bool) : (k.setP p l b).regionOpen = k.regionOpen := rfl
@[simp] theorem Cohort.setP_mend (k : Cohort) (p l : Nat) (b : Bool) : (k.setP p l b).mend = k.mend := rfl
@[simp] theorem Cohort.setP_brm (k : Cohort) (p l : Nat) (b : Bool) : (k.setP p l b).brm = k.brm := rfl
@[simp] theorem Cohort.setP_path (k : Cohort) (p l : Nat) (b : Bool) : (k.setP p l b).path = k.path := rfl
@[simp] theorem Cohort.setP_memb (k : Cohort) (p l : Nat) (b : Bool) : (k.setP p l b).memb = k.memb := rfl
@[simp] theorem Cohort.setP_mendWait (k : Cohort) (p l : Nat) (b : Bool) : (k.setP p l b).mendWait = k.mendWait := rfl
@[simp] theorem Cohort.setP_mendOpen (k : Cohort) (p l : Nat) (b : Bool) : (k.setP p l b).mendOpen = k.mendOpen := rfl
@[simp] theorem Cohort.setP_rnt0 (k : Cohort) (p l : Nat) (b : Bool) : (k.setP p l b).rnt0 = k.rnt0 := rfl
@[simp] theorem Cohort.setP_rnt1 (k : Cohort) (p l : Nat) (b : Bool) : (k.setP p l b).rnt1 = k.rnt1 := rfl
@[simp] theorem Cohort.setP_cf (k : Cohort) (p l : Nat) (b : Bool) : (k.setP p l b).cf = k.cf := rfl
@[simp] theorem Cohort.setP_handles (k : Cohort) (p l : Nat) (b : Bool) : (k.setP p l b).handles = k.handles := rfl
@[simp] theorem Cohort.setP_restart (k : Cohort) (p l : Nat) (b : Bool) : (k.setP p l b).restart = k.restart := rfl
@[simp] theorem Cohort.setP_tx (k : Cohort) (p l : Nat) (b : Bool) : (k.setP p l b).tx = k.tx := rfl
@[simp] theorem Cohort.setP_absent (k : Cohort) (p l : Nat) (b : Bool) : (k.setP p l b).absent = k.absent := rfl
@[simp] theorem Cohort.setP_stalled (k : Cohort) (p l : Nat) (b : Bool) : (k.setP p l b).stalled = k.stalled := rfl
@[simp] theorem Cohort.setP_since (k : Cohort) (p l : Nat) (b : Bool) : (k.setP p l b).since = k.since := rfl
@[simp] theorem Cohort.setP_watch (k : Cohort) (p l : Nat) (b : Bool) : (k.setP p l b).watch = k.watch := rfl
@[simp] theorem Cohort.setP_stallHeld (k : Cohort) (p l : Nat) (b : Bool) : (k.setP p l b).stallHeld = k.stallHeld := rfl
@[simp] theorem Cohort.setP_wfSince (k : Cohort) (p l : Nat) (b : Bool) : (k.setP p l b).wfSince = k.wfSince := rfl
@[simp] theorem Cohort.setP_posTime (k : Cohort) (p l : Nat) (b : Bool) : (k.setP p l b).posTime = k.posTime := rfl
@[simp] theorem Cohort.setP_waitPos (k : Cohort) (p l : Nat) (b : Bool) : (k.setP p l b).waitPos = k.waitPos := rfl
@[simp] theorem Cohort.setP_lost (k : Cohort) (p l : Nat) (b : Bool) : (k.setP p l b).lost = k.lost := rfl
@[simp] theorem Cohort.setP_damaged (k : Cohort) (p l : Nat) (b : Bool) : (k.setP p l b).damaged = k.damaged := rfl
@[simp] theorem Cohort.setP_area (k : Cohort) (p l : Nat) (b : Bool) : (k.setP p l b).area = k.area := rfl
@[simp] theorem Cohort.setP_relS (k : Cohort) (p l : Nat) (b : Bool) : (k.setP p l b).relS = k.relS := rfl
@[simp] theorem Cohort.setP_observed (k : Cohort) (p l : Nat) (b : Bool) : (k.setP p l b).observed = k.observed := rfl

/-! ### Cohort.back -/

@[simp] theorem Cohort.back_block (k : Cohort) (t : Nat) : (k.back t).block = k.block := rfl
@[simp] theorem Cohort.back_idx (k : Cohort) (t : Nat) : (k.back t).idx = k.idx := rfl
@[simp] theorem Cohort.back_pipe (k : Cohort) (t : Nat) : (k.back t).pipe = k.pipe := rfl
@[simp] theorem Cohort.back_vbase (k : Cohort) (t : Nat) : (k.back t).vbase = k.vbase := rfl
@[simp] theorem Cohort.back_place (k : Cohort) (t : Nat) : (k.back t).place = .resident := rfl
@[simp] theorem Cohort.back_active (k : Cohort) (t : Nat) : (k.back t).active = k.active := rfl
@[simp] theorem Cohort.back_detHolder (k : Cohort) (t : Nat) : (k.back t).detHolder = k.detHolder := rfl
@[simp] theorem Cohort.back_lastIssue (k : Cohort) (t : Nat) : (k.back t).lastIssue = k.lastIssue := rfl
@[simp] theorem Cohort.back_detIdx (k : Cohort) (t : Nat) : (k.back t).detIdx = k.detIdx := rfl
@[simp] theorem Cohort.back_regs (k : Cohort) (t : Nat) : (k.back t).regs = k.regs := rfl
@[simp] theorem Cohort.back_dirty (k : Cohort) (t : Nat) : (k.back t).dirty = k.dirty := rfl
@[simp] theorem Cohort.back_sregs (k : Cohort) (t : Nat) : (k.back t).sregs = k.sregs := rfl
@[simp] theorem Cohort.back_preds (k : Cohort) (t : Nat) : (k.back t).preds = k.preds := rfl
@[simp] theorem Cohort.back_nflags (k : Cohort) (t : Nat) : (k.back t).nflags = k.nflags := rfl
@[simp] theorem Cohort.back_pc (k : Cohort) (t : Nat) : (k.back t).pc = k.pc := rfl
@[simp] theorem Cohort.back_meet (k : Cohort) (t : Nat) : (k.back t).meet = k.meet := rfl
@[simp] theorem Cohort.back_orig (k : Cohort) (t : Nat) : (k.back t).orig = k.orig := rfl
@[simp] theorem Cohort.back_live (k : Cohort) (t : Nat) : (k.back t).live = k.live := rfl
@[simp] theorem Cohort.back_exited (k : Cohort) (t : Nat) : (k.back t).exited = k.exited := rfl
@[simp] theorem Cohort.back_parked (k : Cohort) (t : Nat) : (k.back t).parked = k.parked := rfl
@[simp] theorem Cohort.back_held (k : Cohort) (t : Nat) : (k.back t).held = k.held := rfl
@[simp] theorem Cohort.back_entered (k : Cohort) (t : Nat) : (k.back t).entered = k.entered := rfl
@[simp] theorem Cohort.back_lockWait (k : Cohort) (t : Nat) : (k.back t).lockWait = k.lockWait := rfl
@[simp] theorem Cohort.back_store (k : Cohort) (t : Nat) : (k.back t).store = k.store := rfl
@[simp] theorem Cohort.back_barHold (k : Cohort) (t : Nat) : (k.back t).barHold = k.barHold := rfl
@[simp] theorem Cohort.back_tid (k : Cohort) (t : Nat) : (k.back t).tid = k.tid := rfl
@[simp] theorem Cohort.back_regionOpen (k : Cohort) (t : Nat) : (k.back t).regionOpen = k.regionOpen := rfl
@[simp] theorem Cohort.back_mend (k : Cohort) (t : Nat) : (k.back t).mend = k.mend := rfl
@[simp] theorem Cohort.back_brm (k : Cohort) (t : Nat) : (k.back t).brm = k.brm := rfl
@[simp] theorem Cohort.back_path (k : Cohort) (t : Nat) : (k.back t).path = k.path := rfl
@[simp] theorem Cohort.back_memb (k : Cohort) (t : Nat) : (k.back t).memb = k.memb := rfl
@[simp] theorem Cohort.back_mendWait (k : Cohort) (t : Nat) : (k.back t).mendWait = k.mendWait := rfl
@[simp] theorem Cohort.back_mendOpen (k : Cohort) (t : Nat) : (k.back t).mendOpen = k.mendOpen := rfl
@[simp] theorem Cohort.back_rnt0 (k : Cohort) (t : Nat) : (k.back t).rnt0 = k.rnt0 := rfl
@[simp] theorem Cohort.back_rnt1 (k : Cohort) (t : Nat) : (k.back t).rnt1 = k.rnt1 := rfl
@[simp] theorem Cohort.back_cf (k : Cohort) (t : Nat) : (k.back t).cf = k.cf := rfl
@[simp] theorem Cohort.back_handles (k : Cohort) (t : Nat) : (k.back t).handles = k.handles := rfl
@[simp] theorem Cohort.back_restart (k : Cohort) (t : Nat) : (k.back t).restart = k.restart := rfl
@[simp] theorem Cohort.back_tx (k : Cohort) (t : Nat) : (k.back t).tx = k.tx := rfl
@[simp] theorem Cohort.back_absent (k : Cohort) (t : Nat) : (k.back t).absent = k.absent := rfl
@[simp] theorem Cohort.back_stalled (k : Cohort) (t : Nat) : (k.back t).stalled = k.stalled := rfl
@[simp] theorem Cohort.back_stallHeld (k : Cohort) (t : Nat) : (k.back t).stallHeld = k.stallHeld := rfl
@[simp] theorem Cohort.back_posTime (k : Cohort) (t : Nat) : (k.back t).posTime = t := rfl
@[simp] theorem Cohort.back_waitPos (k : Cohort) (t : Nat) : (k.back t).waitPos = k.waitPos := rfl
@[simp] theorem Cohort.back_lost (k : Cohort) (t : Nat) : (k.back t).lost = k.lost := rfl
@[simp] theorem Cohort.back_damaged (k : Cohort) (t : Nat) : (k.back t).damaged = k.damaged := rfl
@[simp] theorem Cohort.back_area (k : Cohort) (t : Nat) : (k.back t).area = k.area := rfl
@[simp] theorem Cohort.back_relS (k : Cohort) (t : Nat) : (k.back t).relS = k.relS := rfl
@[simp] theorem Cohort.back_observed (k : Cohort) (t : Nat) : (k.back t).observed = k.observed := rfl

/-! ### Cohort.flushRegs -/

@[simp] theorem Cohort.flushRegs_block (k : Cohort) : (k.flushRegs).block = k.block := rfl
@[simp] theorem Cohort.flushRegs_idx (k : Cohort) : (k.flushRegs).idx = k.idx := rfl
@[simp] theorem Cohort.flushRegs_pipe (k : Cohort) : (k.flushRegs).pipe = k.pipe := rfl
@[simp] theorem Cohort.flushRegs_vbase (k : Cohort) : (k.flushRegs).vbase = k.vbase := rfl
@[simp] theorem Cohort.flushRegs_place (k : Cohort) : (k.flushRegs).place = k.place := rfl
@[simp] theorem Cohort.flushRegs_active (k : Cohort) : (k.flushRegs).active = k.active := rfl
@[simp] theorem Cohort.flushRegs_detHolder (k : Cohort) : (k.flushRegs).detHolder = k.detHolder := rfl
@[simp] theorem Cohort.flushRegs_lastIssue (k : Cohort) : (k.flushRegs).lastIssue = k.lastIssue := rfl
@[simp] theorem Cohort.flushRegs_detIdx (k : Cohort) : (k.flushRegs).detIdx = k.detIdx := rfl
@[simp] theorem Cohort.flushRegs_regs (k : Cohort) : (k.flushRegs).regs = k.regs := rfl
@[simp] theorem Cohort.flushRegs_dirty (k : Cohort) : (k.flushRegs).dirty = [] := rfl
@[simp] theorem Cohort.flushRegs_sregs (k : Cohort) : (k.flushRegs).sregs = k.sregs := rfl
@[simp] theorem Cohort.flushRegs_preds (k : Cohort) : (k.flushRegs).preds = k.preds := rfl
@[simp] theorem Cohort.flushRegs_nflags (k : Cohort) : (k.flushRegs).nflags = k.nflags := rfl
@[simp] theorem Cohort.flushRegs_pc (k : Cohort) : (k.flushRegs).pc = k.pc := rfl
@[simp] theorem Cohort.flushRegs_meet (k : Cohort) : (k.flushRegs).meet = k.meet := rfl
@[simp] theorem Cohort.flushRegs_orig (k : Cohort) : (k.flushRegs).orig = k.orig := rfl
@[simp] theorem Cohort.flushRegs_live (k : Cohort) : (k.flushRegs).live = k.live := rfl
@[simp] theorem Cohort.flushRegs_exited (k : Cohort) : (k.flushRegs).exited = k.exited := rfl
@[simp] theorem Cohort.flushRegs_parked (k : Cohort) : (k.flushRegs).parked = k.parked := rfl
@[simp] theorem Cohort.flushRegs_held (k : Cohort) : (k.flushRegs).held = k.held := rfl
@[simp] theorem Cohort.flushRegs_entered (k : Cohort) : (k.flushRegs).entered = k.entered := rfl
@[simp] theorem Cohort.flushRegs_lockWait (k : Cohort) : (k.flushRegs).lockWait = k.lockWait := rfl
@[simp] theorem Cohort.flushRegs_store (k : Cohort) : (k.flushRegs).store = k.store := rfl
@[simp] theorem Cohort.flushRegs_barHold (k : Cohort) : (k.flushRegs).barHold = k.barHold := rfl
@[simp] theorem Cohort.flushRegs_tid (k : Cohort) : (k.flushRegs).tid = k.tid := rfl
@[simp] theorem Cohort.flushRegs_regionOpen (k : Cohort) : (k.flushRegs).regionOpen = k.regionOpen := rfl
@[simp] theorem Cohort.flushRegs_mend (k : Cohort) : (k.flushRegs).mend = k.mend := rfl
@[simp] theorem Cohort.flushRegs_brm (k : Cohort) : (k.flushRegs).brm = k.brm := rfl
@[simp] theorem Cohort.flushRegs_path (k : Cohort) : (k.flushRegs).path = k.path := rfl
@[simp] theorem Cohort.flushRegs_memb (k : Cohort) : (k.flushRegs).memb = k.memb := rfl
@[simp] theorem Cohort.flushRegs_mendWait (k : Cohort) : (k.flushRegs).mendWait = k.mendWait := rfl
@[simp] theorem Cohort.flushRegs_mendOpen (k : Cohort) : (k.flushRegs).mendOpen = k.mendOpen := rfl
@[simp] theorem Cohort.flushRegs_rnt0 (k : Cohort) : (k.flushRegs).rnt0 = k.rnt0 := rfl
@[simp] theorem Cohort.flushRegs_rnt1 (k : Cohort) : (k.flushRegs).rnt1 = k.rnt1 := rfl
@[simp] theorem Cohort.flushRegs_cf (k : Cohort) : (k.flushRegs).cf = k.cf := rfl
@[simp] theorem Cohort.flushRegs_handles (k : Cohort) : (k.flushRegs).handles = k.handles := rfl
@[simp] theorem Cohort.flushRegs_restart (k : Cohort) : (k.flushRegs).restart = k.restart := rfl
@[simp] theorem Cohort.flushRegs_tx (k : Cohort) : (k.flushRegs).tx = k.tx := rfl
@[simp] theorem Cohort.flushRegs_absent (k : Cohort) : (k.flushRegs).absent = k.absent := rfl
@[simp] theorem Cohort.flushRegs_stalled (k : Cohort) : (k.flushRegs).stalled = k.stalled := rfl
@[simp] theorem Cohort.flushRegs_since (k : Cohort) : (k.flushRegs).since = k.since := rfl
@[simp] theorem Cohort.flushRegs_watch (k : Cohort) : (k.flushRegs).watch = k.watch := rfl
@[simp] theorem Cohort.flushRegs_stallHeld (k : Cohort) : (k.flushRegs).stallHeld = k.stallHeld := rfl
@[simp] theorem Cohort.flushRegs_wfSince (k : Cohort) : (k.flushRegs).wfSince = k.wfSince := rfl
@[simp] theorem Cohort.flushRegs_posTime (k : Cohort) : (k.flushRegs).posTime = k.posTime := rfl
@[simp] theorem Cohort.flushRegs_waitPos (k : Cohort) : (k.flushRegs).waitPos = k.waitPos := rfl
@[simp] theorem Cohort.flushRegs_lost (k : Cohort) : (k.flushRegs).lost = k.lost := rfl
@[simp] theorem Cohort.flushRegs_damaged (k : Cohort) : (k.flushRegs).damaged = k.damaged := rfl
@[simp] theorem Cohort.flushRegs_area (k : Cohort) : (k.flushRegs).area = k.area := rfl
@[simp] theorem Cohort.flushRegs_relS (k : Cohort) : (k.flushRegs).relS = k.relS := rfl
@[simp] theorem Cohort.flushRegs_observed (k : Cohort) : (k.flushRegs).observed = k.observed := rfl

/-! ### Cohort.sees -/

@[simp] theorem Cohort.sees_block (k : Cohort) (r : List Nat) : (k.sees r).block = k.block := rfl
@[simp] theorem Cohort.sees_idx (k : Cohort) (r : List Nat) : (k.sees r).idx = k.idx := rfl
@[simp] theorem Cohort.sees_pipe (k : Cohort) (r : List Nat) : (k.sees r).pipe = k.pipe := rfl
@[simp] theorem Cohort.sees_vbase (k : Cohort) (r : List Nat) : (k.sees r).vbase = k.vbase := rfl
@[simp] theorem Cohort.sees_place (k : Cohort) (r : List Nat) : (k.sees r).place = k.place := rfl
@[simp] theorem Cohort.sees_active (k : Cohort) (r : List Nat) : (k.sees r).active = k.active := rfl
@[simp] theorem Cohort.sees_detHolder (k : Cohort) (r : List Nat) : (k.sees r).detHolder = k.detHolder := rfl
@[simp] theorem Cohort.sees_lastIssue (k : Cohort) (r : List Nat) : (k.sees r).lastIssue = k.lastIssue := rfl
@[simp] theorem Cohort.sees_detIdx (k : Cohort) (r : List Nat) : (k.sees r).detIdx = k.detIdx := rfl
@[simp] theorem Cohort.sees_regs (k : Cohort) (r : List Nat) : (k.sees r).regs = k.regs := rfl
@[simp] theorem Cohort.sees_dirty (k : Cohort) (r : List Nat) : (k.sees r).dirty = k.dirty := rfl
@[simp] theorem Cohort.sees_sregs (k : Cohort) (r : List Nat) : (k.sees r).sregs = k.sregs := rfl
@[simp] theorem Cohort.sees_preds (k : Cohort) (r : List Nat) : (k.sees r).preds = k.preds := rfl
@[simp] theorem Cohort.sees_nflags (k : Cohort) (r : List Nat) : (k.sees r).nflags = k.nflags := rfl
@[simp] theorem Cohort.sees_pc (k : Cohort) (r : List Nat) : (k.sees r).pc = k.pc := rfl
@[simp] theorem Cohort.sees_meet (k : Cohort) (r : List Nat) : (k.sees r).meet = k.meet := rfl
@[simp] theorem Cohort.sees_orig (k : Cohort) (r : List Nat) : (k.sees r).orig = k.orig := rfl
@[simp] theorem Cohort.sees_live (k : Cohort) (r : List Nat) : (k.sees r).live = k.live := rfl
@[simp] theorem Cohort.sees_exited (k : Cohort) (r : List Nat) : (k.sees r).exited = k.exited := rfl
@[simp] theorem Cohort.sees_parked (k : Cohort) (r : List Nat) : (k.sees r).parked = k.parked := rfl
@[simp] theorem Cohort.sees_held (k : Cohort) (r : List Nat) : (k.sees r).held = k.held := rfl
@[simp] theorem Cohort.sees_entered (k : Cohort) (r : List Nat) : (k.sees r).entered = k.entered := rfl
@[simp] theorem Cohort.sees_lockWait (k : Cohort) (r : List Nat) : (k.sees r).lockWait = k.lockWait := rfl
@[simp] theorem Cohort.sees_store (k : Cohort) (r : List Nat) : (k.sees r).store = k.store := rfl
@[simp] theorem Cohort.sees_barHold (k : Cohort) (r : List Nat) : (k.sees r).barHold = k.barHold := rfl
@[simp] theorem Cohort.sees_tid (k : Cohort) (r : List Nat) : (k.sees r).tid = k.tid := rfl
@[simp] theorem Cohort.sees_regionOpen (k : Cohort) (r : List Nat) : (k.sees r).regionOpen = k.regionOpen := rfl
@[simp] theorem Cohort.sees_mend (k : Cohort) (r : List Nat) : (k.sees r).mend = k.mend := rfl
@[simp] theorem Cohort.sees_brm (k : Cohort) (r : List Nat) : (k.sees r).brm = k.brm := rfl
@[simp] theorem Cohort.sees_path (k : Cohort) (r : List Nat) : (k.sees r).path = k.path := rfl
@[simp] theorem Cohort.sees_memb (k : Cohort) (r : List Nat) : (k.sees r).memb = k.memb := rfl
@[simp] theorem Cohort.sees_mendWait (k : Cohort) (r : List Nat) : (k.sees r).mendWait = k.mendWait := rfl
@[simp] theorem Cohort.sees_mendOpen (k : Cohort) (r : List Nat) : (k.sees r).mendOpen = k.mendOpen := rfl
@[simp] theorem Cohort.sees_rnt0 (k : Cohort) (r : List Nat) : (k.sees r).rnt0 = k.rnt0 := rfl
@[simp] theorem Cohort.sees_rnt1 (k : Cohort) (r : List Nat) : (k.sees r).rnt1 = k.rnt1 := rfl
@[simp] theorem Cohort.sees_cf (k : Cohort) (r : List Nat) : (k.sees r).cf = k.cf := rfl
@[simp] theorem Cohort.sees_handles (k : Cohort) (r : List Nat) : (k.sees r).handles = k.handles := rfl
@[simp] theorem Cohort.sees_restart (k : Cohort) (r : List Nat) : (k.sees r).restart = k.restart := rfl
@[simp] theorem Cohort.sees_tx (k : Cohort) (r : List Nat) : (k.sees r).tx = k.tx := rfl
@[simp] theorem Cohort.sees_absent (k : Cohort) (r : List Nat) : (k.sees r).absent = k.absent := rfl
@[simp] theorem Cohort.sees_stalled (k : Cohort) (r : List Nat) : (k.sees r).stalled = k.stalled := rfl
@[simp] theorem Cohort.sees_since (k : Cohort) (r : List Nat) : (k.sees r).since = k.since := rfl
@[simp] theorem Cohort.sees_watch (k : Cohort) (r : List Nat) : (k.sees r).watch = k.watch := rfl
@[simp] theorem Cohort.sees_stallHeld (k : Cohort) (r : List Nat) : (k.sees r).stallHeld = k.stallHeld := rfl
@[simp] theorem Cohort.sees_wfSince (k : Cohort) (r : List Nat) : (k.sees r).wfSince = k.wfSince := rfl
@[simp] theorem Cohort.sees_posTime (k : Cohort) (r : List Nat) : (k.sees r).posTime = k.posTime := rfl
@[simp] theorem Cohort.sees_waitPos (k : Cohort) (r : List Nat) : (k.sees r).waitPos = k.waitPos := rfl
@[simp] theorem Cohort.sees_lost (k : Cohort) (r : List Nat) : (k.sees r).lost = k.lost := rfl
@[simp] theorem Cohort.sees_damaged (k : Cohort) (r : List Nat) : (k.sees r).damaged = k.damaged := rfl
@[simp] theorem Cohort.sees_area (k : Cohort) (r : List Nat) : (k.sees r).area = k.area := rfl
@[simp] theorem Cohort.sees_relS (k : Cohort) (r : List Nat) : (k.sees r).relS = k.relS := rfl

/-! ### Cohort.arriveLane -/

@[simp] theorem Cohort.arriveLane_block (k : Cohort) (l : Nat) (p : DWord) (b : Bool) : (k.arriveLane l p b).block = k.block := rfl
@[simp] theorem Cohort.arriveLane_idx (k : Cohort) (l : Nat) (p : DWord) (b : Bool) : (k.arriveLane l p b).idx = k.idx := rfl
@[simp] theorem Cohort.arriveLane_pipe (k : Cohort) (l : Nat) (p : DWord) (b : Bool) : (k.arriveLane l p b).pipe = k.pipe := rfl
@[simp] theorem Cohort.arriveLane_vbase (k : Cohort) (l : Nat) (p : DWord) (b : Bool) : (k.arriveLane l p b).vbase = k.vbase := rfl
@[simp] theorem Cohort.arriveLane_place (k : Cohort) (l : Nat) (p : DWord) (b : Bool) : (k.arriveLane l p b).place = k.place := rfl
@[simp] theorem Cohort.arriveLane_active (k : Cohort) (l : Nat) (p : DWord) (b : Bool) : (k.arriveLane l p b).active = k.active := rfl
@[simp] theorem Cohort.arriveLane_detHolder (k : Cohort) (l : Nat) (p : DWord) (b : Bool) : (k.arriveLane l p b).detHolder = k.detHolder := rfl
@[simp] theorem Cohort.arriveLane_lastIssue (k : Cohort) (l : Nat) (p : DWord) (b : Bool) : (k.arriveLane l p b).lastIssue = k.lastIssue := rfl
@[simp] theorem Cohort.arriveLane_detIdx (k : Cohort) (l : Nat) (p : DWord) (b : Bool) : (k.arriveLane l p b).detIdx = k.detIdx := rfl
@[simp] theorem Cohort.arriveLane_regs (k : Cohort) (l : Nat) (p : DWord) (b : Bool) : (k.arriveLane l p b).regs = k.regs := rfl
@[simp] theorem Cohort.arriveLane_dirty (k : Cohort) (l : Nat) (p : DWord) (b : Bool) : (k.arriveLane l p b).dirty = k.dirty := rfl
@[simp] theorem Cohort.arriveLane_sregs (k : Cohort) (l : Nat) (p : DWord) (b : Bool) : (k.arriveLane l p b).sregs = k.sregs := rfl
@[simp] theorem Cohort.arriveLane_preds (k : Cohort) (l : Nat) (p : DWord) (b : Bool) : (k.arriveLane l p b).preds = k.preds := rfl
@[simp] theorem Cohort.arriveLane_nflags (k : Cohort) (l : Nat) (p : DWord) (b : Bool) : (k.arriveLane l p b).nflags = k.nflags := rfl
@[simp] theorem Cohort.arriveLane_pc (k : Cohort) (l : Nat) (p : DWord) (b : Bool) : (k.arriveLane l p b).pc = put k.pc l p 0 := rfl
@[simp] theorem Cohort.arriveLane_meet (k : Cohort) (l : Nat) (p : DWord) (b : Bool) : (k.arriveLane l p b).meet = k.meet := rfl
@[simp] theorem Cohort.arriveLane_orig (k : Cohort) (l : Nat) (p : DWord) (b : Bool) : (k.arriveLane l p b).orig = k.orig := rfl
@[simp] theorem Cohort.arriveLane_live (k : Cohort) (l : Nat) (p : DWord) (b : Bool) : (k.arriveLane l p b).live = k.live := rfl
@[simp] theorem Cohort.arriveLane_exited (k : Cohort) (l : Nat) (p : DWord) (b : Bool) : (k.arriveLane l p b).exited = k.exited := rfl
@[simp] theorem Cohort.arriveLane_parked (k : Cohort) (l : Nat) (p : DWord) (b : Bool) : (k.arriveLane l p b).parked = k.parked := rfl
@[simp] theorem Cohort.arriveLane_lockWait (k : Cohort) (l : Nat) (p : DWord) (b : Bool) : (k.arriveLane l p b).lockWait = k.lockWait := rfl
@[simp] theorem Cohort.arriveLane_store (k : Cohort) (l : Nat) (p : DWord) (b : Bool) : (k.arriveLane l p b).store = k.store := rfl
@[simp] theorem Cohort.arriveLane_barHold (k : Cohort) (l : Nat) (p : DWord) (b : Bool) : (k.arriveLane l p b).barHold = k.barHold := rfl
@[simp] theorem Cohort.arriveLane_tid (k : Cohort) (l : Nat) (p : DWord) (b : Bool) : (k.arriveLane l p b).tid = k.tid := rfl
@[simp] theorem Cohort.arriveLane_regionOpen (k : Cohort) (l : Nat) (p : DWord) (b : Bool) : (k.arriveLane l p b).regionOpen = k.regionOpen := rfl
@[simp] theorem Cohort.arriveLane_mend (k : Cohort) (l : Nat) (p : DWord) (b : Bool) : (k.arriveLane l p b).mend = k.mend := rfl
@[simp] theorem Cohort.arriveLane_brm (k : Cohort) (l : Nat) (p : DWord) (b : Bool) : (k.arriveLane l p b).brm = k.brm := rfl
@[simp] theorem Cohort.arriveLane_path (k : Cohort) (l : Nat) (p : DWord) (b : Bool) : (k.arriveLane l p b).path = k.path := rfl
@[simp] theorem Cohort.arriveLane_memb (k : Cohort) (l : Nat) (p : DWord) (b : Bool) : (k.arriveLane l p b).memb = k.memb := rfl
@[simp] theorem Cohort.arriveLane_mendWait (k : Cohort) (l : Nat) (p : DWord) (b : Bool) : (k.arriveLane l p b).mendWait = k.mendWait := rfl
@[simp] theorem Cohort.arriveLane_mendOpen (k : Cohort) (l : Nat) (p : DWord) (b : Bool) : (k.arriveLane l p b).mendOpen = k.mendOpen := rfl
@[simp] theorem Cohort.arriveLane_rnt0 (k : Cohort) (l : Nat) (p : DWord) (b : Bool) : (k.arriveLane l p b).rnt0 = k.rnt0 := rfl
@[simp] theorem Cohort.arriveLane_rnt1 (k : Cohort) (l : Nat) (p : DWord) (b : Bool) : (k.arriveLane l p b).rnt1 = k.rnt1 := rfl
@[simp] theorem Cohort.arriveLane_cf (k : Cohort) (l : Nat) (p : DWord) (b : Bool) : (k.arriveLane l p b).cf = k.cf := rfl
@[simp] theorem Cohort.arriveLane_handles (k : Cohort) (l : Nat) (p : DWord) (b : Bool) : (k.arriveLane l p b).handles = k.handles := rfl
@[simp] theorem Cohort.arriveLane_restart (k : Cohort) (l : Nat) (p : DWord) (b : Bool) : (k.arriveLane l p b).restart = k.restart := rfl
@[simp] theorem Cohort.arriveLane_tx (k : Cohort) (l : Nat) (p : DWord) (b : Bool) : (k.arriveLane l p b).tx = k.tx := rfl
@[simp] theorem Cohort.arriveLane_absent (k : Cohort) (l : Nat) (p : DWord) (b : Bool) : (k.arriveLane l p b).absent = k.absent := rfl
@[simp] theorem Cohort.arriveLane_stalled (k : Cohort) (l : Nat) (p : DWord) (b : Bool) : (k.arriveLane l p b).stalled = k.stalled := rfl
@[simp] theorem Cohort.arriveLane_since (k : Cohort) (l : Nat) (p : DWord) (b : Bool) : (k.arriveLane l p b).since = k.since := rfl
@[simp] theorem Cohort.arriveLane_watch (k : Cohort) (l : Nat) (p : DWord) (b : Bool) : (k.arriveLane l p b).watch = k.watch := rfl
@[simp] theorem Cohort.arriveLane_stallHeld (k : Cohort) (l : Nat) (p : DWord) (b : Bool) : (k.arriveLane l p b).stallHeld = k.stallHeld := rfl
@[simp] theorem Cohort.arriveLane_wfSince (k : Cohort) (l : Nat) (p : DWord) (b : Bool) : (k.arriveLane l p b).wfSince = k.wfSince := rfl
@[simp] theorem Cohort.arriveLane_posTime (k : Cohort) (l : Nat) (p : DWord) (b : Bool) : (k.arriveLane l p b).posTime = k.posTime := rfl
@[simp] theorem Cohort.arriveLane_waitPos (k : Cohort) (l : Nat) (p : DWord) (b : Bool) : (k.arriveLane l p b).waitPos = k.waitPos := rfl
@[simp] theorem Cohort.arriveLane_lost (k : Cohort) (l : Nat) (p : DWord) (b : Bool) : (k.arriveLane l p b).lost = k.lost := rfl
@[simp] theorem Cohort.arriveLane_damaged (k : Cohort) (l : Nat) (p : DWord) (b : Bool) : (k.arriveLane l p b).damaged = k.damaged := rfl
@[simp] theorem Cohort.arriveLane_area (k : Cohort) (l : Nat) (p : DWord) (b : Bool) : (k.arriveLane l p b).area = k.area := rfl
@[simp] theorem Cohort.arriveLane_relS (k : Cohort) (l : Nat) (p : DWord) (b : Bool) : (k.arriveLane l p b).relS = k.relS := rfl
@[simp] theorem Cohort.arriveLane_observed (k : Cohort) (l : Nat) (p : DWord) (b : Bool) : (k.arriveLane l p b).observed = k.observed := rfl

/-! ### Cohort.setS -/

@[simp] theorem Cohort.setS_block (k : Cohort) (n : Nat) (v : DWord) : (k.setS n v).block = k.block := by unfold Cohort.setS; split <;> rfl
@[simp] theorem Cohort.setS_idx (k : Cohort) (n : Nat) (v : DWord) : (k.setS n v).idx = k.idx := by unfold Cohort.setS; split <;> rfl
@[simp] theorem Cohort.setS_pipe (k : Cohort) (n : Nat) (v : DWord) : (k.setS n v).pipe = k.pipe := by unfold Cohort.setS; split <;> rfl
@[simp] theorem Cohort.setS_vbase (k : Cohort) (n : Nat) (v : DWord) : (k.setS n v).vbase = k.vbase := by unfold Cohort.setS; split <;> rfl
@[simp] theorem Cohort.setS_place (k : Cohort) (n : Nat) (v : DWord) : (k.setS n v).place = k.place := by unfold Cohort.setS; split <;> rfl
@[simp] theorem Cohort.setS_active (k : Cohort) (n : Nat) (v : DWord) : (k.setS n v).active = k.active := by unfold Cohort.setS; split <;> rfl
@[simp] theorem Cohort.setS_detHolder (k : Cohort) (n : Nat) (v : DWord) : (k.setS n v).detHolder = k.detHolder := by unfold Cohort.setS; split <;> rfl
@[simp] theorem Cohort.setS_lastIssue (k : Cohort) (n : Nat) (v : DWord) : (k.setS n v).lastIssue = k.lastIssue := by unfold Cohort.setS; split <;> rfl
@[simp] theorem Cohort.setS_detIdx (k : Cohort) (n : Nat) (v : DWord) : (k.setS n v).detIdx = k.detIdx := by unfold Cohort.setS; split <;> rfl
@[simp] theorem Cohort.setS_regs (k : Cohort) (n : Nat) (v : DWord) : (k.setS n v).regs = k.regs := by unfold Cohort.setS; split <;> rfl
@[simp] theorem Cohort.setS_dirty (k : Cohort) (n : Nat) (v : DWord) : (k.setS n v).dirty = k.dirty := by unfold Cohort.setS; split <;> rfl
@[simp] theorem Cohort.setS_preds (k : Cohort) (n : Nat) (v : DWord) : (k.setS n v).preds = k.preds := by unfold Cohort.setS; split <;> rfl
@[simp] theorem Cohort.setS_nflags (k : Cohort) (n : Nat) (v : DWord) : (k.setS n v).nflags = k.nflags := by unfold Cohort.setS; split <;> rfl
@[simp] theorem Cohort.setS_pc (k : Cohort) (n : Nat) (v : DWord) : (k.setS n v).pc = k.pc := by unfold Cohort.setS; split <;> rfl
@[simp] theorem Cohort.setS_meet (k : Cohort) (n : Nat) (v : DWord) : (k.setS n v).meet = k.meet := by unfold Cohort.setS; split <;> rfl
@[simp] theorem Cohort.setS_orig (k : Cohort) (n : Nat) (v : DWord) : (k.setS n v).orig = k.orig := by unfold Cohort.setS; split <;> rfl
@[simp] theorem Cohort.setS_live (k : Cohort) (n : Nat) (v : DWord) : (k.setS n v).live = k.live := by unfold Cohort.setS; split <;> rfl
@[simp] theorem Cohort.setS_exited (k : Cohort) (n : Nat) (v : DWord) : (k.setS n v).exited = k.exited := by unfold Cohort.setS; split <;> rfl
@[simp] theorem Cohort.setS_parked (k : Cohort) (n : Nat) (v : DWord) : (k.setS n v).parked = k.parked := by unfold Cohort.setS; split <;> rfl
@[simp] theorem Cohort.setS_held (k : Cohort) (n : Nat) (v : DWord) : (k.setS n v).held = k.held := by unfold Cohort.setS; split <;> rfl
@[simp] theorem Cohort.setS_entered (k : Cohort) (n : Nat) (v : DWord) : (k.setS n v).entered = k.entered := by unfold Cohort.setS; split <;> rfl
@[simp] theorem Cohort.setS_lockWait (k : Cohort) (n : Nat) (v : DWord) : (k.setS n v).lockWait = k.lockWait := by unfold Cohort.setS; split <;> rfl
@[simp] theorem Cohort.setS_store (k : Cohort) (n : Nat) (v : DWord) : (k.setS n v).store = k.store := by unfold Cohort.setS; split <;> rfl
@[simp] theorem Cohort.setS_barHold (k : Cohort) (n : Nat) (v : DWord) : (k.setS n v).barHold = k.barHold := by unfold Cohort.setS; split <;> rfl
@[simp] theorem Cohort.setS_tid (k : Cohort) (n : Nat) (v : DWord) : (k.setS n v).tid = k.tid := by unfold Cohort.setS; split <;> rfl
@[simp] theorem Cohort.setS_regionOpen (k : Cohort) (n : Nat) (v : DWord) : (k.setS n v).regionOpen = k.regionOpen := by unfold Cohort.setS; split <;> rfl
@[simp] theorem Cohort.setS_mend (k : Cohort) (n : Nat) (v : DWord) : (k.setS n v).mend = k.mend := by unfold Cohort.setS; split <;> rfl
@[simp] theorem Cohort.setS_brm (k : Cohort) (n : Nat) (v : DWord) : (k.setS n v).brm = k.brm := by unfold Cohort.setS; split <;> rfl
@[simp] theorem Cohort.setS_path (k : Cohort) (n : Nat) (v : DWord) : (k.setS n v).path = k.path := by unfold Cohort.setS; split <;> rfl
@[simp] theorem Cohort.setS_memb (k : Cohort) (n : Nat) (v : DWord) : (k.setS n v).memb = k.memb := by unfold Cohort.setS; split <;> rfl
@[simp] theorem Cohort.setS_mendWait (k : Cohort) (n : Nat) (v : DWord) : (k.setS n v).mendWait = k.mendWait := by unfold Cohort.setS; split <;> rfl
@[simp] theorem Cohort.setS_mendOpen (k : Cohort) (n : Nat) (v : DWord) : (k.setS n v).mendOpen = k.mendOpen := by unfold Cohort.setS; split <;> rfl
@[simp] theorem Cohort.setS_rnt0 (k : Cohort) (n : Nat) (v : DWord) : (k.setS n v).rnt0 = k.rnt0 := by unfold Cohort.setS; split <;> rfl
@[simp] theorem Cohort.setS_rnt1 (k : Cohort) (n : Nat) (v : DWord) : (k.setS n v).rnt1 = k.rnt1 := by unfold Cohort.setS; split <;> rfl
@[simp] theorem Cohort.setS_cf (k : Cohort) (n : Nat) (v : DWord) : (k.setS n v).cf = k.cf := by unfold Cohort.setS; split <;> rfl
@[simp] theorem Cohort.setS_restart (k : Cohort) (n : Nat) (v : DWord) : (k.setS n v).restart = k.restart := by unfold Cohort.setS; split <;> rfl
@[simp] theorem Cohort.setS_tx (k : Cohort) (n : Nat) (v : DWord) : (k.setS n v).tx = k.tx := by unfold Cohort.setS; split <;> rfl
@[simp] theorem Cohort.setS_absent (k : Cohort) (n : Nat) (v : DWord) : (k.setS n v).absent = k.absent := by unfold Cohort.setS; split <;> rfl
@[simp] theorem Cohort.setS_stalled (k : Cohort) (n : Nat) (v : DWord) : (k.setS n v).stalled = k.stalled := by unfold Cohort.setS; split <;> rfl
@[simp] theorem Cohort.setS_since (k : Cohort) (n : Nat) (v : DWord) : (k.setS n v).since = k.since := by unfold Cohort.setS; split <;> rfl
@[simp] theorem Cohort.setS_watch (k : Cohort) (n : Nat) (v : DWord) : (k.setS n v).watch = k.watch := by unfold Cohort.setS; split <;> rfl
@[simp] theorem Cohort.setS_stallHeld (k : Cohort) (n : Nat) (v : DWord) : (k.setS n v).stallHeld = k.stallHeld := by unfold Cohort.setS; split <;> rfl
@[simp] theorem Cohort.setS_wfSince (k : Cohort) (n : Nat) (v : DWord) : (k.setS n v).wfSince = k.wfSince := by unfold Cohort.setS; split <;> rfl
@[simp] theorem Cohort.setS_posTime (k : Cohort) (n : Nat) (v : DWord) : (k.setS n v).posTime = k.posTime := by unfold Cohort.setS; split <;> rfl
@[simp] theorem Cohort.setS_waitPos (k : Cohort) (n : Nat) (v : DWord) : (k.setS n v).waitPos = k.waitPos := by unfold Cohort.setS; split <;> rfl
@[simp] theorem Cohort.setS_lost (k : Cohort) (n : Nat) (v : DWord) : (k.setS n v).lost = k.lost := by unfold Cohort.setS; split <;> rfl
@[simp] theorem Cohort.setS_damaged (k : Cohort) (n : Nat) (v : DWord) : (k.setS n v).damaged = k.damaged := by unfold Cohort.setS; split <;> rfl
@[simp] theorem Cohort.setS_area (k : Cohort) (n : Nat) (v : DWord) : (k.setS n v).area = k.area := by unfold Cohort.setS; split <;> rfl
@[simp] theorem Cohort.setS_observed (k : Cohort) (n : Nat) (v : DWord) : (k.setS n v).observed = k.observed := by unfold Cohort.setS; split <;> rfl

end Sys2Proof.Machine
end

