-- ==== Sys2Proof/Laws/Cohort.lean ====
section
/-! SUPPORT. Laws of the shared operations on cohorts: lane masks, register files, predicates, arriving at a PC. -/

namespace Sys2Proof.Machine

/-! ### Lane masks -/

theorem mem_lanesOf {m : LaneMask} {l : Nat} : l ∈ lanesOf m ↔ l < 32 ∧ m.getLsbD l = true := by
  simp [lanesOf]

theorem lanesOf_nodup (m : LaneMask) : (lanesOf m).Nodup := List.Pairwise.filter _ List.nodup_range

@[simp] theorem lanesOf_zero : lanesOf 0#32 = [] := by decide

theorem oneLane_getLsbD {l j : Nat} (hl : l < 32) : (oneLane l).getLsbD j = decide (j = l) := by
  simp only [oneLane, BitVec.getLsbD_shiftLeft, BitVec.getLsbD_one]
  by_cases h : j = l
  · subst h; simp [hl]
  · simp [h]; omega

theorem maskOf_getLsbD (f : Nat → Bool) (l : Nat) : (maskOf f).getLsbD l = (decide (l < 32) && f l) := by
  unfold maskOf
  have gen : ∀ (n : Nat) (hn : n ≤ 32), ((List.range n).foldl (fun m l => if f l then m ||| oneLane l else m) 0#32).getLsbD l =
      (decide (l < n) && f l) := by
    intro n
    induction n with
    | zero => intro _; simp
    | succ n ih =>
      intro hn
      rw [List.range_succ, List.foldl_append, List.foldl_cons, List.foldl_nil]
      have hi := ih (by omega)
      split
      · rename_i hf
        rw [BitVec.getLsbD_or, hi, oneLane_getLsbD (by omega)]
        by_cases h : l = n
        · subst h; simp [hf]
        · have e : decide (l < n) = decide (l < n + 1) := by simp; omega
          simp [h, e]
      · rename_i hf
        rw [hi]
        by_cases h : l = n
        · subst h; simp [hf]
        · congr 1; simp; omega
  exact gen 32 (Nat.le_refl _)

theorem maskOf_false : maskOf (fun _ => false) = 0#32 := by decide

theorem maskOf_eq_zero {f : Nat → Bool} (h : ∀ l < 32, f l = false) : maskOf f = 0#32 := by
  apply BitVec.eq_of_getLsbD_eq
  intro i hi
  rw [maskOf_getLsbD, h i hi]; simp

theorem lanesOf_maskOf (f : Nat → Bool) : lanesOf (maskOf f) = (List.range 32).filter f := by
  unfold lanesOf
  apply List.filter_congr
  intro l hl
  rw [maskOf_getLsbD]; simp [List.mem_range.mp hl]

/-! ### Cohorts -/

theorem coh_modCoh (s : State) (c j : Nat) (f : Cohort → Cohort) :
    (s.modCoh c f).coh j = if j = c ∧ (look s.cohorts c).isSome then f (s.coh c) else s.coh j := getD_upd _ _ _ _ _

theorem look_modCoh (s : State) (c j : Nat) (f : Cohort → Cohort) :
    look (s.modCoh c f).cohorts j = if j = c then (look s.cohorts c).map f else look s.cohorts j := look_upd _ _ _ _

@[simp] theorem isSome_modCoh (s : State) (c j : Nat) (f : Cohort → Cohort) :
    (look (s.modCoh c f).cohorts j).isSome = (look s.cohorts j).isSome := by
  rw [look_modCoh]; split
  · rename_i h; subst h; simp
  · rfl

theorem coh_modCoh_same {s : State} {c : Nat} (f : Cohort → Cohort) (h : (look s.cohorts c).isSome) :
    (s.modCoh c f).coh c = f (s.coh c) := by simp [coh_modCoh, h]

theorem coh_modCoh_other (s : State) {c j : Nat} (f : Cohort → Cohort) (h : j ≠ c) : (s.modCoh c f).coh j = s.coh j := by
  simp [coh_modCoh, h]

@[simp] theorem coh_claimDst (s : State) (c : Nat) (d : Dst) (j : Nat) : (s.claimDst c d).coh j = s.coh j := rfl
@[simp] theorem coh_stall (s : State) (j : Nat) : s.stall.coh j = s.coh j := rfl
@[simp] theorem coh_drop (s : State) (m : LaneMask) (j : Nat) : (s.drop m).coh j = s.coh j := rfl
@[simp] theorem coh_next (s : State) (j : Nat) : s.next.coh j = s.coh j := rfl
@[simp] theorem coh_tick (s : State) (j : Nat) : s.tick.coh j = s.coh j := rfl

/-! ### Registers -/

theorem Cohort.v_setV (k : Cohort) (n l m j : Nat) (w : Word) (hl : l < 32) (hj : j < 32) :
    (k.setV n l w).v m j = if m = n ∧ j = l then w else k.v m j := by
  simp only [Cohort.v, Cohort.setV_regs, getD_put]
  by_cases h : m = n ∧ j = l
  · obtain ⟨rfl, rfl⟩ := h; simp
  · rw [if_neg h, if_neg (by omega)]

@[simp] theorem Cohort.sreg_setV (k : Cohort) (n l m : Nat) (w : Word) : (k.setV n l w).sreg m = k.sreg m := rfl
@[simp] theorem Cohort.pred_setV (k : Cohort) (n l p j : Nat) (w : Word) (b : Bool) :
    (k.setV n l w).pred p j b = k.pred p j b := rfl
@[simp] theorem Cohort.name_setV (k : Cohort) (n l j m : Nat) (w : Word) : (k.setV n l w).name j m = k.name j m := rfl

theorem Cohort.sreg_setS (k : Cohort) (n m : Nat) (v : DWord) :
    (k.setS n v).sreg m = if m = n ∧ n ≠ 0 then v else k.sreg m := by
  unfold Cohort.setS
  split
  · rename_i h; subst h; simp
  · rename_i h
    simp only [Cohort.sreg, getD_put]
    by_cases hm : m = n
    · subst hm; simp [h]
    · simp [hm]

theorem Cohort.handles_setS (k : Cohort) (n m : Nat) (v : DWord) :
    look (k.setS n v).handles m = if m = n ∧ n ≠ 0 then none else look k.handles m := by
  unfold Cohort.setS
  split
  · rename_i h; subst h; simp
  · rename_i h
    simp only [look_del]
    by_cases hm : m = n <;> simp [hm, h]

@[simp] theorem Cohort.v_setS (k : Cohort) (n m j : Nat) (v : DWord) : (k.setS n v).v m j = k.v m j := by
  simp [Cohort.v]
@[simp] theorem Cohort.pred_setS (k : Cohort) (n p j : Nat) (v : DWord) (b : Bool) :
    (k.setS n v).pred p j b = k.pred p j b := by simp [Cohort.pred]

theorem Cohort.pred_setP (k : Cohort) (p l q j : Nat) (b c : Bool) (hl : l < 32) :
    (k.setP p l b).pred q j c = if q = p ∧ j = l ∧ p ≠ 7 then b else k.pred q j c := by
  simp only [Cohort.pred, Cohort.setP, getD_put]
  by_cases h7 : q = 7
  · subst h7; simp
    intro h; omega
  · simp only [h7, if_false]
    by_cases hq : q = p
    · subst hq
      simp only [if_true, true_and, ne_eq, h7, not_false_eq_true, and_true]
      cases b
      · by_cases hj : j = l
        · subst hj; simp [oneLane_getLsbD hl]
        · simp only [hj, if_false]
          rw [if_neg (by simp), BitVec.getLsbD_and, BitVec.getLsbD_not, oneLane_getLsbD hl]
          by_cases h32 : j < 32
          · simp [hj, h32]
          · simp [BitVec.getLsbD_of_ge (getD k.preds q 0#32) j (by omega)]
      · by_cases hj : j = l
        · subst hj; simp [oneLane_getLsbD hl]
        · simp [oneLane_getLsbD hl, hj]
    · simp [hq]

/-! ### Arriving -/

theorem Cohort.pcOf_arriveLane (k : Cohort) (l j : Nat) (p : DWord) (b : Bool) :
    (k.arriveLane l p b).pcOf j = if j = l then p else k.pcOf j := by
  simp [Cohort.pcOf, getD_put]

@[simp] theorem Cohort.bare_settleMeet (k : Cohort) : k.settleMeet.bare = k.bare := rfl

theorem Cohort.bare_settleRegion (k : Cohort) : k.settleRegion.bare = k.bare := by
  unfold Cohort.settleRegion
  dsimp only
  repeat' split
  all_goals rfl

/-- Settling meetings and regions changes only who is held and the bookkeeping of the region. -/
@[simp] theorem Cohort.bare_settle (k : Cohort) : k.settle.bare = k.bare := by
  unfold Cohort.settle
  rw [bare_settleMeet, bare_settleRegion, bare_settleMeet]

@[simp] theorem Cohort.bare_arriveLane (k : Cohort) (l : Nat) (p : DWord) (b : Bool) : (k.arriveLane l p b).bare = k.bare := rfl

@[simp] theorem Cohort.pc_settleMeet (k : Cohort) : k.settleMeet.pc = k.pc := rfl

@[simp] theorem Cohort.pc_settle (k : Cohort) : k.settle.pc = k.pc := by
  have h : k.settleMeet.settleRegion.pc = k.settleMeet.pc := by
    unfold Cohort.settleRegion
    dsimp only
    repeat' split
    all_goals rfl
  unfold Cohort.settle
  rw [pc_settleMeet, h, pc_settleMeet]

/-- Lanes arrive: what the cohort holds stays, and each lane's PC is where it arrived last. -/
theorem Cohort.bare_foldl_arriveLane (ls : List (Nat × DWord)) (b : Bool) (k : Cohort) :
    (ls.foldl (fun k e => k.arriveLane e.1 e.2 b) k).bare = k.bare := by
  induction ls generalizing k with
  | nil => rfl
  | cons e t ih => rw [List.foldl_cons, ih, bare_arriveLane]

theorem Cohort.pcOf_foldl_arrive (m : List Nat) (p : DWord) (b : Bool) (k : Cohort) (j : Nat) :
    ((m.map (fun l => (l, p))).foldl (fun k e => k.arriveLane e.1 e.2 b) k).pcOf j = if j ∈ m then p else k.pcOf j := by
  induction m generalizing k with
  | nil => simp
  | cons x t ih =>
    rw [List.map_cons, List.foldl_cons, ih, pcOf_arriveLane]
    by_cases h : j ∈ t <;> by_cases h' : j = x <;> simp [h, h']

end Sys2Proof.Machine
end

