-- ==== Sys2Proof/Laws/Issue.lean ====
section
/-! SUPPORT. What the frame shared by every Izusk word does: with no active lane nothing, under `CanIssue` its body and
then the step to the next word. -/

namespace Sys2Proof.Machine

/-- With no active lane a word is a no-operation: its group goes on (R242). -/
theorem issue_idle {s : State} {n : Need} (body : State → LaneMask → State) (h : s.active n.g = 0) :
    s.issue n body = s.advance := by
  simp only [State.issue]; rw [if_pos h]

theorem fail_none (s : State) (a : TrapArgs) : s.fail 0#32 a = s := by
  have e : maskOf (fun l => (0#32).getLsbD l && (s.coh s.cur.coh).spec l) = 0#32 := maskOf_eq_zero (fun l _ => by simp)
  simp only [State.fail, e]
  split <;> simp [State.park]

theorem illegal_none (s : State) (k : Nat) : s.illegal 0#32 k = s := fail_none s _

/-- A word that can issue runs its body for its active lanes. -/
theorem issue_run {s : State} {n : Need} (body : State → LaneMask → State) (h : s.CanIssue n) :
    s.issue n body =
      if (body (s.used n) (s.active n.g)).cur.stall then (s.keepWaits (body (s.used n) (s.active n.g))).stall
      else (body (s.used n) (s.active n.g)).advance := by
  have hbad : maskOf (fun l => (s.active n.g).getLsbD l && !n.regs.all (fun e => s.regOk s.cur.coh l e.1 e.2)) = 0#32 := by
    apply maskOf_eq_zero
    intro l hl
    cases ha : (s.active n.g).getLsbD l
    · rfl
    · have hr : n.regs.all (fun e => s.regOk s.cur.coh l e.1 e.2) = true :=
        List.all_eq_true.mpr (fun e he => h.regs l hl ha e he)
      rw [hr]; rfl
  have hdis : maskOf (fun l => (s.active n.g).getLsbD l && !(0#32).getLsbD l && n.disallow.isSome &&
      (s.coh s.cur.coh).spec l) = 0#32 := by
    apply maskOf_eq_zero
    intro l hl
    cases ha : (s.active n.g).getLsbD l
    · rfl
    · cases hd : n.disallow.isSome
      · simp
      · simp [h.plain hd l hl ha]
  have hban : ¬(n.meldBan = true ∧ ((lanesOf s.cur.lanes).any fun l => (s.coh s.cur.coh).inRegion l) = true) := by
    rintro ⟨hb, ha⟩
    obtain ⟨l, hl, hi⟩ := List.any_eq_true.mp ha
    obtain ⟨hl32, hl⟩ := mem_lanesOf.mp hl
    rw [h.ban hb l hl32 hl] at hi
    exact absurd hi (by decide)
  have hrun : s.active n.g &&& ~~~(0#32) &&& ~~~(0#32) = s.active n.g := by
    rw [show ~~~(0#32) = BitVec.allOnes 32 by decide, BitVec.and_allOnes, BitVec.and_allOnes]
  simp only [State.issue]
  rw [if_neg h.act, if_neg hban, h.flag]
  simp only [hbad, hdis, hrun, h.handle, h.room, illegal_none, lanesOf_zero, List.foldl_nil, if_neg h.act,
    Bool.false_eq_true, if_false, or_self, and_false]
  rfl

/-- A word that can issue and whose body does not stall: its group goes on from what the body leaves. -/
theorem issue_done {s : State} {n : Need} (body : State → LaneMask → State) (h : s.CanIssue n)
    (hs : (body (s.used n) (s.active n.g)).cur = s.cur) :
    s.issue n body = (body (s.used n) (s.active n.g)).advance := by
  rw [issue_run body h, hs, h.fresh]; simp

/-- The same where what the body leaves is known. -/
theorem issue_body {s t : State} {n : Need} {body : State → LaneMask → State} (h : s.CanIssue n)
    (e : body (s.used n) (s.active n.g) = t) (hc : t.cur = s.cur) : s.issue n body = t.advance := by
  rw [issue_done body h (by rw [e]; exact hc), e]

/-! ### The operand cache -/

theorem Cohort.touch_eq (k : Cohort) (n : Nat) : k.touch n = { k with dirty := (k.touch n).dirty } := rfl

/-- Using registers changes the operand cache alone. -/
theorem Cohort.foldl_touch_eq (ns : List Nat) (k : Cohort) :
    ns.foldl Cohort.touch k = { k with dirty := (ns.foldl Cohort.touch k).dirty } := by
  induction ns generalizing k with
  | nil => rfl
  | cons n t ih => rw [List.foldl_cons, ih]; rfl

/-- What the body of a word finds (R57): the cohort differs in its operand cache and in what the word has observed. -/
theorem coh_useRegs (s : State) (c : Nat) (run : LaneMask) (regs : List (Opnd × Nat)) (rs : List Nat) (j : Nat) :
    (s.useRegs c run regs rs).coh j = { s.coh j with
      dirty := ((s.useRegs c run regs rs).coh j).dirty
      observed := ((s.useRegs c run regs rs).coh j).observed } := by
  unfold State.useRegs
  rw [coh_modCoh]
  split
  · rename_i h
    rw [h.1, Cohort.foldl_touch_eq]; rfl
  · rfl

theorem coh_used (s : State) (n : Need) (j : Nat) :
    (s.used n).coh j = { s.coh j with
      dirty := ((s.used n).coh j).dirty
      observed := ((s.used n).coh j).observed } := coh_useRegs _ _ _ _ _ _

@[simp] theorem cur_used (s : State) (n : Need) : (s.used n).cur = s.cur := rfl

@[simp] theorem isSome_used (s : State) (n : Need) (j : Nat) :
    (look (s.used n).cohorts j).isSome = (look s.cohorts j).isSome := isSome_modCoh _ _ _ _

@[simp] theorem vval_used (s : State) (n : Need) (j m : Nat) (w : Bool) (l : Nat) :
    ((s.used n).coh j).vval m w l = (s.coh j).vval m w l := by rw [coh_used]; rfl

@[simp] theorem name_used (s : State) (n : Need) (j l m : Nat) : ((s.used n).coh j).name l m = (s.coh j).name l m := by
  rw [coh_used]; rfl

@[simp] theorem v_used (s : State) (n : Need) (j m l : Nat) : ((s.used n).coh j).v m l = (s.coh j).v m l := by
  rw [coh_used]; rfl

@[simp] theorem sreg_used (s : State) (n : Need) (j m : Nat) : ((s.used n).coh j).sreg m = (s.coh j).sreg m := by
  rw [coh_used]; rfl

@[simp] theorem pred_used (s : State) (n : Need) (j p l : Nat) (b : Bool) :
    ((s.used n).coh j).pred p l b = (s.coh j).pred p l b := by rw [coh_used]; rfl

@[simp] theorem handles_used (s : State) (n : Need) (j : Nat) : ((s.used n).coh j).handles = (s.coh j).handles := by
  rw [coh_used]

@[simp] theorem orig_used (s : State) (n : Need) (j : Nat) : ((s.used n).coh j).orig = (s.coh j).orig := by rw [coh_used]

@[simp] theorem cohBlk_used (s : State) (n : Need) (j : Nat) : (s.used n).cohBlk j = s.cohBlk j := by
  unfold State.cohBlk; rw [coh_used]; rfl

@[simp] theorem cohGrd_used (s : State) (n : Need) (j : Nat) : (s.used n).cohGrd j = s.cohGrd j := by
  unfold State.cohGrd; rw [cohBlk_used]; rfl

@[simp] theorem special_used (s : State) (n : Need) (j : Nat) (m : BitVec 4) : (s.used n).special j m = s.special j m := by
  unfold State.special
  rw [cohBlk_used, cohGrd_used, coh_used]
  rfl

/-- Operands read as they did. -/
@[simp] theorem val_used (s : State) (n : Need) (j : Nat) (o : Opnd) (w : Bool) (l : Nat) :
    (s.used n).val j o w l = s.val j o w l := by
  cases o <;> simp [State.val]

@[simp] theorem val32_used (s : State) (n : Need) (j : Nat) (o : Opnd) (l : Nat) :
    (s.used n).val32 j o l = s.val32 j o l := by simp [State.val32]

@[simp] theorem fval_used (s : State) (n : Need) (j : Nat) (o : Opnd) (f : Fmt) (w : Bool) (l : Nat) :
    (s.used n).fval j o f w l = s.fval j o f w l := by
  cases o <;> simp [State.fval]

@[simp] theorem h2val_used (s : State) (n : Need) (j : Nat) (o : Opnd) (l : Nat) :
    (s.used n).h2val j o l = s.h2val j o l := by
  cases o <;> simp [State.h2val]

@[simp] theorem draw_used (s : State) (n : Need) (j l i : Nat) : (s.used n).draw j l i = s.draw j l i := by
  simp [State.draw]

@[simp] theorem rmode_used (s : State) (n : Need) (rnd : Rnd) (sat ftz : Bool) (i : Option Opnd) (l : Nat) :
    (s.used n).rmode rnd sat ftz i l = s.rmode rnd sat ftz i l := by
  cases i <;> simp [State.rmode]

/-! ### Going on -/

theorem coh_arrive (s : State) (c : Nat) (ls : List (Nat × DWord)) (b : Bool) (h : (look s.cohorts c).isSome) :
    (s.arrive c ls b).coh c = (ls.foldl (fun k e => k.arriveLane e.1 e.2 b) (s.coh c)).settle :=
  coh_modCoh_same _ h

theorem coh_arrive_other (s : State) {c j : Nat} (ls : List (Nat × DWord)) (b : Bool) (h : j ≠ c) :
    (s.arrive c ls b).coh j = s.coh j := coh_modCoh_other _ _ h

@[simp] theorem isSome_arrive (s : State) (c j : Nat) (ls : List (Nat × DWord)) (b : Bool) :
    (look (s.arrive c ls b).cohorts j).isSome = (look s.cohorts j).isSome := isSome_modCoh _ _ _ _

/-- Arriving changes no more of a cohort than where its lanes stand. -/
theorem bare_arrive (s : State) (c : Nat) (ls : List (Nat × DWord)) (b : Bool) :
    ((s.arrive c ls b).coh c).bare = (s.coh c).bare := by
  by_cases h : (look s.cohorts c).isSome
  · rw [coh_arrive _ _ _ _ h, Cohort.bare_settle, Cohort.bare_foldl_arriveLane]
  · have : (s.arrive c ls b).coh c = s.coh c := by
      unfold State.arrive
      rw [coh_modCoh, if_neg (fun hc => h hc.2)]
    rw [this]

theorem pcOf_arrive (s : State) (c : Nat) (m : List Nat) (p : DWord) (b : Bool) (h : (look s.cohorts c).isSome) (j : Nat) :
    ((s.arrive c (m.map (fun l => (l, p))) b).coh c).pcOf j = if j ∈ m then p else (s.coh c).pcOf j := by
  rw [coh_arrive _ _ _ _ h]
  have := Cohort.pcOf_foldl_arrive m p b (s.coh c) j
  unfold Cohort.pcOf at this ⊢
  rw [Cohort.pc_settle]; exact this

theorem bare_advance (s : State) : (s.advance.coh s.cur.coh).bare = (s.coh s.cur.coh).bare := bare_arrive _ _ _ _

theorem coh_advance_other (s : State) {j : Nat} (h : j ≠ s.cur.coh) : s.advance.coh j = s.coh j :=
  coh_arrive_other _ _ _ h

theorem pcOf_advance (s : State) (h : (look s.cohorts s.cur.coh).isSome) (j : Nat) (hj : j < 32) :
    (s.advance.coh s.cur.coh).pcOf j =
      if s.cur.lanes.getLsbD j = true then nextPc s.cur.pc s.cur.nw else (s.coh s.cur.coh).pcOf j := by
  have := pcOf_arrive s s.cur.coh (lanesOf s.cur.lanes) (nextPc s.cur.pc s.cur.nw) true h j
  simp only [mem_lanesOf, hj, true_and] at this
  exact this

theorem advance_eq (s : State) : s.advance = { s with cohorts := s.advance.cohorts } := rfl

end Sys2Proof.Machine
end

