-- ==== Sys2Proof/Laws/Compute.lean ====
section
/-! SUPPORT. What a word that computes a value for each lane does, said once: the writes of results, of predicates and of
numeric flags, and the meaning of every fixed word over them. -/

namespace Sys2Proof.Machine

/-! ### Elsewhere -/

theorem Elsewhere_refl (s : State) (c : Nat) : s.Elsewhere s c := ⟨rfl, rfl, fun _ _ => rfl⟩

theorem Elsewhere_trans {s t u : State} {c : Nat} (h : s.Elsewhere t c) (h' : t.Elsewhere u c) : s.Elsewhere u c := by
  refine ⟨?_, by rw [h'.ops, h.ops], fun j hj => by rw [h'.others j hj, h.others j hj]⟩
  have e := h'.rest
  rw [h.rest] at e
  exact e

theorem Elsewhere_modCoh (s : State) (c : Nat) (f : Cohort → Cohort) : s.Elsewhere (s.modCoh c f) c :=
  ⟨rfl, rfl, fun _ hj => coh_modCoh_other s f hj⟩

theorem Elsewhere_arrive (s : State) (c : Nat) (ls : List (Nat × DWord)) (b : Bool) : s.Elsewhere (s.arrive c ls b) c :=
  Elsewhere_modCoh _ _ _

theorem Elsewhere_claimDst (s : State) (c : Nat) (d : Dst) (j : Nat) : s.Elsewhere (s.claimDst c d) j := by
  refine ⟨rfl, ?_, fun _ _ => rfl⟩
  unfold State.claimDst
  simp only [List.map_map]
  apply List.map_congr_left
  intro o _
  simp only [Function.comp]
  split <;> rfl

/-! ### Writing v-registers -/

/-- Only v-registers of cohort c have been written. -/
structure State.RegsOnly (s t : State) (c : Nat) : Prop where
  rest : s.Elsewhere t c
  there : (look t.cohorts c).isSome = (look s.cohorts c).isSome
  coh : t.coh c = { s.coh c with
    regs := (t.coh c).regs
    dirty := (t.coh c).dirty }

theorem RegsOnly_refl (s : State) (c : Nat) : s.RegsOnly s c := ⟨Elsewhere_refl s c, rfl, rfl⟩

theorem RegsOnly_trans {s t u : State} {c : Nat} (h : s.RegsOnly t c) (h' : t.RegsOnly u c) : s.RegsOnly u c := by
  refine ⟨Elsewhere_trans h.rest h'.rest, h'.there.trans h.there, ?_⟩
  have e := h'.coh
  rw [h.coh] at e
  exact e

theorem RegsOnly_writeV (s : State) (c n l : Nat) (w : Word) : s.RegsOnly (s.writeV c n l w) c := by
  refine ⟨Elsewhere_trans (Elsewhere_claimDst s c _ c) (Elsewhere_modCoh _ _ _), ?_, ?_⟩
  · unfold State.writeV; rw [isSome_modCoh]; rfl
  · unfold State.writeV
    rw [coh_modCoh]
    split <;> rfl

theorem coh_writeV {s : State} {c : Nat} (n l : Nat) (w : Word) (h : (look s.cohorts c).isSome) :
    (s.writeV c n l w).coh c = (s.coh c).setV n l w := coh_modCoh_same _ h

theorem RegsOnly_name {s t : State} {c : Nat} (h : s.RegsOnly t c) (l n : Nat) : (t.coh c).name l n = (s.coh c).name l n := by
  rw [h.coh]; rfl

theorem RegsOnly_putV (s : State) (c n l : Nat) (wide : Bool) (v : DWord) : s.RegsOnly (s.putV c n l wide v) c := by
  unfold State.putV
  simp only
  split
  · exact RegsOnly_trans (RegsOnly_writeV _ _ _ _ _) (RegsOnly_writeV _ _ _ _ _)
  · exact RegsOnly_writeV _ _ _ _ _

theorem v_putV {s : State} {c : Nat} (n l : Nat) (wide : Bool) (v : DWord) (h : (look s.cohorts c).isSome) (hl : l < 32)
    (m j : Nat) (hj : j < 32) :
    ((s.putV c n l wide v).coh c).v m j =
      if j = l ∧ m = (s.coh c).name l n then v.truncate 32
      else if j = l ∧ wide = true ∧ m = (s.coh c).name l n + 1 then v.extractLsb' 32 32
      else (s.coh c).v m j := by
  unfold State.putV
  simp only
  cases wide
  · simp only [Bool.false_eq_true, if_false, false_and, and_false]
    rw [coh_writeV _ _ _ h, Cohort.v_setV _ _ _ _ _ _ hl hj]
    by_cases hjl : j = l <;> by_cases hm : m = (s.coh c).name l n <;> simp [hjl, hm]
  · simp only [if_true, true_and]
    have h' : (look (s.writeV c ((s.coh c).name l n) l (v.truncate 32)).cohorts c).isSome := by
      rw [(RegsOnly_writeV s c _ l _).there]; exact h
    rw [coh_writeV _ _ _ h', Cohort.v_setV _ _ _ _ _ _ hl hj, coh_writeV _ _ _ h, Cohort.v_setV _ _ _ _ _ _ hl hj]
    by_cases hjl : j = l
    · subst hjl
      by_cases hm : m = (s.coh c).name j n
      · subst hm; simp
      · simp [hm]
    · simp [hjl]

/-- The lanes of a list, each of them once, write their values. -/
theorem foldl_putV {s : State} {c : Nat} (n : Nat) (wide : Bool) (f : Nat → DWord) (h : (look s.cohorts c).isSome)
    (ls : List Nat) (hn : ls.Nodup) (h32 : ∀ l ∈ ls, l < 32) :
    s.RegsOnly (ls.foldl (fun t l => t.putV c n l wide (f l)) s) c ∧
      ∀ m, ∀ j < 32, ((ls.foldl (fun t l => t.putV c n l wide (f l)) s).coh c).v m j =
        if j ∈ ls ∧ m = (s.coh c).name j n then (f j).truncate 32
        else if j ∈ ls ∧ wide = true ∧ m = (s.coh c).name j n + 1 then (f j).extractLsb' 32 32
        else (s.coh c).v m j := by
  induction ls generalizing s with
  | nil => exact ⟨RegsOnly_refl s c, fun m j _ => by simp⟩
  | cons x t ih =>
    have hx : x < 32 := h32 x (by simp)
    have r := RegsOnly_putV s c n x wide (f x)
    have h' : (look (s.putV c n x wide (f x)).cohorts c).isSome := by rw [r.there]; exact h
    obtain ⟨a, b⟩ := ih h' (List.nodup_cons.mp hn).2 (fun l hl => h32 l (List.mem_cons_of_mem _ hl))
    refine ⟨RegsOnly_trans r a, fun m j hj => ?_⟩
    rw [List.foldl_cons, b m j hj, RegsOnly_name r, v_putV n x wide (f x) h hx m j hj]
    by_cases hjx : j = x
    · subst hjx
      have hnt : j ∉ t := (List.nodup_cons.mp hn).1
      simp [hnt]
    · by_cases hjt : j ∈ t <;> simp [hjx, hjt]

/-! ### Results -/

theorem frame_of_bare {k k' : Cohort} (h : k'.bare = k.bare) : k'.frame = k.frame := by
  unfold Cohort.frame; rw [h]

theorem v_of_bare {k k' : Cohort} (h : k'.bare = k.bare) (m j : Nat) : k'.v m j = k.v m j := by
  have : k'.bare.regs = k.bare.regs := by rw [h]
  exact congrArg (fun r => getD r (32 * m + j) 0) this

theorem sreg_of_bare {k k' : Cohort} (h : k'.bare = k.bare) (m : Nat) : k'.sreg m = k.sreg m := by
  have : k'.bare.sregs = k.bare.sregs := by rw [h]
  exact congrArg (fun r => if m = 0 then (0 : DWord) else getD r m 0) this

theorem handles_of_bare {k k' : Cohort} (h : k'.bare = k.bare) : k'.handles = k.handles :=
  show k'.bare.handles = k.bare.handles by rw [h]

theorem pred_of_bare {k k' : Cohort} (h : k'.bare = k.bare) (p l : Nat) (b : Bool) : k'.pred p l b = k.pred p l b := by
  have : k'.bare.preds = k.bare.preds := by rw [h]
  exact congrArg (fun r => if p = 7 then b else (getD r p 0).getLsbD l) this

theorem nflags_of_bare {k k' : Cohort} (h : k'.bare = k.bare) : k'.nflags = k.nflags :=
  show k'.bare.nflags = k.bare.nflags by rw [h]

/-- What a body does before the group goes on: written registers and predicates, raised flags. -/
structure State.Body (s t : State) (c : Nat) (v : Nat → Nat → Word) (sr : Nat → DWord) (hd : Nat → Option Nat)
    (pr : Nat → Nat → Bool) (fl : NFlags) : Prop where
  rest : s.Elsewhere t c
  there : (look t.cohorts c).isSome = (look s.cohorts c).isSome
  frame : (t.coh c).frame = (s.coh c).frame
  pc : (t.coh c).pc = (s.coh c).pc
  v : ∀ m, ∀ j < 32, (t.coh c).v m j = v m j
  sreg : ∀ m, (t.coh c).sreg m = sr m
  handle : ∀ m, look (t.coh c).handles m = hd m
  pred : ∀ p, ∀ l < 32, (t.coh c).pred p l true = pr p l
  flags : (t.coh c).nflags = (s.coh c).nflags ||| fl

theorem Body_cur {s t : State} {c : Nat} {v sr hd pr fl} (h : s.Body t c v sr hd pr fl) : t.cur = s.cur := by
  rw [h.rest.rest]

/-- The group goes on after its body. -/
theorem Body_advance {s t : State} {v sr hd pr fl} (h : s.Body t s.cur.coh v sr hd pr fl)
    (hc : (look s.cohorts s.cur.coh).isSome) :
    s.Elsewhere t.advance s.cur.coh ∧ s.GoesOn t.advance ∧ (t.advance.coh s.cur.coh).frame = (s.coh s.cur.coh).frame ∧
      (∀ m, ∀ j < 32, (t.advance.coh s.cur.coh).v m j = v m j) ∧ (∀ m, (t.advance.coh s.cur.coh).sreg m = sr m) ∧
      (∀ m, look (t.advance.coh s.cur.coh).handles m = hd m) ∧
      (∀ p, ∀ l < 32, (t.advance.coh s.cur.coh).pred p l true = pr p l) ∧
      (t.advance.coh s.cur.coh).nflags = (s.coh s.cur.coh).nflags ||| fl := by
  have hcur := Body_cur h
  have hb : (t.advance.coh s.cur.coh).bare = (t.coh s.cur.coh).bare := by
    have := bare_advance t; rw [hcur] at this; exact this
  refine ⟨Elsewhere_trans h.rest ?_, ?_, ?_, ?_, ?_, ?_, ?_, ?_⟩
  · have := Elsewhere_arrive t t.cur.coh ((lanesOf t.cur.lanes).map (fun l => (l, nextPc t.cur.pc t.cur.nw))) true
    rw [hcur] at this
    unfold State.advance
    rw [hcur]
    exact this
  · intro l hl
    have := pcOf_advance t (by rw [hcur, h.there]; exact hc) l hl
    rw [hcur] at this
    rw [this]
    unfold Cohort.pcOf
    rw [h.pc]
  · rw [frame_of_bare hb, h.frame]
  · intro m j hj; rw [v_of_bare hb, h.v m j hj]
  · intro m; rw [sreg_of_bare hb, h.sreg]
  · intro m; rw [handles_of_bare hb, h.handle]
  · intro p l hl; rw [pred_of_bare hb, h.pred p l hl]
  · rw [nflags_of_bare hb, h.flags]

/-- Results that a word writes into a register operand (R258). -/
theorem Body_result {s : State} (d : Opnd) (wide : Bool) (run : LaneMask) (f : Nat → DWord)
    (hc : (look s.cohorts s.cur.coh).isSome) :
    s.Body (s.result d wide run f) s.cur.coh ((s.coh s.cur.coh).wordAfter d wide run f)
      ((s.coh s.cur.coh).sregAfter d wide run f) ((s.coh s.cur.coh).handleAfter d)
      (fun p l => (s.coh s.cur.coh).pred p l true) 0 := by
  have keep : ∀ d', (∀ n, d' ≠ Opnd.v n) → (∀ n, d' ≠ Opnd.s n) → s.result d' wide run f = s →
      s.Body (s.result d' wide run f) s.cur.coh ((s.coh s.cur.coh).wordAfter d' wide run f)
      ((s.coh s.cur.coh).sregAfter d' wide run f) ((s.coh s.cur.coh).handleAfter d')
      (fun p l => (s.coh s.cur.coh).pred p l true) 0 := by
    intro d' hv hs he
    rw [he]
    refine ⟨Elsewhere_refl _ _, rfl, rfl, rfl, ?_, ?_, ?_, fun _ _ _ => rfl, by simp⟩
    · intro m j _; cases d' <;> first | rfl | exact absurd rfl (hv _)
    · intro m; cases d' <;> first | rfl | exact absurd rfl (hs _)
    · intro m; cases d' <;> first | rfl | exact absurd rfl (hs _)
  cases d with
  | v n =>
    obtain ⟨r, hv⟩ := foldl_putV (c := s.cur.coh) n.toNat wide f hc (lanesOf run) (lanesOf_nodup run)
      (fun l hl => (mem_lanesOf.mp hl).1)
    refine ⟨r.rest, r.there, ?_, ?_, ?_, ?_, ?_, ?_, ?_⟩
    · show ((((lanesOf run).foldl _ s)).coh _).frame = _
      rw [r.coh]; rfl
    · show ((((lanesOf run).foldl _ s)).coh _).pc = _
      rw [r.coh]
    · intro m j hj
      have := hv m j hj
      simp only [mem_lanesOf, hj, true_and] at this
      exact this
    · intro m
      show ((((lanesOf run).foldl _ s)).coh _).sreg m = _
      rw [r.coh]; rfl
    · intro m
      show look ((((lanesOf run).foldl _ s)).coh _).handles m = _
      rw [r.coh]; rfl
    · intro p l _
      show ((((lanesOf run).foldl _ s)).coh _).pred p l true = _
      rw [r.coh]; rfl
    · show ((((lanesOf run).foldl _ s)).coh _).nflags = _
      rw [r.coh]; simp
  | s n =>
    have e : (s.result (.s n) wide run f).coh s.cur.coh =
        (s.coh s.cur.coh).setS n.toNat (if wide then f (lowLane run) else ((f (lowLane run)).truncate 32).zeroExtend 64) :=
      coh_modCoh_same _ hc
    refine ⟨Elsewhere_trans (Elsewhere_claimDst s s.cur.coh _ s.cur.coh) (Elsewhere_modCoh _ _ _), ?_, ?_, ?_, ?_, ?_, ?_, ?_, ?_⟩
    · show (look (State.modCoh _ _ _).cohorts _).isSome = _
      rw [isSome_modCoh]; rfl
    · rw [e]; unfold Cohort.setS; split <;> rfl
    · rw [e]; simp
    · intro m j _; rw [e, Cohort.v_setS]; rfl
    · intro m
      rw [e, Cohort.sreg_setS]
      simp only [Cohort.sregAfter]
      by_cases hm : m = n.toNat
      · subst hm; rfl
      · simp [hm]
    · intro m
      rw [e, Cohort.handles_setS]
      simp only [Cohort.handleAfter]
      by_cases hm : m = n.toNat
      · subst hm; rfl
      · simp [hm]
    · intro p l _; rw [e, Cohort.pred_setS]
    · rw [e]; simp
  | i n => exact keep _ (fun _ h => by cases h) (fun _ h => by cases h) rfl
  | f n => exact keep _ (fun _ h => by cases h) (fun _ h => by cases h) rfl
  | x n => exact keep _ (fun _ h => by cases h) (fun _ h => by cases h) rfl

/-- Raising flags after a body. -/
theorem Body_raise {s t : State} {c : Nat} {v sr hd pr} (h : s.Body t c v sr hd pr 0)
    (hc : (look s.cohorts c).isSome) (fl : NFlags) : s.Body (t.raise c fl) c v sr hd pr fl := by
  have e : (t.raise c fl).coh c = { t.coh c with nflags := (t.coh c).nflags ||| fl } :=
    coh_modCoh_same _ (by rw [h.there]; exact hc)
  refine ⟨Elsewhere_trans h.rest (Elsewhere_modCoh _ _ _), ?_, ?_, ?_, ?_, ?_, ?_, ?_, ?_⟩
  · unfold State.raise; rw [isSome_modCoh]; exact h.there
  · rw [e, ← h.frame]; rfl
  · rw [e]; exact h.pc
  · intro m j hj; rw [e]; exact h.v m j hj
  · intro m; rw [e]; exact h.sreg m
  · intro m; rw [e]; exact h.handle m
  · intro p l hl; rw [e]; exact h.pred p l hl
  · rw [e]; simp [h.flags]

/-- A predicate written for some lanes. -/
theorem Body_resultP {s : State} (p : BitVec 3) (run : LaneMask) (f : Nat → Bool)
    (hc : (look s.cohorts s.cur.coh).isSome) :
    s.Body (s.resultP p run f) s.cur.coh (fun m j => (s.coh s.cur.coh).v m j) (fun m => (s.coh s.cur.coh).sreg m)
      (fun m => look (s.coh s.cur.coh).handles m)
      (fun q l => if q = p.toNat ∧ q ≠ 7 ∧ run.getLsbD l = true then f l else (s.coh s.cur.coh).pred q l true) 0 := by
  have e : (s.resultP p run f).coh s.cur.coh = (lanesOf run).foldl (fun k l => k.setP p.toNat l (f l)) (s.coh s.cur.coh) :=
    coh_modCoh_same _ hc
  have keep : ∀ (ls : List Nat) (k : Cohort),
      (ls.foldl (fun k l => k.setP p.toNat l (f l)) k) =
        { k with preds := (ls.foldl (fun k l => k.setP p.toNat l (f l)) k).preds } := by
    intro ls
    induction ls with
    | nil => intro k; rfl
    | cons x t ih => intro k; rw [List.foldl_cons, ih]; rfl
  have pr : ∀ (ls : List Nat) (k : Cohort), ls.Nodup → (∀ l ∈ ls, l < 32) → ∀ q l, 
      (ls.foldl (fun k l => k.setP p.toNat l (f l)) k).pred q l true =
        if q = p.toNat ∧ q ≠ 7 ∧ l ∈ ls then f l else k.pred q l true := by
    intro ls
    induction ls with
    | nil => intro k _ _ q l; simp
    | cons x t ih =>
      intro k hn h32 q l
      rw [List.foldl_cons, ih _ (List.nodup_cons.mp hn).2 (fun l hl => h32 l (List.mem_cons_of_mem _ hl)),
        Cohort.pred_setP _ _ _ _ _ _ _ (h32 x (by simp))]
      by_cases hq : q = p.toNat
      · subst hq
        by_cases h7 : p.toNat = 7
        · simp [h7]
        · by_cases hlx : l = x
          · subst hlx; simp [h7]
          · simp [hlx, h7]
      · simp [hq]
  refine ⟨Elsewhere_modCoh _ _ _, isSome_modCoh _ _ _ _, ?_, ?_, ?_, ?_, ?_, ?_, ?_⟩
  · rw [e, keep]; rfl
  · rw [e, keep]
  · intro m j _; rw [e, keep]; rfl
  · intro m; rw [e, keep]; rfl
  · intro m; rw [e, keep]
  · intro q l hl
    rw [e, pr _ _ (lanesOf_nodup run) (fun l hl => (mem_lanesOf.mp hl).1)]
    simp only [mem_lanesOf, hl, true_and]
  · rw [e, keep]; simp

/-! ### Bodies that run after their registers have been used -/

theorem Elsewhere_used (s : State) (n : Need) : s.Elsewhere (s.used n) s.cur.coh := Elsewhere_modCoh _ _ _

@[simp] theorem wordAfter_used (s : State) (n : Need) (c : Nat) (d : Opnd) (w : Bool) (run : LaneMask) (f : Nat → DWord) :
    ((s.used n).coh c).wordAfter d w run f = (s.coh c).wordAfter d w run f := by
  rw [coh_used]; rfl

@[simp] theorem sregAfter_used (s : State) (n : Need) (c : Nat) (d : Opnd) (w : Bool) (run : LaneMask) (f : Nat → DWord) :
    ((s.used n).coh c).sregAfter d w run f = (s.coh c).sregAfter d w run f := by
  rw [coh_used]; rfl

@[simp] theorem handleAfter_used (s : State) (n : Need) (c : Nat) (d : Opnd) :
    ((s.used n).coh c).handleAfter d = (s.coh c).handleAfter d := by
  rw [coh_used]; rfl

/-- What a body does to the state in which it runs, it does to the state before the word. -/
theorem Body_used {s t : State} {n : Need} {v sr hd pr fl} (h : (s.used n).Body t s.cur.coh v sr hd pr fl) :
    s.Body t s.cur.coh v sr hd pr fl := by
  refine ⟨Elsewhere_trans (Elsewhere_used s n) h.rest, h.there.trans (isSome_used s n _), ?_, ?_, h.v, h.sreg, h.handle, h.pred, ?_⟩
  · rw [h.frame, coh_used]; rfl
  · rw [h.pc, coh_used]
  · rw [h.flags, coh_used]

/-! ### The three shapes of a fixed word -/

theorem wrote_of_body {s t : State} {d : Opnd} {wide : Bool} {run : LaneMask} {f : Nat → DWord} {fl : NFlags}
    (hc : (look s.cohorts s.cur.coh).isSome)
    (h : s.Body t s.cur.coh ((s.coh s.cur.coh).wordAfter d wide run f)
      ((s.coh s.cur.coh).sregAfter d wide run f) ((s.coh s.cur.coh).handleAfter d)
      (fun p l => (s.coh s.cur.coh).pred p l true) fl) : s.Wrote t.advance d wide run f fl := by
  obtain ⟨a, b, c, d', e, g, i, j⟩ := Body_advance h hc
  exact ⟨a, b, c, d', e, g, i, j⟩

/-- A fixed word writes its value for each active lane and goes on. -/
theorem compute_spec {s : State} {g : Guard} {d : Opnd} {dw : Bool} {src : List (Opnd × Bool)} (f : State → Nat → DWord)
    (h : s.CanIssue (.of g [(d, wordsOf dw)] (src.map (fun e => (e.1, wordsOf e.2)))))
    (hf : ∀ n l, f (s.used n) l = f s l) :
    s.Wrote (s.compute g d dw src f) d dw (s.active g) (f s) 0 := by
  unfold State.compute
  have hb := Body_result (s := s.used (.of g [(d, wordsOf dw)] (src.map (fun e => (e.1, wordsOf e.2))))) d dw (s.active g)
    (f s) ((isSome_used _ _ _).trans h.there)
  simp only [wordAfter_used, sregAfter_used, handleAfter_used, pred_used, cur_used] at hb
  have hb := Body_used hb
  have hfs : f (s.used (.of g [(d, wordsOf dw)] (src.map (fun e => (e.1, wordsOf e.2))))) = f s := funext (hf _)
  rw [issue_body h (congrArg (State.result _ d dw (s.active g)) hfs) (Body_cur hb)]
  exact wrote_of_body h.there hb

/-- The same with numeric flags. -/
theorem computeF_spec {s : State} {g : Guard} {d : Opnd} {dw : Bool} {src : List (Opnd × Bool)}
    (f : State → Nat → DWord × NFlags)
    (h : s.CanIssue (.of g [(d, wordsOf dw)] (src.map (fun e => (e.1, wordsOf e.2)))))
    (hf : ∀ n l, f (s.used n) l = f s l) :
    s.Wrote (s.computeF g d dw src f) d dw (s.active g) (fun l => (f s l).1)
      ((lanesOf (once d (s.active g))).foldl (fun a l => a ||| (f s l).2) 0) := by
  unfold State.computeF
  have h0 := Body_result (s := s.used (.of g [(d, wordsOf dw)] (src.map (fun e => (e.1, wordsOf e.2))))) d dw
    (s.active g) (fun l => (f s l).1) ((isSome_used _ _ _).trans h.there)
  simp only [wordAfter_used, sregAfter_used, handleAfter_used, pred_used, cur_used] at h0
  have h1 := Body_used (s := s) (n := .of g [(d, wordsOf dw)] (src.map (fun e => (e.1, wordsOf e.2)))) h0
  have hb := Body_raise h1 h.there ((lanesOf (once d (s.active g))).foldl (fun a l => a ||| (f s l).2) 0)
  have hfs : f (s.used (.of g [(d, wordsOf dw)] (src.map (fun e => (e.1, wordsOf e.2))))) = f s := funext (hf _)
  have e : ∀ v : Nat → DWord × NFlags, v = f s → ((s.used (.of g [(d, wordsOf dw)]
      (src.map (fun e => (e.1, wordsOf e.2))))).result d dw (s.active g) (fun l => (v l).1)).raise s.cur.coh
      ((lanesOf (once d (s.active g))).foldl (fun a l => a ||| (v l).2) 0) =
      ((s.used (.of g [(d, wordsOf dw)] (src.map (fun e => (e.1, wordsOf e.2))))).result d dw (s.active g)
        (fun l => (f s l).1)).raise s.cur.coh ((lanesOf (once d (s.active g))).foldl (fun a l => a ||| (f s l).2) 0) := by
    rintro v rfl; rfl
  rw [issue_body h (e _ hfs) (Body_cur hb)]
  exact wrote_of_body h.there hb

/-- A fixed word that computes a predicate. -/
theorem computeP_spec {s : State} {g : Guard} {p : BitVec 3} {src : List (Opnd × Bool)} (f : State → Nat → Bool × NFlags)
    (h : s.CanIssue (.of g [] (src.map (fun e => (e.1, wordsOf e.2))))) (hf : ∀ n l, f (s.used n) l = f s l) :
    s.WroteP (s.computeP g p src f) p.toNat (s.active g) (fun l => (f s l).1)
      ((lanesOf (s.active g)).foldl (fun a l => a ||| (f s l).2) 0) := by
  unfold State.computeP
  have h0 := Body_resultP (s := s.used (.of g [] (src.map (fun e => (e.1, wordsOf e.2))))) p (s.active g)
    (fun l => (f s l).1) ((isSome_used _ _ _).trans h.there)
  simp only [v_used, sreg_used, handles_used, pred_used, cur_used] at h0
  have h1 := Body_used (s := s) (n := .of g [] (src.map (fun e => (e.1, wordsOf e.2)))) h0
  have hb := Body_raise h1 h.there ((lanesOf (s.active g)).foldl (fun a l => a ||| (f s l).2) 0)
  have hfs : f (s.used (.of g [] (src.map (fun e => (e.1, wordsOf e.2))))) = f s := funext (hf _)
  have e : ∀ v : Nat → Bool × NFlags, v = f s → ((s.used (.of g [] (src.map (fun e => (e.1, wordsOf e.2))))).resultP p
      (s.active g) (fun l => (v l).1)).raise s.cur.coh ((lanesOf (s.active g)).foldl (fun a l => a ||| (v l).2) 0) =
      ((s.used (.of g [] (src.map (fun e => (e.1, wordsOf e.2))))).resultP p (s.active g) (fun l => (f s l).1)).raise
        s.cur.coh ((lanesOf (s.active g)).foldl (fun a l => a ||| (f s l).2) 0) := by
    rintro v rfl; rfl
  rw [issue_body h (e _ hfs) (Body_cur hb)]
  obtain ⟨a, b, c, d', e, g', i, j⟩ := Body_advance hb h.there
  exact ⟨a, b, c, d', e, g', i, j⟩

end Sys2Proof.Machine
end

