-- ==== Sys2Proof/Laws/Encode.lean ====
section
/-! SUPPORT. The fields of an encoded word: what the decoder reads at the places where it looks, layout by layout. -/

namespace Sys2Proof

open BitVec

theorem bit_lo {v w i : Nat} {x : BitVec v} {y : BitVec w} (h : i < w) : (x ++ y).getLsbD i = y.getLsbD i := by
  rw [getLsbD_append, if_pos h]

theorem bit_hi {v w i : Nat} {x : BitVec v} {y : BitVec w} (h : w ≤ i) : (x ++ y).getLsbD i = x.getLsbD (i - w) := by
  rw [getLsbD_append, if_neg (by omega)]

theorem skip {v w s n : Nat} {x : BitVec v} {y : BitVec w} {z : BitVec n} (h : w ≤ s) (e : x.extractLsb' (s - w) n = z) :
    (x ++ y).extractLsb' s n = z := (extractLsb'_append_eq_of_le h).trans e

theorem take {v w s n : Nat} {x : BitVec v} {y : BitVec w} {z : BitVec n} (h : s + n ≤ w) (e : y.extractLsb' s n = z) :
    (x ++ y).extractLsb' s n = z := (extractLsb'_append_eq_of_add_le h).trans e

theorem join {N : Nat} {w : BitVec N} {lo n k : Nat} {x : BitVec n} {y : BitVec k} (h : w.extractLsb' (lo + k) n = x)
    (h' : w.extractLsb' lo k = y) : w.extractLsb' lo (n + k) = x ++ y := by
  rw [← h, ← h']
  exact (extractLsb'_append_extractLsb'_eq_extractLsb' rfl).symm

theorem skipBit {v w i : Nat} {x : BitVec v} {y : BitVec w} {b : Bool} (h : w ≤ i) (e : x.getLsbD (i - w) = b) :
    (x ++ y).getLsbD i = b := (bit_hi h).trans e

theorem takeBit {v w i : Nat} {x : BitVec v} {y : BitVec w} {b : Bool} (h : i < w) (e : y.getLsbD i = b) :
    (x ++ y).getLsbD i = b := (bit_lo h).trans e

theorem b1_get (b : Bool) : (Bool.b1 b).getLsbD 0 = b := by cases b <;> rfl

@[simp] theorem chk_true (k : Nat) : chk k true = 0 := rfl

@[simp] theorem lowest_zero_left (k : Nat) : lowest 0 k = k := rfl

theorem zeros_eq (w : DWord) (lo n : Nat) : zeros w lo n = (fld w lo n == 0#n) := rfl

/-! ### Codes -/

@[simp] theorem ofCode_code (o : Opnd) : Opnd.ofCode o.code = o := by
  cases o with
  | v n =>
    have h : (0#1 ++ n).getLsbD 7 = false := bit_hi (by decide)
    have e : (0#1 ++ n).extractLsb' 0 7 = n := (extractLsb'_append_eq_of_add_le (by decide)).trans extractLsb'_eq_self
    exact (if_pos h).trans (congrArg Opnd.v e)
  | s n =>
    have h : (2#2 ++ n).getLsbD 7 = true := bit_hi (by decide)
    have h' : (2#2 ++ n).getLsbD 6 = false := bit_hi (by decide)
    have e : (2#2 ++ n).extractLsb' 0 6 = n := (extractLsb'_append_eq_of_add_le (by decide)).trans extractLsb'_eq_self
    exact (if_neg (fun y => absurd (h.symm.trans y) (by decide))).trans ((if_pos h').trans (congrArg Opnd.s e))
  | i n =>
    have h : (6#3 ++ n).getLsbD 7 = true := bit_hi (by decide)
    have h' : (6#3 ++ n).getLsbD 6 = true := bit_hi (by decide)
    have h'' : (6#3 ++ n).getLsbD 5 = false := bit_hi (by decide)
    have e : (6#3 ++ n).extractLsb' 0 5 = n := (extractLsb'_append_eq_of_add_le (by decide)).trans extractLsb'_eq_self
    exact (if_neg (fun y => absurd (h.symm.trans y) (by decide))).trans ((if_neg (fun y => absurd (h'.symm.trans y) (by decide))).trans ((if_pos h'').trans (congrArg Opnd.i e)))
  | f n =>
    have h : (14#4 ++ n).getLsbD 7 = true := bit_hi (by decide)
    have h' : (14#4 ++ n).getLsbD 6 = true := bit_hi (by decide)
    have h'' : (14#4 ++ n).getLsbD 5 = true := bit_hi (by decide)
    have h4 : (14#4 ++ n).getLsbD 4 = false := bit_hi (by decide)
    have e : (14#4 ++ n).extractLsb' 0 4 = n := (extractLsb'_append_eq_of_add_le (by decide)).trans extractLsb'_eq_self
    exact (if_neg (fun y => absurd (h.symm.trans y) (by decide))).trans ((if_neg (fun y => absurd (h'.symm.trans y) (by decide))).trans ((if_neg (fun y => absurd (h''.symm.trans y) (by decide))).trans
      ((if_pos h4).trans (congrArg Opnd.f e))))
  | x n =>
    have h : (15#4 ++ n).getLsbD 7 = true := bit_hi (by decide)
    have h' : (15#4 ++ n).getLsbD 6 = true := bit_hi (by decide)
    have h'' : (15#4 ++ n).getLsbD 5 = true := bit_hi (by decide)
    have h4 : (15#4 ++ n).getLsbD 4 = true := bit_hi (by decide)
    have e : (15#4 ++ n).extractLsb' 0 4 = n := (extractLsb'_append_eq_of_add_le (by decide)).trans extractLsb'_eq_self
    exact (if_neg (fun y => absurd (h.symm.trans y) (by decide))).trans ((if_neg (fun y => absurd (h'.symm.trans y) (by decide))).trans ((if_neg (fun y => absurd (h''.symm.trans y) (by decide))).trans
      ((if_neg (fun y => absurd (h4.symm.trans y) (by decide))).trans (congrArg Opnd.x e))))

@[simp] theorem Rnd.ofCode_code (x : Rnd) : Rnd.ofCode x.code = x := by cases x <;> rfl

@[simp] theorem okRnd_code (x : Rnd) : okRnd x.code = true := by cases x <;> rfl

@[simp] theorem Order.ofCode_code (x : Order) : Order.ofCode x.code = x := by cases x <;> rfl

@[simp] theorem FenceKind.ofCode_code (x : FenceKind) : FenceKind.ofCode x.code = x := by cases x <;> rfl

@[simp] theorem Scope.ofCode_code (x : Scope) : Scope.ofCode x.code = x := by cases x <;> rfl

@[simp] theorem okScope_code (x : Scope) : okScope x.code = true := by cases x <;> rfl

@[simp] theorem MType.ofCode_code (x : MType) : MType.ofCode x.code = x := by cases x <;> rfl

@[simp] theorem Space.ofCode_code (x : Space) : Space.ofCode x.code = x := by cases x <;> rfl

@[simp] theorem ICond.ofCode_code (x : ICond) : ICond.ofCode x.code = x := by cases x <;> rfl

@[simp] theorem FCond.ofCode_code (x : FCond) : FCond.ofCode x.code = x := by cases x <;> rfl

@[simp] theorem CvtTy.ofCode_code (x : CvtTy) : CvtTy.ofCode x.code = x := by cases x <;> rfl

@[simp] theorem okCvtTy_code (x : CvtTy) : okCvtTy x.code = true := by cases x <;> rfl

@[simp] theorem ShflMode.ofCode_code (x : ShflMode) : ShflMode.ofCode x.code = x := by cases x <;> rfl

@[simp] theorem VoteMode.ofCode_code (x : VoteMode) : VoteMode.ofCode x.code = x := by cases x <;> rfl

@[simp] theorem LaneOp.ofCode_code (x : LaneOp) : LaneOp.ofCode x.code = x := by cases x <;> rfl

@[simp] theorem AOp.ofCode_code (x : AOp) : AOp.ofCode x.code = x := by cases x <;> rfl

@[simp] theorem okAOp_code (x : AOp) : okAOp x.code = true := by cases x <;> rfl

@[simp] theorem SpReg.ofCode_code (x : SpReg) : SpReg.ofCode x.code = x := by cases x <;> rfl

@[simp] theorem flagOf_code (f : FlagSel) : flagOf f.code = f := by cases f <;> rfl

@[simp] theorem code_ne_three (f : FlagSel) : (f.code != 3#2) = true := by cases f <;> rfl

@[simp] theorem mtype_code_ne (t : MType) : (t.code != 15#4) = true := by cases t <;> rfl

@[simp] theorem space_code_le (p : Space) : p.code.toNat ≤ 4 := by cases p <;> decide

@[simp] theorem icond_code_le (c : ICond) : c.code.toNat ≤ 5 := by cases c <;> decide

@[simp] theorem shfl_code_le (c : ShflMode) : c.code.toNat ≤ 3 := by cases c <;> decide

@[simp] theorem vote_code_le (c : VoteMode) : c.code.toNat ≤ 3 := by cases c <;> decide

@[simp] theorem laneOp_code_le (c : LaneOp) : c.code.toNat ≤ 8 := by cases c <;> decide

/-! ### Eight-bit fields -/

@[simp] theorem raw3_lo (p : BitVec 3) :
    (raw3 p).extractLsb' 0 3 = p := take (by decide) extractLsb'_eq_self

@[simp] theorem raw3_hi (p : BitVec 3) :
    (raw3 p).extractLsb' 3 5 = 0#5 := skip (by decide) extractLsb'_eq_self

@[simp] theorem raw5_lo (p : BitVec 5) :
    (raw5 p).extractLsb' 0 5 = p := take (by decide) extractLsb'_eq_self

@[simp] theorem raw5_hi (p : BitVec 5) :
    (raw5 p).extractLsb' 5 3 = 0#3 := skip (by decide) extractLsb'_eq_self

@[simp] theorem sCode_lo (n : BitVec 6) :
    sOf (sCode n) = n := take (by decide) extractLsb'_eq_self

@[simp] theorem sCode_hi (n : BitVec 6) :
    isSCode (sCode n) = true := by
  have h : (sCode n).extractLsb' 6 2 = 2#2 := skip (by decide) extractLsb'_eq_self
  simp [isSCode, h]

@[simp] theorem vCode_lo (n : BitVec 7) :
    (vCode n).extractLsb' 0 7 = n := take (by decide) extractLsb'_eq_self

@[simp] theorem vCode_hi (n : BitVec 7) :
    isVCode (vCode n) = true := congrArg (!·) (show (vCode n).getLsbD 7 = false from bit_hi (by decide))

/-! ### The R layout -/

@[simp] theorem encR_op (op : BitVec 7) (g : Guard) (d a b c : BitVec 8) (fn : BitVec 6) (f : BitVec 2) (m : BitVec 12) :
    fld (encR op g d a b c fn f m) 56 7 = op := skip (by decide) (skip (by decide) (skip (by decide) (skip (by decide) (skip (by decide) (skip (by decide) (skip (by decide) (skip (by decide) (skip (by decide) (take (by decide) (extractLsb'_eq_self))))))))))

@[simp] theorem encR_63 (op : BitVec 7) (g : Guard) (d a b c : BitVec 8) (fn : BitVec 6) (f : BitVec 2) (m : BitVec 12) :
    bit (encR op g d a b c fn f m) 63 = false := skipBit (by decide) (skipBit (by decide) (skipBit (by decide) (skipBit (by decide) (skipBit (by decide) (skipBit (by decide) (skipBit (by decide) (skipBit (by decide) (skipBit (by decide) (skipBit (by decide) (rfl))))))))))

@[simp] theorem encR_guard (op : BitVec 7) (g : Guard) (d a b c : BitVec 8) (fn : BitVec 6) (f : BitVec 2) (m : BitVec 12) : guardOf (encR op g d a b c fn f m) = g := by
  have h : fld (encR op g d a b c fn f m) 53 3 = g.p := skip (by decide) (skip (by decide) (skip (by decide) (skip (by decide) (skip (by decide) (skip (by decide) (skip (by decide) (skip (by decide) (take (by decide) (extractLsb'_eq_self)))))))))
  have h' : bit (encR op g d a b c fn f m) 52 = g.inv := skipBit (by decide) (skipBit (by decide) (skipBit (by decide) (skipBit (by decide) (skipBit (by decide) (skipBit (by decide) (skipBit (by decide) (takeBit (by decide) (b1_get _))))))))
  simp only [guardOf, h, h']

@[simp] theorem encR_d (op : BitVec 7) (g : Guard) (d a b c : BitVec 8) (fn : BitVec 6) (f : BitVec 2) (m : BitVec 12) :
    fld (encR op g d a b c fn f m) 44 8 = d := skip (by decide) (skip (by decide) (skip (by decide) (skip (by decide) (skip (by decide) (skip (by decide) (take (by decide) (extractLsb'_eq_self)))))))

@[simp] theorem encR_d_0_3 (op : BitVec 7) (g : Guard) (d a b c : BitVec 8) (fn : BitVec 6) (f : BitVec 2) (m : BitVec 12) :
    fld (encR op g d a b c fn f m) 44 3 = d.extractLsb' 0 3 := skip (by decide) (skip (by decide) (skip (by decide) (skip (by decide) (skip (by decide) (skip (by decide) (take (by decide) (rfl)))))))

@[simp] theorem encR_d_3_5 (op : BitVec 7) (g : Guard) (d a b c : BitVec 8) (fn : BitVec 6) (f : BitVec 2) (m : BitVec 12) :
    fld (encR op g d a b c fn f m) 47 5 = d.extractLsb' 3 5 := skip (by decide) (skip (by decide) (skip (by decide) (skip (by decide) (skip (by decide) (skip (by decide) (take (by decide) (rfl)))))))

@[simp] theorem encR_d_0_7 (op : BitVec 7) (g : Guard) (d a b c : BitVec 8) (fn : BitVec 6) (f : BitVec 2) (m : BitVec 12) :
    fld (encR op g d a b c fn f m) 44 7 = d.extractLsb' 0 7 := skip (by decide) (skip (by decide) (skip (by decide) (skip (by decide) (skip (by decide) (skip (by decide) (take (by decide) (rfl)))))))

@[simp] theorem encR_a (op : BitVec 7) (g : Guard) (d a b c : BitVec 8) (fn : BitVec 6) (f : BitVec 2) (m : BitVec 12) :
    fld (encR op g d a b c fn f m) 36 8 = a := skip (by decide) (skip (by decide) (skip (by decide) (skip (by decide) (skip (by decide) (take (by decide) (extractLsb'_eq_self))))))

@[simp] theorem encR_a_0_3 (op : BitVec 7) (g : Guard) (d a b c : BitVec 8) (fn : BitVec 6) (f : BitVec 2) (m : BitVec 12) :
    fld (encR op g d a b c fn f m) 36 3 = a.extractLsb' 0 3 := skip (by decide) (skip (by decide) (skip (by decide) (skip (by decide) (skip (by decide) (take (by decide) (rfl))))))

@[simp] theorem encR_a_3_5 (op : BitVec 7) (g : Guard) (d a b c : BitVec 8) (fn : BitVec 6) (f : BitVec 2) (m : BitVec 12) :
    fld (encR op g d a b c fn f m) 39 5 = a.extractLsb' 3 5 := skip (by decide) (skip (by decide) (skip (by decide) (skip (by decide) (skip (by decide) (take (by decide) (rfl))))))

@[simp] theorem encR_b (op : BitVec 7) (g : Guard) (d a b c : BitVec 8) (fn : BitVec 6) (f : BitVec 2) (m : BitVec 12) :
    fld (encR op g d a b c fn f m) 28 8 = b := skip (by decide) (skip (by decide) (skip (by decide) (skip (by decide) (take (by decide) (extractLsb'_eq_self)))))

@[simp] theorem encR_b_0_3 (op : BitVec 7) (g : Guard) (d a b c : BitVec 8) (fn : BitVec 6) (f : BitVec 2) (m : BitVec 12) :
    fld (encR op g d a b c fn f m) 28 3 = b.extractLsb' 0 3 := skip (by decide) (skip (by decide) (skip (by decide) (skip (by decide) (take (by decide) (rfl)))))

@[simp] theorem encR_b_3_5 (op : BitVec 7) (g : Guard) (d a b c : BitVec 8) (fn : BitVec 6) (f : BitVec 2) (m : BitVec 12) :
    fld (encR op g d a b c fn f m) 31 5 = b.extractLsb' 3 5 := skip (by decide) (skip (by decide) (skip (by decide) (skip (by decide) (take (by decide) (rfl)))))

@[simp] theorem encR_c (op : BitVec 7) (g : Guard) (d a b c : BitVec 8) (fn : BitVec 6) (f : BitVec 2) (m : BitVec 12) :
    fld (encR op g d a b c fn f m) 20 8 = c := skip (by decide) (skip (by decide) (skip (by decide) (take (by decide) (extractLsb'_eq_self))))

@[simp] theorem encR_c_0_3 (op : BitVec 7) (g : Guard) (d a b c : BitVec 8) (fn : BitVec 6) (f : BitVec 2) (m : BitVec 12) :
    fld (encR op g d a b c fn f m) 20 3 = c.extractLsb' 0 3 := skip (by decide) (skip (by decide) (skip (by decide) (take (by decide) (rfl))))

@[simp] theorem encR_c_3_5 (op : BitVec 7) (g : Guard) (d a b c : BitVec 8) (fn : BitVec 6) (f : BitVec 2) (m : BitVec 12) :
    fld (encR op g d a b c fn f m) 23 5 = c.extractLsb' 3 5 := skip (by decide) (skip (by decide) (skip (by decide) (take (by decide) (rfl))))

@[simp] theorem encR_fn (op : BitVec 7) (g : Guard) (d a b c : BitVec 8) (fn : BitVec 6) (f : BitVec 2) (m : BitVec 12) :
    fld (encR op g d a b c fn f m) 14 6 = fn := skip (by decide) (skip (by decide) (take (by decide) (extractLsb'_eq_self)))

@[simp] theorem encR_f (op : BitVec 7) (g : Guard) (d a b c : BitVec 8) (fn : BitVec 6) (f : BitVec 2) (m : BitVec 12) :
    fld (encR op g d a b c fn f m) 12 2 = f := skip (by decide) (take (by decide) (extractLsb'_eq_self))

theorem encR_low (op : BitVec 7) (g : Guard) (d a b c : BitVec 8) (fn : BitVec 6) (f : BitVec 2) (m : BitVec 12) (lo n : Nat) (h : lo + n ≤ 12) :
    fld (encR op g d a b c fn f m) lo n = m.extractLsb' lo n := extractLsb'_append_eq_of_add_le h

theorem encR_bit (op : BitVec 7) (g : Guard) (d a b c : BitVec 8) (fn : BitVec 6) (f : BitVec 2) (m : BitVec 12) (i : Nat) (h : i < 12) :
    bit (encR op g d a b c fn f m) i = m.getLsbD i := bit_lo h

@[simp] theorem encR_s20_16 (op : BitVec 7) (g : Guard) (d a b c : BitVec 8) (fn : BitVec 6) (f : BitVec 2) (m : BitVec 12) :
    fld (encR op g d a b c fn f m) 20 16 = b ++ (c) := by
  have h0 : (encR op g d a b c fn f m).extractLsb' 20 8 = c := skip (by decide) (skip (by decide) (skip (by decide) (take (by decide) (extractLsb'_eq_self))))
  have g1 : (encR op g d a b c fn f m).extractLsb' 28 8 = b := skip (by decide) (skip (by decide) (skip (by decide) (skip (by decide) (take (by decide) (extractLsb'_eq_self)))))
  have h1 : (encR op g d a b c fn f m).extractLsb' 20 16 = b ++ (c) := join (lo := 20) (n := 8) (k := 8) g1 h0
  exact h1

@[simp] theorem encR_s20_24 (op : BitVec 7) (g : Guard) (d a b c : BitVec 8) (fn : BitVec 6) (f : BitVec 2) (m : BitVec 12) :
    fld (encR op g d a b c fn f m) 20 24 = a ++ (b ++ (c)) := by
  have h0 : (encR op g d a b c fn f m).extractLsb' 20 8 = c := skip (by decide) (skip (by decide) (skip (by decide) (take (by decide) (extractLsb'_eq_self))))
  have g1 : (encR op g d a b c fn f m).extractLsb' 28 8 = b := skip (by decide) (skip (by decide) (skip (by decide) (skip (by decide) (take (by decide) (extractLsb'_eq_self)))))
  have h1 : (encR op g d a b c fn f m).extractLsb' 20 16 = b ++ (c) := join (lo := 20) (n := 8) (k := 8) g1 h0
  have g2 : (encR op g d a b c fn f m).extractLsb' 36 8 = a := skip (by decide) (skip (by decide) (skip (by decide) (skip (by decide) (skip (by decide) (take (by decide) (extractLsb'_eq_self))))))
  have h2 : (encR op g d a b c fn f m).extractLsb' 20 24 = a ++ (b ++ (c)) := join (lo := 20) (n := 8) (k := 16) g2 h1
  exact h2

@[simp] theorem encR_s20_32 (op : BitVec 7) (g : Guard) (d a b c : BitVec 8) (fn : BitVec 6) (f : BitVec 2) (m : BitVec 12) :
    fld (encR op g d a b c fn f m) 20 32 = d ++ (a ++ (b ++ (c))) := by
  have h0 : (encR op g d a b c fn f m).extractLsb' 20 8 = c := skip (by decide) (skip (by decide) (skip (by decide) (take (by decide) (extractLsb'_eq_self))))
  have g1 : (encR op g d a b c fn f m).extractLsb' 28 8 = b := skip (by decide) (skip (by decide) (skip (by decide) (skip (by decide) (take (by decide) (extractLsb'_eq_self)))))
  have h1 : (encR op g d a b c fn f m).extractLsb' 20 16 = b ++ (c) := join (lo := 20) (n := 8) (k := 8) g1 h0
  have g2 : (encR op g d a b c fn f m).extractLsb' 36 8 = a := skip (by decide) (skip (by decide) (skip (by decide) (skip (by decide) (skip (by decide) (take (by decide) (extractLsb'_eq_self))))))
  have h2 : (encR op g d a b c fn f m).extractLsb' 20 24 = a ++ (b ++ (c)) := join (lo := 20) (n := 8) (k := 16) g2 h1
  have g3 : (encR op g d a b c fn f m).extractLsb' 44 8 = d := skip (by decide) (skip (by decide) (skip (by decide) (skip (by decide) (skip (by decide) (skip (by decide) (take (by decide) (extractLsb'_eq_self)))))))
  have h3 : (encR op g d a b c fn f m).extractLsb' 20 32 = d ++ (a ++ (b ++ (c))) := join (lo := 20) (n := 8) (k := 24) g3 h2
  exact h3

/-! ### The I layout -/

@[simp] theorem encI_op (op : BitVec 7) (g : Guard) (d a : BitVec 8) (m : BitVec 4) (imm : BitVec 32) :
    fld (encI op g d a m imm) 56 7 = op := skip (by decide) (skip (by decide) (skip (by decide) (skip (by decide) (skip (by decide) (skip (by decide) (take (by decide) (extractLsb'_eq_self)))))))

@[simp] theorem encI_63 (op : BitVec 7) (g : Guard) (d a : BitVec 8) (m : BitVec 4) (imm : BitVec 32) :
    bit (encI op g d a m imm) 63 = false := skipBit (by decide) (skipBit (by decide) (skipBit (by decide) (skipBit (by decide) (skipBit (by decide) (skipBit (by decide) (skipBit (by decide) (rfl)))))))

@[simp] theorem encI_guard (op : BitVec 7) (g : Guard) (d a : BitVec 8) (m : BitVec 4) (imm : BitVec 32) : guardOf (encI op g d a m imm) = g := by
  have h : fld (encI op g d a m imm) 53 3 = g.p := skip (by decide) (skip (by decide) (skip (by decide) (skip (by decide) (skip (by decide) (take (by decide) (extractLsb'_eq_self))))))
  have h' : bit (encI op g d a m imm) 52 = g.inv := skipBit (by decide) (skipBit (by decide) (skipBit (by decide) (skipBit (by decide) (takeBit (by decide) (b1_get _)))))
  simp only [guardOf, h, h']

@[simp] theorem encI_d (op : BitVec 7) (g : Guard) (d a : BitVec 8) (m : BitVec 4) (imm : BitVec 32) :
    fld (encI op g d a m imm) 44 8 = d := skip (by decide) (skip (by decide) (skip (by decide) (take (by decide) (extractLsb'_eq_self))))

@[simp] theorem encI_a (op : BitVec 7) (g : Guard) (d a : BitVec 8) (m : BitVec 4) (imm : BitVec 32) :
    fld (encI op g d a m imm) 36 8 = a := skip (by decide) (skip (by decide) (take (by decide) (extractLsb'_eq_self)))

@[simp] theorem encI_m (op : BitVec 7) (g : Guard) (d a : BitVec 8) (m : BitVec 4) (imm : BitVec 32) :
    fld (encI op g d a m imm) 32 4 = m := skip (by decide) (take (by decide) (extractLsb'_eq_self))

@[simp] theorem encI_m_1_3 (op : BitVec 7) (g : Guard) (d a : BitVec 8) (m : BitVec 4) (imm : BitVec 32) :
    fld (encI op g d a m imm) 33 3 = m.extractLsb' 1 3 := skip (by decide) (take (by decide) (rfl))

@[simp] theorem encI_imm (op : BitVec 7) (g : Guard) (d a : BitVec 8) (m : BitVec 4) (imm : BitVec 32) :
    fld (encI op g d a m imm) 0 32 = imm := take (by decide) (extractLsb'_eq_self)

/-! ### The B layout -/

@[simp] theorem encB_op (op : BitVec 7) (g : Guard) (d a : BitVec 8) (off : BitVec 32) (idx : BitVec 3) :
    fld (encB op g d a off idx) 56 7 = op := skip (by decide) (skip (by decide) (skip (by decide) (skip (by decide) (skip (by decide) (skip (by decide) (skip (by decide) (take (by decide) (extractLsb'_eq_self))))))))

@[simp] theorem encB_63 (op : BitVec 7) (g : Guard) (d a : BitVec 8) (off : BitVec 32) (idx : BitVec 3) :
    bit (encB op g d a off idx) 63 = false := skipBit (by decide) (skipBit (by decide) (skipBit (by decide) (skipBit (by decide) (skipBit (by decide) (skipBit (by decide) (skipBit (by decide) (skipBit (by decide) (rfl))))))))

@[simp] theorem encB_guard (op : BitVec 7) (g : Guard) (d a : BitVec 8) (off : BitVec 32) (idx : BitVec 3) : guardOf (encB op g d a off idx) = g := by
  have h : fld (encB op g d a off idx) 53 3 = g.p := skip (by decide) (skip (by decide) (skip (by decide) (skip (by decide) (skip (by decide) (skip (by decide) (take (by decide) (extractLsb'_eq_self)))))))
  have h' : bit (encB op g d a off idx) 52 = g.inv := skipBit (by decide) (skipBit (by decide) (skipBit (by decide) (skipBit (by decide) (skipBit (by decide) (takeBit (by decide) (b1_get _))))))
  simp only [guardOf, h, h']

@[simp] theorem encB_d (op : BitVec 7) (g : Guard) (d a : BitVec 8) (off : BitVec 32) (idx : BitVec 3) :
    fld (encB op g d a off idx) 44 8 = d := skip (by decide) (skip (by decide) (skip (by decide) (skip (by decide) (take (by decide) (extractLsb'_eq_self)))))

@[simp] theorem encB_a (op : BitVec 7) (g : Guard) (d a : BitVec 8) (off : BitVec 32) (idx : BitVec 3) :
    fld (encB op g d a off idx) 36 8 = a := skip (by decide) (skip (by decide) (skip (by decide) (take (by decide) (extractLsb'_eq_self))))

@[simp] theorem encB_a_0_3 (op : BitVec 7) (g : Guard) (d a : BitVec 8) (off : BitVec 32) (idx : BitVec 3) :
    fld (encB op g d a off idx) 36 3 = a.extractLsb' 0 3 := skip (by decide) (skip (by decide) (skip (by decide) (take (by decide) (rfl))))

@[simp] theorem encB_a_4_4 (op : BitVec 7) (g : Guard) (d a : BitVec 8) (off : BitVec 32) (idx : BitVec 3) :
    fld (encB op g d a off idx) 40 4 = a.extractLsb' 4 4 := skip (by decide) (skip (by decide) (skip (by decide) (take (by decide) (rfl))))

@[simp] theorem encB_a_1_7 (op : BitVec 7) (g : Guard) (d a : BitVec 8) (off : BitVec 32) (idx : BitVec 3) :
    fld (encB op g d a off idx) 37 7 = a.extractLsb' 1 7 := skip (by decide) (skip (by decide) (skip (by decide) (take (by decide) (rfl))))

@[simp] theorem encB_off (op : BitVec 7) (g : Guard) (d a : BitVec 8) (off : BitVec 32) (idx : BitVec 3) :
    fld (encB op g d a off idx) 4 32 = off := skip (by decide) (skip (by decide) (take (by decide) (extractLsb'_eq_self)))

@[simp] theorem encB_idx (op : BitVec 7) (g : Guard) (d a : BitVec 8) (off : BitVec 32) (idx : BitVec 3) :
    fld (encB op g d a off idx) 1 3 = idx := skip (by decide) (take (by decide) (extractLsb'_eq_self))

/-! ### The M layout -/

@[simp] theorem encM_op (op : BitVec 7) (m : MArgs) (d x : BitVec 8) (off : BitVec 14) :
    fld (encM op m d x off) 56 7 = op := skip (by decide) (skip (by decide) (skip (by decide) (skip (by decide) (skip (by decide) (skip (by decide) (skip (by decide) (skip (by decide) (skip (by decide) (skip (by decide) (skip (by decide) (take (by decide) (extractLsb'_eq_self))))))))))))

@[simp] theorem encM_63 (op : BitVec 7) (m : MArgs) (d x : BitVec 8) (off : BitVec 14) :
    bit (encM op m d x off) 63 = false := skipBit (by decide) (skipBit (by decide) (skipBit (by decide) (skipBit (by decide) (skipBit (by decide) (skipBit (by decide) (skipBit (by decide) (skipBit (by decide) (skipBit (by decide) (skipBit (by decide) (skipBit (by decide) (skipBit (by decide) (rfl))))))))))))

@[simp] theorem encM_guard (op : BitVec 7) (m : MArgs) (d x : BitVec 8) (off : BitVec 14) : guardOf (encM op m d x off) = m.g := by
  have h : fld (encM op m d x off) 53 3 = m.g.p := skip (by decide) (skip (by decide) (skip (by decide) (skip (by decide) (skip (by decide) (skip (by decide) (skip (by decide) (skip (by decide) (skip (by decide) (skip (by decide) (take (by decide) (extractLsb'_eq_self)))))))))))
  have h' : bit (encM op m d x off) 52 = m.g.inv := skipBit (by decide) (skipBit (by decide) (skipBit (by decide) (skipBit (by decide) (skipBit (by decide) (skipBit (by decide) (skipBit (by decide) (skipBit (by decide) (skipBit (by decide) (takeBit (by decide) (b1_get _))))))))))
  simp only [guardOf, h, h']

@[simp] theorem encM_d (op : BitVec 7) (m : MArgs) (d x : BitVec 8) (off : BitVec 14) :
    fld (encM op m d x off) 44 8 = d := skip (by decide) (skip (by decide) (skip (by decide) (skip (by decide) (skip (by decide) (skip (by decide) (skip (by decide) (skip (by decide) (take (by decide) (extractLsb'_eq_self)))))))))

@[simp] theorem encM_d_1_7 (op : BitVec 7) (m : MArgs) (d x : BitVec 8) (off : BitVec 14) :
    fld (encM op m d x off) 45 7 = d.extractLsb' 1 7 := skip (by decide) (skip (by decide) (skip (by decide) (skip (by decide) (skip (by decide) (skip (by decide) (skip (by decide) (skip (by decide) (take (by decide) (rfl)))))))))

@[simp] theorem encM_mbasecode (op : BitVec 7) (m : MArgs) (d x : BitVec 8) (off : BitVec 14) :
    fld (encM op m d x off) 36 8 = m.base.code := skip (by decide) (skip (by decide) (skip (by decide) (skip (by decide) (skip (by decide) (skip (by decide) (skip (by decide) (take (by decide) (extractLsb'_eq_self))))))))

@[simp] theorem encM_x (op : BitVec 7) (m : MArgs) (d x : BitVec 8) (off : BitVec 14) :
    fld (encM op m d x off) 28 8 = x := skip (by decide) (skip (by decide) (skip (by decide) (skip (by decide) (skip (by decide) (skip (by decide) (take (by decide) (extractLsb'_eq_self)))))))

@[simp] theorem encM_mtycode (op : BitVec 7) (m : MArgs) (d x : BitVec 8) (off : BitVec 14) :
    fld (encM op m d x off) 24 4 = m.ty.code := skip (by decide) (skip (by decide) (skip (by decide) (skip (by decide) (skip (by decide) (take (by decide) (extractLsb'_eq_self))))))

@[simp] theorem encM_mordcode (op : BitVec 7) (m : MArgs) (d x : BitVec 8) (off : BitVec 14) :
    fld (encM op m d x off) 22 2 = m.ord.code := skip (by decide) (skip (by decide) (skip (by decide) (skip (by decide) (take (by decide) (extractLsb'_eq_self)))))

@[simp] theorem encM_msccode (op : BitVec 7) (m : MArgs) (d x : BitVec 8) (off : BitVec 14) :
    fld (encM op m d x off) 19 3 = m.sc.code := skip (by decide) (skip (by decide) (skip (by decide) (take (by decide) (extractLsb'_eq_self))))

@[simp] theorem encM_mfcode (op : BitVec 7) (m : MArgs) (d x : BitVec 8) (off : BitVec 14) :
    fld (encM op m d x off) 17 2 = m.f.code := skip (by decide) (skip (by decide) (take (by decide) (extractLsb'_eq_self)))

@[simp] theorem encM_mspcode (op : BitVec 7) (m : MArgs) (d x : BitVec 8) (off : BitVec 14) :
    fld (encM op m d x off) 14 3 = m.sp.code := skip (by decide) (take (by decide) (extractLsb'_eq_self))

theorem encM_low (op : BitVec 7) (m : MArgs) (d x : BitVec 8) (off : BitVec 14) (lo n : Nat) (h : lo + n ≤ 14) :
    fld (encM op m d x off) lo n = off.extractLsb' lo n := extractLsb'_append_eq_of_add_le h

theorem encM_bit (op : BitVec 7) (m : MArgs) (d x : BitVec 8) (off : BitVec 14) (i : Nat) (h : i < 14) :
    bit (encM op m d x off) i = off.getLsbD i := bit_lo h

/-! ### The E layout -/

@[simp] theorem encE_op (op : BitVec 7) (e : EArgs) (a b c : BitVec 8) (fn : BitVec 6) (m : BitVec 6) :
    fld (encE op e a b c fn m) 56 7 = op := skip (by decide) (skip (by decide) (skip (by decide) (skip (by decide) (skip (by decide) (skip (by decide) (skip (by decide) (skip (by decide) (skip (by decide) (skip (by decide) (skip (by decide) (skip (by decide) (take (by decide) (extractLsb'_eq_self)))))))))))))

@[simp] theorem encE_63 (op : BitVec 7) (e : EArgs) (a b c : BitVec 8) (fn : BitVec 6) (m : BitVec 6) :
    bit (encE op e a b c fn m) 63 = false := skipBit (by decide) (skipBit (by decide) (skipBit (by decide) (skipBit (by decide) (skipBit (by decide) (skipBit (by decide) (skipBit (by decide) (skipBit (by decide) (skipBit (by decide) (skipBit (by decide) (skipBit (by decide) (skipBit (by decide) (skipBit (by decide) (rfl)))))))))))))

@[simp] theorem encE_guard (op : BitVec 7) (e : EArgs) (a b c : BitVec 8) (fn : BitVec 6) (m : BitVec 6) : guardOf (encE op e a b c fn m) = e.g := by
  have h : fld (encE op e a b c fn m) 53 3 = e.g.p := skip (by decide) (skip (by decide) (skip (by decide) (skip (by decide) (skip (by decide) (skip (by decide) (skip (by decide) (skip (by decide) (skip (by decide) (skip (by decide) (skip (by decide) (take (by decide) (extractLsb'_eq_self))))))))))))
  have h' : bit (encE op e a b c fn m) 52 = e.g.inv := skipBit (by decide) (skipBit (by decide) (skipBit (by decide) (skipBit (by decide) (skipBit (by decide) (skipBit (by decide) (skipBit (by decide) (skipBit (by decide) (skipBit (by decide) (skipBit (by decide) (takeBit (by decide) (b1_get _)))))))))))
  simp only [guardOf, h, h']

@[simp] theorem encE_sCodeed (op : BitVec 7) (e : EArgs) (a b c : BitVec 8) (fn : BitVec 6) (m : BitVec 6) :
    fld (encE op e a b c fn m) 44 8 = (sCode e.d) := skip (by decide) (skip (by decide) (skip (by decide) (skip (by decide) (skip (by decide) (skip (by decide) (skip (by decide) (skip (by decide) (skip (by decide) (take (by decide) (extractLsb'_eq_self))))))))))

@[simp] theorem encE_a (op : BitVec 7) (e : EArgs) (a b c : BitVec 8) (fn : BitVec 6) (m : BitVec 6) :
    fld (encE op e a b c fn m) 36 8 = a := skip (by decide) (skip (by decide) (skip (by decide) (skip (by decide) (skip (by decide) (skip (by decide) (skip (by decide) (skip (by decide) (take (by decide) (extractLsb'_eq_self)))))))))

@[simp] theorem encE_a_0_5 (op : BitVec 7) (e : EArgs) (a b c : BitVec 8) (fn : BitVec 6) (m : BitVec 6) :
    fld (encE op e a b c fn m) 36 5 = a.extractLsb' 0 5 := skip (by decide) (skip (by decide) (skip (by decide) (skip (by decide) (skip (by decide) (skip (by decide) (skip (by decide) (skip (by decide) (take (by decide) (rfl)))))))))

@[simp] theorem encE_a_5_3 (op : BitVec 7) (e : EArgs) (a b c : BitVec 8) (fn : BitVec 6) (m : BitVec 6) :
    fld (encE op e a b c fn m) 41 3 = a.extractLsb' 5 3 := skip (by decide) (skip (by decide) (skip (by decide) (skip (by decide) (skip (by decide) (skip (by decide) (skip (by decide) (skip (by decide) (take (by decide) (rfl)))))))))

@[simp] theorem encE_b (op : BitVec 7) (e : EArgs) (a b c : BitVec 8) (fn : BitVec 6) (m : BitVec 6) :
    fld (encE op e a b c fn m) 28 8 = b := skip (by decide) (skip (by decide) (skip (by decide) (skip (by decide) (skip (by decide) (skip (by decide) (skip (by decide) (take (by decide) (extractLsb'_eq_self))))))))

@[simp] theorem encE_b_0_5 (op : BitVec 7) (e : EArgs) (a b c : BitVec 8) (fn : BitVec 6) (m : BitVec 6) :
    fld (encE op e a b c fn m) 28 5 = b.extractLsb' 0 5 := skip (by decide) (skip (by decide) (skip (by decide) (skip (by decide) (skip (by decide) (skip (by decide) (skip (by decide) (take (by decide) (rfl))))))))

@[simp] theorem encE_b_5_3 (op : BitVec 7) (e : EArgs) (a b c : BitVec 8) (fn : BitVec 6) (m : BitVec 6) :
    fld (encE op e a b c fn m) 33 3 = b.extractLsb' 5 3 := skip (by decide) (skip (by decide) (skip (by decide) (skip (by decide) (skip (by decide) (skip (by decide) (skip (by decide) (take (by decide) (rfl))))))))

@[simp] theorem encE_b_0_7 (op : BitVec 7) (e : EArgs) (a b c : BitVec 8) (fn : BitVec 6) (m : BitVec 6) :
    fld (encE op e a b c fn m) 28 7 = b.extractLsb' 0 7 := skip (by decide) (skip (by decide) (skip (by decide) (skip (by decide) (skip (by decide) (skip (by decide) (skip (by decide) (take (by decide) (rfl))))))))

@[simp] theorem encE_c (op : BitVec 7) (e : EArgs) (a b c : BitVec 8) (fn : BitVec 6) (m : BitVec 6) :
    fld (encE op e a b c fn m) 20 8 = c := skip (by decide) (skip (by decide) (skip (by decide) (skip (by decide) (skip (by decide) (skip (by decide) (take (by decide) (extractLsb'_eq_self)))))))

@[simp] theorem encE_c_0_3 (op : BitVec 7) (e : EArgs) (a b c : BitVec 8) (fn : BitVec 6) (m : BitVec 6) :
    fld (encE op e a b c fn m) 20 3 = c.extractLsb' 0 3 := skip (by decide) (skip (by decide) (skip (by decide) (skip (by decide) (skip (by decide) (skip (by decide) (take (by decide) (rfl)))))))

@[simp] theorem encE_c_3_5 (op : BitVec 7) (e : EArgs) (a b c : BitVec 8) (fn : BitVec 6) (m : BitVec 6) :
    fld (encE op e a b c fn m) 23 5 = c.extractLsb' 3 5 := skip (by decide) (skip (by decide) (skip (by decide) (skip (by decide) (skip (by decide) (skip (by decide) (take (by decide) (rfl)))))))

@[simp] theorem encE_fn (op : BitVec 7) (e : EArgs) (a b c : BitVec 8) (fn : BitVec 6) (m : BitVec 6) :
    fld (encE op e a b c fn m) 14 6 = fn := skip (by decide) (skip (by decide) (skip (by decide) (skip (by decide) (skip (by decide) (take (by decide) (extractLsb'_eq_self))))))

@[simp] theorem encE_efs (op : BitVec 7) (e : EArgs) (a b c : BitVec 8) (fn : BitVec 6) (m : BitVec 6) :
    fld (encE op e a b c fn m) 11 3 = e.fs := skip (by decide) (skip (by decide) (skip (by decide) (skip (by decide) (take (by decide) (extractLsb'_eq_self)))))

@[simp] theorem encE_esccode (op : BitVec 7) (e : EArgs) (a b c : BitVec 8) (fn : BitVec 6) (m : BitVec 6) :
    fld (encE op e a b c fn m) 6 3 = e.sc.code := skip (by decide) (take (by decide) (extractLsb'_eq_self))

theorem encE_low (op : BitVec 7) (e : EArgs) (a b c : BitVec 8) (fn : BitVec 6) (m : BitVec 6) (lo n : Nat) (h : lo + n ≤ 6) :
    fld (encE op e a b c fn m) lo n = m.extractLsb' lo n := extractLsb'_append_eq_of_add_le h

theorem encE_bit (op : BitVec 7) (e : EArgs) (a b c : BitVec 8) (fn : BitVec 6) (m : BitVec 6) (i : Nat) (h : i < 6) :
    bit (encE op e a b c fn m) i = m.getLsbD i := bit_lo h

@[simp] theorem encE_s20_16 (op : BitVec 7) (e : EArgs) (a b c : BitVec 8) (fn : BitVec 6) (m : BitVec 6) :
    fld (encE op e a b c fn m) 20 16 = b ++ (c) := by
  have h0 : (encE op e a b c fn m).extractLsb' 20 8 = c := skip (by decide) (skip (by decide) (skip (by decide) (skip (by decide) (skip (by decide) (skip (by decide) (take (by decide) (extractLsb'_eq_self)))))))
  have g1 : (encE op e a b c fn m).extractLsb' 28 8 = b := skip (by decide) (skip (by decide) (skip (by decide) (skip (by decide) (skip (by decide) (skip (by decide) (skip (by decide) (take (by decide) (extractLsb'_eq_self))))))))
  have h1 : (encE op e a b c fn m).extractLsb' 20 16 = b ++ (c) := join (lo := 20) (n := 8) (k := 8) g1 h0
  exact h1

@[simp] theorem encE_s20_24 (op : BitVec 7) (e : EArgs) (a b c : BitVec 8) (fn : BitVec 6) (m : BitVec 6) :
    fld (encE op e a b c fn m) 20 24 = a ++ (b ++ (c)) := by
  have h0 : (encE op e a b c fn m).extractLsb' 20 8 = c := skip (by decide) (skip (by decide) (skip (by decide) (skip (by decide) (skip (by decide) (skip (by decide) (take (by decide) (extractLsb'_eq_self)))))))
  have g1 : (encE op e a b c fn m).extractLsb' 28 8 = b := skip (by decide) (skip (by decide) (skip (by decide) (skip (by decide) (skip (by decide) (skip (by decide) (skip (by decide) (take (by decide) (extractLsb'_eq_self))))))))
  have h1 : (encE op e a b c fn m).extractLsb' 20 16 = b ++ (c) := join (lo := 20) (n := 8) (k := 8) g1 h0
  have g2 : (encE op e a b c fn m).extractLsb' 36 8 = a := skip (by decide) (skip (by decide) (skip (by decide) (skip (by decide) (skip (by decide) (skip (by decide) (skip (by decide) (skip (by decide) (take (by decide) (extractLsb'_eq_self)))))))))
  have h2 : (encE op e a b c fn m).extractLsb' 20 24 = a ++ (b ++ (c)) := join (lo := 20) (n := 8) (k := 16) g2 h1
  exact h2

/-! ### An R-layout word with three sources, the B layout's last bit, the E layout's ordering bits -/

@[simp] theorem encR3_r3 (op : BitVec 7) (r : R3) (fn : BitVec 6) (f : BitVec 2) (m : BitVec 12) :
    r3Of (encR op r.g r.d.code r.a.code r.b.code r.c.code fn f m) = r := by
  simp [r3Of, opD, opA, opB, opC]

@[simp] theorem encB_0 (op : BitVec 7) (g : Guard) (d a : BitVec 8) (off : BitVec 32) (idx : BitVec 3) :
    bit (encB op g d a off idx) 0 = false := takeBit (by decide) rfl

@[simp] theorem encB_39 (op : BitVec 7) (g : Guard) (d a : BitVec 8) (off : BitVec 32) (idx : BitVec 3) : bit (encB op g d a off idx) 39 = a.getLsbD 3 := skipBit (by decide) (skipBit (by decide) (skipBit (by decide) (takeBit (by decide) (rfl))))

@[simp] theorem encB_36 (op : BitVec 7) (g : Guard) (d a : BitVec 8) (off : BitVec 32) (idx : BitVec 3) : bit (encB op g d a off idx) 36 = a.getLsbD 0 := skipBit (by decide) (skipBit (by decide) (skipBit (by decide) (takeBit (by decide) (rfl))))

@[simp] theorem encM_44 (op : BitVec 7) (m : MArgs) (d x : BitVec 8) (off : BitVec 14) : bit (encM op m d x off) 44 = d.getLsbD 0 := skipBit (by decide) (skipBit (by decide) (skipBit (by decide) (skipBit (by decide) (skipBit (by decide) (skipBit (by decide) (skipBit (by decide) (skipBit (by decide) (takeBit (by decide) (rfl)))))))))

@[simp] theorem encI_32 (op : BitVec 7) (g : Guard) (d a : BitVec 8) (m : BitVec 4) (imm : BitVec 32) : bit (encI op g d a m imm) 32 = m.getLsbD 0 := skipBit (by decide) (takeBit (by decide) (rfl))

@[simp] theorem encE_10 (op : BitVec 7) (e : EArgs) (a b c : BitVec 8) (fn : BitVec 6) (m : BitVec 6) :
    bit (encE op e a b c fn m) 10 = e.acq := skipBit (by decide) (skipBit (by decide) (skipBit (by decide) (takeBit (by decide) (b1_get _))))

@[simp] theorem encE_9 (op : BitVec 7) (e : EArgs) (a b c : BitVec 8) (fn : BitVec 6) (m : BitVec 6) :
    bit (encE op e a b c fn m) 9 = e.rel := skipBit (by decide) (skipBit (by decide) (takeBit (by decide) (b1_get _)))

@[simp] theorem encE_args (op : BitVec 7) (e : EArgs) (a b c : BitVec 8) (fn m : BitVec 6) :
    eargsOf (encE op e a b c fn m) = e := by simp [eargsOf]

@[simp] theorem encE_ok (op : BitVec 7) (e : EArgs) (a b c : BitVec 8) (fn m : BitVec 6) :
    okE (encE op e a b c fn m) = 0 := by simp [okE]

@[simp] theorem encM_args (op : BitVec 7) (m : MArgs) (d x : BitVec 8) (off : BitVec 14) :
    margsOf (encM op m d x off) = m := by simp [margsOf, opA]

@[simp] theorem encM_ok (op : BitVec 7) (m : MArgs) (d x : BitVec 8) (off : BitVec 14) :
    okM (encM op m d x off) = 0 := by simp [okM]

/-! ### Modifiers -/

@[simp] theorem encImod_3_9 (m : IMod) : (encImod m).extractLsb' 3 9 = 0#9 := skip (by decide) (skip (by decide) (skip (by decide) (extractLsb'_eq_self)))

@[simp] theorem encImod_b0 (m : IMod) : (encImod m).getLsbD 0 = m.w := takeBit (by decide) (b1_get _)

@[simp] theorem encImod_b1 (m : IMod) : (encImod m).getLsbD 1 = m.u := skipBit (by decide) (takeBit (by decide) (b1_get _))

@[simp] theorem encImod_b2 (m : IMod) : (encImod m).getLsbD 2 = m.sat := skipBit (by decide) (skipBit (by decide) (takeBit (by decide) (b1_get _)))

@[simp] theorem encW_1_11 (w : Bool) : (encW w).extractLsb' 1 11 = 0#11 := skip (by decide) (extractLsb'_eq_self)

@[simp] theorem encW_b0 (w : Bool) : (encW w).getLsbD 0 = w := takeBit (by decide) (b1_get _)

@[simp] theorem encFmod_0_3 (m : FMod) (na nc : Bool) : (encFmod m na nc).extractLsb' 0 3 = m.rnd.code := take (by decide) (extractLsb'_eq_self)

@[simp] theorem encFmod_8_4 (m : FMod) (na nc : Bool) : (encFmod m na nc).extractLsb' 8 4 = 0#4 := skip (by decide) (skip (by decide) (skip (by decide) (skip (by decide) (skip (by decide) (skip (by decide) (extractLsb'_eq_self))))))

@[simp] theorem encFmod_b3 (m : FMod) (na nc : Bool) : (encFmod m na nc).getLsbD 3 = m.ftz := skipBit (by decide) (takeBit (by decide) (b1_get _))

@[simp] theorem encFmod_b4 (m : FMod) (na nc : Bool) : (encFmod m na nc).getLsbD 4 = m.f64 := skipBit (by decide) (skipBit (by decide) (takeBit (by decide) (b1_get _)))

@[simp] theorem encFmod_b5 (m : FMod) (na nc : Bool) : (encFmod m na nc).getLsbD 5 = m.sat := skipBit (by decide) (skipBit (by decide) (skipBit (by decide) (takeBit (by decide) (b1_get _))))

@[simp] theorem encFmod_b6 (m : FMod) (na nc : Bool) : (encFmod m na nc).getLsbD 6 = na := skipBit (by decide) (skipBit (by decide) (skipBit (by decide) (skipBit (by decide) (takeBit (by decide) (b1_get _)))))

@[simp] theorem encFmod_b7 (m : FMod) (na nc : Bool) : (encFmod m na nc).getLsbD 7 = nc := skipBit (by decide) (skipBit (by decide) (skipBit (by decide) (skipBit (by decide) (skipBit (by decide) (takeBit (by decide) (b1_get _))))))

@[simp] theorem encFmod0_6_6 (m : FMod) : (encFmod m false false).extractLsb' 6 6 = 0#6 := by
    have g0 : (encFmod m false false).extractLsb' 6 1 = 0#1 := skip (by decide) (skip (by decide) (skip (by decide) (skip (by decide) (take (by decide) (extractLsb'_eq_self)))))
    have g1 : (encFmod m false false).extractLsb' 7 1 = 0#1 := skip (by decide) (skip (by decide) (skip (by decide) (skip (by decide) (skip (by decide) (take (by decide) (extractLsb'_eq_self))))))
    have h1 : (encFmod m false false).extractLsb' 6 2 = 0#2 := join (lo := 6) (n := 1) (k := 1) g1 g0
    have g2 : (encFmod m false false).extractLsb' 8 4 = 0#4 := skip (by decide) (skip (by decide) (skip (by decide) (skip (by decide) (skip (by decide) (skip (by decide) (extractLsb'_eq_self))))))
    have h2 : (encFmod m false false).extractLsb' 6 6 = 0#6 := join (lo := 6) (n := 4) (k := 2) g2 h1
    exact h2

@[simp] theorem encFF_0_3 (ftz f64 : Bool) (low : BitVec 3) : (encFF ftz f64 low).extractLsb' 0 3 = low := take (by decide) (extractLsb'_eq_self)

@[simp] theorem encFF_5_7 (ftz f64 : Bool) (low : BitVec 3) : (encFF ftz f64 low).extractLsb' 5 7 = 0#7 := skip (by decide) (skip (by decide) (skip (by decide) (extractLsb'_eq_self)))

@[simp] theorem encFF_b3 (ftz f64 : Bool) (low : BitVec 3) : (encFF ftz f64 low).getLsbD 3 = ftz := skipBit (by decide) (takeBit (by decide) (b1_get _))

@[simp] theorem encFF_b4 (ftz f64 : Bool) (low : BitVec 3) : (encFF ftz f64 low).getLsbD 4 = f64 := skipBit (by decide) (skipBit (by decide) (takeBit (by decide) (b1_get _)))

@[simp] theorem encFF0_0_4 (f64 : Bool) : (encFF false f64 0#3).extractLsb' 0 4 = 0#4 := by
    have g0 : (encFF false f64 0#3).extractLsb' 0 3 = 0#3 := take (by decide) (extractLsb'_eq_self)
    have g1 : (encFF false f64 0#3).extractLsb' 3 1 = 0#1 := skip (by decide) (take (by decide) (extractLsb'_eq_self))
    have h1 : (encFF false f64 0#3).extractLsb' 0 4 = 0#4 := join (lo := 0) (n := 1) (k := 3) g1 g0
    exact h1

@[simp] theorem encH2_0_3 (rnd : Rnd) (ftz sat : Bool) : (encH2 rnd ftz sat).extractLsb' 0 3 = rnd.code := take (by decide) (extractLsb'_eq_self)

@[simp] theorem encH2_5_7 (rnd : Rnd) (ftz sat : Bool) : (encH2 rnd ftz sat).extractLsb' 5 7 = 0#7 := skip (by decide) (skip (by decide) (skip (by decide) (extractLsb'_eq_self)))

@[simp] theorem encH2_b3 (rnd : Rnd) (ftz sat : Bool) : (encH2 rnd ftz sat).getLsbD 3 = ftz := skipBit (by decide) (takeBit (by decide) (b1_get _))

@[simp] theorem encH2_b4 (rnd : Rnd) (ftz sat : Bool) : (encH2 rnd ftz sat).getLsbD 4 = sat := skipBit (by decide) (skipBit (by decide) (takeBit (by decide) (b1_get _)))

@[simp] theorem encDiv_4_8 (w u dzt : Bool) : (encDiv w u dzt).extractLsb' 4 8 = 0#8 := skip (by decide) (skip (by decide) (skip (by decide) (skip (by decide) (extractLsb'_eq_self))))

@[simp] theorem encDiv_b0 (w u dzt : Bool) : (encDiv w u dzt).getLsbD 0 = w := takeBit (by decide) (b1_get _)

@[simp] theorem encDiv_b1 (w u dzt : Bool) : (encDiv w u dzt).getLsbD 1 = u := skipBit (by decide) (takeBit (by decide) (b1_get _))

@[simp] theorem encDiv_b2 (w u dzt : Bool) : (encDiv w u dzt).getLsbD 2 = false := skipBit (by decide) (skipBit (by decide) (takeBit (by decide) (rfl)))

@[simp] theorem encDiv_b3 (w u dzt : Bool) : (encDiv w u dzt).getLsbD 3 = dzt := skipBit (by decide) (skipBit (by decide) (skipBit (by decide) (takeBit (by decide) (b1_get _))))

@[simp] theorem encLane_0_4 (mode : BitVec 4) (u w : Bool) (rnd : BitVec 3) (excl pn : Bool) : (encLane mode u w rnd excl pn).extractLsb' 0 4 = mode := take (by decide) (extractLsb'_eq_self)

@[simp] theorem encLane_6_3 (mode : BitVec 4) (u w : Bool) (rnd : BitVec 3) (excl pn : Bool) : (encLane mode u w rnd excl pn).extractLsb' 6 3 = rnd := skip (by decide) (skip (by decide) (skip (by decide) (take (by decide) (extractLsb'_eq_self))))

@[simp] theorem encLane_b4 (mode : BitVec 4) (u w : Bool) (rnd : BitVec 3) (excl pn : Bool) : (encLane mode u w rnd excl pn).getLsbD 4 = u := skipBit (by decide) (takeBit (by decide) (b1_get _))

@[simp] theorem encLane_b5 (mode : BitVec 4) (u w : Bool) (rnd : BitVec 3) (excl pn : Bool) : (encLane mode u w rnd excl pn).getLsbD 5 = w := skipBit (by decide) (skipBit (by decide) (takeBit (by decide) (b1_get _)))

@[simp] theorem encLane_b9 (mode : BitVec 4) (u w : Bool) (rnd : BitVec 3) (excl pn : Bool) : (encLane mode u w rnd excl pn).getLsbD 9 = excl := skipBit (by decide) (skipBit (by decide) (skipBit (by decide) (skipBit (by decide) (takeBit (by decide) (b1_get _)))))

@[simp] theorem encLane_b10 (mode : BitVec 4) (u w : Bool) (rnd : BitVec 3) (excl pn : Bool) : (encLane mode u w rnd excl pn).getLsbD 10 = pn := skipBit (by decide) (skipBit (by decide) (skipBit (by decide) (skipBit (by decide) (skipBit (by decide) (takeBit (by decide) (b1_get _))))))

@[simp] theorem encLane_b11 (mode : BitVec 4) (u w : Bool) (rnd : BitVec 3) (excl pn : Bool) : (encLane mode u w rnd excl pn).getLsbD 11 = false := skipBit (by decide) (skipBit (by decide) (skipBit (by decide) (skipBit (by decide) (skipBit (by decide) (skipBit (by decide) (rfl))))))

@[simp] theorem encLaneA_6_6 (mode : BitVec 4) (u w : Bool) : (encLane mode u w 0#3 false false).extractLsb' 6 6 = 0#6 := by
    have g0 : (encLane mode u w 0#3 false false).extractLsb' 6 3 = 0#3 := skip (by decide) (skip (by decide) (skip (by decide) (take (by decide) (extractLsb'_eq_self))))
    have g1 : (encLane mode u w 0#3 false false).extractLsb' 9 1 = 0#1 := skip (by decide) (skip (by decide) (skip (by decide) (skip (by decide) (take (by decide) (extractLsb'_eq_self)))))
    have h1 : (encLane mode u w 0#3 false false).extractLsb' 6 4 = 0#4 := join (lo := 6) (n := 1) (k := 3) g1 g0
    have g2 : (encLane mode u w 0#3 false false).extractLsb' 10 1 = 0#1 := skip (by decide) (skip (by decide) (skip (by decide) (skip (by decide) (skip (by decide) (take (by decide) (extractLsb'_eq_self))))))
    have h2 : (encLane mode u w 0#3 false false).extractLsb' 6 5 = 0#5 := join (lo := 6) (n := 1) (k := 4) g2 h1
    have g3 : (encLane mode u w 0#3 false false).extractLsb' 11 1 = 0#1 := skip (by decide) (skip (by decide) (skip (by decide) (skip (by decide) (skip (by decide) (skip (by decide) (extractLsb'_eq_self))))))
    have h3 : (encLane mode u w 0#3 false false).extractLsb' 6 6 = 0#6 := join (lo := 6) (n := 1) (k := 5) g3 h2
    exact h3

@[simp] theorem encLaneB_4_6 (mode : BitVec 4) (pn : Bool) : (encLane mode false false 0#3 false pn).extractLsb' 4 6 = 0#6 := by
    have g0 : (encLane mode false false 0#3 false pn).extractLsb' 4 1 = 0#1 := skip (by decide) (take (by decide) (extractLsb'_eq_self))
    have g1 : (encLane mode false false 0#3 false pn).extractLsb' 5 1 = 0#1 := skip (by decide) (skip (by decide) (take (by decide) (extractLsb'_eq_self)))
    have h1 : (encLane mode false false 0#3 false pn).extractLsb' 4 2 = 0#2 := join (lo := 4) (n := 1) (k := 1) g1 g0
    have g2 : (encLane mode false false 0#3 false pn).extractLsb' 6 3 = 0#3 := skip (by decide) (skip (by decide) (skip (by decide) (take (by decide) (extractLsb'_eq_self))))
    have h2 : (encLane mode false false 0#3 false pn).extractLsb' 4 5 = 0#5 := join (lo := 4) (n := 3) (k := 2) g2 h1
    have g3 : (encLane mode false false 0#3 false pn).extractLsb' 9 1 = 0#1 := skip (by decide) (skip (by decide) (skip (by decide) (skip (by decide) (take (by decide) (extractLsb'_eq_self)))))
    have h3 : (encLane mode false false 0#3 false pn).extractLsb' 4 6 = 0#6 := join (lo := 4) (n := 1) (k := 5) g3 h2
    exact h3

@[simp] theorem encLaneC_9_3 (mode : BitVec 4) (u w : Bool) (rnd : BitVec 3) : (encLane mode u w rnd false false).extractLsb' 9 3 = 0#3 := by
    have g0 : (encLane mode u w rnd false false).extractLsb' 9 1 = 0#1 := skip (by decide) (skip (by decide) (skip (by decide) (skip (by decide) (take (by decide) (extractLsb'_eq_self)))))
    have g1 : (encLane mode u w rnd false false).extractLsb' 10 1 = 0#1 := skip (by decide) (skip (by decide) (skip (by decide) (skip (by decide) (skip (by decide) (take (by decide) (extractLsb'_eq_self))))))
    have h1 : (encLane mode u w rnd false false).extractLsb' 9 2 = 0#2 := join (lo := 9) (n := 1) (k := 1) g1 g0
    have g2 : (encLane mode u w rnd false false).extractLsb' 11 1 = 0#1 := skip (by decide) (skip (by decide) (skip (by decide) (skip (by decide) (skip (by decide) (skip (by decide) (extractLsb'_eq_self))))))
    have h2 : (encLane mode u w rnd false false).extractLsb' 9 3 = 0#3 := join (lo := 9) (n := 1) (k := 2) g2 h1
    exact h2

@[simp] theorem encLaneD_10_2 (mode : BitVec 4) (u w : Bool) (rnd : BitVec 3) (excl : Bool) : (encLane mode u w rnd excl false).extractLsb' 10 2 = 0#2 := by
    have g0 : (encLane mode u w rnd excl false).extractLsb' 10 1 = 0#1 := skip (by decide) (skip (by decide) (skip (by decide) (skip (by decide) (skip (by decide) (take (by decide) (extractLsb'_eq_self))))))
    have g1 : (encLane mode u w rnd excl false).extractLsb' 11 1 = 0#1 := skip (by decide) (skip (by decide) (skip (by decide) (skip (by decide) (skip (by decide) (skip (by decide) (extractLsb'_eq_self))))))
    have h1 : (encLane mode u w rnd excl false).extractLsb' 10 2 = 0#2 := join (lo := 10) (n := 1) (k := 1) g1 g0
    exact h1

@[simp] theorem encAOff_0_10 (op : AOp) (off : BitVec 10) : (encAOff op off).extractLsb' 0 10 = off := take (by decide) (extractLsb'_eq_self)

@[simp] theorem encAOff_10_4 (op : AOp) (off : BitVec 10) : (encAOff op off).extractLsb' 10 4 = op.code := skip (by decide) (extractLsb'_eq_self)

end Sys2Proof
end

