-- ==== Sys2Proof/Laws/Memory.lean ====
section
/-! SUPPORT. Every operation on the byte stores keeps their canonical form, and the stores after reset have it. -/

namespace Sys2Proof.Machine

theorem sorted_append {α : Type} {l r : List (Nat × α)} (hl : sorted l = true) (hr : sorted r = true)
    (h : ∀ x ∈ l, ∀ y ∈ r, x.1 < y.1) : sorted (l ++ r) = true := by
  induction l with
  | nil => exact hr
  | cons e t ih =>
    obtain ⟨h1, h2⟩ := sorted_cons.mp hl
    refine sorted_cons.mpr ⟨fun x hx => ?_, ih h2 (fun x hx => h x (List.mem_cons_of_mem _ hx))⟩
    rcases List.mem_append.mp hx with hx | hx
    · exact h1 x hx
    · exact h e List.mem_cons_self x hx

theorem sorted_shift {α : Type} {m : List (Nat × α)} (h : sorted m = true) (f : Nat → Nat)
    (hf : ∀ x ∈ m, ∀ y ∈ m, x.1 < y.1 → f x.1 < f y.1) : sorted (m.map (fun c => (f c.1, c.2))) = true := by
  induction m with
  | nil => rfl
  | cons e t ih =>
    obtain ⟨h1, h2⟩ := sorted_cons.mp h
    refine sorted_cons.mpr ⟨fun x hx => ?_, ih h2 fun x hx y hy =>
      hf x (List.mem_cons_of_mem _ hx) y (List.mem_cons_of_mem _ hy)⟩
    obtain ⟨y, hy, rfl⟩ := List.mem_map.mp hx
    exact hf e List.mem_cons_self y (List.mem_cons_of_mem _ hy) (h1 y hy)

/-- A frame's copy keeps the canonical form. -/
theorem canon_copyFrame {m : List Host.Cell} (h : canon m 0 = true) (old new : Nat) :
    canon (copyFrame m old new) 0 = true := by
  obtain ⟨hs, hd⟩ := canon_iff.mp h
  refine canon_iff.mpr ⟨sorted_append (sorted_append (sorted_filter hs _) (sorted_shift (sorted_filter hs _)
    (fun a => new * 2 ^ 21 + (a - old * 2 ^ 21)) ?_) ?_) (sorted_filter hs _) ?_, ?_⟩
  · intro x hx y hy hxy
    have := List.mem_filter.mp hx
    have := List.mem_filter.mp hy
    simp at *
    omega
  · intro x hx y hy
    have := List.mem_filter.mp hx
    obtain ⟨z, hz, rfl⟩ := List.mem_map.mp hy
    have := List.mem_filter.mp hz
    simp at *
    omega
  · intro x hx y hy
    have := List.mem_filter.mp hy
    rcases List.mem_append.mp hx with hx | hx
    · have := List.mem_filter.mp hx
      simp at *
      omega
    · obtain ⟨z, hz, rfl⟩ := List.mem_map.mp hx
      have := List.mem_filter.mp hz
      simp at *
      omega
  · intro e he
    unfold copyFrame at he
    rcases List.mem_append.mp he with he | he
    · rcases List.mem_append.mp he with he | he
      · exact hd e (List.mem_filter.mp he).1
      · obtain ⟨z, hz, rfl⟩ := List.mem_map.mp he
        exact hd z (List.mem_filter.mp hz).1
    · exact hd e (List.mem_filter.mp he).1

/-- Bytes written one after the other keep the canonical form. -/
theorem canon_foldl_put {m : List Host.Cell} (h : canon m 0 = true) (cs : List Host.Cell) (base : Nat) :
    canon (cs.foldl (fun (m : List Host.Cell) (c : Host.Cell) => put m (base + c.1) c.2 0) m) 0 = true := by
  induction cs generalizing m with
  | nil => exact h
  | cons c t ih => exact ih (canon_put h _ _)

/-- Memory after a write of bytes has the canonical form. -/
theorem wf_putBytes {m : List Host.Cell} (h : Memory.wf m) (a n v : Nat) : Memory.wf (putBytes m a n v) :=
  canon_putBytes h a n v

/-- Memory after a write of one byte has the canonical form. -/
theorem wf_put {m : List Host.Cell} (h : Memory.wf m) (a : Nat) (v : Byte) : Memory.wf (put m a v 0) := canon_put h a v

/-- Memory without some of its entries has the canonical form. -/
theorem wf_filter {m : List Host.Cell} (h : Memory.wf m) (p : Host.Cell → Bool) : Memory.wf (m.filter p) :=
  canon_filter h p

/-- Memory after the copy of a frame has the canonical form. -/
theorem wf_copyFrame {m : List Host.Cell} (h : Memory.wf m) (old new : Nat) : Memory.wf (copyFrame m old new) :=
  canon_copyFrame h old new

/-- Memory after a restore of scratchpad rows has the canonical form. -/
theorem wf_foldl_put {m : List Host.Cell} (h : Memory.wf m) (cs : List Host.Cell) (base : Nat) :
    Memory.wf (cs.foldl (fun (m : List Host.Cell) (c : Host.Cell) => put m (base + c.1) c.2 0) m) :=
  canon_foldl_put h cs base

/-- The byte stores after reset have the canonical form. -/
theorem reset_memWf : State.reset.memWf := ⟨rfl, rfl⟩

end Sys2Proof.Machine
end

