-- ==== Sys2Proof/Laws/PerInstr.lean ====
section
/-! SUPPORT. Facts about every instruction as syntax, one lemma for each constructor: what is encoded decodes to itself. -/

set_option linter.unusedSimpArgs false

set_option Elab.async false

namespace Sys2Proof

/-- The encoding of a well-formed instruction decodes to that instruction. -/
def Laws.RoundTrip.Statement (i : Instr) : Prop := i.wf = true →
  (i.bits = 64 → decodeWord (encode i) = .ok i) ∧ (i.bits = 32 → decodeKx (encodeKx i) = some i)

namespace Laws.RoundTrip

open BitVec

theorem ofWord {i : Instr} (hb : i.bits = 64) (h63 : bit (encode i) 63 = false)
    (hp : i.illegal = 0 → parseFull (encode i) = (0, i)) : Statement i := by
  intro h
  have h0 : i.illegal = 0 := by simpa [Instr.wf] using h
  refine ⟨fun _ => ?_, fun h' => absurd (hb.symm.trans h') (by decide)⟩
  simp [decodeWord, h63, hp h0, h0]

theorem ofEvent {i : Instr} (hb : i.bits = 0) : Statement i := fun _ =>
  ⟨fun h' => absurd (hb.symm.trans h') (by decide), fun h' => absurd (hb.symm.trans h') (by decide)⟩

theorem ofKx {i : Instr} (hb : i.bits = 32) (h : decodeKx (encodeKx i) = some i) : Statement i := fun _ =>
  ⟨fun h' => absurd (hb.symm.trans h') (by decide), fun _ => h⟩

theorem iadd (r : R3) (m : IMod) : Statement (.iadd r m) := by
  refine ofWord rfl (by simp [encode, encR3]) (fun hw => ?_)
  simp_all [-getLsbD_eq_getElem, encode, encR3, parseFull, parse00, zeros_eq, noFlag, okFlagR, flagR, okPredD, predD, imodOf, fmodOf, opD, opA, opB, opC, lowest3, zeroB, zeroBCM, zeroDABC, sA, sB, sC, eA, eB, eC, okCtl, encR_low, encR_bit]

theorem iadd3 (r : R3) (m : IMod) : Statement (.iadd3 r m) := by
  refine ofWord rfl (by simp [encode, encR3]) (fun hw => ?_)
  simp_all [-getLsbD_eq_getElem, encode, encR3, parseFull, parse00, zeros_eq, noFlag, okFlagR, flagR, okPredD, predD, imodOf, fmodOf, opD, opA, opB, opC, lowest3, zeroB, zeroBCM, zeroDABC, sA, sB, sC, eA, eB, eC, okCtl, encR_low, encR_bit]

theorem isub (r : R3) (m : IMod) : Statement (.isub r m) := by
  refine ofWord rfl (by simp [encode, encR3]) (fun hw => ?_)
  simp_all [-getLsbD_eq_getElem, encode, encR3, parseFull, parse00, zeros_eq, noFlag, okFlagR, flagR, okPredD, predD, imodOf, fmodOf, opD, opA, opB, opC, lowest3, zeroB, zeroBCM, zeroDABC, sA, sB, sC, eA, eB, eC, okCtl, encR_low, encR_bit]

theorem ineg (r : R3) (m : IMod) : Statement (.ineg r m) := by
  refine ofWord rfl (by simp [encode, encR3]) (fun hw => ?_)
  simp_all [-getLsbD_eq_getElem, encode, encR3, parseFull, parse00, zeros_eq, noFlag, okFlagR, flagR, okPredD, predD, imodOf, fmodOf, opD, opA, opB, opC, lowest3, zeroB, zeroBCM, zeroDABC, sA, sB, sC, eA, eB, eC, okCtl, encR_low, encR_bit]

theorem iabs (r : R3) (m : IMod) : Statement (.iabs r m) := by
  refine ofWord rfl (by simp [encode, encR3]) (fun hw => ?_)
  simp_all [-getLsbD_eq_getElem, encode, encR3, parseFull, parse00, zeros_eq, noFlag, okFlagR, flagR, okPredD, predD, imodOf, fmodOf, opD, opA, opB, opC, lowest3, zeroB, zeroBCM, zeroDABC, sA, sB, sC, eA, eB, eC, okCtl, encR_low, encR_bit]

theorem imin (r : R3) (m : IMod) : Statement (.imin r m) := by
  refine ofWord rfl (by simp [encode, encR3]) (fun hw => ?_)
  simp_all [-getLsbD_eq_getElem, encode, encR3, parseFull, parse00, zeros_eq, noFlag, okFlagR, flagR, okPredD, predD, imodOf, fmodOf, opD, opA, opB, opC, lowest3, zeroB, zeroBCM, zeroDABC, sA, sB, sC, eA, eB, eC, okCtl, encR_low, encR_bit]

theorem imax (r : R3) (m : IMod) : Statement (.imax r m) := by
  refine ofWord rfl (by simp [encode, encR3]) (fun hw => ?_)
  simp_all [-getLsbD_eq_getElem, encode, encR3, parseFull, parse00, zeros_eq, noFlag, okFlagR, flagR, okPredD, predD, imodOf, fmodOf, opD, opA, opB, opC, lowest3, zeroB, zeroBCM, zeroDABC, sA, sB, sC, eA, eB, eC, okCtl, encR_low, encR_bit]

theorem lea (r : R3) (sh : BitVec 4) (u : Bool) : Statement (.lea r sh u) := by
  refine ofWord rfl (by simp [encode, encR3]) (fun hw => ?_)
  have f3_3 : ((0#2 ++ sh ++ 0#4 ++ Bool.b1 u ++ 0#1 : BitVec 12)).extractLsb' 3 3 = 0#3 := skip (by decide) (skip (by decide) (take (by decide) (rfl)))
  have f6_4 : ((0#2 ++ sh ++ 0#4 ++ Bool.b1 u ++ 0#1 : BitVec 12)).extractLsb' 6 4 = sh := skip (by decide) (skip (by decide) (skip (by decide) (take (by decide) (extractLsb'_eq_self))))
  have f10_2 : ((0#2 ++ sh ++ 0#4 ++ Bool.b1 u ++ 0#1 : BitVec 12)).extractLsb' 10 2 = 0#2 := skip (by decide) (skip (by decide) (skip (by decide) (skip (by decide) (extractLsb'_eq_self))))
  have b0 : ((0#2 ++ sh ++ 0#4 ++ Bool.b1 u ++ 0#1 : BitVec 12)).getLsbD 0 = false := takeBit (by decide) (rfl)
  have b1 : ((0#2 ++ sh ++ 0#4 ++ Bool.b1 u ++ 0#1 : BitVec 12)).getLsbD 1 = u := skipBit (by decide) (takeBit (by decide) (b1_get _))
  have b2 : ((0#2 ++ sh ++ 0#4 ++ Bool.b1 u ++ 0#1 : BitVec 12)).getLsbD 2 = false := skipBit (by decide) (skipBit (by decide) (takeBit (by decide) (rfl)))
  simp_all [-getLsbD_eq_getElem, encode, encR3, parseFull, parse00, zeros_eq, noFlag, okFlagR, flagR, okPredD, predD, imodOf, fmodOf, opD, opA, opB, opC, lowest3, zeroB, zeroBCM, zeroDABC, sA, sB, sC, eA, eB, eC, okCtl, encR_low, encR_bit, f3_3, f6_4, f10_2, b0, b1, b2]

theorem icmp (g : Guard) (p : BitVec 3) (a b : Opnd) (c : ICond) (w u : Bool) : Statement (.icmp g p a b c w u) := by
  refine ofWord rfl (by simp [encode]) (fun hw => ?_)
  have f3_3 : ((0#6 ++ c.code ++ 0#1 ++ Bool.b1 u ++ Bool.b1 w : BitVec 12)).extractLsb' 3 3 = c.code := skip (by decide) (skip (by decide) (skip (by decide) (take (by decide) (extractLsb'_eq_self))))
  have f6_6 : ((0#6 ++ c.code ++ 0#1 ++ Bool.b1 u ++ Bool.b1 w : BitVec 12)).extractLsb' 6 6 = 0#6 := skip (by decide) (skip (by decide) (skip (by decide) (skip (by decide) (extractLsb'_eq_self))))
  have b0 : ((0#6 ++ c.code ++ 0#1 ++ Bool.b1 u ++ Bool.b1 w : BitVec 12)).getLsbD 0 = w := takeBit (by decide) (b1_get _)
  have b1 : ((0#6 ++ c.code ++ 0#1 ++ Bool.b1 u ++ Bool.b1 w : BitVec 12)).getLsbD 1 = u := skipBit (by decide) (takeBit (by decide) (b1_get _))
  have b2 : ((0#6 ++ c.code ++ 0#1 ++ Bool.b1 u ++ Bool.b1 w : BitVec 12)).getLsbD 2 = false := skipBit (by decide) (skipBit (by decide) (takeBit (by decide) (rfl)))
  simp_all [-getLsbD_eq_getElem, encode, parseFull, parse00, zeros_eq, noFlag, okFlagR, flagR, okPredD, predD, imodOf, fmodOf, opD, opA, opB, opC, lowest3, zeroB, zeroBCM, zeroDABC, sA, sB, sC, eA, eB, eC, okCtl, encR_low, encR_bit, f3_3, f6_6, b0, b1, b2]

theorem imul (r : R3) (m : IMod) : Statement (.imul r m) := by
  refine ofWord rfl (by simp [encode, encR3]) (fun hw => ?_)
  simp_all [-getLsbD_eq_getElem, encode, encR3, parseFull, parse01, zeros_eq, noFlag, okFlagR, flagR, okPredD, predD, imodOf, fmodOf, opD, opA, opB, opC, lowest3, zeroB, zeroBCM, zeroDABC, sA, sB, sC, eA, eB, eC, okCtl, encR_low, encR_bit]

theorem imulh (r : R3) (m : IMod) : Statement (.imulh r m) := by
  refine ofWord rfl (by simp [encode, encR3]) (fun hw => ?_)
  simp_all [-getLsbD_eq_getElem, encode, encR3, parseFull, parse01, zeros_eq, noFlag, okFlagR, flagR, okPredD, predD, imodOf, fmodOf, opD, opA, opB, opC, lowest3, zeroB, zeroBCM, zeroDABC, sA, sB, sC, eA, eB, eC, okCtl, encR_low, encR_bit]

theorem imad (r : R3) (m : IMod) : Statement (.imad r m) := by
  refine ofWord rfl (by simp [encode, encR3]) (fun hw => ?_)
  simp_all [-getLsbD_eq_getElem, encode, encR3, parseFull, parse01, zeros_eq, noFlag, okFlagR, flagR, okPredD, predD, imodOf, fmodOf, opD, opA, opB, opC, lowest3, zeroB, zeroBCM, zeroDABC, sA, sB, sC, eA, eB, eC, okCtl, encR_low, encR_bit]

theorem imadw (r : R3) (m : IMod) : Statement (.imadw r m) := by
  refine ofWord rfl (by simp [encode, encR3]) (fun hw => ?_)
  simp_all [-getLsbD_eq_getElem, encode, encR3, parseFull, parse01, zeros_eq, noFlag, okFlagR, flagR, okPredD, predD, imodOf, fmodOf, opD, opA, opB, opC, lowest3, zeroB, zeroBCM, zeroDABC, sA, sB, sC, eA, eB, eC, okCtl, encR_low, encR_bit]

theorem idiv (r : R3) (f : FlagSel) (w u dzt : Bool) : Statement (.idiv r f w u dzt) := by
  refine ofWord rfl (by simp [encode, encR3]) (fun hw => ?_)
  simp_all [-getLsbD_eq_getElem, encode, encR3, parseFull, parse01, zeros_eq, noFlag, okFlagR, flagR, okPredD, predD, imodOf, fmodOf, opD, opA, opB, opC, lowest3, zeroB, zeroBCM, zeroDABC, sA, sB, sC, eA, eB, eC, okCtl, encR_low, encR_bit]

theorem irem (r : R3) (f : FlagSel) (w u dzt : Bool) : Statement (.irem r f w u dzt) := by
  refine ofWord rfl (by simp [encode, encR3]) (fun hw => ?_)
  simp_all [-getLsbD_eq_getElem, encode, encR3, parseFull, parse01, zeros_eq, noFlag, okFlagR, flagR, okPredD, predD, imodOf, fmodOf, opD, opA, opB, opC, lowest3, zeroB, zeroBCM, zeroDABC, sA, sB, sC, eA, eB, eC, okCtl, encR_low, encR_bit]

theorem iaddImm (g : Guard) (d a : Opnd) (imm : BitVec 32) : Statement (.iaddImm g d a imm) := by
  refine ofWord rfl (by simp [encode]) (fun hw => ?_)
  simp_all [-getLsbD_eq_getElem, encode, parseFull, parse07, zeros_eq, noFlag, okFlagR, flagR, okPredD, predD, imodOf, fmodOf, opD, opA, opB, opC, lowest3, zeroB, zeroBCM, zeroDABC, sA, sB, sC, eA, eB, eC, okCtl]

theorem imulImm (g : Guard) (d a : Opnd) (imm : BitVec 32) : Statement (.imulImm g d a imm) := by
  refine ofWord rfl (by simp [encode]) (fun hw => ?_)
  simp_all [-getLsbD_eq_getElem, encode, parseFull, parse07, zeros_eq, noFlag, okFlagR, flagR, okPredD, predD, imodOf, fmodOf, opD, opA, opB, opC, lowest3, zeroB, zeroBCM, zeroDABC, sA, sB, sC, eA, eB, eC, okCtl]

theorem andImm (g : Guard) (d a : Opnd) (imm : BitVec 32) : Statement (.andImm g d a imm) := by
  refine ofWord rfl (by simp [encode]) (fun hw => ?_)
  simp_all [-getLsbD_eq_getElem, encode, parseFull, parse07, zeros_eq, noFlag, okFlagR, flagR, okPredD, predD, imodOf, fmodOf, opD, opA, opB, opC, lowest3, zeroB, zeroBCM, zeroDABC, sA, sB, sC, eA, eB, eC, okCtl]

theorem orImm (g : Guard) (d a : Opnd) (imm : BitVec 32) : Statement (.orImm g d a imm) := by
  refine ofWord rfl (by simp [encode]) (fun hw => ?_)
  simp_all [-getLsbD_eq_getElem, encode, parseFull, parse07, zeros_eq, noFlag, okFlagR, flagR, okPredD, predD, imodOf, fmodOf, opD, opA, opB, opC, lowest3, zeroB, zeroBCM, zeroDABC, sA, sB, sC, eA, eB, eC, okCtl]

theorem xorImm (g : Guard) (d a : Opnd) (imm : BitVec 32) : Statement (.xorImm g d a imm) := by
  refine ofWord rfl (by simp [encode]) (fun hw => ?_)
  simp_all [-getLsbD_eq_getElem, encode, parseFull, parse07, zeros_eq, noFlag, okFlagR, flagR, okPredD, predD, imodOf, fmodOf, opD, opA, opB, opC, lowest3, zeroB, zeroBCM, zeroDABC, sA, sB, sC, eA, eB, eC, okCtl]

theorem and (r : R3) (w : Bool) : Statement (.and r w) := by
  refine ofWord rfl (by simp [encode, encR3]) (fun hw => ?_)
  simp_all [-getLsbD_eq_getElem, encode, encR3, parseFull, parse02, zeros_eq, noFlag, okFlagR, flagR, okPredD, predD, imodOf, fmodOf, opD, opA, opB, opC, lowest3, zeroB, zeroBCM, zeroDABC, sA, sB, sC, eA, eB, eC, okCtl, encR_low, encR_bit]

theorem or (r : R3) (w : Bool) : Statement (.or r w) := by
  refine ofWord rfl (by simp [encode, encR3]) (fun hw => ?_)
  simp_all [-getLsbD_eq_getElem, encode, encR3, parseFull, parse02, zeros_eq, noFlag, okFlagR, flagR, okPredD, predD, imodOf, fmodOf, opD, opA, opB, opC, lowest3, zeroB, zeroBCM, zeroDABC, sA, sB, sC, eA, eB, eC, okCtl, encR_low, encR_bit]

theorem xor (r : R3) (w : Bool) : Statement (.xor r w) := by
  refine ofWord rfl (by simp [encode, encR3]) (fun hw => ?_)
  simp_all [-getLsbD_eq_getElem, encode, encR3, parseFull, parse02, zeros_eq, noFlag, okFlagR, flagR, okPredD, predD, imodOf, fmodOf, opD, opA, opB, opC, lowest3, zeroB, zeroBCM, zeroDABC, sA, sB, sC, eA, eB, eC, okCtl, encR_low, encR_bit]

theorem andn (r : R3) (w : Bool) : Statement (.andn r w) := by
  refine ofWord rfl (by simp [encode, encR3]) (fun hw => ?_)
  simp_all [-getLsbD_eq_getElem, encode, encR3, parseFull, parse02, zeros_eq, noFlag, okFlagR, flagR, okPredD, predD, imodOf, fmodOf, opD, opA, opB, opC, lowest3, zeroB, zeroBCM, zeroDABC, sA, sB, sC, eA, eB, eC, okCtl, encR_low, encR_bit]

theorem orn (r : R3) (w : Bool) : Statement (.orn r w) := by
  refine ofWord rfl (by simp [encode, encR3]) (fun hw => ?_)
  simp_all [-getLsbD_eq_getElem, encode, encR3, parseFull, parse02, zeros_eq, noFlag, okFlagR, flagR, okPredD, predD, imodOf, fmodOf, opD, opA, opB, opC, lowest3, zeroB, zeroBCM, zeroDABC, sA, sB, sC, eA, eB, eC, okCtl, encR_low, encR_bit]

theorem not (r : R3) (w : Bool) : Statement (.not r w) := by
  refine ofWord rfl (by simp [encode, encR3]) (fun hw => ?_)
  simp_all [-getLsbD_eq_getElem, encode, encR3, parseFull, parse02, zeros_eq, noFlag, okFlagR, flagR, okPredD, predD, imodOf, fmodOf, opD, opA, opB, opC, lowest3, zeroB, zeroBCM, zeroDABC, sA, sB, sC, eA, eB, eC, okCtl, encR_low, encR_bit]

theorem shl (r : R3) (w : Bool) : Statement (.shl r w) := by
  refine ofWord rfl (by simp [encode, encR3]) (fun hw => ?_)
  simp_all [-getLsbD_eq_getElem, encode, encR3, parseFull, parse03, zeros_eq, noFlag, okFlagR, flagR, okPredD, predD, imodOf, fmodOf, opD, opA, opB, opC, lowest3, zeroB, zeroBCM, zeroDABC, sA, sB, sC, eA, eB, eC, okCtl, encR_low, encR_bit]

theorem shr (r : R3) (w : Bool) : Statement (.shr r w) := by
  refine ofWord rfl (by simp [encode, encR3]) (fun hw => ?_)
  simp_all [-getLsbD_eq_getElem, encode, encR3, parseFull, parse03, zeros_eq, noFlag, okFlagR, flagR, okPredD, predD, imodOf, fmodOf, opD, opA, opB, opC, lowest3, zeroB, zeroBCM, zeroDABC, sA, sB, sC, eA, eB, eC, okCtl, encR_low, encR_bit]

theorem sar (r : R3) (w : Bool) : Statement (.sar r w) := by
  refine ofWord rfl (by simp [encode, encR3]) (fun hw => ?_)
  simp_all [-getLsbD_eq_getElem, encode, encR3, parseFull, parse03, zeros_eq, noFlag, okFlagR, flagR, okPredD, predD, imodOf, fmodOf, opD, opA, opB, opC, lowest3, zeroB, zeroBCM, zeroDABC, sA, sB, sC, eA, eB, eC, okCtl, encR_low, encR_bit]

theorem rot (r : R3) (w : Bool) : Statement (.rot r w) := by
  refine ofWord rfl (by simp [encode, encR3]) (fun hw => ?_)
  simp_all [-getLsbD_eq_getElem, encode, encR3, parseFull, parse03, zeros_eq, noFlag, okFlagR, flagR, okPredD, predD, imodOf, fmodOf, opD, opA, opB, opC, lowest3, zeroB, zeroBCM, zeroDABC, sA, sB, sC, eA, eB, eC, okCtl, encR_low, encR_bit]

theorem funl (r : R3) (w : Bool) : Statement (.funl r w) := by
  refine ofWord rfl (by simp [encode, encR3]) (fun hw => ?_)
  simp_all [-getLsbD_eq_getElem, encode, encR3, parseFull, parse03, zeros_eq, noFlag, okFlagR, flagR, okPredD, predD, imodOf, fmodOf, opD, opA, opB, opC, lowest3, zeroB, zeroBCM, zeroDABC, sA, sB, sC, eA, eB, eC, okCtl, encR_low, encR_bit]

theorem bfx (r : R3) (w u : Bool) : Statement (.bfx r w u) := by
  refine ofWord rfl (by simp [encode, encR3]) (fun hw => ?_)
  have f2_10 : ((0#10 ++ Bool.b1 u ++ Bool.b1 w : BitVec 12)).extractLsb' 2 10 = 0#10 := skip (by decide) (skip (by decide) (extractLsb'_eq_self))
  have b0 : ((0#10 ++ Bool.b1 u ++ Bool.b1 w : BitVec 12)).getLsbD 0 = w := takeBit (by decide) (b1_get _)
  have b1 : ((0#10 ++ Bool.b1 u ++ Bool.b1 w : BitVec 12)).getLsbD 1 = u := skipBit (by decide) (takeBit (by decide) (b1_get _))
  simp_all [-getLsbD_eq_getElem, encode, encR3, parseFull, parse03, zeros_eq, noFlag, okFlagR, flagR, okPredD, predD, imodOf, fmodOf, opD, opA, opB, opC, lowest3, zeroB, zeroBCM, zeroDABC, sA, sB, sC, eA, eB, eC, okCtl, encR_low, encR_bit, f2_10, b0, b1]

theorem bfi (r : R3) (w : Bool) : Statement (.bfi r w) := by
  refine ofWord rfl (by simp [encode, encR3]) (fun hw => ?_)
  simp_all [-getLsbD_eq_getElem, encode, encR3, parseFull, parse03, zeros_eq, noFlag, okFlagR, flagR, okPredD, predD, imodOf, fmodOf, opD, opA, opB, opC, lowest3, zeroB, zeroBCM, zeroDABC, sA, sB, sC, eA, eB, eC, okCtl, encR_low, encR_bit]

theorem popc (r : R3) (w : Bool) : Statement (.popc r w) := by
  refine ofWord rfl (by simp [encode, encR3]) (fun hw => ?_)
  simp_all [-getLsbD_eq_getElem, encode, encR3, parseFull, parse03, zeros_eq, noFlag, okFlagR, flagR, okPredD, predD, imodOf, fmodOf, opD, opA, opB, opC, lowest3, zeroB, zeroBCM, zeroDABC, sA, sB, sC, eA, eB, eC, okCtl, encR_low, encR_bit]

theorem clz (r : R3) (w : Bool) : Statement (.clz r w) := by
  refine ofWord rfl (by simp [encode, encR3]) (fun hw => ?_)
  simp_all [-getLsbD_eq_getElem, encode, encR3, parseFull, parse03, zeros_eq, noFlag, okFlagR, flagR, okPredD, predD, imodOf, fmodOf, opD, opA, opB, opC, lowest3, zeroB, zeroBCM, zeroDABC, sA, sB, sC, eA, eB, eC, okCtl, encR_low, encR_bit]

theorem ctz (r : R3) (w : Bool) : Statement (.ctz r w) := by
  refine ofWord rfl (by simp [encode, encR3]) (fun hw => ?_)
  simp_all [-getLsbD_eq_getElem, encode, encR3, parseFull, parse03, zeros_eq, noFlag, okFlagR, flagR, okPredD, predD, imodOf, fmodOf, opD, opA, opB, opC, lowest3, zeroB, zeroBCM, zeroDABC, sA, sB, sC, eA, eB, eC, okCtl, encR_low, encR_bit]

theorem brev (r : R3) (w : Bool) : Statement (.brev r w) := by
  refine ofWord rfl (by simp [encode, encR3]) (fun hw => ?_)
  simp_all [-getLsbD_eq_getElem, encode, encR3, parseFull, parse03, zeros_eq, noFlag, okFlagR, flagR, okPredD, predD, imodOf, fmodOf, opD, opA, opB, opC, lowest3, zeroB, zeroBCM, zeroDABC, sA, sB, sC, eA, eB, eC, okCtl, encR_low, encR_bit]

theorem perm (r : R3) : Statement (.perm r) := by
  refine ofWord rfl (by simp [encode, encR3]) (fun hw => ?_)
  simp_all [-getLsbD_eq_getElem, encode, encR3, parseFull, parse03, zeros_eq, noFlag, okFlagR, flagR, okPredD, predD, imodOf, fmodOf, opD, opA, opB, opC, lowest3, zeroB, zeroBCM, zeroDABC, sA, sB, sC, eA, eB, eC, okCtl, encR_low, encR_bit]

theorem mov (r : R3) (w : Bool) : Statement (.mov r w) := by
  refine ofWord rfl (by simp [encode, encR3]) (fun hw => ?_)
  simp_all [-getLsbD_eq_getElem, encode, encR3, parseFull, parse04, zeros_eq, noFlag, okFlagR, flagR, okPredD, predD, imodOf, fmodOf, opD, opA, opB, opC, lowest3, zeroB, zeroBCM, zeroDABC, sA, sB, sC, eA, eB, eC, okCtl, encR_low, encR_bit]

theorem sel (r : R3) (w : Bool) (p : BitVec 3) (inv : Bool) : Statement (.sel r w p inv) := by
  refine ofWord rfl (by simp [encode, encR3]) (fun hw => ?_)
  have f2_3 : ((0#6 ++ Bool.b1 inv ++ p ++ 0#1 ++ Bool.b1 w : BitVec 12)).extractLsb' 2 3 = p := skip (by decide) (skip (by decide) (take (by decide) (extractLsb'_eq_self)))
  have f6_6 : ((0#6 ++ Bool.b1 inv ++ p ++ 0#1 ++ Bool.b1 w : BitVec 12)).extractLsb' 6 6 = 0#6 := skip (by decide) (skip (by decide) (skip (by decide) (skip (by decide) (extractLsb'_eq_self))))
  have b0 : ((0#6 ++ Bool.b1 inv ++ p ++ 0#1 ++ Bool.b1 w : BitVec 12)).getLsbD 0 = w := takeBit (by decide) (b1_get _)
  have b1 : ((0#6 ++ Bool.b1 inv ++ p ++ 0#1 ++ Bool.b1 w : BitVec 12)).getLsbD 1 = false := skipBit (by decide) (takeBit (by decide) (rfl))
  have b5 : ((0#6 ++ Bool.b1 inv ++ p ++ 0#1 ++ Bool.b1 w : BitVec 12)).getLsbD 5 = inv := skipBit (by decide) (skipBit (by decide) (skipBit (by decide) (takeBit (by decide) (b1_get _))))
  simp_all [-getLsbD_eq_getElem, encode, encR3, parseFull, parse04, zeros_eq, noFlag, okFlagR, flagR, okPredD, predD, imodOf, fmodOf, opD, opA, opB, opC, lowest3, zeroB, zeroBCM, zeroDABC, sA, sB, sC, eA, eB, eC, okCtl, encR_low, encR_bit, f2_3, f6_6, b0, b1, b5]

theorem plog (g : Guard) (p : BitVec 3) (pa pb pc : BitVec 3) (lut : BitVec 8) : Statement (.plog g p pa pb pc lut) := by
  refine ofWord rfl (by simp [encode]) (fun hw => ?_)
  have f0_8 : ((0#4 ++ lut : BitVec 12)).extractLsb' 0 8 = lut := take (by decide) (extractLsb'_eq_self)
  have f8_4 : ((0#4 ++ lut : BitVec 12)).extractLsb' 8 4 = 0#4 := skip (by decide) (extractLsb'_eq_self)
  simp_all [-getLsbD_eq_getElem, encode, parseFull, parse04, zeros_eq, noFlag, okFlagR, flagR, okPredD, predD, imodOf, fmodOf, opD, opA, opB, opC, lowest3, zeroB, zeroBCM, zeroDABC, sA, sB, sC, eA, eB, eC, okCtl, encR_low, encR_bit, f0_8, f8_4]

theorem movi (g : Guard) (d : Opnd) (sx : Bool) (imm : BitVec 32) : Statement (.movi g d sx imm) := by
  refine ofWord rfl (by simp [encode]) (fun hw => ?_)
  have x0 : ((0#3 ++ Bool.b1 sx : BitVec 4)).extractLsb' 1 3 = 0#3 := skip (by decide) extractLsb'_eq_self
  have x1 : ((0#3 ++ Bool.b1 sx : BitVec 4)).getLsbD 0 = sx := takeBit (by decide) (b1_get _)
  simp_all [-getLsbD_eq_getElem, encode, parseFull, parse05, zeros_eq, noFlag, okFlagR, flagR, okPredD, predD, imodOf, fmodOf, opD, opA, opB, opC, lowest3, zeroB, zeroBCM, zeroDABC, sA, sB, sC, eA, eB, eC, okCtl, x0, x1]

theorem movw (g : Guard) (d : Opnd) (lo : Bool) (imm : BitVec 32) : Statement (.movw g d lo imm) := by
  refine ofWord rfl (by simp [encode]) (fun hw => ?_)
  have x0 : ((0#3 ++ Bool.b1 lo : BitVec 4)).extractLsb' 1 3 = 0#3 := skip (by decide) extractLsb'_eq_self
  have x1 : ((0#3 ++ Bool.b1 lo : BitVec 4)).getLsbD 0 = lo := takeBit (by decide) (b1_get _)
  simp_all [-getLsbD_eq_getElem, encode, parseFull, parse06, zeros_eq, noFlag, okFlagR, flagR, okPredD, predD, imodOf, fmodOf, opD, opA, opB, opC, lowest3, zeroB, zeroBCM, zeroDABC, sA, sB, sC, eA, eB, eC, okCtl, x0, x1]

theorem fadd (r : R3) (m : FMod) : Statement (.fadd r m) := by
  refine ofWord rfl (by simp [encode, encR3]) (fun hw => ?_)
  simp_all [-getLsbD_eq_getElem, encode, encR3, parseFull, parse10, zeros_eq, noFlag, okFlagR, flagR, okPredD, predD, imodOf, fmodOf, opD, opA, opB, opC, lowest3, zeroB, zeroBCM, zeroDABC, sA, sB, sC, eA, eB, eC, okCtl, encR_low, encR_bit]

theorem fsub (r : R3) (m : FMod) : Statement (.fsub r m) := by
  refine ofWord rfl (by simp [encode, encR3]) (fun hw => ?_)
  simp_all [-getLsbD_eq_getElem, encode, encR3, parseFull, parse10, zeros_eq, noFlag, okFlagR, flagR, okPredD, predD, imodOf, fmodOf, opD, opA, opB, opC, lowest3, zeroB, zeroBCM, zeroDABC, sA, sB, sC, eA, eB, eC, okCtl, encR_low, encR_bit]

theorem fmul (r : R3) (m : FMod) : Statement (.fmul r m) := by
  refine ofWord rfl (by simp [encode, encR3]) (fun hw => ?_)
  simp_all [-getLsbD_eq_getElem, encode, encR3, parseFull, parse10, zeros_eq, noFlag, okFlagR, flagR, okPredD, predD, imodOf, fmodOf, opD, opA, opB, opC, lowest3, zeroB, zeroBCM, zeroDABC, sA, sB, sC, eA, eB, eC, okCtl, encR_low, encR_bit]

theorem ffma (r : R3) (m : FMod) (na nc : Bool) : Statement (.ffma r m na nc) := by
  refine ofWord rfl (by simp [encode, encR3]) (fun hw => ?_)
  simp_all [-getLsbD_eq_getElem, encode, encR3, parseFull, parse10, zeros_eq, noFlag, okFlagR, flagR, okPredD, predD, imodOf, fmodOf, opD, opA, opB, opC, lowest3, zeroB, zeroBCM, zeroDABC, sA, sB, sC, eA, eB, eC, okCtl, encR_low, encR_bit]

theorem fmin (r : R3) (ftz f64 : Bool) : Statement (.fmin r ftz f64) := by
  refine ofWord rfl (by simp [encode, encR3]) (fun hw => ?_)
  simp_all [-getLsbD_eq_getElem, encode, encR3, parseFull, parse10, zeros_eq, noFlag, okFlagR, flagR, okPredD, predD, imodOf, fmodOf, opD, opA, opB, opC, lowest3, zeroB, zeroBCM, zeroDABC, sA, sB, sC, eA, eB, eC, okCtl, encR_low, encR_bit]

theorem fmax (r : R3) (ftz f64 : Bool) : Statement (.fmax r ftz f64) := by
  refine ofWord rfl (by simp [encode, encR3]) (fun hw => ?_)
  simp_all [-getLsbD_eq_getElem, encode, encR3, parseFull, parse10, zeros_eq, noFlag, okFlagR, flagR, okPredD, predD, imodOf, fmodOf, opD, opA, opB, opC, lowest3, zeroB, zeroBCM, zeroDABC, sA, sB, sC, eA, eB, eC, okCtl, encR_low, encR_bit]

theorem fscale (r : R3) (m : FMod) : Statement (.fscale r m) := by
  refine ofWord rfl (by simp [encode, encR3]) (fun hw => ?_)
  simp_all [-getLsbD_eq_getElem, encode, encR3, parseFull, parse10, zeros_eq, noFlag, okFlagR, flagR, okPredD, predD, imodOf, fmodOf, opD, opA, opB, opC, lowest3, zeroB, zeroBCM, zeroDABC, sA, sB, sC, eA, eB, eC, okCtl, encR_low, encR_bit]

theorem fcmp (g : Guard) (p : BitVec 3) (a b : Opnd) (c : FCond) (ftz f64 : Bool) : Statement (.fcmp g p a b c ftz f64) := by
  refine ofWord rfl (by simp [encode]) (fun hw => ?_)
  simp_all [-getLsbD_eq_getElem, encode, parseFull, parse11, zeros_eq, noFlag, okFlagR, flagR, okPredD, predD, imodOf, fmodOf, opD, opA, opB, opC, lowest3, zeroB, zeroBCM, zeroDABC, sA, sB, sC, eA, eB, eC, okCtl, encR_low, encR_bit]

theorem fclass (r : R3) (f64 : Bool) : Statement (.fclass r f64) := by
  refine ofWord rfl (by simp [encode, encR3]) (fun hw => ?_)
  simp_all [-getLsbD_eq_getElem, encode, encR3, parseFull, parse11, zeros_eq, noFlag, okFlagR, flagR, okPredD, predD, imodOf, fmodOf, opD, opA, opB, opC, lowest3, zeroB, zeroBCM, zeroDABC, sA, sB, sC, eA, eB, eC, okCtl, encR_low, encR_bit]

theorem frint (r : R3) (rnd : Rnd) (ftz f64 : Bool) : Statement (.frint r rnd ftz f64) := by
  refine ofWord rfl (by simp [encode, encR3]) (fun hw => ?_)
  simp_all [-getLsbD_eq_getElem, encode, encR3, parseFull, parse11, zeros_eq, noFlag, okFlagR, flagR, okPredD, predD, imodOf, fmodOf, opD, opA, opB, opC, lowest3, zeroB, zeroBCM, zeroDABC, sA, sB, sC, eA, eB, eC, okCtl, encR_low, encR_bit]

theorem hadd2 (r : R3) (rnd : Rnd) (ftz sat : Bool) : Statement (.hadd2 r rnd ftz sat) := by
  refine ofWord rfl (by simp [encode, encR3]) (fun hw => ?_)
  simp_all [-getLsbD_eq_getElem, encode, encR3, parseFull, parse12, zeros_eq, noFlag, okFlagR, flagR, okPredD, predD, imodOf, fmodOf, opD, opA, opB, opC, lowest3, zeroB, zeroBCM, zeroDABC, sA, sB, sC, eA, eB, eC, okCtl, encR_low, encR_bit]

theorem hmul2 (r : R3) (rnd : Rnd) (ftz sat : Bool) : Statement (.hmul2 r rnd ftz sat) := by
  refine ofWord rfl (by simp [encode, encR3]) (fun hw => ?_)
  simp_all [-getLsbD_eq_getElem, encode, encR3, parseFull, parse12, zeros_eq, noFlag, okFlagR, flagR, okPredD, predD, imodOf, fmodOf, opD, opA, opB, opC, lowest3, zeroB, zeroBCM, zeroDABC, sA, sB, sC, eA, eB, eC, okCtl, encR_low, encR_bit]

theorem hfma2 (r : R3) (rnd : Rnd) (ftz sat : Bool) : Statement (.hfma2 r rnd ftz sat) := by
  refine ofWord rfl (by simp [encode, encR3]) (fun hw => ?_)
  simp_all [-getLsbD_eq_getElem, encode, encR3, parseFull, parse12, zeros_eq, noFlag, okFlagR, flagR, okPredD, predD, imodOf, fmodOf, opD, opA, opB, opC, lowest3, zeroB, zeroBCM, zeroDABC, sA, sB, sC, eA, eB, eC, okCtl, encR_low, encR_bit]

theorem faddImm (g : Guard) (d a : Opnd) (imm : BitVec 32) : Statement (.faddImm g d a imm) := by
  refine ofWord rfl (by simp [encode]) (fun hw => ?_)
  simp_all [-getLsbD_eq_getElem, encode, parseFull, parse13, zeros_eq, noFlag, okFlagR, flagR, okPredD, predD, imodOf, fmodOf, opD, opA, opB, opC, lowest3, zeroB, zeroBCM, zeroDABC, sA, sB, sC, eA, eB, eC, okCtl]

theorem fmulImm (g : Guard) (d a : Opnd) (imm : BitVec 32) : Statement (.fmulImm g d a imm) := by
  refine ofWord rfl (by simp [encode]) (fun hw => ?_)
  simp_all [-getLsbD_eq_getElem, encode, parseFull, parse13, zeros_eq, noFlag, okFlagR, flagR, okPredD, predD, imodOf, fmodOf, opD, opA, opB, opC, lowest3, zeroB, zeroBCM, zeroDABC, sA, sB, sC, eA, eB, eC, okCtl]

theorem fminImm (g : Guard) (d a : Opnd) (imm : BitVec 32) : Statement (.fminImm g d a imm) := by
  refine ofWord rfl (by simp [encode]) (fun hw => ?_)
  simp_all [-getLsbD_eq_getElem, encode, parseFull, parse13, zeros_eq, noFlag, okFlagR, flagR, okPredD, predD, imodOf, fmodOf, opD, opA, opB, opC, lowest3, zeroB, zeroBCM, zeroDABC, sA, sB, sC, eA, eB, eC, okCtl]

theorem fmaxImm (g : Guard) (d a : Opnd) (imm : BitVec 32) : Statement (.fmaxImm g d a imm) := by
  refine ofWord rfl (by simp [encode]) (fun hw => ?_)
  simp_all [-getLsbD_eq_getElem, encode, parseFull, parse13, zeros_eq, noFlag, okFlagR, flagR, okPredD, predD, imodOf, fmodOf, opD, opA, opB, opC, lowest3, zeroB, zeroBCM, zeroDABC, sA, sB, sC, eA, eB, eC, okCtl]

theorem rcp (r : R3) (f : FlagSel) (ftz : Bool) : Statement (.rcp r f ftz) := by
  refine ofWord rfl (by simp [encode, encR3]) (fun hw => ?_)
  simp_all [-getLsbD_eq_getElem, encode, encR3, parseFull, parse20, zeros_eq, noFlag, okFlagR, flagR, okPredD, predD, imodOf, fmodOf, opD, opA, opB, opC, lowest3, zeroB, zeroBCM, zeroDABC, sA, sB, sC, eA, eB, eC, okCtl, encR_low, encR_bit]

theorem rsq (r : R3) (f : FlagSel) (ftz : Bool) : Statement (.rsq r f ftz) := by
  refine ofWord rfl (by simp [encode, encR3]) (fun hw => ?_)
  simp_all [-getLsbD_eq_getElem, encode, encR3, parseFull, parse20, zeros_eq, noFlag, okFlagR, flagR, okPredD, predD, imodOf, fmodOf, opD, opA, opB, opC, lowest3, zeroB, zeroBCM, zeroDABC, sA, sB, sC, eA, eB, eC, okCtl, encR_low, encR_bit]

theorem sqrt (r : R3) (f : FlagSel) (ftz : Bool) : Statement (.sqrt r f ftz) := by
  refine ofWord rfl (by simp [encode, encR3]) (fun hw => ?_)
  simp_all [-getLsbD_eq_getElem, encode, encR3, parseFull, parse20, zeros_eq, noFlag, okFlagR, flagR, okPredD, predD, imodOf, fmodOf, opD, opA, opB, opC, lowest3, zeroB, zeroBCM, zeroDABC, sA, sB, sC, eA, eB, eC, okCtl, encR_low, encR_bit]

theorem exp2 (r : R3) (f : FlagSel) (ftz : Bool) : Statement (.exp2 r f ftz) := by
  refine ofWord rfl (by simp [encode, encR3]) (fun hw => ?_)
  simp_all [-getLsbD_eq_getElem, encode, encR3, parseFull, parse20, zeros_eq, noFlag, okFlagR, flagR, okPredD, predD, imodOf, fmodOf, opD, opA, opB, opC, lowest3, zeroB, zeroBCM, zeroDABC, sA, sB, sC, eA, eB, eC, okCtl, encR_low, encR_bit]

theorem log2 (r : R3) (f : FlagSel) (ftz : Bool) : Statement (.log2 r f ftz) := by
  refine ofWord rfl (by simp [encode, encR3]) (fun hw => ?_)
  simp_all [-getLsbD_eq_getElem, encode, encR3, parseFull, parse20, zeros_eq, noFlag, okFlagR, flagR, okPredD, predD, imodOf, fmodOf, opD, opA, opB, opC, lowest3, zeroB, zeroBCM, zeroDABC, sA, sB, sC, eA, eB, eC, okCtl, encR_low, encR_bit]

theorem sinpi (r : R3) (f : FlagSel) (ftz : Bool) : Statement (.sinpi r f ftz) := by
  refine ofWord rfl (by simp [encode, encR3]) (fun hw => ?_)
  simp_all [-getLsbD_eq_getElem, encode, encR3, parseFull, parse20, zeros_eq, noFlag, okFlagR, flagR, okPredD, predD, imodOf, fmodOf, opD, opA, opB, opC, lowest3, zeroB, zeroBCM, zeroDABC, sA, sB, sC, eA, eB, eC, okCtl, encR_low, encR_bit]

theorem cospi (r : R3) (f : FlagSel) (ftz : Bool) : Statement (.cospi r f ftz) := by
  refine ofWord rfl (by simp [encode, encR3]) (fun hw => ?_)
  simp_all [-getLsbD_eq_getElem, encode, encR3, parseFull, parse20, zeros_eq, noFlag, okFlagR, flagR, okPredD, predD, imodOf, fmodOf, opD, opA, opB, opC, lowest3, zeroB, zeroBCM, zeroDABC, sA, sB, sC, eA, eB, eC, okCtl, encR_low, encR_bit]

theorem tanh (r : R3) (f : FlagSel) (ftz : Bool) : Statement (.tanh r f ftz) := by
  refine ofWord rfl (by simp [encode, encR3]) (fun hw => ?_)
  simp_all [-getLsbD_eq_getElem, encode, encR3, parseFull, parse20, zeros_eq, noFlag, okFlagR, flagR, okPredD, predD, imodOf, fmodOf, opD, opA, opB, opC, lowest3, zeroB, zeroBCM, zeroDABC, sA, sB, sC, eA, eB, eC, okCtl, encR_low, encR_bit]

theorem cvt (r : R3) (rnd : Rnd) (sat : Bool) (dt st : CvtTy) : Statement (.cvt r rnd sat dt st) := by
  refine ofWord rfl (by simp [encode, encR3]) (fun hw => ?_)
  have f0_3 : ((st.code ++ dt.code ++ Bool.b1 sat ++ rnd.code : BitVec 12)).extractLsb' 0 3 = rnd.code := take (by decide) (extractLsb'_eq_self)
  have f4_4 : ((st.code ++ dt.code ++ Bool.b1 sat ++ rnd.code : BitVec 12)).extractLsb' 4 4 = dt.code := skip (by decide) (skip (by decide) (take (by decide) (extractLsb'_eq_self)))
  have f8_4 : ((st.code ++ dt.code ++ Bool.b1 sat ++ rnd.code : BitVec 12)).extractLsb' 8 4 = st.code := skip (by decide) (skip (by decide) (skip (by decide) (extractLsb'_eq_self)))
  have b3 : ((st.code ++ dt.code ++ Bool.b1 sat ++ rnd.code : BitVec 12)).getLsbD 3 = sat := skipBit (by decide) (takeBit (by decide) (b1_get _))
  simp_all [-getLsbD_eq_getElem, encode, encR3, parseFull, parse21, zeros_eq, noFlag, okFlagR, flagR, okPredD, predD, imodOf, fmodOf, opD, opA, opB, opC, lowest3, zeroB, zeroBCM, zeroDABC, sA, sB, sC, eA, eB, eC, okCtl, encR_low, encR_bit, f0_3, f4_4, f8_4, b3]

theorem shfl (r : R3) (mode : ShflMode) (w : Bool) : Statement (.shfl r mode w) := by
  refine ofWord rfl (by simp [encode, encR3]) (fun hw => ?_)
  simp_all [-getLsbD_eq_getElem, encode, encR3, parseFull, parse28, zeros_eq, noFlag, okFlagR, flagR, okPredD, predD, imodOf, fmodOf, opD, opA, opB, opC, lowest3, zeroB, zeroBCM, zeroDABC, sA, sB, sC, eA, eB, eC, okCtl, encR_low, encR_bit]

theorem vote (g : Guard) (d : Opnd) (p : BitVec 3) (mode : VoteMode) (pn : Bool) : Statement (.vote g d p mode pn) := by
  refine ofWord rfl (by simp [encode]) (fun hw => ?_)
  simp_all [-getLsbD_eq_getElem, encode, parseFull, parse28, zeros_eq, noFlag, okFlagR, flagR, okPredD, predD, imodOf, fmodOf, opD, opA, opB, opC, lowest3, zeroB, zeroBCM, zeroDABC, sA, sB, sC, eA, eB, eC, okCtl, encR_low, encR_bit]

theorem lred (r : R3) (op : LaneOp) (w u : Bool) (rnd : Rnd) : Statement (.lred r op w u rnd) := by
  refine ofWord rfl (by simp [encode, encR3]) (fun hw => ?_)
  simp_all [-getLsbD_eq_getElem, encode, encR3, parseFull, parse28, zeros_eq, noFlag, okFlagR, flagR, okPredD, predD, imodOf, fmodOf, opD, opA, opB, opC, lowest3, zeroB, zeroBCM, zeroDABC, sA, sB, sC, eA, eB, eC, okCtl, encR_low, encR_bit]

theorem lscan (r : R3) (op : LaneOp) (w u : Bool) (rnd : Rnd) (excl : Bool) : Statement (.lscan r op w u rnd excl) := by
  refine ofWord rfl (by simp [encode, encR3]) (fun hw => ?_)
  simp_all [-getLsbD_eq_getElem, encode, encR3, parseFull, parse28, zeros_eq, noFlag, okFlagR, flagR, okPredD, predD, imodOf, fmodOf, opD, opA, opB, opC, lowest3, zeroB, zeroBCM, zeroDABC, sA, sB, sC, eA, eB, eC, okCtl, encR_low, encR_bit]

theorem matchL (r : R3) (w : Bool) : Statement (.matchL r w) := by
  refine ofWord rfl (by simp [encode, encR3]) (fun hw => ?_)
  simp_all [-getLsbD_eq_getElem, encode, encR3, parseFull, parse28, zeros_eq, noFlag, okFlagR, flagR, okPredD, predD, imodOf, fmodOf, opD, opA, opB, opC, lowest3, zeroB, zeroBCM, zeroDABC, sA, sB, sC, eA, eB, eC, okCtl, encR_low, encR_bit]

theorem bra (g : Guard) (off : BitVec 32) (idx : BitVec 3) : Statement (.bra g off idx) := by
  refine ofWord rfl (by simp [encode]) (fun hw => ?_)
  simp_all [-getLsbD_eq_getElem, encode, parseFull, parse30, zeros_eq, noFlag, okFlagR, flagR, okPredD, predD, imodOf, fmodOf, opD, opA, opB, opC, lowest3, zeroB, zeroBCM, zeroDABC, sA, sB, sC, eA, eB, eC, okCtl]

theorem call (g : Guard) (link : Opnd) (off : BitVec 32) (idx : BitVec 3) : Statement (.call g link off idx) := by
  refine ofWord rfl (by simp [encode]) (fun hw => ?_)
  simp_all [-getLsbD_eq_getElem, encode, parseFull, parse31, zeros_eq, noFlag, okFlagR, flagR, okPredD, predD, imodOf, fmodOf, opD, opA, opB, opC, lowest3, zeroB, zeroBCM, zeroDABC, sA, sB, sC, eA, eB, eC, okCtl]

theorem loop (g : Guard) (cnt : BitVec 6) (off : BitVec 32) (idx : BitVec 3) : Statement (.loop g cnt off idx) := by
  refine ofWord rfl (by simp [encode]) (fun hw => ?_)
  simp_all [-getLsbD_eq_getElem, encode, parseFull, parse32, zeros_eq, noFlag, okFlagR, flagR, okPredD, predD, imodOf, fmodOf, opD, opA, opB, opC, lowest3, zeroB, zeroBCM, zeroDABC, sA, sB, sC, eA, eB, eC, okCtl]

theorem brm (g : Guard) (p : BitVec 3) (inv : Bool) (off : BitVec 32) (idx : BitVec 3) : Statement (.brm g p inv off idx) := by
  refine ofWord rfl (by simp [encode]) (fun hw => ?_)
  have x0 : ((0#4 ++ Bool.b1 inv ++ p : BitVec 8)).extractLsb' 4 4 = 0#4 := skip (by decide) (skip (by decide) extractLsb'_eq_self)
  have x1 : ((0#4 ++ Bool.b1 inv ++ p : BitVec 8)).extractLsb' 0 3 = p := take (by decide) extractLsb'_eq_self
  have x2 : ((0#4 ++ Bool.b1 inv ++ p : BitVec 8)).getLsbD 3 = inv := skipBit (by decide) (takeBit (by decide) (b1_get _))
  simp_all [-getLsbD_eq_getElem, encode, parseFull, parse33, zeros_eq, noFlag, okFlagR, flagR, okPredD, predD, imodOf, fmodOf, opD, opA, opB, opC, lowest3, zeroB, zeroBCM, zeroDABC, sA, sB, sC, eA, eB, eC, okCtl, x0, x1, x2]

theorem meet (g : Guard) (clr : Bool) (off : BitVec 32) (idx : BitVec 3) : Statement (.meet g clr off idx) := by
  refine ofWord rfl (by simp [encode]) (fun hw => ?_)
  have x0 : ((0#7 ++ Bool.b1 clr : BitVec 8)).extractLsb' 1 7 = 0#7 := skip (by decide) extractLsb'_eq_self
  have x1 : ((0#7 ++ Bool.b1 clr : BitVec 8)).getLsbD 0 = clr := takeBit (by decide) (b1_get _)
  simp_all [-getLsbD_eq_getElem, encode, parseFull, parse34, zeros_eq, noFlag, okFlagR, flagR, okPredD, predD, imodOf, fmodOf, opD, opA, opB, opC, lowest3, zeroB, zeroBCM, zeroDABC, sA, sB, sC, eA, eB, eC, okCtl, x0, x1]

theorem spawn (g : Guard) (n : BitVec 8) (off : BitVec 32) : Statement (.spawn g n off) := by
  refine ofWord rfl (by simp [encode]) (fun hw => ?_)
  simp_all [-getLsbD_eq_getElem, encode, parseFull, parse35, zeros_eq, noFlag, okFlagR, flagR, okPredD, predD, imodOf, fmodOf, opD, opA, opB, opC, lowest3, zeroB, zeroBCM, zeroDABC, sA, sB, sC, eA, eB, eC, okCtl]

theorem brx (g : Guard) (a : Opnd) : Statement (.brx g a) := by
  refine ofWord rfl (by simp [encode]) (fun hw => ?_)
  simp_all [-getLsbD_eq_getElem, encode, parseFull, parse36, zeros_eq, noFlag, okFlagR, flagR, okPredD, predD, imodOf, fmodOf, opD, opA, opB, opC, lowest3, zeroB, zeroBCM, zeroDABC, sA, sB, sC, eA, eB, eC, okCtl, encR_low, encR_bit]

theorem callx (g : Guard) (link a : Opnd) : Statement (.callx g link a) := by
  refine ofWord rfl (by simp [encode]) (fun hw => ?_)
  simp_all [-getLsbD_eq_getElem, encode, parseFull, parse36, zeros_eq, noFlag, okFlagR, flagR, okPredD, predD, imodOf, fmodOf, opD, opA, opB, opC, lowest3, zeroB, zeroBCM, zeroDABC, sA, sB, sC, eA, eB, eC, okCtl, encR_low, encR_bit]

theorem ret (g : Guard) (a : Opnd) : Statement (.ret g a) := by
  refine ofWord rfl (by simp [encode]) (fun hw => ?_)
  simp_all [-getLsbD_eq_getElem, encode, parseFull, parse36, zeros_eq, noFlag, okFlagR, flagR, okPredD, predD, imodOf, fmodOf, opD, opA, opB, opC, lowest3, zeroB, zeroBCM, zeroDABC, sA, sB, sC, eA, eB, eC, okCtl, encR_low, encR_bit]

theorem mend (g : Guard) : Statement (.mend g) := by
  refine ofWord rfl (by simp [encode]) (fun hw => ?_)
  simp_all [-getLsbD_eq_getElem, encode, parseFull, parse37, zeros_eq, noFlag, okFlagR, flagR, okPredD, predD, imodOf, fmodOf, opD, opA, opB, opC, lowest3, zeroB, zeroBCM, zeroDABC, sA, sB, sC, eA, eB, eC, okCtl, encR_low, encR_bit]

theorem spflush (g : Guard) : Statement (.spflush g) := by
  refine ofWord rfl (by simp [encode]) (fun hw => ?_)
  simp_all [-getLsbD_eq_getElem, encode, parseFull, parse37, zeros_eq, noFlag, okFlagR, flagR, okPredD, predD, imodOf, fmodOf, opD, opA, opB, opC, lowest3, zeroB, zeroBCM, zeroDABC, sA, sB, sC, eA, eB, eC, okCtl, encR_low, encR_bit]

theorem exit (g : Guard) : Statement (.exit g) := by
  refine ofWord rfl (by simp [encode]) (fun hw => ?_)
  simp_all [-getLsbD_eq_getElem, encode, parseFull, parse37, zeros_eq, noFlag, okFlagR, flagR, okPredD, predD, imodOf, fmodOf, opD, opA, opB, opC, lowest3, zeroB, zeroBCM, zeroDABC, sA, sB, sC, eA, eB, eC, okCtl, encR_low, encR_bit]

theorem yield (g : Guard) : Statement (.yield g) := by
  refine ofWord rfl (by simp [encode]) (fun hw => ?_)
  simp_all [-getLsbD_eq_getElem, encode, parseFull, parse37, zeros_eq, noFlag, okFlagR, flagR, okPredD, predD, imodOf, fmodOf, opD, opA, opB, opC, lowest3, zeroB, zeroBCM, zeroDABC, sA, sB, sC, eA, eB, eC, okCtl, encR_low, encR_bit]

theorem waitf (g : Guard) (mask : BitVec 12) : Statement (.waitf g mask) := by
  refine ofWord rfl (by simp [encode]) (fun hw => ?_)
  simp_all [-getLsbD_eq_getElem, encode, parseFull, parse37, zeros_eq, noFlag, okFlagR, flagR, okPredD, predD, imodOf, fmodOf, opD, opA, opB, opC, lowest3, zeroB, zeroBCM, zeroDABC, sA, sB, sC, eA, eB, eC, okCtl, encR_low, encR_bit]

theorem nop (g : Guard) : Statement (.nop g) := by
  refine ofWord rfl (by simp [encode]) (fun hw => ?_)
  simp_all [-getLsbD_eq_getElem, encode, parseFull, parse37, zeros_eq, noFlag, okFlagR, flagR, okPredD, predD, imodOf, fmodOf, opD, opA, opB, opC, lowest3, zeroB, zeroBCM, zeroDABC, sA, sB, sC, eA, eB, eC, okCtl, encR_low, encR_bit]

theorem rnld (m : MArgs) (path : Bool) (idx : Opnd) (off : BitVec 14) : Statement (.rnld m path idx off) := by
  refine ofWord rfl (by simp [encode]) (fun hw => ?_)
  have x0 : ((0#7 ++ Bool.b1 path : BitVec 8)).extractLsb' 1 7 = 0#7 := skip (by decide) extractLsb'_eq_self
  have x1 : ((0#7 ++ Bool.b1 path : BitVec 8)).getLsbD 0 = path := takeBit (by decide) (b1_get _)
  simp_all [-getLsbD_eq_getElem, encode, parseFull, parse38, zeros_eq, noFlag, okFlagR, flagR, okPredD, predD, imodOf, fmodOf, opD, opA, opB, opC, lowest3, zeroB, zeroBCM, zeroDABC, sA, sB, sC, eA, eB, eC, okCtl, encM_low, encM_bit, x0, x1]

theorem bar (g : Guard) (id : BitVec 4) : Statement (.bar g id) := by
  refine ofWord rfl (by simp [encode]) (fun hw => ?_)
  have f0_4 : ((0#8 ++ id : BitVec 12)).extractLsb' 0 4 = id := take (by decide) (extractLsb'_eq_self)
  have f4_8 : ((0#8 ++ id : BitVec 12)).extractLsb' 4 8 = 0#8 := skip (by decide) (extractLsb'_eq_self)
  simp_all [-getLsbD_eq_getElem, encode, parseFull, parse39, zeros_eq, noFlag, okFlagR, flagR, okPredD, predD, imodOf, fmodOf, opD, opA, opB, opC, lowest3, zeroB, zeroBCM, zeroDABC, sA, sB, sC, eA, eB, eC, okCtl, encR_low, encR_bit, f0_4, f4_8]

theorem bara (g : Guard) (id : BitVec 4) : Statement (.bara g id) := by
  refine ofWord rfl (by simp [encode]) (fun hw => ?_)
  have f0_4 : ((0#8 ++ id : BitVec 12)).extractLsb' 0 4 = id := take (by decide) (extractLsb'_eq_self)
  have f4_8 : ((0#8 ++ id : BitVec 12)).extractLsb' 4 8 = 0#8 := skip (by decide) (extractLsb'_eq_self)
  simp_all [-getLsbD_eq_getElem, encode, parseFull, parse39, zeros_eq, noFlag, okFlagR, flagR, okPredD, predD, imodOf, fmodOf, opD, opA, opB, opC, lowest3, zeroB, zeroBCM, zeroDABC, sA, sB, sC, eA, eB, eC, okCtl, encR_low, encR_bit, f0_4, f4_8]

theorem barw (g : Guard) (id : BitVec 4) : Statement (.barw g id) := by
  refine ofWord rfl (by simp [encode]) (fun hw => ?_)
  have f0_4 : ((0#8 ++ id : BitVec 12)).extractLsb' 0 4 = id := take (by decide) (extractLsb'_eq_self)
  have f4_8 : ((0#8 ++ id : BitVec 12)).extractLsb' 4 8 = 0#8 := skip (by decide) (extractLsb'_eq_self)
  simp_all [-getLsbD_eq_getElem, encode, parseFull, parse39, zeros_eq, noFlag, okFlagR, flagR, okPredD, predD, imodOf, fmodOf, opD, opA, opB, opC, lowest3, zeroB, zeroBCM, zeroDABC, sA, sB, sC, eA, eB, eC, okCtl, encR_low, encR_bit, f0_4, f4_8]

theorem cbar (g : Guard) (id : BitVec 2) : Statement (.cbar g id) := by
  refine ofWord rfl (by simp [encode]) (fun hw => ?_)
  have f0_2 : ((0#10 ++ id : BitVec 12)).extractLsb' 0 2 = id := take (by decide) (extractLsb'_eq_self)
  have f2_10 : ((0#10 ++ id : BitVec 12)).extractLsb' 2 10 = 0#10 := skip (by decide) (extractLsb'_eq_self)
  simp_all [-getLsbD_eq_getElem, encode, parseFull, parse39, zeros_eq, noFlag, okFlagR, flagR, okPredD, predD, imodOf, fmodOf, opD, opA, opB, opC, lowest3, zeroB, zeroBCM, zeroDABC, sA, sB, sC, eA, eB, eC, okCtl, encR_low, encR_bit, f0_2, f2_10]

theorem srd (g : Guard) (d : Opnd) (r : SpReg) : Statement (.srd g d r) := by
  refine ofWord rfl (by simp [encode]) (fun hw => ?_)
  have f0_4 : ((0#8 ++ r.code : BitVec 12)).extractLsb' 0 4 = r.code := take (by decide) (extractLsb'_eq_self)
  have f4_8 : ((0#8 ++ r.code : BitVec 12)).extractLsb' 4 8 = 0#8 := skip (by decide) (extractLsb'_eq_self)
  simp_all [-getLsbD_eq_getElem, encode, parseFull, parse70, zeros_eq, noFlag, okFlagR, flagR, okPredD, predD, imodOf, fmodOf, opD, opA, opB, opC, lowest3, zeroB, zeroBCM, zeroDABC, sA, sB, sC, eA, eB, eC, okCtl, encR_low, encR_bit, f0_4, f4_8]

theorem swr (g : Guard) (a : Opnd) (r : SpReg) : Statement (.swr g a r) := by
  refine ofWord rfl (by simp [encode]) (fun hw => ?_)
  have f0_4 : ((0#8 ++ r.code : BitVec 12)).extractLsb' 0 4 = r.code := take (by decide) (extractLsb'_eq_self)
  have f4_8 : ((0#8 ++ r.code : BitVec 12)).extractLsb' 4 8 = 0#8 := skip (by decide) (extractLsb'_eq_self)
  simp_all [-getLsbD_eq_getElem, encode, parseFull, parse70, zeros_eq, noFlag, okFlagR, flagR, okPredD, predD, imodOf, fmodOf, opD, opA, opB, opC, lowest3, zeroB, zeroBCM, zeroDABC, sA, sB, sC, eA, eB, eC, okCtl, encR_low, encR_bit, f0_4, f4_8]

theorem gts (g : Guard) (d : Opnd) : Statement (.gts g d) := by
  refine ofWord rfl (by simp [encode]) (fun hw => ?_)
  simp_all [-getLsbD_eq_getElem, encode, parseFull, parse70, zeros_eq, noFlag, okFlagR, flagR, okPredD, predD, imodOf, fmodOf, opD, opA, opB, opC, lowest3, zeroB, zeroBCM, zeroDABC, sA, sB, sC, eA, eB, eC, okCtl, encR_low, encR_bit]

theorem clk (g : Guard) (d : Opnd) : Statement (.clk g d) := by
  refine ofWord rfl (by simp [encode]) (fun hw => ?_)
  simp_all [-getLsbD_eq_getElem, encode, parseFull, parse70, zeros_eq, noFlag, okFlagR, flagR, okPredD, predD, imodOf, fmodOf, opD, opA, opB, opC, lowest3, zeroB, zeroBCM, zeroDABC, sA, sB, sC, eA, eB, eC, okCtl, encR_low, encR_bit]

theorem trap (g : Guard) (a : Opnd) (code : BitVec 8) : Statement (.trap g a code) := by
  refine ofWord rfl (by simp [encode]) (fun hw => ?_)
  have f0_8 : ((0#4 ++ code : BitVec 12)).extractLsb' 0 8 = code := take (by decide) (extractLsb'_eq_self)
  have f8_4 : ((0#4 ++ code : BitVec 12)).extractLsb' 8 4 = 0#4 := skip (by decide) (extractLsb'_eq_self)
  simp_all [-getLsbD_eq_getElem, encode, parseFull, parse71, zeros_eq, noFlag, okFlagR, flagR, okPredD, predD, imodOf, fmodOf, opD, opA, opB, opC, lowest3, zeroB, zeroBCM, zeroDABC, sA, sB, sC, eA, eB, eC, okCtl, encR_low, encR_bit, f0_8, f8_4]

theorem brkp (g : Guard) (code : BitVec 8) : Statement (.brkp g code) := by
  refine ofWord rfl (by simp [encode]) (fun hw => ?_)
  have f0_8 : ((0#4 ++ code : BitVec 12)).extractLsb' 0 8 = code := take (by decide) (extractLsb'_eq_self)
  have f8_4 : ((0#4 ++ code : BitVec 12)).extractLsb' 8 4 = 0#4 := skip (by decide) (extractLsb'_eq_self)
  simp_all [-getLsbD_eq_getElem, encode, parseFull, parse71, zeros_eq, noFlag, okFlagR, flagR, okPredD, predD, imodOf, fmodOf, opD, opA, opB, opC, lowest3, zeroB, zeroBCM, zeroDABC, sA, sB, sC, eA, eB, eC, okCtl, encR_low, encR_bit, f0_8, f8_4]

theorem ld (m : MArgs) (d idx : Opnd) (off : BitVec 14) : Statement (.ld m d idx off) := by
  refine ofWord rfl (by simp [encode]) (fun hw => ?_)
  simp_all [-getLsbD_eq_getElem, encode, parseFull, parse40, zeros_eq, noFlag, okFlagR, flagR, okPredD, predD, imodOf, fmodOf, opD, opA, opB, opC, lowest3, zeroB, zeroBCM, zeroDABC, sA, sB, sC, eA, eB, eC, okCtl, encM_low, encM_bit]

theorem st (m : MArgs) (x : Opnd) (off : BitVec 14) : Statement (.st m x off) := by
  refine ofWord rfl (by simp [encode]) (fun hw => ?_)
  simp_all [-getLsbD_eq_getElem, encode, parseFull, parse41, zeros_eq, noFlag, okFlagR, flagR, okPredD, predD, imodOf, fmodOf, opD, opA, opB, opC, lowest3, zeroB, zeroBCM, zeroDABC, sA, sB, sC, eA, eB, eC, okCtl, encM_low, encM_bit]

theorem ldc (m : MArgs) (d idx : Opnd) (off : BitVec 14) : Statement (.ldc m d idx off) := by
  refine ofWord rfl (by simp [encode]) (fun hw => ?_)
  simp_all [-getLsbD_eq_getElem, encode, parseFull, parse42, zeros_eq, noFlag, okFlagR, flagR, okPredD, predD, imodOf, fmodOf, opD, opA, opB, opC, lowest3, zeroB, zeroBCM, zeroDABC, sA, sB, sC, eA, eB, eC, okCtl, encM_low, encM_bit]

theorem atom (m : MArgs) (op : AOp) (d x : Opnd) (off : BitVec 10) : Statement (.atom m op d x off) := by
  refine ofWord rfl (by simp [encode]) (fun hw => ?_)
  simp_all [-getLsbD_eq_getElem, encode, parseFull, parse43, zeros_eq, noFlag, okFlagR, flagR, okPredD, predD, imodOf, fmodOf, opD, opA, opB, opC, lowest3, zeroB, zeroBCM, zeroDABC, sA, sB, sC, eA, eB, eC, okCtl, encM_low, encM_bit]

theorem atoms (m : MArgs) (op : AOp) (d x : Opnd) (off : BitVec 10) : Statement (.atoms m op d x off) := by
  refine ofWord rfl (by simp [encode]) (fun hw => ?_)
  simp_all [-getLsbD_eq_getElem, encode, parseFull, parse44, zeros_eq, noFlag, okFlagR, flagR, okPredD, predD, imodOf, fmodOf, opD, opA, opB, opC, lowest3, zeroB, zeroBCM, zeroDABC, sA, sB, sC, eA, eB, eC, okCtl, encM_low, encM_bit]

theorem red (m : MArgs) (op : AOp) (x : Opnd) (off : BitVec 10) : Statement (.red m op x off) := by
  refine ofWord rfl (by simp [encode]) (fun hw => ?_)
  simp_all [-getLsbD_eq_getElem, encode, parseFull, parse45, zeros_eq, noFlag, okFlagR, flagR, okPredD, predD, imodOf, fmodOf, opD, opA, opB, opC, lowest3, zeroB, zeroBCM, zeroDABC, sA, sB, sC, eA, eB, eC, okCtl, encM_low, encM_bit]

theorem cas (m : MArgs) (d x : Opnd) (off : BitVec 14) : Statement (.cas m d x off) := by
  refine ofWord rfl (by simp [encode]) (fun hw => ?_)
  simp_all [-getLsbD_eq_getElem, encode, parseFull, parse46, zeros_eq, noFlag, okFlagR, flagR, okPredD, predD, imodOf, fmodOf, opD, opA, opB, opC, lowest3, zeroB, zeroBCM, zeroDABC, sA, sB, sC, eA, eB, eC, okCtl, encM_low, encM_bit]

theorem aflush (g : Guard) : Statement (.aflush g) := by
  refine ofWord rfl (by simp [encode]) (fun hw => ?_)
  simp_all [-getLsbD_eq_getElem, encode, parseFull, parse47, zeros_eq, noFlag, okFlagR, flagR, okPredD, predD, imodOf, fmodOf, opD, opA, opB, opC, lowest3, zeroB, zeroBCM, zeroDABC, sA, sB, sC, eA, eB, eC, okCtl, encR_low, encR_bit]

theorem txend (g : Guard) : Statement (.txend g) := by
  refine ofWord rfl (by simp [encode]) (fun hw => ?_)
  simp_all [-getLsbD_eq_getElem, encode, parseFull, parse4D, zeros_eq, noFlag, okFlagR, flagR, okPredD, predD, imodOf, fmodOf, opD, opA, opB, opC, lowest3, zeroB, zeroBCM, zeroDABC, sA, sB, sC, eA, eB, eC, okCtl, encR_low, encR_bit]

theorem txabt (g : Guard) (code : BitVec 8) : Statement (.txabt g code) := by
  refine ofWord rfl (by simp [encode]) (fun hw => ?_)
  have f0_8 : ((0#4 ++ code : BitVec 12)).extractLsb' 0 8 = code := take (by decide) (extractLsb'_eq_self)
  have f8_4 : ((0#4 ++ code : BitVec 12)).extractLsb' 8 4 = 0#4 := skip (by decide) (extractLsb'_eq_self)
  simp_all [-getLsbD_eq_getElem, encode, parseFull, parse4D, zeros_eq, noFlag, okFlagR, flagR, okPredD, predD, imodOf, fmodOf, opD, opA, opB, opC, lowest3, zeroB, zeroBCM, zeroDABC, sA, sB, sC, eA, eB, eC, okCtl, encR_low, encR_bit, f0_8, f8_4]

theorem txst (g : Guard) (d : BitVec 7) : Statement (.txst g d) := by
  refine ofWord rfl (by simp [encode]) (fun hw => ?_)
  simp_all [-getLsbD_eq_getElem, encode, parseFull, parse4D, zeros_eq, noFlag, okFlagR, flagR, okPredD, predD, imodOf, fmodOf, opD, opA, opB, opC, lowest3, zeroB, zeroBCM, zeroDABC, sA, sB, sC, eA, eB, eC, okCtl, encR_low, encR_bit]

theorem qpush (m : MArgs) (st x : Opnd) (q : BitVec 8) : Statement (.qpush m st x q) := by
  refine ofWord rfl (by simp [encode]) (fun hw => ?_)
  have f0_8 : ((0#6 ++ q : BitVec 14)).extractLsb' 0 8 = q := take (by decide) (extractLsb'_eq_self)
  have f8_6 : ((0#6 ++ q : BitVec 14)).extractLsb' 8 6 = 0#6 := skip (by decide) (extractLsb'_eq_self)
  simp_all [-getLsbD_eq_getElem, encode, parseFull, parse4E, zeros_eq, noFlag, okFlagR, flagR, okPredD, predD, imodOf, fmodOf, opD, opA, opB, opC, lowest3, zeroB, zeroBCM, zeroDABC, sA, sB, sC, eA, eB, eC, okCtl, encM_low, encM_bit, f0_8, f8_6]

theorem qpop (m : MArgs) (d st : Opnd) (wait : Bool) (q : BitVec 8) : Statement (.qpop m d st wait q) := by
  refine ofWord rfl (by simp [encode]) (fun hw => ?_)
  have f0_8 : ((0#4 ++ Bool.b1 wait ++ 0#1 ++ q : BitVec 14)).extractLsb' 0 8 = q := take (by decide) (extractLsb'_eq_self)
  have f10_4 : ((0#4 ++ Bool.b1 wait ++ 0#1 ++ q : BitVec 14)).extractLsb' 10 4 = 0#4 := skip (by decide) (skip (by decide) (skip (by decide) (extractLsb'_eq_self)))
  have b8 : ((0#4 ++ Bool.b1 wait ++ 0#1 ++ q : BitVec 14)).getLsbD 8 = false := skipBit (by decide) (takeBit (by decide) (rfl))
  have b9 : ((0#4 ++ Bool.b1 wait ++ 0#1 ++ q : BitVec 14)).getLsbD 9 = wait := skipBit (by decide) (skipBit (by decide) (takeBit (by decide) (b1_get _)))
  simp_all [-getLsbD_eq_getElem, encode, parseFull, parse4F, zeros_eq, noFlag, okFlagR, flagR, okPredD, predD, imodOf, fmodOf, opD, opA, opB, opC, lowest3, zeroB, zeroBCM, zeroDABC, sA, sB, sC, eA, eB, eC, okCtl, encM_low, encM_bit, f0_8, f10_4, b8, b9]

theorem qcnt (m : MArgs) (d : Opnd) (q : BitVec 8) : Statement (.qcnt m d q) := by
  refine ofWord rfl (by simp [encode]) (fun hw => ?_)
  have f0_8 : ((0#6 ++ q : BitVec 14)).extractLsb' 0 8 = q := take (by decide) (extractLsb'_eq_self)
  have f8_6 : ((0#6 ++ q : BitVec 14)).extractLsb' 8 6 = 0#6 := skip (by decide) (extractLsb'_eq_self)
  simp_all [-getLsbD_eq_getElem, encode, parseFull, parse50, zeros_eq, noFlag, okFlagR, flagR, okPredD, predD, imodOf, fmodOf, opD, opA, opB, opC, lowest3, zeroB, zeroBCM, zeroDABC, sA, sB, sC, eA, eB, eC, okCtl, encM_low, encM_bit, f0_8, f8_6]

theorem cpy (e : EArgs) (a : BitVec 6) : Statement (.cpy e a) := by
  refine ofWord rfl (by simp [encode]) (fun hw => ?_)
  simp_all [-getLsbD_eq_getElem, encode, parseFull, parse60, zeros_eq, noFlag, okFlagR, flagR, okPredD, predD, imodOf, fmodOf, opD, opA, opB, opC, lowest3, zeroB, zeroBCM, zeroDABC, sA, sB, sC, eA, eB, eC, okCtl, encE_low, encE_bit]

theorem cpyg (e : EArgs) (a : BitVec 6) (b : BitVec 7) : Statement (.cpyg e a b) := by
  refine ofWord rfl (by simp [encode]) (fun hw => ?_)
  simp_all [-getLsbD_eq_getElem, encode, parseFull, parse60, zeros_eq, noFlag, okFlagR, flagR, okPredD, predD, imodOf, fmodOf, opD, opA, opB, opC, lowest3, zeroB, zeroBCM, zeroDABC, sA, sB, sC, eA, eB, eC, okCtl, encE_low, encE_bit]

theorem cpys (e : EArgs) (a : BitVec 6) (b : BitVec 7) : Statement (.cpys e a b) := by
  refine ofWord rfl (by simp [encode]) (fun hw => ?_)
  simp_all [-getLsbD_eq_getElem, encode, parseFull, parse60, zeros_eq, noFlag, okFlagR, flagR, okPredD, predD, imodOf, fmodOf, opD, opA, opB, opC, lowest3, zeroB, zeroBCM, zeroDABC, sA, sB, sC, eA, eB, eC, okCtl, encE_low, encE_bit]

theorem cpym (e : EArgs) (a c : BitVec 6) (slot : BitVec 5) : Statement (.cpym e a c slot) := by
  refine ofWord rfl (by simp [encode]) (fun hw => ?_)
  have f0_5 : ((0#1 ++ slot : BitVec 6)).extractLsb' 0 5 = slot := take (by decide) (extractLsb'_eq_self)
  have b5 : ((0#1 ++ slot : BitVec 6)).getLsbD 5 = false := skipBit (by decide) (rfl)
  simp_all [-getLsbD_eq_getElem, encode, parseFull, parse60, zeros_eq, noFlag, okFlagR, flagR, okPredD, predD, imodOf, fmodOf, opD, opA, opB, opC, lowest3, zeroB, zeroBCM, zeroDABC, sA, sB, sC, eA, eB, eC, okCtl, encE_low, encE_bit, f0_5, b5]

theorem omclm (e : EArgs) (a b : Opnd) (try_ : Bool) (scu : BitVec 2) : Statement (.omclm e a b try_ scu) := by
  refine ofWord rfl (by simp [encode]) (fun hw => ?_)
  have f1_2 : ((0#3 ++ scu ++ Bool.b1 try_ : BitVec 6)).extractLsb' 1 2 = scu := skip (by decide) (take (by decide) (extractLsb'_eq_self))
  have f3_3 : ((0#3 ++ scu ++ Bool.b1 try_ : BitVec 6)).extractLsb' 3 3 = 0#3 := skip (by decide) (skip (by decide) (extractLsb'_eq_self))
  have b0 : ((0#3 ++ scu ++ Bool.b1 try_ : BitVec 6)).getLsbD 0 = try_ := takeBit (by decide) (b1_get _)
  simp_all [-getLsbD_eq_getElem, encode, parseFull, parse61, zeros_eq, noFlag, okFlagR, flagR, okPredD, predD, imodOf, fmodOf, opD, opA, opB, opC, lowest3, zeroB, zeroBCM, zeroDABC, sA, sB, sC, eA, eB, eC, okCtl, encE_low, encE_bit, f1_2, f3_3, b0]

theorem omrel (e : EArgs) (a b : Opnd) : Statement (.omrel e a b) := by
  refine ofWord rfl (by simp [encode]) (fun hw => ?_)
  simp_all [-getLsbD_eq_getElem, encode, parseFull, parse61, zeros_eq, noFlag, okFlagR, flagR, okPredD, predD, imodOf, fmodOf, opD, opA, opB, opC, lowest3, zeroB, zeroBCM, zeroDABC, sA, sB, sC, eA, eB, eC, okCtl, encE_low, encE_bit]

theorem accz (e : EArgs) (acc : BitVec 3) : Statement (.accz e acc) := by
  refine ofWord rfl (by simp [encode]) (fun hw => ?_)
  have f0_3 : ((0#3 ++ acc : BitVec 6)).extractLsb' 0 3 = acc := take (by decide) (extractLsb'_eq_self)
  have f3_3 : ((0#3 ++ acc : BitVec 6)).extractLsb' 3 3 = 0#3 := skip (by decide) (extractLsb'_eq_self)
  simp_all [-getLsbD_eq_getElem, encode, parseFull, parse61, zeros_eq, noFlag, okFlagR, flagR, okPredD, predD, imodOf, fmodOf, opD, opA, opB, opC, lowest3, zeroB, zeroBCM, zeroDABC, sA, sB, sC, eA, eB, eC, okCtl, encE_low, encE_bit, f0_3, f3_3]

theorem accld (e : EArgs) (a b : BitVec 6) (acc : BitVec 3) : Statement (.accld e a b acc) := by
  refine ofWord rfl (by simp [encode]) (fun hw => ?_)
  have f0_3 : ((0#3 ++ acc : BitVec 6)).extractLsb' 0 3 = acc := take (by decide) (extractLsb'_eq_self)
  have f3_3 : ((0#3 ++ acc : BitVec 6)).extractLsb' 3 3 = 0#3 := skip (by decide) (extractLsb'_eq_self)
  simp_all [-getLsbD_eq_getElem, encode, parseFull, parse61, zeros_eq, noFlag, okFlagR, flagR, okPredD, predD, imodOf, fmodOf, opD, opA, opB, opC, lowest3, zeroB, zeroBCM, zeroDABC, sA, sB, sC, eA, eB, eC, okCtl, encE_low, encE_bit, f0_3, f3_3]

theorem accst (e : EArgs) (a b c : BitVec 6) (acc : BitVec 3) : Statement (.accst e a b c acc) := by
  refine ofWord rfl (by simp [encode]) (fun hw => ?_)
  have f0_3 : ((0#3 ++ acc : BitVec 6)).extractLsb' 0 3 = acc := take (by decide) (extractLsb'_eq_self)
  have f3_3 : ((0#3 ++ acc : BitVec 6)).extractLsb' 3 3 = 0#3 := skip (by decide) (extractLsb'_eq_self)
  simp_all [-getLsbD_eq_getElem, encode, parseFull, parse61, zeros_eq, noFlag, okFlagR, flagR, okPredD, predD, imodOf, fmodOf, opD, opA, opB, opC, lowest3, zeroB, zeroBCM, zeroDABC, sA, sB, sC, eA, eB, eC, okCtl, encE_low, encE_bit, f0_3, f3_3]

theorem accmv (e : EArgs) (slot : BitVec 5) (c : BitVec 6) (acc : BitVec 3) (h : Bool) : Statement (.accmv e slot c acc h) := by
  refine ofWord rfl (by simp [encode]) (fun hw => ?_)
  have f0_3 : ((0#2 ++ Bool.b1 h ++ acc : BitVec 6)).extractLsb' 0 3 = acc := take (by decide) (extractLsb'_eq_self)
  have f4_2 : ((0#2 ++ Bool.b1 h ++ acc : BitVec 6)).extractLsb' 4 2 = 0#2 := skip (by decide) (skip (by decide) (extractLsb'_eq_self))
  have b3 : ((0#2 ++ Bool.b1 h ++ acc : BitVec 6)).getLsbD 3 = h := skipBit (by decide) (takeBit (by decide) (b1_get _))
  simp_all [-getLsbD_eq_getElem, encode, parseFull, parse61, zeros_eq, noFlag, okFlagR, flagR, okPredD, predD, imodOf, fmodOf, opD, opA, opB, opC, lowest3, zeroB, zeroBCM, zeroDABC, sA, sB, sC, eA, eB, eC, okCtl, encE_low, encE_bit, f0_3, f4_2, b3]

theorem mma (e : EArgs) (sa sb : BitVec 5) (acc : BitVec 3) : Statement (.mma e sa sb acc) := by
  refine ofWord rfl (by simp [encode]) (fun hw => ?_)
  simp_all [-getLsbD_eq_getElem, encode, parseFull, parse62, zeros_eq, noFlag, okFlagR, flagR, okPredD, predD, imodOf, fmodOf, opD, opA, opB, opC, lowest3, zeroB, zeroBCM, zeroDABC, sA, sB, sC, eA, eB, eC, okCtl, encE_low, encE_bit]

theorem mmb (e : EArgs) (sa sb : BitVec 5) (acc : BitVec 3) : Statement (.mmb e sa sb acc) := by
  refine ofWord rfl (by simp [encode]) (fun hw => ?_)
  simp_all [-getLsbD_eq_getElem, encode, parseFull, parse62, zeros_eq, noFlag, okFlagR, flagR, okPredD, predD, imodOf, fmodOf, opD, opA, opB, opC, lowest3, zeroB, zeroBCM, zeroDABC, sA, sB, sC, eA, eB, eC, okCtl, encE_low, encE_bit]

theorem futw (g : Guard) (d a : Opnd) : Statement (.futw g d a) := by
  refine ofWord rfl (by simp [encode]) (fun hw => ?_)
  simp_all [-getLsbD_eq_getElem, encode, parseFull, parse63, zeros_eq, noFlag, okFlagR, flagR, okPredD, predD, imodOf, fmodOf, opD, opA, opB, opC, lowest3, zeroB, zeroBCM, zeroDABC, sA, sB, sC, eA, eB, eC, okCtl, encR_low, encR_bit]

theorem futt (g : Guard) (p : BitVec 3) (a : Opnd) : Statement (.futt g p a) := by
  refine ofWord rfl (by simp [encode]) (fun hw => ?_)
  simp_all [-getLsbD_eq_getElem, encode, parseFull, parse63, zeros_eq, noFlag, okFlagR, flagR, okPredD, predD, imodOf, fmodOf, opD, opA, opB, opC, lowest3, zeroB, zeroBCM, zeroDABC, sA, sB, sC, eA, eB, eC, okCtl, encR_low, encR_bit]

theorem futc (g : Guard) (a : Opnd) : Statement (.futc g a) := by
  refine ofWord rfl (by simp [encode]) (fun hw => ?_)
  simp_all [-getLsbD_eq_getElem, encode, parseFull, parse63, zeros_eq, noFlag, okFlagR, flagR, okPredD, predD, imodOf, fmodOf, opD, opA, opB, opC, lowest3, zeroB, zeroBCM, zeroDABC, sA, sB, sC, eA, eB, eC, okCtl, encR_low, encR_bit]

theorem rstl (g : Guard) (ix : BitVec 6) (clr : Bool) : Statement (.rstl g ix clr) := by
  refine ofWord rfl (by simp [encode]) (fun hw => ?_)
  have f0_6 : ((0#5 ++ Bool.b1 clr ++ ix : BitVec 12)).extractLsb' 0 6 = ix := take (by decide) (extractLsb'_eq_self)
  have f7_5 : ((0#5 ++ Bool.b1 clr ++ ix : BitVec 12)).extractLsb' 7 5 = 0#5 := skip (by decide) (skip (by decide) (extractLsb'_eq_self))
  have b6 : ((0#5 ++ Bool.b1 clr ++ ix : BitVec 12)).getLsbD 6 = clr := skipBit (by decide) (takeBit (by decide) (b1_get _))
  simp_all [-getLsbD_eq_getElem, encode, parseFull, parse63, zeros_eq, noFlag, okFlagR, flagR, okPredD, predD, imodOf, fmodOf, opD, opA, opB, opC, lowest3, zeroB, zeroBCM, zeroDABC, sA, sB, sC, eA, eB, eC, okCtl, encR_low, encR_bit, f0_6, f7_5, b6]

theorem coll (e : EArgs) (a b : BitVec 6) (kind : BitVec 2) : Statement (.coll e a b kind) := by
  refine ofWord rfl (by simp [encode]) (fun hw => ?_)
  have f0_2 : ((0#4 ++ kind : BitVec 6)).extractLsb' 0 2 = kind := take (by decide) (extractLsb'_eq_self)
  have f2_4 : ((0#4 ++ kind : BitVec 6)).extractLsb' 2 4 = 0#4 := skip (by decide) (extractLsb'_eq_self)
  simp_all [-getLsbD_eq_getElem, encode, parseFull, parse64, zeros_eq, noFlag, okFlagR, flagR, okPredD, predD, imodOf, fmodOf, opD, opA, opB, opC, lowest3, zeroB, zeroBCM, zeroDABC, sA, sB, sC, eA, eB, eC, okCtl, encE_low, encE_bit, f0_2, f2_4]

theorem put (e : EArgs) (a b : BitVec 6) : Statement (.put e a b) := by
  refine ofWord rfl (by simp [encode]) (fun hw => ?_)
  simp_all [-getLsbD_eq_getElem, encode, parseFull, parse64, zeros_eq, noFlag, okFlagR, flagR, okPredD, predD, imodOf, fmodOf, opD, opA, opB, opC, lowest3, zeroB, zeroBCM, zeroDABC, sA, sB, sC, eA, eB, eC, okCtl, encE_low, encE_bit]

theorem get (e : EArgs) (a b : BitVec 6) : Statement (.get e a b) := by
  refine ofWord rfl (by simp [encode]) (fun hw => ?_)
  simp_all [-getLsbD_eq_getElem, encode, parseFull, parse64, zeros_eq, noFlag, okFlagR, flagR, okPredD, predD, imodOf, fmodOf, opD, opA, opB, opC, lowest3, zeroB, zeroBCM, zeroDABC, sA, sB, sC, eA, eB, eC, okCtl, encE_low, encE_bit]

theorem qnt (e : EArgs) (a b c : BitVec 6) (wt : BitVec 4) : Statement (.qnt e a b c wt) := by
  refine ofWord rfl (by simp [encode]) (fun hw => ?_)
  have f0_4 : ((0#2 ++ wt : BitVec 6)).extractLsb' 0 4 = wt := take (by decide) (extractLsb'_eq_self)
  have f4_2 : ((0#2 ++ wt : BitVec 6)).extractLsb' 4 2 = 0#2 := skip (by decide) (extractLsb'_eq_self)
  simp_all [-getLsbD_eq_getElem, encode, parseFull, parse65, zeros_eq, noFlag, okFlagR, flagR, okPredD, predD, imodOf, fmodOf, opD, opA, opB, opC, lowest3, zeroB, zeroBCM, zeroDABC, sA, sB, sC, eA, eB, eC, okCtl, encE_low, encE_bit, f0_4, f4_2]

theorem dqnt (e : EArgs) (a b c : BitVec 6) (wt : BitVec 4) : Statement (.dqnt e a b c wt) := by
  refine ofWord rfl (by simp [encode]) (fun hw => ?_)
  have f0_4 : ((0#2 ++ wt : BitVec 6)).extractLsb' 0 4 = wt := take (by decide) (extractLsb'_eq_self)
  have f4_2 : ((0#2 ++ wt : BitVec 6)).extractLsb' 4 2 = 0#2 := skip (by decide) (extractLsb'_eq_self)
  simp_all [-getLsbD_eq_getElem, encode, parseFull, parse65, zeros_eq, noFlag, okFlagR, flagR, okPredD, predD, imodOf, fmodOf, opD, opA, opB, opC, lowest3, zeroB, zeroBCM, zeroDABC, sA, sB, sC, eA, eB, eC, okCtl, encE_low, encE_bit, f0_4, f4_2]

theorem amax (g : Guard) (f : FlagSel) (a : Opnd) (ring : BitVec 6) (adv : Bool) : Statement (.amax g f a ring adv) := by
  refine ofWord rfl (by simp [encode]) (fun hw => ?_)
  have f0_6 : ((0#5 ++ Bool.b1 adv ++ ring : BitVec 12)).extractLsb' 0 6 = ring := take (by decide) (extractLsb'_eq_self)
  have f7_5 : ((0#5 ++ Bool.b1 adv ++ ring : BitVec 12)).extractLsb' 7 5 = 0#5 := skip (by decide) (skip (by decide) (extractLsb'_eq_self))
  have b6 : ((0#5 ++ Bool.b1 adv ++ ring : BitVec 12)).getLsbD 6 = adv := skipBit (by decide) (takeBit (by decide) (b1_get _))
  simp_all [-getLsbD_eq_getElem, encode, parseFull, parse66, zeros_eq, noFlag, okFlagR, flagR, okPredD, predD, imodOf, fmodOf, opD, opA, opB, opC, lowest3, zeroB, zeroBCM, zeroDABC, sA, sB, sC, eA, eB, eC, okCtl, encR_low, encR_bit, f0_6, f7_5, b6]

theorem sring (g : Guard) (f : FlagSel) (d : Opnd) (ring : BitVec 6) : Statement (.sring g f d ring) := by
  refine ofWord rfl (by simp [encode]) (fun hw => ?_)
  have f0_6 : ((0#6 ++ ring : BitVec 12)).extractLsb' 0 6 = ring := take (by decide) (extractLsb'_eq_self)
  have f6_6 : ((0#6 ++ ring : BitVec 12)).extractLsb' 6 6 = 0#6 := skip (by decide) (extractLsb'_eq_self)
  simp_all [-getLsbD_eq_getElem, encode, parseFull, parse66, zeros_eq, noFlag, okFlagR, flagR, okPredD, predD, imodOf, fmodOf, opD, opA, opB, opC, lowest3, zeroB, zeroBCM, zeroDABC, sA, sB, sC, eA, eB, eC, okCtl, encR_low, encR_bit, f0_6, f6_6]

theorem flaggedOpComplete (op : Nat) (lanes : BitVec 32) : Statement (.flaggedOpComplete op lanes) := ofEvent rfl

theorem walkComplete (k : Nat) : Statement (.walkComplete k) := ofEvent rfl

theorem mvWaitTimeout (k : Nat) : Statement (.mvWaitTimeout k) := ofEvent rfl

theorem tlbInvalidate (tctx : Nat) (what : InvalWhat) : Statement (.tlbInvalidate tctx what) := ofEvent rfl

theorem tlbInvalidateComplete (k : Nat) : Statement (.tlbInvalidateComplete k) := ofEvent rfl

theorem peerAccessArrive (k : Nat) : Statement (.peerAccessArrive k) := ofEvent rfl

theorem copyLineLanded (core slot line : Nat) : Statement (.copyLineLanded core slot line) := ofEvent rfl

theorem releasePull (k : Nat) : Statement (.releasePull k) := ofEvent rfl

theorem pullAck (k : Nat) : Statement (.pullAck k) := ofEvent rfl

theorem releaseSetTimeout (core k : Nat) : Statement (.releaseSetTimeout core k) := ofEvent rfl

theorem regionMoveComplete (k : Nat) : Statement (.regionMoveComplete k) := ofEvent rfl

theorem floorWindow : Statement (.floorWindow) := ofEvent rfl

theorem txLockWaitEnd (part cls : Nat) : Statement (.txLockWaitEnd part cls) := ofEvent rfl

theorem txTimeLimit (who : TxWho) : Statement (.txTimeLimit who) := ofEvent rfl

theorem spawnCohortForm (block list : Nat) : Statement (.spawnCohortForm block list) := ofEvent rfl

theorem belvedereCheck (coh : Nat) : Statement (.belvedereCheck coh) := ofEvent rfl

theorem submitEntry (vf : Nat) (record gang tag flags : BitVec 64) : Statement (.submitEntry vf record gang tag flags) := ofEvent rfl

theorem dependencePoll : Statement (.dependencePoll) := ofEvent rfl

theorem railsSettled (die : Nat) : Statement (.railsSettled die) := ofEvent rfl

theorem clusterPlace (grid e j die clu : Nat) (cores : List Nat) : Statement (.clusterPlace grid e j die clu cores) := ofEvent rfl

theorem gridRetire (grid : Nat) : Statement (.gridRetire grid) := ofEvent rfl

theorem activePositionHandoff (out into : Nat) : Statement (.activePositionHandoff out into) := ofEvent rfl

theorem cohortEvict (coh : Nat) : Statement (.cohortEvict coh) := ofEvent rfl

theorem cohortRestoreEvicted (coh : Nat) : Statement (.cohortRestoreEvicted coh) := ofEvent rfl

theorem launchQueueCohortStart (part q block idx : Nat) : Statement (.launchQueueCohortStart part q block idx) := ofEvent rfl

theorem powerLimitStepDown : Statement (.powerLimitStepDown) := ofEvent rfl

theorem powerLimitStepUp : Statement (.powerLimitStepUp) := ofEvent rfl

theorem trapRecordWrite (part : Nat) : Statement (.trapRecordWrite part) := ofEvent rfl

theorem trapReply (part : Nat) (w0 newpc edits dumpva : BitVec 64) : Statement (.trapReply part w0 newpc edits dumpva) := ofEvent rfl

theorem trapQueueSetup (part : Nat) (base : BitVec 64) : Statement (.trapQueueSetup part base) := ofEvent rfl

theorem trapQueueHeadWrite (part : Nat) (head : BitVec 64) : Statement (.trapQueueHeadWrite part head) := ofEvent rfl

theorem queueSetup (part q : Nat) (ring spill : BitVec 64) (scap : BitVec 32) : Statement (.queueSetup part q ring spill scap) := ofEvent rfl

theorem exportRegion (part region : Nat) : Statement (.exportRegion part region) := ofEvent rfl

theorem memoryGrant (part region : Nat) (on : Bool) : Statement (.memoryGrant part region on) := ofEvent rfl

theorem floorRequest (part ch : Nat) (units : BitVec 9) : Statement (.floorRequest part ch units) := ofEvent rfl

theorem sliceEnd (share : Nat) : Statement (.sliceEnd share) := ofEvent rfl

theorem haltComplete (share : Nat) : Statement (.haltComplete share) := ofEvent rfl

theorem quiesceMarkerReturn (share : Nat) : Statement (.quiesceMarkerReturn share) := ofEvent rfl

theorem imageSaveComplete (share : Nat) : Statement (.imageSaveComplete share) := ofEvent rfl

theorem scrubComplete (share : Nat) : Statement (.scrubComplete share) := ofEvent rfl

theorem restoreComplete (share : Nat) : Statement (.restoreComplete share) := ofEvent rfl

theorem engineOpComplete (core slot : Nat) : Statement (.engineOpComplete core slot) := ofEvent rfl

theorem claimGrant (core slot : Nat) : Statement (.claimGrant core slot) := ofEvent rfl

theorem fillLanded (core slot : Nat) : Statement (.fillLanded core slot) := ofEvent rfl

theorem remoteRequest (src : Nat) (dtid : BitVec 16) (kind : RemoteKind) (off size : Nat) (data : BitVec 128) : Statement (.remoteRequest src dtid kind off size data) := ofEvent rfl

theorem payloadDelivery (src : Nat) (dtid : BitVec 16) (off : Nat) (bytes : List (BitVec 8)) (rec : Option Nat) (code detail : BitVec 8) : Statement (.payloadDelivery src dtid off bytes rec code detail) := ofEvent rfl

theorem collChunkArrival (dtid : BitVec 16) (cid : BitVec 32) (rank : Nat) (head : CollHead) (elems : List Int) : Statement (.collChunkArrival dtid cid rank head elems) := ofEvent rfl

theorem collResult (core slot : Nat) : Statement (.collResult core slot) := ofEvent rfl

theorem collTimeout (dtid : BitVec 16) (cid : BitVec 32) : Statement (.collTimeout dtid cid) := ofEvent rfl

theorem flitReplayExhausted (what : FlitWhat) : Statement (.flitReplayExhausted what) := ofEvent rfl

theorem portOutOfService (port : Nat) : Statement (.portOutOfService port) := ofEvent rfl

theorem gangReady (gid : BitVec 32) (rank : Nat) (digest : BitVec 384) : Statement (.gangReady gid rank digest) := ofEvent rfl

theorem gangGo (gid : BitVec 32) : Statement (.gangGo gid) := ofEvent rfl

theorem gangCancel (gid : BitVec 32) : Statement (.gangCancel gid) := ofEvent rfl

theorem gangAck (gid : BitVec 32) (rank : Nat) : Statement (.gangAck gid rank) := ofEvent rfl

theorem gangAbort (gid : BitVec 32) (missing : List Nat) : Statement (.gangAbort gid missing) := ofEvent rfl

theorem gangPrepareTimeout (gid : BitVec 32) : Statement (.gangPrepareTimeout gid) := ofEvent rfl

theorem gangGoTimeout (gid : BitVec 32) : Statement (.gangGoTimeout gid) := ofEvent rfl

theorem gangAckTimeout (gid : BitVec 32) : Statement (.gangAckTimeout gid) := ofEvent rfl

theorem featuresOk (vf : Nat) (features : BitVec 64) : Statement (.featuresOk vf features) := ofEvent rfl

theorem vfReset (vf : Nat) : Statement (.vfReset vf) := ofEvent rfl

theorem cancelLaunch (vf : Nat) (tag : BitVec 64) : Statement (.cancelLaunch vf tag) := ofEvent rfl

theorem readAccount (vf : Nat) : Statement (.readAccount vf) := ofEvent rfl

theorem loadImage (vf : Nat) (va base : BitVec 64) : Statement (.loadImage vf va base) := ofEvent rfl

theorem loaderComplete (k : Nat) : Statement (.loaderComplete k) := ofEvent rfl

theorem eventDelivery (vf : Nat) : Statement (.eventDelivery vf) := ofEvent rfl

theorem completionEntryWrite (vf : Nat) : Statement (.completionEntryWrite vf) := ofEvent rfl

theorem getVersion (vf : Nat) : Statement (.getVersion vf) := ofEvent rfl

theorem getCapabilities (vf : Nat) : Statement (.getCapabilities vf) := ofEvent rfl

theorem negotiateAlgorithms (vf : Nat) : Statement (.negotiateAlgorithms vf) := ofEvent rfl

theorem getDigests (vf : Nat) : Statement (.getDigests vf) := ofEvent rfl

theorem getCertificate (vf : Nat) : Statement (.getCertificate vf) := ofEvent rfl

theorem challenge (vf : Nat) (nonce : BitVec 256) : Statement (.challenge vf nonce) := ofEvent rfl

theorem getMeasurements (vf : Nat) (index : Nat) : Statement (.getMeasurements vf index) := ofEvent rfl

theorem keyExchange (vf : Nat) : Statement (.keyExchange vf) := ofEvent rfl

theorem finish (vf : Nat) : Statement (.finish vf) := ofEvent rfl

theorem endSession (vf : Nat) : Statement (.endSession vf) := ofEvent rfl

theorem setImageKey (vf : Nat) (k : Nat) (key : List (BitVec 8)) : Statement (.setImageKey vf k key) := ofEvent rfl

theorem setDtid (vf : Nat) (dtid : BitVec 16) : Statement (.setDtid vf dtid) := ofEvent rfl

theorem resetRecord (vf : Nat) : Statement (.resetRecord vf) := ofEvent rfl

theorem cshareWrite (n : Nat) (v : BitVec 64) : Statement (.cshareWrite n v) := ofEvent rfl

theorem pctlWrite (p : Nat) (v : BitVec 32) : Statement (.pctlWrite p v) := ofEvent rfl

theorem registerWrite (r : CtlReg) (v : BitVec 64) : Statement (.registerWrite r v) := ofEvent rfl

theorem arrayScrubPass (unit : BitVec 8) (src : BitVec 16) (bad : List Nat) : Statement (.arrayScrubPass unit src bad) := ofEvent rfl

theorem errorLogRecord (kind unit : BitVec 8) (src : BitVec 16) (part : BitVec 5) (pa : BitVec 64) (count : BitVec 32) : Statement (.errorLogRecord kind unit src part pa count) := ofEvent rfl

theorem spareBringIn (u : SpareUnit) : Statement (.spareBringIn u) := ofEvent rfl

theorem spareSwapComplete (u : SpareUnit) : Statement (.spareSwapComplete u) := ofEvent rfl

theorem corePowerGate (core : Nat) : Statement (.corePowerGate core) := ofEvent rfl

theorem coreWake (core : Nat) : Statement (.coreWake core) := ofEvent rfl

theorem reset (pkg : Nat) (ports : BitVec 18) (failed : List SpareUnit) : Statement (.reset pkg ports failed) := ofEvent rfl

theorem baseDieMemoryAccess (hart : Nat) (op : RvMem) : Statement (.baseDieMemoryAccess hart op) := ofEvent rfl

theorem hartTrap (hart : Nat) (cause : BitVec 64) : Statement (.hartTrap hart cause) := ofEvent rfl

theorem instructionCacheFill (coh : Nat) (pc : BitVec 64) : Statement (.instructionCacheFill coh pc) := ofEvent rfl

theorem unknownControlRequest (vf : Nat) (code : BitVec 32) : Statement (.unknownControlRequest vf code) := ofEvent rfl

theorem fence (g : Guard) (k : FenceKind) (sc : Scope) : Statement (.fence g k sc) := by
  have h63 : bit (encGuard 0x48#7 g ++ 0#28 ++ k.code ++ sc.code ++ 0#19 : DWord) 63 = false := skipBit (by decide) (skipBit (by decide) (skipBit (by decide) (skipBit (by decide) (skipBit (by decide) (skipBit (by decide) (skipBit (by decide) (rfl)))))))
  refine ofWord rfl h63 (fun hw => ?_)
  have hop : fld (encGuard 0x48#7 g ++ 0#28 ++ k.code ++ sc.code ++ 0#19 : DWord) 56 7 = 0x48#7 := skip (by decide) (skip (by decide) (skip (by decide) (skip (by decide) (skip (by decide) (skip (by decide) (take (by decide) (extractLsb'_eq_self)))))))
  have hgp : fld (encGuard 0x48#7 g ++ 0#28 ++ k.code ++ sc.code ++ 0#19 : DWord) 53 3 = g.p := skip (by decide) (skip (by decide) (skip (by decide) (skip (by decide) (skip (by decide) (take (by decide) (extractLsb'_eq_self))))))
  have hgi : bit (encGuard 0x48#7 g ++ 0#28 ++ k.code ++ sc.code ++ 0#19 : DWord) 52 = g.inv := skipBit (by decide) (skipBit (by decide) (skipBit (by decide) (skipBit (by decide) (takeBit (by decide) (b1_get _)))))
  have f0 : fld (encGuard 0x48#7 g ++ 0#28 ++ k.code ++ sc.code ++ 0#19 : DWord) 24 28 = 0#28 := skip (by decide) (skip (by decide) (skip (by decide) (take (by decide) (extractLsb'_eq_self))))
  have f1 : fld (encGuard 0x48#7 g ++ 0#28 ++ k.code ++ sc.code ++ 0#19 : DWord) 22 2 = k.code := skip (by decide) (skip (by decide) (take (by decide) (extractLsb'_eq_self)))
  have f2 : fld (encGuard 0x48#7 g ++ 0#28 ++ k.code ++ sc.code ++ 0#19 : DWord) 19 3 = sc.code := skip (by decide) (take (by decide) (extractLsb'_eq_self))
  have f3 : fld (encGuard 0x48#7 g ++ 0#28 ++ k.code ++ sc.code ++ 0#19 : DWord) 0 19 = 0#19 := take (by decide) (extractLsb'_eq_self)
  simp [-getLsbD_eq_getElem, encode, parseFull, parse48, zeros_eq, guardOf, opA, opB, okCtl, hop, hgp, hgi, f0, f1, f2, f3]

theorem pref (g : Guard) (l2 : Bool) (base idx : Opnd) (off : BitVec 14) : Statement (.pref g l2 base idx off) := by
  have h63 : bit (encGuard 0x49#7 g ++ 0#8 ++ base.code ++ idx.code ++ (0#3 ++ Bool.b1 l2) ++ 0#10 ++ off : DWord) 63 = false := skipBit (by decide) (skipBit (by decide) (skipBit (by decide) (skipBit (by decide) (skipBit (by decide) (skipBit (by decide) (skipBit (by decide) (skipBit (by decide) (skipBit (by decide) (rfl)))))))))
  refine ofWord rfl h63 (fun hw => ?_)
  have hop : fld (encGuard 0x49#7 g ++ 0#8 ++ base.code ++ idx.code ++ (0#3 ++ Bool.b1 l2) ++ 0#10 ++ off : DWord) 56 7 = 0x49#7 := skip (by decide) (skip (by decide) (skip (by decide) (skip (by decide) (skip (by decide) (skip (by decide) (skip (by decide) (skip (by decide) (take (by decide) (extractLsb'_eq_self)))))))))
  have hgp : fld (encGuard 0x49#7 g ++ 0#8 ++ base.code ++ idx.code ++ (0#3 ++ Bool.b1 l2) ++ 0#10 ++ off : DWord) 53 3 = g.p := skip (by decide) (skip (by decide) (skip (by decide) (skip (by decide) (skip (by decide) (skip (by decide) (skip (by decide) (take (by decide) (extractLsb'_eq_self))))))))
  have hgi : bit (encGuard 0x49#7 g ++ 0#8 ++ base.code ++ idx.code ++ (0#3 ++ Bool.b1 l2) ++ 0#10 ++ off : DWord) 52 = g.inv := skipBit (by decide) (skipBit (by decide) (skipBit (by decide) (skipBit (by decide) (skipBit (by decide) (skipBit (by decide) (takeBit (by decide) (b1_get _)))))))
  have f0 : fld (encGuard 0x49#7 g ++ 0#8 ++ base.code ++ idx.code ++ (0#3 ++ Bool.b1 l2) ++ 0#10 ++ off : DWord) 44 8 = 0#8 := skip (by decide) (skip (by decide) (skip (by decide) (skip (by decide) (skip (by decide) (take (by decide) (extractLsb'_eq_self))))))
  have f1 : fld (encGuard 0x49#7 g ++ 0#8 ++ base.code ++ idx.code ++ (0#3 ++ Bool.b1 l2) ++ 0#10 ++ off : DWord) 36 8 = base.code := skip (by decide) (skip (by decide) (skip (by decide) (skip (by decide) (take (by decide) (extractLsb'_eq_self)))))
  have f2 : fld (encGuard 0x49#7 g ++ 0#8 ++ base.code ++ idx.code ++ (0#3 ++ Bool.b1 l2) ++ 0#10 ++ off : DWord) 28 8 = idx.code := skip (by decide) (skip (by decide) (skip (by decide) (take (by decide) (extractLsb'_eq_self))))
  have f3 : fld (encGuard 0x49#7 g ++ 0#8 ++ base.code ++ idx.code ++ (0#3 ++ Bool.b1 l2) ++ 0#10 ++ off : DWord) 25 3 = 0#3 := skip (by decide) (skip (by decide) (take (by decide) (skip (by decide) (extractLsb'_eq_self))))
  have f4 : fld (encGuard 0x49#7 g ++ 0#8 ++ base.code ++ idx.code ++ (0#3 ++ Bool.b1 l2) ++ 0#10 ++ off : DWord) 14 10 = 0#10 := skip (by decide) (take (by decide) (extractLsb'_eq_self))
  have f5 : fld (encGuard 0x49#7 g ++ 0#8 ++ base.code ++ idx.code ++ (0#3 ++ Bool.b1 l2) ++ 0#10 ++ off : DWord) 0 14 = off := take (by decide) (extractLsb'_eq_self)
  have k0 : bit (encGuard 0x49#7 g ++ 0#8 ++ base.code ++ idx.code ++ (0#3 ++ Bool.b1 l2) ++ 0#10 ++ off : DWord) 24 = l2 := skipBit (by decide) (skipBit (by decide) (takeBit (by decide) (takeBit (by decide) (b1_get _))))
  simp [-getLsbD_eq_getElem, encode, parseFull, parse49, zeros_eq, guardOf, opA, opB, okCtl, hop, hgp, hgi, f0, f1, f2, f3, f4, f5, k0]

theorem cwb (g : Guard) (all : Bool) (base idx : Opnd) (off : BitVec 14) : Statement (.cwb g all base idx off) := by
  have h63 : bit (encGuard 0x4A#7 g ++ 0#8 ++ base.code ++ idx.code ++ (0#3 ++ Bool.b1 all) ++ 0#10 ++ off : DWord) 63 = false := skipBit (by decide) (skipBit (by decide) (skipBit (by decide) (skipBit (by decide) (skipBit (by decide) (skipBit (by decide) (skipBit (by decide) (skipBit (by decide) (skipBit (by decide) (rfl)))))))))
  refine ofWord rfl h63 (fun hw => ?_)
  have hop : fld (encGuard 0x4A#7 g ++ 0#8 ++ base.code ++ idx.code ++ (0#3 ++ Bool.b1 all) ++ 0#10 ++ off : DWord) 56 7 = 0x4A#7 := skip (by decide) (skip (by decide) (skip (by decide) (skip (by decide) (skip (by decide) (skip (by decide) (skip (by decide) (skip (by decide) (take (by decide) (extractLsb'_eq_self)))))))))
  have hgp : fld (encGuard 0x4A#7 g ++ 0#8 ++ base.code ++ idx.code ++ (0#3 ++ Bool.b1 all) ++ 0#10 ++ off : DWord) 53 3 = g.p := skip (by decide) (skip (by decide) (skip (by decide) (skip (by decide) (skip (by decide) (skip (by decide) (skip (by decide) (take (by decide) (extractLsb'_eq_self))))))))
  have hgi : bit (encGuard 0x4A#7 g ++ 0#8 ++ base.code ++ idx.code ++ (0#3 ++ Bool.b1 all) ++ 0#10 ++ off : DWord) 52 = g.inv := skipBit (by decide) (skipBit (by decide) (skipBit (by decide) (skipBit (by decide) (skipBit (by decide) (skipBit (by decide) (takeBit (by decide) (b1_get _)))))))
  have f0 : fld (encGuard 0x4A#7 g ++ 0#8 ++ base.code ++ idx.code ++ (0#3 ++ Bool.b1 all) ++ 0#10 ++ off : DWord) 44 8 = 0#8 := skip (by decide) (skip (by decide) (skip (by decide) (skip (by decide) (skip (by decide) (take (by decide) (extractLsb'_eq_self))))))
  have f1 : fld (encGuard 0x4A#7 g ++ 0#8 ++ base.code ++ idx.code ++ (0#3 ++ Bool.b1 all) ++ 0#10 ++ off : DWord) 36 8 = base.code := skip (by decide) (skip (by decide) (skip (by decide) (skip (by decide) (take (by decide) (extractLsb'_eq_self)))))
  have f2 : fld (encGuard 0x4A#7 g ++ 0#8 ++ base.code ++ idx.code ++ (0#3 ++ Bool.b1 all) ++ 0#10 ++ off : DWord) 28 8 = idx.code := skip (by decide) (skip (by decide) (skip (by decide) (take (by decide) (extractLsb'_eq_self))))
  have f3 : fld (encGuard 0x4A#7 g ++ 0#8 ++ base.code ++ idx.code ++ (0#3 ++ Bool.b1 all) ++ 0#10 ++ off : DWord) 25 3 = 0#3 := skip (by decide) (skip (by decide) (take (by decide) (skip (by decide) (extractLsb'_eq_self))))
  have f4 : fld (encGuard 0x4A#7 g ++ 0#8 ++ base.code ++ idx.code ++ (0#3 ++ Bool.b1 all) ++ 0#10 ++ off : DWord) 14 10 = 0#10 := skip (by decide) (take (by decide) (extractLsb'_eq_self))
  have f5 : fld (encGuard 0x4A#7 g ++ 0#8 ++ base.code ++ idx.code ++ (0#3 ++ Bool.b1 all) ++ 0#10 ++ off : DWord) 0 14 = off := take (by decide) (extractLsb'_eq_self)
  have k0 : bit (encGuard 0x4A#7 g ++ 0#8 ++ base.code ++ idx.code ++ (0#3 ++ Bool.b1 all) ++ 0#10 ++ off : DWord) 24 = all := skipBit (by decide) (skipBit (by decide) (takeBit (by decide) (takeBit (by decide) (b1_get _))))
  simp [-getLsbD_eq_getElem, encode, parseFull, parse4A, zeros_eq, guardOf, opA, opB, okCtl, hop, hgp, hgi, f0, f1, f2, f3, f4, f5, k0]

theorem cinv (g : Guard) (all : Bool) (base idx : Opnd) (off : BitVec 14) : Statement (.cinv g all base idx off) := by
  have h63 : bit (encGuard 0x4B#7 g ++ 0#8 ++ base.code ++ idx.code ++ (0#3 ++ Bool.b1 all) ++ 0#10 ++ off : DWord) 63 = false := skipBit (by decide) (skipBit (by decide) (skipBit (by decide) (skipBit (by decide) (skipBit (by decide) (skipBit (by decide) (skipBit (by decide) (skipBit (by decide) (skipBit (by decide) (rfl)))))))))
  refine ofWord rfl h63 (fun hw => ?_)
  have hop : fld (encGuard 0x4B#7 g ++ 0#8 ++ base.code ++ idx.code ++ (0#3 ++ Bool.b1 all) ++ 0#10 ++ off : DWord) 56 7 = 0x4B#7 := skip (by decide) (skip (by decide) (skip (by decide) (skip (by decide) (skip (by decide) (skip (by decide) (skip (by decide) (skip (by decide) (take (by decide) (extractLsb'_eq_self)))))))))
  have hgp : fld (encGuard 0x4B#7 g ++ 0#8 ++ base.code ++ idx.code ++ (0#3 ++ Bool.b1 all) ++ 0#10 ++ off : DWord) 53 3 = g.p := skip (by decide) (skip (by decide) (skip (by decide) (skip (by decide) (skip (by decide) (skip (by decide) (skip (by decide) (take (by decide) (extractLsb'_eq_self))))))))
  have hgi : bit (encGuard 0x4B#7 g ++ 0#8 ++ base.code ++ idx.code ++ (0#3 ++ Bool.b1 all) ++ 0#10 ++ off : DWord) 52 = g.inv := skipBit (by decide) (skipBit (by decide) (skipBit (by decide) (skipBit (by decide) (skipBit (by decide) (skipBit (by decide) (takeBit (by decide) (b1_get _)))))))
  have f0 : fld (encGuard 0x4B#7 g ++ 0#8 ++ base.code ++ idx.code ++ (0#3 ++ Bool.b1 all) ++ 0#10 ++ off : DWord) 44 8 = 0#8 := skip (by decide) (skip (by decide) (skip (by decide) (skip (by decide) (skip (by decide) (take (by decide) (extractLsb'_eq_self))))))
  have f1 : fld (encGuard 0x4B#7 g ++ 0#8 ++ base.code ++ idx.code ++ (0#3 ++ Bool.b1 all) ++ 0#10 ++ off : DWord) 36 8 = base.code := skip (by decide) (skip (by decide) (skip (by decide) (skip (by decide) (take (by decide) (extractLsb'_eq_self)))))
  have f2 : fld (encGuard 0x4B#7 g ++ 0#8 ++ base.code ++ idx.code ++ (0#3 ++ Bool.b1 all) ++ 0#10 ++ off : DWord) 28 8 = idx.code := skip (by decide) (skip (by decide) (skip (by decide) (take (by decide) (extractLsb'_eq_self))))
  have f3 : fld (encGuard 0x4B#7 g ++ 0#8 ++ base.code ++ idx.code ++ (0#3 ++ Bool.b1 all) ++ 0#10 ++ off : DWord) 25 3 = 0#3 := skip (by decide) (skip (by decide) (take (by decide) (skip (by decide) (extractLsb'_eq_self))))
  have f4 : fld (encGuard 0x4B#7 g ++ 0#8 ++ base.code ++ idx.code ++ (0#3 ++ Bool.b1 all) ++ 0#10 ++ off : DWord) 14 10 = 0#10 := skip (by decide) (take (by decide) (extractLsb'_eq_self))
  have f5 : fld (encGuard 0x4B#7 g ++ 0#8 ++ base.code ++ idx.code ++ (0#3 ++ Bool.b1 all) ++ 0#10 ++ off : DWord) 0 14 = off := take (by decide) (extractLsb'_eq_self)
  have k0 : bit (encGuard 0x4B#7 g ++ 0#8 ++ base.code ++ idx.code ++ (0#3 ++ Bool.b1 all) ++ 0#10 ++ off : DWord) 24 = all := skipBit (by decide) (skipBit (by decide) (takeBit (by decide) (takeBit (by decide) (b1_get _))))
  simp [-getLsbD_eq_getElem, encode, parseFull, parse4B, zeros_eq, guardOf, opA, opB, okCtl, hop, hgp, hgi, f0, f1, f2, f3, f4, f5, k0]

theorem txbeg (g : Guard) (d : BitVec 7) (cls : BitVec 8) (n : BitVec 4) (off : BitVec 29) (idx : BitVec 3) : Statement (.txbeg g d cls n off idx) := by
  have h63 : bit (encGuard 0x4C#7 g ++ vCode d ++ cls ++ n ++ off ++ idx : DWord) 63 = false := skipBit (by decide) (skipBit (by decide) (skipBit (by decide) (skipBit (by decide) (skipBit (by decide) (skipBit (by decide) (skipBit (by decide) (skipBit (by decide) (rfl))))))))
  refine ofWord rfl h63 (fun hw => ?_)
  have hop : fld (encGuard 0x4C#7 g ++ vCode d ++ cls ++ n ++ off ++ idx : DWord) 56 7 = 0x4C#7 := skip (by decide) (skip (by decide) (skip (by decide) (skip (by decide) (skip (by decide) (skip (by decide) (skip (by decide) (take (by decide) (extractLsb'_eq_self))))))))
  have hgp : fld (encGuard 0x4C#7 g ++ vCode d ++ cls ++ n ++ off ++ idx : DWord) 53 3 = g.p := skip (by decide) (skip (by decide) (skip (by decide) (skip (by decide) (skip (by decide) (skip (by decide) (take (by decide) (extractLsb'_eq_self)))))))
  have hgi : bit (encGuard 0x4C#7 g ++ vCode d ++ cls ++ n ++ off ++ idx : DWord) 52 = g.inv := skipBit (by decide) (skipBit (by decide) (skipBit (by decide) (skipBit (by decide) (skipBit (by decide) (takeBit (by decide) (b1_get _))))))
  have f0 : fld (encGuard 0x4C#7 g ++ vCode d ++ cls ++ n ++ off ++ idx : DWord) 44 7 = d := skip (by decide) (skip (by decide) (skip (by decide) (skip (by decide) (take (by decide) (take (by decide) (extractLsb'_eq_self))))))
  have f1 : fld (encGuard 0x4C#7 g ++ vCode d ++ cls ++ n ++ off ++ idx : DWord) 36 8 = cls := skip (by decide) (skip (by decide) (skip (by decide) (take (by decide) (extractLsb'_eq_self))))
  have f2 : fld (encGuard 0x4C#7 g ++ vCode d ++ cls ++ n ++ off ++ idx : DWord) 32 4 = n := skip (by decide) (skip (by decide) (take (by decide) (extractLsb'_eq_self)))
  have f3 : fld (encGuard 0x4C#7 g ++ vCode d ++ cls ++ n ++ off ++ idx : DWord) 3 29 = off := skip (by decide) (take (by decide) (extractLsb'_eq_self))
  have f4 : fld (encGuard 0x4C#7 g ++ vCode d ++ cls ++ n ++ off ++ idx : DWord) 0 3 = idx := take (by decide) (extractLsb'_eq_self)
  have fv : fld (encGuard 0x4C#7 g ++ vCode d ++ cls ++ n ++ off ++ idx : DWord) 44 8 = vCode d := skip (by decide) (skip (by decide) (skip (by decide) (skip (by decide) (take (by decide) (extractLsb'_eq_self)))))
  simp [fv, -getLsbD_eq_getElem, encode, parseFull, parse4C, zeros_eq, guardOf, opA, opB, okCtl, hop, hgp, hgi, f0, f1, f2, f3, f4]

theorem half (h : Half) : halfOf (encHalf h) = h := by
  have f0 : (encHalf h).extractLsb' 25 6 = h.rop := skip (by decide) (skip (by decide) (skip (by decide) (skip (by decide) (extractLsb'_eq_self))))
  have f1 : (encHalf h).extractLsb' 22 3 = h.p := skip (by decide) (skip (by decide) (skip (by decide) (take (by decide) (extractLsb'_eq_self))))
  have f2 : (encHalf h).extractLsb' 15 7 = h.d := skip (by decide) (skip (by decide) (take (by decide) (extractLsb'_eq_self)))
  have f3 : (encHalf h).extractLsb' 7 8 = h.b := skip (by decide) (take (by decide) (extractLsb'_eq_self))
  have f4 : (encHalf h).extractLsb' 0 7 = h.m := take (by decide) (extractLsb'_eq_self)
  simp [halfOf, f0, f1, f2, f3, f4]

theorem pairedCoIssue (h0 h1 : Half) : Statement (.pairedCoIssue h0 h1) := by
  refine fun _ => ⟨fun _ => ?_, fun h' => absurd (show 64 = 32 from h') (by decide)⟩
  have b63 : bit (2#2 ++ encHalf h0 ++ encHalf h1 : DWord) 63 = true := skipBit (by decide) (skipBit (by decide) (rfl))
  have b62 : bit (2#2 ++ encHalf h0 ++ encHalf h1 : DWord) 62 = false := skipBit (by decide) (skipBit (by decide) (rfl))
  have f0 : fld (2#2 ++ encHalf h0 ++ encHalf h1 : DWord) 31 31 = encHalf h0 := skip (by decide) (take (by decide) (extractLsb'_eq_self))
  have f1 : fld (2#2 ++ encHalf h0 ++ encHalf h1 : DWord) 0 31 = encHalf h1 := take (by decide) (extractLsb'_eq_self)
  simp [decodeWord, encode, b63, b62, f0, f1, half]

theorem pairedPathSplit (h0 h1 : Half) : Statement (.pairedPathSplit h0 h1) := by
  refine fun _ => ⟨fun _ => ?_, fun h' => absurd (show 64 = 32 from h') (by decide)⟩
  have b63 : bit (3#2 ++ encHalf h0 ++ encHalf h1 : DWord) 63 = true := skipBit (by decide) (skipBit (by decide) (rfl))
  have b62 : bit (3#2 ++ encHalf h0 ++ encHalf h1 : DWord) 62 = true := skipBit (by decide) (skipBit (by decide) (rfl))
  have f0 : fld (3#2 ++ encHalf h0 ++ encHalf h1 : DWord) 31 31 = encHalf h0 := skip (by decide) (take (by decide) (extractLsb'_eq_self))
  have f1 : fld (3#2 ++ encHalf h0 ++ encHalf h1 : DWord) 0 31 = encHalf h1 := take (by decide) (extractLsb'_eq_self)
  simp [decodeWord, encode, b63, b62, f0, f1, half]

theorem kxBegin (rd rs1 : BitVec 5) : Statement (.kxBegin rd rs1) := by
  refine ofKx rfl ?_
  have f0 : (0#12 ++ rs1 ++ 0#3 ++ rd ++ 0x0B#7 : Word).extractLsb' 20 5 = 0#5 := skip (by decide) (skip (by decide) (skip (by decide) (skip (by decide) (rfl))))
  have f1 : (0#12 ++ rs1 ++ 0#3 ++ rd ++ 0x0B#7 : Word).extractLsb' 25 7 = 0#7 := skip (by decide) (skip (by decide) (skip (by decide) (skip (by decide) (rfl))))
  have f2 : (0#12 ++ rs1 ++ 0#3 ++ rd ++ 0x0B#7 : Word).extractLsb' 15 5 = rs1 := skip (by decide) (skip (by decide) (skip (by decide) (take (by decide) (extractLsb'_eq_self))))
  have f3 : (0#12 ++ rs1 ++ 0#3 ++ rd ++ 0x0B#7 : Word).extractLsb' 12 3 = 0#3 := skip (by decide) (skip (by decide) (take (by decide) (extractLsb'_eq_self)))
  have f4 : (0#12 ++ rs1 ++ 0#3 ++ rd ++ 0x0B#7 : Word).extractLsb' 7 5 = rd := skip (by decide) (take (by decide) (extractLsb'_eq_self))
  have f5 : (0#12 ++ rs1 ++ 0#3 ++ rd ++ 0x0B#7 : Word).extractLsb' 0 7 = 0x0B#7 := take (by decide) (extractLsb'_eq_self)
  simp only [decodeKx, encodeKx, f0, f1, f2, f3, f4, f5]
  simp

theorem kxEnd : Statement .kxEnd := ofKx rfl (by decide)

theorem kxAbort (code : BitVec 8) : Statement (.kxAbort code) := by
  refine ofKx rfl ?_
  have f0 : (0#4 ++ code ++ 0#5 ++ 2#3 ++ 0#5 ++ 0x0B#7 : Word).extractLsb' 28 4 = 0#4 := skip (by decide) (skip (by decide) (skip (by decide) (skip (by decide) (skip (by decide) (extractLsb'_eq_self)))))
  have f1 : (0#4 ++ code ++ 0#5 ++ 2#3 ++ 0#5 ++ 0x0B#7 : Word).extractLsb' 20 8 = code := skip (by decide) (skip (by decide) (skip (by decide) (skip (by decide) (take (by decide) (extractLsb'_eq_self)))))
  have f2 : (0#4 ++ code ++ 0#5 ++ 2#3 ++ 0#5 ++ 0x0B#7 : Word).extractLsb' 15 5 = 0#5 := skip (by decide) (skip (by decide) (skip (by decide) (take (by decide) (extractLsb'_eq_self))))
  have f3 : (0#4 ++ code ++ 0#5 ++ 2#3 ++ 0#5 ++ 0x0B#7 : Word).extractLsb' 12 3 = 2#3 := skip (by decide) (skip (by decide) (take (by decide) (extractLsb'_eq_self)))
  have f4 : (0#4 ++ code ++ 0#5 ++ 2#3 ++ 0#5 ++ 0x0B#7 : Word).extractLsb' 7 5 = 0#5 := skip (by decide) (take (by decide) (extractLsb'_eq_self))
  have f5 : (0#4 ++ code ++ 0#5 ++ 2#3 ++ 0#5 ++ 0x0B#7 : Word).extractLsb' 0 7 = 0x0B#7 := take (by decide) (extractLsb'_eq_self)
  simp only [decodeKx, encodeKx, f0, f1, f2, f3, f4, f5]
  simp

theorem kxStat (rd : BitVec 5) : Statement (.kxStat rd) := by
  refine ofKx rfl ?_
  have f0 : (0#12 ++ 0#5 ++ 3#3 ++ rd ++ 0x0B#7 : Word).extractLsb' 20 5 = 0#5 := skip (by decide) (skip (by decide) (skip (by decide) (skip (by decide) (rfl))))
  have f1 : (0#12 ++ 0#5 ++ 3#3 ++ rd ++ 0x0B#7 : Word).extractLsb' 25 7 = 0#7 := skip (by decide) (skip (by decide) (skip (by decide) (skip (by decide) (rfl))))
  have f2 : (0#12 ++ 0#5 ++ 3#3 ++ rd ++ 0x0B#7 : Word).extractLsb' 15 5 = 0#5 := skip (by decide) (skip (by decide) (skip (by decide) (take (by decide) (extractLsb'_eq_self))))
  have f3 : (0#12 ++ 0#5 ++ 3#3 ++ rd ++ 0x0B#7 : Word).extractLsb' 12 3 = 3#3 := skip (by decide) (skip (by decide) (take (by decide) (extractLsb'_eq_self)))
  have f4 : (0#12 ++ 0#5 ++ 3#3 ++ rd ++ 0x0B#7 : Word).extractLsb' 7 5 = rd := skip (by decide) (take (by decide) (extractLsb'_eq_self))
  have f5 : (0#12 ++ 0#5 ++ 3#3 ++ rd ++ 0x0B#7 : Word).extractLsb' 0 7 = 0x0B#7 := take (by decide) (extractLsb'_eq_self)
  simp only [decodeKx, encodeKx, f0, f1, f2, f3, f4, f5]
  simp

theorem kxLock (rs1 : BitVec 5) : Statement (.kxLock rs1) := by
  refine ofKx rfl ?_
  have f0 : (0#12 ++ rs1 ++ 4#3 ++ 0#5 ++ 0x0B#7 : Word).extractLsb' 20 5 = 0#5 := skip (by decide) (skip (by decide) (skip (by decide) (skip (by decide) (rfl))))
  have f1 : (0#12 ++ rs1 ++ 4#3 ++ 0#5 ++ 0x0B#7 : Word).extractLsb' 25 7 = 0#7 := skip (by decide) (skip (by decide) (skip (by decide) (skip (by decide) (rfl))))
  have f2 : (0#12 ++ rs1 ++ 4#3 ++ 0#5 ++ 0x0B#7 : Word).extractLsb' 15 5 = rs1 := skip (by decide) (skip (by decide) (skip (by decide) (take (by decide) (extractLsb'_eq_self))))
  have f3 : (0#12 ++ rs1 ++ 4#3 ++ 0#5 ++ 0x0B#7 : Word).extractLsb' 12 3 = 4#3 := skip (by decide) (skip (by decide) (take (by decide) (extractLsb'_eq_self)))
  have f4 : (0#12 ++ rs1 ++ 4#3 ++ 0#5 ++ 0x0B#7 : Word).extractLsb' 7 5 = 0#5 := skip (by decide) (take (by decide) (extractLsb'_eq_self))
  have f5 : (0#12 ++ rs1 ++ 4#3 ++ 0#5 ++ 0x0B#7 : Word).extractLsb' 0 7 = 0x0B#7 := take (by decide) (extractLsb'_eq_self)
  simp only [decodeKx, encodeKx, f0, f1, f2, f3, f4, f5]
  simp

end Laws.RoundTrip

end Sys2Proof
end

