-- ==== Sys2Proof/Laws/Waits.lean ====
section
/-! SUPPORT. What units outside the cores do at a page that is being moved (R37): the first time they meet it they wait. -/

namespace Sys2Proof.Laws

open Sys2Proof.Machine

/-- A unit waits when it first meets MV = 1, however far the clock goes. -/
theorem mvMeet_first (s : State) (u : MvUnit) (tctx : Nat) (l : List (Page × Nat × Nat))
    (h : (l.find? (fun p => p.1 == .mv)).isSome = true) (w : s.mvWaits = []) : (s.mvMeet u tctx l).1 = true := by
  obtain ⟨p, hp⟩ := Option.isSome_iff_exists.mp h
  simp only [State.mvMeet, hp, State.tick, w, List.find?_nil, Option.map_none, Option.getD_none]
  rw [if_neg (by omega)]

/-- A scheduler's read does so. -/
theorem schedRead_first (s : State) (u : MvUnit) (part tctx va n : Nat) (w : s.mvWaits = [])
    (h : okPieces (s.pages none part tctx 1 va n) = none ∧ pagesMove (s.pages none part tctx 1 va n) = true ∧
      ((s.pages none part tctx 1 va n).find? (fun p => p.1 == .mv)).isSome = true) :
    (s.schedRead u part tctx va n).1 = .wait := by
  simp only [State.schedRead, h.1, h.2.1, if_true, mvMeet_first s u tctx _ h.2.2 w]

end Sys2Proof.Laws
end

