-- ==== Sys2Proof/Tests/Slice0.lean ====
section
/-! SUPPORT. Tests of the model: words of the manual against the decoder, ill-formed instructions, single steps on small
states whose results are worked out from the rules, and states that meet the hypotheses of the obligations. -/

set_option Elab.async false

namespace Sys2Proof.Tests

open Sys2Proof.Machine

/-! ### Small states -/

/-- The launch record of the test grid: one block of one cohort, 128 v-registers, 2 KiB of scratchpad, spawning with up
to four values, arguments at 0x400200, a restart table at 0x400100, two rings, and format slots. -/
def rcd : List DWord :=
  [0x200000, 0x0001000100010001, 0x0004000800800001, 0, 0x400200, 0, 0x400100, 2, 0, 1, 5, 0] ++ List.replicate 20 0

/-- One cohort at the first word of the clause at 0x200000, of which lanes 0 and 1 issue; s4 holds 0x400000, where a
region may be read and written, v1 holds 5 and 7, v2 holds 3 and 9. -/
def demo : State :=
  let s := State.reset.withFetchWord 64 0
  { s with
    grids := set s.grids 0 { s.grd 0 with rcd := rcd }
    own := set s.own 2 ⟨some 0, false, false, false⟩
    cores := set s.cores 0 { s.core 0 with
      tlb := ⟨0, 0x400000, 0x200000, 0x400000, 0, 0, true, true, false⟩ :: (s.core 0).tlb }
    cohorts := set s.cohorts 0 { s.coh 0 with
      sregs := [(4, 0x400000)]
      regs := [(32, 5), (33, 7), (64, 3), (65, 9)]
      entered := allLanes
      pc := (List.range 32).map (fun l => (l, 0x200008)) }
    cur := ⟨0, 3, 0x200008, 1, 0, 1, false, 0, false⟩
    agenda := [] }

/-- The guard that is always true. -/
def on : Guard := ⟨7, false⟩

def v (n : Nat) : Opnd := .v (BitVec.ofNat 7 n)

/-- The conditions of `CanIssue` in one proposition that evaluates. -/
abbrev Can (s : State) (n : Need) : Prop :=
  ((look s.cohorts s.cur.coh).isSome = true ∧ s.cur.stall = false ∧ s.active n.g ≠ 0 ∧
    (n.meldBan = true → ∀ l < 32, s.cur.lanes.getLsbD l = true → (s.coh s.cur.coh).inRegion l = false) ∧
    s.badFlag n.flag = false) ∧
  (∀ l < 32, (s.active n.g).getLsbD l = true → ∀ e ∈ n.regs, s.regOk s.cur.coh l e.1 e.2 = true) ∧
  (n.disallow.isSome = true → ∀ l < 32, (s.active n.g).getLsbD l = true → (s.coh s.cur.coh).spec l = false) ∧
  s.handlePending n.sread = false ∧ s.flagFull n.flag = false

theorem ready {s : State} {n : Need} (h : Can s n) : s.CanIssue n :=
  ⟨h.1.1, h.1.2.1, h.1.2.2.1, h.1.2.2.2.1, h.1.2.2.2.2, h.2.1, h.2.2.1, h.2.2.2.1, h.2.2.2.2⟩

/-! ### Decoding -/

/-- Words by the layouts and codes of R259, R263 to R266. -/
def integerWords : List (DWord × Instr) :=
  [(0x00E0301020000004, .iadd ⟨on, v 3, v 1, v 2, v 0⟩ ⟨false, false, true⟩),
   (0x00E0301020504000, .iadd3 ⟨on, v 3, v 1, v 2, v 5⟩ ⟨false, false, false⟩),
   (0x00E0406020008001, .isub ⟨on, v 4, v 6, v 2, v 0⟩ ⟨true, false, false⟩),
   (0x00E030100000C000, .ineg ⟨on, v 3, v 1, v 0, v 0⟩ ⟨false, false, false⟩),
   (0x00E0301000010000, .iabs ⟨on, v 3, v 1, v 0, v 0⟩ ⟨false, false, false⟩),
   (0x00E0301020014002, .imin ⟨on, v 3, v 1, v 2, v 0⟩ ⟨false, true, false⟩),
   (0x00E0301020018000, .imax ⟨on, v 3, v 1, v 2, v 0⟩ ⟨false, false, false⟩),
   (0x00E040601001C0C2, .lea ⟨on, v 4, v 6, v 1, v 0⟩ 3 true),
   (0x00E0204850020012, .icmp on 2 (v 4) (.s 5) .lt false true),
   (0x01E0301020000000, .imul ⟨on, v 3, v 1, v 2, v 0⟩ ⟨false, false, false⟩),
   (0x01E0301020004002, .imulh ⟨on, v 3, v 1, v 2, v 0⟩ ⟨false, true, false⟩),
   (0x01E0301020508000, .imad ⟨on, v 3, v 1, v 2, v 5⟩ ⟨false, false, false⟩),
   (0x01E040102060C000, .imadw ⟨on, v 4, v 1, v 2, v 6⟩ ⟨false, false, false⟩),
   (0x01E0301020011008, .idiv ⟨on, v 3, v 1, v 2, v 0⟩ .a false false true),
   (0x01E0301020016002, .irem ⟨on, v 3, v 1, v 2, v 0⟩ .b false true false),
   (0x07E03010FFFFFFFF, .iaddImm on (v 3) (v 1) 0xFFFFFFFF),
   (0x07E0301100000009, .imulImm on (v 3) (v 1) 9),
   (0x07E0301200000009, .andImm on (v 3) (v 1) 9),
   (0x07E8381300000009, .orImm on (.s 3) (.s 1) 9),
   (0x07E0301400000009, .xorImm on (v 3) (v 1) 9)]

theorem test_decode_integer : ∀ e ∈ integerWords, decodeTableWord 64 e.1.toNat = some e.2 ∧ encode e.2 = e.1 := by decide

/-- Words by the layouts and codes of R267 to R270. -/
def logicWords : List (DWord × Instr) :=
  [(0x02E0301020000000, .and ⟨on, v 3, v 1, v 2, v 0⟩ false),
   (0x02E0301020004000, .or ⟨on, v 3, v 1, v 2, v 0⟩ false),
   (0x02E0301020008000, .xor ⟨on, v 3, v 1, v 2, v 0⟩ false),
   (0x02E030102000C000, .andn ⟨on, v 3, v 1, v 2, v 0⟩ false),
   (0x02E0301020010000, .orn ⟨on, v 3, v 1, v 2, v 0⟩ false),
   (0x02E0301000014000, .not ⟨on, v 3, v 1, v 0, v 0⟩ false),
   (0x03E0301020000000, .shl ⟨on, v 3, v 1, v 2, v 0⟩ false),
   (0x03E0406020004001, .shr ⟨on, v 4, v 6, v 2, v 0⟩ true),
   (0x03E0301020008000, .sar ⟨on, v 3, v 1, v 2, v 0⟩ false),
   (0x03E030102000C000, .rot ⟨on, v 3, v 1, v 2, v 0⟩ false),
   (0x03E0301020510000, .funl ⟨on, v 3, v 1, v 2, v 5⟩ false),
   (0x03E0301020014002, .bfx ⟨on, v 3, v 1, v 2, v 0⟩ false true),
   (0x03E0301020518000, .bfi ⟨on, v 3, v 1, v 2, v 5⟩ false),
   (0x03E030100001C000, .popc ⟨on, v 3, v 1, v 0, v 0⟩ false),
   (0x03E0301000020000, .clz ⟨on, v 3, v 1, v 0, v 0⟩ false),
   (0x03E0301000024000, .ctz ⟨on, v 3, v 1, v 0, v 0⟩ false),
   (0x03E0301000028000, .brev ⟨on, v 3, v 1, v 0, v 0⟩ false),
   (0x03E030102052C000, .perm ⟨on, v 3, v 1, v 2, v 5⟩),
   (0x04E0301000000000, .mov ⟨on, v 3, v 1, v 0, v 0⟩ false),
   (0x04E0301020004038, .sel ⟨on, v 3, v 1, v 2, v 0⟩ false 6 true),
   (0x04E0201030708096, .plog on 2 1 3 7 0x96),
   (0x05E060019ABCDEF0, .movi on (v 6) true 0x9ABCDEF0),
   (0x06E0600012345678, .movw on (v 6) false 0x12345678)]

theorem test_decode_logic : ∀ e ∈ logicWords, decodeTableWord 64 e.1.toNat = some e.2 ∧ encode e.2 = e.1 := by decide

/-- Words by the layouts and codes of R271 to R279. -/
def floatWords : List (DWord × Instr) :=
  [(0x10E0301020000009, .fadd ⟨on, v 3, v 1, v 2, v 0⟩ ⟨.rtz, true, false, false⟩),
   (0x10E0301020004000, .fsub ⟨on, v 3, v 1, v 2, v 0⟩ ⟨.rne, false, false, false⟩),
   (0x10E0301020008020, .fmul ⟨on, v 3, v 1, v 2, v 0⟩ ⟨.rne, false, false, true⟩),
   (0x10E030102050C0C0, .ffma ⟨on, v 3, v 1, v 2, v 5⟩ ⟨.rne, false, false, false⟩ true true),
   (0x10E0301020010000, .fmin ⟨on, v 3, v 1, v 2, v 0⟩ false false),
   (0x10E0406020014010, .fmax ⟨on, v 4, v 6, v 2, v 0⟩ false true),
   (0x10E0301020518004, .fscale ⟨on, v 3, v 1, v 2, v 5⟩ ⟨.sr, false, false, false⟩),
   (0x11E0201030000006, .fcmp on 2 (v 1) (v 3) .un false false),
   (0x11E0301000004000, .fclass ⟨on, v 3, v 1, v 0, v 0⟩ false),
   (0x11E0301000008003, .frint ⟨on, v 3, v 1, v 0, v 0⟩ .rup false false),
   (0x12E0301020000008, .hadd2 ⟨on, v 3, v 1, v 2, v 0⟩ .rne true false),
   (0x12E0301020004010, .hmul2 ⟨on, v 3, v 1, v 2, v 0⟩ .rne false true),
   (0x12E0301020508000, .hfma2 ⟨on, v 3, v 1, v 2, v 5⟩ .rne false false),
   (0x13E030103F800000, .faddImm on (v 3) (v 1) 0x3F800000),
   (0x13E030113F800000, .fmulImm on (v 3) (v 1) 0x3F800000),
   (0x13E0301200000000, .fminImm on (v 3) (v 1) 0),
   (0x13E0301300000000, .fmaxImm on (v 3) (v 1) 0),
   (0x20E0301000001000, .rcp ⟨on, v 3, v 1, v 0, v 0⟩ .a false),
   (0x20E0301000005001, .rsq ⟨on, v 3, v 1, v 0, v 0⟩ .a true),
   (0x20E0301000009000, .sqrt ⟨on, v 3, v 1, v 0, v 0⟩ .a false),
   (0x20E030100000D001, .exp2 ⟨on, v 3, v 1, v 0, v 0⟩ .a true),
   (0x20E0301000011000, .log2 ⟨on, v 3, v 1, v 0, v 0⟩ .a false),
   (0x20E0301000015001, .sinpi ⟨on, v 3, v 1, v 0, v 0⟩ .a true),
   (0x20E0301000019000, .cospi ⟨on, v 3, v 1, v 0, v 0⟩ .a false),
   (0x20E030100001D001, .tanh ⟨on, v 3, v 1, v 0, v 0⟩ .a true),
   (0x21E0602000000038, .cvt ⟨on, v 6, v 2, v 0, v 0⟩ .rne true .e4m3 .f32)]

theorem test_decode_float : ∀ e ∈ floatWords, decodeTableWord 64 e.1.toNat = some e.2 ∧ encode e.2 = e.1 := by decide

/-- Words by the layouts and codes of R280 to R285, R239. -/
def lanesWords : List (DWord × Instr) :=
  [(0x28E0301020000003, .shfl ⟨on, v 3, v 1, v 2, v 0⟩ .xor false),
   (0x28E0205000004401, .vote on (v 2) 5 .any true),
   (0x28E0301000008012, .lred ⟨on, v 3, v 1, v 0, v 0⟩ .imax false true .rne),
   (0x28E030100000C200, .lscan ⟨on, v 3, v 1, v 0, v 0⟩ .iadd false false .rne true),
   (0x28E0301000010000, .matchL ⟨on, v 3, v 1, v 0, v 0⟩ false),
   (0x81E0C04031C20100, .pairedCoIssue ⟨1, 7, 3, 1, 0⟩ ⟨0x18, 7, 4, 2, 0⟩),
   (0xC1E0C04004818101, .pairedPathSplit ⟨1, 7, 3, 1, 0⟩ ⟨2, 2, 3, 2, 1⟩)]

theorem test_decode_lanes : ∀ e ∈ lanesWords, decodeTableWord 64 e.1.toNat = some e.2 ∧ encode e.2 = e.1 := by decide

/-- Words by the layouts and codes of R287 to R309. -/
def controlWords : List (DWord × Instr) :=
  [(0x30E0000FFFFFFFE6, .bra on 0xFFFFFFFE 3),
   (0x31E0600000000020, .call on (v 6) 2 0),
   (0x32E8500FFFFFFFE2, .loop on 5 0xFFFFFFFE 1),
   (0x33E000A000000014, .brm on 2 true 1 2),
   (0x34E0000000000012, .meet on false 1 1),
   (0x34E0001000000000, .meet on true 0 0),
   (0x35E0003000000040, .spawn on 3 4),
   (0x36E0006000000000, .brx on (v 6)),
   (0x36E0806000004000, .callx on (v 8) (v 6)),
   (0x36E0087000008000, .ret on (.s 7)),
   (0x37E0000000000000, .mend on),
   (0x37E0000000004000, .spflush on),
   (0x3750000000008000, .exit ⟨2, true⟩),
   (0x37E000000000C000, .yield on),
   (0x37E0000000010801, .waitf on 0x801),
   (0x37E0000000014000, .nop on),
   (0x38E0184C0A000002, .rnld ⟨on, .s 4, .b128, .rlx, .blk, .off, .gen⟩ true (.i 0) 2),
   (0x39E000000000000F, .bar on 15),
   (0x39E0000000004003, .bara on 3),
   (0x39E0000000008003, .barw on 3),
   (0x39E000000000C003, .cbar on 3),
   (0x70E040000000000D, .srd on (v 4) .meet),
   (0x70E000100000400A, .swr on (v 1) .nflags),
   (0x70E0400000008000, .gts on (v 4)),
   (0x70E830000000C000, .clk on (.s 3)),
   (0x71E000600000002A, .trap on (v 6) 0x2A),
   (0x71E0000000004007, .brkp on 7)]

theorem test_decode_control : ∀ e ∈ controlWords, decodeTableWord 64 e.1.toNat = some e.2 ∧ encode e.2 = e.1 := by decide

/-- Words by the layouts and codes of R311 to R330, R334. -/
def memoryWords : List (DWord × Instr) :=
  [(0x40E0384C18027FFF, .ld ⟨on, .s 4, .b32, .rlx, .blk, .a, .scr⟩ (v 3) (.i 1) 0x3FFF),
   (0x41E0084038920002, .st ⟨on, .s 4, .b32, .rel, .die, .a, .gen⟩ (v 3) 2),
   (0x42E0384C04040000, .ldc ⟨on, .s 4, .z32, .rlx, .blk, .b, .gen⟩ (v 3) (.i 0) 0),
   (0x43E0684024120000, .atom ⟨on, .s 4, .z32, .rlx, .die, .a, .gen⟩ .add (v 6) (v 2) 0),
   (0x44E0684024121401, .atoms ⟨on, .s 4, .z32, .rlx, .die, .a, .gen⟩ .xor (v 6) (v 2) 1),
   (0x45E008402B2A2400, .red ⟨on, .s 4, .f16, .rlx, .sys, .a, .gen⟩ .fadd (v 2) 0),
   (0x46E0684028E20000, .cas ⟨on, .s 4, .b32, .ar, .dom, .a, .gen⟩ (v 6) (v 2) 0),
   (0x47E0000000000000, .aflush on),
   (0x48E0000000100000, .fence on .sc .die),
   (0x49E0084C01000004, .pref on true (.s 4) (.i 0) 4),
   (0x4AE0084C00000004, .cwb on false (.s 4) (.i 0) 4),
   (0x4BE0000001000000, .cinv on true (v 0) (v 0) 0),
   (0x4CE0905200000010, .txbeg on 9 5 2 2 0),
   (0x4DE0000000000000, .txend on),
   (0x4DE00000000040AB, .txabt on 0xAB),
   (0x4DE0900000008000, .txst on 9),
   (0x4EE088610A8A0003, .qpush ⟨on, .s 6, .b128, .rel, .clu, .a, .gen⟩ (v 8) (v 16) 3),
   (0x4FE108608A4A0203, .qpop ⟨on, .s 6, .b128, .acq, .clu, .a, .gen⟩ (v 16) (v 8) true 3),
   (0x50E0686009020003, .qcnt ⟨on, .s 6, .b64, .rlx, .blk, .a, .gen⟩ (v 6) 3)]

theorem test_decode_memory : ∀ e ∈ memoryWords, decodeTableWord 64 e.1.toNat = some e.2 ∧ encode e.2 = e.1 := by decide

/-- Words by the layouts and codes of R344, R363, R364. -/
def engineWords : List (DWord × Instr) :=
  [(0x60E8990000000480, .cpy ⟨on, 9, true, false, .die, 0⟩ 16),
   (0x60E8990060004000, .cpyg ⟨on, 9, false, false, .blk, 0⟩ 16 6),
   (0x60E8990060008200, .cpys ⟨on, 9, false, true, .blk, 0⟩ 16 6),
   (0x60E899000940C807, .cpym ⟨on, 9, false, false, .blk, 1⟩ 16 20 7),
   (0x61E8983C30000005, .omclm ⟨on, 9, false, false, .blk, 0⟩ (.s 3) (.i 3) true 2),
   (0x61E8983C30004000, .omrel ⟨on, 9, false, false, .blk, 0⟩ (.s 3) (.i 3)),
   (0x61E8900000008005, .accz ⟨on, 9, false, false, .blk, 0⟩ 5),
   (0x61E899094000C005, .accld ⟨on, 9, false, false, .blk, 0⟩ 16 20 5),
   (0x61E8990949511005, .accst ⟨on, 9, false, false, .blk, 2⟩ 16 20 21 5),
   (0x61E891F00951500D, .accmv ⟨on, 9, false, false, .blk, 2⟩ 31 21 5 true),
   (0x62E8903040500000, .mma ⟨on, 9, false, false, .blk, 0⟩ 3 4 5),
   (0x62E8903040504000, .mmb ⟨on, 9, false, false, .blk, 0⟩ 3 4 5),
   (0x63E0389000000000, .futw on (v 3) (.s 9)),
   (0x63E0289000004000, .futt on 2 (.s 9)),
   (0x63E0089000008000, .futc on (.s 9)),
   (0x63E000000000C005, .rstl on 5 false),
   (0x63E000000000C040, .rstl on 0 true),
   (0x64E9E90950001700, .coll ⟨on, 30, true, true, .dom, 2⟩ 16 21 0),
   (0x64E8990950004000, .put ⟨on, 9, false, false, .blk, 0⟩ 16 21),
   (0x64E8990950008000, .get ⟨on, 9, false, false, .blk, 0⟩ 16 21),
   (0x65E899095960180D, .qnt ⟨on, 9, false, false, .blk, 3⟩ 16 21 22 13),
   (0x65E8990959605801, .dqnt ⟨on, 9, false, false, .blk, 3⟩ 16 21 22 1),
   (0x66E0003000001045, .amax on .a (v 3) 5 true),
   (0x66E8900000005005, .sring on .a (.s 9) 5)]

theorem test_decode_engine : ∀ e ∈ engineWords, decodeTableWord 64 e.1.toNat = some e.2 ∧ encode e.2 = e.1 := by decide


/-- The base-die words of R332 as 98_reader and R332 write them. -/
theorem test_decode_kx :
    decodeTableWord 32 0x0000100B = some .kxEnd ∧ decodeTableWord 32 0x0000350B = some (.kxStat 10) ∧
    decodeTableWord 32 0x0005C00B = some (.kxLock 11) ∧ decodeTableWord 32 0x0005850B = some (.kxBegin 10 11) ∧
    decodeTableWord 32 0x02A0200B = some (.kxAbort 0x2A) ∧ decodeTableWord 32 0x0200100B = none := by decide

/-- The subcode with which a word is refused, 0 where it is an instruction. -/
def sub (w : DWord) : Nat :=
  match decodeWord w with
  | .error k => k
  | .ok _ => 0

/-- R242, R243: reserved opcodes and functions are subcode 1, reserved fields 2, operands 3, values 7. -/
theorem test_refused_words :
    sub 0x08E0301020000000 = 1 ∧ sub 0x7FE0301020000000 = 1 ∧ sub 0x00E0301020024000 = 1 ∧
    -- IADD with flag select A; with a reserved modifier bit; with C not zero
    sub 0x00E0301020001000 = 2 ∧ sub 0x00E0301020000008 = 2 ∧ sub 0x00E0301020100000 = 2 ∧
    -- code 0xFD; a constant as destination; an odd pair
    sub 0x00E0301FD0000000 = 3 ∧ sub 0x00EC001020000000 = 3 ∧ sub 0x00E0301020000001 = 3 ∧
    -- a branch with bit 0 set; SPAWN of 61 values
    sub 0x30E0000000000001 = 2 ∧ sub 0x35E003D000000000 = 7 ∧
    -- type 15, scope 6, space 5
    sub 0x40E038400F000000 = 2 ∧ sub 0x40E0384C08300000 = 2 ∧ sub 0x40E0384C08014000 = 2 := by decide

/-! ### Ill-formed instructions: one for each check of WellFormed -/

def r (d a b c : Opnd) : R3 := ⟨on, d, a, b, c⟩
def im : IMod := ⟨false, false, false⟩
def fm : FMod := ⟨.rne, false, false, false⟩
def ma (base : Opnd) (ty : MType) : MArgs := ⟨on, base, ty, .rlx, .blk, .a, .gen⟩
def en : EArgs := ⟨on, 9, false, false, .blk, 0⟩

theorem test_illformed_integer :
    [Instr.iadd (r (v 3) (v 1) (v 2) (v 1)) im, .iadd (r (v 3) (.x 13) (v 2) (v 0)) im, .iadd (r (.i 3) (v 1) (v 2) (v 0)) im,
      .iadd (r (v 3) (v 2) (v 2) (v 0)) ⟨true, false, false⟩, .ineg (r (v 3) (v 1) (v 0) (v 0)) ⟨false, true, false⟩,
      .iabs (r (v 3) (v 1) (v 0) (v 0)) ⟨false, true, false⟩, .imin (r (v 3) (v 1) (v 2) (v 0)) ⟨false, false, true⟩,
      .imulh (r (v 3) (v 1) (v 2) (v 0)) ⟨false, false, true⟩, .imadw (r (v 4) (v 1) (v 2) (v 6)) ⟨true, false, false⟩,
      .imadw (r (v 3) (v 1) (v 2) (v 6)) im, .icmp on 7 (v 1) (v 2) .eq false false, .iaddImm on (.f 1) (v 1) 0,
      .lea (r (v 3) (v 2) (v 2) (v 0)) 0 false].map Instr.illegal = [2, 3, 3, 3, 2, 2, 2, 2, 2, 3, 3, 3, 3] := by decide

theorem test_illformed_logic_and_float :
    [Instr.sel (r (v 3) (v 1) (v 2) (v 0)) false 7 false, .plog on 7 0 0 0 0, .movi on (v 3) true 0, .movw on (v 3) false 0,
      .fadd (r (v 3) (v 1) (v 2) (v 1)) fm, .fadd (r (v 4) (v 2) (v 2) (v 0)) ⟨.rne, true, true, false⟩,
      .fmin (r (v 4) (v 2) (v 2) (v 0)) true true, .fcmp on 7 (v 1) (v 2) .lt false false, .faddImm on (.x 1) (v 1) 0,
      .cvt (r (v 3) (v 1) (v 0) (v 0)) .rne true .s32 .f32, .cvt (r (v 3) (v 1) (v 0) (v 0)) .rtz false .s32 .z32,
      .lred (r (v 3) (v 1) (v 0) (v 0)) .iadd false true .rne, .lscan (r (v 3) (v 1) (v 0) (v 0)) .imax false false .rtz true,
      .vote on (v 7) 0 .all false, .vote on (.i 0) 0 .ballot false].map Instr.illegal =
    [2, 3, 3, 3, 2, 2, 2, 3, 3, 2, 2, 2, 2, 3, 3] := by decide

theorem test_illformed_control :
    [Instr.loop on 0 0 0, .meet on true 1 0, .spawn on 61 0, .brx on (.x 1), .callx on (v 3) (v 2), .ret on (v 3),
      .call on (v 3) 0 0, .rnld (ma (.s 4) .b64) false (.i 0) 0, .srd on (v 3) .meet, .swr on (v 1) .lane, .gts on (.s 0),
      .clk on (v 3), .trap on (v 3) 0].map Instr.illegal = [3, 2, 7, 3, 3, 3, 3, 2, 3, 7, 3, 3, 3] := by decide

theorem test_illformed_memory :
    [Instr.ld { ma (.s 4) .b32 with ord := .rel } (v 3) (.i 0) 0, .ld (ma (v 3) .b32) (v 3) (.i 0) 0,
      .ld (ma (.s 4) .b128) (v 2) (.i 0) 0, .st { ma (.s 4) .b32 with ord := .acq } (v 3) 0,
      .ldc { ma (.s 4) .b32 with sc := .clu } (v 3) (.i 0) 0, .atom (ma (.s 4) .s8) .add (v 3) (v 1) 0,
      .atom (ma (.s 4) .z32) .add (.s 1) (v 1) 0, .atoms (ma (v 2) .z32) .add (v 3) (v 1) 0, .atoms (ma (.s 4) .z32) .exch (v 3) (v 1) 0,
      .red (ma (.s 4) .z32) .exch (v 1) 0, .cas (ma (.s 4) .z32) (v 3) (v 1) 0, .pref on false (.f 0) (.i 0) 0,
      .cwb on true (.s 4) (v 0) 0, .cinv on false (v 1) (.i 0) 0, .qpush (ma (.s 6) .z32) (v 3) (v 1) 0,
      .qpush (ma (.s 6) .b32) (.s 5) (v 1) 0, .qpop (ma (v 2) .b32) (v 3) (v 1) false 0, .qcnt (ma (.s 6) .b128) (v 4) 0].map
        Instr.illegal = [2, 3, 3, 2, 2, 2, 3, 3, 2, 2, 2, 3, 2, 3, 2, 3, 3, 2] := by decide

theorem test_illformed_engine :
    [Instr.cpy { en with fs := 1 } 16, .cpy { en with d := 0 } 16, .cpy en 61, .cpyg en 16 5, .cpym { en with rel := true } 16 0 0,
      .omclm { en with acq := true } (.s 1) (.s 2) false 0, .omrel en (v 1) (.s 2), .accz { en with fs := 1 } 0,
      .accld { en with rel := true } 16 0 0, .accst en 63 0 0 0, .accmv { en with sc := .die } 0 0 0 false, .mma { en with fs := 1 } 0 0 0,
      .futw on (.s 0) (.s 9), .futt on 7 (.s 9), .futc on (.i 0), .rstl on 1 true, .coll en 61 0 0, .put { en with fs := 1 } 16 0,
      .get en 62 0, .qnt en 0 0 0 0, .amax on .a (.x 14) 0 false, .sring on .a (.s 0) 0].map Instr.illegal =
    [2, 3, 3, 3, 2, 2, 3, 2, 2, 3, 2, 2, 3, 3, 3, 2, 3, 2, 3, 3, 3, 3] := by decide


/-! ### States that meet the hypotheses of the obligations -/

theorem witness_IntegerArithmetic :
    demo.CanIssue (need1 (r (v 3) (v 1) (v 0) (v 0)) false) ∧ demo.CanIssue (need2 (r (v 3) (v 1) (v 2) (v 0)) false) ∧
    demo.CanIssue (need3 (r (v 126) (v 2) (.s 63) (.i 0)) true) ∧
    demo.CanIssue (.of on [(v 4, 2)] [(v 1, 1), (v 2, 1), (v 6, 2)]) ∧ demo.CanIssue (.of on [(v 4, 2)] [(v 6, 2), (v 127, 1)]) :=
  ⟨ready (by decide), ready (by decide), ready (by decide), ready (by decide), ready (by decide)⟩

theorem witness_ImmediateForms :
    demo.CanIssue (.of on [(v 3, 1)] [(v 1, 1)]) ∧ demo.CanIssue (.of on [(.s 3, 2)] [(v 1, 1)]) ∧
    demo.CanIssue (.of on [(.s 0, 2)] [(.s 4, 2)]) := ⟨ready (by decide), ready (by decide), ready (by decide)⟩

theorem witness_LogicShiftsAndFields :
    demo.CanIssue (need1 (r (v 3) (v 1) (v 0) (v 0)) false) ∧ demo.CanIssue (need2 (r (v 4) (v 2) (v 6) (v 0)) true) ∧
    demo.CanIssue (need3 (r (.s 3) (v 1) (v 2) (.i 31)) false) := ⟨ready (by decide), ready (by decide), ready (by decide)⟩

theorem witness_MovesAndPredicates :
    demo.CanIssue (need1 (r (v 3) (.f 0) (v 0) (v 0)) false) ∧ demo.CanIssue (need2 (r (v 3) (v 1) (v 2) (v 0)) false) ∧
    demo.CanIssue (.of on [(v 4, 2)] []) ∧ demo.CanIssue (.of on [(v 4, 2)] [(v 4, 2)]) ∧
    demo.CanIssue (.of on [] [(v 1, 1), (.s 5, 1)]) ∧ demo.CanIssue (.of on [] []) :=
  ⟨ready (by decide), ready (by decide), ready (by decide), ready (by decide), ready (by decide), ready (by decide)⟩

theorem witness_FloatArithmetic :
    demo.CanIssue (needIdx (r (v 3) (v 1) (v 2) (v 5)) [(v 1, false), (v 2, false)] .sr false) ∧
    demo.CanIssue (needIdx (r (v 4) (v 2) (v 6) (v 0)) [(v 2, true), (v 6, true)] .rne true) ∧
    demo.CanIssue (need3 (r (v 4) (v 2) (v 6) (v 8)) true) ∧ demo.CanIssue (.of on [(v 3, 1)] [(v 2, 2)]) ∧
    demo.CanIssue (needIdx (r (v 3) (v 1) (v 2) (.i 4)) [(v 1, false), (v 2, false)] .sr false) ∧
    demo.CanIssue (need3 (r (v 3) (v 1) (v 2) (v 5)) false) :=
  ⟨ready (by decide), ready (by decide), ready (by decide), ready (by decide), ready (by decide), ready (by decide)⟩

theorem witness_Conversions :
    demo.CanIssue (needIdx (r (v 4) (v 1) (v 0) (v 0)) [(v 1, false)] .rne true) ∧
    demo.CanIssue (needIdx (r (v 3) (v 2) (v 0) (.i 1)) [(v 2, true)] .sr false) := ⟨ready (by decide), ready (by decide)⟩

/-- 1/3 is rounded to 0x3EAAAAAB with NX (R203). -/
theorem witness_RoundingIsAdjacent :
    (⟨false, 1, 3, 0⟩ : Exact).d ≠ 0 ∧ (⟨.rne, false, false, 0⟩ : RMode).ftz = false ∧ (⟨.rne, false, false, 0⟩ : RMode).r < 2 ^ 32 ∧
    (Fmt.fp32.round ⟨.rne, false, false, 0⟩ ⟨false, 1, 3, 0⟩).2 &&& fOF = 0 ∧
    Fmt.fp32.round ⟨.rne, false, false, 0⟩ ⟨false, 1, 3, 0⟩ = (0x3EAAAAAB, fNX) := by decide

theorem witness_LaneExchange :
    demo.CanIssue (.of on [(v 3, 1)] [(v 1, 1), (v 2, 1)]) ∧ demo.CanIssue (.of on [] []) ∧
    demo.CanIssue (.of on [(v 4, 2)] [(v 2, 2), (v 1, 1)]) ∧ demo.CanIssue (.of on [(v 3, 1)] [(v 2, 2)]) :=
  ⟨ready (by decide), ready (by decide), ready (by decide), ready (by decide)⟩

theorem witness_Reductions : demo.CanIssue (needIdx (r (v 3) (v 1) (v 0) (v 5)) [(v 1, false)] .sr false) ∧
    demo.CanIssue (needIdx (r (.s 3) (v 2) (v 0) (v 0)) [(v 2, true)] .rne true) := ⟨ready (by decide), ready (by decide)⟩

theorem witness_DivisionAndFunctionsStart :
    demo.CanIssue { need2 (r (v 3) (v 1) (v 2) (v 0)) false with flag := .a } ∧
    demo.CanIssue { need1 (r (v 3) (v 1) (v 0) (v 0)) false with flag := .b } := ⟨ready (by decide), ready (by decide)⟩

/-- s5 holds 2, s6 holds 1, s7 holds 0; one operation on flag 11 is in flight. -/
def demoLoop : State := { demo with cohorts := upd demo.cohorts 0 (fun k => { k with
  sregs := [(4, 0x400000), (5, 2), (6, 1)]
  cf := [(11, 1)] }) }

theorem witness_BranchesGoWhereTheyPoint :
    (demoLoop.CanIssue (ctlNeed on [] []) ∧ demoLoop.Agrees (demoLoop.active on) (fun _ => demoLoop.label 1 0)) ∧
    demoLoop.CanIssue (ctlNeed on [] [v 6]) ∧
    (demoLoop.CanIssue (ctlNeed on [.s 4] []) ∧ demoLoop.Agrees (demoLoop.active on) (demoLoop.arg (.s 4) true) ∧
      ∀ l < 32, (demoLoop.active on).getLsbD l = true → (demoLoop.arg (.s 4) true l).toNat % 8 = 0) ∧
    demoLoop.CanIssue (ctlNeed on [.s 4] [v 6]) ∧
    (demoLoop.CanIssue (ctlNeed on [.s 5] []) ∧ (demoLoop.coh 0).sreg 5 = 2) ∧
    (demoLoop.CanIssue (ctlNeed on [.s 6] []) ∧ (demoLoop.coh 0).sreg 6 = 1) ∧
    (demoLoop.CanIssue (ctlNeed on [.s 7] []) ∧ (demoLoop.coh 0).sreg 7 = 0) := by
  refine ⟨⟨ready (by decide), ?_⟩, ready (by decide), ⟨ready (by decide), ?_, by decide⟩, ready (by decide),
    ⟨ready (by decide), by decide⟩, ⟨ready (by decide), by decide⟩, ⟨ready (by decide), by decide⟩⟩
  all_goals
    have h : ∀ l < 32, (demoLoop.coh demoLoop.cur.coh).inRegion l = false := by decide
    exact fun l hl _ _ _ _ y => absurd (y.symm.trans (h l hl)) (by decide)

/-- An open region whose MEND address is the word at the group's PC: lanes 0 and 1, lane 1 on path 1, and both have met. -/
def atMend : State := { demo with cohorts := upd demo.cohorts 0 (fun k => { k with
  regionOpen := true
  mend := 0x200008
  memb := 3
  path := 2
  mendOpen := true }) }

theorem witness_MeetingsAndRegions :
    demo.CanIssue { ctlNeed on [] [] with meldBan := true } ∧
    (demo.CanIssue (ctlNeed on [] []) ∧ (demo.coh 0).regionOpen = false ∧ demo.cur.pc.toNat < (demo.label 1 0).toNat ∧
      ∀ l < 32, (demo.active on).getLsbD l = true → (demo.coh 0).awake.getLsbD l = true) ∧
    (demo.coh 0).mendOpen = false ∧
    (atMend.CanIssue (ctlNeed on [] []) ∧ (atMend.coh 0).mendOpen = true ∧ atMend.cur.pc = (atMend.coh 0).mend ∧
      ∃ l < 32, atMend.cur.lanes.getLsbD l = true ∧ (atMend.coh 0).inRegion l = true) :=
  ⟨ready (by decide), ⟨ready (by decide), by decide, by decide, by decide⟩, by decide, ready (by decide), by decide, by decide, by decide⟩

theorem witness_SpawningQueuesAndFlushes :
    (demo.CanIssue (bareNeed on true (some 0x35)) ∧ (look demo.blocks (demo.coh 0).block).isSome = true ∧
      1 ≤ (demo.cohGrd 0).spl ∧ (4 : BitVec 8).toNat ≤ (demo.cohGrd 0).spl ∧
      demo.accessPending 0 (demo.active on) (fun _ => true) = false ∧
      ((demo.blk 0).spawnQ.filter (fun e => e.ovf.isNone)).length + (lanesOf (demo.active on)).length ≤ 1024) ∧
    demo.CanIssue (bareNeed on true (some 0x37)) :=
  ⟨⟨ready (by decide), by decide, by decide, by decide, by decide, by decide⟩, ready (by decide)⟩

/-- A deterministic grid: a second cohort, on the pipe of the first, comes after it. -/
def demoDet : State := { demo with
  grids := upd demo.grids 0 (fun g => { g with rcd := rcd.set 3 1 })
  cohorts := set (upd demo.cohorts 0 (fun k => { k with detHolder := true })) 1 { demo.coh 0 with idx := 4 } }

theorem witness_EndsAndWaits :
    (demo.CanIssue (bareNeed on false (some 0x37)) ∧
      ∀ l < 32, (demo.active on).getLsbD l = true → ((demo.coh 0).txOf l).isOpen = false) ∧
    (demo.CanIssue (bareNeed on false none) ∧ (demo.cohGrd 0).det = false) ∧
    (demoDet.CanIssue (bareNeed on false none) ∧ (demoDet.cohGrd 0).det = true ∧ (demoDet.coh 0).detHolder = true ∧
      demoDet.NextOnPipe 0 1) ∧
    (∀ i < 12, (0x801#12).getLsbD i = true → getD (demo.coh 0).cf i 0 = 0) ∧
    (demoLoop.CanIssue (bareNeed on false none) ∧ ∃ i < 12, (0x801#12).getLsbD i = true ∧ getD (demoLoop.coh 0).cf i 0 ≠ 0) :=
  ⟨⟨ready (by decide), by decide⟩, ⟨ready (by decide), by decide⟩,
    ⟨ready (by decide), by decide, by decide, by decide, by decide, ⟨(1, demoDet.coh 1), by decide⟩, by decide, by decide⟩,
    by decide, ready (by decide), by decide⟩

theorem witness_BarrierArrivals :
    let s := demo
    let b := s.blk 0
    let mine := slotBits (s.coh 0).idx (s.active on)
    (s.CanIssue (bareNeed on true (some 0x39)) ∧ (look s.blocks 0).isSome = true ∧ (look s.placed b.placed).isSome = true ∧
      s.accessPending 0 (s.active on) (fun _ => true) = false ∧ (s.coh 0).idx < 32) ∧
    ((b.bar 15).arrived &&& mine = 0 ∧ s.barMembers 0 &&& ~~~((b.bar 15).arrived ||| mine) ≠ 0) ∧
    -- the other lanes have arrived
    (let t := s.modBlk 0 (fun k => { k with bars := [(3, ⟨true, slotBits 0 0xFFFFFFFC, 0, 0⟩)] })
     ((t.blk 0).bar 3).arrived &&& mine = 0 ∧ t.barMembers 0 &&& ~~~(((t.blk 0).bar 3).arrived ||| mine) = 0) ∧
    -- the lanes recorded phase 0, which has completed
    (let t := s.modBlk 0 (fun k => { k with bars := [(3, ⟨true, 0, slotBits 0 3, 0⟩)] })
     ((t.blk 0).bar 3).pending &&& mine = mine ∧ ((t.blk 0).bar 3).recd &&& mine = 0 ∧
      t.barMembers 0 &&& ~~~((t.blk 0).bar 3).arrived ≠ 0) ∧
    -- they have an arrival in the open phase already
    (let t := s.modBlk 0 (fun k => { k with bars := [(3, ⟨false, mine, mine, 0⟩)] })
     ((t.blk 0).bar 3).arrived &&& mine = mine ∧ ((t.blk 0).bar 3).pending &&& mine = mine ∧ ((t.blk 0).bar 3).recd &&& mine = 0 ∧
      t.barMembers 0 &&& ~~~((t.blk 0).bar 3).arrived ≠ 0) ∧
    (s.grd b.grid).det = false ∧
    (((s.plc 0).bar 3).arrived &&& cslotBits b.rank 0 (s.active on) = 0 ∧
      s.cbarMembers 0 &&& ~~~(((s.plc 0).bar 3).arrived ||| cslotBits b.rank 0 (s.active on)) ≠ 0) ∧
    (let t := { s with placed := upd s.placed 0 (fun x => { x with bars := [(3, ⟨true, cslotBits 0 0 0xFFFFFFFC⟩)] }) }
     ((t.plc 0).bar 3).arrived &&& cslotBits b.rank 0 (s.active on) = 0 ∧ b.rank < 8 ∧
      t.cbarMembers 0 &&& ~~~(((t.plc 0).bar 3).arrived ||| cslotBits b.rank 0 (s.active on)) = 0) :=
  ⟨⟨ready (by decide), by decide, by decide, by decide +kernel, by decide⟩, by decide +kernel, by decide +kernel,
    by decide +kernel, by decide +kernel, by decide +kernel, by decide +kernel, by decide +kernel⟩

theorem witness_TrapsPark :
    (∀ l < 32, demo.cur.lanes.getLsbD l = true → (demo.coh demo.cur.coh).pcOf l = demo.cur.pc) ∧
    demo.opHeld demo.cur.coh &&& demo.cur.lanes = 0 ∧ demo.cohCore demo.cur.coh < 768 ∧
    getD demo.traps.nextTid (demo.cohPart demo.cur.coh) 0 < 2 ^ 32 ∧
    demo.CanIssue { Need.of on [] [(v 2, 2)] with disallow := some 0x71 } ∧ demo.CanIssue (.of on [] []) ∧
    (∀ l < 32, (demo.active on).getLsbD l = true → (demo.coh 0).spec l = false) :=
  ⟨by decide, by decide, by decide, by decide, ready (by decide), ready (by decide), by decide⟩


/-- An operation of lane 0 on four bytes at 0x400000, whose home is memory. -/
def opOf (k : OpKind) (ty : MType) : Op :=
  ⟨0, 0, 0, 1, 0x200008, some 0, k, ty, .rlx, .blk, [(0, ⟨0x400000, [⟨.mem, 0x400000, 4, false⟩], 6, 0, 0⟩)], [(.v 96, 0, 0)], 0,
    0x200010, 0, 0⟩

/-- The bytes at 0x400000 hold 5, and one operation is in flight. -/
def demoOp (o : Op) : State := { demo with
  mem := putBytes demo.mem 0x400000 4 5
  ops := [(0, o)]
  cohorts := upd demo.cohorts 0 (fun k => { k with cf := [(0, 1)] })
  fresh := 1 }

/-- A division is in flight. -/
def demoDiv : State := demoOp (opOf .comp .b32)

theorem witness_SpecialRegisters :
    demo.CanIssue (.of on [(v 4, 2)] []) ∧ demo.CanIssue (.of on [] [(v 1, 1)]) ∧ demo.flagsPending 0 = false ∧
    demo.CanIssue (.of on [] [(.s 4, 2)]) ∧
    (∀ l < 32, (demo.active on).getLsbD l = true →
      (demo.arg (.s 4) true l).toNat % 8 = 0 ∨ demo.arg (.s 4) true l = 0xFFFFFFFFFFFFFFFF) ∧
    (demoDiv.CanIssue (.of on [] [(v 1, 1)]) ∧ demoDiv.flagsPending 0 = true) :=
  ⟨ready (by decide), ready (by decide), by decide, ready (by decide), by decide, ready (by decide), by decide⟩

/-- The accesses of lanes 0 and 1 to four bytes at s4 pass: loads, stores and atomics. -/
def seekOk (s : State) (r : LaneRes) : Bool :=
  r.cause == 0 && r.walks.isEmpty && r.peers.isEmpty && !r.cross && r.segs.all (fun g => (s.absentLines g).isEmpty && g.loc != .reg s.cur.coh)

theorem seekOk_passes {s : State} {r : LaneRes} (h : seekOk s r = true) : s.Passes r := by
  simp only [seekOk, Bool.and_eq_true, beq_iff_eq, List.isEmpty_iff, Bool.not_eq_true', List.all_eq_true, bne_iff_ne] at h
  obtain ⟨⟨⟨⟨h1, h2⟩, h3⟩, h4⟩, h5⟩ := h
  exact ⟨⟨h1, h2, h3, h4, fun g hg => (h5 g hg).1⟩, fun g hg => (h5 g hg).2⟩

def settledOk (s : State) (r : LaneRes) : Bool :=
  seekOk s r || (causeOrder.contains r.cause && r.cause != 0 && r.walks.isEmpty && r.peers.isEmpty && !r.cross)

theorem settledOk_settled {s : State} {r : LaneRes} (h : settledOk s r = true) : s.Settled r := by
  rcases Bool.or_eq_true_iff.mp h with h | h
  · have p := seekOk_passes h
    exact ⟨fun _ => p, fun c => absurd p.cause c⟩
  · simp only [Bool.and_eq_true, List.contains_iff_mem, bne_iff_ne, List.isEmpty_iff, Bool.not_eq_true'] at h
    obtain ⟨⟨⟨⟨h1, h2⟩, h3⟩, h4⟩, h5⟩ := h
    exact ⟨fun c => absurd c h2, fun _ => ⟨h1, h3, h4, h5⟩⟩

theorem settled_all {s : State} {run : LaneMask} {to_ : Nat → LaneRes}
    (h : ∀ l < 32, run.getLsbD l = true → settledOk s (to_ l) = true) : ∀ l < 32, run.getLsbD l = true → s.Settled (to_ l) :=
  fun l hl a => settledOk_settled (h l hl a)

theorem passes_word (kind : Nat) (h : kind = 1 ∨ kind = 2 ∨ kind = 3) :
    ∀ l < 32, (demo.active on).getLsbD l = true → demo.Passes (demo.seek kind 0x400000 4 [] (fun _ _ => []) l) := by
  have k : ∀ kind ∈ [1, 2, 3], ∀ l < 32, (demo.active on).getLsbD l = true →
      let x := demo.seek kind 0x400000 4 [] (fun _ _ => []) l
      x.cause = 0 ∧ x.walks = [] ∧ x.peers = [] ∧ x.cross = false ∧ (∀ g ∈ x.segs, demo.absentLines g = []) ∧
        ∀ g ∈ x.segs, g.loc ≠ .reg demo.cur.coh := by decide
  intro l hl ha
  obtain ⟨h1, h2, h3, h4, h5, h6⟩ := k kind (by rcases h with h | h | h <;> simp [h]) l hl ha
  exact ⟨⟨h1, h2, h3, h4, h5⟩, h6⟩

def mw : MArgs := ma (.s 4) .b32

theorem addr_word : ∀ l < 32, demo.addr mw (some (.i 0)) 0 l = 0x400000 ∧ demo.addr mw none 0 l = 0x400000 := by decide

/-- s4 is the base of the scratchpad; lane 1's index v1 leads beyond its extent. -/
def demoFar : State := { demo with cohorts := upd demo.cohorts 0 (fun k => { k with
  sregs := [(4, 0x00F0000000000000)]
  regs := [(32, 0), (33, 0x1000000)] }) }

theorem witness_LoadsAndStoresStart_split :
    (let m : MArgs := { mw with sp := .gen }
     demoFar.CanIssue (memNeed m [regTy (v 3) .b32, (v 1, 1)] [v 1]) ∧ (v 3).isS = false ∧ demoFar.MayTrap (demoFar.active on) ∧
      (∀ l < 32, (demoFar.active on).getLsbD l = true →
        demoFar.Settled (demoFar.seek 1 (demoFar.addr m (some (v 1)) 0 l) 4 [] (fun _ _ => []) l)) ∧
      (demoFar.seek 1 (demoFar.addr m (some (v 1)) 0 0) 4 [] (fun _ _ => []) 0).cause = 0 ∧
      (demoFar.seek 1 (demoFar.addr m (some (v 1)) 0 1) 4 [] (fun _ _ => []) 1).cause ≠ 0) ∧
    -- a store with a v-register for its base: lane 1's is no address of the scratchpad
    (let s := { demo with cohorts := upd demo.cohorts 0 (fun k => { k with
       regs := [(192, 0), (193, 0x1000000), (224, 0x00F00000), (225, 0x00F00000)] }) }
     let m : MArgs := ma (v 6) .b32
     s.CanIssue (memNeed m [regTy (v 2) .b32] []) ∧ s.MayTrap (s.active on) ∧
      (∀ l < 32, (s.active on).getLsbD l = true → s.Settled (s.seek 2 (s.addr m none 0 l) 4 [] (fun _ _ => []) l)) ∧
      (s.seek 2 (s.addr m none 0 0) 4 [] (fun _ _ => []) 0).cause = 0 ∧
      (s.seek 2 (s.addr m none 0 1) 4 [] (fun _ _ => []) 1).cause ≠ 0) :=
  ⟨⟨ready (by decide), rfl, ⟨by decide, by decide, by decide, by decide⟩,
      settled_all (by decide), by decide, by decide⟩,
    ready (by decide), ⟨by decide, by decide, by decide, by decide⟩, settled_all (by decide), by decide, by decide⟩

theorem witness_LoadsAndStoresStart :
    (demo.CanIssue (memNeed mw [regTy (v 3) .b32, (.i 0, 1)] [.i 0]) ∧
      ∀ l < 32, (accLanes (demo.coh 0).spec false (demo.active on)).getLsbD l = true →
        demo.Passes (demo.seek 1 (demo.addr mw (some (.i 0)) 0 l) 4 [] (fun _ _ => []) l)) ∧
    (demo.CanIssue (memNeed mw [regTy (v 1) .b32] []) ∧
      ∀ l < 32, (demo.active on).getLsbD l = true →
        demo.Passes (demo.seek 2 (demo.addr mw none 0 l) 4 [] (fun _ _ => []) l)) := by
  refine ⟨⟨ready (by decide), fun l hl h => ?_⟩, ready (by decide), fun l hl h => ?_⟩
  · rw [(addr_word l hl).1]
    exact passes_word 1 (.inl rfl) l hl h
  · rw [(addr_word l hl).2]
    exact passes_word 2 (.inr (.inl rfl)) l hl h

theorem witness_ConstantLoadsRead :
    demo.CanIssue (memNeed mw [regTy (v 3) .b32, (.i 0, 1)] [.i 0]) ∧ mw.ord = .rlx ∧
    (∀ l < 32, (accLanes (fun _ => false) false (demo.active on)).getLsbD l = true →
      demo.Reaches (demo.laneRes l 1 false (demo.addr mw (some (.i 0)) 0 l) 4 [] (fun _ _ => [])) ∧
      demo.ownBusy 0 false l (demo.laneRes l 1 false (demo.addr mw (some (.i 0)) 0 l) 4 [] (fun _ _ => [])).segs = false) ∧
    ∀ e ∈ getD demo.constC (clusterOf (demo.cohCore 0)) [], e.grid ≠ (demo.cohBlk 0).grid := by
  have one : ∀ l < 32, (demo.active on).getLsbD l = true →
      demo.ownBusy 0 false l (demo.seek 1 0x400000 4 [] (fun _ _ => []) l).segs = false := by decide
  refine ⟨ready (by decide), rfl, fun l hl h => ?_, by decide⟩
  rw [(addr_word l hl).1]
  exact ⟨(passes_word 1 (.inl rfl) l hl h).toReaches, one l hl h⟩

theorem witness_AtomicsStart : (demo.cohGrd 0).det = false ∧
    demo.CanIssue (memNeed (ma (.s 4) .z32) [regTy (v 3) .z32, regTy (v 1) .z32] [v 1]) ∧
    demo.CanIssue (memNeed (ma (.s 4) .z32) [regTy (v 1) .z32] [v 1]) ∧
    demo.CanIssue (memNeed mw [regTy (v 3) .b32, regTy (v 1) .b32] [v 3, v 1]) ∧
    (∀ l < 32, (demo.active on).getLsbD l = true → (demo.coh 0).spec l = false ∧
      demo.Passes (demo.seek 3 0x400000 4 (aligned 4 0x400000) (kindPost demo false) l)) := by
  refine ⟨by decide, ready (by decide), ready (by decide), ready (by decide), fun l hl h => ?_⟩
  have k : ∀ l < 32, (demo.active on).getLsbD l = true → (demo.coh 0).spec l = false ∧
      let x := demo.seek 3 0x400000 4 (aligned 4 0x400000) (kindPost demo false) l
      x.cause = 0 ∧ x.walks = [] ∧ x.peers = [] ∧ x.cross = false ∧ (∀ g ∈ x.segs, demo.absentLines g = []) ∧
        ∀ g ∈ x.segs, g.loc ≠ .reg demo.cur.coh := by decide
  obtain ⟨h0, h1, h2, h3, h4, h5, h6⟩ := k l hl h
  exact ⟨h0, ⟨h1, h2, h3, h4, h5⟩, h6⟩

/-- An atomic whose base is a v-register: lane 1's address is not aligned. -/
theorem witness_AtomicsStart_split :
    let s := { demo with cohorts := upd demo.cohorts 0 (fun k => { k with regs := [(192, 0x400000), (193, 0x400002)] }) }
    let m := ma (v 6) .z32
    let to_ := fun l => s.seek 3 (s.addr m none 0 l) 4 (aligned 4 (s.addr m none 0 l)) (kindPost s false) l
    s.MayTrap (s.active on) ∧ (∀ l < 32, (s.active on).getLsbD l = true → s.Settled (to_ l)) ∧ (v 3).isS = false ∧
    s.CanIssue (memNeed m [regTy (v 3) .z32, regTy (v 1) .z32] [v 1]) ∧ s.CanIssue (memNeed m [regTy (v 1) .z32] [v 1]) ∧
    (to_ 0).cause = 0 ∧ (to_ 1).cause ≠ 0 :=
  ⟨⟨by decide, by decide, by decide, by decide⟩, settled_all (by decide), rfl,
    ready (by decide), ready (by decide), by decide, by decide⟩

theorem performs (k : OpKind) (ty : MType) (h : (k, ty) ∈ [(.load, .b32), (.ldc, .b32), (.comp, .b32), (.store, .b32), (.rmw .add, .z32),
    (.cas, .b32), (.atoms .add, .z32)]) :
    ∃ a, (demoOp (opOf k ty)).Performs 0 0 (opOf k ty) a ∧ a.segs = [⟨.mem, 0x400000, 4, false⟩] := by
  have f : ∀ e ∈ [(OpKind.load, MType.b32), (.ldc, .b32), (.comp, .b32), (.store, .b32), (.rmw .add, .z32), (.cas, .b32),
      (.atoms .add, .z32)],
      let s := demoOp (opOf e.1 e.2)
      let o := opOf e.1 e.2
      let a : LaneAcc := ⟨0x400000, [⟨.mem, 0x400000, 4, false⟩], 6, 0, 0⟩
      look s.ops 0 = some o ∧ look o.acc 0 = some a ∧ o.lanes.getLsbD 0 = true ∧ (look s.cohorts o.coh).isSome = true ∧
      (s.laneBlocked 0 o 0 = false ∧ s.arbiterHolds o a = false) ∧ s.pulling 0 0 = false ∧ s.pullsOf o a = [] ∧ s.lateBad o a = none ∧
      (s.ewr = [] ∧ (s.grd (s.blk (s.coh o.coh).block).grid).det = false) ∧
      ((o.dst.filter (fun e => e.2.1 == 0)).map (·.1)).Nodup := by decide
  obtain ⟨h1, h2, h3, h4, h5, h6, h7, h8, h9, h10⟩ := f (k, ty) h
  exact ⟨_, ⟨h1, h2, ⟨by decide, h3⟩, h4, h5.1, h5.2, ⟨h6, h7⟩, h8, rfl, by rw [h9.1]; rfl, .inl h9.2, h10, fun h => (by cases h)⟩, rfl⟩

/-- A misaligned access of lane 0, of which two bytes in memory stand before two in another row of the scratchpad. -/
def pieces : LaneAcc := ⟨0x400002, [⟨.mem, 0x400002, 2, false⟩, ⟨.mem, 0x400004, 2, false⟩], 0, 0, 0⟩

def opPieces (k : OpKind) : Op := { opOf k .b32 with acc := [(0, pieces)] }

theorem performs_pieces : ∀ k ∈ [OpKind.load, .store], (demoOp (opPieces k)).Performs 0 0 (opPieces k) pieces := by
  have f : ∀ k ∈ [OpKind.load, .store],
      let s := demoOp (opPieces k)
      let o := opPieces k
      look s.ops 0 = some o ∧ look o.acc 0 = some pieces ∧ o.lanes.getLsbD 0 = true ∧ (look s.cohorts o.coh).isSome = true ∧
      s.laneBlocked 0 o 0 = false ∧ s.arbiterHolds o pieces = false ∧ s.pulling 0 0 = false ∧ s.pullsOf o pieces = [] ∧
      s.lateBad o pieces = none ∧ (s.ewr = [] ∧ (s.grd (s.blk (s.coh o.coh).block).grid).det = false) ∧
      ((o.dst.filter (fun e => e.2.1 == 0)).map (·.1)).Nodup := by decide
  intro k h
  obtain ⟨h1, h2, h3, h4, h5, h6, h7, h8, h9, h10, h11⟩ := f k h
  exact ⟨h1, h2, ⟨by decide, h3⟩, h4, h5, h6, ⟨h7, h8⟩, h9, rfl, by rw [h10.1]; rfl, .inl h10.2, h11, fun h => (by cases h)⟩

theorem witness_ResultsBind : (∀ k ∈ [OpKind.load, .ldc, .comp], ∃ a,
    (demoOp (opOf k .b32)).Performs 0 0 (opOf k .b32) a ∧ (opOf k .b32).hold = 0 ∧ (opOf k .b32).kind = k ∧
      ∃ g, a.segs = [g] ∧ g.n ≤ 4) ∧
    ((demoOp (opPieces .load)).Performs 0 0 (opPieces .load) pieces ∧ (opPieces .load).hold = 0 ∧ ∃ g h r, pieces.segs = g :: h :: r) := by
  refine ⟨fun k h => ?_, performs_pieces _ (by simp), rfl, _, _, _, rfl⟩
  obtain ⟨a, p, e⟩ := performs k .b32 (by revert h; simp; rintro (h | h | h) <;> simp [h])
  exact ⟨a, p, rfl, rfl, _, e, by decide⟩

theorem witness_StoresAndAtomicsApply_pieces : (demoOp (opPieces .store)).Performs 0 0 (opPieces .store) pieces ∧
    (opPieces .store).hold = 0 ∧ ((⟨.mem, 0x400002, 2, false⟩ : Seg).plain (demoOp (opPieces .store))).isSome = true ∧
    (pieces.segs.map (·.n)).sum ≤ (opPieces .store).ty.bytes := ⟨performs_pieces _ (by simp), rfl, rfl, by decide⟩

theorem witness_StoresAndAtomicsApply : ∀ e ∈ [(OpKind.store, MType.b32), (.rmw .add, .z32), (.cas, .b32)], ∃ a,
    (demoOp (opOf e.1 e.2)).Performs 0 0 (opOf e.1 e.2) a ∧ (opOf e.1 e.2).hold = 0 ∧ (opOf e.1 e.2).kind = e.1 ∧
    a.segs = [⟨.mem, 0x400000, 4, false⟩] ∧ ((⟨.mem, 0x400000, 4, false⟩ : Seg).plain (demoOp (opOf e.1 e.2))).isSome = true ∧
    (opOf e.1 e.2).ord = .rlx ∧ (opOf e.1 e.2).ty.bytes = 4 := by
  intro e h
  obtain ⟨a, p, q⟩ := performs e.1 e.2 (by revert h; simp; rintro (h | h | h) <;> simp [h])
  refine ⟨a, p, rfl, rfl, q, rfl, rfl, ?_⟩
  revert h
  simp
  rintro (h | h | h) <;> subst h <;> decide

theorem witness_GroupAtomicsCombine :
    let o := opOf (.atoms .add) .z32
    let s := demoOp o
    look s.ops 0 = some o ∧ o.acc ≠ [] ∧ sorted o.acc = true ∧
    (∀ e ∈ o.acc, e.1 < 32 ∧ o.lanes.getLsbD e.1 = true ∧ s.Performs 0 e.1 o e.2 ∧ e.2.segs = [⟨.mem, 0x400000, 4, false⟩]) ∧
    (∀ l < 32, o.lanes.getLsbD l = true → (look o.acc l).isSome = true) ∧ (o.dst.map (·.1)).Nodup ∧ o.hold = 0 ∧
    ((⟨.mem, 0x400000, 4, false⟩ : Seg).plain s).isSome = true ∧ o.ord = .rlx ∧ o.ty.bytes = 4 ∧ (1 : LaneMask) &&& o.lanes ≠ 0 := by
  refine ⟨rfl, by decide, by decide, fun e h => ?_, by decide, by decide, rfl, rfl, rfl, rfl, by decide⟩
  obtain ⟨a, p, q⟩ := performs (.atoms .add) .z32 (by simp)
  have h1 : e = (0, a) := by
    have := p.part
    simp [opOf] at h this
    simp [h, look] at *
    exact this
  subst h1
  exact ⟨p.lane.1, p.lane.2, p, q⟩

/-- A dirty sector of the partition, a filled one, and a load of lane 0 in flight. -/
def demoL1 : State := { demoOp (opOf .load .b32) with
  cores := upd demo.cores 0 (fun k => { k with l1 := [⟨0, 0x10000, 7, 0xFF, true, 0⟩, ⟨0, 0x10001, 0, 0, true, 0⟩] }) }

/-- The lanes for which a fence acts. -/
def plainOf (s : State) : LaneMask := maskOf (fun l => (s.active on).getLsbD l && !(s.coh 0).spec l)

theorem witness_FencesAndCacheControl :
    (demo.CanIssue (bareNeed on false (some 0x48)) ∧ plainOf demo ≠ 0 ∧ demo.accessPending 0 (plainOf demo) (fun _ => true) = false) ∧
    (demoL1.CanIssue (bareNeed on false none) ∧ demoL1.accessPending 0 (plainOf demoL1) (fun q => q != .store) = true) ∧
    (demo.CanIssue (lineNeed on (.s 4) (.i 0) none) ∧
      let s := { demo with cur := { demo.cur with lanes := 1 } }
      s.active on = oneLane 0 ∧ s.hit 0 1 false (s.lineVa (.s 4) (.i 0) 0 0) 1 = .seg ⟨.mem, 0x400000, 1, true⟩ 0 ∧ s.l1Cap 0 0 ≠ 0) ∧
    demo.CanIssue (bareNeed on false (some 0x4A)) ∧
    (demoL1.CanIssue (lineNeed on (.s 4) (.i 0) (some 0x4B)) ∧ ∀ l < 32, (demoL1.active on).getLsbD l = true →
      demoL1.cacheable l (demoL1.lineVa (.s 4) (.i 0) 0 l) = (some 0x400000, false) ∧
      (demoL1.core 0).tlb.any (fun e => e.has (demoL1.cohGrd 0).tctx (demoL1.lineVa (.s 4) (.i 0) 0 l)) = true) ∧
    (demo.CanIssue (bareNeed on false (some 0x47)) ∧
      let e : BufEnt := ⟨0, 0, 0, 0, 0, 0, 0x400000, .add, .z32, .rlx, .die, 3, 0⟩
      let s := { demo with cores := upd demo.cores 0 (fun k => { k with obuf := [e] }) }
      s.bufWaits e = false ∧ (s.core 0).obuf.filter (fun e => e.block == (s.coh 0).block && e.coh == (s.coh 0).idx) = [e] ∧
        e.ord = .rlx ∧ (s.grd e.grid).stat = 0 ∧ (s.core 0).l1 = [] ∧ ∀ k ∈ s.cores, k.2.rel = []) :=
  ⟨⟨ready (by decide), by decide, by decide⟩, ⟨ready (by decide), by decide⟩, ⟨ready (by decide), by decide⟩, ready (by decide),
    ⟨ready (by decide), by decide⟩, ready (by decide), by decide⟩

theorem witness_TransactionsBegin :
    demo.CanIssue { bareNeed on true none with regs := [(.v 9, 1)] } ∧
    demo.cur.pc.toNat < (demo.label ((2 : BitVec 29).signExtend 32) 0).toNat ∧ (demo.cohGrd 0).det = false ∧
    demo.lockHeld (demo.cohPart 0) 5 = none ∧
    ∀ l < 32, (demo.active on).getLsbD l = true → ((demo.coh 0).txOf l).isOpen = false ∧ ((demo.coh 0).txOf l).retry = false :=
  ⟨ready (by decide), by decide, by decide, by decide, by decide⟩

/-- Lane 0 issues alone in a transaction with one written sector and one read one: `bytes` are the bytes it has read. -/
def demoTx (fb : Bool) (bytes : BitVec 512) : State := { demo with
  cohorts := upd demo.cohorts 0 (fun k => { k with tx := [(0, ⟨true, fb, false, 5, 2, 1, 0, 0, 9, 0x200008, 0x200040,
    if fb then [] else [⟨0x10000, bytes, 1⟩], if fb then [] else [⟨0x10001, 0xAB, 1⟩], 1⟩)] })
  kiosk := if fb then ⟨1, [(5, .lane 0 0)]⟩ else ⟨1, []⟩
  cur := { demo.cur with lanes := 1 } }

theorem tx_ready : (demoTx false 0).CanIssue (bareNeed on true none) ∧ (demoTx false 1).CanIssue (bareNeed on true none) ∧
    (demoTx true 0).CanIssue (bareNeed on true none) := ⟨ready (by decide), ready (by decide), ready (by decide)⟩

/-- Lane 0 is alone, nothing is in flight or dirty, its logs are undamaged and name different sectors. -/
def txAlone (s : State) : Bool :=
  s.active on == oneLane 0 && s.ops.all (fun o => o.2.coh != 0) && (s.coh 0).spec 0 && (s.dirtySectors 0 0).isEmpty &&
  (s.txBad ((s.coh 0).txOf 0)).isNone && decide (((s.coh 0).txOf 0).wlog.map (·.sector)).Nodup

/-- A lane whose reads are still valid, one whose reads are not, and one in fallback mode. -/
theorem witness_TransactionsEnd :
    demo.CanIssue (.of on [(.v 9, 1)] []) ∧ (demo.CanIssue (bareNeed on true none) ∧ demo.ops.all (fun o => o.2.coh != 0) = true ∧
      ∀ j < 32, (demo.active on).getLsbD j = true → ((demo.coh 0).txOf j).isOpen = false) ∧
    (txAlone (demoTx false 0) = true ∧ (demoTx false 0).txValid (((demoTx false 0).coh 0).txOf 0) = true) ∧
    (txAlone (demoTx false 1) = true ∧ (demoTx false 1).txValid (((demoTx false 1).coh 0).txOf 0) = false) ∧
    ((demoTx true 0).active on = oneLane 0 ∧ (((demoTx true 0).coh 0).txOf 0).isOpen = true ∧
      (((demoTx true 0).coh 0).txOf 0).fb = true ∧ (demoTx true 0).dirtySectors 0 0 = []) :=
  ⟨ready (by decide), ⟨ready (by decide), by decide, by decide⟩, ⟨by decide +kernel, by decide +kernel⟩,
    ⟨by decide +kernel, by decide +kernel⟩, by decide +kernel, by decide +kernel, by decide +kernel, by decide +kernel⟩


def mq : MArgs := ma (.s 6) .b128

theorem witness_QueueAndRingWordsStart :
    demo.CanIssue { memNeed mq [(v 8, 1), regTy (v 16) .b128] [v 16] with disallow := some 0x4E } ∧
    demo.CanIssue { memNeed mq [regTy (v 16) .b128, (v 8, 1)] [] with disallow := some 0x4F } ∧
    demo.CanIssue { memNeed { mq with ty := .b64 } [(v 8, 2)] [] with disallow := some 0x50 } ∧
    (demo.arg mq.base true (lowLane (demo.active on))).toNat + 255 ≤ 255 ∧
    demo.CanIssue { Need.of on [] [(v 3, 1)] with flag := .a, disallow := some 0x66 } ∧
    demo.CanIssue { Need.of on [(v 3, 1)] [] with flag := .b, disallow := some 0x66 } ∧ 1 < (demo.cohGrd 0).nring :=
  ⟨ready (by decide), ready (by decide), ready (by decide), by decide, ready (by decide), ready (by decide), by decide⟩

/-- A queue or ring operation of lane 0 on queue or ring 1, whose status or value goes to v8; queue 1 is `d`. -/
def demoQ (k : OpKind) (d : QDesc) : State := { demoOp { opOf k .b128 with
  acc := [(0, ⟨0, [], 7, 0, 0⟩)]
  dst := [(.v 256, 0, if k = .qpop 1 then 4 else 0)]
  grp := 1 } with queues := [(1, d)] }

/-- Queues without a ring, with room for one more entry, full, and empty. -/
def qNone : QDesc := ⟨0, 0, 0, false, 0, 0, 0, [], []⟩
def qRoom : QDesc := ⟨0x400000, 0, 0, false, 0, 4095, 0x400000, [], List.replicate 4095 0⟩
def qFull : QDesc := ⟨0x400000, 0, 0, false, 0, 4096, 0x400000, [], List.replicate 4096 0⟩
def qOne : QDesc := ⟨0x400000, 0, 0, false, 8, 9, 0x400000, [], [0]⟩

/-- What the statement asks of the operation in flight. -/
def qReady (s : State) : Bool :=
  match look s.ops 0 with
  | some o => o.acc == [(0, ⟨0, [], 7, 0, 0⟩)] && o.lanes == oneLane 0 && o.hold == 0 && !s.laneBlocked 0 o 0 && !s.pulling 0 0 &&
      o.ord == .rlx && (look s.cohorts o.coh).isSome && !(s.grd (s.blk (s.coh o.coh).block).grid).det &&
      decide (o.dst.map (·.1)).Nodup && s.qwaits.isEmpty && (s.coh o.coh).place != .evicted && o.grp == oneLane 0
  | none => false

theorem witness_QueuesAndRingsServe :
    (∀ d ∈ [qNone, qRoom, qFull], qReady (demoQ (.qpush 1) d) = true) ∧
    (qRoom.ring ≠ 0 ∧ qRoom.tail - qRoom.head ≠ 4096 ∧ qRoom.tail < qRoom.head + 4096) ∧ qFull.tail - qFull.head = 4096 ∧
    (∀ d ∈ [qNone, qOne], qReady (demoQ (.qpop 1) d) = true) ∧
    (qOne.head < qOne.tail ∧
      qOne.ents.head? = some (BitVec.ofNat 128 (getBytes (demoQ (.qpop 1) qOne).mem (0x400000 + 16 * 8) 16)) ∧
      (demoQ (.qpop 1) qOne).tagsAt [(0x400000 + 16 * 8) / 64] (.simt 0 0 0 .blk) = []) ∧
    qReady (demoQ (.qcnt 1) qOne) = true ∧
    (qReady (demoQ (.amax 1 true) qNone) = true ∧ (look (demoQ (.amax 1 true) qNone).grids 0).isSome = true) ∧
    qReady (demoQ (.sring 1) qNone) = true := by decide +kernel

/-- v3 ← v1 + v2, and v4 ← v2 + v2 in floating point. -/
def halfI : Half := ⟨1, 7, 3, 1, 0⟩
def halfF : Half := ⟨0x18, 7, 4, 2, 0⟩
/-- v5 ← rcp v2 under flag A. -/
def halfS : Half := ⟨0x28, 7, 5, 2, 0⟩

theorem halfReady (h : Half) (m : h ∈ [halfI, halfF, halfS]) : demo.HalfReady demo h (demo.lanesOfHalf h none) := by
  have f : ∀ h ∈ [halfI, halfF, halfS], (halfIllegal h = 0 ∧ demo.badFlag (halfFlag h) = false) ∧
      (∀ l < 32, (demo.lanesOfHalf h none).getLsbD l = true → ∀ e ∈ halfRegs h, demo.regOk demo.cur.coh l e.1 e.2 = true) ∧
      demo.handlePending (sregsOf [halfB h]) = false ∧ ∀ i ∈ demo.flagOf (halfFlag h), getD (demo.coh demo.cur.coh).cf i 0 < 62 := by
    decide
  obtain ⟨h1, h2, h3, h4⟩ := f h m
  exact ⟨h1, h2, h3, h4⟩

theorem halfReadySplit (e : Half × Bool) (h : e ∈ [(halfI, false), (halfF, true)]) :
    atMend.HalfReady (atMend.openRegion false) e.1 (atMend.lanesOfHalf e.1 (some e.2)) := by
  have f : ∀ e ∈ [(halfI, false), (halfF, true)], (halfIllegal e.1 = 0 ∧ atMend.badFlag (halfFlag e.1) = false) ∧
      (∀ l < 32, (atMend.lanesOfHalf e.1 (some e.2)).getLsbD l = true → ∀ x ∈ halfRegs e.1,
        (atMend.openRegion false).regOk atMend.cur.coh l x.1 x.2 = true) ∧
      atMend.handlePending (sregsOf [halfB e.1]) = false ∧
      ∀ i ∈ atMend.flagOf (halfFlag e.1), getD (atMend.coh atMend.cur.coh).cf i 0 < 62 := by decide
  obtain ⟨h1, h2, h3, h4⟩ := f e h
  exact ⟨h1, h2, h3, h4⟩

theorem witness_PairedWords :
    ((look demo.cohorts 0).isSome = true ∧ demo.cur.stall = false ∧
      (demo.lanesOfHalf halfI none ||| demo.lanesOfHalf halfS none) ≠ 0 ∧ pairBroken halfI halfF = false) ∧
    demo.HalfReady demo halfI (demo.lanesOfHalf halfI none) ∧ demo.HalfReady demo halfS (demo.lanesOfHalf halfS none) ∧
    ((atMend.lanesOfHalf halfI (some false) ||| atMend.lanesOfHalf halfF (some true)) ≠ 0 ∧
      ∀ l < 32, atMend.cur.lanes.getLsbD l = true → (atMend.coh 0).inRegion l = true) ∧
    atMend.HalfReady (atMend.openRegion false) halfI (atMend.lanesOfHalf halfI (some false)) ∧
    atMend.HalfReady (atMend.openRegion false) halfF (atMend.lanesOfHalf halfF (some true)) :=
  ⟨by decide, halfReady _ (by simp), halfReady _ (by simp), by decide, halfReadySplit (halfI, false) (.head _), halfReadySplit (halfF, true) (.tail _ (.head _))⟩

/-- Hart 0 in a transaction of class 7 with one written byte; with lock 7; with neither while another holds lock 7. -/
def hartTx : State := { demo with harts := [(0, { Hart.reset with tx := some ⟨7, 1, 10, 4, [], [(0x400000, 9)], [0x10000], [], [], 0⟩ })] }
def hartLock : State := { demo with
  harts := [(0, { Hart.reset with
    lock := some 7
    lockPart := 31 })]
  kiosk := ⟨1, [(256 * 31 + 7, .hart 0)]⟩ }
def hartWait : State := { demo with
  harts := [(0, { Hart.reset with x := [(11, 7)] })]
  kiosk := ⟨1, [(256 * 31 + 7, .hart 1)]⟩ }

theorem witness_BaseDieWords :
    ((demo.hart 0).tx = none ∧ (demo.hart 0).lock = none ∧ demo.lockHeld (demo.hart 0).part 0 = none) ∧
    ((hartWait.hart 0).tx = none ∧ (hartWait.hart 0).lock = none ∧
      hartWait.lockHeld (hartWait.hart 0).part (((hartWait.hart 0).xr 11).toNat % 256) = some (.hart 1)) ∧
    ((hartLock.hart 0).tx = none ∧ (hartLock.hart 0).lock = some 7 ∧
      hartLock.lockHeld (hartLock.hart 0).lockPart 7 = some (.hart 0)) ∧
    ∃ u, (hartTx.hart 0).tx = some u ∧ sorted u.writes = true := by
  refine ⟨by decide, by decide, by decide, _, rfl, by decide⟩

/-- The restart table lies in the scratchpad. -/
def demoScr : State := { demo with grids := upd demo.grids 0 (fun g => { g with rcd := rcd.set 6 0x00F0000000000000 }) }

theorem witness_TablesLoad :
    let m : MArgs := { ma (.i 0) .b128 with sp := .scr }
    let va := demoScr.addr m (some (.i 0)) 0 0
    let g : Seg := ⟨.bank 0, 0, 16, false⟩
    (demoScr.ops.all (fun o => o.2.coh != 0) = true ∧ (∀ e ∈ demoScr.cores, e.2.rel = []) ∧ (g.plain demoScr).isSome = true) ∧
    (demoScr.CanIssue { memNeed m [(.i 0, 1)] [.i 0] with meldBan := true } ∧ va % 16 = 0 ∧
      demoScr.Passes (demoScr.seek 1 va 16 [] (fun _ _ => []) 0) ∧ (demoScr.seek 1 va 16 [] (fun _ _ => []) 0).segs = [g] ∧
      (∀ l < 32, (demoScr.active m.g).getLsbD l = true → (demoScr.coh 0).spec l = false) ∧ ∀ j < 8, (g.bytes demoScr).testBit (16 * j + 7) = false) ∧
    (demoScr.CanIssue ⟨on, [], [], .off, false, some 0x63⟩ ∧ (demoScr.cohGrd 0).rstt ≠ 0 ∧
      let lbl := ((demoScr.cohGrd 0).rstt + 8 * 3) % 2 ^ 64
      let h : Seg := ⟨.bank 0, 24, 8, false⟩
      demoScr.Passes (demoScr.seek 1 lbl 8 [] (fun _ _ => []) 0) ∧ (demoScr.seek 1 lbl 8 [] (fun _ _ => []) 0).segs = [h] ∧
        h.bytes demoScr % 64 = 0 ∧ canonical (h.bytes demoScr) = true) :=
  ⟨by decide, ⟨ready (by decide), by decide, seekOk_passes (by decide), by decide, by decide, by decide⟩,
    ready (by decide), by decide, seekOk_passes (by decide), by decide, by decide, by decide⟩

/-- An op-table entry 9 of generation 3 whose command is in progress or has ended with status 5. -/
def demoFut (busy : Bool) : State := { demo with
  cores := upd demo.cores 0 (fun k => { k with opt := [(9, ⟨3, busy, 1, if busy then 0 else 2, 5, 2, 0, 0, 0, 0x200008, 1,
    .accz ⟨on, 9, false, false, .blk, 0⟩ 0, [], [], 9, .queued, 0, [], 0, false, false, none, false, none, none⟩)] })
  cohorts := upd demo.cohorts 0 (fun k => { k with sregs := [(9, 0x20030009)] }) }

theorem witness_FuturesAndOpTable :
    Core.blank.freeOpt (fun _ => false) = some (0, 1) ∧
    demo.CanIssue { Need.of on [(v 3, 1)] [(.s 9, 1)] with disallow := some 0x63 } ∧
    demo.CanIssue { Need.of on [] [(.s 9, 1)] with sread := [], disallow := some 0x63 } ∧
    (demo.arg (.s 9) false 0).toNat / 2 ^ 28 % 16 = 0 ∧ (demo.arg (.s 4) false 0).toNat / 2 ^ 28 % 16 = 0 ∧
    (∀ busy, ∃ o, look ((demoFut busy).core 0).opt (((demoFut busy).arg (.s 9) false 0).toNat % 256) = some o ∧ o.busy = busy ∧
      ((demoFut busy).arg (.s 9) false 0).toNat / 2 ^ 28 % 16 = 2 ∧ ((demoFut busy).arg (.s 9) false 0).toNat / 2 ^ 8 % 2 ^ 8 = 0 ∧
      o.block = 0 ∧ o.gen = ((demoFut busy).arg (.s 9) false 0).toNat / 2 ^ 16 % 2 ^ 12) :=
  ⟨by decide, ready (by decide), ready (by decide), by decide, by decide, fun busy => by
    cases busy <;> exact ⟨_, rfl, rfl, by decide, by decide, rfl, by decide⟩⟩


/-- s16 to s19 describe a copy of 64 bytes from scratchpad byte 0 to scratchpad byte 1024, s20 a record, s21 two elements
or rows. -/
def demoEng : State := { demo with cohorts := upd demo.cohorts 0 (fun k => { k with
  sregs := [(16, 0x00F0000000000000), (17, 0x00F0000000000400), (18, 0x100000040), (19, 0), (21, 2)] }) }

theorem witness_CopiesAndTransfersIssue :
    ((9 : BitVec 6) ≠ 0 ∧ demoEng.freeOpt (demoEng.cohCore 0) (demoEng.cohPart 0) = some (0, 1)) ∧
    -- CPY, CPYG with a source stride of 0
    (demoEng.CanIssue (cmdNeed en 0x60 [] (upto 16 4)) ∧
      ((demoEng.dreg 16 2).toNat % 2 ^ 32 ≤ 0x1000000 ∧ (demoEng.dreg 16 2).toNat < 2 ^ 48) ∧
      demoEng.ClearRows 5 (demoEng.dreg 16 0) 1 64 0 ∧ demoEng.ClearRows 6 (demoEng.dreg 16 1) 1 64 0) ∧
    (demoEng.CanIssue (cmdNeed en 0x60 [(.v 6, 2)] (upto 16 4)) ∧ demoEng.ClearAt 6 (demoEng.dreg 16 1) ((lanesOf (demoEng.active on)).map (fun (l : Nat) => l * (0 : Int))) 64 ∧
      ∀ l < 32, (demoEng.active on).getLsbD l = true →
        demoEng.ClearAt 5 (demoEng.dreg 16 0) [(demoEng.arg (.v 6) true l).toInt] 64 ∧
        demoEng.ClearAt 6 (demoEng.dreg 16 1) [l * (0 : Int)] 64) ∧
    -- QNT of two elements to code 1 from code 0
    (demoEng.CanIssue (cmdNeed { en with fs := 1 } 0x65 [] (upto 16 3 ++ optReg 21 ++ optReg 0)) ∧ isTile 1 = true ∧
      demoEng.Clear 5 (demoEng.dreg 16 0) 8 ∧ demoEng.Clear 6 (demoEng.dreg 16 1) 4) ∧
    -- PUT with a record at 0
    (demoEng.CanIssue (cmdNeed en 0x64 [] (upto 16 3 ++ optReg 0)) ∧ ((demoEng.coh 0).sreg 0).toNat % 16 = 0) ∧
    (demoEng.CanIssue (cmdNeed en 0x64 [] (upto 16 4 ++ optReg 0)) ∧ (demoEng.dreg 16 3).toNat % 64 = 0) :=
  ⟨by decide, ⟨ready (by decide), by decide, by unfold State.ClearRows State.ClearAt; decide,
      by unfold State.ClearRows State.ClearAt; decide⟩,
    ⟨ready (by decide), by unfold State.ClearAt; decide, by unfold State.ClearAt; decide⟩,
    ⟨ready (by decide), by decide, by unfold State.Clear State.ClearRows State.ClearAt; decide,
      by unfold State.Clear State.ClearRows State.ClearAt; decide⟩,
    ⟨ready (by decide), by decide⟩, ready (by decide), by decide⟩

/-- The cohort owns slots 3 and 4, both of code 1, and accumulator 5. -/
def demoMat : State := { demoEng with cores := upd demo.cores 0 (fun k => { k with
  slots := [(3, ⟨some 0, 1, 0, 0, [], []⟩), (4, ⟨some 0, 1, 0, 0, [], []⟩)]
  accs := [(5, ⟨some 0, []⟩)] }) }

theorem witness_MatrixCommandsIssue :
    demoMat.freeOpt (demoMat.cohCore 0) (demoMat.cohPart 0) = some (0, 1) ∧ demoMat.mayUse 0 [] [5] = true ∧ demoMat.mayUse 0 [3, 4] [5] = true ∧
    demoMat.CanIssue (cmdNeed en 0x61 [] (sregsOf [.s 3, .i 3])) ∧ demoMat.CanIssue (cmdNeed en 0x61 [] []) ∧
    (demoMat.CanIssue (cmdNeed en 0x62 [] []) ∧
      (let q := demoMat.pairFmt 0 (.mma en 3 4 5) none; pairOk (isMmb (.mma en 3 4 5)) q.1 q.2.2.1) = true) ∧
    -- ACCLD of FP32 rows would leave the scratchpad at its end; from memory it is checked as it is read
    (demoMat.CanIssue (cmdNeed en 0x61 [] ((4 : BitVec 6).toNat :: optReg 0)) ∧ ((demoMat.coh 0).sreg 4).toNat % 4 = 0 ∧
      demoMat.ClearRows 5 ((demoMat.coh 0).sreg 4) 64 256 256) ∧
    (demoMat.CanIssue (cmdNeed { en with fs := 1 } 0x61 [] (optReg 0)) ∧ isTile 1 = true ∧ demoMat.mayUse 0 [3] [5] = true ∧
      unitsOf 1 0 ≤ demoMat.unitsAt 0 3) :=
  ⟨by decide, by decide, by decide, ready (by decide), ready (by decide), ⟨ready (by decide), by decide⟩,
    ⟨ready (by decide), by decide, by unfold State.ClearRows State.ClearAt; decide⟩,
    ready (by decide), by decide, by decide, by decide⟩

/-- Tables at 0x600000 map the page at 0x10000 to 0x400000; `e` is its leaf entry. A lane waits for a walk. -/
def demoWalk (e : Nat) (w : Walk) : State := { demo with
  ctl := { demo.ctl with tctx := [(0, 0x600001)] }
  own := set demo.own 3 ⟨some 0, false, false, false⟩
  mem := putBytes (putBytes (putBytes (putBytes demo.mem 0x600000 8 0x604001) 0x604000 8 0x606001) 0x606000 8 0x608001) 0x608008 8 e
  walks := [(0, w)]
  time := 50000 }

def aWalk (mv : Option Nat) : Walk := ⟨0, 1, 0x200008, 0, 0x10000, mv, none, none⟩

def demoInval : State := { demo with invals := [(3, ⟨0, 0, .space⟩)] }

theorem witness_WalksEnd :
    (look (demoWalk 0x400033 (aWalk none)).walks 0 = some (aWalk none) ∧ (aWalk none).bad = none ∧ (aWalk none).lvl = none) ∧
    ((demoWalk 0x400033 (aWalk none)).walkOn 0 0 0x10000 = .ok ⟨0, 0x10000, 0x10000, 0x400000, 0, 0, true, true, false⟩ 0x608000 ∧
      (⟨0, 0x10000, 0x10000, 0x400000, 0, 0, true, true, false⟩ : TlbE).has 0 0x10000 = true) ∧
    (demoWalk 0 (aWalk none)).walkOn 0 0 0x10000 = .bad 0x01 0 ∧
    (demoWalk (0x400033 + 2 ^ 52) (aWalk none)).walkOn 0 0 0x10000 = .mv 0 ∧
    ((demoWalk (0x400033 + 2 ^ 52) (aWalk (some 10000))).moving 0 0x10000 = false ∧
      10000 + 40000 ≤ (demoWalk (0x400033 + 2 ^ 52) (aWalk (some 10000))).time) ∧
    -- a group at 0x10000 waits for its fetch
    (let w : Walk := ⟨0, 1, 0x10000, 0, 0x10000, none, none, none⟩
     clauseAt w.pc = clauseAt (BitVec.ofNat 64 w.va) ∧
      (demoWalk 0 w).walks.filter (fun e => e.2.coh == w.coh && e.2.pc == w.pc) = [(0, w)]) := by decide +kernel

theorem witness_TlbInvalidations : (demo.tctxEn 0 = true ∧ demo.callRoom (demo.tctxPart 0) = true) ∧
    look demoInval.invals 3 = some ⟨0, 0, .space⟩ ∧ demoInval.inFlight 0 (demoInval.dropped ⟨0, 0, .space⟩) = false ∧
    (∀ w ∈ demoInval.ewr, w.part ≠ 0) ∧
    -- a load of the address space is on its way
    { demoDiv with invals := [(3, ⟨0, 0, .space⟩)] }.inFlight 0 [] = true := by decide +kernel

/-- An access on its way to rank 1, which does not exist, and to rank 0; a pull of release set 6. -/
def demoPeer (rank : Nat) : State := { demo with
  transit := [(0, ⟨0, 0x200008, rank, [(0, 0x00F1000000000000, 4)], false⟩)]
  cores := upd demo.cores 0 (fun k => { k with rel := [⟨6, 0, 0x10000, .die, 0, 0, [0x10000], 0⟩] })
  pulls := [(0, ⟨0, 1, 0, 6, true⟩)]
  time := 20000 }

/-- A copy of one row of 64 bytes from scratchpad byte 0 to scratchpad byte 1024, in progress in entry 9. -/
def demoCopy : State := { demo with cores := upd demo.cores 0 (fun k => { k with opt := [(9, ⟨3, true, 1, 0, 0, 1, 0, 0, 0, 0x200008, 1,
  .cpy en 16, [0x00F0000000000000, 0x00F0000000000400, 0x100000040, 0], [], 9, .queued, 0, [], 0, false, false, none, false, none, none⟩)] }) }

/-- What the statement asks of the line that lands. -/
def landOk (s : State) (line : Nat) : Bool :=
  match s.optOf 0 9 with
  | some o => o.busy && o.st == .queued && !o.cancel && !o.landed.contains line && !s.cmdBlocked 0 o &&
      (let todo := ((o.pieces).drop o.prog).filter (fun a => (ownLines (s.blk o.block) a.2.1 a.2.2).contains line)
       !todo.isEmpty && decide ((State.copyRun 0 o false false todo 0 (s.engAcquire 0 o)).1 = .ok) && engOf o.instr == 1)
  | none => false

theorem witness_PeersLinesAndPulls_copy : landOk demoCopy 16 = true := by decide +kernel

theorem witness_PeersLinesAndPulls :
    (∃ b, (demoPeer 0).blkOfRank ((demoPeer 0).cohBlk 0).placed 0 = some b ∧ b.2.exited = false ∧ b.2.place = .resident) ∧
    (demoPeer 1).blkOfRank ((demoPeer 1).cohBlk 0).placed 1 = none ∧
    (∃ r, ((demoPeer 0).core 0).rel.find? (fun x => x.id == 6) = some r ∧ r.time + 20000 ≤ (demoPeer 0).time) :=
  ⟨⟨(0, demo.blk 0), rfl, rfl, rfl⟩, by decide, ⟨_, rfl, by decide⟩⟩

theorem witness_LocksLimitsAndHartTraps :
    demo.lockHeld 0 7 = none ∧
    (((demoTx false 0).coh 0).spec 0 = true ∧ ((demoTx false 0).coh 0).awake.getLsbD 0 = true ∧
      (((demoTx false 0).coh 0).txOf 0).start + 1000 * ((getD demo.ctl.txctl 0 100).toNat % 2 ^ 16) ≤
        ({ demoTx false 0 with time := 100001 } : State).time) ∧
    (∃ u, (hartTx.hart 0).tx = some u ∧
      u.start + 1000 * ((getD demo.ctl.txctl 31 100).toNat % 2 ^ 16) ≤ ({ hartTx with time := 100000 } : State).time) ∧
    31 < 32 := by
  refine ⟨by decide, by decide +kernel, ⟨_, rfl, by decide⟩, by decide⟩

/-- Hart 0 of Arbor's group, with 0x400000 in x10 and 3 in x11. -/
def hartMem (resv : Option (Nat × Nat)) : State := { demo with
  harts := [(0, { Hart.reset with x := [(10, 0x400000), (11, 3)], resv := resv })] }

theorem witness_HartAccesses :
    ((demo.hart 31).waitLock = none ∧ 31 < 32) ∧
    (((hartMem none).hart 0).tx = none ∧ (∀ e ∈ (hartMem none).cores, e.2.rel = []) ∧
      (hartMem none).hartHit ((hartMem none).hart 0) 1 0x400000 8 = .mem 0x400000 ∧
      (hartMem none).hartHit ((hartMem none).hart 0) 2 0x400000 8 = .mem 0x400000 ∧
      (hartMem none).hartHit ((hartMem none).hart 0) 3 0x400000 8 = .mem 0x400000 ∧
      (hartMem none).hartHit ((hartMem none).hart 0) 1 0x19400000000 8 = .exc 5 ∧
      (((hartMem none).hart 0).xr 10).toNat % 8 = 0) ∧
    ((hartMem (some (0x400000, 8))).hart 0).resv = some (0x400000, 8) ∧ hartTx.hartHit (hartTx.hart 0) 1 0x40000000000 8 = .io 0x40000000000 ∧
    (∃ u, (hartTx.hart 0).tx = some u ∧ (∀ e ∈ hartTx.harts, e.1 ≠ 0 → e.2.tx = none) ∧
      ∀ x ∈ sectors 0x400000 8, noRoom u.wlines x = false) :=
  ⟨by decide, by decide, by decide, by decide, ⟨_, rfl, by decide, by decide⟩⟩


/-- A virtual function that has negotiated, and a launch record at virtual address 0x10000. -/
def demoVf : State :=
  let s := demoWalk 0x400033 (aWalk none)
  { s with
    mem := putBytes s.mem 0x400000 256 (rcd.foldr (fun w a => w.toNat + 2 ^ 64 * a) 0)
    svc := { s.svc with vfs := [(0, ⟨true, 0x300000000, [⟨1, 0, 0x0870, 0, 5, 0, 1⟩], 0, [⟨0, 1, 0, 0, 0⟩], false, 0⟩)] }
    walks := [] }

/-- A grid that waits for the flag at 0x10000, whose byte is `v`. -/
def demoDep (v : Nat) : State :=
  let s := demoWalk 0x400033 (aWalk none)
  { s with
    mem := putBytes s.mem 0x400000 1 v
    walks := []
    grids := [(0, { demo.grd 0 with state := .depwait, deps := [0x10000] })] }

/-- The same page has MV = 1 and its region is being moved. -/
def demoMv : State := { demoWalk (0x400033 + 2 ^ 52) (aWalk none) with walks := [] }

def demoDrain : State := { demo with grids := upd demo.grids 0 (fun g => { g with state := .draining }) }

/-- A trap record of lane 0 waits; TRAPQ of partition 0 stands at 0x400000. -/
def demoTrap (base : DWord) : State := { demo with
  traps := ⟨[⟨0, 9, 1, 0x28, 0, 0, 1, 0x200008, 0, 0, false, false⟩], [⟨0, 9, 0, List.replicate 8 7⟩],
    [(0, ⟨base, 4100, 8⟩)], [(0, 10)], []⟩
  cohorts := upd demo.cohorts 0 (fun k => { k with parked := 1, tid := [(0, 9)] }) }

/-- What reading the launch record at 0x10000 comes to: its cause, where it is read. -/
def readCode (s : State) : Option Nat :=
  match s.readLaunch 0 0x10000 0 0 0 with
  | .ok x => some x.2.1
  | .error _ => none

theorem witness_LaunchesAcceptedAndRetired :
    ((demoVf.vf 0).featuresOk = true ∧ demoVf.tctxEn 0 = true) ∧
    ((∀ e ∈ demoVf.grids, e.2.state ∉ [.depwait, .count, .reswait, .opwait]) ∧ (1 : DWord).toNat % 64 ≠ 0 ∧ 0 ∈ demoVf.vfsOf (demoVf.tctxPart 0) ∧ (demoVf.vf 0).events.length < 256) ∧
    -- a valid record, and one whose page is being moved
    readCode demoVf = some 0 ∧ (∃ u, demoMv.readLaunch 0 0x10000 0 0 0 = .error u) ∧
    (∀ v ∈ [0, 1, 2, 3], ((demoDep v).schedRead (.grid 0) 0 0 0x10000 8).1 = .val v) ∧
    ((demoMv.schedRead (.grid 0) 0 0 0x10000 8).1 = .wait ∧ (demo.schedRead (.grid 0) 0 0 0x10000 8).1 = .bad) ∧
    ((demoDrain.grd 0).state = .draining ∧ demoDrain.running 0 = true ∧ demoDrain.ops = [] ∧ demoDrain.transit = [] ∧
      (∀ c ∈ demoDrain.cores, c.2.obuf = [] ∧ ∀ e ∈ c.2.opt, e.2.busy = true → e.2.grid ≠ 0) ∧
      (∀ x ∈ demoDrain.traps.info, x.grid = 0 → x.written = true) ∧
      -- a record of the grid that is not written
      ∃ x ∈ (demoTrap 0x400000).traps.info, x.grid = 0 ∧ x.written = false) ∧
    demoVf.callRoom (demoVf.tctxPart 0) = true := by
  have w := fun u n => Laws.schedRead_first demoMv u 0 0 0x10000 n rfl
  refine ⟨by decide +kernel, by decide +kernel, by decide +kernel, ?_, by decide +kernel, ⟨w _ _ (by decide +kernel),
    by decide +kernel⟩, by decide +kernel, by decide +kernel⟩
  have e : (demoMv.schedRead (.submit 0) 0 0 0x10000 256).1 = .wait := w _ _ (by decide +kernel)
  exact ⟨_, by simp only [State.readLaunch, show demoMv.tctxPart 0 = 0 by decide, e]; rfl⟩

theorem witness_OperatingPoints : 0 < Config.dies ∧ 3 < Config.dies ∧
    (let s := { demo with ctl := { demo.ctl with want := [(0, 7)], point := [(0, 7)] } }
     ∀ d < Config.dies, getD s.ctl.want d 0 ≤ 15 ∧ getD s.ctl.point d 0 ≤ getD s.ctl.want d 0) := by decide

/-- The grid has not been placed. -/
def demoPlace : State := { demo with
  grids := upd demo.grids 0 (fun g => { g with state := .placing, done := [] })
  placed := []
  blocks := []
  cohorts := [] }

theorem witness_ClustersPlaced :
    (look demoPlace.grids 0).isSome = true ∧ demoPlace.canPlace 0 0 0 0 0 [0] = true ∧ [0].any (demoPlace.wantsBack 0) = false ∧
    (demoPlace.grd 0).gang = none := by decide +kernel

/-- Target list 0 holds one entry and is flushed. -/
def demoSpawn : State := { demo with
  grids := upd demo.grids 0 (fun g => { g with rcd := rcd.set 2 0x0004000800800002 })
  blocks := upd demo.blocks 0 (fun b => { b with
    spawnQ := [⟨0x200000, 3, [8], none⟩]
    lists := [(0x200000, true)]
    winRows := [0, 8]
    slots := [0, 1] }) }

/-- The grid is bound to launch queue 1, whose one entry is `e`; no cohort runs. -/
def demoLq (e : Nat) : State := { demo with
  mem := putBytes demo.mem 0x400000 16 e
  grids := upd demo.grids 0 (fun g => { g with rcd := rcd.set 3 0x01000004, bound := true })
  cohorts := []
  blocks := upd demo.blocks 0 (fun b => { b with winRows := [0], slots := [0] })
  queues := [(1, { qOne with bound := true, head := 0, tail := 1, ents := [BitVec.ofNat 128 e] })] }

/-- A second cohort of the block waits on its pipe without a position. -/
def demoTwo : State := { demo with
  blocks := upd demo.blocks 0 (fun b => { b with winRows := [0, 8], slots := [0, 1] })
  time := 5000
  cohorts := set demo.cohorts 1 { demo.coh 0 with idx := 1, active := false, waitPos := some 0 } }

/-- The Belvedere has found lane 1 where it is since time 0, lane 0 has issued since; the others have exited. -/
def demoStall : State := { demo with
  time := 20000000
  cohorts := upd demo.cohorts 0 (fun k => { k with
    pc := [(0, 0x200008), (1, 0x200040)]
    exited := 0xFFFFFFFC
    watch := [(1, 0)]
    since := [(0, 1)] }) }

/-- What the statement asks of the queue and the block. -/
def lqReady (e : Nat) : Bool :=
  let s := demoLq e
  let d := s.queue 0 1
  d.bound && d.head < d.tail && (s.grd 0).part == 0 && (s.grd 0).bound && (s.grd 0).lqn == 1 && s.running 0 && !(s.grd 0).aborted &&
    s.cores.all (fun x => x.2.rel.isEmpty) && getBytes s.mem (d.ringAt d.head) 16 == e && d.ents.head? == some (BitVec.ofNat 128 e) &&
    s.lqBlock 0 d == some 0 && s.idxFree 0 0 && (look s.grids 0).isSome &&
    match s.takeRoom 0 0 with
    | some u => getBytes u.mem (d.ringAt d.head) 16 == e
    | none => false

theorem witness_CohortsComeAndGo_queue : lqReady (2 ^ 64 - 1) = true ∧ lqReady 5 = true := by decide +kernel

theorem witness_CohortsComeAndGo_spawn :
    (demoSpawn.blk 0).lists[0]? = some (0x200000, true) ∧ demoSpawn.lowIdx 0 = some 1 ∧ (demoSpawn.blk 0).exited = false ∧
    (demoSpawn.blk 0).place = .resident ∧ demoSpawn.running 0 = true ∧ demoSpawn.mayForm 0 (0x200000, true) = true := by
  decide +kernel

theorem witness_CohortsComeAndGo_position :
    let u := demoTwo.noted.tick
    let since := fun (k : Cohort) => k.waitPos.getD u.time
    ((u.coh 0).active = true ∧ (u.coh 0).place = .resident ∧ u.samePipe 0 1 = true ∧ u.posWaits 1 = true) ∧
    ((u.coh 0).posTime + 5000 ≤ u.time ∧ ∃ x, (u.coh 1).waitPos = some x ∧ x + 5000 ≤ u.time) ∧
    ∀ e ∈ u.cohorts, u.samePipe e.1 1 = true → u.posWaits e.1 = true → since (u.coh 1) ≤ since e.2 := by
  have t : 5000 ≤ demoTwo.noted.tick.time := by simp only [State.tick]; exact Nat.le_trans (by decide +kernel) (Nat.le_add_right _ _)
  refine ⟨by decide +kernel, ⟨Nat.le_trans (by decide +kernel) t, 0, by decide +kernel, by omega⟩, ?_⟩
  have w : (demoTwo.noted.tick.coh 1).waitPos = some 0 := by decide +kernel
  intro e _ _ _
  simp only [w, Option.getD_some]
  exact Nat.zero_le _

theorem witness_CohortsComeAndGo_stall :
    let u := demoStall.noted.tick
    let k := u.coh 0
    let since := fun (l : Nat) => getD k.watch l u.time
    (pte (demoStall.stallctl 0) 31 1 = 1 ∧ k.place = .resident ∧ demoStall.running (demoStall.cohPart 0) = true ∧ k.stalled = 0) ∧
    2 ∈ u.stallSets 0 ∧
    (∀ l < 32, (2 : LaneMask).getLsbD l = true →
      since l + 1000 * pte (demoStall.stallctl (demoStall.cohPart 0)) 0 20 < u.time) ∧
    ∃ j < 32, (2 : LaneMask).getLsbD j = false ∧ k.live.getLsbD j = true ∧ k.exited.getLsbD j = false ∧
      ∀ l < 32, (2 : LaneMask).getLsbD l = true → since l < getD k.since j 0 := by
  have h0 : 20000000 ≤ demoStall.noted.tick.time := by
    simp only [State.tick]; exact Nat.le_trans (by decide +kernel) (Nat.le_add_right _ _)
  have h1 : 1000 * pte (demoStall.stallctl (demoStall.cohPart 0)) 0 20 = 10000000 := by decide +kernel
  have one : ∀ l < 32, (2 : LaneMask).getLsbD l = true → l = 1 := by decide
  have w : look (demoStall.noted.tick.coh 0).watch 1 = some 0 := by decide +kernel
  refine ⟨by decide +kernel, by decide +kernel, ?_, 0, by decide, by decide, by decide +kernel, by decide +kernel, ?_⟩
  · intro l hl m
    rw [one l hl m, h1]
    simp only [getD, w, Option.getD_some]
    omega
  · intro l hl m
    rw [one l hl m]
    simp only [getD, w, Option.getD_some]
    exact (by decide +kernel : 0 < (look (demoStall.noted.tick.coh 0).since 0).getD 0)

/-- The cohort waits at a barrier; another block of the partition needs its rows. -/
def demoEvict : State := { demo with
  cohorts := upd demo.cohorts 0 (fun k => { k with barHold := (List.range 32).map (fun l => (l, ⟨0, false⟩)) })
  ctl := { demo.ctl with evictArea := [(0, 0x800000)], cshare := put demo.ctl.cshare 0 (BitVec.ofNat 64 (2 ^ 40 + 1 * 2 ^ 33 + 32 * 2 ^ 20 + 768 * 2 ^ 10 + 32 * 2 ^ 44 +
    8 * 2 ^ 50 + 32 * 2 ^ 54)) 0 }
  grids := set demo.grids 1 { demo.grd 0 with state := .placing, done := [] } }

/-- The first cohort has been evicted and nothing holds it. -/
def demoOut : State := { demo with
  blocks := upd demo.blocks 0 (fun b => { b with winRows := [noRow], slots := [noSlot] })
  cohorts := upd demo.cohorts 0 (fun k => { k with place := .evicted, active := false }) }

theorem witness_CohortsEvictedAndRestored :
    (let u := demoEvict.tick
     look demoEvict.ctl.evictArea 0 = some 0x800000 ∧ pte (demoEvict.schedctl 0) 16 1 = 1 ∧ demoEvict.running 0 = true ∧
      u.evictable 0 = true ∧ u.blockedLong 0 = true ∧ (∃ e ∈ (u.evict 0).grids, e.2.part = 0 ∧ e.2.serves 0 = true ∧
        u.blockFit e.2 0 = none ∧ ((u.evict 0).blockFit e.2 0).isSome = true)) ∧
    look demo.ctl.evictArea 0 = none ∧
    ((demoOut.coh 0).place = .evicted ∧ demoOut.running 0 = true ∧ (demoOut.coh 0).absent = [] ∧
      (demoOut.blk 0).winRows[(demoOut.coh 0).idx]? = some noRow ∧ (∃ m ∈ demoOut.groups 0, demoOut.waitsFor 0 m = false) ∧
      (demoOut.restore 0).isSome = true) := by decide +kernel

theorem witness_TrapQueues : 0 < Config.parts ∧ demo.callRoom 0 = true ∧
    (let mine := fun (a : Nat) => demo.isLocal a = true ∧ regionOf (paOff a) = .hbm ∧ (demo.ownAt a).owner = some 0
     0x400000 % 4096 = 0 ∧ 0x400000 < 2 ^ 52 ∧ mine (demo.norm 0x400000) ∧ mine (demo.norm 0x400000 + 0x3FFFF)) ∧
    (((demoTrap 0x400000).trapq 0).head ≤ 8 ∧ 4100 ≤ ((demoTrap 0x400000).trapq 0).tail) ∧
    ((demoTrap 0x400000).traps.pend.find? (fun p => p.part == 0)).isSome = true ∧
    (((demoTrap 0x400000).trapq 0).base ≠ 0 ∧ (demoTrap 0x400000).running 0 = true ∧
      ((demoTrap 0x400000).trapq 0).tail - ((demoTrap 0x400000).trapq 0).head < Config.trapRing ∧
      (demoTrap 0x400000).outstanding 0 < 64 ∧ ∀ i ∈ (demoTrap 0x400000).traps.info, ((demoTrap 0x400000).grd i.grid).stat = 0) ∧
    (((demoTrap 0).trapq 0).base = 0 ∧ ∀ n ∈ (demoTrap 0).vfsOf 0, ∀ e ∈ ((demoTrap 0).vf n).events, e.kind ≠ 5) := by decide +kernel

/-- The record of lane 0 has been written with a cause. -/
def demoReply (cause : Nat) : State := { demoTrap 0x400000 with
  traps := { (demoTrap 0x400000).traps with info := [⟨0, 9, 1, cause, 0, 0, 1, 0x200008, 0, 0, true, false⟩], pend := [] } }

theorem witness_TrapsAnswered :
    (∀ cause ∈ [0x01, 0x28, 0x20], let s := demoReply cause
      ∃ r, s.traps.info.find? (fun i => i.part == 0 && i.tid == 9 && i.written) = some r ∧ r.part = 0 ∧ r.tid < 2 ^ 32 ∧ r.kind = 1 ∧
        r.cause = cause ∧ s.parkedUnder r = 1 ∧ (s.running 0 = true ∧ ∀ h ∈ s.traps.held, h.part ≠ 0) ∧
        (s.coh 0).live.getLsbD 0 = true ∧ (s.coh 0).exited.getLsbD 0 = false) ∧
    ({ demo with shares := [] } : State).running 0 = false ∧
    (canonical 0x200040 = true ∧ 0x200040 % 8 = 0) ∧
    -- nothing of the reply must wait; or the lane holds the lock of its class while an access of it is on its way
    ((demoReply 0x20).callRoom 0 = true ∧ (∀ i ∈ (demoReply 0x20).traps.info, (demoReply 0x20).NoArea i.coh) ∧
      ∀ action < 4, (demoReply 0x20).fbWaits ⟨0, 9, 1, 0x20, 0, 0, 1, 0x200008, 0, 0, true, false⟩ 1 action = false) ∧
    ({ demoTx true 0 with ops := [(0, opOf .load .b32)] } : State).fbWaits
      ⟨0, 9, 1, 0x20, 0, 0, 1, 0x200008, 0, 0, true, false⟩ 1 3 = true ∧
    -- 64 calls are outstanding
    ({ demo with invals := (List.range 64).map (fun n => (n, ⟨0, 0, .space⟩)) } : State).callRoom 0 = false := by
  refine ⟨?_, by decide, by decide, ⟨by decide +kernel, by unfold State.NoArea; decide +kernel, by decide +kernel⟩,
    by decide +kernel, by decide +kernel⟩
  intro cause h
  have f : ∀ cause ∈ [0x01, 0x28, 0x20], let s := demoReply cause
      let r : TrapInfo := ⟨0, 9, 1, cause, 0, 0, 1, 0x200008, 0, 0, true, false⟩
      s.traps.info.find? (fun i => i.part == 0 && i.tid == 9 && i.written) = some r ∧ r.tid < 2 ^ 32 ∧
        s.parkedUnder r = 1 ∧ (s.running 0 = true ∧ ∀ h ∈ s.traps.held, h.part ≠ 0) ∧ (s.coh 0).live.getLsbD 0 = true ∧ (s.coh 0).exited.getLsbD 0 = false := by decide +kernel
  obtain ⟨h1, h2, h3, h4, h5, h6⟩ := f cause h
  exact ⟨_, h1, rfl, h2, rfl, rfl, h3, h4, h5, h6⟩

/-- The page at 0x10000 lies in the vault, where a queue's ring may be, the one at 0x20000 in HBM4E. -/
def demoRing : State :=
  let s := demoWalk (2 ^ 39 + 2 ^ 9 + 0x33) (aWalk none)
  { s with
    own := set s.own 0x40000 ⟨some 0, false, false, false⟩
    mem := putBytes s.mem 0x608010 8 0x400033
    walks := [] }

theorem witness_ServiceCalls : demo.callRoom 0 = true ∧ ((getD demo.own 2 .blank).owner = some 0 ∧ demo.frameMoves 2 = false) ∧
    (getD demo.own 9 .blank).owner ≠ some 0 ∧ (demo.ownable 9 = true ∧ demo.frameMoves 9 = false ∧ (getD demo.own 9 .blank).owner = none) ∧
    (demo.ownable 2 = true ∧ demo.frameBusy 2 = false) ∧ demo.ownable (2 ^ 31) = false ∧ 0 < Config.parts ∧ 1023 < 1024 ∧
    ((demo.queue 0 255).bound = false ∧ (demo.queue 0 255).head = (demo.queue 0 255).tail) ∧
    (let s := { demo with queues := [(255, { qOne with bound := true })] }
     (s.queue 0 255).bound = true) ∧
    (demo.grantedRegions < 0x100000 ∧ ∀ w ∈ demo.ewr, ∀ i < w.n, (w.pa + i) / 2 ^ 21 = w.pa / 2 ^ 21) ∧
    -- a ring and a spill region that queue 255 may take, and a ring whose page is being moved
    (demoRing.callCtx 0 = some 0 ∧ demoRing.ringPages 0 0 0x10000 65536 = some [2 ^ 39] ∧ demoRing.isLocal (2 ^ 39) = true ∧
      regionOf (paOff (2 ^ 39)) = .vault ∧ demoRing.ringPages 0 0 0x20000 (16 * 64) = some [0x400000] ∧
      demoRing.isLocal 0x400000 = true ∧ regionOf (paOff 0x400000) = .hbm) ∧
    (demoMv.callCtx 0 = some 0 ∧ pagesMove (demoMv.ringParts 0 0 0x10000 65536) = true ∧
      (demoMv.mvMeet (.queue 0 255) 0 (demoMv.ringParts 0 0 0x10000 65536)).1 = true) :=
  ⟨by decide +kernel, by decide +kernel, by decide +kernel, by decide +kernel, by decide +kernel, by decide +kernel,
    by decide +kernel, by decide +kernel, by decide +kernel, by decide +kernel, by decide +kernel, by decide +kernel,
    by decide +kernel, by decide +kernel, Laws.mvMeet_first _ _ _ _ (by decide +kernel) rfl⟩

theorem witness_ControlRegisters : 63 < 64 ∧ 19 < Config.parts ∧ 19 < 20 ∧ demo.svc.logWait = [] ∧
    -- partition 0 is disabled while it has its turn, and is left as it is
    (demo.onShare (demo.shareOf 0) 0 = true ∧ demo.pctlOk 0 0x100 = true ∧ (demo.share (demo.shareOf 0)).phase = .idle ∧
      (demo.share (demo.shareOf 0)).running = some 0) ∧
    (demo.onShare (demo.shareOf 1) 1 = false ∧ demo.pctlOk 1 0x180 = true) ∧
    demo.pctlOk 1 (max (2 ^ 8) (0x100)) = true ∧ (∃ w, demo.pctlOk 1 w = false) ∧
    demo.cshareOk 1 0 = true ∧ (∃ w, demo.cshareOk 1 w = false) :=
  ⟨by decide, by decide, by decide, by decide, by decide +kernel, by decide +kernel, by decide +kernel, ⟨0x1F, by decide +kernel⟩, by decide +kernel, ⟨oneShare.toNat, by decide +kernel⟩⟩


/-- Entry 9 of the op table holds command `i` of engine `eng` with descriptor `desc`, in progress. -/
def cmdOpt (eng : Nat) (i : Instr) (desc : List DWord) (cancel fail : Bool) : Opt :=
  ⟨3, true, 1, 0, 0, eng, 0, 0, 0, 0x200008, 1, i, desc, [], 9, .queued, 0, [], 1, cancel, fail, none, false, none, none⟩

def demoCmd (eng : Nat) (i : Instr) (desc : List DWord) (cancel fail : Bool) : State := { demoMat with
  cores := upd demoMat.cores 0 (fun k => { k with opt := [(9, cmdOpt eng i desc cancel fail)] })
  cohorts := upd demoMat.cohorts 0 (fun k => { k with handles := [(9, 9)] }) }

/-- Whether the hypotheses that every clause shares hold. -/
def cmdOk (s : State) : Bool :=
  match s.optOf 0 9 with
  | some o => o.busy && o.fin.isNone && (match o.st with | .pageFault _ => false | _ => true) &&
      (o.cancel || o.fail || !s.cmdBlocked 0 o)
  | none => false

/-- 64 rows of zeros in the scratchpad, 8 bytes each. -/
def fillOk (s : State) (l : List (Nat × Nat)) : Bool :=
  match s.optOf 0 9 with
  | some o => decide ((State.engReads 0 o l (s.engAcquire 0 o)).1 = .ok)
  | none => false

theorem witness_EnginesComplete :
    (let o := cmdOpt 2 (.accz en 5) [] true false
     cmdOk (demoCmd 2 (.accz en 5) [] true false) = true ∧ o.begun = false ∧ o.rows = []) ∧ cmdOk (demoCmd 2 (.accz en 5) [] false true) = true ∧
    cmdOk (demoCmd 2 (.accz en 5) [] false false) = true ∧
    (let s := demoCmd 2 (.accld en 4 5 5) [0x00F0000000000000, 0] false false
     cmdOk s = true ∧ fillOk s ((List.range 64).map (fun (_ : Nat) => (0x00F0000000000000, 256))) = true) ∧
    cmdOk (demoCmd 2 (.mma en 3 4 5) [64, 64, 64, 0] false false) = true ∧
    cmdOk (demoCmd 2 (.mmb en 3 4 5) [64, 64, 64, 0] false false) = true := by decide +kernel

/-- Cohort 0 claims the slots of mask `m` with `u` units where the share holds `ns` slots and slot 4 is of cohort `c`. -/
def demoClaim (m ns c : Nat) (t : Bool) (u : BitVec 2) : State :=
  let s := demoCmd 2 (.omclm en (.i 0) (.i 0) t u) [BitVec.ofNat 64 m, 0] false false
  let cs := 2 ^ 40 + 768 * 2 ^ 10 + 32 * 2 ^ 20 + ns * 2 ^ 44 + 8 * 2 ^ 50 + 32 * 2 ^ 54
  { s with
    ctl := { s.ctl with cshare := put s.ctl.cshare 0 (BitVec.ofNat 64 cs) 0 }
    cores := upd s.cores 0 (fun k => { k with slots := [(4, ⟨some c, 1, 0, 0, [], []⟩)] }) }

def claims (m ns c : Nat) (t : Bool) (u : BitVec 2) (d : Nat) : Bool :=
  let s := demoClaim m ns c t u
  match s.optOf 0 9 with
  | some o => o.busy && !s.cmdBlocked 0 o && s.claimNow 0 o t u.toNat == d
  | none => false

theorem witness_EnginesComplete_claims :
    demoMat.cohorts.all (fun x => x.2.isOver == false) = true ∧
    claims 8 32 0 false 1 0 = true ∧ claims 0x8000 15 0 false 0 1 = true ∧ claims 0xFFFFFFFF 32 0 false 3 2 = true ∧
    claims 16 32 1 true 0 3 = true ∧ cmdOk (demoCmd 2 (.omrel en (.i 8) (.i 32)) [8, 32] false false) = true := by decide +kernel

/-- A fill of slot 3 with 64 rows of 64 bytes at scratchpad byte 0, in format slot 1. -/
theorem witness_EnginesComplete_fill :
    let s := demoCmd 1 (.cpym { en with fs := 1 } 4 5 3) [0x00F0000000000000, 0] false false
    cmdOk s = true ∧ (∀ o ∈ s.optOf 0 9, o.eng = 1 ∧ o.st ≠ .landing ∧ fillOk s (o.fillRows 1 32) = true) := by decide +kernel

def copyOk (s : State) : Bool :=
  match s.optOf 0 9 with
  | some o => cmdOk s && (o.pieces.drop o.prog == [(0x00F0000000000000, 0x00F0000000000400, 64)]) && o.landed.isEmpty &&
      (s.engWhere 0 o false 5 0x00F0000000000000 64 == (.ok, [⟨.bank 0, 0, 64, false⟩])) &&
      (s.engWhere 0 o false 6 0x00F0000000000400 64 == (.ok, [⟨.bank 0, 1024, 64, false⟩])) &&
      (s.cohsOf o.block).any (fun x => x.2.isOver == false) && (s.coh o.coh).place != .evicted
  | none => false

theorem witness_EnginesComplete_copy :
    copyOk (demoCmd 0 (.cpy en 16) [0x00F0000000000000, 0x00F0000000000400, 0x100000040, 0] false false) = true := by decide +kernel

/-- A fabric command; page 0x600000 lies in package 4, whose region is exported. -/
def demoRemote (i : Instr) (desc : List DWord) : State :=
  let s := demoCmd 4 i desc false false
  { s with
    ctl := { s.ctl with dtid := [(5, 0), (65536 * 4 + 5, 0)] }
    own := set s.own (4 * 2 ^ 21 + 2) ⟨some 0, false, true, false⟩
    cores := upd s.cores 0 (fun k => { k with
      tlb := ⟨0, 0x600000, 0x200000, 4 * 2 ^ 42 + 0x400000, 3, 0, true, true, false⟩ :: k.tlb }) }

/-- Writes that go to scratchpads, by evaluation. -/
def inScr (s : State) (o : Opt) (ws : List (Nat × Nat × Nat)) : Bool :=
  ws.all (fun w => (s.savedScr o w.1).isNone && match s.engWhere 0 o false 6 w.1 w.2.1 with
    | (.ok, [⟨.bank _, _, _, _⟩]) => true
    | _ => false)

theorem inScr_inScratch {s : State} {o : Opt} {ws : List (Nat × Nat × Nat)} (h : inScr s o ws = true) : s.InScratch 0 o ws := by
  intro w hw
  have a := List.all_eq_true.mp h w hw
  rw [Bool.and_eq_true] at a
  refine ⟨Option.isNone_iff_eq_none.mp a.1, ?_⟩
  have b := a.2
  split at b
  · exact ⟨_, _, by assumption, rfl⟩
  · exact Bool.noConfusion b

/-- What the statement asks of a store of accumulator 5, by format slot. -/
def storeOk (fs : BitVec 3) : Bool :=
  let s := demoCmd 2 (.accst { en with fs := fs } 4 5 5 5)
    [0x00F0000000000000, 0, 0, 0] false false
  match s.optOf 0 9 with
  | some o =>
      let q := (s.engAcquire 0 o).startScale 0 9 o ((s.grd o.grid).fslot fs.toNat) 4
      cmdOk s && decide (4 ≤ o.desc.length) && inScr q.2 q.1 ((q.2.accstWrites 0 q.1 ((s.grd o.grid).fslot fs.toNat) 5).map Prod.fst)
  | none => false

/-- Conversions between two FP32 elements at scratchpad byte 0 and at byte 1024. -/
def convOk (i : Instr) : Bool :=
  let s := demoCmd 1 i [0x00F0000000000000, 0x00F0000000000400, 0x00F0000000000400, 2, 0] false false
  cmdOk s && fillOk s ((List.range 2).map (fun (i : Nat) => (addVa 0x00F0000000000000 (i * 4 : Nat), 4)))

theorem witness_EnginesComplete_converts : storeOk 0 = true ∧
    (let s := demoCmd 2 (.accmv { en with fs := 1 } 3 0 5 false) [0] false false
     cmdOk s = true ∧ isBfp (fsCode ((s.grd 0).fslot 1)) = false ∧ 64 * elemSize (fsCode ((s.grd 0).fslot 1)) + 64 * 0 ≤ 128) ∧
    convOk (.qnt en 16 21 0 0) = true ∧ convOk (.dqnt en 16 21 0 0) = true ∧
    -- an accumulator that a product reads is damaged
    (let s := demoCmd 2 (.mma en 3 4 5) [64, 64, 64, 0] false false
     let t := { s with svc := { s.svc with badOper := [(0, 2 ^ 20 + 5)] } }
     cmdOk t = true ∧ ∀ o ∈ t.optOf 0 9, t.operBad 0 o = true) := by decide +kernel

/-- What the statement asks of a copy of 64 bytes, a PUT or a GET. -/
def movesOk (s : State) (rs rd : Bool) : Bool :=
  match s.optOf 0 9 with
  | some o => cmdOk s && decide ((State.copyRun 0 o rs rd (o.pieces.drop o.prog) o.prog (s.engAcquire 0 o)).1 = .ok) && !namesRecord o.instr
  | none => false

theorem witness_EnginesComplete_moves :
    movesOk (demoCmd 1 (.cpy en 16) [0x00F0000000000000, 0x00F0000000000400, 0x100000040, 0] false false) false false = true ∧
    movesOk (demoRemote (.put en 16 0) [0x00F0000000000000, 0x600000, 64, 0]) false true = true ∧
    movesOk (demoRemote (.get en 16 0) [0x600000, 0x00F0000000000400, 64, 0]) true false = true := by decide +kernel

/-- Share 0 in a phase of a switch from partition 0 to partition 1, which has a queued launch on it. -/
def demoSwitch (running : Option Nat) (phase : Phase) (grids : List (Nat × Grid)) : State := { demo with
  ctl := { demo.ctl with pctl := put demo.ctl.pctl 1 0x0003E880 0x0003E800 }
  grids := set grids 1 { demo.grd 0 with part := 1, state := .queued, tctx := 1 }
  shares := [(0, ⟨running, phase, 0, some 1, 0, 0⟩)] }

/-- The cohort is saved and its block with it; both are of partition 1, whose launch runs. -/
def demoRest : State := { demoSwitch none .restore [] with
  grids := [(1, { demo.grd 0 with part := 1, state := .running, tctx := 1 })]
  blocks := upd demo.blocks 0 (fun b => { b with grid := 1, place := .saved })
  cohorts := upd demo.cohorts 0 (fun k => { k with place := .saved, active := false }) }

theorem witness_TenantSwitch :
    (let s := demoSwitch (some 0) .idle []
     (s.share 0).phase = .idle ∧ (s.share 0).running = some 0 ∧ s.tick.follower 0 0 = some 1 ∧ s.tick.hasWork 0 = false) ∧
    (let s := demoSwitch none .halt demo.grids
     (s.share 0).phase = .halt ∧ s.cohPart 0 = 0 ∧ s.ops = [] ∧ ∀ e ∈ s.cohorts, e.2.cf = [] ∧ (∀ l < 32, e.2.spec l = false) ∧
        s.unfinished e.1 = false) ∧
    (∀ e ∈ (demoSwitch none .quiesce demo.grids).cores, e.2.opt = []) ∧ (demoSwitch none .quiesce demo.grids).ewr = [] ∧
    (let s := { demoSwitch none .quiesce demo.grids with cores := demoMat.cores }
     (look s.cohorts 0).isSome = true ∧ s.cohPart 0 = 0 ∧ ∃ x ∈ (s.core (s.cohCore 0)).slots, x.2.owner = some 0) ∧
    sorted (demoSwitch none .save demo.grids).cohorts = true ∧ ((demoSwitch none .scrub demo.grids).share 0).phase = .scrub ∧
    (demoRest.share 0).phase = .restore ∧ (demoRest.share 0).next = some 1 ∧ demoRest.traps.held = [] ∧
    look demoRest.ctl.pctlHold 1 = none ∧ (∀ e ∈ demoRest.grids, e.2.state = .running) ∧ demoRest.cohPart 0 = 1 ∧
    (∀ c ∈ demoRest.cores, c.2.saved = [] ∧ c.2.opt = []) ∧
    (let r := demoRest.tick.readImage 1
     let back := ((r.blocksOf 1).filter (fun b => b.2.place == .saved)).foldl (fun u b => u.restoreBlock b.1) r
     let full := { back with cores := back.cores.map (fun (e : Nat × Core) => (e.1, e.2.loadOpts (fun g => (back.grd g).part == 1) 1)) }
     (∀ b ∈ full.blocksOf 1, b.2.place ≠ .saved) ∧ (∀ c ∈ full.coresOf 1, full.orderUsed c ≤ Config.orderPerCore) ∧
      r.blocksOf 1 = [(0, r.blk 0)] ∧ look r.blocks 0 = some (r.blk 0) ∧ (r.blk 0).place = .saved ∧ (r.blk 0).exited = false ∧
      (r.coh 0).place = .saved ∧ Memory.wf (r.blk 0).scr) ∧
    (Memory.wf demoRest.mem ∧ Memory.wf demoRest.bank) := by decide +kernel

/-- DTID 5 stands for partition 0, whose region at offset 0x400000 is exported. -/
def demoFab : State := { demo with
  ctl := { demo.ctl with dtid := [(5, 0)] }
  own := set demo.own 2 ⟨some 0, false, true, false⟩ }

/-- A collective of two packages with chunks from `heads` and a limit of `tmo` ms, begun at time 0; entry 9 takes part. -/
def demoColl (heads : List (Nat × CollHead)) (own : Option (Nat × Nat)) (failed : Option Nat) (tmo time : Nat) : State :=
  let s := demoCmd 3 (.coll en 16 0 0) [0x00F0000000000000, 0x00F0000000000400, 4, 0, 0] false false
  { s with
    time := time
    ctl := { s.ctl with dtid := [(5, 0)] }
    fab := { s.fab with colls := [⟨5, 7, own, [0, 1], heads, [], tmo, 0, failed⟩] }
    cores := upd s.cores 0 (fun k => { k with opt := upd k.opt 9 (fun o => { o with st := .awaiting }) }) }

def headOf (n : Nat) : CollHead := ⟨0, n, 1, 0, false, 2, 0, false⟩

/-- A limit that no gap of the clock exceeds. -/
def longTmo : Nat := Config.gap demo.fresh + 1

/-- A collective of DTID 5 and identifier 7 timed out a moment ago. -/
def demoExp : State := { demo with fab := ⟨demo.fab.ports, [], [(5, 7, demo.tick.time)]⟩ }

theorem demoColl_tick (heads : List (Nat × CollHead)) (own : Option (Nat × Nat)) (failed : Option Nat) (tmo time : Nat) :
    (demoColl heads own failed tmo time).tick.time = time + longTmo := by
  have f : (demoColl heads own failed tmo time).fresh = demo.fresh := rfl
  simp only [State.tick, f, longTmo]
  show time + 1 + _ = _
  omega

theorem witness_FabricEvents :
    (demoFab.remoteCause 5 0x400000 8 true = 0 ∧ demoFab.remoteCause 5 0x400000 16 false = 0 ∧ demoFab.remoteCause 6 0x400000 8 true = 0x14 ∧
      demoFab.svc.bad = [] ∧ demoFab.svc.badL2 = [] ∧ (∀ e ∈ demoFab.cores, e.2.rel = []) ∧ MType.b32.bytes = 4) ∧
    (([1, 2, 3] : List Byte) ≠ [] ∧ demoFab.remoteCause 5 0x400000 3 true = 0 ∧ 0x400010 % 16 = 0 ∧ 0x400000 + 3 ≤ 0x400010 ∧
      demoFab.remoteCause 5 0x400010 16 true = 0) ∧
    (demo.tick.collExpired 5 7 = false ∧ demo.collAt 5 7 = none ∧ (headOf 4).fail = false) ∧
    -- no port carries anything; a load of package 4 is on its way by one
    (demo.portBusy 0 = false ∧ (∀ w ∈ demo.ewr, w.route = none) ∧
      ∃ p < 18, (demoOp { opOf .load .b32 with acc := [(0, ⟨0x400000, [⟨.mem, 4 * 2 ^ 42, 4, false⟩], 6, 0, 0⟩)] }).portBusy p = true) ∧
    (look [(0, headOf 4), (1, headOf 5)] ([0, 1].findIdx (· == demo.ctl.pkg)) = some (headOf 4) ∧ sameHead (headOf 5) (headOf 4) = false) :=
  ⟨by decide +kernel, by decide +kernel, by decide +kernel, by decide +kernel, by decide⟩

/-- Contributions in time, the word that a member has failed, and a limit that has passed with a contribution missing. -/
theorem witness_FabricEvents_time : ∃ c : Option (Nat × Nat) → Coll,
    (∀ own, (demoColl [(1, headOf 4)] own none longTmo 0).collAt 5 7 = some (c own) ∧ look (c own).heads 0 = none ∧
      (c own).failed = none ∧ (c own).own = own ∧
      (demoColl [(1, headOf 4)] own none longTmo 0).tick.collExpired 5 7 = false ∧
      (demoColl [(1, headOf 4)] own none longTmo 0).tick.time < (c own).start + (c own).limit) ∧
    ∀ own, let s := demoColl [(1, headOf 4)] own none longTmo (1000000 * longTmo)
      s.collAt 5 7 = some (c own) ∧ (∀ h ∈ (c own).heads, (c own).heads.length < h.2.nmem) ∧ (c own).start + (c own).limit ≤ s.time ∧
        s.tick.time ≤ (c own).start + 3 * (c own).limit := by
  have l : ∀ own, (⟨5, 7, own, [0, 1], [(1, headOf 4)], [], longTmo, 0, none⟩ : Coll).limit = 1000000 * longTmo := fun own => by
    exact congrArg (1000000 * ·) (if_neg (show longTmo ≠ 0 from Nat.succ_ne_zero _))
  have p : 0 < longTmo := Nat.succ_pos _
  refine ⟨fun own => ⟨5, 7, own, [0, 1], [(1, headOf 4)], [], longTmo, 0, none⟩, fun own => ⟨rfl, rfl, rfl, rfl, rfl, ?_⟩,
    fun own => ⟨rfl, ?_, ?_, ?_⟩⟩
  · rw [l, demoColl_tick]; show 0 + longTmo < 0 + 1000000 * longTmo; omega
  · intro h m
    rw [List.mem_singleton.mp m]
    exact (by decide : 1 < (headOf 4).nmem)
  · rw [l]; show 0 + 1000000 * longTmo ≤ 1000000 * longTmo; omega
  · rw [l, demoColl_tick]; show 1000000 * longTmo + longTmo ≤ 0 + 3 * (1000000 * longTmo); omega

theorem witness_FabricEvents_own : ∀ heads failed tmo time, let s := demoColl heads (some (0, 9)) failed tmo time
    ∃ o c, s.optOf 0 9 = some o ∧ o.instr = .coll en 16 0 0 ∧ o.busy = true ∧ o.st = .awaiting ∧ o.fin = none ∧ o.mv = none ∧
      s.dtidOf (s.optPart o) = some c.dtid ∧ s.fab.colls.filter (fun x => x.own == some (0, 9)) = [c] ∧ c.failed = failed ∧
      c.heads = heads ∧ s.collOpt c = some (0, 9, o) ∧ (∀ d, s.fabWrite 0 o 9 d = (.ok, s)) :=
  fun heads failed tmo _ => ⟨_, ⟨5, 7, some (0, 9), [0, 1], heads, [], tmo, 0, failed⟩, rfl, rfl, rfl, rfl, rfl, rfl, rfl, rfl,
    rfl, rfl, rfl, fun _ => rfl⟩

/-- A collective of which both members have sent four elements; the result goes to the scratchpad. -/
def demoCollAll : State := demoColl [(0, headOf 4), (1, headOf 4)] (some (0, 9)) none 1 0

def collAllOk (s : State) : Bool :=
  match s.optOf 0 9, (s.optOf 0 9).bind (s.collOf 0 9) with
  | some o, some c =>
      let f := (s.grd o.grid).fslot 0
      let r := s.collElems o f c 0 (c.members.findIdx (· == s.ctl.pkg)) (headOf 4)
      let made := State.engWrites 0 o ((r.1.zipIdx.map (fun x => (addVa (o.d 1) (x.2 * elemSize (fsCode f) : Nat), elemSize (fsCode f),
        x.1))).drop o.prog) o.prog s
      (c.heads.all (fun y => sameHead y.2 (headOf 4))) && (headOf 4).nmem ≤ c.heads.length && c.members.length ≤ c.heads.length &&
        decide (made.1 = .ok) && r.2.1 == 0 && !r.2.2 && r.1.length == 4 &&
        decide (((made.2.2.raiseGrid o.grid r.2.1 r.2.2).fabWrite 0 { o with prog := made.2.1 } 0 0).1 = .ok)
  | _, _ => false

theorem witness_FabricEvents_result : collAllOk demoCollAll = true := by decide +kernel

theorem witness_FabricEvents_expired : demoExp.tick.collExpired 5 7 = true := by
  have h : demoExp.tick.time = demo.tick.time := by simp only [State.tick, demoExp]
  have f : demoExp.tick.fab.expired = [(5, 7, demo.tick.time)] := by simp only [State.tick, demoExp]
  rw [State.collExpired, f, h]
  simp

/-- Grid 0 is rank `q` of a gang of packages 0 and 4 with identifier 7 and digest 9. -/
def demoGang (q ptmo : Nat) (f : GangPhase) (st : GState) (ready : List (Nat × BitVec 384)) : State := { demo with
  time := 5000000
  grids := upd demo.grids 0 (fun g => { g with
    state := st
    gang := some ⟨7, q, [0, 4], ptmo, 9, f, some (0, [0]), ready, [], 1000, 2000⟩ })
  placed := []
  blocks := []
  cohorts := [] }

/-- The same with its blocks and cohorts; it began to run at `at_`. -/
def demoGoing (at_ : Nat) : State := { demo with
  time := 5000000
  grids := upd demo.grids 0 (fun g => { g with gang := some ⟨7, 0, [0, 4], 1, 9, .going, none, [], [0], 1000, at_⟩ }) }

theorem witness_Gangs :
    -- too late, or in time
    (∀ q st ready ptmo, ∀ f ∈ [GangPhase.preparing, .readySent, .going], st ∈ [GState.placing, .running] →
      let s := demoGang q ptmo f st ready
      ∃ g r, look s.grids 0 = some g ∧ s.gangOf 7 = some (0, r) ∧ g.gang = some r ∧ r.phase = f ∧ r.q = q ∧ r.ready = ready ∧
        r.digest = 9 ∧ r.members = [0, 4] ∧ r.reserved = some (0, [0]) ∧ s.running g.part = true ∧ r.acks = [] ∧
        (ptmo = 1 → r.readyAt + 1000000 * r.ptmo + 100000 ≤ s.time) ∧
        (ptmo = longTmo + 5 → s.tick.time < r.readyAt + 1000000 * r.ptmo + 100000)) ∧
    (let s := demoGang 0 (longTmo + 5) .readySent .placing [(0, 9), (1, 9)]
     ∀ g ∈ look s.grids 0, (s.blockRoom g 0).isSome = true) ∧
    (∀ d e : BitVec 384, d ≠ e → let all := fun (r : List (Nat × BitVec 384)) => ∀ i < 2, ∃ x ∈ r, x.1 = i ∧ x.2 = d
      all [(0, d), (1, d)] ∧ ¬ all [(0, d)] ∧ ¬ all [(0, d), (1, e)]) ∧
    (∀ at_, ∃ g r, look (demoGoing at_).grids 0 = some g ∧ (demoGoing at_).gangOf 7 = some (0, r) ∧ g.gang = some r ∧
      r.phase = .going ∧ g.aborted = false ∧ 1 ∉ r.acks ∧ 1 < r.members.length ∧
      (at_ = 1000 → r.goAt + 100000 ≤ (demoGoing at_).time) ∧
      (at_ = 5000000 + longTmo → (demoGoing at_).tick.time < r.goAt + 100000)) := by
  refine ⟨fun q st ready ptmo f hf hs => ?_, by decide +kernel, fun d e h => ?_, fun at_ => ⟨_, _, rfl, rfl, rfl, rfl, rfl,
    (by decide : 1 ∉ [0]), (by decide : 1 < [0, 4].length), fun h => ?_, fun h => ?_⟩⟩
  · have hd : (demoGang q ptmo f st ready).tick.time = 5000000 + longTmo := (Nat.add_assoc _ 1 _).trans (by
      rw [longTmo, Nat.add_comm 1]; rfl)
    simp only [List.mem_cons, List.not_mem_nil, or_false] at hf hs
    rcases hf with rfl | rfl | rfl <;> rcases hs with rfl | rfl <;>
      refine ⟨_, _, rfl, rfl, rfl, rfl, rfl, rfl, rfl, rfl, rfl, rfl, rfl, fun e => ?_, fun e => ?_⟩ <;> subst e <;>
      first
        | exact (by decide : 1000 + 1000000 * 1 + 100000 ≤ 5000000)
        | (rw [hd]; show 5000000 + longTmo < 1000 + 1000000 * (longTmo + 5) + 100000; omega)
  · refine ⟨fun i hi => ?_, fun a => ?_, fun a => ?_⟩
    · have hi : i = 0 ∨ i = 1 := by omega
      rcases hi with rfl | rfl
      · exact ⟨(0, d), by simp, rfl, rfl⟩
      · exact ⟨(1, d), by simp, rfl, rfl⟩
    · obtain ⟨x, hx, h1, _⟩ := a 1 (by decide)
      rw [List.mem_singleton.mp hx] at h1
      exact Nat.noConfusion h1
    · obtain ⟨x, hx, h1, h2⟩ := a 1 (by decide)
      rcases List.mem_cons.mp hx with rfl | hx
      · exact Nat.noConfusion h1
      · rw [List.mem_singleton.mp hx] at h2
        exact h h2.symm
  · subst h
    exact (by decide : 1000 + 100000 ≤ 5000000)
  · subst h
    show 5000000 + 1 + Config.gap demo.fresh < 5000000 + longTmo + 100000
    rw [longTmo]
    omega

/-- A virtual function of a ready package, as far as `handshake` in its session. -/
def demoHost (session : Bool) (handshake : Nat) : State := { demo with
  ctl := { demo.ctl with ready := true, dtid := [(6, 1)] }
  own := set demo.own 1 ⟨some 0, false, false, false⟩
  svc := { demo.svc with vfs := [(0, ⟨true, 0x300000000, [⟨1, 0, 0x0870, 0, 5, 0, 1⟩], 0, [⟨0, 1, 0, 0, 0⟩], session, handshake⟩)] } }

theorem witness_HostAndAttestation :
    (∀ session, ∀ n ≤ 4, let s := demoHost session n
      s.ctl.ready = true ∧ s.tctxEn 0 = true ∧ s.takesRequest 0 = true ∧ (s.vf 0).featuresOk = true ∧ (s.vf 0).events ≠ [] ∧
      (s.vf 0).compl ≠ [] ∧ (s.vf 0).session = session ∧ (s.vf 0).handshake = n ∧
      (∀ q, s.dtidPart s.ctl.pkg 5 = some q → q = s.tctxPart 0) ∧
      (s.dtidPart s.ctl.pkg 6).any (fun q => q != s.tctxPart 0) = true ∧
      ∀ e ∈ s.own, ¬ (e.2.owner = some (s.tctxPart 0) ∧ e.2.ex = true)) ∧
    demo.ctl.ready = false ∧ (∃ e ∈ demo.own, e.2.owner = some (demo.tctxPart 0) ∧ e.2.ex = true) ∧
    ((0x700000000 : BitVec 64) &&& ~~~0x730000000#64 = 0 ∧ (0x700000000 : BitVec 64) &&& 0x300000000#64 = 0x300000000#64) := by
  refine ⟨fun session n h => ?_, by decide +kernel, by decide +kernel, by decide +kernel⟩
  have f : ∀ session, ∀ n < 5, let s := demoHost session n
      s.ctl.ready = true ∧ s.tctxEn 0 = true ∧ s.takesRequest 0 = true ∧ (s.vf 0).featuresOk = true ∧ (s.vf 0).events ≠ [] ∧
      (s.vf 0).compl ≠ [] ∧ (s.vf 0).session = session ∧ (s.vf 0).handshake = n ∧ s.dtidPart s.ctl.pkg 5 = none ∧
      (s.dtidPart s.ctl.pkg 6).any (fun q => q != s.tctxPart 0) = true ∧
      ∀ e ∈ s.own, ¬ (e.2.owner = some (s.tctxPart 0) ∧ e.2.ex = true) := by decide +kernel
  obtain ⟨h1, h2, h3, h4, h5, h6, h7, h8, h9, h10, h11⟩ := f session n (by omega)
  exact ⟨h1, h2, h3, h4, h5, h6, h7, h8, fun q e => (by rw [h9] at e; cases e), h10, h11⟩

/-- The image at virtual address 0x10000, physical 0x400000: one data segment of 16 bytes that lie 4096 bytes in,
bound for 0x18000; the image's first word is `magic`. -/
def imgHeader (magic : Nat) : Nat := magic + 2 ^ 32 * 1 + 2 ^ 48 * 1
def imgEntry (meas : Nat) : Nat := 2 + 2 ^ 64 * 4096 + 2 ^ 128 * 16 + 2 ^ 192 * 0x18000 + 2 ^ 256 * meas
def demoImg (magic count sealed_ : Nat) : State :=
  let s := demoWalk 0x400033 (aWalk none)
  { s with
    mem := putBytes (putBytes s.mem 0x400000 32 (magic + 2 ^ 32 + 2 ^ 48 * count)) 0x400020 96 (imgEntry 5)
    own := set s.own 2 ⟨some 0, sealed_ == 1, false, false⟩
    walks := []
    svc := { s.svc with
      vfs := [(0, ⟨true, 0x300000000, [], 0, [], false, 0⟩)]
      attest := [(0, ⟨[(0, [1])], 0, 0⟩)] } }

/-- The load of that image, whose segment entry is `e`. -/
def imgLoad (e : Nat) : Load := ⟨0, 0, 0, 0x10000, 0, 0, imgHeader 0x31584B47, e, [], [(0x408000, 16)]⟩

/-- The state in which its bytes are about to be copied. -/
def demoLoad (e : Nat) : State :=
  let s := demoImg 0x31584B47 1 0
  { s with svc := { s.svc with loads := [(0, imgLoad e)] } }

/-- The bytes of four tables at 0x600000, 0x604000, 0x606000 and 0x608000 that map the page at 0x10000 to 0x400000. -/
def memMove : List Host.Cell := [(0x600000, 1), (0x600001, 0x40), (0x600002, 0x60), (0x604000, 1), (0x604001, 0x60), (0x604002, 0x60),
  (0x606000, 1), (0x606001, 0x80), (0x606002, 0x60), (0x608008, 0x33), (0x60800A, 0x40)]

/-- Region 0x400000 is about to be moved to frame 4. -/
def demoMove : State := { demoWalk 0x400033 (aWalk none) with
  mem := memMove
  walks := []
  tier := ⟨[], [], [(0, ⟨⟨0, 0, 0⟩, 2, 4, false, 0⟩)], []⟩
  cores := [] }

theorem witness_ImagesLoaded :
    (∀ c ∈ [(0, 1, 0), (0x31584B47, 0, 0), (0x31584B47, 1, 0), (0x31584B47, 1, 1)], let s := demoImg c.1 c.2.1 c.2.2
      let h := c.1 + 2 ^ 32 + 2 ^ 48 * c.2.1
      let l0 : Load := ⟨0, 0, 0, 0x10000, 0, 0, 0, 0, [], []⟩
      s.takesRequest 0 = true ∧ s.tctxPart 0 = 0 ∧ s.imageNat l0 0 32 = some h ∧ pte h 0 32 = c.1 ∧ pte h 48 16 = c.2.1 ∧
        s.imageNat l0 32 96 = some (imgEntry 5)) ∧
    (∀ x < 2, let s := demoImg 0x31584B47 1 x
      s.segOk (imgLoad (imgEntry 5)) = true ∧ s.targetParts (imgLoad (imgEntry 5)) = some [(0x408000, 16)] ∧
        (∀ f ∈ framesOf [(0x408000, 16)], (getD s.own f .blank).sealed = (x == 1))) ∧
    -- the image, the target, or a segment's bytes are being moved
    ((demoMv.imageMeets ⟨0, 0, 0, 0x10000, 0, 0, 0, 0, [], []⟩ 0 32).1 = true ∧ demoMv.segBusy (imgLoad (imgEntry 5)) = false ∧
      (demoMv.segMeets (imgLoad (imgEntry 5))).1 = true ∧
      { demoMove with svc := (demoLoad (imgEntry 5)).svc }.segBusy (imgLoad (imgEntry 5)) = true) := by
  have m : ∀ l off n, l.part = 0 → l.tctx = 0 → pagesMove ((pageParts (l.va.toNat + off) n).map
      (fun p => (demoMv.page none l.part l.tctx 5 p.1, p.1, p.2))) = true ∧ (((pageParts (l.va.toNat + off) n).map
      (fun p => (demoMv.page none l.part l.tctx 5 p.1, p.1, p.2))).find? (fun p => p.1 == .mv)).isSome = true →
      (demoMv.imageMeets l off n).1 = true := fun l off n _ _ h => by
    rw [State.imageMeets, State.loadMeets, if_pos h.1]
    exact Laws.mvMeet_first _ _ _ _ h.2 rfl
  have a : (demoMv.imageMeets (imgLoad (imgEntry 5)) (segOff (imgEntry 5)) (segSize (imgEntry 5))).1 = true :=
    m _ _ _ rfl rfl (by decide +kernel)
  refine ⟨by decide +kernel, by decide +kernel, m _ _ _ rfl rfl (by decide +kernel), by decide +kernel, ?_, by decide +kernel⟩
  have e : demoMv.segMeets (imgLoad (imgEntry 5)) =
      demoMv.imageMeets (imgLoad (imgEntry 5)) (segOff (imgEntry 5)) (segSize (imgEntry 5)) := by
    rw [State.segMeets]
    exact if_pos a
  rw [e]
  exact a

/-- The hypotheses that do not speak of the standards' functions; the hash of the bytes differs from 5 or from 6. That a
signature passes is a fact of ML-DSA-87, which the model leaves open. -/
theorem witness_ImagesLoaded_ends : ∃ src, src.length = 16 ∧ (∀ m ∈ [5, 6],
    let l := imgLoad (imgEntry m)
    let s := demoLoad (imgEntry m)
    look s.svc.loads 0 = some l ∧ segKind l.entry = 2 ∧ segMeas l.entry = m ∧ l.parts = [(0x408000, segSize l.entry)] ∧
      (getD s.own (0x408000 / 2 ^ 21) .blank).owner = some l.part ∧ s.segBusy l = false ∧
      (s.imageBytes l (segSig l.entry) 4627).isSome = true ∧ src.length = segSize l.entry ∧
      s.imageBytes l (segOff l.entry) (segSize l.entry) = some src ∧
      s.imageNat l 0 32 = some (imgHeader 0x31584B47) ∧ pte (imgHeader 0x31584B47) 48 16 ≤ l.seg + 1) ∧
    ((Config.sha384 src).toNat ≠ 5 ∨ (Config.sha384 src).toNat ≠ 6) :=
  ⟨List.replicate 16 0, by decide, by decide +kernel, by omega⟩

/-- The cohort waits, all of it, at a header with YLD that waits for cf0, since time 0. -/
def demoGate : State := { demo with
  time := 100000
  mem := putBytes demo.mem 0x200000 8 0xC100101300000000
  cohorts := upd demo.cohorts 0 (fun k => { k with
    pc := (List.range 32).map (fun l => (l, 0x200000))
    entered := 0
    cf := [(0, 1)] }) }

theorem witness_ReliabilityEvents :
    (demo.svc.log.length < logSize ∧ demo.svc.logWait = [] ∧ isSource 0 = true ∧ 0 ∈ demo.vfsOf 0 ∧ (demo.vf 0).events.length < 256) ∧
    (let s := { demo with svc := { demo.svc with swapping := [.core 5, .slice 0 0] } }
     SpareUnit.core 5 ∈ s.svc.swapping ∧ s.coreEmpty 5 = true ∧ SpareUnit.slice 0 0 ∈ s.svc.swapping) ∧
    -- a damaged word that a slice holds
    (let s := { demo with l2 := [(160 * (sliceOf 0x400000).1 + (sliceOf 0x400000).2, [⟨0x400000 / 512, 1, 0⟩])] }
     s.l2Holds 0x400000 = true ∧ s.l2Dirty 0x400000 = false) ∧
    (0 < demo.ctl.domain ∧ demo.ctl.domain = 576 ∧ demo.svc.retire = []) := by decide +kernel

theorem witness_ReliabilityEvents_spares : demo.svc.swapping = [] ∧ demo.svc.retire = [] ∧
    (∀ u ∈ [SpareUnit.core 767, .slice 3 159, .channel 7 127, .lane 17], unitHere u = true ∧
      getD demo.svc.spares (sparePool u).1 0 < (sparePool u).2.1 ∧
      let s := { demo with svc := { demo.svc with spares := [((sparePool u).1, 8)] } }
      (sparePool u).2.1 ≤ getD s.svc.spares (sparePool u).1 0) ∧
    -- units of which the package has no spare, and units that it has not got
    (∀ u ∈ [SpareUnit.baseCore 0, .vault 0, .agent 3, .walker 3 63], unitHere u = true ∧
      (sparePool u).2.1 ≤ getD demo.svc.spares (sparePool u).1 0) ∧
    (∀ u ∈ [SpareUnit.core 768, .slice 0 160, .channel 8 0, .lane 18], unitHere u = false) := by decide +kernel

theorem witness_ReliabilityEvents_sources : isSource 0 = true ∧ isSource 0xFFFF = false ∧ demoMove.ewr = [] ∧ demoMove.late = [] := by
  decide +kernel

/-- Core 0 has met the conditions since time 0. -/
def gateSince (t : Nat) : State := { demoGate with cores := upd demoGate.cores 0 (fun k => { k with quiet := some t }) }

theorem noteCore_same {s : State} {core t : Nat} (h : s.gateReady core = true) (q : (s.core core).quiet = some t) :
    s.noteCore core = s := by
  simp only [State.noteCore, h, q, if_true, Option.getD_some]

theorem gateSince_noted (t : Nat) (h : ((gateSince t).noteCoh 0).gateReady 0 = true ∧ ((gateSince t).noteCoh 0).cores.map Prod.fst = [0] ∧
    (gateSince t).cohorts.map Prod.fst = [0]) (q : (((gateSince t).noteCoh 0).core 0).quiet = some t) :
    (gateSince t).noted.noteCore 0 = (gateSince t).noteCoh 0 := by
  have e : (gateSince t).noted = (gateSince t).noteCoh 0 := by
    have fold : ∀ {α : Type} (f : State → Nat → State) (l : List (Nat × α)) (s : State), l.map Prod.fst = [0] →
        l.foldl (fun s e => f s e.1) s = f s 0 := fun f l s hl => by
      rw [← List.foldl_map (f := Prod.fst) (g := f), hl]
      rfl
    simp only [State.noted]
    rw [fold _ _ _ h.2.2, fold _ _ _ h.2.1, noteCore_same h.1 q]
  rw [e, noteCore_same h.1 q]

theorem witness_ReliabilityEvents_gate : 0 < Config.cores ∧
    (let v := ((gateSince 0).noted.noteCore 0).tick
     ((gateSince 0).core 0).gated = false ∧ (v.core 0).quiet = some 0 ∧ 0 + 50000 ≤ v.time) ∧
    -- less than 50 µs, not at all, and a release set
    (let v := ((gateSince (200000 + longTmo)).noted.noteCore 0).tick
     (v.core 0).quiet = some (200000 + longTmo) ∧ v.time < 200000 + longTmo + 50000) ∧
    ((demo.noted.noteCore 0).tick.core 0).quiet = none ∧ ((demoPeer 0).core 0).rel ≠ [] := by
  have a := gateSince_noted 0 (by decide +kernel) (by decide +kernel)
  have b := gateSince_noted (200000 + longTmo) (by decide +kernel) rfl
  have g : ∀ t, ((gateSince t).noteCoh 0).time = 100000 ∧ ((gateSince t).noteCoh 0).fresh = demo.fresh →
      ((gateSince t).noteCoh 0).tick.time = 100000 + longTmo := fun t f => by
    simp only [State.tick, f.1, f.2, longTmo]
    omega
  refine ⟨by decide, ⟨by decide +kernel, by rw [a]; exact (by decide +kernel), ?_⟩, ⟨by rw [b]; rfl, ?_⟩, by decide +kernel,
    by decide +kernel⟩
  · rw [a, g _ (by decide +kernel)]; omega
  · rw [b, g _ (by decide +kernel)]; omega

/-- A full log whose first record is of some kind. -/
def fullLog (kind : Byte) : List ErrRec :=
  ⟨kind, 1, 0, 31, 0, 0, 0, 0, 0⟩ :: List.replicate (logSize - 1) ⟨2, 1, 0, 31, 0, 0, 0, 0, 1⟩

theorem witness_ReliabilityEvents_full : (∀ kind, (fullLog kind).length = logSize) ∧
    ((fullLog 1).find? (fun x => x.kind == 1)).isSome = true ∧ ∀ o ∈ fullLog 2, o.kind ≠ 1 := by
  refine ⟨fun kind => ?_, ?_, fun o h => ?_⟩
  · rw [fullLog, List.length_cons, List.length_replicate, logSize]
  · rw [fullLog, List.find?_cons_of_pos (by decide)]; rfl
  · rcases List.mem_cons.mp h with h | h
    · rw [h]; decide
    · rw [List.eq_of_mem_replicate h]; decide

theorem range_flatMap_single {α : Type} (f : Nat → List α) (k : Nat) : ∀ n, k < n → (∀ i < n, i ≠ k → f i = []) →
    (List.range n).flatMap f = f k
  | 0, h, _ => by omega
  | n + 1, h, e => by
    rw [List.range_succ, List.flatMap_append]
    by_cases hk : k = n
    · subst hk
      rw [List.flatMap_eq_nil_iff.mpr (fun x hx => e x (by simp at hx; omega) (by simp at hx; omega))]
      simp
    · rw [range_flatMap_single f k n (by omega) (fun i hi => e i (by omega))]
      simp [e n (by omega) (Ne.symm hk)]

theorem byte_bit (m : List Host.Cell) (a : Nat) : pte (getBytes m a 8) 0 1 = (getD m a 0).toNat % 2 := by
  simp only [getBytes, pte, List.range, List.range.loop, List.foldr, Nat.add_zero]
  omega

theorem tables_present (t : Nat) (ht : t ∈ [0x600000, 0x604000, 0x606000]) (i : Nat) (hi : i < 1024 ∨ (t = 0x600000 ∧ i < 2048)) (h0 : i ≠ 0) :
    pte (getBytes memMove (t + 8 * i) 8) 0 1 = 0 := by
  rw [byte_bit]
  simp only [List.mem_cons, List.not_mem_nil, or_false] at ht
  simp only [getD, memMove, look]
  repeat rw [if_neg (by omega)]
  rfl

theorem leaf_present (i : Nat) (hi : i < 1024) (h0 : i ≠ 1) : pte (getBytes memMove (0x608000 + 8 * i) 8) 0 1 = 0 := by
  rw [byte_bit]
  simp only [getD, memMove, look]
  repeat rw [if_neg (by omega)]
  rfl
theorem table_step (s : State) (hs : s.mem = memMove) (lvl t u va : Nat) (ht : t ∈ [0x600000, 0x604000, 0x606000])
    (hl : lvl < 2 ∨ lvl = 2 ∧ t = 0x600000) (h : pte (getBytes memMove t 8) 0 1 = 1 ∧ pte (getBytes memMove t 8) 1 1 = 0)
    (hu : s.norm (pte (getBytes memMove t 8) 13 39 * 2 ^ 13) = u) :
    s.tablesAt (lvl + 1) t va = (lvl + 1, t, va) :: s.tablesAt lvl u va := by
  rw [State.tablesAt, hs]
  congr 1
  rw [range_flatMap_single _ 0 _ (by simp only [tableSize]; split <;> omega) (fun i hi h0 => ?_)]
  · simp only [Nat.mul_zero, Nat.zero_mul, Nat.add_zero, if_pos h, hu]
  · rw [if_neg]
    rw [tables_present t ht i (by simp only [tableSize] at hi; split at hi <;> omega) h0]
    exact fun h => Nat.noConfusion h.1

theorem range_filter_single (p : Nat → Bool) (k : Nat) (h : p k = true) : ∀ n, k < n → (∀ i < n, i ≠ k → p i = false) →
    (List.range n).filter p = [k]
  | 0, hk, _ => by omega
  | n + 1, hk, e => by
    rw [List.range_succ, List.filter_append]
    by_cases hn : k = n
    · subst hn
      rw [List.filter_eq_nil_iff.mpr (fun x hx => by simp at hx; simp [e x (by omega) (by omega)])]
      simp [h]
    · rw [range_filter_single p k h n (by omega) (fun i hi => e i (by omega))]
      simp [e n (by omega) (Ne.symm hn)]

theorem leaves_demoMove : demoMove.leavesOf 0 2 = [0x608008] := by
  have c : demoMove.contextsOf 0 = [0] := by decide +kernel
  have t : demoMove.tablesOf 0 = [(3, 0x600000, 0), (2, 0x604000, 0), (1, 0x606000, 0), (0, 0x608000, 0)] := by
    rw [State.tablesOf, show demoMove.norm (pte (demoMove.tctxOf 0) 14 38 * 2 ^ 14) = 0x600000 by decide +kernel]
    rw [table_step demoMove rfl 2 0x600000 0x604000 0 (by decide) (by decide) (by decide) (by decide +kernel),
      table_step demoMove rfl 1 0x604000 0x606000 0 (by decide) (by decide) (by decide) (by decide +kernel),
      table_step demoMove rfl 0 0x606000 0x608000 0 (by decide) (by decide) (by decide) (by decide +kernel)]
    rfl
  simp only [State.leavesOf, c, t, List.flatMap_cons, List.flatMap_nil, List.append_nil, Nat.reduceEqDiff, if_false, if_true, List.nil_append]
  rw [range_filter_single _ 1 (by decide +kernel) 1024 (by decide) (fun i hi h => ?_)]
  · rfl
  · rw [show demoMove.mem = memMove from rfl, leaf_present i hi h]
    rfl

theorem witness_ReliabilityEvents_move : ∃ m, look demoMove.tier.moves 0 = some m ∧ m.old ≠ m.new ∧ m.new < 2 ^ 31 ∧
    demoMove.frameBusy m.old = false ∧ demoMove.tier.swaps = [] ∧ (∀ e ∈ demoMove.grids, e.2.state = .running) ∧ demoMove.cores = [] ∧
    demoMove.leavesOf m.reg.part m.old = [0x608008] ∧ 0x608008 / 2 ^ 21 ≠ m.old ∧ 0x608008 / 2 ^ 21 ≠ m.new ∧ 0x608008 % 8 = 0 :=
  ⟨_, rfl, by decide, by decide, by decide +kernel, rfl, by decide +kernel, rfl, leaves_demoMove, by decide, by decide, by decide⟩

/-- The state in which the next step runs the word `iadd v7, v0, v0`, once the agenda has been read. -/
def addWord : DWord := 0x00E0700000000000
def demoStep : State := { State.reset.withFetchWord 64 addWord.toNat with agenda := [] }

def goesOn (o : Host.Outcome State Fault Refusal) : Bool :=
  match o with
  | .next _ => true
  | _ => false

theorem of_goesOn {o : Host.Outcome State Fault Refusal} (h : goesOn o = true) : ∃ t, o = .next t := by
  cases o <;> simp_all [goesOn]

theorem of_goesOnTo {o : Host.Outcome State Fault Refusal} {p : State → Prop} [DecidablePred p]
    (h : (match o with | .next t => decide (p t) | _ => false) = true) : ∃ t, o = .next t ∧ p t := by
  split at h
  · exact ⟨_, rfl, of_decide_eq_true h⟩
  · exact Bool.noConfusion h

def badSub (w : DWord) : Option Nat :=
  match decodeWord w with
  | .ok _ => none
  | .error k => some k

theorem of_badSub {w : DWord} (h : (badSub w).isSome = true) : ∃ k, decodeWord w = .error k := by
  unfold badSub at h
  split at h <;> simp_all

theorem witness_StepKeepsMemory : State.reset.memWf ∧ (State.reset.withFetchWord 64 addWord.toNat).memWf ∧
    ∃ t, step (State.reset.withFetchWord 64 addWord.toNat) = .next t :=
  ⟨⟨rfl, rfl⟩, ⟨by decide +kernel, rfl⟩, of_goesOn (by decide +kernel)⟩

theorem witness_StepRunsDecoded :
    let n := demoStep.noted
    let f := n.fitStore 0
    (n.MayTurn 0 ∧ n.halting (n.cohPart 0) = false ∧ n.comesLater exec 0 = false) ∧
    f.Offers 0 allLanes 0x200008 oneWordHeader addWord ∧
    (decodeWord addWord = .ok (.iadd (r (v 7) (v 0) (v 0) (v 0)) im)) ∧
    (let t := f.entered 0 allLanes 0x200008
     (lanesOf allLanes).find? (fun l => (t.ready 0).getLsbD l && (t.coh 0).pcOf l == 0x200008) = some 0 ∧
     t.closes 0 (t.groupOf 0 0) 0x200008 (some (.iadd (r (v 7) (v 0) (v 0) (v 0)) im)) = false ∧
     t.groupOf 0 0 ≠ 0 ∧
     let x := (t.modCoh 0 (fun k => { k with entered := k.entered ||| t.groupOf 0 0 })).setCur 0 (t.groupOf 0 0) 0x200008 oneWordHeader
     ∃ y, exec (.iadd (r (v 7) (v 0) (v 0) (v 0)) im) x = .next y ∧ y.cur.stall = false ∧ y.waitingAt (demoStep.cohCore 0) ≤ 16) ∧
    (canonical 0x200008 = true ∧ isWindow 0x200008 = false ∧
      (demoStep.tlbHit (demoStep.cohCore 0) (demoStep.cohGrd 0).tctx 0x200008).map (fun e => demoStep.entryCause
        (demoStep.cohGrd 0).part 4 e 0x200008) = some 0 ∧
      (demoStep.tlbHit (demoStep.cohCore 0) (demoStep.cohGrd 0).tctx 0x200008).map (fun e =>
        demoStep.badAt (e.pa + (0x200008 - e.va)) 8) = some false) := by
  refine ⟨⟨⟨by decide +kernel, by decide +kernel, by decide +kernel, by decide +kernel, by decide +kernel, by decide +kernel,
    by decide +kernel⟩, by decide +kernel, by decide +kernel⟩, ⟨by decide +kernel, by decide +kernel, by decide +kernel, by decide +kernel, by decide +kernel⟩, rfl,
    ⟨by decide +kernel, by decide +kernel, by decide +kernel, of_goesOnTo (by decide +kernel)⟩, by decide +kernel⟩

/-- Hart 0 stands at a kx word, at a load, or at an addition; at an address outside the package. -/
theorem witness_StepRunsDecoded_hart :
    (∀ w ∈ [0x0005850B, 0x0000A503, 0x00B50533], let s := State.reset.withFetchWord 32 w
      s.agenda = [.hart 0] ∧ 0 < 32 ∧ s.hartHit (s.hart 0) 4 (s.hart 0).pc.toNat 4 = .mem 0 ∧ getBytes s.mem 0 4 = w) ∧
    (decodeKx 0x0005850B).isSome = true ∧ (decodeRvMem 0x0000A503).isSome = true ∧
    (let s := State.reset.withFetchWord 32 0x00B50533
     decodeRvMem 0x00B50533 = none ∧ ((rvBase (s.hart 0) 0x00B50533).bind ((s.l2Read 0 4).rvDo 0)).isSome = true) ∧
    (let s := { demo with harts := [(0, { Hart.reset with pc := 0x19400000000 })] }
     s.hartHit (s.hart 0) 4 (s.hart 0).pc.toNat 4 = .exc 1) := by decide +kernel

theorem witness_RoundTrip :
    (let i : Instr := .iadd (r (v 7) (v 0) (v 0) (v 0)) im
     i.wf = true ∧ i.bits = 64) ∧
    (Instr.kxBegin 10 11).wf = true ∧ (Instr.kxBegin 10 11).bits = 32 := by decide

/-- No lane passes the guard p0. -/
def off : Guard := ⟨0, false⟩

theorem witness_WordsThatDoNotRun :
    demo.active off = 0 ∧ (Instr.iadd ⟨off, v 7, v 0, v 0, v 0⟩ im).wf = true ∧
    demo.active (guardOf (encode (.iadd ⟨off, v 7, v 0, v 0, v 0⟩ im))) = 0 ∧
    ((look demo.cohorts 0).isSome = true ∧ demo.cur.stall = false ∧
      (∀ l < 32, demo.cur.lanes.getLsbD l = true → (demo.coh 0).pcOf l = demo.cur.pc ∧ (demo.coh 0).spec l = false) ∧
      demo.opHeld 0 &&& demo.cur.lanes = 0 ∧ demo.cohCore 0 < 768 ∧ getD demo.traps.nextTid (demo.cohPart 0) 0 < 2 ^ 32 ∧
      ∀ l < 32, demo.cur.lanes.getLsbD l = true → (demo.coh 0).inRegion l = false) ∧
    (∃ k, decodeWord 0x7F00000000000000 = .error k) ∧ demo.active (guardOf 0x7F00000000000000) = 0 ∧
    (∃ k, decodeWord 0x7FE0000000000000 = .error k) ∧ demo.active (guardOf 0x7FE0000000000000) ≠ 0 ∧
    (demo.active on ≠ 0 ∧ ∀ l < 32, (demo.active on).getLsbD l = true → demo.regOk 0 l (.v 126) 4 = false) := by
  refine ⟨by decide, by decide, by decide, by decide +kernel, of_badSub (by decide +kernel), by decide,
    of_badSub (by decide +kernel), by decide, by decide⟩

/-- In a region, with a handle pending in s9, with cf0 full, without a flag. -/
theorem witness_WordsThatDoNotRun_waits :
    (let s := atMend
     s.active on ≠ 0 ∧ ∃ l < 32, s.cur.lanes.getLsbD l = true ∧ (s.coh s.cur.coh).inRegion l = true) ∧
    (let s := { demo with cohorts := upd demo.cohorts 0 (fun k => { k with handles := [(9, 3)] }) }
     let x := r (v 7) (.s 9) (v 2) (v 0)
     s.active on ≠ 0 ∧ s.handlePending (need2 x false).sread = true ∧
       ∀ l < 32, (s.active on).getLsbD l = true → ∀ e ∈ (need2 x false).regs, s.regOk 0 l e.1 e.2 = true) ∧
    (let s := { demo with cohorts := upd demo.cohorts 0 (fun k => { k with cf := [(0, 63)] }) }
     let x := r (v 7) (v 1) (v 0) (v 0)
     s.active on ≠ 0 ∧ s.cur.sfa = 0 ∧ getD (s.coh 0).cf 0 0 = 63 ∧
       ∀ l < 32, (s.active on).getLsbD l = true → ∀ e ∈ (need1 x false).regs, s.regOk 0 l e.1 e.2 = true) ∧
    (let s := { demo with cur := { demo.cur with sfa := 15 } }
     s.active on ≠ 0 ∧ s.cur.sfa = 15) := by decide

/-! ### Single steps: one lane, v1, v2 and v4 as given, the result in v3 -/

/-- Lane 0 alone issues; v1 = a, v2 = b, v4 = c. -/
def lane0 (a b c : Word) : State := { demo with
  cohorts := upd demo.cohorts 0 (fun k => { k with regs := [(32, a), (64, b), (128, c)] })
  cur := { demo.cur with lanes := 1 } }

/-- What an instruction leaves, as one number. -/
def seen (i : Instr) (s : State) (f : State → Nat) : Option Nat :=
  match exec i s with
  | .next t => some (f t)
  | _ => none

/-- Word n of lane l after the instruction. -/
def vAt (n l : Nat) (t : State) : Nat := (getD (t.coh 0).regs (32 * n + l) 0).toNat
def sAt (n : Nat) (t : State) : Nat := ((t.coh 0).sreg n).toNat
def pAt (n : Nat) (t : State) : Nat := (getD (t.coh 0).preds n 0).toNat

def res (i : Instr) (a b c : Word) : Option Nat := seen i (lane0 a b c) (vAt 3 0)

def abc : R3 := r (v 3) (v 1) (v 2) (v 4)
def ab : R3 := r (v 3) (v 1) (v 2) (v 0)
def ao : R3 := r (v 3) (v 1) (v 0) (v 0)
def imS (u : Bool) : IMod := ⟨false, u, true⟩

/-- R263, R264: sums wrap, or saturate at the bound that U selects. -/
theorem test_iadd_wraps : res (.iadd ab im) 0xFFFFFFFF 2 0 = some 1 := by decide +kernel
theorem test_iadd_saturates : res (.iadd ab (imS false)) 0x7FFFFFFF 1 0 = some 0x7FFFFFFF ∧
    res (.iadd ab (imS true)) 0xFFFFFFFF 1 0 = some 0xFFFFFFFF := by decide +kernel
/-- R264: the sum of three is clamped once. -/
theorem test_iadd3_clamps_once : res (.iadd3 abc (imS false)) 0x7FFFFFFF 1 0xFFFFFFFF = some 0x7FFFFFFF := by decide +kernel
theorem test_isub : res (.isub ab im) 3 5 0 = some 0xFFFFFFFE ∧ res (.isub ab (imS true)) 3 5 0 = some 0 := by decide +kernel
theorem test_iabs_of_least : res (.iabs ao im) 0x80000000 0 0 = some 0x80000000 ∧
    res (.iabs ao (imS false)) 0x80000000 0 0 = some 0x7FFFFFFF := by decide +kernel
theorem test_imin_signs : res (.imin ab im) 0xFFFFFFFF 1 0 = some 0xFFFFFFFF ∧
    res (.imin ab ⟨false, true, false⟩) 0xFFFFFFFF 1 0 = some 1 := by decide +kernel
theorem test_imulh_signs : res (.imulh ab im) 0xFFFFFFFF 2 0 = some 0xFFFFFFFF ∧
    res (.imulh ab ⟨false, true, false⟩) 0xFFFFFFFF 2 0 = some 1 := by decide +kernel
theorem test_imad : res (.imad abc im) 0x10000 0x10000 7 = some 7 := by decide +kernel
theorem test_icmp_signs :
    seen (.icmp on 2 (v 1) (v 2) .lt false false) (lane0 0xFFFFFFFF 0 0) (pAt 2) = some 1 ∧
    seen (.icmp on 2 (v 1) (v 2) .lt false true) (lane0 0xFFFFFFFF 0 0) (pAt 2) = some 0 := by decide +kernel

/-- R268: shift counts are taken modulo the width. -/
theorem test_shift_count_wraps : res (.shl ab false) 1 33 0 = some 2 ∧ res (.sar ab false) 0x80000000 31 0 = some 0xFFFFFFFF := by
  decide +kernel
theorem test_rot_and_funl : res (.rot ab false) 0x80000001 4 0 = some 0x18 ∧
    res (.funl abc false) 0x12345678 8 0x9ABCDEF0 = some 0x789ABCDE := by decide +kernel
theorem test_bfx : res (.bfx ab false false) 0x00000F00 0x0408 0 = some 0xFFFFFFFF ∧
    res (.bfx ab false true) 0x00000F00 0x0408 0 = some 0xF := by decide +kernel
theorem test_bfi : res (.bfi abc false) 0xFFFFFFFF 0x5 0x0408 = some 0xFFFFF5FF := by decide +kernel
theorem test_counts : res (.popc ao false) 0xF0F0 0 0 = some 8 ∧ res (.clz ao false) 0 0 0 = some 32 ∧
    res (.ctz ao false) 0x100 0 0 = some 8 ∧ res (.brev ao false) 1 0 0 = some 0x80000000 := by decide +kernel
/-- The worked example of R268. -/
theorem test_perm_example : res (.perm abc) 0x44332211 0x88776655 0xB405 = some 0x00551166 := by decide +kernel

/-- R269: the worked example, p3 = p1 and not p2. -/
theorem test_plog_example :
    let s := { demo with cohorts := upd demo.cohorts 0 (fun k => { k with preds := [(1, 3), (2, 2)] }) }
    seen (.plog on 3 1 2 7 0x30) s (pAt 3) = some 1 := by decide +kernel
theorem test_sel : res (.sel ab false 0 false) 5 6 0 = some 6 ∧ res (.sel ab false 0 true) 5 6 0 = some 5 := by decide +kernel
/-- R270: the pair of moves of the example. -/
theorem test_movi_movw_example :
    seen (.movi on (.s 3) false 0x9ABCDEF0) demo (sAt 3) = some 0x9ABCDEF0 ∧
    (let s := { demo with cohorts := upd demo.cohorts 0 (fun k => { k with sregs := [(3, 0x9ABCDEF0)] }) }
     seen (.movw on (.s 3) false 0x12345678) s (sAt 3) = some 0x123456789ABCDEF0) := by decide +kernel

/-- 1.5 + 2.25 = 3.75; the largest finite value plus itself overflows to infinity, or saturates (R204, R271). -/
theorem test_fadd : res (.fadd ab fm) 0x3FC00000 0x40100000 0 = some 0x40700000 := by decide +kernel
theorem test_fadd_overflow : res (.fadd ab fm) 0x7F7FFFFF 0x7F7FFFFF 0 = some 0x7F800000 ∧
    res (.fadd ab ⟨.rne, false, false, true⟩) 0x7F7FFFFF 0x7F7FFFFF 0 = some 0x7F7FFFFF := by decide +kernel
/-- (1 + 2^-23)(1 - 2^-23) - 1 is -2^-46 in one rounding. -/
theorem test_ffma_rounds_once : res (.ffma abc fm false false) 0x3F800001 0x3F7FFFFE 0xBF800000 = some 0xA8800000 := by decide +kernel
/-- R273: -0 is below +0, and one NaN gives the other operand. -/
theorem test_fmin : res (.fmin ab false false) 0 0x80000000 0 = some 0x80000000 ∧
    res (.fmax ab false false) 0x7FC00000 0x3F800000 0 = some 0x3F800000 := by decide +kernel
/-- R277: 3.5 is a tie between 3 and 4; -1 does not fit an unsigned word. -/
theorem test_cvt_to_integer : res (.cvt ao .rne true .s32 .f32) 0x40600000 0 0 = some 4 ∧
    res (.cvt ao .rne true .z32 .f32) 0xBF800000 0 0 = some 0 := by decide +kernel
theorem test_faddImm : seen (.faddImm on (v 3) (v 1) 0x3F800000) (lane0 0x3F800000 0 0) (vAt 3 0) = some 0x40000000 := by decide +kernel

/-- R281: lane 0 reads lane 1, lane 1 finds lane 2 not active. -/
theorem test_shfl_down : seen (.shfl (r (v 3) (v 1) (.i 1) (v 0)) .down false) demo (vAt 3 0) = some 7 ∧
    seen (.shfl (r (v 3) (v 1) (.i 1) (v 0)) .down false) demo (vAt 3 1) = some 7 := by decide +kernel
theorem test_ballot : seen (.vote on (v 3) 7 .ballot false) demo (vAt 3 1) = some 3 := by decide +kernel
/-- The worked example of R283: 1.0, 2^-24, 2^-24 and -1.0. -/
def four : State := { demo with
  cohorts := upd demo.cohorts 0 (fun k => { k with regs := [(64, 0x3F800000), (65, 0x33800000), (66, 0x33800000), (67, 0xBF800000)] })
  cur := { demo.cur with lanes := 0xF } }
theorem test_lred_fadd_example : seen (.lred (r (v 3) (v 2) (v 0) (v 0)) .fadd false false .rne) four (vAt 3 2) = some 0x34000000 := by
  decide +kernel

/-- R206 and R212: the scale and the mantissas of the worked example of BFP. -/
theorem test_bfp_example :
    let q := bfpBlock 4 none (fun _ => ⟨.rne, false, false, 0⟩) (List.map Fmt.fp32.dec [0x3FC00000, 0xBF400000, 0x3DCCCCCD, 0x40400000])
    q.1 = 0x203 ∧ q.2.1 = [3, -2, 0, 7] := by decide +kernel

/-! ### Control, memory, traps, the base die -/

/-- R289: the branch's lanes go to the word, the others go on. -/
theorem test_bra : seen (.bra on 1 3) demo (fun t => ((t.coh 0).pcOf 1).toNat) = some 0x200058 := by decide +kernel
theorem test_exit : seen (.exit on) demo (fun t => (t.coh 0).exited.toNat) = some 3 := by decide +kernel

/-- R371: a trap parks the lanes, and its record waits. -/
theorem test_trap_parks : seen (.trap on (v 1) 5) demo (fun t => (t.coh 0).parked.toNat) = some 3 ∧
    seen (.trap on (v 1) 5) demo (fun t => t.traps.info.length) = some 1 := by decide +kernel
/-- R242: a v-register beyond the launch's count is illegal. -/
theorem test_illegal_register : seen (.iadd (r (v 126) (v 1) (v 2) (v 0)) ⟨true, false, false⟩) { demo with
    grids := upd demo.grids 0 (fun g => { g with rcd := rcd.set 2 0x0004000800400001 }) }
    (fun t => (t.coh 0).parked.toNat) = some 3 := by decide +kernel

/-- R229: a store is in flight and its flag counts it; its perform event (R96) writes each lane's bytes and the count falls. -/
def demoStore : State := match exec (.st mw (v 2) 0) demo with
  | .next t => t
  | _ => demo
theorem test_store_counts : demoStore.ops.length = 1 ∧ getD (demoStore.coh 0).cf 0 0 = 1 := by decide +kernel
theorem test_store_performs :
    seen (.flaggedOpComplete 0 1) demoStore (fun t => getBytes t.mem 0x400000 4 + (((t.core 0).l1.map (fun e => e.data.toNat)).sum)) = some 3 ∧
    seen (.flaggedOpComplete 0 3) demoStore (fun t => getD (t.coh 0).cf 0 0) = some 0 := by decide +kernel

/-- R134: a hart takes a free lock, and finds it taken. -/
theorem test_kx_lock : seen (.kxLock 10) demo (fun t => t.kiosk.locks.length) = some 1 ∧
    seen (.kxLock 11) hartWait (fun t => t.kiosk.locks.length) = some 1 := by decide +kernel

/-- R442, R445: the capability words of package 0 of a domain of 576. -/
theorem test_capability_words :
    seen (.reset 0 0x3FFFF []) State.reset (fun t => t.capability0.toNat) = some 0x0000041808120101 ∧
    seen (.reset 0 0x3FFFF []) State.reset (fun t => t.capability1.toNat) = some 0x00A0020006000240 := by decide +kernel

/-- A step from the state in which a word has been placed runs it. -/
theorem test_step_runs_word :
    (match step (State.reset.withFetchWord 64 0x050070000000002A) with
     | .next t => vAt 7 0 t
     | _ => 1) = 0 ∧
    (match step (State.reset.withFetchWord 64 0x05E070000000002A) with
     | .next t => vAt 7 31 t
     | _ => 1) = 0x2A := by decide +kernel

end Sys2Proof.Tests
end

section
/-! PROOF. The two byte stores of a state, and what it is to keep their canonical form (O56).

Most of the machine's functions leave memory and the bank rows as they are (`foo_bytes`, and `execFoo_leaves` for
an instruction); the others reach them only through `put`, `putBytes`, `copyFrame` and `filter`, which keep the
canonical form (`Canonical.foo`, `execFoo_canonical`). One lemma for each function, in the order of the model. -/

namespace Sys2Proof.Machine

variable {α β : Type}

/-- The two byte stores: memory and the bank rows of the scratchpads. -/
def State.bytes (s : State) : List Host.Cell × List Host.Cell := (s.mem, s.bank)

/-- The canonical form of both byte stores. -/
def Canonical (b : List Host.Cell × List Host.Cell) : Prop := Memory.wf b.1 ∧ Memory.wf b.2

theorem State.memWf_iff (s : State) : s.memWf ↔ Canonical s.bytes := Iff.rfl

@[simp] theorem bytes_mk {ctl mem own bank cohorts blocks placed grids cores cluTlb constC l2 walkC late mvWaits ewr
    ops pulls transit walks invals kiosk harts traps queues qwaits tier fab svc shares serials cur agenda time fresh} :
    (State.mk ctl mem own bank cohorts blocks placed grids cores cluTlb constC l2 walkC late mvWaits ewr ops pulls
      transit walks invals kiosk harts traps queues qwaits tier fab svc shares serials cur agenda time fresh).bytes =
      (mem, bank) := by
  simp only [State.bytes]

@[simp] theorem State.mem_bank_eq (s : State) : (s.mem, s.bank) = s.bytes := by simp only [State.bytes]

/-! ### Folds -/

theorem foldl_invariant {σ : Type} (P : σ → Prop) {f : σ → α → σ} {l : List α} {r : σ} (h : P r)
    (hf : ∀ r x, P r → P (f r x)) : P (l.foldl f r) :=
  List.foldlRecOn l f h fun r hr x _ => hf r x hr

@[simp] theorem foldl_bytes (f : State → α → State) (hf : ∀ s x, (f s x).bytes = s.bytes) (l : List α)
    (s : State) : (l.foldl f s).bytes = s.bytes :=
  foldl_invariant (fun t => t.bytes = s.bytes) rfl fun t x ht => (hf t x).trans ht

theorem Canonical.foldl {f : State → α → State} {l : List α} {s : State} (h : Canonical s.bytes)
    (hf : ∀ s x, Canonical s.bytes → Canonical (f s x).bytes) : Canonical (l.foldl f s).bytes :=
  foldl_invariant (fun t : State => Canonical t.bytes) h hf

theorem Canonical.foldl_snd {f : β × State → α → β × State} {l : List α} {r : β × State}
    (h : Canonical r.2.bytes) (hf : ∀ r x, Canonical r.2.bytes → Canonical (f r x).2.bytes) :
    Canonical (l.foldl f r).2.bytes :=
  foldl_invariant (fun r : β × State => Canonical r.2.bytes) h hf

/-! ### Conditionals -/

@[simp] theorem bytes_ite (c : Prop) [Decidable c] (s t : State) :
    (if c then s else t).bytes = if c then s.bytes else t.bytes := apply_ite _ _ _ _

@[simp] theorem snd_bytes_ite (c : Prop) [Decidable c] (s t : α × State) :
    (if c then s else t).2.bytes = if c then s.2.bytes else t.2.bytes := by split <;> rfl

@[simp] theorem canonical_ite (c : Prop) [Decidable c] (a b : List Host.Cell × List Host.Cell) :
    Canonical (if c then a else b) ↔ if c then Canonical a else Canonical b := by split <;> rfl

/-! ### The writes -/

theorem Canonical.putMem {s : State} (h : Canonical s.bytes) (a : Nat) (v : Byte) :
    Canonical (put s.mem a v 0, s.bank) := ⟨wf_put h.1 a v, h.2⟩

theorem Canonical.putBytesMem {s : State} (h : Canonical s.bytes) (a n v : Nat) :
    Canonical (putBytes s.mem a n v, s.bank) := ⟨wf_putBytes h.1 a n v, h.2⟩

theorem Canonical.copyFrame {s : State} (h : Canonical s.bytes) (old new : Nat) :
    Canonical (copyFrame s.mem old new, s.bank) := ⟨wf_copyFrame h.1 old new, h.2⟩

theorem Canonical.putBytesBank {s : State} (h : Canonical s.bytes) (a n v : Nat) :
    Canonical (s.mem, putBytes s.bank a n v) := ⟨h.1, wf_putBytes h.2 a n v⟩

theorem Canonical.foldlPutBank {s : State} (h : Canonical s.bytes) (l : List α) (a : α → Nat) (v : α → Byte) :
    Canonical (s.mem, l.foldl (fun m x => put m (a x) (v x) 0) s.bank) :=
  ⟨h.1, foldl_invariant Memory.wf h.2 fun _ _ hm => wf_put hm _ _⟩

theorem Canonical.filterBank {s : State} (h : Canonical s.bytes) (p : Host.Cell → Bool) :
    Canonical (s.mem, s.bank.filter p) := ⟨h.1, wf_filter h.2 p⟩

/-! ### Outcomes -/

/-- The next state, if the outcome is one, has the byte stores of `s`. -/
def Leaves (s : State) (o : Host.Outcome State Fault Refusal) : Prop := ∀ t, o = .next t → t.bytes = s.bytes

@[simp] theorem leaves_next (s t : State) : Leaves s (.next t) ↔ t.bytes = s.bytes := by simp [Leaves]

@[simp] theorem leaves_fault (s : State) (r : Fault) : Leaves s (.fault r) := nofun

@[simp] theorem leaves_refused (s : State) (r : Refusal) : Leaves s (.refused r) := nofun

@[simp] theorem leaves_ite (s : State) (c : Prop) [Decidable c] (o p : Host.Outcome State Fault Refusal) :
    Leaves s (if c then o else p) ↔ if c then Leaves s o else Leaves s p := by split <;> rfl

/-- The next state, if the outcome is one, has byte stores in canonical form. -/
def CanonicalNext (o : Host.Outcome State Fault Refusal) : Prop := ∀ t, o = .next t → Canonical t.bytes

@[simp] theorem canonicalNext_next (t : State) : CanonicalNext (.next t) ↔ Canonical t.bytes := by
  simp [CanonicalNext]

@[simp] theorem canonicalNext_fault (r : Fault) : CanonicalNext (.fault r) := nofun

@[simp] theorem canonicalNext_refused (r : Refusal) : CanonicalNext (.refused r) := nofun

@[simp] theorem canonicalNext_ite (c : Prop) [Decidable c] (o p : Host.Outcome State Fault Refusal) :
    CanonicalNext (if c then o else p) ↔ if c then CanonicalNext o else CanonicalNext p := by split <;> rfl

theorem Leaves.canonical {s : State} {o : Host.Outcome State Fault Refusal} (ho : Leaves s o)
    (h : Canonical s.bytes) : CanonicalNext o := fun t ht => by rw [ho t ht]; exact h

/-- A meaning of instructions that keeps the canonical form. -/
def KeepsCanonical (run : Meaning) : Prop := ∀ i s, Canonical s.bytes → CanonicalNext (run i s)

/-- What `CanonicalNext` says, of an attempt to issue. -/
def CanonicalAttempt : Attempt → Prop
  | .done o => CanonicalNext o
  | .held s => Canonical s.bytes

/-- Both results of a run that may end early hold a state in canonical form. -/
def CanonicalExcept (st : α → State) : Except State α → Prop
  | .ok x => Canonical (st x).bytes
  | .error t => Canonical t.bytes

theorem Canonical.getD {s : State} {o : Option State} (h : Canonical s.bytes)
    (ho : ∀ t, o = some t → Canonical t.bytes) : Canonical (o.getD s).bytes := by
  cases o with
  | none => exact h
  | some t => exact ho t rfl

end Sys2Proof.Machine
end

section
/-! PROOF. Functions of the state that leave memory and the bank rows as they are. -/

namespace Sys2Proof.Machine

@[simp] theorem State.modCoh_bytes (s : State) (c : Nat) (f : Cohort → Cohort) :
    (s.modCoh c f).bytes = s.bytes := by simp [State.modCoh]

@[simp] theorem State.clearStall_bytes (s : State) (c : Nat) (m : LaneMask) :
    (s.clearStall c m).bytes = s.bytes := by simp [State.clearStall]

@[simp] theorem State.noteCoh_bytes (s : State) (c : Nat) : (s.noteCoh c).bytes = s.bytes := by
  simp [State.noteCoh]

@[simp] theorem State.modCore_bytes (s : State) (k : Nat) (f : Core → Core) :
    (s.modCore k f).bytes = s.bytes := by simp [State.modCore]

@[simp] theorem State.noteCore_bytes (s : State) (core : Nat) : (s.noteCore core).bytes = s.bytes := by
  simp [State.noteCore]

@[simp] theorem State.noted_bytes (s : State) : s.noted.bytes = s.bytes := by simp [State.noted]

@[simp] theorem State.setCur_bytes (s : State) (c : Nat) (m : LaneMask) (pc : DWord) (h : DWord) :
    (s.setCur c m pc h).bytes = s.bytes := by simp [State.setCur]

@[simp] theorem State.keepWaits_bytes (s t : State) : (s.keepWaits t).bytes = s.bytes := by
  simp [State.keepWaits]

@[simp] theorem State.endWaits_bytes (s : State) (c : Nat) (pc : DWord) :
    (s.endWaits c pc).bytes = s.bytes := by simp [State.endWaits]

@[simp] theorem State.acquireDrop_bytes (s : State) (core part : Nat) :
    (s.acquireDrop core part).bytes = s.bytes := by simp [State.acquireDrop]

@[simp] theorem State.tick_bytes (s : State) : s.tick.bytes = s.bytes := by simp [State.tick]

@[simp] theorem State.fitStore_bytes (s : State) (c : Nat) : (s.fitStore c).bytes = s.bytes := by
  simp [State.fitStore]

@[simp] theorem State.afterIssue_bytes (s : State) (c : Nat) (m : LaneMask) :
    (s.afterIssue c m).bytes = s.bytes := by simp [State.afterIssue]

@[simp] theorem State.addWalk_bytes (s : State) (l va : Nat) : (s.addWalk l va).bytes = s.bytes := by
  simp [State.addWalk]

@[simp] theorem State.fetchWait_bytes (s : State) (c : Nat) (m : LaneMask) (pc : DWord) (va : Nat) :
    (s.fetchWait c m pc va).bytes = s.bytes := by simp [State.fetchWait]

@[simp] theorem State.dropTlb_bytes (s : State) (f : TlbE → Bool) : (s.dropTlb f).bytes = s.bytes := by
  simp [State.dropTlb]

@[simp] theorem State.forget_bytes (s : State) (cause tctx va : Nat) :
    (s.forget cause tctx va).bytes = s.bytes := by simp [State.forget]

@[simp] theorem State.charge_bytes (s : State) (part pa n : Nat) : (s.charge part pa n).bytes = s.bytes := by
  simp [State.charge]

@[simp] theorem State.chargeOwner_bytes (s : State) (pa n : Nat) : (s.chargeOwner pa n).bytes = s.bytes := by
  unfold State.chargeOwner
  split <;> simp

@[simp] theorem State.markBad_bytes (s : State) (w : Nat) : (s.markBad w).bytes = s.bytes := by
  simp [State.markBad]

@[simp] theorem State.l2Bad_bytes (s : State) (x : Nat) (held write : Bool) :
    (s.l2Bad x held write).bytes = s.bytes := by simp [State.l2Bad]

@[simp] theorem State.next_bytes (s : State) : s.next.bytes = s.bytes := by simp [State.next]

@[simp] theorem State.l2Room_bytes (s : State) (line : Nat) (ls : List L2Line) :
    (s.l2Room line ls).2.bytes = s.bytes := by
  simp only [State.l2Room]
  (repeat' split) <;> simp

@[simp] theorem State.l2Sector_bytes (s : State) (x : Nat) (write free : Bool) :
    (s.l2Sector x write free).bytes = s.bytes := by simp [State.l2Sector]

@[simp] theorem State.l2Write_bytes (s : State) (pa n : Nat) : (s.l2Write pa n).bytes = s.bytes := by
  simp [State.l2Write]

@[simp] theorem State.modHart_bytes (s : State) (h : Nat) (f : Hart → Hart) :
    (s.modHart h f).bytes = s.bytes := by simp [State.modHart]

@[simp] theorem State.hartAbort_bytes (s : State) (h : Nat) (code sub : BitVec 8) :
    (s.hartAbort h code sub).bytes = s.bytes := by
  unfold State.hartAbort
  split <;> simp

@[simp] theorem State.conflictWrite_bytes (s : State) (pa n : Nat) (except : Option Nat) :
    (s.conflictWrite pa n except).bytes = s.bytes := by simp [State.conflictWrite]

@[simp] theorem State.repair_bytes (s : State) (pa n : Nat) : (s.repair pa n).bytes = s.bytes := by
  simp [State.repair]

@[simp] theorem State.modVf_bytes (s : State) (n : Nat) (f : Vf → Vf) : (s.modVf n f).bytes = s.bytes := by
  simp [State.modVf]

@[simp] theorem State.event_bytes (s : State) (part kind source m : Nat) (arg0 arg1 : DWord) :
    (s.event part kind source m arg0 arg1).bytes = s.bytes := by
  unfold State.event
  simp

@[simp] theorem State.unwait_bytes (s : State) (c : Nat) (m : LaneMask) : (s.unwait c m).bytes = s.bytes := by
  simp [State.unwait]

@[simp] theorem State.arrive_bytes (s : State) (c : Nat) (ls : List (Nat × DWord)) (fall : Bool) :
    (s.arrive c ls fall).bytes = s.bytes := by simp [State.arrive]

@[simp] theorem State.drop_bytes (s : State) (m : LaneMask) : (s.drop m).bytes = s.bytes := by
  simp [State.drop]

@[simp] theorem State.txAbort_bytes (s : State) (c l : Nat) (code sub : BitVec 8) :
    (s.txAbort c l code sub).bytes = s.bytes := by
  simp only [State.txAbort]
  (repeat' split) <;> simp

@[simp] theorem State.takeTid_bytes (s : State) (part : Nat) : (s.takeTid part).2.bytes = s.bytes := by
  simp [State.takeTid]

@[simp] theorem State.record_bytes (s : State) (c : Nat) (lanes : LaneMask) (pc : DWord) (a : TrapArgs)
    (word4 source slot : Nat) : (s.record c lanes pc a word4 source slot).2.bytes = s.bytes := by
  simp [State.record]

@[simp] theorem State.flagDown_bytes (s : State) (c : Nat) (f : Option Nat) :
    (s.flagDown c f).bytes = s.bytes := by
  unfold State.flagDown
  split <;> simp

@[simp] theorem State.modOp_bytes (s : State) (i : Nat) (f : Op → Op) : (s.modOp i f).bytes = s.bytes := by
  simp [State.modOp]

@[simp] theorem State.opDone_bytes (s : State) (i : Nat) (m : LaneMask) : (s.opDone i m).bytes = s.bytes := by
  unfold State.opDone
  split <;> simp

@[simp] theorem State.withdraw_bytes (s : State) (c : Nat) : (s.withdraw c).bytes = s.bytes := by
  simp [State.withdraw]

@[simp] theorem State.park_bytes (s : State) (c : Nat) (lanes : LaneMask) (pc : DWord) (a : TrapArgs) :
    (s.park c lanes pc a).bytes = s.bytes := by simp [State.park]

@[simp] theorem State.fail_bytes (s : State) (lanes : LaneMask) (a : TrapArgs) :
    (s.fail lanes a).bytes = s.bytes := by simp [State.fail]

@[simp] theorem State.illegal_bytes (s : State) (lanes : LaneMask) (sub : Nat) :
    (s.illegal lanes sub).bytes = s.bytes := by simp [State.illegal]

@[simp] theorem State.l2Read_bytes (s : State) (pa n : Nat) : (s.l2Read pa n).bytes = s.bytes := by
  simp [State.l2Read]

@[simp] theorem State.fillCore_bytes (s : State) (core : Nat) (e : TlbE) :
    (s.fillCore core e).bytes = s.bytes := by simp [State.fillCore]

@[simp] theorem State.fillHit_bytes (s : State) (core tctx va : Nat) :
    (s.fillHit core tctx va).bytes = s.bytes := by
  unfold State.fillHit
  (repeat' split) <;> simp

@[simp] theorem State.fetched_bytes (s : State) (c va : Nat) : (s.fetched c va).bytes = s.bytes := by
  simp only [State.fetched]
  (repeat' split) <;> simp

@[simp] theorem State.enter_bytes (s : State) (c : Nat) (m : LaneMask) (pc : DWord) :
    (s.enter c m pc).bytes = s.bytes := by simp [State.enter]

@[simp] theorem State.advance_bytes (s : State) : s.advance.bytes = s.bytes := by simp [State.advance]

@[simp] theorem State.meldFault_bytes (s : State) (lanes : LaneMask) (sub : Nat) :
    (s.meldFault lanes sub).bytes = s.bytes := by simp [State.meldFault]

@[simp] theorem State.badWord_bytes (s : State) (w : DWord) (sub : Nat) :
    (s.badWord w sub).bytes = s.bytes := by
  simp only [State.badWord]
  (repeat' split) <;> simp

@[simp] theorem State.wakeCore_bytes (s : State) (k : Nat) : (s.wakeCore k).bytes = s.bytes := by
  simp [State.wakeCore]

@[simp] theorem State.takePos_bytes (s : State) (c : Nat) : (s.takePos c).bytes = s.bytes := by
  simp [State.takePos]

@[simp] theorem State.hartTrap_bytes (s : State) (h : Nat) (cause tval : DWord) :
    (s.hartTrap h cause tval).bytes = s.bytes := by simp [State.hartTrap]

@[simp] theorem State.hartExc_bytes (s : State) (h : Nat) (cause : DWord) :
    (s.hartExc h cause).bytes = s.bytes := by simp [State.hartExc]

@[simp] theorem State.hartIllegal_bytes (s : State) (h : Nat) : (s.hartIllegal h).bytes = s.bytes := by
  simp [State.hartIllegal]

@[simp] theorem State.hartNext_bytes (s : State) (h : Nat) : (s.hartNext h).bytes = s.bytes := by
  simp [State.hartNext]

@[simp] theorem State.setX_bytes (s : State) (h : Nat) (r : BitVec 5) (v : DWord) :
    (s.setX h r v).bytes = s.bytes := by simp [State.setX]

theorem State.rvCsr_bytes {s t : State} {h : Nat} {rd : BitVec 5} {n op : Nat} {x : DWord} {write : Bool}
    (ht : s.rvCsr h rd n op x write = some t) : t.bytes = s.bytes := by
  unfold State.rvCsr at ht
  extract_lets s₁ k at ht
  have h₁ : s₁.bytes = s.bytes := by simp [s₁]
  split at ht
  · cases ht
  · simp only [← apply_ite some, Option.some.injEq] at ht
    simp [← ht, h₁]

@[simp] theorem State.rvRet_bytes (s : State) (h : Nat) : (s.rvRet h).bytes = s.bytes := by simp [State.rvRet]

theorem State.rvDo_bytes {s t : State} {h : Nat} {e : RvEff} (ht : s.rvDo h e = some t) :
    t.bytes = s.bytes := by
  unfold State.rvDo at ht
  split at ht
  case h_3 => exact State.rvCsr_bytes ht
  all_goals
    rw [← Option.some.inj ht]
    simp

@[simp] theorem State.l1Stale_bytes (s : State) (core part : Nat) (ss : List Nat) :
    (s.l1Stale core part ss).bytes = s.bytes := by simp [State.l1Stale]

@[simp] theorem State.noteDone_bytes (s : State) (w : LateWrite) : (s.noteDone w).bytes = s.bytes := by
  unfold State.noteDone
  split <;> simp

@[simp] theorem State.fillBoth_bytes (s : State) (core : Nat) (e : TlbE) :
    (s.fillBoth core e).bytes = s.bytes := by simp [State.fillBoth]

@[simp] theorem State.fillPtrs_bytes (s : State) (die tctx va : Nat) :
    (s.fillPtrs die tctx va).bytes = s.bytes := by
  unfold State.fillPtrs
  split <;> simp

@[simp] theorem State.l2Walk_bytes (s : State) (die tctx va : Nat) :
    (s.l2Walk die tctx va).bytes = s.bytes := by
  unfold State.l2Walk
  split <;> simp

@[simp] theorem State.leaveSets_bytes (s : State) (core part sec : Nat) :
    (s.leaveSets core part sec).bytes = s.bytes := by simp [State.leaveSets]

@[simp] theorem State.l1Upd_bytes (s : State) (core part sec : Nat) (f : L1Sec → L1Sec) :
    (s.l1Upd core part sec f).bytes = s.bytes := by simp [State.l1Upd]

@[simp] theorem State.claimDst_bytes (s : State) (c : Nat) (d : Dst) : (s.claimDst c d).bytes = s.bytes := by
  simp [State.claimDst]

@[simp] theorem State.writeS_bytes (s : State) (c n : Nat) (v : DWord) :
    (s.writeS c n v).bytes = s.bytes := by simp [State.writeS]

@[simp] theorem State.edit_bytes (s : State) (c : Nat) (m : LaneMask) (e : Edit) :
    (s.edit c m e).bytes = s.bytes := by
  simp only [State.edit]
  split <;> simp

@[simp] theorem State.markReplied_bytes (s : State) (t : TrapInfo) : (s.markReplied t).bytes = s.bytes := by
  simp [State.markReplied]

@[simp] theorem State.endTrap_bytes (s : State) (t : TrapInfo) : (s.endTrap t).bytes = s.bytes := by
  simp [State.endTrap]

@[simp] theorem State.unparkLanes_bytes (s : State) (c : Nat) (m : LaneMask) :
    (s.unparkLanes c m).bytes = s.bytes := by simp [State.unparkLanes]

@[simp] theorem State.freeLock_bytes (s : State) (part cls : Nat) :
    (s.freeLock part cls).bytes = s.bytes := by simp [State.freeLock]

@[simp] theorem State.modTx_bytes (s : State) (c l : Nat) (f : Tx → Tx) :
    (s.modTx c l f).bytes = s.bytes := by simp [State.modTx]

@[simp] theorem State.arriveAt_bytes (s : State) (c : Nat) (ls : List (Nat × DWord)) :
    (s.arriveAt c ls).bytes = s.bytes := by simp [State.arriveAt]

@[simp] theorem State.passPipe_bytes (s : State) (c : Nat) : (s.passPipe c).bytes = s.bytes := by
  simp only [State.passPipe]
  (repeat' split) <;> simp

@[simp] theorem State.freeClaims_bytes (s : State) (core c : Nat) :
    (s.freeClaims core c).bytes = s.bytes := by simp [State.freeClaims]

@[simp] theorem State.modGrd_bytes (s : State) (g : Nat) (f : Grid → Grid) :
    (s.modGrd g f).bytes = s.bytes := by simp [State.modGrd]

@[simp] theorem State.settleGrid_bytes (s : State) (g : Nat) : (s.settleGrid g).bytes = s.bytes := by
  simp [State.settleGrid]

@[simp] theorem State.modBlk_bytes (s : State) (b : Nat) (f : Block → Block) :
    (s.modBlk b f).bytes = s.bytes := by simp [State.modBlk]

@[simp] theorem State.modBar_bytes (s : State) (b i : Nat) (f : Bar → Bar) :
    (s.modBar b i f).bytes = s.bytes := by simp [State.modBar]

@[simp] theorem State.atomicAt_bytes (s : State) (pa n : Nat) : (s.atomicAt pa n).bytes = s.bytes := by
  simp [State.atomicAt]

@[simp] theorem State.l1Patch_bytes (s : State) (core part pa n v : Nat) :
    (s.l1Patch core part pa n v).bytes = s.bytes := by
  unfold State.l1Patch
  simp

@[simp] theorem State.refillPipes_bytes (s : State) (b : Nat) : (s.refillPipes b).bytes = s.bytes := by
  unfold State.refillPipes
  split
  · refine foldl_bytes _ (fun s p => ?_) _ _
    dsimp only
    split
    · rfl
    · split <;> simp
  · rfl

@[simp] theorem State.modPlc_bytes (s : State) (p : Nat) (f : Placed → Placed) :
    (s.modPlc p f).bytes = s.bytes := by simp [State.modPlc]

@[simp] theorem State.modCBar_bytes (s : State) (p i : Nat) (f : CBar → CBar) :
    (s.modCBar p i f).bytes = s.bytes := by simp [State.modCBar]

@[simp] theorem State.testCBar_bytes (s : State) (p i : Nat) : (s.testCBar p i).bytes = s.bytes := by
  simp [State.testCBar]

@[simp] theorem State.repairBank_bytes (s : State) (b n : Nat) : (s.repairBank b n).bytes = s.bytes := by
  simp [State.repairBank]

@[simp] theorem State.keepRows_bytes (s : State) (core part : Nat) (rs : List Nat) :
    (s.keepRows core part rs).bytes = s.bytes := by simp [State.keepRows]

@[simp] theorem State.modOpt_bytes (s : State) (core slot : Nat) (f : Opt → Opt) :
    (s.modOpt core slot f).bytes = s.bytes := by simp [State.modOpt]

@[simp] theorem State.l1Fill_bytes (s : State) (core part sec : Nat) :
    (s.l1Fill core part sec).bytes = s.bytes := by simp [State.l1Fill]

@[simp] theorem State.l1Repair_bytes (s : State) (core part pa n : Nat) :
    (s.l1Repair core part pa n).bytes = s.bytes := by simp [State.l1Repair]

@[simp] theorem State.unpark_bytes (s : State) : s.unpark.bytes = s.bytes := by simp [State.unpark]

@[simp] theorem State.dropColl_bytes (s : State) (dtid : Nat) (cid : BitVec 32) :
    (s.dropColl dtid cid).bytes = s.bytes := by simp [State.dropColl]

@[simp] theorem State.putColl_bytes (s : State) (c : Coll) : (s.putColl c).bytes = s.bytes := by
  simp [State.putColl]

@[simp] theorem State.closeColl_bytes (s : State) (c : Coll) (d : Nat) :
    (s.closeColl c d).bytes = s.bytes := by simp [State.closeColl]

@[simp] theorem State.setOpt_bytes (s : State) (core slot : Nat) (o : Opt) (f : Opt → Opt) :
    (s.setOpt core slot o f).bytes = s.bytes := by simp [State.setOpt]

@[simp] theorem State.engRecord_bytes (s : State) (core slot : Nat) (o : Opt) (cause level access va : Nat) :
    (s.engRecord core slot o cause level access va).2.bytes = s.bytes := by simp [State.engRecord]

@[simp] theorem State.emit_bytes (s : State) (o : Out) : (s.emit o).bytes = s.bytes := by simp [State.emit]

theorem State.fits_bytes {s t : State} (h : t.bytes = s.bytes) (core : Nat) :
    (s.fits core t).bytes = s.bytes := by simp [State.fits, h]

@[simp] theorem State.parkAll_bytes (s : State) (c cause sub : Nat) :
    (s.parkAll c cause sub).bytes = s.bytes :=
  foldl_bytes _ (fun s _ => State.fits_bytes (s.park_bytes c _ _ _) _) _ _

@[simp] theorem State.stall_bytes (s : State) : s.stall.bytes = s.bytes := by simp [State.stall]

@[simp] theorem State.useRegs_bytes (s : State) (c : Nat) (run : LaneMask) (regs : List (Opnd × Nat))
    (sread : List Nat) : (s.useRegs c run regs sread).bytes = s.bytes := by simp [State.useRegs]

@[simp] theorem State.issue_bytes (s : State) (n : Need) (body : State → LaneMask → State)
    (hb : ∀ t m, (body t m).bytes = t.bytes) : (s.issue n body).bytes = s.bytes := by simp [State.issue, hb]

@[simp] theorem State.writeV_bytes (s : State) (c n l : Nat) (w : Word) :
    (s.writeV c n l w).bytes = s.bytes := by simp [State.writeV]

@[simp] theorem State.putV_bytes (s : State) (c n l : Nat) (wide : Bool) (v : DWord) :
    (s.putV c n l wide v).bytes = s.bytes := by simp [State.putV]

@[simp] theorem State.result_bytes (s : State) (d : Opnd) (wide : Bool) (run : LaneMask) (f : Nat → DWord) :
    (s.result d wide run f).bytes = s.bytes := by
  unfold State.result
  split <;> simp

@[simp] theorem State.compute_bytes (s : State) (g : Guard) (d : Opnd) (dw : Bool) (src : List (Opnd × Bool))
    (f : State → Nat → DWord) : (s.compute g d dw src f).bytes = s.bytes := by simp [State.compute]

@[simp] theorem State.raise_bytes (s : State) (c : Nat) (f : NFlags) : (s.raise c f).bytes = s.bytes := by
  simp [State.raise]

@[simp] theorem State.resultP_bytes (s : State) (p : BitVec 3) (run : LaneMask) (f : Nat → Bool) :
    (s.resultP p run f).bytes = s.bytes := by simp [State.resultP]

@[simp] theorem State.computeP_bytes (s : State) (g : Guard) (p : BitVec 3) (src : List (Opnd × Bool))
    (f : State → Nat → Bool × NFlags) : (s.computeP g p src f).bytes = s.bytes := by simp [State.computeP]

@[simp] theorem State.flagUp_bytes (s : State) (c : Nat) (f : Option Nat) :
    (s.flagUp c f).bytes = s.bytes := by
  unfold State.flagUp
  split <;> simp

@[simp] theorem State.startOp_bytes (s : State) (o : Op) : (s.startOp o).bytes = s.bytes := by
  simp [State.startOp]

@[simp] theorem State.startComp_bytes (s : State) (f : FlagSel) (d : Opnd) (wide : Bool) (run : LaneMask)
    (v : Nat → DWord × NFlags) : (s.startComp f d wide run v).bytes = s.bytes := by simp [State.startComp]

@[simp] theorem State.divide_bytes (s : State) (rem : Bool) (r : R3) (f : FlagSel) (w u dzt : Bool) :
    (s.divide rem r f w u dzt).bytes = s.bytes := by simp [State.divide]

@[simp] theorem State.immOp_bytes (s : State) (g : Guard) (d a : Opnd) (imm : BitVec 32)
    (f : DWord → DWord → DWord) : (s.immOp g d a imm f).bytes = s.bytes := by simp [State.immOp]

@[simp] theorem State.op2_bytes (s : State) (r : R3) (w : Bool) (f : DWord → DWord → DWord) :
    (s.op2 r w f).bytes = s.bytes := by simp [State.op2]

@[simp] theorem State.op1_bytes (s : State) (r : R3) (wd w : Bool) (f : DWord → DWord) :
    (s.op1 r wd w f).bytes = s.bytes := by simp [State.op1]

@[simp] theorem State.computeF_bytes (s : State) (g : Guard) (d : Opnd) (dw : Bool) (src : List (Opnd × Bool))
    (f : State → Nat → DWord × NFlags) : (s.computeF g d dw src f).bytes = s.bytes := by simp [State.computeF]

@[simp] theorem State.fop2_bytes (s : State) (r : R3) (m : FMod)
    (f : Fmt → RMode → FVal → FVal → Nat × NFlags) : (s.fop2 r m f).bytes = s.bytes := by simp [State.fop2]

@[simp] theorem State.fimm_bytes (s : State) (g : Guard) (d a : Opnd) (imm : BitVec 32)
    (f : FVal → FVal → Nat × NFlags) : (s.fimm g d a imm f).bytes = s.bytes := by simp [State.fimm]

@[simp] theorem State.special1_bytes (s : State) (fn : Nat) (r : R3) (f : FlagSel) (ftz : Bool) :
    (s.special1 fn r f ftz).bytes = s.bytes := by simp [State.special1]

@[simp] theorem State.openRegion_bytes (s : State) (on : Bool) : (s.openRegion on).bytes = s.bytes := by
  simp [State.openRegion]

@[simp] theorem State.halfWrite_bytes (s : State) (h : Half) (run : LaneMask) (v : Nat → DWord × NFlags) :
    (s.halfWrite h run v).bytes = s.bytes := by simp [State.halfWrite]

@[simp] theorem State.pair_bytes (s : State) (split : Bool) (h0 h1 : Half) :
    (s.pair split h0 h1).bytes = s.bytes := by simp [State.pair]

@[simp] theorem State.branch_bytes (s : State) (run : LaneMask) (tgt : Nat → DWord)
    (first : State → LaneMask → State) (hf : ∀ t m, (first t m).bytes = t.bytes) :
    (s.branch run tgt first).bytes = s.bytes := by simp [State.branch, hf]

@[simp] theorem State.writeLink_bytes (s : State) (link : Opnd) (m : LaneMask) :
    (s.writeLink link m).bytes = s.bytes := by simp [State.writeLink]

@[simp] theorem State.callWord_bytes (s : State) (g : Guard) (link : Opnd) (src : List Opnd)
    (tgt : State → Nat → DWord) : (s.callWord g link src tgt).bytes = s.bytes := by simp [State.callWord]

@[simp] theorem State.setMeet_bytes (s : State) (run : LaneMask) (v : Nat → DWord) :
    (s.setMeet run v).bytes = s.bytes := by simp [State.setMeet]

@[simp] theorem State.mvOver_bytes (s : State) (u : MvUnit) : (s.mvOver u).bytes = s.bytes := by
  simp [State.mvOver]

@[simp] theorem State.mvMeet_bytes (s : State) (u : MvUnit) (tctx : Nat) (l : List (Page × Nat × Nat)) :
    (s.mvMeet u tctx l).2.bytes = s.bytes := by
  unfold State.mvMeet
  split <;> simp

@[simp] theorem State.addTransit_bytes (s : State) (rank : Nat) (acc : List (Nat × Nat × Nat)) :
    (s.addTransit rank acc).bytes = s.bytes := by simp [State.addTransit]

@[simp] theorem State.fillLanes_bytes (s : State) (n : Nat → Nat) (good : List (Nat × LaneRes)) :
    (s.fillLanes n good).bytes = s.bytes := by simp [State.fillLanes]

@[simp] theorem State.windowBack_bytes (s : State) (c : Nat) (segs : List Seg) :
    (s.windowBack c segs).bytes = s.bytes := by simp [State.windowBack]

@[simp] theorem State.acqAfter_bytes (s : State) (o : Op) (tx : Nat) : (s.acqAfter o tx).bytes = s.bytes := by
  simp [State.acqAfter]

@[simp] theorem State.waitPipe_bytes (s : State) (c : Nat) : (s.waitPipe c).bytes = s.bytes := by
  simp [State.waitPipe]

@[simp] theorem State.holdAt_bytes (s : State) (m : LaneMask) (i : Nat) (again : Bool) :
    (s.holdAt m i again).bytes = s.bytes := by simp [State.holdAt]

@[simp] theorem State.barArrive_bytes (s : State) (m : LaneMask) (i : Nat) :
    (s.barArrive m i).bytes = s.bytes := by simp [State.barArrive]

@[simp] theorem State.begin_bytes (s : State) (p : Start) (acc : List (Nat × LaneAcc)) :
    (s.begin_ p acc).bytes = s.bytes := by simp [State.begin_]

@[simp] theorem State.constByte_bytes (s : State) (cl grid pa : Nat) :
    (s.constByte cl grid pa).2.bytes = s.bytes := by
  simp only [State.constByte]
  (repeat' split) <;> simp

@[simp] theorem State.bufAdd_bytes (s : State) (m : MArgs) (op : AOp) (l : Nat) (segs : List Seg)
    (x : BitVec 128) : (s.bufAdd m op l segs x).bytes = s.bytes := by
  unfold State.bufAdd
  split <;> simp

@[simp] theorem State.bufLanes_bytes (s : State) (m : MArgs) (op : AOp) (rs : List (Nat × LaneRes))
    (x : Nat → BitVec 128) : (s.bufLanes m op rs x).bytes = s.bytes := by
  simp only [State.bufLanes]
  (repeat' split) <;> simp

@[simp] theorem State.bufGroup_bytes (s : State) (m : MArgs) (op : AOp) (rs : List (Nat × LaneRes))
    (x : Nat → BitVec 128) : (s.bufGroup m op rs x).bytes = s.bytes := by
  unfold State.bufGroup
  split <;> simp

@[simp] theorem State.setLock_bytes (s : State) (part cls : Nat) (w : TxWho) :
    (s.setLock part cls w).bytes = s.bytes := by simp [State.setLock]

@[simp] theorem State.lockAborts_bytes (s : State) (part cls : Nat) :
    (s.lockAborts part cls).bytes = s.bytes := by simp [State.lockAborts]

@[simp] theorem State.takeLock_bytes (s : State) (part cls : Nat) (w : TxWho) :
    (s.takeLock part cls w).bytes = s.bytes := by simp [State.takeLock]

@[simp] theorem State.putStatus_bytes (s : State) (c l n : Nat) (w : Word) :
    (s.putStatus c l n w).bytes = s.bytes := by simp [State.putStatus]

@[simp] theorem State.takeTicket_bytes (s : State) : s.takeTicket.2.bytes = s.bytes := by
  simp [State.takeTicket]

@[simp] theorem State.dropCopies_bytes (s : State) (ss : List Nat) : (s.dropCopies ss).bytes = s.bytes := by
  simp [State.dropCopies]

@[simp] theorem State.modSlot_bytes (s : State) (core part n : Nat) (f : Slot → Slot) :
    (s.modSlot core part n f).bytes = s.bytes := by simp [State.modSlot]

@[simp] theorem State.takeCmd_bytes (s : State) (e : EArgs) (i : Instr) (run : LaneMask) (slot gen : Nat)
    (desc : List DWord) (offs : List (Nat × DWord)) (follow : Option Instr) :
    (s.takeCmd e i run slot gen desc offs follow).bytes = s.bytes := by
  unfold State.takeCmd
  split <;> simp

@[simp] theorem State.command_bytes (s : State) (e : EArgs) (op : BitVec 8) (regs : List (Opnd × Nat))
    (reads : List Nat) (i : Instr) (f : State → LaneMask → CmdChk) :
    (s.command e op regs reads i f).bytes = s.bytes := by
  refine State.issue_bytes _ _ _ fun t run => ?_
  split
  case h_4 => split <;> simp
  all_goals simp

@[simp] theorem State.observe_bytes (s : State) (rel : Bool) : (s.observe rel).bytes = s.bytes := by
  simp [State.observe]

@[simp] theorem State.hartStatus_bytes (s : State) (h : Nat) (code sub : BitVec 8) :
    (s.hartStatus h code sub).bytes = s.bytes := by simp [State.hartStatus]

@[simp] theorem State.failLate_bytes (s : State) (i : Nat) (m : LaneMask) (a : TrapArgs) :
    (s.failLate i m a).bytes = s.bytes := by
  unfold State.failLate
  split <;> simp

@[simp] theorem State.sendPulls_bytes (s : State) (i : Nat) (m : LaneMask) (ts : List (Nat × Nat)) :
    (s.sendPulls i m ts).bytes = s.bytes := by
  unfold State.sendPulls
  simp

@[simp] theorem State.chargeAtomic_bytes (s : State) (gs : List Seg) :
    (s.chargeAtomic gs).bytes = s.bytes := by simp [State.chargeAtomic]

@[simp] theorem State.takeDst_bytes (s : State) (c i : Nat) (ds : List Dst) :
    (s.takeDst c i ds).bytes = s.bytes := by simp [State.takeDst]

@[simp] theorem State.bindSel_bytes (s : State) (i l : Nat) (w : BitVec 160) (ws : Nat → Bool) :
    (s.bindSel i l w ws).bytes = s.bytes := by
  unfold State.bindSel
  split <;> simp

@[simp] theorem State.bind_bytes (s : State) (i l : Nat) (w : BitVec 160) :
    (s.bind i l w).bytes = s.bytes := by simp [State.bind]

@[simp] theorem State.popBind_bytes (s : State) (i l : Nat) (t : MType) (v : BitVec 128) (st : Nat) :
    (s.popBind i l t v st).bytes = s.bytes := by simp [State.popBind]

@[simp] theorem State.modQueue_bytes (s : State) (part q : Nat) (f : QDesc → QDesc) :
    (s.modQueue part q f).bytes = s.bytes := by simp [State.modQueue]

@[simp] theorem State.doQcnt_bytes (s : State) (i : Nat) (o : Op) (q : Nat) :
    (s.doQcnt i o q).bytes = s.bytes := by simp [State.doQcnt]

@[simp] theorem State.modRing_bytes (s : State) (g r : Nat) (f : Ring → Ring) :
    (s.modRing g r f).bytes = s.bytes := by simp [State.modRing]

@[simp] theorem State.doRing_bytes (s : State) (i : Nat) (o : Op) : (s.doRing i o).bytes = s.bytes := by
  unfold State.doRing
  split <;> simp

@[simp] theorem State.dropPtrs_bytes (s : State) (tctx : Nat) : (s.dropPtrs tctx).bytes = s.bytes := by
  simp [State.dropPtrs]

@[simp] theorem State.l2Clean_bytes (s : State) (f : Nat) : (s.l2Clean f).bytes = s.bytes := by
  simp [State.l2Clean]

@[simp] theorem State.l2Drop_bytes (s : State) (f : Nat) : (s.l2Drop f).bytes = s.bytes := by
  simp [State.l2Drop]

@[simp] theorem State.chargeFrame_bytes (s : State) (part f : Nat) :
    (s.chargeFrame part f).bytes = s.bytes := by
  unfold State.chargeFrame
  simp

@[simp] theorem State.unbind_bytes (s : State) (g : Grid) : (s.unbind g).bytes = s.bytes := by
  simp [State.unbind]

@[simp] theorem State.request_bytes (s : State) : s.request.bytes = s.bytes := by simp [State.request]

@[simp] theorem State.toOpwait_bytes (s : State) (k : Nat) : (s.toOpwait k).bytes = s.bytes := by
  simp [State.toOpwait]

@[simp] theorem State.joinBars_bytes (s : State) (c : Nat) : (s.joinBars c).bytes = s.bytes := by
  simp [State.joinBars]

@[simp] theorem State.wake_bytes (s : State) (part : Nat) : (s.wake part).bytes = s.bytes := by
  simp only [State.wake]
  (repeat' split) <;> simp

@[simp] theorem State.gangTryGo_bytes (s : State) (k : Nat) : (s.gangTryGo k).bytes = s.bytes := by
  unfold State.gangTryGo
  split <;> simp

@[simp] theorem State.gangReserve_bytes (s : State) (k clu : Nat) (cores : List Nat) :
    (s.gangReserve k clu cores).bytes = s.bytes := by
  unfold State.gangReserve
  split <;> simp

@[simp] theorem State.setLimit_bytes (s : State) (die lim : Nat) : (s.setLimit die lim).bytes = s.bytes := by
  simp [State.setLimit]

@[simp] theorem State.pointEvent_bytes (s : State) (die new : Nat) :
    (s.pointEvent die new).bytes = s.bytes := by simp [State.pointEvent]

@[simp] theorem State.modTrapq_bytes (s : State) (p : Nat) (f : TrapQ → TrapQ) :
    (s.modTrapq p f).bytes = s.bytes := by simp [State.modTrapq]

@[simp] theorem State.chargeTime_bytes (s : State) (p ns : Nat) : (s.chargeTime p ns).bytes = s.bytes := by
  simp [State.chargeTime]

@[simp] theorem State.modShare_bytes (s : State) (n : Nat) (f : Share → Share) :
    (s.modShare n f).bytes = s.bytes := by simp [State.modShare]

@[simp] theorem State.endTurn_bytes (s : State) (share p : Nat) (next : Option Nat) :
    (s.endTurn share p next).bytes = s.bytes := by simp [State.endTurn]

@[simp] theorem State.haltCohorts_bytes (s : State) (p : Nat) : (s.haltCohorts p).bytes = s.bytes := by
  simp [State.haltCohorts]

@[simp] theorem State.markLost_bytes (s : State) (p : Nat) : (s.markLost p).bytes = s.bytes := by
  simp [State.markLost]

@[simp] theorem State.dropFollows_bytes (s : State) (p : Nat) : (s.dropFollows p).bytes = s.bytes := by
  unfold State.dropFollows
  simp

@[simp] theorem State.modAttest_bytes (s : State) (p : Nat) (f : Attest → Attest) :
    (s.modAttest p f).bytes = s.bytes := by simp [State.modAttest]

@[simp] theorem State.setPctl_bytes (s : State) (p w : Nat) : (s.setPctl p w).bytes = s.bytes := by
  simp [State.setPctl]

@[simp] theorem State.readImage_bytes (s : State) (p : Nat) : (s.readImage p).bytes = s.bytes := by
  unfold State.readImage
  split <;> simp

@[simp] theorem State.leaveShare_bytes (s : State) (share p : Nat) :
    (s.leaveShare share p).bytes = s.bytes := by simp [State.leaveShare]

@[simp] theorem State.repairOper_bytes (s : State) (core : Nat) (o : Opt) :
    (s.repairOper core o).bytes = s.bytes := by simp [State.repairOper]

@[simp] theorem State.modAcc_bytes (s : State) (core part n : Nat) (f : Acc → Acc) :
    (s.modAcc core part n f).bytes = s.bytes := by simp [State.modAcc]

@[simp] theorem State.startScale_bytes (s : State) (core slot : Nat) (o : Opt) (f base : Nat) :
    (s.startScale core slot o f base).2.bytes = s.bytes := by simp [State.startScale]

@[simp] theorem State.foldRing_bytes (s : State) (o : Opt) (f : Nat) (vs : List FVal) :
    (s.foldRing o f vs).bytes = s.bytes := by simp [State.foldRing]

@[simp] theorem State.tellFail_bytes (s : State) (core slot : Nat) (o : Opt) (r : EngOut) :
    (s.tellFail core slot o r).bytes = s.bytes := by
  unfold State.tellFail
  split <;> simp

@[simp] theorem State.modGang_bytes (s : State) (k : Nat) (f : Gang → Gang) :
    (s.modGang k f).bytes = s.bytes := by simp [State.modGang]

@[simp] theorem State.gangSettle_bytes (s : State) (k : Nat) : (s.gangSettle k).bytes = s.bytes := by
  simp [State.gangSettle]

@[simp] theorem State.gangPark_bytes (s : State) (k : Nat) (gid : BitVec 32) :
    (s.gangPark k gid).bytes = s.bytes := by simp [State.gangPark]

@[simp] theorem State.loadMeets_bytes (s : State) (l : Load) (ps : List (Page × Nat × Nat)) :
    (s.loadMeets l ps).2.bytes = s.bytes := by simp [State.loadMeets]

@[simp] theorem State.imageMeets_bytes (s : State) (l : Load) (off n : Nat) :
    (s.imageMeets l off n).2.bytes = s.bytes := by simp [State.imageMeets]

@[simp] theorem State.endLoad_bytes (s : State) (k : Nat) (l : Load) (status : Nat) :
    (s.endLoad k l status).bytes = s.bytes := by simp [State.endLoad]

@[simp] theorem State.targetMeets_bytes (s : State) (l : Load) : (s.targetMeets l).2.bytes = s.bytes := by
  simp [State.targetMeets]

@[simp] theorem State.modOwn_bytes (s : State) (fs : List Nat) (f : Own → Own) :
    (s.modOwn fs f).bytes = s.bytes := by simp [State.modOwn]

@[simp] theorem State.keepMeets_bytes (s t : State) : (s.keepMeets t).bytes = s.bytes := by
  simp [State.keepMeets]

@[simp] theorem State.segMeets_bytes (s : State) (l : Load) : (s.segMeets l).2.bytes = s.bytes := by
  simp [State.segMeets]

@[simp] theorem State.extend_bytes (s : State) (part v : Nat) : (s.extend part v).bytes = s.bytes := by
  simp [State.extend]

@[simp] theorem State.spdm_bytes (s : State) (vf code : Nat) (data : List Byte) (f : Vf → Vf) :
    (s.spdm vf code data f).bytes = s.bytes := by simp [State.spdm]

@[simp] theorem State.vendor_bytes (s : State) (vf : Nat) (ok : Bool) (f : State → State)
    (hf : (f s).bytes = s.bytes) : (s.vendor vf ok f).bytes = s.bytes := by simp [State.vendor, hf]

@[simp] theorem State.damageL1_bytes (s : State) (core pa : Nat) : (s.damageL1 core pa).bytes = s.bytes := by
  simp [State.damageL1]

@[simp] theorem State.damage_bytes (s : State) (unit : BitVec 8) (src pa : Nat) :
    (s.damage unit src pa).bytes = s.bytes := by
  unfold State.damage
  split <;> simp

@[simp] theorem State.l2Empty_bytes (s : State) (k : Nat) : (s.l2Empty k).bytes = s.bytes := by
  simp [State.l2Empty]

@[simp] theorem State.sliceAbort_bytes (s : State) (die k : Nat) : (s.sliceAbort die k).bytes = s.bytes := by
  simp [State.sliceAbort]

@[simp] theorem State.rivals_bytes (s : State) (h : Nat) (t : HartTx) (ss : List Nat) (write : Bool) :
    (s.rivals h t ss write).2.bytes = s.bytes := by simp [State.rivals]

@[simp] theorem State.hartTxWrite_bytes (s : State) (h : Nat) (t : HartTx) (pa n v : Nat) :
    (s.hartTxWrite h t pa n v).2.bytes = s.bytes := by simp [State.hartTxWrite]

@[simp] theorem State.setF_bytes (s : State) (h : Nat) (r : BitVec 5) (v : DWord) :
    (s.setF h r v).bytes = s.bytes := by simp [State.setF]

end Sys2Proof.Machine
end

section
/-! PROOF. Instructions that leave memory and the bank rows as they are. -/

namespace Sys2Proof.Machine

theorem execIadd_leaves (r : R3) (m : IMod) (s : State) : Leaves s (execIadd r m s) := by simp [execIadd]

theorem execIadd3_leaves (r : R3) (m : IMod) (s : State) : Leaves s (execIadd3 r m s) := by simp [execIadd3]

theorem execIsub_leaves (r : R3) (m : IMod) (s : State) : Leaves s (execIsub r m s) := by simp [execIsub]

theorem execIneg_leaves (r : R3) (m : IMod) (s : State) : Leaves s (execIneg r m s) := by simp [execIneg]

theorem execIabs_leaves (r : R3) (m : IMod) (s : State) : Leaves s (execIabs r m s) := by simp [execIabs]

theorem execImin_leaves (r : R3) (m : IMod) (s : State) : Leaves s (execImin r m s) := by simp [execImin]

theorem execImax_leaves (r : R3) (m : IMod) (s : State) : Leaves s (execImax r m s) := by simp [execImax]

theorem execLea_leaves (r : R3) (sh : BitVec 4) (u : Bool) (s : State) : Leaves s (execLea r sh u s) := by
  simp [execLea]

theorem execIcmp_leaves (g : Guard) (p : BitVec 3) (a b : Opnd) (cc : ICond) (w u : Bool) (s : State) :
    Leaves s (execIcmp g p a b cc w u s) := by simp [execIcmp]

theorem execImul_leaves (r : R3) (m : IMod) (s : State) : Leaves s (execImul r m s) := by simp [execImul]

theorem execImulh_leaves (r : R3) (m : IMod) (s : State) : Leaves s (execImulh r m s) := by simp [execImulh]

theorem execImad_leaves (r : R3) (m : IMod) (s : State) : Leaves s (execImad r m s) := by simp [execImad]

theorem execImadw_leaves (r : R3) (m : IMod) (s : State) : Leaves s (execImadw r m s) := by simp [execImadw]

theorem execIdiv_leaves (r : R3) (f : FlagSel) (w u dzt : Bool) (s : State) :
    Leaves s (execIdiv r f w u dzt s) := by simp [execIdiv]

theorem execIrem_leaves (r : R3) (f : FlagSel) (w u dzt : Bool) (s : State) :
    Leaves s (execIrem r f w u dzt s) := by simp [execIrem]

theorem execIaddImm_leaves (g : Guard) (d a : Opnd) (imm : BitVec 32) (s : State) :
    Leaves s (execIaddImm g d a imm s) := by simp [execIaddImm]

theorem execImulImm_leaves (g : Guard) (d a : Opnd) (imm : BitVec 32) (s : State) :
    Leaves s (execImulImm g d a imm s) := by simp [execImulImm]

theorem execAndImm_leaves (g : Guard) (d a : Opnd) (imm : BitVec 32) (s : State) :
    Leaves s (execAndImm g d a imm s) := by simp [execAndImm]

theorem execOrImm_leaves (g : Guard) (d a : Opnd) (imm : BitVec 32) (s : State) :
    Leaves s (execOrImm g d a imm s) := by simp [execOrImm]

theorem execXorImm_leaves (g : Guard) (d a : Opnd) (imm : BitVec 32) (s : State) :
    Leaves s (execXorImm g d a imm s) := by simp [execXorImm]

theorem execAnd_leaves (r : R3) (w : Bool) (s : State) : Leaves s (execAnd r w s) := by simp [execAnd]

theorem execOr_leaves (r : R3) (w : Bool) (s : State) : Leaves s (execOr r w s) := by simp [execOr]

theorem execXor_leaves (r : R3) (w : Bool) (s : State) : Leaves s (execXor r w s) := by simp [execXor]

theorem execAndn_leaves (r : R3) (w : Bool) (s : State) : Leaves s (execAndn r w s) := by simp [execAndn]

theorem execOrn_leaves (r : R3) (w : Bool) (s : State) : Leaves s (execOrn r w s) := by simp [execOrn]

theorem execNot_leaves (r : R3) (w : Bool) (s : State) : Leaves s (execNot r w s) := by simp [execNot]

theorem execShl_leaves (r : R3) (w : Bool) (s : State) : Leaves s (execShl r w s) := by simp [execShl]

theorem execShr_leaves (r : R3) (w : Bool) (s : State) : Leaves s (execShr r w s) := by simp [execShr]

theorem execSar_leaves (r : R3) (w : Bool) (s : State) : Leaves s (execSar r w s) := by simp [execSar]

theorem execRot_leaves (r : R3) (w : Bool) (s : State) : Leaves s (execRot r w s) := by simp [execRot]

theorem execFunl_leaves (r : R3) (w : Bool) (s : State) : Leaves s (execFunl r w s) := by simp [execFunl]

theorem execBfx_leaves (r : R3) (w u : Bool) (s : State) : Leaves s (execBfx r w u s) := by simp [execBfx]

theorem execBfi_leaves (r : R3) (w : Bool) (s : State) : Leaves s (execBfi r w s) := by simp [execBfi]

theorem execPopc_leaves (r : R3) (w : Bool) (s : State) : Leaves s (execPopc r w s) := by simp [execPopc]

theorem execClz_leaves (r : R3) (w : Bool) (s : State) : Leaves s (execClz r w s) := by simp [execClz]

theorem execCtz_leaves (r : R3) (w : Bool) (s : State) : Leaves s (execCtz r w s) := by simp [execCtz]

theorem execBrev_leaves (r : R3) (w : Bool) (s : State) : Leaves s (execBrev r w s) := by simp [execBrev]

theorem execPerm_leaves (r : R3) (s : State) : Leaves s (execPerm r s) := by simp [execPerm]

theorem execMov_leaves (r : R3) (w : Bool) (s : State) : Leaves s (execMov r w s) := by simp [execMov]

theorem execSel_leaves (r : R3) (w : Bool) (p : BitVec 3) (inv : Bool) (s : State) :
    Leaves s (execSel r w p inv s) := by simp [execSel]

theorem execPlog_leaves (g : Guard) (p pa pb pc : BitVec 3) (lut : BitVec 8) (s : State) :
    Leaves s (execPlog g p pa pb pc lut s) := by simp [execPlog]

theorem execMovi_leaves (g : Guard) (d : Opnd) (sx : Bool) (imm : BitVec 32) (s : State) :
    Leaves s (execMovi g d sx imm s) := by simp [execMovi]

theorem execMovw_leaves (g : Guard) (d : Opnd) (lo : Bool) (imm : BitVec 32) (s : State) :
    Leaves s (execMovw g d lo imm s) := by simp [execMovw]

theorem execFadd_leaves (r : R3) (m : FMod) (s : State) : Leaves s (execFadd r m s) := by simp [execFadd]

theorem execFsub_leaves (r : R3) (m : FMod) (s : State) : Leaves s (execFsub r m s) := by simp [execFsub]

theorem execFmul_leaves (r : R3) (m : FMod) (s : State) : Leaves s (execFmul r m s) := by simp [execFmul]

theorem execFfma_leaves (r : R3) (m : FMod) (na nc : Bool) (s : State) : Leaves s (execFfma r m na nc s) := by
  simp [execFfma]

theorem execFmin_leaves (r : R3) (ftz f64 : Bool) (s : State) : Leaves s (execFmin r ftz f64 s) := by
  simp [execFmin]

theorem execFmax_leaves (r : R3) (ftz f64 : Bool) (s : State) : Leaves s (execFmax r ftz f64 s) := by
  simp [execFmax]

theorem execFscale_leaves (r : R3) (m : FMod) (s : State) : Leaves s (execFscale r m s) := by
  simp [execFscale]

theorem execFcmp_leaves (g : Guard) (p : BitVec 3) (a b : Opnd) (cc : FCond) (ftz f64 : Bool) (s : State) :
    Leaves s (execFcmp g p a b cc ftz f64 s) := by simp [execFcmp]

theorem execFclass_leaves (r : R3) (f64 : Bool) (s : State) : Leaves s (execFclass r f64 s) := by
  simp [execFclass]

theorem execFrint_leaves (r : R3) (rnd : Rnd) (ftz f64 : Bool) (s : State) :
    Leaves s (execFrint r rnd ftz f64 s) := by simp [execFrint]

theorem execHadd2_leaves (r : R3) (rnd : Rnd) (ftz sat : Bool) (s : State) :
    Leaves s (execHadd2 r rnd ftz sat s) := by simp [execHadd2]

theorem execHmul2_leaves (r : R3) (rnd : Rnd) (ftz sat : Bool) (s : State) :
    Leaves s (execHmul2 r rnd ftz sat s) := by simp [execHmul2]

theorem execHfma2_leaves (r : R3) (rnd : Rnd) (ftz sat : Bool) (s : State) :
    Leaves s (execHfma2 r rnd ftz sat s) := by simp [execHfma2]

theorem execFaddImm_leaves (g : Guard) (d a : Opnd) (imm : BitVec 32) (s : State) :
    Leaves s (execFaddImm g d a imm s) := by simp [execFaddImm]

theorem execFmulImm_leaves (g : Guard) (d a : Opnd) (imm : BitVec 32) (s : State) :
    Leaves s (execFmulImm g d a imm s) := by simp [execFmulImm]

theorem execFminImm_leaves (g : Guard) (d a : Opnd) (imm : BitVec 32) (s : State) :
    Leaves s (execFminImm g d a imm s) := by simp [execFminImm]

theorem execFmaxImm_leaves (g : Guard) (d a : Opnd) (imm : BitVec 32) (s : State) :
    Leaves s (execFmaxImm g d a imm s) := by simp [execFmaxImm]

theorem execRcp_leaves (r : R3) (f : FlagSel) (ftz : Bool) (s : State) : Leaves s (execRcp r f ftz s) := by
  simp [execRcp]

theorem execRsq_leaves (r : R3) (f : FlagSel) (ftz : Bool) (s : State) : Leaves s (execRsq r f ftz s) := by
  simp [execRsq]

theorem execSqrt_leaves (r : R3) (f : FlagSel) (ftz : Bool) (s : State) : Leaves s (execSqrt r f ftz s) := by
  simp [execSqrt]

theorem execExp2_leaves (r : R3) (f : FlagSel) (ftz : Bool) (s : State) : Leaves s (execExp2 r f ftz s) := by
  simp [execExp2]

theorem execLog2_leaves (r : R3) (f : FlagSel) (ftz : Bool) (s : State) : Leaves s (execLog2 r f ftz s) := by
  simp [execLog2]

theorem execSinpi_leaves (r : R3) (f : FlagSel) (ftz : Bool) (s : State) :
    Leaves s (execSinpi r f ftz s) := by simp [execSinpi]

theorem execCospi_leaves (r : R3) (f : FlagSel) (ftz : Bool) (s : State) :
    Leaves s (execCospi r f ftz s) := by simp [execCospi]

theorem execTanh_leaves (r : R3) (f : FlagSel) (ftz : Bool) (s : State) : Leaves s (execTanh r f ftz s) := by
  simp [execTanh]

theorem execCvt_leaves (r : R3) (rnd : Rnd) (sat : Bool) (dt sty : CvtTy) (s : State) :
    Leaves s (execCvt r rnd sat dt sty s) := by simp [execCvt]

theorem execShfl_leaves (r : R3) (mode : ShflMode) (w : Bool) (s : State) :
    Leaves s (execShfl r mode w s) := by simp [execShfl]

theorem execVote_leaves (g : Guard) (d : Opnd) (p : BitVec 3) (mode : VoteMode) (pn : Bool) (s : State) :
    Leaves s (execVote g d p mode pn s) := by
  refine (leaves_next _ _).2 (State.issue_bytes _ _ _ fun t run => ?_)
  dsimp only
  split <;> simp

theorem execLred_leaves (r : R3) (op : LaneOp) (w u : Bool) (rnd : Rnd) (s : State) :
    Leaves s (execLred r op w u rnd s) := by simp [execLred]

theorem execLscan_leaves (r : R3) (op : LaneOp) (w u : Bool) (rnd : Rnd) (excl : Bool) (s : State) :
    Leaves s (execLscan r op w u rnd excl s) := by simp [execLscan]

theorem execMatchL_leaves (r : R3) (w : Bool) (s : State) : Leaves s (execMatchL r w s) := by
  simp [execMatchL]

theorem execPairedCoIssue_leaves (h0 h1 : Half) (s : State) : Leaves s (execPairedCoIssue h0 h1 s) := by
  simp [execPairedCoIssue]

theorem execPairedPathSplit_leaves (h0 h1 : Half) (s : State) : Leaves s (execPairedPathSplit h0 h1 s) := by
  simp [execPairedPathSplit]

theorem execBra_leaves (g : Guard) (off : BitVec 32) (idx : BitVec 3) (s : State) :
    Leaves s (execBra g off idx s) := by simp [execBra]

theorem execCall_leaves (g : Guard) (link : Opnd) (off : BitVec 32) (idx : BitVec 3) (s : State) :
    Leaves s (execCall g link off idx s) := by simp [execCall]

theorem execLoop_leaves (g : Guard) (cnt : BitVec 6) (off : BitVec 32) (idx : BitVec 3) (s : State) :
    Leaves s (execLoop g cnt off idx s) := by simp [execLoop]

theorem execBrm_leaves (g : Guard) (p : BitVec 3) (inv : Bool) (off : BitVec 32) (idx : BitVec 3)
    (s : State) : Leaves s (execBrm g p inv off idx s) := by simp [execBrm]

theorem execMeet_leaves (g : Guard) (clr : Bool) (off : BitVec 32) (idx : BitVec 3) (s : State) :
    Leaves s (execMeet g clr off idx s) := by simp [execMeet]

theorem execBrx_leaves (g : Guard) (a : Opnd) (s : State) : Leaves s (execBrx g a s) := by simp [execBrx]

theorem execCallx_leaves (g : Guard) (link a : Opnd) (s : State) : Leaves s (execCallx g link a s) := by
  simp [execCallx]

theorem execRet_leaves (g : Guard) (a : Opnd) (s : State) : Leaves s (execRet g a s) := by simp [execRet]

theorem execMend_leaves (g : Guard) (s : State) : Leaves s (execMend g s) := by simp [execMend]

theorem execSpflush_leaves (g : Guard) (s : State) : Leaves s (execSpflush g s) := by simp [execSpflush]

theorem execYield_leaves (g : Guard) (s : State) : Leaves s (execYield g s) := by simp [execYield]

theorem execWaitf_leaves (g : Guard) (mask : BitVec 12) (s : State) : Leaves s (execWaitf g mask s) := by
  simp [execWaitf]

theorem execNop_leaves (g : Guard) (s : State) : Leaves s (execNop g s) := by simp [execNop]

theorem execSrd_leaves (g : Guard) (d : Opnd) (r : SpReg) (s : State) : Leaves s (execSrd g d r s) := by
  simp [execSrd]

theorem execSwr_leaves (g : Guard) (a : Opnd) (r : SpReg) (s : State) : Leaves s (execSwr g a r s) := by
  refine (leaves_next _ _).2 (State.issue_bytes _ _ _ fun t run => ?_)
  dsimp only
  split <;> simp

theorem execGts_leaves (g : Guard) (d : Opnd) (s : State) : Leaves s (execGts g d s) := by simp [execGts]

theorem execClk_leaves (g : Guard) (d : Opnd) (s : State) : Leaves s (execClk g d s) := by simp [execClk]

theorem execTrap_leaves (g : Guard) (a : Opnd) (code : BitVec 8) (s : State) :
    Leaves s (execTrap g a code s) := by simp [execTrap]

theorem execBrkp_leaves (g : Guard) (code : BitVec 8) (s : State) : Leaves s (execBrkp g code s) := by
  simp [execBrkp]

theorem execTxst_leaves (g : Guard) (d : BitVec 7) (s : State) : Leaves s (execTxst g d s) := by
  simp [execTxst]

theorem execQpush_leaves (m : MArgs) (st x : Opnd) (q : BitVec 8) (s : State) :
    Leaves s (execQpush m st x q s) := by simp [execQpush]

theorem execQpop_leaves (m : MArgs) (d st : Opnd) (wait : Bool) (q : BitVec 8) (s : State) :
    Leaves s (execQpop m d st wait q s) := by simp [execQpop]

theorem execQcnt_leaves (m : MArgs) (d : Opnd) (q : BitVec 8) (s : State) : Leaves s (execQcnt m d q s) := by
  simp [execQcnt]

theorem execCpy_leaves (e : EArgs) (a : BitVec 6) (s : State) : Leaves s (execCpy e a s) := by simp [execCpy]

theorem execCpyg_leaves (e : EArgs) (a : BitVec 6) (b : BitVec 7) (s : State) :
    Leaves s (execCpyg e a b s) := by simp [execCpyg]

theorem execCpys_leaves (e : EArgs) (a : BitVec 6) (b : BitVec 7) (s : State) :
    Leaves s (execCpys e a b s) := by simp [execCpys]

theorem execCpym_leaves (e : EArgs) (a c : BitVec 6) (slot : BitVec 5) (s : State) :
    Leaves s (execCpym e a c slot s) := by simp [execCpym]

theorem execOmclm_leaves (e : EArgs) (a b : Opnd) (try_ : Bool) (scu : BitVec 2) (s : State) :
    Leaves s (execOmclm e a b try_ scu s) := by simp [execOmclm]

theorem execOmrel_leaves (e : EArgs) (a b : Opnd) (s : State) : Leaves s (execOmrel e a b s) := by
  simp [execOmrel]

theorem execAccz_leaves (e : EArgs) (acc : BitVec 3) (s : State) : Leaves s (execAccz e acc s) := by
  simp [execAccz]

theorem execAccld_leaves (e : EArgs) (a b : BitVec 6) (acc : BitVec 3) (s : State) :
    Leaves s (execAccld e a b acc s) := by simp [execAccld]

theorem execAccst_leaves (e : EArgs) (a b c : BitVec 6) (acc : BitVec 3) (s : State) :
    Leaves s (execAccst e a b c acc s) := by simp [execAccst]

theorem execAccmv_leaves (e : EArgs) (slot : BitVec 5) (c : BitVec 6) (acc : BitVec 3) (h : Bool)
    (s : State) : Leaves s (execAccmv e slot c acc h s) := by simp [execAccmv]

theorem execMma_leaves (e : EArgs) (sa sb : BitVec 5) (acc : BitVec 3) (s : State) :
    Leaves s (execMma e sa sb acc s) := by simp [execMma]

theorem execMmb_leaves (e : EArgs) (sa sb : BitVec 5) (acc : BitVec 3) (s : State) :
    Leaves s (execMmb e sa sb acc s) := by simp [execMmb]

theorem execFutw_leaves (g : Guard) (d a : Opnd) (s : State) : Leaves s (execFutw g d a s) := by
  refine (leaves_next _ _).2 (State.issue_bytes _ _ _ fun t run => ?_)
  dsimp only
  repeat' split
  all_goals simp

theorem execFutt_leaves (g : Guard) (p : BitVec 3) (a : Opnd) (s : State) : Leaves s (execFutt g p a s) := by
  simp [execFutt]

theorem execFutc_leaves (g : Guard) (a : Opnd) (s : State) : Leaves s (execFutc g a s) := by
  refine (leaves_next _ _).2 (State.issue_bytes _ _ _ fun t run => ?_)
  dsimp only
  repeat' split
  all_goals simp

theorem execColl_leaves (e : EArgs) (a b : BitVec 6) (kind : BitVec 2) (s : State) :
    Leaves s (execColl e a b kind s) := by simp [execColl]

theorem execPut_leaves (e : EArgs) (a b : BitVec 6) (s : State) : Leaves s (execPut e a b s) := by
  simp [execPut]

theorem execGet_leaves (e : EArgs) (a b : BitVec 6) (s : State) : Leaves s (execGet e a b s) := by
  simp [execGet]

theorem execQnt_leaves (e : EArgs) (a b c : BitVec 6) (wt : BitVec 4) (s : State) :
    Leaves s (execQnt e a b c wt s) := by simp [execQnt]

theorem execDqnt_leaves (e : EArgs) (a b c : BitVec 6) (wt : BitVec 4) (s : State) :
    Leaves s (execDqnt e a b c wt s) := by simp [execDqnt]

theorem execAmax_leaves (g : Guard) (f : FlagSel) (a : Opnd) (ring : BitVec 6) (adv : Bool) (s : State) :
    Leaves s (execAmax g f a ring adv s) := by simp [execAmax]

theorem execSring_leaves (g : Guard) (f : FlagSel) (d : Opnd) (ring : BitVec 6) (s : State) :
    Leaves s (execSring g f d ring s) := by simp [execSring]

theorem execKxBegin_leaves (rd rs1 : BitVec 5) (s : State) : Leaves s (execKxBegin rd rs1 s) := by
  simp only [execKxBegin]
  (repeat' split) <;> simp

theorem execKxAbort_leaves (code : BitVec 8) (s : State) : Leaves s (execKxAbort code s) := by
  simp [execKxAbort]

theorem execKxStat_leaves (rd : BitVec 5) (s : State) : Leaves s (execKxStat rd s) := by simp [execKxStat]

theorem execKxLock_leaves (rs1 : BitVec 5) (s : State) : Leaves s (execKxLock rs1 s) := by simp [execKxLock]

theorem execMvWaitTimeout_leaves (k : Nat) (s : State) : Leaves s (execMvWaitTimeout k s) := by
  unfold execMvWaitTimeout
  (repeat' split) <;> simp

theorem execTlbInvalidate_leaves (tctx : Nat) (what : InvalWhat) (s : State) :
    Leaves s (execTlbInvalidate tctx what s) := by simp [execTlbInvalidate]

theorem execPeerAccessArrive_leaves (k : Nat) (s : State) : Leaves s (execPeerAccessArrive k s) := by
  unfold execPeerAccessArrive
  (repeat' split) <;> simp

theorem execFloorWindow_leaves (s : State) : Leaves s (execFloorWindow s) := by simp [execFloorWindow]

theorem execTxLockWaitEnd_leaves (part cls : Nat) (s : State) : Leaves s (execTxLockWaitEnd part cls s) := by
  simp [execTxLockWaitEnd]

theorem execTxTimeLimit_leaves (who : TxWho) (s : State) : Leaves s (execTxTimeLimit who s) := by
  simp only [execTxTimeLimit]
  (repeat' split) <;> simp

theorem execBelvedereCheck_leaves (coh : Nat) (s : State) : Leaves s (execBelvedereCheck coh s) := by
  simp only [execBelvedereCheck]
  (repeat' split) <;> simp

theorem execActivePositionHandoff_leaves (out into : Nat) (s : State) :
    Leaves s (execActivePositionHandoff out into s) := by simp [execActivePositionHandoff]

theorem execPowerLimitStepDown_leaves (s : State) : Leaves s (execPowerLimitStepDown s) := by
  simp [execPowerLimitStepDown]

theorem execPowerLimitStepUp_leaves (s : State) : Leaves s (execPowerLimitStepUp s) := by
  simp [execPowerLimitStepUp]

theorem execTrapQueueSetup_leaves (part : Nat) (base : BitVec 64) (s : State) :
    Leaves s (execTrapQueueSetup part base s) := by simp [execTrapQueueSetup]

theorem execTrapQueueHeadWrite_leaves (part : Nat) (head : BitVec 64) (s : State) :
    Leaves s (execTrapQueueHeadWrite part head s) := by simp [execTrapQueueHeadWrite]

theorem execQueueSetup_leaves (part q : Nat) (ring spill : BitVec 64) (scap : BitVec 32) (s : State) :
    Leaves s (execQueueSetup part q ring spill scap s) := by
  -- a name for the pages, or the kernel computes what 65536 bytes of a ring cover
  obtain ⟨pages, hp⟩ : ∃ f, s.ringPages part = f := ⟨_, rfl⟩
  unfold execQueueSetup
  rw [leaves_next, hp]
  dsimp only
  (repeat' split) <;> simp

theorem execExportRegion_leaves (part region : Nat) (s : State) :
    Leaves s (execExportRegion part region s) := by simp [execExportRegion]

theorem execFloorRequest_leaves (part ch : Nat) (units : BitVec 9) (s : State) :
    Leaves s (execFloorRequest part ch units s) := by simp [execFloorRequest]

theorem execSliceEnd_leaves (share : Nat) (s : State) : Leaves s (execSliceEnd share s) := by
  simp only [execSliceEnd]
  (repeat' split) <;> simp

theorem execGangReady_leaves (gid : BitVec 32) (rank : Nat) (digest : BitVec 384) (s : State) :
    Leaves s (execGangReady gid rank digest s) := by
  unfold execGangReady
  split <;> simp

theorem execFeaturesOk_leaves (vf : Nat) (features : BitVec 64) (s : State) :
    Leaves s (execFeaturesOk vf features s) := by simp [execFeaturesOk]

theorem execReadAccount_leaves (vf : Nat) (s : State) : Leaves s (execReadAccount vf s) := by
  simp [execReadAccount]

theorem execEventDelivery_leaves (vf : Nat) (s : State) : Leaves s (execEventDelivery vf s) := by
  unfold execEventDelivery
  split <;> simp

theorem execCompletionEntryWrite_leaves (vf : Nat) (s : State) :
    Leaves s (execCompletionEntryWrite vf s) := by
  unfold execCompletionEntryWrite
  split <;> simp

theorem execGetVersion_leaves (vf : Nat) (s : State) : Leaves s (execGetVersion vf s) := by
  simp [execGetVersion]

theorem execGetCapabilities_leaves (vf : Nat) (s : State) : Leaves s (execGetCapabilities vf s) := by
  simp [execGetCapabilities]

theorem execNegotiateAlgorithms_leaves (vf : Nat) (s : State) : Leaves s (execNegotiateAlgorithms vf s) := by
  simp [execNegotiateAlgorithms]

theorem execGetDigests_leaves (vf : Nat) (s : State) : Leaves s (execGetDigests vf s) := by
  simp [execGetDigests]

theorem execGetCertificate_leaves (vf : Nat) (s : State) : Leaves s (execGetCertificate vf s) := by
  simp [execGetCertificate]

theorem execChallenge_leaves (vf : Nat) (nonce : BitVec 256) (s : State) :
    Leaves s (execChallenge vf nonce s) := by simp [execChallenge]

theorem execGetMeasurements_leaves (vf : Nat) (index : Nat) (s : State) :
    Leaves s (execGetMeasurements vf index s) := by simp [execGetMeasurements]

theorem execKeyExchange_leaves (vf : Nat) (s : State) : Leaves s (execKeyExchange vf s) := by
  simp [execKeyExchange]

theorem execFinish_leaves (vf : Nat) (s : State) : Leaves s (execFinish vf s) := by simp [execFinish]

theorem execEndSession_leaves (vf : Nat) (s : State) : Leaves s (execEndSession vf s) := by
  simp [execEndSession]

theorem execSetImageKey_leaves (vf : Nat) (k : Nat) (key : List (BitVec 8)) (s : State) :
    Leaves s (execSetImageKey vf k key s) := by simp [execSetImageKey]

theorem execSetDtid_leaves (vf : Nat) (dtid : BitVec 16) (s : State) : Leaves s (execSetDtid vf dtid s) := by
  simp [execSetDtid]

theorem execResetRecord_leaves (vf : Nat) (s : State) : Leaves s (execResetRecord vf s) := by
  simp [execResetRecord]

theorem execPctlWrite_leaves (p : Nat) (v : BitVec 32) (s : State) : Leaves s (execPctlWrite p v s) := by
  simp [execPctlWrite]

theorem execCorePowerGate_leaves (core : Nat) (s : State) : Leaves s (execCorePowerGate core s) := by
  simp [execCorePowerGate]

theorem execCoreWake_leaves (core : Nat) (s : State) : Leaves s (execCoreWake core s) := by
  simp [execCoreWake]

theorem execHartTrap_leaves (h : Nat) (cause : BitVec 64) (s : State) :
    Leaves s (execHartTrap h cause s) := by simp [execHartTrap]

theorem execUnknownControlRequest_leaves (vf : Nat) (_code : BitVec 32) (s : State) :
    Leaves s (execUnknownControlRequest vf _code s) := by simp [execUnknownControlRequest]

end Sys2Proof.Machine
end

section
/-! PROOF. Functions of the state that write memory or the bank rows, and keep their canonical form. -/

namespace Sys2Proof.Machine

@[simp] theorem Canonical.homePut {s : State} {pa n v : Nat} {except : Option Nat} (h : Canonical s.bytes) :
    Canonical (s.homePut pa n v except).bytes := by
  unfold State.homePut
  extract_lets s₁
  have h₁ : Canonical s₁.bytes := by simp [s₁, h]
  simpa using h₁.putBytesMem pa n v

@[simp] theorem Canonical.homeWrite {s : State} {pa n v : Nat} {except : Option Nat} (h : Canonical s.bytes) :
    Canonical (s.homeWrite pa n v except).bytes := by simp [State.homeWrite, h]

@[simp] theorem Canonical.logEnter {s : State} {r : ErrRec} {slot : Nat} (h : Canonical s.bytes) :
    Canonical (s.logEnter r slot).bytes := by simp [State.logEnter, h]

@[simp] theorem Canonical.logPut {s : State} {r : ErrRec} (h : Canonical s.bytes) :
    Canonical (s.logPut r).bytes := by
  unfold State.logPut
  extract_lets l _
  split
  · simp [h]
  · split <;> simp [h]

@[simp] theorem Canonical.logError {s : State} {kind unit : BitVec 8} {source : BitVec 16} {part : BitVec 5}
    {pa : DWord} {n : Nat} (h : Canonical s.bytes) :
    Canonical (s.logError kind unit source part pa n).bytes := by simp [State.logError, h]

@[simp] theorem Canonical.logBad {s : State} {part pa : Nat} (h : Canonical s.bytes) :
    Canonical (s.logBad part pa).bytes := by simp [State.logBad, h]

@[simp] theorem Canonical.fetchFault {s : State} {c : Nat} {m : LaneMask} {pc : DWord} {va cause level : Nat}
    (h : Canonical s.bytes) : Canonical (s.fetchFault c m pc va cause level).bytes := by
  unfold State.fetchFault
  extract_lets t t₁
  have ht : Canonical t.bytes := by simp [t, h]
  have ht₁ : Canonical t₁.bytes := by
    unfold t₁
    split
    · exact ht
    · split <;> simp [ht]
  simp [ht₁]

@[simp] theorem Canonical.issue {s : State} {n : Need} {body : State → LaneMask → State}
    (h : Canonical s.bytes) (hb : ∀ t m, Canonical t.bytes → Canonical (body t m).bytes) :
    Canonical (s.issue n body).bytes := by
  unfold State.issue
  extract_lets c act bad dis run s₁ s₂ s₃
  have h₁ : Canonical s₁.bytes := by simp [s₁, h]
  have h₂ : Canonical s₂.bytes := by simp [s₂, h₁]
  have h₃ : Canonical s₃.bytes := by
    unfold s₃
    split
    · exact h₂
    · exact hb _ _ (by simpa using h₂)
  (repeat' split) <;> simp [h, h₃]

theorem Canonical.fits {s t : State} {core : Nat} (h : Canonical s.bytes) (ht : Canonical t.bytes) :
    Canonical (s.fits core t).bytes := by simp [State.fits, h, ht]

@[simp] theorem Canonical.putPieces {s : State} {l : List (Nat × Nat)} {v : Nat} (h : Canonical s.bytes) :
    Canonical (s.putPieces l v).bytes :=
  Canonical.foldl_snd h fun _ _ hr => hr.homeWrite

@[simp] theorem Canonical.unitPut {s : State} {w : LateWrite} (h : Canonical s.bytes) :
    Canonical (s.unitPut w).bytes := by
  unfold State.unitPut
  extract_lets ps
  split
  · exact h
  · split <;> simp [h]

@[simp] theorem Canonical.retryLate {s : State} (h : Canonical s.bytes) : Canonical s.retryLate.bytes :=
  Canonical.foldl h fun t w ht => by simp [ht]

@[simp] theorem Canonical.bumpAcnt {s : State} {a part tctx va : Nat} (h : Canonical s.bytes) :
    Canonical (s.bumpAcnt a part tctx va).bytes := by simp [State.bumpAcnt, h]

@[simp] theorem Canonical.fillUnit {s : State} {core tctx va : Nat} (h : Canonical s.bytes) :
    Canonical (s.fillUnit core tctx va).bytes := by
  unfold State.fillUnit
  extract_lets die
  split
  · simp [h]
  · split
    · simp [h]
    · split <;> simp [h]

@[simp] theorem Canonical.fillSpan {s : State} {core tctx va n : Nat} (h : Canonical s.bytes) :
    Canonical (s.fillSpan core tctx va n).bytes := by simp [State.fillSpan, h]

@[simp] theorem Canonical.wbSector {s : State} {core part sec : Nat} (h : Canonical s.bytes) :
    Canonical (s.wbSector core part sec).bytes := by
  unfold State.wbSector
  split
  · exact h
  · extract_lets s₁ s₂ s₃
    have h₁ : Canonical s₁.bytes := by
      unfold s₁
      exact Canonical.foldl h fun t i ht => by simp [ht]
    have h₂ : Canonical s₂.bytes := by simp [s₂, h₁]
    have h₃ : Canonical s₃.bytes := by simp [s₃, h₂]
    simp [h₃]

@[simp] theorem Canonical.wbSectors {s : State} {core part : Nat} {l : List Nat} (h : Canonical s.bytes) :
    Canonical (s.wbSectors core part l).bytes :=
  Canonical.foldl h fun t x ht => by simp [ht]

@[simp] theorem Canonical.wbAll {s : State} {core part : Nat} (h : Canonical s.bytes) :
    Canonical (s.wbAll core part).bytes := by simp [State.wbAll, h]

@[simp] theorem Canonical.fbRelease {s : State} {c : Nat} {cls : Nat} (h : Canonical s.bytes) :
    Canonical (s.fbRelease c cls).bytes := by simp [State.fbRelease, h]

@[simp] theorem Canonical.endTx {s : State} {c : Nat} {m : LaneMask} {cause : Nat} (h : Canonical s.bytes) :
    Canonical (s.endTx c m cause).bytes :=
  Canonical.foldl h fun t l ht => by simp [ht]

@[simp] theorem Canonical.redirect {s : State} {c : Nat} {m : LaneMask} {cause : Nat} {pc : DWord}
    (h : Canonical s.bytes) : Canonical (s.redirect c m cause pc).bytes := by simp [State.redirect, h]

@[simp] theorem Canonical.pullSet {s : State} {core id : Nat} (h : Canonical s.bytes) :
    Canonical (s.pullSet core id).bytes := by
  unfold State.pullSet
  split <;> simp [h]

@[simp] theorem Canonical.pullAll {s : State} {ts : List (Nat × Nat)} (h : Canonical s.bytes) :
    Canonical (s.pullAll ts).bytes :=
  Canonical.foldl h fun t t ht => by simp [ht]

@[simp] theorem Canonical.homeSync {s : State} {core part pa n : Nat} (h : Canonical s.bytes) :
    Canonical (s.homeSync core part pa n).bytes :=
  Canonical.foldl h fun t x ht => by simp [ht]

@[simp] theorem Canonical.unitWrite {s : State} {grid part tctx va n v : Nat} (h : Canonical s.bytes) :
    Canonical (s.unitWrite grid part tctx va n v).bytes := by simp [State.unitWrite, h]

@[simp] theorem Canonical.putStat {s : State} {g : Nat} (h : Canonical s.bytes) :
    Canonical (s.putStat g).bytes := by simp [State.putStat, h]

@[simp] theorem Canonical.raiseGrid {s : State} {g : Nat} {f : NFlags} {wxov : Bool} (h : Canonical s.bytes) :
    Canonical (s.raiseGrid g f wxov).bytes := by simp [State.raiseGrid, h]

@[simp] theorem Canonical.relRoom {s : State} {core sec : Nat} (h : Canonical s.bytes) :
    Canonical (s.relRoom core sec).bytes := by
  unfold State.relRoom
  extract_lets k s₁ tags
  have h₁ : Canonical s₁.bytes := by
    unfold s₁
    split
    · split <;> simp [h]
    · exact h
  split
  · cases tags <;> simp [h₁]
  · exact h₁

@[simp] theorem Canonical.addRelease {s : State} {core part sec : Nat} {sc : Scope} {placed block : Nat}
    (h : Canonical s.bytes) : Canonical (s.addRelease core part sec sc placed block).bytes := by
  simp [State.addRelease, h]

@[simp] theorem Canonical.bufApply {s : State} {core : Nat} {e : BufEnt} (h : Canonical s.bytes) :
    Canonical (s.bufApply core e).bytes := by
  unfold State.bufApply
  extract_lets part n s₁ s₂ v s₃ s₄ s₅
  have h₁ : Canonical s₁.bytes := by simp [s₁, h]
  have h₂ : Canonical s₂.bytes := by simp [s₂, h₁]
  have h₃ : Canonical s₃.bytes := by simp [s₃, h₂]
  have h₄ : Canonical s₄.bytes := by simp [s₄, h₃]
  have h₅ : Canonical s₅.bytes := by simp [s₅, h₄]
  simp [h₅]

@[simp] theorem Canonical.flushBuf {s : State} {core : Nat} {f : BufEnt → Bool} (h : Canonical s.bytes) :
    Canonical (s.flushBuf core f).bytes := by
  unfold State.flushBuf
  extract_lets all es s₁
  have h₁ : Canonical s₁.bytes := by simp [s₁, h]
  exact Canonical.foldl h₁ fun t e ht => by simp [ht]

@[simp] theorem Canonical.testBar {s : State} {b i : Nat} (h : Canonical s.bytes) :
    Canonical (s.testBar b i).bytes := by simp [State.testBar, h]

@[simp] theorem Canonical.testBars {s : State} {b : Nat} (h : Canonical s.bytes) :
    Canonical (s.testBars b).bytes := by
  unfold State.testBars
  extract_lets s₁
  have h₁ : Canonical s₁.bytes := by
    unfold s₁
    exact Canonical.foldl h fun t i ht => by simp [ht]
  simp [h₁]

@[simp] theorem Canonical.clearRows {s : State} {core row n : Nat} (h : Canonical s.bytes) :
    Canonical (s.clearRows core row n).bytes := by
  unfold State.clearRows
  simpa using h.filterBank _

@[simp] theorem Canonical.leaveWindow {s : State} {core : Nat} {k : Cohort} (h : Canonical s.bytes) :
    Canonical (s.leaveWindow core k).bytes := by
  unfold State.leaveWindow
  split
  · exact h
  · extract_lets g base s₁
    obtain ⟨hmem, hbank⟩ : Canonical s₁.bytes := by simp [s₁, h]
    rw [State.keepRows_bytes]
    exact ⟨hmem, foldl_invariant Memory.wf hbank fun _ _ hm => wf_putBytes hm _ _ _⟩

@[simp] theorem Canonical.leaveRows {s : State} {b : Nat} (h : Canonical s.bytes) :
    Canonical (s.leaveRows b).bytes := by
  unfold State.leaveRows
  extract_lets k g cs s₁ s₂
  have h₁ : Canonical s₁.bytes := by
    unfold s₁
    exact Canonical.foldl h fun t e ht => by simp [ht]
  have h₂ : Canonical s₂.bytes := by simp [s₂, h₁]
  simp [h₂]

@[simp] theorem Canonical.settleBlk {s : State} {b : Nat} (h : Canonical s.bytes) :
    Canonical (s.settleBlk b).bytes := by simp [State.settleBlk, h]

@[simp] theorem Canonical.exitLanes {s : State} {c : Nat} {m : LaneMask} (h : Canonical s.bytes) :
    Canonical (s.exitLanes c m).bytes := by
  unfold State.exitLanes
  split
  · exact h
  · extract_lets part s₁ s₂ s₃ b s₄
    have h₁ : Canonical s₁.bytes := by simp [s₁, h]
    have h₂ : Canonical s₂.bytes := by simp [s₂, h₁]
    have h₃ : Canonical s₃.bytes := by simp [s₃, h₂]
    have h₄ : Canonical s₄.bytes := by simp [s₄, h₃]
    simp [h₄]

@[simp] theorem Canonical.kill {s : State} {c : Nat} {m : LaneMask} {cause : Nat} (h : Canonical s.bytes) :
    Canonical (s.kill c m cause).bytes := by simp [State.kill, h]

@[simp] theorem Canonical.stallAction {s : State} {t : TrapInfo} {action : Nat} {pc : DWord}
    (h : Canonical s.bytes) : Canonical (s.stallAction t action pc).bytes := by
  unfold State.stallAction
  extract_lets k m
  split <;> simp [h]

@[simp] theorem Canonical.logSeg {s : State} {part core : Nat} {g : Seg} {inL1 : Bool}
    (h : Canonical s.bytes) : Canonical (s.logSeg part core g inL1).bytes := by
  unfold State.logSeg
  split <;> simp [h]

@[simp] theorem Canonical.drainWrites {s : State} {f : EngWrite → Bool} (h : Canonical s.bytes) :
    Canonical (s.drainWrites f).bytes :=
  Canonical.foldl h fun t w ht => by simp [ht]

@[simp] theorem Canonical.drainRoutes {s : State} {rs : List (Nat × Option Nat)} (h : Canonical s.bytes) :
    Canonical (s.drainRoutes rs).bytes := by simp [State.drainRoutes, h]

@[simp] theorem Canonical.drainFor {s : State} {gs : List Seg} (h : Canonical s.bytes) :
    Canonical (s.drainFor gs).bytes := by simp [State.drainFor, h]

@[simp] theorem Canonical.engWalk {s : State} {core : Nat} {o : Opt} {va n : Nat} (h : Canonical s.bytes) :
    Canonical (s.engWalk core o va n).bytes := by simp [State.engWalk, h]

@[simp] theorem Canonical.wbDrop {s : State} {core part : Nat} {l : List Nat} (h : Canonical s.bytes) :
    Canonical (s.wbDrop core part l).bytes := by simp [State.wbDrop, h]

@[simp] theorem Canonical.l1Touch {s : State} {core part sec : Nat} (h : Canonical s.bytes) :
    Canonical (s.l1Touch core part sec).2.bytes := by
  unfold State.l1Touch
  split <;> simp [h]

@[simp] theorem Canonical.l1Load {s : State} {core part pa : Nat} (h : Canonical s.bytes) :
    Canonical (s.l1Load core part pa).2.bytes := by simp [State.l1Load, h]

@[simp] theorem Canonical.readSeg {s : State} {w : Who} {sc : Scope} {g : Seg} (h : Canonical s.bytes) :
    Canonical (s.readSeg w sc g).2.bytes := by
  unfold State.readSeg
  split
  · exact h
  · exact h
  · split
    · exact Canonical.foldl_snd h fun r i hr => by simp [hr]
    · simp [h]

@[simp] theorem Canonical.readSegs {s : State} {w : Who} {sc : Scope} {gs : List Seg}
    (h : Canonical s.bytes) : Canonical (s.readSegs w sc gs).2.bytes :=
  foldl_invariant (fun r : Nat × Nat × State => Canonical r.2.2.bytes) h fun _ _ hr => hr.readSeg

@[simp] theorem Canonical.engGet {s : State} {core : Nat} {o : Opt} {remote : Bool} {va n : Nat}
    (h : Canonical s.bytes) : Canonical (s.engGet core o remote va n).2.2.bytes := by
  unfold State.engGet
  extract_lets r s₁ s₂ v
  have h₁ : Canonical s₁.bytes := by
    unfold s₁
    refine Canonical.drainRoutes ?_
    simp [h]
  have h₂ : Canonical s₂.bytes := by
    unfold s₂
    split <;> simp [h₁]
  have hv : Canonical v.2.bytes := by simp [v, h₂]
  split
  · simp [h]
  · split
    · simp [h]
    · simp [hv]

@[simp] theorem Canonical.engReads {s : State} {core : Nat} {o : Opt} {l : List (Nat × Nat)}
    (h : Canonical s.bytes) : Canonical (State.engReads core o l s).2.2.bytes := by
  induction l generalizing s with
  | nil => exact h
  | cons a l ih =>
    unfold State.engReads
    extract_lets r q
    have hr : Canonical r.2.2.bytes := by simp [r, h]
    have hq : Canonical q.2.2.bytes := ih hr
    split <;> simp [hr, hq]

@[simp] theorem Canonical.qntRead {s : State} {core : Nat} {o : Opt} {wt : Nat} (h : Canonical s.bytes) :
    Canonical (s.qntRead core o wt).2.2.bytes := by simp [State.qntRead, h]

@[simp] theorem Canonical.l1Store {s : State} {core part pa : Nat} {b : Byte} (h : Canonical s.bytes) :
    Canonical (s.l1Store core part pa b).bytes := by simp [State.l1Store, h]

@[simp] theorem Canonical.writeSeg {s : State} {w : Who} {sc : Scope} {g : Seg} {v : Nat}
    (h : Canonical s.bytes) : Canonical (s.writeSeg w sc g v).bytes := by
  unfold State.writeSeg
  split
  · simpa using h.putBytesBank _ _ _
  · simp [h]
  · split
    · rw [State.l1Repair_bytes]
      exact Canonical.foldl h fun _ _ ht => ht.l1Store
    · split <;> simp [h]

@[simp] theorem Canonical.writeSegs {s : State} {w : Who} {sc : Scope} {gs : List Seg} {v : Nat}
    (h : Canonical s.bytes) : Canonical (s.writeSegs w sc gs v).bytes :=
  Canonical.foldl_snd h fun r g hr => by simp [hr]

@[simp] theorem Canonical.engSend {s : State} {core : Nat} {o : Opt} {va : Nat} {gs : List Seg} {v : Nat}
    (h : Canonical s.bytes) : Canonical (s.engSend core o va gs v).bytes := by
  unfold State.engSend
  extract_lets part
  split <;> simp [h]

@[simp] theorem Canonical.engPut {s : State} {core : Nat} {o : Opt} {remote : Bool} {va n v : Nat}
    (h : Canonical s.bytes) : Canonical (s.engPut core o remote va n v).2.bytes := by
  unfold State.engPut
  extract_lets r s₁ s₂ ss
  have h₁ : Canonical s₁.bytes := by simp [s₁, h]
  have h₂ : Canonical s₂.bytes := by simp [s₂, h₁]
  split
  · exact h
  · split
    · exact h
    · simp [h₂]

@[simp] theorem Canonical.putJunk {s : State} {core : Nat} {o : Opt} {scr : Bool} {l : List (Nat × Nat × Nat)}
    (h : Canonical s.bytes) : Canonical (s.putJunk core o scr l).bytes := by
  unfold State.putJunk
  refine Canonical.foldl h fun t a ht => ?_
  split
  · exact ht
  · extract_lets n
    exact Canonical.foldl ht fun t₁ i ht₁ => by simp [ht₁]

@[simp] theorem Canonical.dqntWrites {s : State} {core : Nat} {o : Opt} {f wt : Nat} (h : Canonical s.bytes) :
    Canonical (s.dqntWrites core o f wt).2.2.bytes := by simp [State.dqntWrites, h]

@[simp] theorem Canonical.engJunk {s : State} {core : Nat} {o : Opt} {l : List (Nat × Nat × Nat)}
    (h : Canonical s.bytes) : Canonical (s.engJunk core o l).bytes := by
  unfold State.engJunk
  refine Canonical.foldl h fun t a ht => ?_
  split
  · exact ht
  · extract_lets r n _ s₁
    have hr : Canonical r.2.2.bytes := by simp [r, ht]
    have h₁ : Canonical s₁.bytes := hr
    split
    · exact ht
    · exact Canonical.foldl h₁ fun t₁ i ht₁ => by simp [ht₁]

@[simp] theorem Canonical.cmdJunk {s : State} {core : Nat} {o : Opt} (h : Canonical s.bytes) :
    Canonical (s.cmdJunk core o).bytes := by
  unfold State.cmdJunk
  extract_lets f
  split <;> simp [h]

@[simp] theorem Canonical.putImage {s : State} {p base : Nat} {l : List ImgPart} (h : Canonical s.bytes) :
    Canonical (s.putImage p base l).bytes :=
  Canonical.foldl h fun t x ht => by simp [ht]

@[simp] theorem Canonical.keepArea {s : State} {c : Nat} (h : Canonical s.bytes) :
    Canonical (s.keepArea c).bytes := by
  unfold State.keepArea
  extract_lets k
  split
  · exact h
  · split <;> simp [h]

@[simp] theorem Canonical.finishCmd {s : State} {core slot code detail : Nat} (h : Canonical s.bytes) :
    Canonical (s.finishCmd core slot code detail).bytes := by
  unfold State.finishCmd
  split <;> simp [h]

@[simp] theorem Canonical.fabWrite {s : State} {core : Nat} {o : Opt} {code detail : Nat}
    (h : Canonical s.bytes) : Canonical (s.fabWrite core o code detail).2.bytes := by simp [State.fabWrite, h]

@[simp] theorem Canonical.cmdDone {s : State} {core slot : Nat} {o : Opt} {code detail : Nat}
    (h : Canonical s.bytes) : Canonical (s.cmdDone core slot o code detail).bytes := by
  simp [State.cmdDone, h]

@[simp] theorem Canonical.engEnd {s : State} {core slot : Nat} {o : Opt} {r : EngOut} {prog : Nat}
    (h : Canonical s.bytes) : Canonical (s.engEnd core slot o r prog).bytes := by
  unfold State.engEnd
  split <;> simp [h]

@[simp] theorem Canonical.fabEnd {s : State} {core slot : Nat} {o : Opt} {code detail : Nat}
    (h : Canonical s.bytes) : Canonical (s.fabEnd core slot o code detail).bytes := by
  unfold State.fabEnd
  extract_lets w later
  have hw : Canonical w.2.bytes := by simp [w, h]
  have hlater : Canonical (later w.2).bytes := by simp [later, hw]
  split
  · simp [hw]
  · split
    · simp [hw]
    · dsimp only
      split <;> simp [hw]
  all_goals exact hlater

@[simp] theorem Canonical.collFail {s : State} {core slot : Nat} {o : Opt} {code detail : Nat}
    (h : Canonical s.bytes) : Canonical (s.collFail core slot o code detail).bytes := by
  unfold State.collFail
  extract_lets t isOver
  have ht : Canonical t.bytes := by simp [t, h]
  split <;> simp [ht]

@[simp] theorem Canonical.engineAction {s : State} {t : TrapInfo} {action : Nat} (h : Canonical s.bytes) :
    Canonical (s.engineAction t action).bytes := by
  unfold State.engineAction
  split
  · exact h
  · split
    · dsimp only
      split
      · exact h
      · split <;> split <;> simp [h]
    · simp [h]

@[simp] theorem Canonical.resume {s : State} {c : Nat} {m : LaneMask} {cause : Nat} (h : Canonical s.bytes) :
    Canonical (s.resume c m cause).bytes := by simp [State.resume, h]

@[simp] theorem Canonical.laneAction {s : State} {t : TrapInfo} {m : LaneMask} {action : Nat} {pc : DWord}
    (h : Canonical s.bytes) : Canonical (s.laneAction t m action pc).bytes := by
  unfold State.laneAction
  split <;> simp [h]

def CanonicalAnswer (o : Option (Nat × State)) : Prop := ∀ st u, o = some (st, u) → Canonical u.bytes

@[simp] theorem canonicalAnswer_none : CanonicalAnswer none := nofun

@[simp] theorem canonicalAnswer_some (st : Nat) (u : State) :
    CanonicalAnswer (some (st, u)) ↔ Canonical u.bytes := by simp [CanonicalAnswer]

theorem Canonical.answer {s : State} {r : Reply} (h : Canonical s.bytes) : CanonicalAnswer (s.answer r) := by
  unfold State.answer
  extract_lets w tid action n dump
  split
  · simpa using h
  split
  · simpa using h
  case h_2 t _ =>
    extract_lets m laneKind g core ep moving size dp s₁
    have h₁ : Canonical s₁.bytes := by simp [s₁, h]
    split
    · simpa using h
    split
    · simp
    split
    · simp
    split
    · simpa using h
    case h_2 eps _ =>
      extract_lets v es
      split
      · simpa using h
      split
      · simp
      split
      · simp
      split
      · simpa using h₁
      case h_2 dps _ =>
        extract_lets s₂ s₃
        have h₂ : Canonical s₂.bytes := by
          unfold s₂
          split
          · refine Canonical.putPieces (Canonical.wbAll ?_)
            simpa using h₁.fillSpan
          · exact h₁
        have h₃ : Canonical s₃.bytes := by simp [s₃, h₂]
        split
        · simp [h₃]
        split
        · simp [h₃]
        split <;> simp [h₃]

@[simp] theorem Canonical.answerAll {s : State} {l : List Reply} (h : Canonical s.bytes) :
    Canonical (State.answerAll l s).2.bytes := by
  induction l generalizing s with
  | nil => exact h
  | cons r l ih =>
    unfold State.answerAll
    split
    case h_1 st u ha =>
      have hu : Canonical u.bytes := h.answer _ _ ha
      extract_lets v
      have hv : Canonical v.bytes := by
        unfold v
        split
        · exact hu.keepArea
        · exact hu
      exact ih (by simpa using hv)
    · exact h

@[simp] theorem Canonical.applyHeld {s : State} {p : Nat} (h : Canonical s.bytes) :
    Canonical (s.applyHeld p).bytes := by
  unfold State.applyHeld
  extract_lets mine a
  have ha : Canonical a.2.bytes := by simp [a, h]
  split
  · exact h
  · exact ha

@[simp] theorem Canonical.restartAt {s : State} {c : Nat} (h : Canonical s.bytes) :
    Canonical (s.restartAt c).bytes := by
  unfold State.restartAt
  extract_lets k m s₁ s₂
  have h₁ : Canonical s₁.bytes := by
    unfold s₁
    exact Canonical.foldl h fun t l ht => by simp [ht]
  have h₂ : Canonical s₂.bytes := by simp [s₂, h₁]
  simp [h₂]

@[simp] theorem Canonical.restartCohort {s : State} {c : Nat} (h : Canonical s.bytes) :
    Canonical (s.restartCohort c).bytes := by simp [State.restartCohort, h]

@[simp] theorem Canonical.ovfCount {s : State} {g : Nat} (h : Canonical s.bytes) :
    Canonical (s.ovfCount g).bytes := by simp [State.ovfCount, h]

@[simp] theorem Canonical.spawnLane {s : State} {c l : Nat} {tgt : DWord} {n : Nat} (h : Canonical s.bytes) :
    Canonical (s.spawnLane c l tgt n).2.bytes := by
  unfold State.spawnLane
  extract_lets k b g vals add e r
  split
  · exact h
  · split
    · extract_lets s₁
      have h₁ : Canonical s₁.bytes := by simp [s₁, h]
      dsimp only
      refine Canonical.ovfCount ?_
      refine Canonical.putPieces ?_
      exact h₁
    · exact h
    · exact h
    · simp [h]

@[simp] theorem Canonical.failLanes {s : State} {kind : Nat} {own : Nat → LaneMask}
    {rs : List (Nat × LaneRes)} (h : Canonical s.bytes) : Canonical (s.failLanes kind own rs).bytes := by
  refine Canonical.foldl h fun t c ht => ?_
  dsimp only
  split
  · exact ht
  · rw [State.fail_bytes]
    refine Canonical.foldl ?_ fun u x hu => by simpa using hu
    split
    · cases List.find? t.segBad _ <;> simp [ht]
    · exact ht

@[simp] theorem Canonical.accessBy {s : State} {tx : Nat → Bool} {kind : Nat} {once : Bool} {run : LaneMask}
    {va n : Nat → Nat} {pre : Nat → List Nat} {post : List Seg → List Nat → List Nat}
    {k : State → List (Nat × LaneRes) → State} (h : Canonical s.bytes)
    (hk : ∀ t l, Canonical t.bytes → Canonical (k t l).bytes) :
    Canonical (s.accessBy tx kind once run va n pre post k).bytes := by
  unfold State.accessBy
  extract_lets c ls by_ own rs walks ranks s₁ s₂ good₁ good₂ lines s₃ s₄ s₅
  have h₂ : Canonical s₂.bytes := by simp [s₂, s₁, h]
  have h₅ : Canonical s₅.bytes := by simp [s₅, s₄, s₃, h]
  split
  · simpa using h₂
  split
  · simpa using h
  split
  · exact h₅
  · exact hk _ _ (by simpa using h₅)

@[simp] theorem Canonical.access {s : State} {kind : Nat} {once : Bool} {run : LaneMask} {va n : Nat → Nat}
    {pre : Nat → List Nat} {post : List Seg → List Nat → List Nat} {k : State → List (Nat × LaneRes) → State}
    (h : Canonical s.bytes) (hk : ∀ t l, Canonical t.bytes → Canonical (k t l).bytes) :
    Canonical (s.access kind once run va n pre post k).bytes :=
  h.accessBy hk

@[simp] theorem Canonical.logLate {s : State} {o : Op} {g : Seg} (h : Canonical s.bytes) :
    Canonical (s.logLate o g).bytes := by simp [State.logLate, h]

@[simp] theorem Canonical.l1Trim {s : State} {w : Who} (h : Canonical s.bytes) :
    Canonical (s.l1Trim w).bytes := by simp [State.l1Trim, h]

@[simp] theorem Canonical.txEnter {s : State} {w : Who} {l sec : Nat} (h : Canonical s.bytes) :
    Canonical (s.txEnter w l sec).bytes := by simp [State.txEnter, h]

@[simp] theorem Canonical.txLoad {s : State} {w : Who} {l : Nat} {gs : List Seg} (h : Canonical s.bytes) :
    Canonical (s.txLoad w l gs).2.bytes := by
  unfold State.txLoad
  extract_lets start secs s₁ t bs s₂ byte
  have h₁ : Canonical s₁.bytes := by
    unfold s₁
    exact Canonical.foldl h fun t₁ x ht => by simp [ht]
  have h₂ : Canonical s₂.bytes := by simp [s₂, h₁]
  simp [h₁, h₂]

@[simp] theorem Canonical.loadLane {s : State} {m : MArgs} {run : LaneMask} {l va : Nat} {segs : List Seg}
    (h : Canonical s.bytes) : Canonical (s.loadLane m run l va segs).2.bytes := by
  unfold State.loadLane
  extract_lets c w tx o a hit s₁ r
  have h₁ : Canonical s₁.bytes := by simp [s₁, h]
  have hr : Canonical r.2.bytes := by simp [r, h₁]
  split
  · simp [h]
  · simp [h₁, hr]

@[simp] theorem Canonical.loadNow {s : State} {m : MArgs} {run : LaneMask} {good : List (Nat × LaneRes)}
    (h : Canonical s.bytes) : Canonical (s.loadNow m run good).2.bytes := by
  unfold State.loadNow
  extract_lets c segs busy
  split
  · exact h
  · exact Canonical.foldl_snd h fun a r ha => by simp [ha]

@[simp] theorem Canonical.ownNow {s : State} {p : Start} {a : LaneAcc} (h : Canonical s.bytes) :
    Canonical (s.ownNow p a).2.bytes := by
  unfold State.ownNow
  extract_lets c w s₁ s₂ r old n
  have h₁ : Canonical s₁.bytes := by simp [s₁, h]
  have h₂ : Canonical s₂.bytes := by simp [s₂, h₁]
  have hr : Canonical r.2.bytes := by simp [r, h₂]
  split
  · split
    · simp [hr]
    · simp [hr]
    · simp [hr]
    · simp [hr]
    · simp [h₂]
  · simp [h]

@[simp] theorem Canonical.startMem {s : State} {p : Start} {good : List (Nat × LaneRes)}
    {x cmp : Nat → BitVec 128} (h : Canonical s.bytes) : Canonical (s.startMem p good x cmp).bytes := by
  unfold State.startMem
  extract_lets c s₁ r
  have h₁ : Canonical s₁.bytes := by simp [s₁, h]
  have hr : Canonical r.2.bytes := by
    unfold r
    exact Canonical.foldl_snd h₁ fun acc e hacc => by simp [hacc]
  simp [h, hr]

@[simp] theorem Canonical.constRead {s : State} {w : Who} {gs : List Seg} (h : Canonical s.bytes) :
    Canonical (s.constRead w gs).2.bytes := by
  unfold State.constRead
  refine foldl_invariant (fun r : Nat × Nat × State => Canonical r.2.2.bytes) h fun r g hr => ?_
  split
  · exact foldl_invariant (fun r : Nat × Nat × State => Canonical r.2.2.bytes) hr fun q a hq => by simpa using hq
  · simpa using hr.readSeg

@[simp] theorem Canonical.startRmw {s : State} {m : MArgs} {op : AOp} {kind : OpKind}
    {dst : List (Dst × Nat × Nat)} {ret : Bool} {good : List (Nat × LaneRes)} {x : Nat → BitVec 128}
    (h : Canonical s.bytes) : Canonical (s.startRmw m op kind dst ret good x).bytes := by
  simp [State.startRmw, h]

@[simp] theorem Canonical.atomWord {s : State} {m : MArgs} {op : AOp} {d x : Opnd} {off : BitVec 10}
    {ret : Bool} (h : Canonical s.bytes) : Canonical (s.atomWord m op d x off ret).bytes := by
  unfold State.atomWord
  extract_lets dr
  refine Canonical.issue h fun t run ht => ?_
  extract_lets va
  exact Canonical.access ht fun t₁ l ht₁ => by simp [ht₁]

@[simp] theorem Canonical.atomsGo {s : State} {m : MArgs} {op : AOp} {d x : Opnd} {ret : Bool}
    {good : List (Nat × LaneRes)} (h : Canonical s.bytes) :
    Canonical (s.atomsGo m op d x ret good).bytes := by simp [State.atomsGo, h]

@[simp] theorem Canonical.cacheWord {s : State} {g : Guard} {all : Bool} {base idx : Opnd} {off : BitVec 14}
    {op : BitVec 8} {f : State → Nat → Nat → List Nat → State} (h : Canonical s.bytes)
    (hf : ∀ t core part l, Canonical t.bytes → Canonical (f t core part l).bytes) :
    Canonical (s.cacheWord g all base idx off op f).bytes := by
  refine Canonical.issue h fun t run ht => ?_
  extract_lets core part vs ps waits t₁
  have h₁ : Canonical t₁.bytes := Canonical.foldl (by simpa using ht) fun u v hu => hu.fillUnit
  split
  · exact hf _ _ _ _ ht
  split
  · simpa using ht
  · exact hf _ _ _ _ h₁

@[simp] theorem Canonical.txBegin {s : State} {c l d cls n : Nat} {exit : DWord} (h : Canonical s.bytes) :
    Canonical (s.txBegin c l d cls n exit).bytes := by simp [State.txBegin, h]

@[simp] theorem Canonical.txEndFb {s : State} {c l : Nat} (h : Canonical s.bytes) :
    Canonical (s.txEndFb c l).bytes := by simp [State.txEndFb, h]

@[simp] theorem Canonical.publish {s : State} {l : List (Nat × Byte)} {except : Option Nat}
    (h : Canonical s.bytes) : Canonical (s.publish l except).bytes := by
  unfold State.publish
  extract_lets s₁ s₂
  have h₁ : Canonical s₁.bytes := by
    unfold s₁
    exact Canonical.foldl h fun t e ht => by simp [ht]
  have h₂ : Canonical s₂.bytes := by simp [s₂, h₁]
  simp [h₂]

@[simp] theorem Canonical.txPublish {s : State} {t : Tx} (h : Canonical s.bytes) :
    Canonical (s.txPublish t).bytes := by simp [State.txPublish, h]

@[simp] theorem Canonical.txCommit {s : State} {c l : Nat} (h : Canonical s.bytes) :
    Canonical (s.txCommit c l).bytes := by
  unfold State.txCommit
  extract_lets t s₁
  have h₁ : Canonical s₁.bytes := by simp [s₁, h]
  split
  · simp [h]
  · split
    · simp [h]
    · simp [h, h₁]

@[simp] theorem Canonical.hartPublish {s : State} {h : Nat} {t : HartTx} (hs : Canonical s.bytes) :
    Canonical (s.hartPublish h t).bytes :=
  hs.publish

@[simp] theorem Canonical.retestBars {s : State} {b : Nat} (h : Canonical s.bytes) :
    Canonical (s.retestBars b).bytes := by
  unfold State.retestBars
  split
  · exact Canonical.foldl h fun t i ht => by simp [ht]
  · simp [h]

@[simp] theorem Canonical.relBefore {s : State} {o : Op} {a : LaneAcc} (h : Canonical s.bytes) :
    Canonical (s.relBefore o a).bytes := by simp [State.relBefore, h]

@[simp] theorem Canonical.relAfter {s : State} {o : Op} {a : LaneAcc} (h : Canonical s.bytes) :
    Canonical (s.relAfter o a).bytes := by
  unfold State.relAfter
  split <;> simp [h]

@[simp] theorem Canonical.doAtoms {s : State} {i : Nat} {o : Op} {op : AOp} (h : Canonical s.bytes) :
    Canonical (s.doAtoms i o op).bytes := by
  unfold State.doAtoms
  split
  · exact h
  · extract_lets a s₁ r step run s₂ s₃
    have h₁ : Canonical s₁.bytes := by simp [s₁, h]
    have hr : Canonical r.2.bytes := by simp [r, h₁]
    have h₂ : Canonical s₂.bytes := by simp [s₂, hr]
    have h₃ : Canonical s₃.bytes := by simp [s₃, h₂]
    simp [h₃]

@[simp] theorem Canonical.qTake {s : State} {part q : Nat} {r : Reader} (h : Canonical s.bytes) :
    Canonical (s.qTake part q r).2.bytes := by simp [State.qTake, h]

@[simp] theorem Canonical.qpopLane {s : State} {i : Nat} {o : Op} {q l : Nat} (h : Canonical s.bytes) :
    Canonical (s.qpopLane i o q l).bytes := by simp [State.qpopLane, h]

@[simp] theorem Canonical.serveWaits {s : State} {part q : Nat} (h : Canonical s.bytes) :
    Canonical (s.serveWaits part q).bytes := by
  unfold State.serveWaits
  refine Canonical.foldl h fun t w ht => ?_
  extract_lets d s₁
  have h₁ : Canonical s₁.bytes := by simp [s₁, ht]
  split
  · split <;> simp [h₁]
  · simp [ht]

@[simp] theorem Canonical.qPush {s : State} {part q : Nat} {v : BitVec 128}
    {rel : Option (Nat × Scope × Nat × Nat)} (h : Canonical s.bytes) :
    Canonical (s.qPush part q v rel).2.bytes := by
  unfold State.qPush
  extract_lets d at_ s₁ s₂ s₃
  have h₁ : Canonical s₁.bytes := by simp [s₁, h]
  have h₂ : Canonical s₂.bytes := by simp [s₂, h₁]
  have h₃ : Canonical s₃.bytes := by
    unfold s₃
    split <;> simp [h₂]
  simp [h, h₃]

@[simp] theorem Canonical.doQpush {s : State} {i : Nat} {o : Op} {q : Nat} (h : Canonical s.bytes) :
    Canonical (s.doQpush i o q).bytes := by
  unfold State.doQpush
  extract_lets rel
  exact Canonical.foldl h fun t e ht => by simp [ht]

@[simp] theorem Canonical.tryWhole {s : State} {i : Nat} (h : Canonical s.bytes) :
    Canonical (s.tryWhole i).bytes := by
  unfold State.tryWhole
  dsimp only
  split
  · simp [h]
  · split
    · simp [h]
    · split
      · simp [h]
      · split
        · simp [h]
        · split
          · simp [h]
          · refine Canonical.serveWaits ?_
            simp [h]
          · exact Canonical.foldl (by simp [h]) fun t l ht => by simp [ht]
          · simp [h]
          · simp [h]
          · simp [h]
          · simp [h]
          · simp [h]
          · simp [h]
          · simp [h]
          · simp [h]
          · simp [h]
          · simp [h]

@[simp] theorem Canonical.performPiece {s : State} {i : Nat} {o : Op} {l : Nat} {a : LaneAcc} {g : Seg}
    {t : List Seg} (h : Canonical s.bytes) : Canonical (s.performPiece i o l a g t).bytes := by
  unfold State.performPiece
  extract_lets k r
  have hr : Canonical r.2.bytes := by simp [r, h]
  split
  · exact hr
  · rw [State.modOp_bytes]
    refine Canonical.relAfter ?_
    simp [h]

@[simp] theorem Canonical.txTake {s : State} {w : Who} {l : Nat} {gs : List Seg} (h : Canonical s.bytes) :
    Canonical (s.txTake w l gs).bytes :=
  Canonical.foldl h fun t x ht => by simp [ht]

@[simp] theorem Canonical.txStore {s : State} {w : Who} {l : Nat} {gs : List Seg} {v : Nat}
    (h : Canonical s.bytes) : Canonical (s.txStore w l gs v).bytes := by simp [State.txStore, h]

@[simp] theorem Canonical.doTx {s : State} {i : Nat} {o : Op} {l : Nat} {a : LaneAcc} {load : Bool}
    {f : Nat → Option (Nat × NFlags)} (h : Canonical s.bytes) : Canonical (s.doTx i o l a load f).bytes := by
  unfold State.doTx
  split
  · exact h
  · split
    · extract_lets r
      have hr : Canonical r.2.bytes := by simp [r, h]
      dsimp only
      split
      · exact hr
      · split <;> simp [hr]
    · split <;> simp [h]

@[simp] theorem Canonical.doLoad {s : State} {i : Nat} {o : Op} {l : Nat} {a : LaneAcc}
    (h : Canonical s.bytes) : Canonical (s.doLoad i o l a).bytes := by simp [State.doLoad, h]

@[simp] theorem Canonical.doRmw {s : State} {i : Nat} {o : Op} {l : Nat} {a : LaneAcc}
    {f : Nat → Option (Nat × NFlags)} (h : Canonical s.bytes) : Canonical (s.doRmw i o l a f).bytes := by
  unfold State.doRmw
  extract_lets s₁ r v s₂ s₃
  have h₁ : Canonical s₁.bytes := by simp [s₁, h]
  have hr : Canonical r.2.bytes := by simp [r, h₁]
  have h₂ : Canonical s₂.bytes := by
    unfold s₂
    clear_value v
    cases v with
    | none => exact Canonical.foldl hr fun t g ht => by simpa using ht
    | some n => exact hr.writeSegs
  have h₃ : Canonical s₃.bytes := by simp [s₃, h₂]
  simp [h₃]

@[simp] theorem Canonical.performLane {s : State} {i : Nat} {o : Op} {l : Nat} (h : Canonical s.bytes) :
    Canonical (s.performLane i o l).bytes := by
  unfold State.performLane
  split
  · simp [h]
  · extract_lets tx w f
    split
    · simp [h]
    · simp [h]
    · split
      · simp [h]
      · refine Canonical.relAfter ?_
        simp [h]
    · simp [h]
    · simp [h]
    · simp [h]
    · simp [h]
    · simp [h]
    · simp [h]
    · simp [h]
    · simp [h]
    · simp [h]
    · simp [h]

@[simp] theorem Canonical.tryLane {s : State} {i l : Nat} (h : Canonical s.bytes) :
    Canonical (s.tryLane i l).bytes := by
  unfold State.tryLane
  split
  · simp [h]
  · split
    · simp [h]
    · split
      · simp [h]
      · split
        · simp [h]
        · extract_lets ts s₁
          have h₁ : Canonical s₁.bytes := by simp [s₁, h]
          split
          · simp [h]
          · split <;> simp [h₁]

@[simp] theorem Canonical.complete {s : State} {i : Nat} {m : LaneMask} (h : Canonical s.bytes) :
    Canonical (s.complete i m).bytes := by
  unfold State.complete
  split
  · exact h
  · split
    · split
      · exact h
      · exact h.fits h.tryWhole
    · exact Canonical.foldl h fun t l ht => ht.fits ht.tryLane

@[simp] theorem Canonical.fillAll {s : State} {e : TlbE} {acnt : Nat} {ws : List (Nat × Walk)}
    (h : Canonical s.bytes) : Canonical (s.fillAll e acnt ws).bytes := by
  unfold State.fillAll
  extract_lets s₁ clusters
  have h₁ : Canonical s₁.bytes := by simp [s₁, h]
  split
  · exact h₁
  · exact Canonical.foldl h₁ fun t x ht => by simp [ht]

@[simp] theorem Canonical.endWalk {s : State} {k : Nat} (h : Canonical s.bytes) :
    Canonical (s.endWalk k).bytes := by
  unfold State.endWalk
  split
  · simp [h]
  · split
    · simp [h]
    · extract_lets die same s₁
      have h₁ : Canonical s₁.bytes := by simp [s₁, h]
      split
      · simp [h]
      · simp [h]
      · simp [h, h₁]

@[simp] theorem Canonical.wbEntries {s : State} {l : List TlbE} (h : Canonical s.bytes) :
    Canonical (s.wbEntries l).bytes := by
  unfold State.wbEntries
  split
  · exact h
  · refine Canonical.foldl h fun t k ht => ?_
    exact Canonical.foldl ht fun t₁ x ht₁ => by simp [ht₁]

@[simp] theorem Canonical.engAcquire {s : State} {core : Nat} {o : Opt} (h : Canonical s.bytes) :
    Canonical (s.engAcquire core o).bytes := by
  unfold State.engAcquire
  split <;> simp [h]

@[simp] theorem Canonical.copyRun {core : Nat} {o : Opt} {rs rd : Bool} {l : List (Nat × Nat × Nat)} {p : Nat}
    {s : State} (h : Canonical s.bytes) : Canonical (State.copyRun core o rs rd l p s).2.2.bytes := by
  induction l generalizing p s with
  | nil => exact h
  | cons a l ih =>
    unfold State.copyRun
    split
    · exact ih h
    extract_lets r w
    have hr : Canonical r.2.2.bytes := by simp [r, h]
    have hw : Canonical w.2.bytes := by simp [w, hr]
    split
    · exact hr
    split
    · exact hw
    · exact ih hw

@[simp] theorem Canonical.clearFrame {s : State} {f : Nat} (h : Canonical s.bytes) :
    Canonical (s.clearFrame f).bytes := by
  unfold State.clearFrame
  extract_lets mine s₁ s₂ u s₃ s₄ ls
  have h₁ : Canonical s₁.bytes := by simp [s₁, h]
  have h₂ : Canonical s₂.bytes := Canonical.foldl h₁ fun t e ht =>
    Canonical.foldl ht fun u x hu => by simpa using hu.wbDrop
  have h₃ : Canonical s₃.bytes := by simpa [s₃, u] using h₂
  have h₄ : Canonical s₄.bytes := by simpa [s₄] using h₃
  simpa using h₄

@[simp] theorem Canonical.moveEnd {s : State} {k : Nat} {m : Move} (h : Canonical s.bytes) :
    Canonical (s.moveEnd k m).bytes := by
  unfold State.moveEnd
  extract_lets s₁ s₂ leaves s₃ s₄
  have h₁ : Canonical s₁.bytes := by simpa [s₁] using h.clearFrame
  have h₂ : Canonical s₂.bytes := by simpa [s₂] using h₁
  have h₃ : Canonical s₃.bytes := h₂.copyFrame _ _
  have h₄ : Canonical s₄.bytes := Canonical.foldl h₃ fun t a ht => ht.homeWrite
  exact Canonical.retryLate (by simpa using h₄)

@[simp] theorem Canonical.schedRead {s : State} {u : MvUnit} {part tctx va n : Nat} (h : Canonical s.bytes) :
    Canonical (s.schedRead u part tctx va n).2.bytes := by
  unfold State.schedRead
  extract_lets ps w
  have hw : Canonical w.2.bytes := by simp [w, h]
  split
  · simp [h]
  · simp [h, hw]

@[simp] theorem Canonical.depState {s : State} {k : Nat} {g : Grid} {va : Nat} (h : Canonical s.bytes) :
    Canonical (s.depState k g va).2.bytes := by
  unfold State.depState
  extract_lets r
  have hr : Canonical r.2.bytes := by simp [r, h]
  split <;> simp [hr]

@[simp] theorem Canonical.depRead {s : State} {k : Nat} (h : Canonical s.bytes) :
    Canonical (s.depRead k).2.bytes := by
  unfold State.depRead
  extract_lets g
  exact Canonical.foldl_snd h fun a va ha => by simp [ha]

@[simp] theorem Canonical.junkArea {s : State} {g : Grid} (h : Canonical s.bytes) :
    Canonical (s.junkArea g).bytes := by
  unfold State.junkArea
  split
  · exact h
  · dsimp only
    split
    · exact h
    · refine Canonical.foldl h fun t i ht => ?_
      split
      · simpa using ht.putMem _ _
      · exact ht
      · exact ht

@[simp] theorem Canonical.retire {s : State} {g code cause : Nat} {stat : Bool} (h : Canonical s.bytes) :
    Canonical (s.retire g code cause stat).bytes := by simp [State.retire, h]

@[simp] theorem Canonical.stepCount {s : State} {k : Nat} (h : Canonical s.bytes) :
    Canonical (s.stepCount k).bytes := by
  unfold State.stepCount
  extract_lets g r
  have hr : Canonical r.2.bytes := by simp [r, h]
  split
  · exact h
  · split <;> simp [hr]

@[simp] theorem Canonical.moveStart {s : State} {g : TReg} {old new : Nat} {promote : Bool}
    (h : Canonical s.bytes) : Canonical (s.moveStart g old new promote).bytes := by
  unfold State.moveStart
  extract_lets s₁ s₂ o s₃ _
  have h₁ : Canonical s₁.bytes := by
    unfold s₁
    exact Canonical.foldl h fun t a ht => by simp [ht]
  have h₂ : Canonical s₂.bytes := by simp [s₂, h₁]
  have h₃ : Canonical s₃.bytes := by simp [s₃, h₂]
  simp [h₃]

@[simp] theorem Canonical.swapStep {s : State} {w : Swap} (h : Canonical s.bytes) :
    Canonical (s.swapStep w).bytes := by
  unfold State.swapStep
  split
  · simp [h]
  · split
    · simp [h]
    · split
      · simp [h]
      · split
        · simp [h]
        · split <;> simp [h]

@[simp] theorem Canonical.tierRun {s : State} (h : Canonical s.bytes) : Canonical s.tierRun.bytes := by
  unfold State.tierRun
  extract_lets s₁ _
  have h₁ : Canonical s₁.bytes := by
    unfold s₁
    refine Canonical.foldl h fun t x ht => ?_
    exact Canonical.foldl ht fun t₁ w ht₁ => by simp [ht₁]
  simp [h₁]

@[simp] theorem Canonical.demandStart {s : State} {g : Grid} (h : Canonical s.bytes) :
    Canonical (s.demandStart g).bytes := by simp [State.demandStart, h]

@[simp] theorem Canonical.stepReswait {s : State} {k : Nat} (h : Canonical s.bytes) :
    Canonical (s.stepReswait k).bytes := by simp [State.stepReswait, h]

@[simp] theorem Canonical.stepLaunch {s : State} {k : Nat} (h : Canonical s.bytes) :
    Canonical (s.stepLaunch k).bytes := by
  unfold State.stepLaunch
  extract_lets d s₁ s₂
  have hd : Canonical d.2.bytes := by simp [d, h]
  have h₁ : Canonical s₁.bytes := by simp [s₁, h, hd]
  have h₂ : Canonical s₂.bytes := by simp [s₂, h₁]
  simp [h₂]

@[simp] theorem Canonical.letIn {s : State} {k : Nat} (h : Canonical s.bytes) :
    Canonical (s.letIn k).bytes := by simp [State.letIn, h]

@[simp] theorem Canonical.launchRun {s : State} (h : Canonical s.bytes) : Canonical s.launchRun.bytes := by
  refine Canonical.foldl h fun t _ ht => ?_
  have h₁ : Canonical (t.grids.foldl (fun s e => s.stepLaunch e.1) t).bytes :=
    Canonical.foldl ht fun u e hu => hu.stepLaunch
  exact Canonical.foldl h₁ fun u e hu => hu.letIn

theorem Canonical.takeRoom {s t : State} {b idx : Nat} (h : Canonical s.bytes)
    (ht : s.takeRoom b idx = some t) : Canonical t.bytes := by
  unfold State.takeRoom at ht
  dsimp only at ht
  split at ht
  · cases ht
    exact h
  · obtain ⟨r, -, hr⟩ := Option.bind_eq_some_iff.mp ht
    split at hr
    · cases hr
      simp [h]
    · cases hr

@[simp] theorem Canonical.startCohort {s : State} {b idx : Nat} {ls : List LaneStart}
    (h : Canonical s.bytes) : Canonical (s.startCohort b idx ls).bytes := by simp [State.startCohort, h]

theorem Canonical.readLaunch {s : State} {vf record gang tag flags : Nat} (h : Canonical s.bytes) :
    CanonicalExcept (·.2.2) (s.readLaunch vf record gang tag flags) := by
  unfold State.readLaunch
  extract_lets part u _ g0 r s₁
  have h₁ : Canonical s₁.bytes := by simp [s₁, r, h]
  split
  · exact h
  split
  · exact h₁
  · exact h₁
  extract_lets _ g d s₂ q s₃
  have hd : Canonical d.2.bytes := by unfold d; split <;> simp [h₁]
  have hq : Canonical q.2.bytes := by simp [q, s₂, hd]
  split
  · exact h₁
  split
  · exact hd
  · exact hd
  extract_lets g₁
  split
  · split <;> exact hd
  split
  · exact hd
  split
  · exact hq
  · exact hq
  extract_lets va l
  have hl : Canonical l.2.bytes := by unfold l; split <;> simp [s₃, hq]
  split
  · exact hl
  · exact hl
  extract_lets
  split <;> exact hl

@[simp] theorem Canonical.oldRows {s : State} {core part row n : Nat} (h : Canonical s.bytes) :
    Canonical (s.oldRows core part row n).bytes := by
  unfold State.oldRows
  split
  · exact h
  · refine Canonical.foldl h fun t r ht => ?_
    split
    · exact ht
    · rw [bytes_mk]
      exact ht.foldlPutBank _ _ _

@[simp] theorem Canonical.placeBlock {s : State} {k p rank core blk : Nat} (h : Canonical s.bytes) :
    Canonical (s.placeBlock k p rank core blk).bytes := by
  unfold State.placeBlock
  extract_lets g key count h₁
  split
  · exact h
  · extract_lets b s₁ s₂ s₃
    have h₁ : Canonical s₁.bytes := by simp [s₁, h]
    have h₂ : Canonical s₂.bytes := by simp [s₂, h₁]
    have h₃ : Canonical s₃.bytes := by simp [s₃, h₂]
    split
    · exact h₃
    · exact Canonical.foldl h₃ fun t c ht => by simp [ht]

@[simp] theorem Canonical.placeCluster {s : State} {k e j die clu : Nat} {cores : List Nat}
    (h : Canonical s.bytes) : Canonical (s.placeCluster k e j die clu cores).bytes := by
  unfold State.placeCluster
  extract_lets g s₁ s₂ p s₃ q base s₄
  have h₁ : Canonical s₁.bytes := by simp [s₁, h]
  have h₂ : Canonical s₂.bytes := by simp [s₂, h, h₁]
  have h₃ : Canonical s₃.bytes := by simp [s₃, h₂]
  have h₄ : Canonical s₄.bytes := by
    unfold s₄
    exact Canonical.foldl h₃ fun t c ht => by simp [ht]
  simp [h₄]

@[simp] theorem Canonical.putWake {s : State} {c : Nat} (h : Canonical s.bytes) :
    Canonical (s.putWake c).bytes := by
  unfold State.putWake
  split <;> simp [h]

@[simp] theorem Canonical.evict {s : State} {c : Nat} (h : Canonical s.bytes) :
    Canonical (s.evict c).bytes := by
  unfold State.evict
  extract_lets k n s₁
  have h₁ : Canonical s₁.bytes := by simp [s₁, h]
  simp [h₁]

theorem Canonical.restore {s t : State} {c : Nat} (h : Canonical s.bytes) (ht : s.restore c = some t) :
    Canonical t.bytes := by
  obtain ⟨u, hu, rfl⟩ := Option.map_eq_some_iff.mp ht
  simp [h.takeRoom hu]

@[simp] theorem Canonical.accstJunk {s : State} {core : Nat} {o : Opt} (h : Canonical s.bytes) :
    Canonical (s.accstJunk core o).bytes := by
  unfold State.accstJunk
  split <;> simp [h]

@[simp] theorem Canonical.saveImage {s : State} {p : Nat} (h : Canonical s.bytes) :
    Canonical (s.saveImage p).bytes := by
  unfold State.saveImage
  split <;> simp [h]

@[simp] theorem Canonical.halve {s : State} {g : TReg} (h : Canonical s.bytes) :
    Canonical (s.halve g).bytes := by
  unfold State.halve
  dsimp only
  split <;> simp [h]

@[simp] theorem Canonical.rebuild {s : State} {part : Nat} (h : Canonical s.bytes) :
    Canonical (s.rebuild part).bytes := by
  unfold State.rebuild
  extract_lets mine rec_ s₁ _
  have h₁ : Canonical s₁.bytes := by
    unfold s₁
    exact Canonical.foldl h fun t g ht => by simp [ht]
  simp [h₁]

@[simp] theorem Canonical.swapStart {s : State} {part : Nat} {out : Option Nat} (h : Canonical s.bytes) :
    Canonical (s.swapStart part out).bytes := by simp [State.swapStart, h]

@[simp] theorem Canonical.restoreBlock {s : State} {b : Nat} (h : Canonical s.bytes) :
    Canonical (s.restoreBlock b).bytes := by
  unfold State.restoreBlock
  extract_lets k g cs used wins free slots
  split
  · exact h
  split
  · exact h
  case h_2 rows _ =>
    extract_lets win base clear s₁ s₂
    have h₁ : Canonical s₁.bytes := ⟨h.1, wf_foldl_put (wf_filter h.2 _) _ _⟩
    have h₂ : Canonical s₂.bytes := by simp [s₂, h₁]
    split
    · exact h
    · refine Canonical.foldl h₂ fun t e ht => ?_
      split <;> simp [ht]

@[simp] theorem Canonical.refuse {s : State} {core slot : Nat} {o : Opt} {code detail : Nat}
    (h : Canonical s.bytes) : Canonical (s.refuse core slot o code detail).bytes := by simp [State.refuse, h]

theorem Canonical.cancelCmd {s t : State} {core slot : Nat} {o : Opt} (h : Canonical s.bytes)
    (ht : s.cancelCmd core slot o = some t) : Canonical t.bytes := by
  unfold State.cancelCmd at ht
  (repeat' split at ht) <;> cases ht <;> simp [h]

@[simp] theorem Canonical.runProduct {s : State} {core : Nat} {o : Opt} {i : Instr} {d0 : Nat}
    (h : Canonical s.bytes) : Canonical (s.runProduct core o i d0).bytes := by
  unfold State.runProduct
  extract_lets part d
  split <;> simp [h]

@[simp] theorem Canonical.runFill {s : State} {core slot : Nat} {o : Opt} {f dst : Nat}
    (h : Canonical s.bytes) : Canonical (s.runFill core slot o f dst).bytes := by simp [State.runFill, h]

@[simp] theorem Canonical.runClaim {s : State} {core slot : Nat} {o : Opt} {try_ : Bool} {scu : Nat}
    (h : Canonical s.bytes) : Canonical (s.runClaim core slot o try_ scu).bytes := by
  unfold State.runClaim
  extract_lets part u s₁ s₂
  have h₁ : Canonical s₁.bytes := by simp [s₁, h]
  have h₂ : Canonical s₂.bytes := by simp [s₂, h₁]
  split
  · simp [h₂]
  · simp [h]
  · simp [h]

@[simp] theorem Canonical.runRelease {s : State} {core slot : Nat} {o : Opt} (h : Canonical s.bytes) :
    Canonical (s.runRelease core slot o).bytes := by simp [State.runRelease, h]

@[simp] theorem Canonical.runAccld {s : State} {core slot : Nat} {o : Opt} {code acc : Nat}
    (h : Canonical s.bytes) : Canonical (s.runAccld core slot o code acc).bytes := by
  unfold State.runAccld
  extract_lets n rows r rowsV el fl s₁
  have hr : Canonical r.2.2.bytes := by simp [r, h]
  have h₁ : Canonical s₁.bytes := hr
  simp [hr, h₁]

@[simp] theorem Canonical.engWrites {core : Nat} {o : Opt} {l : List (Nat × Nat × Nat)} {p : Nat} {s : State}
    (h : Canonical s.bytes) : Canonical (State.engWrites core o l p s).2.2.bytes := by
  induction l generalizing p s with
  | nil => exact h
  | cons a l ih =>
    unfold State.engWrites
    extract_lets r
    have hr : Canonical r.2.bytes := by simp [r, h]
    split
    · exact hr
    · exact ih hr

@[simp] theorem Canonical.valuesEnd {s : State} {core slot : Nat} {o : Opt}
    {ws : List ((Nat × Nat × Nat) × NFlags)} {r : EngOut} {prog : Nat} (h : Canonical s.bytes) :
    Canonical (s.valuesEnd core slot o ws r prog).bytes := by
  unfold State.valuesEnd
  extract_lets fl s₁ s₂
  have h₁ : Canonical s₁.bytes := by simp [s₁, h]
  have h₂ : Canonical s₂.bytes := by
    unfold s₂
    split <;> simp [h₁]
  simp [h₂]

@[simp] theorem Canonical.runAccst {s : State} {core slot : Nat} {o : Opt} {f acc : Nat}
    (h : Canonical s.bytes) : Canonical (s.runAccst core slot o f acc).bytes := by
  unfold State.runAccst
  extract_lets st o' s₁ ws r s₂
  have h₁ : Canonical s₁.bytes := by simp [s₁, st, h]
  have hr : Canonical r.2.2.bytes := h₁.engWrites
  have h₂ : Canonical s₂.bytes := by
    unfold s₂
    split <;> simp [hr]
  simp [h₂]

@[simp] theorem Canonical.runAccmv {s : State} {core slot : Nat} {o : Opt} {f acc dst : Nat} {half : Bool}
    (h : Canonical s.bytes) : Canonical (s.runAccmv core slot o f acc dst half).bytes := by
  unfold State.runAccmv
  dsimp only
  simp [h]

@[simp] theorem Canonical.runQnt {s : State} {core slot : Nat} {o : Opt} {f wt : Nat}
    (h : Canonical s.bytes) : Canonical (s.runQnt core slot o f wt).bytes := by
  unfold State.runQnt
  extract_lets st o' r ws q s₁
  have hst : Canonical st.2.bytes := by simp [st, h]
  have hr : Canonical r.2.2.bytes := hst.qntRead
  have hq : Canonical q.2.2.bytes := hr.engWrites
  have h₁ : Canonical s₁.bytes := by
    unfold s₁
    split <;> simp [hq]
  split
  · simp [hr]
  · simp [h₁]

@[simp] theorem Canonical.runDqnt {s : State} {core slot : Nat} {o : Opt} {f wt : Nat}
    (h : Canonical s.bytes) : Canonical (s.runDqnt core slot o f wt).bytes := by
  unfold State.runDqnt
  extract_lets r q
  have hr : Canonical r.2.2.bytes := h.dqntWrites
  have hq : Canonical q.2.2.bytes := hr.engWrites
  split
  · simp [hr]
  · simp [hq]

@[simp] theorem Canonical.runMove {s : State} {core slot : Nat} {o : Opt} {put : Bool}
    (h : Canonical s.bytes) : Canonical (s.runMove core slot o put).bytes := by
  unfold State.runMove
  extract_lets r s₁
  have hr : Canonical r.2.2.bytes := h.copyRun
  have h₁ : Canonical s₁.bytes := by simp [s₁, hr]
  split
  · exact hr.fabEnd
  · refine Canonical.fabEnd ?_
    split <;> simp [h₁]
  · exact hr.engEnd

@[simp] theorem Canonical.agentGet {s : State} {core : Nat} {o : Opt} {va n : Nat} (h : Canonical s.bytes) :
    Canonical (s.agentGet core o va n).2.2.bytes := by
  unfold State.agentGet
  split <;> simp [h]

@[simp] theorem Canonical.collStop {s : State} {core slot : Nat} {o : Opt} {c d va l a : Nat}
    (h : Canonical s.bytes) : Canonical (s.collStop core slot o c d va l a).bytes := by
  simp [State.collStop, h]

@[simp] theorem Canonical.collPartial {s : State} {core : Nat} {o : Opt} {f kind : Nat} {c : Coll}
    (h : Canonical s.bytes) : Canonical (s.collPartial core o f kind c).bytes := by
  unfold State.collPartial
  extract_lets es at_ els
  exact Canonical.foldl h fun t e ht => by simp [ht]

@[simp] theorem Canonical.collExpire {s : State} {c : Coll} (h : Canonical s.bytes) :
    Canonical (s.collExpire c).bytes := by
  unfold State.collExpire
  extract_lets _ s₁ s₂
  have h₁ : Canonical s₁.bytes := by simp [s₁, h]
  have h₂ : Canonical s₂.bytes := by
    unfold s₂
    split
    · exact h₁
    · split <;> simp [h₁]
  simp [h₂]

@[simp] theorem Canonical.collDue {s : State} {dtid : Nat} {cid : BitVec 32} (h : Canonical s.bytes) :
    Canonical (s.collDue dtid cid).bytes := by
  unfold State.collDue
  split <;> simp [h]

@[simp] theorem Canonical.collStart {s : State} {core slot : Nat} {o : Opt} {f kind : Nat}
    (h : Canonical s.bytes) : Canonical (s.collStart core slot o f kind).bytes := by
  unfold State.collStart
  extract_lets g dtid d w nmem root tmo mva res q ml cid s₁ n rank c es src r head c₁ x s₂
  have hd : Canonical d.2.2.bytes := by simp [d, h]
  have hq : Canonical q.2.2.bytes := by
    unfold q
    split
    · exact hd
    · simp [hd]
  have h₁ : Canonical s₁.bytes := by simp [s₁, hq]
  have hr : Canonical r.2.2.bytes := by simp [r, h₁]
  have h₂ : Canonical s₂.bytes := by simp [s₂, hr]
  split
  · simp [hd]
  · exact hd
  · simp [hd]
  · simp [hd]
  · split
    · simp [hq]
    · exact hq
    · simp [hq]
    · simp [hq]
    · split
      · simp [h₁]
      · split
        · simp [h₁]
        · split
          · simp [h₁]
          · split
            · simp [h₁]
            · split
              · simp [hr]
              · simp [hr]
              · simp [hr]
              · exact hr
              · simp [h₂]

@[simp] theorem Canonical.copyEnd {s : State} {core slot : Nat} {o : Opt} {r : EngOut} {prog : Nat}
    (h : Canonical s.bytes) : Canonical (s.copyEnd core slot o r prog).bytes := by
  unfold State.copyEnd
  split <;> simp [h]

@[simp] theorem Canonical.runCmd {s : State} {core slot : Nat} {fill : Bool} (h : Canonical s.bytes) :
    Canonical (s.runCmd core slot fill).bytes := by
  unfold State.runCmd
  split
  · exact h
  case h_2 o _ =>
    extract_lets held s₁ s₂ fs r
    have h₁ : Canonical s₁.bytes := by
      unfold s₁
      split <;> simp [h]
    have h₂ : Canonical s₂.bytes := by simp [s₂, h₁]
    have hr : Canonical r.2.2.bytes := h₂.copyRun
    split
    · exact h
    split
    case h_1 t ht => exact h₁.cancelCmd ht
    split
    · exact h₁
    split
    · split <;> simp [h₁]
    split
    · simp [h₁]
    split
    · exact h₁
    split
    · simp [h₁]
    split
    · split
      · split <;> simp [h₂]
      · split <;> simp [h₂]
    · exact h₂.runClaim
    · exact h₂.runRelease
    · simp [h₂]
    · exact h₂.runAccld
    · exact h₂.runAccst
    · exact h₂.runAccmv
    · simp [h₂]
    · simp [h₂]
    · exact h₂.runQnt
    · exact h₂.runDqnt
    · exact h₂.runMove
    · exact h₂.runMove
    · split
      · exact h₂
      · exact h₂.collStart
    · exact hr.copyEnd

@[simp] theorem Canonical.remoteDo {s : State} {kind : RemoteKind} {pa n : Nat} {x : BitVec 128}
    (h : Canonical s.bytes) : Canonical (s.remoteDo kind pa n x).2.bytes := by
  unfold State.remoteDo
  extract_lets s₁ old s₂
  have h₁ : Canonical s₁.bytes := by simp [s₁, h]
  have h₂ : Canonical s₂.bytes := by simp [s₂, h₁]
  split <;> simp [h₁, h₂]

@[simp] theorem Canonical.collFinish {s : State} {core slot : Nat} {o : Opt} {f kind : Nat} {c : Coll}
    (h : Canonical s.bytes) : Canonical (s.collFinish core slot o f kind c).bytes := by
  unfold State.collFinish
  extract_lets rank hd r es ws q
  have hq : Canonical q.2.2.bytes := h.engWrites
  split
  · exact h.collFail
  split
  · exact h.collFail
  split
  · exact h
  split
  · simp [hq]
  · exact hq.collStop
  · exact hq.engEnd

@[simp] theorem Canonical.gangDrop {s : State} {k : Nat} {p : GangPhase} (h : Canonical s.bytes) :
    Canonical (s.gangDrop k p).bytes := by simp [State.gangDrop, h]

@[simp] theorem Canonical.gangColls {s : State} {part : Nat} {missing : List Nat} (h : Canonical s.bytes) :
    Canonical (s.gangColls part missing).bytes :=
  Canonical.foldl h fun t c ht => by simp [ht]

@[simp] theorem Canonical.gangStop {s : State} {k : Nat} {q : Gang} {missing : List Nat}
    (h : Canonical s.bytes) : Canonical (s.gangStop k q missing).bytes := by
  unfold State.gangStop
  extract_lets part s₁ s₂
  have h₁ : Canonical s₁.bytes := by simp [s₁, h]
  have h₂ : Canonical s₂.bytes := by simp [s₂, h₁]
  split
  · simp [h]
  · split
    · simp [h]
    · exact Canonical.foldl (by simp [h₂]) fun t b ht => by simp [ht]

@[simp] theorem Canonical.gangRaise {s : State} {k : Nat} {q : Gang} (h : Canonical s.bytes) :
    Canonical (s.gangRaise k q).bytes := by simp [State.gangRaise, h]

@[simp] theorem Canonical.cancelIf {s : State} {f : Grid → Bool} (h : Canonical s.bytes) :
    Canonical (s.cancelIf f).2.bytes := by
  unfold State.cancelIf
  extract_lets early hit
  dsimp only
  refine Canonical.launchRun ?_
  exact Canonical.foldl h fun t e ht => by simp [ht]

theorem Canonical.openSeg {s : State} {k : Nat} {l : Load} (h : Canonical s.bytes) :
    CanonicalExcept id (s.openSeg k l) := by
  -- names for the reads of the image, or the kernel computes them
  obtain ⟨nat, hnat⟩ : ∃ f, State.imageNat = f := ⟨_, rfl⟩
  obtain ⟨meets, hmeets, hm⟩ : ∃ f, State.imageMeets = f ∧
      ∀ (t : State) (l : Load) (a n : Nat), (f t l a n).2.bytes = t.bytes := ⟨_, rfl, State.imageMeets_bytes⟩
  unfold State.openSeg
  rw [hnat, hmeets]
  extract_lets w s₁ w₂ s₂
  have h₁ : Canonical s₁.bytes := by simp [s₁, w, hm, h]
  have h₂ : Canonical s₂.bytes := by simp [s₂, w₂, hm, h₁]
  have ended : ∀ {t : State} {m : Load} {c : Nat}, Canonical t.bytes →
      CanonicalExcept id (.ok (t.endLoad k m c)) := fun ht => by simpa [CanonicalExcept] using ht
  split
  · exact h₁
  split
  · exact ended h₁
  split
  · exact ended h₁
  split
  · exact h₂
  split
  · exact ended h₂
  extract_lets l' w₃ s₃
  have h₃ : Canonical s₃.bytes := by simp [s₃, w₃, h₂]
  split
  · exact ended h₂
  split
  · exact h₃
  split
  · exact ended h₃
  extract_lets fs s₄ s₅
  have h₄ : Canonical s₄.bytes := Canonical.foldl h₃ fun t f ht => ht.clearFrame
  have h₅ : Canonical s₅.bytes := by simp [s₅, h₄]
  split
  · exact ended h₃
  · exact h₅

theorem Canonical.openSeg_ok {s t : State} {k : Nat} {l : Load} (h : Canonical s.bytes)
    (ht : s.openSeg k l = .ok t) : Canonical t.bytes := by
  have hs := h.openSeg (k := k) (l := l)
  rwa [ht] at hs

@[simp] theorem Canonical.putParts {s : State} {ps : List (Nat × Nat)} {bs : List Byte}
    (h : Canonical s.bytes) : Canonical (s.putParts ps bs).bytes :=
  Canonical.foldl h fun t b ht => by simp [ht]

@[simp] theorem Canonical.reloc {s : State} {l : Load} {site : Nat} (h : Canonical s.bytes) :
    Canonical (s.reloc l site).bytes := by
  unfold State.reloc
  split <;> simp [h]

@[simp] theorem Canonical.runSeg {s : State} {l : Load} {ps : List (Nat × Nat)} (h : Canonical s.bytes) :
    Canonical (s.runSeg l ps).2.bytes := by
  obtain ⟨image, hi⟩ : ∃ f, State.imageBytes = f := ⟨_, rfl⟩
  unfold State.runSeg
  rw [hi]
  extract_lets e target fs
  split
  · exact h
  split
  · exact h
  extract_lets s₁ hashed key s₂ es
  have h₁ : Canonical s₁.bytes := by simp [s₁, h]
  have h₂ : Canonical s₂.bytes := by simp [s₂, h₁]
  split
  · exact h₁
  split
  · exact h₁
  split
  · exact h₁
  split
  · split
    · exact h₂
    · exact Canonical.foldl h₂ fun t x ht => by simpa using ht.reloc
  · split <;> simpa using h₂

@[simp] theorem Canonical.takeRecords {s : State} {n : Nat} (h : Canonical s.bytes) :
    Canonical (s.takeRecords n).bytes :=
  Canonical.foldl h fun t x ht => by simp [ht]

@[simp] theorem Canonical.selfTest {s : State} {u : SpareUnit} (h : Canonical s.bytes) :
    Canonical (s.selfTest u).bytes := by simp [State.selfTest, h]

@[simp] theorem Canonical.hartTxRead {s : State} {h : Nat} {t : HartTx} {pa n : Nat}
    (hs : Canonical s.bytes) : Canonical (s.hartTxRead h t pa n).2.bytes := by
  unfold State.hartTxRead
  extract_lets ss r s₁ s₂
  have hr : Canonical r.2.bytes := by simp [r, hs]
  have h₁ : Canonical s₁.bytes := by simp [s₁, hr]
  split <;> simp [s₂, hr, h₁]

@[simp] theorem Canonical.hartRmw {s : State} {h pa n : Nat} {f : Nat → Option Nat} {k : State → Nat → State}
    (hs : Canonical s.bytes) (hk : ∀ t v, Canonical t.bytes → Canonical (k t v).bytes) :
    Canonical (s.hartRmw h pa n f k).bytes := by
  unfold State.hartRmw
  split
  · extract_lets r
    have hr : Canonical r.2.bytes := by simp [r, hs]
    split
    · exact hr
    · split
      · exact hk _ _ hr
      · extract_lets q
        have hq : Canonical q.2.bytes := by simp [q, hr]
        split
        · exact hk _ _ hq
        · exact hq
  · extract_lets s₁ v
    have h₁ : Canonical s₁.bytes := by simp [s₁, hs]
    split
    · exact hk _ _ (by simpa using h₁)
    · exact hk _ _ (by simp [h₁])

@[simp] theorem Canonical.hartStore {s : State} {h pa n v : Nat} (hs : Canonical s.bytes) :
    Canonical (s.hartStore h pa n v).bytes := by
  unfold State.hartStore
  split
  · extract_lets q
    have hq : Canonical q.2.bytes := by simp [q, hs]
    split <;> simp [hq]
  · simp [hs]

@[simp] theorem Canonical.hartAccess {s : State} {h : Nat} {op : RvMem} {pa : Nat} (hs : Canonical s.bytes) :
    Canonical (s.hartAccess h op pa).bytes := by
  unfold State.hartAccess
  dsimp only
  cases op with
  | load | fload | amo | lr => exact hs.hartRmw fun t v ht => by simpa using ht
  | store | fstore => exact hs.hartStore
  | sc => split <;> simp [hs]
  | fence | fenceTso | fenceI => simpa using hs

end Sys2Proof.Machine
end

section
/-! PROOF. The turns of cohorts, harts and units keep the canonical form when the meaning of instructions does. -/

namespace Sys2Proof.Machine

theorem Canonical.issueWord {run : Meaning} {s : State} {c l : Nat} {pc hd w : DWord}
    (hr : KeepsCanonical run) (h : Canonical s.bytes) :
    CanonicalNext (State.issueWord run s c l pc hd w) := by
  unfold State.issueWord
  extract_lets d i s₁ m s₂
  have h₁ : Canonical s₁.bytes := by simp [s₁, h]
  have h₂ : Canonical s₂.bytes := by simp [s₂, h₁]
  split
  · simpa using h₁
  · cases d with
    | ok i => exact hr i _ h₂
    | error sub => simpa using h₂

theorem Canonical.settleIssue {s : State} {c : Nat} {m : LaneMask} {o : Host.Outcome State Fault Refusal}
    (h : Canonical s.bytes) (ho : CanonicalNext o) : CanonicalAttempt (s.settleIssue c m o) := by
  unfold State.settleIssue
  split
  case h_1 t =>
    have ht : Canonical t.bytes := ho t rfl
    extract_lets core
    split
    · simpa [CanonicalAttempt] using h
    · split
      · exact h
      · simpa [CanonicalAttempt] using ht
  all_goals simp [CanonicalAttempt]

theorem Canonical.tryGroup {run : Meaning} {s : State} {c : Nat} {m : LaneMask} (hr : KeepsCanonical run)
    (h : Canonical s.bytes) : CanonicalAttempt (State.tryGroup run s c m) := by
  unfold State.tryGroup
  extract_lets k l pc ca at_ s₁ take entering t
  have h₁ : Canonical s₁.bytes := by simp [s₁, h]
  have ht : Canonical t.bytes := by simp [t, h₁]
  have held : ∀ {t : State}, Canonical t.bytes → CanonicalAttempt (.held t) := id
  have taken : ∀ {t : State}, Canonical t.bytes → CanonicalAttempt (take t) := fun ht =>
    h₁.settleIssue ((canonicalNext_next _).2 ht)
  split
  · exact held (by simpa using h₁)
  · exact taken h₁.fetchFault
  · split
    · exact taken (by simpa using h₁)
    split
    · exact taken (by simpa using h₁)
    split
    · exact held h₁
    split
    · exact held (by simpa using h₁)
    · exact taken h₁.fetchFault
    · split
      · simpa [CanonicalAttempt] using ht
      · exact h₁.settleIssue (ht.issueWord hr)

theorem Canonical.tryGroups {run : Meaning} {s : State} {c : Nat} {ms : List LaneMask}
    (hr : KeepsCanonical run) (h : Canonical s.bytes) : CanonicalAttempt (State.tryGroups run c ms s) := by
  induction ms generalizing s with
  | nil => simpa [State.tryGroups, CanonicalAttempt] using h
  | cons m ms ih =>
    have hm : CanonicalAttempt (State.tryGroup run s c m) := h.tryGroup hr
    unfold State.tryGroups
    split
    case h_1 o ho => simpa [ho, CanonicalAttempt] using hm
    case h_2 t ho =>
      have ht : Canonical t.bytes := by simpa [ho, CanonicalAttempt] using hm
      split
      · exact ih ht
      · simpa [CanonicalAttempt] using ht

theorem Canonical.haltTurn {run : Meaning} {s : State} {c : Nat} (hr : KeepsCanonical run)
    (h : Canonical s.bytes) : CanonicalNext (State.haltTurn run s c) := by
  unfold State.haltTurn
  split
  · simpa using h
  case h_2 m _ =>
    have hm : CanonicalAttempt (State.tryGroup run s c m) := h.tryGroup hr
    split
    case h_1 o ho => simpa [ho, CanonicalAttempt] using hm
    case h_2 u ho =>
      have hu : Canonical u.bytes := by simpa [ho, CanonicalAttempt] using hm
      dsimp only
      rw [canonicalNext_next, bytes_mk]
      split <;> simpa using hu

theorem Canonical.cohortTurn {run : Meaning} {s : State} {c : Nat} (hr : KeepsCanonical run)
    (h : Canonical s.bytes) : CanonicalNext (State.cohortTurn run s c) := by
  unfold State.cohortTurn
  extract_lets s₁ t₁ t₂
  have h₁ : Canonical s₁.bytes := by simp [s₁, h]
  have ht₁ : Canonical t₁.bytes := by simp [t₁, h₁]
  have ht₂ : Canonical t₂.bytes := by simp [t₂, ht₁]
  split
  · exact h₁.haltTurn hr
  split
  · split
    · simpa using h₁
    · have ha : CanonicalAttempt (State.tryGroups run c (t₂.offered c) t₂) := ht₂.tryGroups hr
      split
      case h_1 o ho => simpa [ho, CanonicalAttempt] using ha
      case h_2 u ho => simpa [ho, CanonicalAttempt] using ha
  · simpa using h₁

theorem Canonical.hartTurn {run : Meaning} {s : State} {hart : Nat} (hr : KeepsCanonical run)
    (h : Canonical s.bytes) : CanonicalNext (State.hartTurn run s hart) := by
  unfold State.hartTurn
  split
  · simpa using h
  split
  · simpa using h
  · simpa using h
  · extract_lets w s₁
    have h₁ : Canonical s₁.bytes := by simp [s₁, h]
    split
    · split
      · exact hr _ _ (by simpa using h₁)
      · simpa using h₁
    · split
      · exact hr _ _ h₁
      · split
        case h_1 t ht =>
          obtain ⟨e, -, he⟩ := Option.bind_eq_some_iff.mp ht
          simpa [State.rvDo_bytes he] using h₁
        · exact canonicalNext_refused _

@[simp] theorem Canonical.unitsTurn {s : State} (h : Canonical s.bytes) : Canonical s.unitsTurn.bytes := by
  unfold State.unitsTurn
  extract_lets s₁ s₂ s₃
  have h₁ : Canonical s₁.bytes := by
    unfold s₁
    split <;> simp [h]
  have h₂ : Canonical s₂.bytes := by simp [s₂, h₁]
  have h₃ : Canonical s₃.bytes := by
    unfold s₃
    exact Canonical.foldl h₂ fun t p ht => by simp [ht]
  exact Canonical.foldl h₃ fun t e ht => by simp [ht]

theorem Canonical.turn {run : Meaning} {s : State} (t : Turn) (hr : KeepsCanonical run)
    (h : Canonical s.bytes) : CanonicalNext (State.turn run s t) := by
  cases t with
  | event i => exact hr i s h
  | cohort c => exact h.cohortTurn hr
  | hart i => exact h.hartTurn hr
  | units => simpa [State.turn] using h.unitsTurn

theorem Canonical.firstChange {run : Meaning} {s : State} (l : List Turn) (hr : KeepsCanonical run)
    (h : Canonical s.bytes) : CanonicalNext (State.firstChange run s l) := by
  induction l with
  | nil => simpa [State.firstChange] using h
  | cons i l ih =>
    have hi : CanonicalNext (State.turn run s i) := h.turn i hr
    unfold State.firstChange
    split
    case h_1 t ht =>
      split
      · exact ih
      · exact fun _ hu => hi _ (ht.trans hu)
    all_goals simp

theorem Canonical.idle {run : Meaning} {s : State} (hr : KeepsCanonical run) (h : Canonical s.bytes) :
    CanonicalNext (State.idle run s) :=
  h.firstChange _ hr

theorem Canonical.oneStep {run : Meaning} {s : State} (hr : KeepsCanonical run) (h : Canonical s.bytes) :
    CanonicalNext (State.oneStep run s) := by
  unfold State.oneStep
  split
  · exact Canonical.turn _ hr (by simpa using h)
  · exact h.idle hr

end Sys2Proof.Machine
end

section
/-! PROOF. Instructions that write memory or the bank rows, and keep their canonical form; the step. -/

namespace Sys2Proof.Machine

theorem execSpawn_canonical {g : Guard} {n : BitVec 8} {off : BitVec 32} {s : State} (h : Canonical s.bytes) :
    CanonicalNext (execSpawn g n off s) := by
  unfold execSpawn
  rw [canonicalNext_next]
  refine Canonical.issue h fun t run ht => ?_
  extract_lets c lim tgt t₁ r lanesOfCause done u
  have ht₁ : Canonical t₁.bytes := ht
  have hr : Canonical r.2.bytes := by
    unfold r
    refine Canonical.foldl_snd ht fun r₁ l hr => ?_
    extract_lets v
    have hv : Canonical v.2.bytes := by simp [v, hr]
    split <;> exact hv
  have hu : Canonical u.bytes := by
    unfold u
    refine Canonical.foldl hr fun u₁ cause hu => ?_
    split
    · exact hu
    · simp [hu]
  simp [ht, hu]

theorem execExit_canonical {g : Guard} {s : State} (h : Canonical s.bytes) :
    CanonicalNext (execExit g s) := by
  unfold execExit
  rw [canonicalNext_next]
  exact Canonical.issue h fun t run ht => by simp [ht]

theorem execRnld_canonical {m : MArgs} {path : Bool} {idx : Opnd} {off : BitVec 14} {s : State}
    (h : Canonical s.bytes) : CanonicalNext (execRnld m path idx off s) := by
  unfold execRnld
  rw [canonicalNext_next]
  refine Canonical.issue h fun t run ht => ?_
  extract_lets va
  split
  · simp [ht]
  · refine Canonical.access ht fun t₁ l ht₁ => ?_
    extract_lets v
    have hv : Canonical v.2.bytes := by simp [v, ht₁]
    split
    · exact hv
    · simp [hv]

theorem execBar_canonical {g : Guard} {id : BitVec 4} {s : State} (h : Canonical s.bytes) :
    CanonicalNext (execBar g id s) := by
  unfold execBar
  rw [canonicalNext_next]
  exact Canonical.issue h fun t run ht => by simp [ht]

theorem execBara_canonical {g : Guard} {id : BitVec 4} {s : State} (h : Canonical s.bytes) :
    CanonicalNext (execBara g id s) := by
  unfold execBara
  rw [canonicalNext_next]
  exact Canonical.issue h fun t run ht => by simp [ht]

theorem execBarw_canonical {g : Guard} {id : BitVec 4} {s : State} (h : Canonical s.bytes) :
    CanonicalNext (execBarw g id s) := by
  unfold execBarw
  rw [canonicalNext_next]
  exact Canonical.issue h fun t run ht => by simp [ht]

theorem execCbar_canonical {g : Guard} {id : BitVec 2} {s : State} (h : Canonical s.bytes) :
    CanonicalNext (execCbar g id s) := by
  unfold execCbar
  rw [canonicalNext_next]
  exact Canonical.issue h fun t run ht => by simp [ht]

theorem execLd_canonical {m : MArgs} {d idx : Opnd} {off : BitVec 14} {s : State} (h : Canonical s.bytes) :
    CanonicalNext (execLd m d idx off s) := by
  unfold execLd
  rw [canonicalNext_next]
  refine Canonical.issue h fun t run ht => ?_
  extract_lets va
  exact Canonical.access ht fun t₁ l ht₁ => by simp [ht₁]

theorem execSt_canonical {m : MArgs} {x : Opnd} {off : BitVec 14} {s : State} (h : Canonical s.bytes) :
    CanonicalNext (execSt m x off s) := by
  unfold execSt
  rw [canonicalNext_next]
  refine Canonical.issue h fun t run ht => ?_
  extract_lets va
  exact Canonical.access ht fun t₁ l ht₁ => by simp [ht₁]

theorem execLdc_canonical {m : MArgs} {d idx : Opnd} {off : BitVec 14} {s : State} (h : Canonical s.bytes) :
    CanonicalNext (execLdc m d idx off s) := by
  unfold execLdc
  rw [canonicalNext_next]
  refine Canonical.issue h fun t run ht => ?_
  extract_lets va
  refine Canonical.accessBy ht fun t₁ l ht₁ => ?_
  extract_lets c w r
  have hr : Canonical r.2.bytes := by
    unfold r
    exact Canonical.foldl_snd ht₁ fun acc e hacc => by simp [hacc]
  simp [ht₁, hr]

theorem execAtom_canonical {m : MArgs} {op : AOp} {d x : Opnd} {off : BitVec 10} {s : State}
    (h : Canonical s.bytes) : CanonicalNext (execAtom m op d x off s) := by simp [execAtom, h]

theorem execAtoms_canonical {m : MArgs} {op : AOp} {d x : Opnd} {off : BitVec 10} {s : State}
    (h : Canonical s.bytes) : CanonicalNext (execAtoms m op d x off s) := by
  unfold execAtoms
  extract_lets ret dr
  rw [canonicalNext_next]
  refine Canonical.issue h fun t run ht => ?_
  extract_lets va
  exact Canonical.access ht fun t₁ l ht₁ => by simp [ht₁]

theorem execRed_canonical {m : MArgs} {op : AOp} {x : Opnd} {off : BitVec 10} {s : State}
    (h : Canonical s.bytes) : CanonicalNext (execRed m op x off s) := by simp [execRed, h]

theorem execCas_canonical {m : MArgs} {d x : Opnd} {off : BitVec 14} {s : State} (h : Canonical s.bytes) :
    CanonicalNext (execCas m d x off s) := by
  unfold execCas
  rw [canonicalNext_next]
  refine Canonical.issue h fun t run ht => ?_
  extract_lets va by_
  exact Canonical.access ht fun t₁ l ht₁ => by simp [ht₁]

theorem execAflush_canonical {g : Guard} {s : State} (h : Canonical s.bytes) :
    CanonicalNext (execAflush g s) := by
  unfold execAflush
  rw [canonicalNext_next]
  exact Canonical.issue h fun t run ht => by simp [ht]

theorem execFence_canonical {g : Guard} {k : FenceKind} {sc : Scope} {s : State} (h : Canonical s.bytes) :
    CanonicalNext (execFence g k sc s) := by
  unfold execFence
  rw [canonicalNext_next]
  exact Canonical.issue h fun t run ht => by simp [ht]

theorem execPref_canonical {g : Guard} {l2 : Bool} {base idx : Opnd} {off : BitVec 14} {s : State}
    (h : Canonical s.bytes) : CanonicalNext (execPref g l2 base idx off s) := by
  unfold execPref
  rw [canonicalNext_next]
  refine Canonical.issue h fun t run ht => ?_
  split
  · exact ht
  · refine Canonical.foldl ht fun u l hu => ?_
    extract_lets va core part
    split
    · simp [hu]
    · exact hu

theorem execCwb_canonical {g : Guard} {all : Bool} {base idx : Opnd} {off : BitVec 14} {s : State}
    (h : Canonical s.bytes) : CanonicalNext (execCwb g all base idx off s) := by
  unfold execCwb
  rw [canonicalNext_next]
  exact h.cacheWord fun t core part l ht => ht.wbSectors

theorem execCinv_canonical {g : Guard} {all : Bool} {base idx : Opnd} {off : BitVec 14} {s : State}
    (h : Canonical s.bytes) : CanonicalNext (execCinv g all base idx off s) := by
  unfold execCinv
  rw [canonicalNext_next]
  exact h.cacheWord fun t core part l ht => ht.wbDrop

theorem execTxbeg_canonical {g : Guard} {d : BitVec 7} {cls : BitVec 8} {n : BitVec 4} {off : BitVec 29}
    {idx : BitVec 3} {s : State} (h : Canonical s.bytes) : CanonicalNext (execTxbeg g d cls n off idx s) := by
  unfold execTxbeg
  rw [canonicalNext_next]
  refine Canonical.issue h fun t run ht => ?_
  extract_lets c exit gr fb
  split
  · simp [ht]
  · split
    · exact ht
    · exact Canonical.foldl ht fun u l hu => by simp [hu]

theorem execTxend_canonical {g : Guard} {s : State} (h : Canonical s.bytes) :
    CanonicalNext (execTxend g s) := by
  unfold execTxend
  rw [canonicalNext_next]
  refine Canonical.issue h fun t run ht => ?_
  extract_lets c spec fb core part t₁ t₂
  have ht₁ : Canonical t₁.bytes := by
    unfold t₁
    exact Canonical.foldl ht fun u l hu => by simp [hu]
  have ht₂ : Canonical t₂.bytes := by simp [t₂, ht₁]
  split
  · exact ht
  · split
    · exact ht₁
    · rw [State.acquireDrop_bytes]
      exact Canonical.foldl ht₂ fun u l hu => by simp [hu]

theorem execTxabt_canonical {g : Guard} {code : BitVec 8} {s : State} (h : Canonical s.bytes) :
    CanonicalNext (execTxabt g code s) := by
  unfold execTxabt
  rw [canonicalNext_next]
  refine Canonical.issue h fun t run ht => ?_
  extract_lets c ls fb u m
  have hu : Canonical u.bytes := by
    unfold u
    exact Canonical.foldl ht fun u₁ l hu => by simp [hu]
  simp [ht, hu]

theorem execRstl_canonical {g : Guard} {i : BitVec 6} {clr : Bool} {s : State} (h : Canonical s.bytes) :
    CanonicalNext (execRstl g i clr s) := by
  unfold execRstl
  rw [canonicalNext_next]
  refine Canonical.issue h fun t run ht => ?_
  extract_lets c base va
  split
  · exact ht
  · split
    · simp [ht]
    · refine Canonical.access ht fun t₁ l ht₁ => ?_
      extract_lets v
      have hv : Canonical v.2.bytes := by simp [v, ht₁]
      split
      · exact hv
      · simp [hv]

theorem execKxEnd_canonical {s : State} (h : Canonical s.bytes) : CanonicalNext (execKxEnd s) := by
  unfold execKxEnd
  extract_lets hart k s₁
  have h₁ : Canonical s₁.bytes := h
  rw [canonicalNext_next]
  split
  · simp [h₁]
  · exact h₁
  · exact h

theorem execFlaggedOpComplete_canonical {op : Nat} {lanes : BitVec 32} {s : State} (h : Canonical s.bytes) :
    CanonicalNext (execFlaggedOpComplete op lanes s) := by
  unfold execFlaggedOpComplete
  rw [canonicalNext_next]
  split
  · exact h
  · refine Canonical.settleBlk ?_
    refine Canonical.retestBars ?_
    simp [h]

theorem execWalkComplete_canonical {k : Nat} {s : State} (h : Canonical s.bytes) :
    CanonicalNext (execWalkComplete k s) := by simp [execWalkComplete, h]

theorem execTlbInvalidateComplete_canonical {k : Nat} {s : State} (h : Canonical s.bytes) :
    CanonicalNext (execTlbInvalidateComplete k s) := by
  unfold execTlbInvalidateComplete
  dsimp only
  split <;> simp [h]

theorem execCopyLineLanded_canonical {core slot line : Nat} {s : State} (h : Canonical s.bytes) :
    CanonicalNext (execCopyLineLanded core slot line s) := by
  unfold execCopyLineLanded
  rw [canonicalNext_next]
  split
  · exact h
  · extract_lets b todo held s₁ r s₂
    have h₁ : Canonical s₁.bytes := by simp [s₁, h]
    have hr : Canonical r.2.2.bytes := h₁.copyRun
    split
    · exact h
    split
    · exact h₁
    · simpa [s₂] using hr

theorem execReleasePull_canonical {k : Nat} {s : State} (h : Canonical s.bytes) :
    CanonicalNext (execReleasePull k s) := by
  unfold execReleasePull
  dsimp only
  split <;> simp [h]

theorem execPullAck_canonical {k : Nat} {s : State} (h : Canonical s.bytes) :
    CanonicalNext (execPullAck k s) := by
  unfold execPullAck
  rw [canonicalNext_next]
  split
  · exact h
  · split
    · exact h
    · extract_lets s₁
      have h₁ : Canonical s₁.bytes := h
      split
      · exact h
      · refine Canonical.settleBlk ?_
        refine Canonical.retestBars ?_
        simp [h₁]

theorem execReleaseSetTimeout_canonical {core k : Nat} {s : State} (h : Canonical s.bytes) :
    CanonicalNext (execReleaseSetTimeout core k s) := by
  unfold execReleaseSetTimeout
  dsimp only
  split <;> simp [h]

theorem execRegionMoveComplete_canonical {k : Nat} {s : State} (h : Canonical s.bytes) :
    CanonicalNext (execRegionMoveComplete k s) := by
  unfold execRegionMoveComplete
  rw [canonicalNext_next]
  split
  · exact h
  · split
    · exact h
    · extract_lets s₁ part need _ s₂
      have h₁ : Canonical s₁.bytes := by simp [s₁, h]
      have h₂ : Canonical s₂.bytes := by simp [s₂, h₁]
      simp [h₂]

theorem execSpawnCohortForm_canonical {block list : Nat} {s : State} (h : Canonical s.bytes) :
    CanonicalNext (execSpawnCohortForm block list s) := by
  unfold execSpawnCohortForm
  rw [canonicalNext_next]
  dsimp only
  split
  · split
    · exact h
    · refine Canonical.ovfCount ?_
      refine Canonical.startCohort ?_
      rw [State.modBlk_bytes]
      exact h.getD fun t ht => h.takeRoom ht
  · exact h

theorem execSubmitEntry_canonical {vf : Nat} {record gang tag flags : BitVec 64} {s : State}
    (h : Canonical s.bytes) : CanonicalNext (execSubmitEntry vf record gang tag flags s) := by
  unfold execSubmitEntry
  rw [canonicalNext_next]
  split
  · exact h
  have hl := h.readLaunch (vf := vf) (record := record.toNat) (gang := gang.toNat) (tag := tag.toNat)
    (flags := flags.toNat)
  split
  case h_1 t heq => simpa [heq, CanonicalExcept] using hl
  case h_2 g cause t heq =>
    have ht : Canonical t.bytes := by simpa [heq, CanonicalExcept] using hl
    dsimp only
    split <;> simp [ht]

theorem execDependencePoll_canonical {s : State} (h : Canonical s.bytes) :
    CanonicalNext (execDependencePoll s) := by simp [execDependencePoll, h]

theorem execRailsSettled_canonical {die : Nat} {s : State} (h : Canonical s.bytes) :
    CanonicalNext (execRailsSettled die s) := by simp [execRailsSettled, h]

theorem execClusterPlace_canonical {grid e j die clu : Nat} {cores : List Nat} {s : State}
    (h : Canonical s.bytes) : CanonicalNext (execClusterPlace grid e j die clu cores s) := by
  unfold execClusterPlace
  dsimp only
  split
  · simp [h]
  · split
    · simp [h]
    · split <;> simp [h]

theorem execGridRetire_canonical {grid : Nat} {s : State} (h : Canonical s.bytes) :
    CanonicalNext (execGridRetire grid s) := by
  unfold execGridRetire
  rw [canonicalNext_next]
  extract_lets g bs busy s₁ s₂ s₃ g₁ s₄
  have h₁ : Canonical s₁.bytes := by
    unfold s₁
    exact Canonical.foldl h fun t b ht => by simp [ht]
  have h₂ : Canonical s₂.bytes := by simp [s₂, h₁]
  have h₃ : Canonical s₃.bytes := by
    unfold s₃
    exact Canonical.foldl h₂ fun t c ht => by simp [ht]
  have h₄ : Canonical s₄.bytes := by simp [s₄, h₃]
  simp [h, h₄]

theorem execCohortEvict_canonical {coh : Nat} {s : State} (h : Canonical s.bytes) :
    CanonicalNext (execCohortEvict coh s) := by simp [execCohortEvict, h]

theorem execCohortRestoreEvicted_canonical {coh : Nat} {s : State} (h : Canonical s.bytes) :
    CanonicalNext (execCohortRestoreEvicted coh s) := by
  unfold execCohortRestoreEvicted
  rw [canonicalNext_next]
  dsimp only
  split
  · exact h.getD fun t ht => h.restore ht
  · exact h

theorem execLaunchQueueCohortStart_canonical {part q block idx : Nat} {s : State} (h : Canonical s.bytes) :
    CanonicalNext (execLaunchQueueCohortStart part q block idx s) := by
  unfold execLaunchQueueCohortStart
  rw [canonicalNext_next]
  extract_lets d b g sentinel s₁ s₂ s₃ r vals
  have h₁ : Canonical s₁.bytes := by simp [s₁, h]
  have h₂ : Canonical s₂.bytes := by simp [s₂, h₁]
  have h₃ : Canonical s₃.bytes := h.getD fun t ht => h.takeRoom ht
  have hr : Canonical r.2.bytes := by simp [r, h₃]
  split
  · exact h
  split
  · exact Canonical.foldl h₂ fun t x ht => ht.settleBlk
  split
  · exact h
  · simp [hr]

theorem execTrapRecordWrite_canonical {part : Nat} {s : State} (h : Canonical s.bytes) :
    CanonicalNext (execTrapRecordWrite part s) := by
  unfold execTrapRecordWrite
  dsimp only
  split
  · simp [h]
  · split
    · simp [h]
    · split
      · simp [h]
      · split <;> simp [h]

theorem execTrapReply_canonical {part : Nat} {w0 newpc edits dumpva : BitVec 64} {s : State}
    (h : Canonical s.bytes) : CanonicalNext (execTrapReply part w0 newpc edits dumpva s) := by
  simp [execTrapReply, h]

theorem execMemoryGrant_canonical {part region : Nat} {on : Bool} {s : State} (h : Canonical s.bytes) :
    CanonicalNext (execMemoryGrant part region on s) := by simp [execMemoryGrant, h]

theorem execHaltComplete_canonical {share : Nat} {s : State} (h : Canonical s.bytes) :
    CanonicalNext (execHaltComplete share s) := by
  unfold execHaltComplete
  rw [canonicalNext_next]
  extract_lets sh p t cs t₁ t₂ t₃
  have ht : Canonical t.bytes := by simp [t, h]
  have ht₁ : Canonical t₁.bytes := by simp [t₁, ht]
  have ht₂ : Canonical t₂.bytes := by
    unfold t₂
    exact Canonical.foldl ht₁ fun t₄ e ht₂ => by simp [ht₂]
  have ht₃ : Canonical t₃.bytes := ht₂
  simp [h, ht, ht₃]

theorem execQuiesceMarkerReturn_canonical {share : Nat} {s : State} (h : Canonical s.bytes) :
    CanonicalNext (execQuiesceMarkerReturn share s) := by
  unfold execQuiesceMarkerReturn
  rw [canonicalNext_next]
  extract_lets sh p t t₁ moving t₂
  have ht : Canonical t.bytes := by simp [t, h]
  have ht₁ : Canonical t₁.bytes := by
    unfold t₁
    exact Canonical.foldl ht fun t₃ c ht₁ => by simp [ht₁]
  have ht₂ : Canonical t₂.bytes := by simp [t₂, ht₁]
  simp [h, ht₁, ht₂]

theorem execImageSaveComplete_canonical {share : Nat} {s : State} (h : Canonical s.bytes) :
    CanonicalNext (execImageSaveComplete share s) := by simp [execImageSaveComplete, h]

theorem execScrubComplete_canonical {share : Nat} {s : State} (h : Canonical s.bytes) :
    CanonicalNext (execScrubComplete share s) := by
  unfold execScrubComplete
  rw [canonicalNext_next]
  extract_lets hd p cs inRows _ s₁ t₁ t₂ t₃ t₄ t₅
  have h₁ : Canonical s₁.bytes := h.filterBank _
  have h₂ : Canonical t₂.bytes := by simp [t₂, t₁, h₁]
  have h₃ : Canonical t₃.bytes := by simp [t₃, h₂]
  have h₄ : Canonical t₄.bytes := by
    unfold t₄
    split
    · split <;> simp [h₃]
    · exact h₃
  have h₅ : Canonical t₅.bytes := by
    unfold t₅
    split <;> simp [h₄]
  split
  · exact h
  · split <;> simp [h₅]

theorem execRestoreComplete_canonical {share : Nat} {s : State} (h : Canonical s.bytes) :
    CanonicalNext (execRestoreComplete share s) := by
  unfold execRestoreComplete
  rw [canonicalNext_next]
  extract_lets hd s₁
  have h₁ : Canonical s₁.bytes := by simp [s₁, h]
  split
  case h_1 q _ _ =>
    extract_lets bad s₂ s₃ _ s₄ s₅ full s₆ s₇
    have h₂ : Canonical s₂.bytes := by simp [s₂, h₁]
    have h₃ : Canonical s₃.bytes := Canonical.foldl h₂ fun t b ht => ht.restoreBlock
    have h₄ : Canonical s₄.bytes := by simpa [s₄] using h₃
    have h₅ : Canonical s₅.bytes := h₄.applyHeld
    have h₆ : Canonical s₆.bytes := Canonical.foldl h₅ fun t e ht => ht.restartCohort
    have h₇ : Canonical s₇.bytes := by
      refine Canonical.foldl h₆ fun t c ht => ?_
      split <;> simp [ht]
    split
    · exact h₁
    split
    · exact h₅
    · simp [h₇]
  · exact h

theorem execEngineOpComplete_canonical {core slot : Nat} {s : State} (h : Canonical s.bytes) :
    CanonicalNext (execEngineOpComplete core slot s) := by
  unfold execEngineOpComplete
  rw [canonicalNext_next]
  exact h.fits h.runCmd

theorem execClaimGrant_canonical {core slot : Nat} {s : State} (h : Canonical s.bytes) :
    CanonicalNext (execClaimGrant core slot s) := by
  unfold execClaimGrant
  rw [canonicalNext_next]
  split
  · split
    · exact h.fits h.runCmd
    · exact h
  · exact h

theorem execFillLanded_canonical {core slot : Nat} {s : State} (h : Canonical s.bytes) :
    CanonicalNext (execFillLanded core slot s) := by
  unfold execFillLanded
  rw [canonicalNext_next]
  split
  · split
    · exact h.fits h.runCmd
    · exact h
  · exact h

theorem execRemoteRequest_canonical {src : Nat} {dtid : BitVec 16} {kind : RemoteKind} {off size : Nat}
    {data : BitVec 128} {s : State} (h : Canonical s.bytes) :
    CanonicalNext (execRemoteRequest src dtid kind off size data s) := by simp [execRemoteRequest, h]

theorem execPayloadDelivery_canonical {src : Nat} {dtid : BitVec 16} {off : Nat} {bytes : List (BitVec 8)}
    {rec : Option Nat} {code detail : BitVec 8} {s : State} (h : Canonical s.bytes) :
    CanonicalNext (execPayloadDelivery src dtid off bytes rec code detail s) := by
  unfold execPayloadDelivery
  rw [canonicalNext_next]
  extract_lets base c s₁ s₂ v
  have h₁ : Canonical s₁.bytes := by
    unfold s₁
    exact Canonical.foldl h fun t b ht => by simp [ht]
  have h₂ : Canonical s₂.bytes := h₁
  split
  · exact h
  · split
    · exact h₁
    · simp [h₁, h₂]

theorem execCollChunkArrival_canonical {dtid : BitVec 16} {cid : BitVec 32} {rank : Nat} {head : CollHead}
    {elems : List Int} {s : State} (h : Canonical s.bytes) :
    CanonicalNext (execCollChunkArrival dtid cid rank head elems s) := by simp [execCollChunkArrival, h]

theorem execCollResult_canonical {core slot : Nat} {s : State} (h : Canonical s.bytes) :
    CanonicalNext (execCollResult core slot s) := by
  unfold execCollResult
  rw [canonicalNext_next]
  split
  · exact h
  split
  · extract_lets s₁
    have h₁ : Canonical s₁.bytes := by
      unfold s₁
      split <;> simp [h]
    split
    · exact h₁.fits h₁.collFinish
    · exact h₁
  · exact h

theorem execCollTimeout_canonical {dtid : BitVec 16} {cid : BitVec 32} {s : State} (h : Canonical s.bytes) :
    CanonicalNext (execCollTimeout dtid cid s) := by simp [execCollTimeout, h]

theorem execFlitReplayExhausted_canonical {what : FlitWhat} {s : State} (h : Canonical s.bytes) :
    CanonicalNext (execFlitReplayExhausted what s) := by
  unfold execFlitReplayExhausted
  rw [canonicalNext_next]
  cases what with
  | op id lanes =>
    dsimp only
    split
    · exact h
    split
    · exact h
    · exact h.fits (by simp [h])
  | cmd core slot =>
    dsimp only
    split
    · exact h
    split
    · exact h
    split <;> simp [h]

theorem execPortOutOfService_canonical {port : Nat} {s : State} (h : Canonical s.bytes) :
    CanonicalNext (execPortOutOfService port s) := by simp [execPortOutOfService, h]

theorem execGangGo_canonical {gid : BitVec 32} {s : State} (h : Canonical s.bytes) :
    CanonicalNext (execGangGo gid s) := by
  unfold execGangGo
  dsimp only
  split
  · simp [h]
  · split <;> simp [h]

theorem execGangCancel_canonical {gid : BitVec 32} {s : State} (h : Canonical s.bytes) :
    CanonicalNext (execGangCancel gid s) := by
  unfold execGangCancel
  split <;> simp [h]

theorem execGangAck_canonical {gid : BitVec 32} {rank : Nat} {s : State} (h : Canonical s.bytes) :
    CanonicalNext (execGangAck gid rank s) := by
  unfold execGangAck
  dsimp only
  split <;> simp [h]

theorem execGangAbort_canonical {gid : BitVec 32} {missing : List Nat} {s : State} (h : Canonical s.bytes) :
    CanonicalNext (execGangAbort gid missing s) := by
  unfold execGangAbort
  split <;> simp [h]

theorem execGangPrepareTimeout_canonical {gid : BitVec 32} {s : State} (h : Canonical s.bytes) :
    CanonicalNext (execGangPrepareTimeout gid s) := by
  unfold execGangPrepareTimeout
  dsimp only
  split <;> simp [h]

theorem execGangGoTimeout_canonical {gid : BitVec 32} {s : State} (h : Canonical s.bytes) :
    CanonicalNext (execGangGoTimeout gid s) := by
  unfold execGangGoTimeout
  dsimp only
  split <;> simp [h]

theorem execGangAckTimeout_canonical {gid : BitVec 32} {s : State} (h : Canonical s.bytes) :
    CanonicalNext (execGangAckTimeout gid s) := by
  unfold execGangAckTimeout
  dsimp only
  split <;> simp [h]

theorem execVfReset_canonical {vf : Nat} {s : State} (h : Canonical s.bytes) :
    CanonicalNext (execVfReset vf s) := by simp [execVfReset, h]

theorem execCancelLaunch_canonical {vf : Nat} {tag : BitVec 64} {s : State} (h : Canonical s.bytes) :
    CanonicalNext (execCancelLaunch vf tag s) := by simp [execCancelLaunch, h]

theorem execLoadImage_canonical {vf : Nat} {va base : BitVec 64} {s : State} (h : Canonical s.bytes) :
    CanonicalNext (execLoadImage vf va base s) := by
  unfold execLoadImage
  rw [canonicalNext_next]
  extract_lets part
  split
  · exact h
  split
  case h_1 t ht => exact h.openSeg_ok ht
  case h_2 => simpa using h

theorem execLoaderComplete_canonical {k : Nat} {s : State} (h : Canonical s.bytes) :
    CanonicalNext (execLoaderComplete k s) := by
  unfold execLoaderComplete
  rw [canonicalNext_next]
  split
  · exact h
  case h_2 l _ =>
    extract_lets w r kind l'
    have hw : Canonical w.2.bytes := by simp [w, h]
    have hr : Canonical r.2.bytes := by simp [r, hw]
    split
    · exact h
    split
    · exact hw
    split
    · exact hr
    split
    case h_1 t ht => exact hr.openSeg_ok ht
    case h_2 => simpa using hw

theorem execCshareWrite_canonical {n : Nat} {v : BitVec 64} {s : State} (h : Canonical s.bytes) :
    CanonicalNext (execCshareWrite n v s) := by
  unfold execCshareWrite
  rw [canonicalNext_next]
  extract_lets w _ s₁ ps
  have h₁ : Canonical s₁.bytes := h
  split
  · exact h
  · refine Canonical.foldl h fun t e ht => ?_
    exact Canonical.foldl ht fun t₁ p ht₁ => by simp [ht₁]

theorem execRegisterWrite_canonical {r : CtlReg} {v : BitVec 64} {s : State} (h : Canonical s.bytes) :
    CanonicalNext (execRegisterWrite r v s) := by
  unfold execRegisterWrite
  dsimp only
  split <;> simp [h]

theorem execArrayScrubPass_canonical {unit : BitVec 8} {src : BitVec 16} {bad : List Nat} {s : State}
    (h : Canonical s.bytes) : CanonicalNext (execArrayScrubPass unit src bad s) := by
  unfold execArrayScrubPass
  rw [canonicalNext_next]
  split
  · exact h
  · exact Canonical.foldl h fun t pa ht => by simp [ht]

theorem execErrorLogRecord_canonical {kind unit : BitVec 8} {src : BitVec 16} {part : BitVec 5}
    {pa : BitVec 64} {count : BitVec 32} {s : State} (h : Canonical s.bytes) :
    CanonicalNext (execErrorLogRecord kind unit src part pa count s) := by simp [execErrorLogRecord, h]

theorem execSpareBringIn_canonical {u : SpareUnit} {s : State} (h : Canonical s.bytes) :
    CanonicalNext (execSpareBringIn u s) := by
  unfold execSpareBringIn
  dsimp only
  split
  · simp [h]
  · split
    · simp [h]
    · split <;> simp [h]

theorem execSpareSwapComplete_canonical {u : SpareUnit} {s : State} (h : Canonical s.bytes) :
    CanonicalNext (execSpareSwapComplete u s) := by
  unfold execSpareSwapComplete
  rw [canonicalNext_next]
  extract_lets done
  have hdone : ∀ {t : State}, Canonical t.bytes → Canonical (done t).bytes := fun ht => by simpa [done] using ht
  split
  · exact h
  split
  · extract_lets s₁ _ s₂
    have h₁ : Canonical s₁.bytes := by
      unfold s₁
      exact Canonical.foldl h fun t p ht => ht.wbAll
    have h₂ : Canonical s₂.bytes := by simpa [s₂] using h₁
    split
    · exact h
    · exact hdone (by simpa using h₂)
  · exact hdone h

theorem execReset_canonical {pkg : Nat} {ports : BitVec 18} {failed : List SpareUnit} {s : State}
    (h : Canonical s.bytes) : CanonicalNext (execReset pkg ports failed s) := by
  unfold execReset
  rw [canonicalNext_next]
  extract_lets _ _ _ t₁ t₂
  split
  · exact h
  · have h₁ : Canonical t₁.bytes := ⟨h.1, rfl⟩
    have h₂ : Canonical t₂.bytes := Canonical.foldl h₁ fun u x hu => hu.selfTest
    simpa using h₂

theorem execBaseDieMemoryAccess_canonical {h : Nat} {op : RvMem} {s : State} (hs : Canonical s.bytes) :
    CanonicalNext (execBaseDieMemoryAccess h op s) := by
  unfold execBaseDieMemoryAccess
  extract_lets k
  (repeat' split) <;> simp [hs]

theorem execInstructionCacheFill_canonical {coh : Nat} {pc : BitVec 64} {s : State} (h : Canonical s.bytes) :
    CanonicalNext (execInstructionCacheFill coh pc s) := by
  unfold execInstructionCacheFill
  rw [canonicalNext_next]
  exact Canonical.foldl h fun t w ht => by simp [ht]

/-- Each instruction keeps the canonical form of the two byte stores. -/
theorem exec_keepsCanonical : KeepsCanonical exec := by
  intro i s hs
  cases i with
  | iadd r m => exact (execIadd_leaves r m s).canonical hs
  | iadd3 r m => exact (execIadd3_leaves r m s).canonical hs
  | isub r m => exact (execIsub_leaves r m s).canonical hs
  | ineg r m => exact (execIneg_leaves r m s).canonical hs
  | iabs r m => exact (execIabs_leaves r m s).canonical hs
  | imin r m => exact (execImin_leaves r m s).canonical hs
  | imax r m => exact (execImax_leaves r m s).canonical hs
  | lea r sh u => exact (execLea_leaves r sh u s).canonical hs
  | icmp g p a b c w u => exact (execIcmp_leaves g p a b c w u s).canonical hs
  | imul r m => exact (execImul_leaves r m s).canonical hs
  | imulh r m => exact (execImulh_leaves r m s).canonical hs
  | imad r m => exact (execImad_leaves r m s).canonical hs
  | imadw r m => exact (execImadw_leaves r m s).canonical hs
  | idiv r f w u dzt => exact (execIdiv_leaves r f w u dzt s).canonical hs
  | irem r f w u dzt => exact (execIrem_leaves r f w u dzt s).canonical hs
  | iaddImm g d a imm => exact (execIaddImm_leaves g d a imm s).canonical hs
  | imulImm g d a imm => exact (execImulImm_leaves g d a imm s).canonical hs
  | andImm g d a imm => exact (execAndImm_leaves g d a imm s).canonical hs
  | orImm g d a imm => exact (execOrImm_leaves g d a imm s).canonical hs
  | xorImm g d a imm => exact (execXorImm_leaves g d a imm s).canonical hs
  | and r w => exact (execAnd_leaves r w s).canonical hs
  | or r w => exact (execOr_leaves r w s).canonical hs
  | xor r w => exact (execXor_leaves r w s).canonical hs
  | andn r w => exact (execAndn_leaves r w s).canonical hs
  | orn r w => exact (execOrn_leaves r w s).canonical hs
  | not r w => exact (execNot_leaves r w s).canonical hs
  | shl r w => exact (execShl_leaves r w s).canonical hs
  | shr r w => exact (execShr_leaves r w s).canonical hs
  | sar r w => exact (execSar_leaves r w s).canonical hs
  | rot r w => exact (execRot_leaves r w s).canonical hs
  | funl r w => exact (execFunl_leaves r w s).canonical hs
  | bfx r w u => exact (execBfx_leaves r w u s).canonical hs
  | bfi r w => exact (execBfi_leaves r w s).canonical hs
  | popc r w => exact (execPopc_leaves r w s).canonical hs
  | clz r w => exact (execClz_leaves r w s).canonical hs
  | ctz r w => exact (execCtz_leaves r w s).canonical hs
  | brev r w => exact (execBrev_leaves r w s).canonical hs
  | perm r => exact (execPerm_leaves r s).canonical hs
  | mov r w => exact (execMov_leaves r w s).canonical hs
  | sel r w p inv => exact (execSel_leaves r w p inv s).canonical hs
  | plog g p pa pb pc lut => exact (execPlog_leaves g p pa pb pc lut s).canonical hs
  | movi g d sx imm => exact (execMovi_leaves g d sx imm s).canonical hs
  | movw g d lo imm => exact (execMovw_leaves g d lo imm s).canonical hs
  | fadd r m => exact (execFadd_leaves r m s).canonical hs
  | fsub r m => exact (execFsub_leaves r m s).canonical hs
  | fmul r m => exact (execFmul_leaves r m s).canonical hs
  | ffma r m na nc => exact (execFfma_leaves r m na nc s).canonical hs
  | fmin r ftz f64 => exact (execFmin_leaves r ftz f64 s).canonical hs
  | fmax r ftz f64 => exact (execFmax_leaves r ftz f64 s).canonical hs
  | fscale r m => exact (execFscale_leaves r m s).canonical hs
  | fcmp g p a b c ftz f64 => exact (execFcmp_leaves g p a b c ftz f64 s).canonical hs
  | fclass r f64 => exact (execFclass_leaves r f64 s).canonical hs
  | frint r rnd ftz f64 => exact (execFrint_leaves r rnd ftz f64 s).canonical hs
  | hadd2 r rnd ftz sat => exact (execHadd2_leaves r rnd ftz sat s).canonical hs
  | hmul2 r rnd ftz sat => exact (execHmul2_leaves r rnd ftz sat s).canonical hs
  | hfma2 r rnd ftz sat => exact (execHfma2_leaves r rnd ftz sat s).canonical hs
  | faddImm g d a imm => exact (execFaddImm_leaves g d a imm s).canonical hs
  | fmulImm g d a imm => exact (execFmulImm_leaves g d a imm s).canonical hs
  | fminImm g d a imm => exact (execFminImm_leaves g d a imm s).canonical hs
  | fmaxImm g d a imm => exact (execFmaxImm_leaves g d a imm s).canonical hs
  | rcp r f ftz => exact (execRcp_leaves r f ftz s).canonical hs
  | rsq r f ftz => exact (execRsq_leaves r f ftz s).canonical hs
  | sqrt r f ftz => exact (execSqrt_leaves r f ftz s).canonical hs
  | exp2 r f ftz => exact (execExp2_leaves r f ftz s).canonical hs
  | log2 r f ftz => exact (execLog2_leaves r f ftz s).canonical hs
  | sinpi r f ftz => exact (execSinpi_leaves r f ftz s).canonical hs
  | cospi r f ftz => exact (execCospi_leaves r f ftz s).canonical hs
  | tanh r f ftz => exact (execTanh_leaves r f ftz s).canonical hs
  | cvt r rnd sat dt st => exact (execCvt_leaves r rnd sat dt st s).canonical hs
  | shfl r mode w => exact (execShfl_leaves r mode w s).canonical hs
  | vote g d p mode pn => exact (execVote_leaves g d p mode pn s).canonical hs
  | lred r op w u rnd => exact (execLred_leaves r op w u rnd s).canonical hs
  | lscan r op w u rnd excl => exact (execLscan_leaves r op w u rnd excl s).canonical hs
  | matchL r w => exact (execMatchL_leaves r w s).canonical hs
  | pairedCoIssue h0 h1 => exact (execPairedCoIssue_leaves h0 h1 s).canonical hs
  | pairedPathSplit h0 h1 => exact (execPairedPathSplit_leaves h0 h1 s).canonical hs
  | bra g off idx => exact (execBra_leaves g off idx s).canonical hs
  | call g link off idx => exact (execCall_leaves g link off idx s).canonical hs
  | loop g cnt off idx => exact (execLoop_leaves g cnt off idx s).canonical hs
  | brm g p inv off idx => exact (execBrm_leaves g p inv off idx s).canonical hs
  | meet g clr off idx => exact (execMeet_leaves g clr off idx s).canonical hs
  | spawn => exact execSpawn_canonical hs
  | brx g a => exact (execBrx_leaves g a s).canonical hs
  | callx g link a => exact (execCallx_leaves g link a s).canonical hs
  | ret g a => exact (execRet_leaves g a s).canonical hs
  | mend g => exact (execMend_leaves g s).canonical hs
  | spflush g => exact (execSpflush_leaves g s).canonical hs
  | exit => exact execExit_canonical hs
  | yield g => exact (execYield_leaves g s).canonical hs
  | waitf g mask => exact (execWaitf_leaves g mask s).canonical hs
  | nop g => exact (execNop_leaves g s).canonical hs
  | rnld => exact execRnld_canonical hs
  | bar => exact execBar_canonical hs
  | bara => exact execBara_canonical hs
  | barw => exact execBarw_canonical hs
  | cbar => exact execCbar_canonical hs
  | srd g d r => exact (execSrd_leaves g d r s).canonical hs
  | swr g a r => exact (execSwr_leaves g a r s).canonical hs
  | gts g d => exact (execGts_leaves g d s).canonical hs
  | clk g d => exact (execClk_leaves g d s).canonical hs
  | trap g a code => exact (execTrap_leaves g a code s).canonical hs
  | brkp g code => exact (execBrkp_leaves g code s).canonical hs
  | ld => exact execLd_canonical hs
  | st => exact execSt_canonical hs
  | ldc => exact execLdc_canonical hs
  | atom => exact execAtom_canonical hs
  | atoms => exact execAtoms_canonical hs
  | red => exact execRed_canonical hs
  | cas => exact execCas_canonical hs
  | aflush => exact execAflush_canonical hs
  | fence => exact execFence_canonical hs
  | pref => exact execPref_canonical hs
  | cwb => exact execCwb_canonical hs
  | cinv => exact execCinv_canonical hs
  | txbeg => exact execTxbeg_canonical hs
  | txend => exact execTxend_canonical hs
  | txabt => exact execTxabt_canonical hs
  | txst g d => exact (execTxst_leaves g d s).canonical hs
  | qpush m st x q => exact (execQpush_leaves m st x q s).canonical hs
  | qpop m d st wait q => exact (execQpop_leaves m d st wait q s).canonical hs
  | qcnt m d q => exact (execQcnt_leaves m d q s).canonical hs
  | cpy e a => exact (execCpy_leaves e a s).canonical hs
  | cpyg e a b => exact (execCpyg_leaves e a b s).canonical hs
  | cpys e a b => exact (execCpys_leaves e a b s).canonical hs
  | cpym e a c slot => exact (execCpym_leaves e a c slot s).canonical hs
  | omclm e a b t scu => exact (execOmclm_leaves e a b t scu s).canonical hs
  | omrel e a b => exact (execOmrel_leaves e a b s).canonical hs
  | accz e acc => exact (execAccz_leaves e acc s).canonical hs
  | accld e a b acc => exact (execAccld_leaves e a b acc s).canonical hs
  | accst e a b c acc => exact (execAccst_leaves e a b c acc s).canonical hs
  | accmv e slot c acc h => exact (execAccmv_leaves e slot c acc h s).canonical hs
  | mma e sa sb acc => exact (execMma_leaves e sa sb acc s).canonical hs
  | mmb e sa sb acc => exact (execMmb_leaves e sa sb acc s).canonical hs
  | futw g d a => exact (execFutw_leaves g d a s).canonical hs
  | futt g p a => exact (execFutt_leaves g p a s).canonical hs
  | futc g a => exact (execFutc_leaves g a s).canonical hs
  | rstl => exact execRstl_canonical hs
  | coll e a b kind => exact (execColl_leaves e a b kind s).canonical hs
  | put e a b => exact (execPut_leaves e a b s).canonical hs
  | get e a b => exact (execGet_leaves e a b s).canonical hs
  | qnt e a b c wt => exact (execQnt_leaves e a b c wt s).canonical hs
  | dqnt e a b c wt => exact (execDqnt_leaves e a b c wt s).canonical hs
  | amax g f a ring adv => exact (execAmax_leaves g f a ring adv s).canonical hs
  | sring g f d ring => exact (execSring_leaves g f d ring s).canonical hs
  | kxBegin rd rs1 => exact (execKxBegin_leaves rd rs1 s).canonical hs
  | kxEnd => exact execKxEnd_canonical hs
  | kxAbort code => exact (execKxAbort_leaves code s).canonical hs
  | kxStat rd => exact (execKxStat_leaves rd s).canonical hs
  | kxLock rs1 => exact (execKxLock_leaves rs1 s).canonical hs
  | flaggedOpComplete => exact execFlaggedOpComplete_canonical hs
  | walkComplete => exact execWalkComplete_canonical hs
  | mvWaitTimeout k => exact (execMvWaitTimeout_leaves k s).canonical hs
  | tlbInvalidate tctx what => exact (execTlbInvalidate_leaves tctx what s).canonical hs
  | tlbInvalidateComplete => exact execTlbInvalidateComplete_canonical hs
  | peerAccessArrive k => exact (execPeerAccessArrive_leaves k s).canonical hs
  | copyLineLanded => exact execCopyLineLanded_canonical hs
  | releasePull => exact execReleasePull_canonical hs
  | pullAck => exact execPullAck_canonical hs
  | releaseSetTimeout => exact execReleaseSetTimeout_canonical hs
  | regionMoveComplete => exact execRegionMoveComplete_canonical hs
  | floorWindow => exact (execFloorWindow_leaves s).canonical hs
  | txLockWaitEnd part cls => exact (execTxLockWaitEnd_leaves part cls s).canonical hs
  | txTimeLimit who => exact (execTxTimeLimit_leaves who s).canonical hs
  | spawnCohortForm => exact execSpawnCohortForm_canonical hs
  | belvedereCheck coh => exact (execBelvedereCheck_leaves coh s).canonical hs
  | submitEntry => exact execSubmitEntry_canonical hs
  | dependencePoll => exact execDependencePoll_canonical hs
  | railsSettled => exact execRailsSettled_canonical hs
  | clusterPlace => exact execClusterPlace_canonical hs
  | gridRetire => exact execGridRetire_canonical hs
  | activePositionHandoff out into => exact (execActivePositionHandoff_leaves out into s).canonical hs
  | cohortEvict => exact execCohortEvict_canonical hs
  | cohortRestoreEvicted => exact execCohortRestoreEvicted_canonical hs
  | launchQueueCohortStart => exact execLaunchQueueCohortStart_canonical hs
  | powerLimitStepDown => exact (execPowerLimitStepDown_leaves s).canonical hs
  | powerLimitStepUp => exact (execPowerLimitStepUp_leaves s).canonical hs
  | trapRecordWrite => exact execTrapRecordWrite_canonical hs
  | trapReply => exact execTrapReply_canonical hs
  | trapQueueSetup part base => exact (execTrapQueueSetup_leaves part base s).canonical hs
  | trapQueueHeadWrite part head => exact (execTrapQueueHeadWrite_leaves part head s).canonical hs
  | queueSetup part q ring spill scap => exact (execQueueSetup_leaves part q ring spill scap s).canonical hs
  | exportRegion part region => exact (execExportRegion_leaves part region s).canonical hs
  | memoryGrant => exact execMemoryGrant_canonical hs
  | floorRequest part ch units => exact (execFloorRequest_leaves part ch units s).canonical hs
  | sliceEnd share => exact (execSliceEnd_leaves share s).canonical hs
  | haltComplete => exact execHaltComplete_canonical hs
  | quiesceMarkerReturn => exact execQuiesceMarkerReturn_canonical hs
  | imageSaveComplete => exact execImageSaveComplete_canonical hs
  | scrubComplete => exact execScrubComplete_canonical hs
  | restoreComplete => exact execRestoreComplete_canonical hs
  | engineOpComplete => exact execEngineOpComplete_canonical hs
  | claimGrant => exact execClaimGrant_canonical hs
  | fillLanded => exact execFillLanded_canonical hs
  | remoteRequest => exact execRemoteRequest_canonical hs
  | payloadDelivery => exact execPayloadDelivery_canonical hs
  | collChunkArrival => exact execCollChunkArrival_canonical hs
  | collResult => exact execCollResult_canonical hs
  | collTimeout => exact execCollTimeout_canonical hs
  | flitReplayExhausted => exact execFlitReplayExhausted_canonical hs
  | portOutOfService => exact execPortOutOfService_canonical hs
  | gangReady gid rank digest => exact (execGangReady_leaves gid rank digest s).canonical hs
  | gangGo => exact execGangGo_canonical hs
  | gangCancel => exact execGangCancel_canonical hs
  | gangAck => exact execGangAck_canonical hs
  | gangAbort => exact execGangAbort_canonical hs
  | gangPrepareTimeout => exact execGangPrepareTimeout_canonical hs
  | gangGoTimeout => exact execGangGoTimeout_canonical hs
  | gangAckTimeout => exact execGangAckTimeout_canonical hs
  | featuresOk vf features => exact (execFeaturesOk_leaves vf features s).canonical hs
  | vfReset => exact execVfReset_canonical hs
  | cancelLaunch => exact execCancelLaunch_canonical hs
  | readAccount vf => exact (execReadAccount_leaves vf s).canonical hs
  | loadImage => exact execLoadImage_canonical hs
  | loaderComplete => exact execLoaderComplete_canonical hs
  | eventDelivery vf => exact (execEventDelivery_leaves vf s).canonical hs
  | completionEntryWrite vf => exact (execCompletionEntryWrite_leaves vf s).canonical hs
  | getVersion vf => exact (execGetVersion_leaves vf s).canonical hs
  | getCapabilities vf => exact (execGetCapabilities_leaves vf s).canonical hs
  | negotiateAlgorithms vf => exact (execNegotiateAlgorithms_leaves vf s).canonical hs
  | getDigests vf => exact (execGetDigests_leaves vf s).canonical hs
  | getCertificate vf => exact (execGetCertificate_leaves vf s).canonical hs
  | challenge vf nonce => exact (execChallenge_leaves vf nonce s).canonical hs
  | getMeasurements vf index => exact (execGetMeasurements_leaves vf index s).canonical hs
  | keyExchange vf => exact (execKeyExchange_leaves vf s).canonical hs
  | finish vf => exact (execFinish_leaves vf s).canonical hs
  | endSession vf => exact (execEndSession_leaves vf s).canonical hs
  | setImageKey vf k key => exact (execSetImageKey_leaves vf k key s).canonical hs
  | setDtid vf dtid => exact (execSetDtid_leaves vf dtid s).canonical hs
  | resetRecord vf => exact (execResetRecord_leaves vf s).canonical hs
  | cshareWrite => exact execCshareWrite_canonical hs
  | pctlWrite p v => exact (execPctlWrite_leaves p v s).canonical hs
  | registerWrite => exact execRegisterWrite_canonical hs
  | arrayScrubPass => exact execArrayScrubPass_canonical hs
  | errorLogRecord => exact execErrorLogRecord_canonical hs
  | spareBringIn => exact execSpareBringIn_canonical hs
  | spareSwapComplete => exact execSpareSwapComplete_canonical hs
  | corePowerGate core => exact (execCorePowerGate_leaves core s).canonical hs
  | coreWake core => exact (execCoreWake_leaves core s).canonical hs
  | reset => exact execReset_canonical hs
  | baseDieMemoryAccess => exact execBaseDieMemoryAccess_canonical hs
  | hartTrap hart cause => exact (execHartTrap_leaves hart cause s).canonical hs
  | instructionCacheFill => exact execInstructionCacheFill_canonical hs
  | unknownControlRequest vf code => exact (execUnknownControlRequest_leaves vf code s).canonical hs

/-- Settles O56: each instruction keeps the form, and a step is made of instructions and the machine's own turns. -/
theorem stepKeepsMemory : Obligations.StepKeepsMemory := by
  unfold Obligations.StepKeepsMemory
  intro s t h ht
  rw [State.memWf_iff] at h ⊢
  exact h.oneStep exec_keepsCanonical t ht

end Sys2Proof.Machine
end

section
/-! PROOF. What the passes over regions, launches and grids leave of the control registers (O47). -/

namespace Sys2Proof.Machine

/-- The control registers, without what the model itself keeps among them: the units granted in this window (R92) and the
points that grids ask for (R183). -/
def Ctl.controls (c : Ctl) : Ctl := { c with granted := [], want := [] }

/-- The control registers of a state. -/
def State.controls (s : State) : Ctl := s.ctl.controls

@[simp] theorem controls_mk {ctl mem own bank cohorts blocks placed grids cores cluTlb constC l2 walkC late mvWaits ewr
    ops pulls transit walks invals kiosk harts traps queues qwaits tier fab svc shares serials cur agenda time fresh} :
    (State.mk ctl mem own bank cohorts blocks placed grids cores cluTlb constC l2 walkC late mvWaits ewr ops pulls
      transit walks invals kiosk harts traps queues qwaits tier fab svc shares serials cur agenda time fresh).controls =
      ctl.controls := by
  simp only [State.controls]

@[simp] theorem State.ctl_controls (s : State) : s.ctl.controls = s.controls := by simp only [State.controls]

@[simp] theorem controls_ite (c : Prop) [Decidable c] (s t : State) :
    (if c then s else t).controls = if c then s.controls else t.controls := apply_ite _ _ _ _

@[simp] theorem snd_controls_ite {α : Type} (c : Prop) [Decidable c] (s t : α × State) :
    (if c then s else t).2.controls = if c then s.2.controls else t.2.controls := by split <;> rfl

@[simp] theorem foldl_controls {α : Type} (f : State → α → State) (hf : ∀ s x, (f s x).controls = s.controls) (l : List α)
    (s : State) : (l.foldl f s).controls = s.controls :=
  foldl_invariant (fun t => t.controls = s.controls) rfl fun t x ht => (hf t x).trans ht

@[simp] theorem foldl_snd_controls {α β : Type} (f : β × State → α → β × State)
    (hf : ∀ r x, (f r x).2.controls = r.2.controls) (l : List α) (r : β × State) :
    (l.foldl f r).2.controls = r.2.controls :=
  foldl_invariant (fun q => q.2.controls = r.2.controls) rfl fun q x hq => (hf q x).trans hq

@[simp] theorem State.modCoh_controls (s : State) (c : Nat) (f : Cohort → Cohort) :
    (s.modCoh c f).controls = s.controls := by simp [State.modCoh]

@[simp] theorem State.modCore_controls (s : State) (k : Nat) (f : Core → Core) :
    (s.modCore k f).controls = s.controls := by simp [State.modCore]

@[simp] theorem State.acquireDrop_controls (s : State) (core part : Nat) :
    (s.acquireDrop core part).controls = s.controls := by simp [State.acquireDrop]

@[simp] theorem State.tick_controls (s : State) : s.tick.controls = s.controls := by simp [State.tick]

@[simp] theorem State.dropTlb_controls (s : State) (f : TlbE → Bool) :
    (s.dropTlb f).controls = s.controls := by simp [State.dropTlb]

@[simp] theorem State.charge_controls (s : State) (part pa n : Nat) :
    (s.charge part pa n).controls = s.controls := by
  unfold State.charge
  dsimp only
  split <;> rfl

@[simp] theorem State.chargeOwner_controls (s : State) (pa n : Nat) :
    (s.chargeOwner pa n).controls = s.controls := by
  unfold State.chargeOwner
  split <;> simp

@[simp] theorem State.markBad_controls (s : State) (w : Nat) : (s.markBad w).controls = s.controls := by
  simp [State.markBad]

@[simp] theorem State.l2Bad_controls (s : State) (x : Nat) (held write : Bool) :
    (s.l2Bad x held write).controls = s.controls := by simp [State.l2Bad]

@[simp] theorem State.next_controls (s : State) : s.next.controls = s.controls := by simp [State.next]

@[simp] theorem State.l2Room_controls (s : State) (line : Nat) (ls : List L2Line) :
    (s.l2Room line ls).2.controls = s.controls := by
  simp only [State.l2Room]
  (repeat' split) <;> simp

@[simp] theorem State.l2Sector_controls (s : State) (x : Nat) (write free : Bool) :
    (s.l2Sector x write free).controls = s.controls := by simp [State.l2Sector]

@[simp] theorem State.l2Write_controls (s : State) (pa n : Nat) : (s.l2Write pa n).controls = s.controls := by
  simp [State.l2Write]

@[simp] theorem State.modHart_controls (s : State) (h : Nat) (f : Hart → Hart) :
    (s.modHart h f).controls = s.controls := by simp [State.modHart]

@[simp] theorem State.hartAbort_controls (s : State) (h : Nat) (code sub : BitVec 8) :
    (s.hartAbort h code sub).controls = s.controls := by
  unfold State.hartAbort
  split <;> simp

@[simp] theorem State.conflictWrite_controls (s : State) (pa n : Nat) (except : Option Nat) :
    (s.conflictWrite pa n except).controls = s.controls := by simp [State.conflictWrite]

@[simp] theorem State.repair_controls (s : State) (pa n : Nat) : (s.repair pa n).controls = s.controls := by
  simp [State.repair]

@[simp] theorem State.homePut_controls (s : State) (pa n v : Nat) (except : Option Nat) :
    (s.homePut pa n v except).controls = s.controls := by simp [State.homePut]

@[simp] theorem State.homeWrite_controls (s : State) (pa n v : Nat) (except : Option Nat) :
    (s.homeWrite pa n v except).controls = s.controls := by simp [State.homeWrite]

@[simp] theorem State.modVf_controls (s : State) (n : Nat) (f : Vf → Vf) :
    (s.modVf n f).controls = s.controls := by simp [State.modVf]

@[simp] theorem State.event_controls (s : State) (part kind source m : Nat) (arg0 arg1 : DWord) :
    (s.event part kind source m arg0 arg1).controls = s.controls := by simp [State.event]

@[simp] theorem State.unwait_controls (s : State) (c : Nat) (m : LaneMask) :
    (s.unwait c m).controls = s.controls := by simp [State.unwait]

@[simp] theorem State.arrive_controls (s : State) (c : Nat) (ls : List (Nat × DWord)) (fall : Bool) :
    (s.arrive c ls fall).controls = s.controls := by simp [State.arrive]

@[simp] theorem State.drop_controls (s : State) (m : LaneMask) : (s.drop m).controls = s.controls := by
  simp [State.drop]

@[simp] theorem State.txAbort_controls (s : State) (c l : Nat) (code sub : BitVec 8) :
    (s.txAbort c l code sub).controls = s.controls := by
  simp only [State.txAbort]
  (repeat' split) <;> simp

@[simp] theorem State.flagDown_controls (s : State) (c : Nat) (f : Option Nat) :
    (s.flagDown c f).controls = s.controls := by
  unfold State.flagDown
  split <;> simp

@[simp] theorem State.modOp_controls (s : State) (i : Nat) (f : Op → Op) :
    (s.modOp i f).controls = s.controls := by simp [State.modOp]

@[simp] theorem State.opDone_controls (s : State) (i : Nat) (m : LaneMask) :
    (s.opDone i m).controls = s.controls := by
  unfold State.opDone
  split <;> simp

@[simp] theorem State.l1Stale_controls (s : State) (core part : Nat) (ss : List Nat) :
    (s.l1Stale core part ss).controls = s.controls := by simp [State.l1Stale]

@[simp] theorem State.noteDone_controls (s : State) (w : LateWrite) :
    (s.noteDone w).controls = s.controls := by
  unfold State.noteDone
  split <;> simp

@[simp] theorem State.putPieces_controls (s : State) (l : List (Nat × Nat)) (v : Nat) :
    (s.putPieces l v).controls = s.controls := by simp [State.putPieces]

@[simp] theorem State.unitPut_controls (s : State) (w : LateWrite) : (s.unitPut w).controls = s.controls := by
  simp only [State.unitPut]
  (repeat' split) <;> simp

@[simp] theorem State.leaveSets_controls (s : State) (core part sec : Nat) :
    (s.leaveSets core part sec).controls = s.controls := by simp [State.leaveSets]

@[simp] theorem State.l1Upd_controls (s : State) (core part sec : Nat) (f : L1Sec → L1Sec) :
    (s.l1Upd core part sec f).controls = s.controls := by simp [State.l1Upd]

@[simp] theorem State.wbSector_controls (s : State) (core part sec : Nat) :
    (s.wbSector core part sec).controls = s.controls := by
  unfold State.wbSector
  split <;> simp

@[simp] theorem State.wbSectors_controls (s : State) (core part : Nat) (l : List Nat) :
    (s.wbSectors core part l).controls = s.controls := by simp [State.wbSectors]

@[simp] theorem State.modGrd_controls (s : State) (g : Nat) (f : Grid → Grid) :
    (s.modGrd g f).controls = s.controls := by simp [State.modGrd]

@[simp] theorem State.pullSet_controls (s : State) (core id : Nat) :
    (s.pullSet core id).controls = s.controls := by
  unfold State.pullSet
  split <;> simp

@[simp] theorem State.pullAll_controls (s : State) (ts : List (Nat × Nat)) :
    (s.pullAll ts).controls = s.controls := by simp [State.pullAll]

@[simp] theorem State.unitWrite_controls (s : State) (grid part tctx va n v : Nat) :
    (s.unitWrite grid part tctx va n v).controls = s.controls := by simp [State.unitWrite]

@[simp] theorem State.putStat_controls (s : State) (g : Nat) : (s.putStat g).controls = s.controls := by
  simp [State.putStat]

@[simp] theorem State.drainWrites_controls (s : State) (f : EngWrite → Bool) :
    (s.drainWrites f).controls = s.controls := by simp [State.drainWrites]

@[simp] theorem State.wbDrop_controls (s : State) (core part : Nat) (l : List Nat) :
    (s.wbDrop core part l).controls = s.controls := by simp [State.wbDrop]

@[simp] theorem State.mvOver_controls (s : State) (u : MvUnit) : (s.mvOver u).controls = s.controls := by
  simp [State.mvOver]

@[simp] theorem State.mvMeet_controls (s : State) (u : MvUnit) (tctx : Nat) (l : List (Page × Nat × Nat)) :
    (s.mvMeet u tctx l).2.controls = s.controls := by
  unfold State.mvMeet
  split <;> simp

@[simp] theorem State.l1Trim_controls (s : State) (w : Who) : (s.l1Trim w).controls = s.controls := by
  simp [State.l1Trim]

@[simp] theorem State.acqAfter_controls (s : State) (o : Op) (tx : Nat) :
    (s.acqAfter o tx).controls = s.controls := by simp [State.acqAfter]

@[simp] theorem State.takeDst_controls (s : State) (c i : Nat) (ds : List Dst) :
    (s.takeDst c i ds).controls = s.controls := by simp [State.takeDst]

@[simp] theorem State.bindSel_controls (s : State) (i l : Nat) (w : BitVec 160) (ws : Nat → Bool) :
    (s.bindSel i l w ws).controls = s.controls := by
  unfold State.bindSel
  split <;> simp

@[simp] theorem State.popBind_controls (s : State) (i l : Nat) (t : MType) (v : BitVec 128) (st : Nat) :
    (s.popBind i l t v st).controls = s.controls := by simp [State.popBind]

@[simp] theorem State.modQueue_controls (s : State) (part q : Nat) (f : QDesc → QDesc) :
    (s.modQueue part q f).controls = s.controls := by simp [State.modQueue]

@[simp] theorem State.qTake_controls (s : State) (part q : Nat) (r : Reader) :
    (s.qTake part q r).2.controls = s.controls := by simp [State.qTake]

@[simp] theorem State.qpopLane_controls (s : State) (i : Nat) (o : Op) (q l : Nat) :
    (s.qpopLane i o q l).controls = s.controls := by simp [State.qpopLane]

@[simp] theorem State.serveWaits_controls (s : State) (part q : Nat) :
    (s.serveWaits part q).controls = s.controls := by
  refine foldl_controls _ (fun t w => ?_) _ _
  dsimp only
  split
  · split <;> simp
  · rfl

@[simp] theorem State.l2Clean_controls (s : State) (f : Nat) : (s.l2Clean f).controls = s.controls := by
  simp [State.l2Clean]

@[simp] theorem State.clearFrame_controls (s : State) (f : Nat) : (s.clearFrame f).controls = s.controls := by
  simp [State.clearFrame]

@[simp] theorem State.schedRead_controls (s : State) (u : MvUnit) (part tctx va n : Nat) :
    (s.schedRead u part tctx va n).2.controls = s.controls := by
  simp only [State.schedRead]
  (repeat' split) <;> simp

@[simp] theorem State.depState_controls (s : State) (k : Nat) (g : Grid) (va : Nat) :
    (s.depState k g va).2.controls = s.controls := by
  simp only [State.depState]
  (repeat' split) <;> simp

@[simp] theorem State.depRead_controls (s : State) (k : Nat) : (s.depRead k).2.controls = s.controls := by
  simp [State.depRead]

@[simp] theorem State.junkArea_controls (s : State) (g : Grid) : (s.junkArea g).controls = s.controls := by
  unfold State.junkArea
  split
  · rfl
  dsimp only
  split
  · rfl
  · refine foldl_controls _ (fun t i => ?_) _ _
    split <;> simp

@[simp] theorem State.unbind_controls (s : State) (g : Grid) : (s.unbind g).controls = s.controls := by
  simp [State.unbind]

@[simp] theorem State.request_controls (s : State) : s.request.controls = s.controls := by
  simp only [State.request, State.controls, Ctl.controls]

@[simp] theorem State.retire_controls (s : State) (g code cause : Nat) (stat : Bool) :
    (s.retire g code cause stat).controls = s.controls := by simp [State.retire]

@[simp] theorem State.stepCount_controls (s : State) (k : Nat) : (s.stepCount k).controls = s.controls := by
  simp only [State.stepCount]
  (repeat' split) <;> simp

@[simp] theorem State.toOpwait_controls (s : State) (k : Nat) : (s.toOpwait k).controls = s.controls := by
  simp [State.toOpwait]

@[simp] theorem State.moveStart_controls (s : State) (g : TReg) (old new : Nat) (promote : Bool) :
    (s.moveStart g old new promote).controls = s.controls := by simp [State.moveStart]

@[simp] theorem State.swapStep_controls (s : State) (w : Swap) : (s.swapStep w).controls = s.controls := by
  unfold State.swapStep
  (repeat' split) <;> simp

@[simp] theorem State.tierRun_controls (s : State) : s.tierRun.controls = s.controls := by
  simp [State.tierRun]

@[simp] theorem State.demandStart_controls (s : State) (g : Grid) :
    (s.demandStart g).controls = s.controls := by simp [State.demandStart]

@[simp] theorem State.stepReswait_controls (s : State) (k : Nat) :
    (s.stepReswait k).controls = s.controls := by simp [State.stepReswait]

@[simp] theorem State.stepLaunch_controls (s : State) (k : Nat) : (s.stepLaunch k).controls = s.controls := by
  simp [State.stepLaunch]

@[simp] theorem State.letIn_controls (s : State) (k : Nat) : (s.letIn k).controls = s.controls := by
  simp [State.letIn]

@[simp] theorem State.launchRun_controls (s : State) : s.launchRun.controls = s.controls := by
  simp [State.launchRun]

end Sys2Proof.Machine
end

section
/-! PROOF. The L1 that loses rows leaves every cohort as it was (O47). -/

namespace Sys2Proof.Machine

@[simp] theorem foldl_cohorts {α : Type} (f : State → α → State) (hf : ∀ s x, (f s x).cohorts = s.cohorts) (l : List α)
    (s : State) : (l.foldl f s).cohorts = s.cohorts :=
  foldl_invariant (fun t => t.cohorts = s.cohorts) rfl fun t x ht => (hf t x).trans ht

@[simp] theorem cohorts_ite (c : Prop) [Decidable c] (s t : State) :
    (if c then s else t).cohorts = if c then s.cohorts else t.cohorts := apply_ite _ _ _ _

@[simp] theorem State.charge_cohorts (s : State) (part pa n : Nat) :
    (s.charge part pa n).cohorts = s.cohorts := by simp [State.charge]

@[simp] theorem State.chargeOwner_cohorts (s : State) (pa n : Nat) :
    (s.chargeOwner pa n).cohorts = s.cohorts := by
  unfold State.chargeOwner
  split <;> simp

@[simp] theorem State.markBad_cohorts (s : State) (w : Nat) : (s.markBad w).cohorts = s.cohorts := by
  simp [State.markBad]

@[simp] theorem State.l2Bad_cohorts (s : State) (x : Nat) (held write : Bool) :
    (s.l2Bad x held write).cohorts = s.cohorts := by simp [State.l2Bad]

@[simp] theorem State.l2Room_cohorts (s : State) (line : Nat) (ls : List L2Line) :
    (s.l2Room line ls).2.cohorts = s.cohorts := by
  simp only [State.l2Room]
  (repeat' split) <;> simp

@[simp] theorem State.l2Sector_cohorts (s : State) (x : Nat) (write free : Bool) :
    (s.l2Sector x write free).cohorts = s.cohorts := by
  simp only [State.l2Sector]
  (repeat' split) <;> simp

@[simp] theorem State.hartAbort_cohorts (s : State) (h : Nat) (code sub : BitVec 8) :
    (s.hartAbort h code sub).cohorts = s.cohorts := by
  unfold State.hartAbort
  split <;> simp

@[simp] theorem State.conflictWrite_cohorts (s : State) (pa n : Nat) (except : Option Nat) :
    (s.conflictWrite pa n except).cohorts = s.cohorts := by simp [State.conflictWrite]

@[simp] theorem State.repair_cohorts (s : State) (pa n : Nat) : (s.repair pa n).cohorts = s.cohorts := by
  simp [State.repair]

@[simp] theorem State.homePut_cohorts (s : State) (pa n v : Nat) (except : Option Nat) :
    (s.homePut pa n v except).cohorts = s.cohorts := by simp [State.homePut]

@[simp] theorem State.leaveSets_cohorts (s : State) (core part sec : Nat) :
    (s.leaveSets core part sec).cohorts = s.cohorts := by simp [State.leaveSets]

@[simp] theorem State.l1Upd_cohorts (s : State) (core part sec : Nat) (f : L1Sec → L1Sec) :
    (s.l1Upd core part sec f).cohorts = s.cohorts := by simp [State.l1Upd]

@[simp] theorem State.wbSector_cohorts (s : State) (core part sec : Nat) :
    (s.wbSector core part sec).cohorts = s.cohorts := by
  unfold State.wbSector
  split <;> simp

@[simp] theorem State.wbSectors_cohorts (s : State) (core part : Nat) (l : List Nat) :
    (s.wbSectors core part l).cohorts = s.cohorts := by simp [State.wbSectors]

@[simp] theorem State.wbDrop_cohorts (s : State) (core part : Nat) (l : List Nat) :
    (s.wbDrop core part l).cohorts = s.cohorts := by simp [State.wbDrop]

@[simp] theorem State.l1Trim_cohorts (s : State) (w : Who) : (s.l1Trim w).cohorts = s.cohorts := by
  simp [State.l1Trim]

end Sys2Proof.Machine
end

section
/-! PROOF. Arbor's writes to control registers (O47). -/

namespace Sys2Proof.Machine

@[simp] theorem gives_next (t : State) (P : State → Prop) : Gives (.next t) P ↔ P t := by simp [Gives]

/-! ### Fields and register files -/

theorem pte_lt (e lo n : Nat) : pte e lo n < 2 ^ n := Nat.mod_lt _ (Nat.two_pow_pos n)

theorem toNat_getD_put {w n x : Nat} (m : SMap (BitVec w)) (d : BitVec w) (h : x < 2 ^ w) :
    (getD (put m n (BitVec.ofNat w x) d) n d).toNat = x := by
  rw [getD_put_same, BitVec.toNat_ofNat, Nat.mod_eq_of_lt h]

/-- A partition's control word is stored field by field, its time slice at least 1 (R408). -/
theorem pctlStored_eq (w : Nat) : pctlStored w =
    pte w 0 5 * 2 ^ 0 + pte w 7 1 * 2 ^ 7 + max (2 ^ 8) (pte w 8 16 * 2 ^ 8) + pte w 24 8 * 2 ^ 24 := by
  have h0 := pte_lt w 0 5
  have h7 := pte_lt w 7 1
  have h8 := pte_lt w 8 16
  unfold pctlStored
  extract_lets q
  have hq : q = pte w 0 5 * 2 ^ 0 + pte w 7 1 * 2 ^ 7 + pte w 8 16 * 2 ^ 8 + pte w 24 8 * 2 ^ 24 := by
    unfold q keepBits
    rw [List.foldl_cons, List.foldl_cons, List.foldl_cons, List.foldl_cons, List.foldl_nil, Nat.zero_add]
  have hc : pte q 8 16 = pte w 8 16 := by
    rw [pte]
    omega
  clear_value q
  rw [hc]
  split <;> omega

theorem pctlStored_lt (w : Nat) : pctlStored w < 2 ^ 32 := by
  have h0 := pte_lt w 0 5
  have h7 := pte_lt w 7 1
  have h8 := pte_lt w 8 16
  have h24 := pte_lt w 24 8
  rw [pctlStored_eq]
  omega

theorem pte_pctlStored_share (w : Nat) : pte (pctlStored w) 0 5 = pte w 0 5 := by
  have h0 := pte_lt w 0 5
  rw [pctlStored_eq, pte]
  omega

theorem pte_pctlStored_here (w : Nat) : pte (pctlStored w) 7 1 = pte w 7 1 := by
  have h0 := pte_lt w 0 5
  have h7 := pte_lt w 7 1
  rw [pctlStored_eq, pte]
  omega

/-! ### Writes of one register -/

theorem State.controls_tierctl (s : State) : s.controls.tierctl = s.ctl.tierctl := rfl
theorem State.controls_schedctl (s : State) : s.controls.schedctl = s.ctl.schedctl := rfl
theorem State.controls_defPoint (s : State) : s.controls.defPoint = s.ctl.defPoint := rfl
theorem State.controls_cshare (s : State) : s.controls.cshare = s.ctl.cshare := rfl

theorem State.tierRun_tierctl (s : State) : s.tierRun.ctl.tierctl = s.ctl.tierctl := by
  rw [← State.controls_tierctl, State.tierRun_controls, State.controls_tierctl]

theorem State.launchRun_schedctl (s : State) : s.launchRun.ctl.schedctl = s.ctl.schedctl := by
  rw [← State.controls_schedctl, State.launchRun_controls, State.controls_schedctl]

theorem State.request_launchRun_defPoint (s : State) : s.request.launchRun.ctl.defPoint = s.ctl.defPoint := by
  rw [← State.controls_defPoint, State.launchRun_controls, State.request_controls, State.controls_defPoint]

section
variable {s : State} {n : Nat} {v : BitVec 64}

theorem registerWrite_tctx (h : n < 64) : Gives (exec (.registerWrite (.tctx n) v) s) (fun t =>
    t.tctxOf n = pte v.toNat 0 6 * 2 ^ 0 + pte v.toNat 14 38 * 2 ^ 14 ∧
    (∀ k, k ≠ n → t.tctxOf k = s.tctxOf k) ∧ t.cohorts = s.cohorts ∧ t.mem = s.mem) := by
  have h6 := pte_lt v.toNat 0 6
  have h38 := pte_lt v.toNat 14 38
  simp only [exec, execRegisterWrite, if_neg (Nat.not_le.2 h), gives_next, keepBits, List.foldl, and_true]
  refine ⟨?_, fun k hk => ?_⟩
  · rw [State.tctxOf, toNat_getD_put _ _ (by omega)]
    omega
  · rw [State.tctxOf, getD_put_other _ _ _ hk, State.tctxOf]

theorem registerWrite_tierctl (h : n < Config.parts) : Gives (exec (.registerWrite (.tierctl n) v) s) (fun t =>
    (getD t.ctl.tierctl n 0x102#32).toNat = max 1 (pte v.toNat 0 4) + pte v.toNat 8 1 * 2 ^ 8) := by
  have h4 := pte_lt v.toNat 0 4
  have h1 := pte_lt v.toNat 8 1
  simp only [exec, execRegisterWrite, if_neg (Nat.not_le.2 h), gives_next]
  rw [State.tierRun_tierctl]
  exact toNat_getD_put _ _ (by omega)

theorem registerWrite_txctl (h : n < Config.parts) : Gives (exec (.registerWrite (.txctl n) v) s) (fun t =>
    t.txctl n = max 1 (pte v.toNat 0 16) + pte v.toNat 16 1 * 2 ^ 16 ∧
    (∀ k, k ≠ n → t.txctl k = s.txctl k) ∧ t.cohorts = s.cohorts ∧ t.mem = s.mem) := by
  have h16 := pte_lt v.toNat 0 16
  have h1 := pte_lt v.toNat 16 1
  simp only [exec, execRegisterWrite, if_neg (Nat.not_le.2 h), gives_next, and_true]
  refine ⟨toNat_getD_put _ _ (by omega), fun k hk => ?_⟩
  rw [State.txctl, getD_put_other _ _ _ hk, State.txctl]

theorem registerWrite_stallctl (h : n < Config.parts) : Gives (exec (.registerWrite (.stallctl n) v) s) (fun t =>
    t.stallctl n = max 1 (pte v.toNat 0 20) + pte v.toNat 31 1 * 2 ^ 31 ∧
    (∀ k, k ≠ n → t.stallctl k = s.stallctl k) ∧ t.cohorts = s.cohorts ∧ t.mem = s.mem) := by
  have h20 := pte_lt v.toNat 0 20
  have h1 := pte_lt v.toNat 31 1
  simp only [exec, execRegisterWrite, if_neg (Nat.not_le.2 h), gives_next, and_true]
  refine ⟨toNat_getD_put _ _ (by omega), fun k hk => ?_⟩
  rw [State.stallctl, getD_put_other _ _ _ hk, State.stallctl]

theorem registerWrite_schedctl (h : n < Config.parts) : Gives (exec (.registerWrite (.schedctl n) v) s) (fun t =>
    t.schedctl n = min 64 (max 1 (pte v.toNat 0 7)) + pte v.toNat 16 1 * 2 ^ 16 ∧
    ∀ k, k ≠ n → t.schedctl k = s.schedctl k) := by
  have h1 := pte_lt v.toNat 16 1
  simp only [exec, execRegisterWrite, if_neg (Nat.not_le.2 h), gives_next, State.schedctl]
  rw [State.launchRun_schedctl]
  exact ⟨toNat_getD_put _ _ (by omega), fun k hk => congrArg BitVec.toNat (getD_put_other _ _ _ hk)⟩

theorem registerWrite_defPoint (h : n < Config.dies) : Gives (exec (.registerWrite (.defPoint n) v) s) (fun t =>
    getD t.ctl.defPoint n 0 = v.toNat % 16 ∧ ∀ k, k ≠ n → getD t.ctl.defPoint k 0 = getD s.ctl.defPoint k 0) := by
  simp only [exec, execRegisterWrite, if_neg (Nat.not_le.2 h), gives_next]
  rw [State.request_launchRun_defPoint]
  exact ⟨getD_put_same _ _ _ _, fun k hk => getD_put_other _ _ _ hk⟩

theorem registerWrite_saveArea (h : n < Config.parts) : Gives (exec (.registerWrite (.saveArea n) v) s) (fun t =>
    getD t.ctl.saveArea n 0 = v.toNat % 2 ^ 52 ∧ t = { s with ctl := { s.ctl with saveArea := t.ctl.saveArea } }) := by
  simp only [exec, execRegisterWrite, if_neg (Nat.not_le.2 h), gives_next, getD_put_same, and_true]

theorem registerWrite_evictArea (h : n < Config.parts) : Gives (exec (.registerWrite (.evictArea n) v) s) (fun t =>
    getD t.ctl.evictArea n 0 = v.toNat % 2 ^ 52 ∧ t = { s with ctl := { s.ctl with evictArea := t.ctl.evictArea } }) := by
  simp only [exec, execRegisterWrite, if_neg (Nat.not_le.2 h), gives_next, getD_put_same, and_true]

theorem registerWrite_logRing : Gives (exec (.registerWrite .logRing v) s) (fun t =>
    t = { s with ctl := { s.ctl with logRing := v.toNat % 2 ^ 52 / 64 * 64 } }) := ⟨_, rfl, rfl⟩

theorem registerWrite_logTake (h : s.svc.logWait = []) : Gives (exec (.registerWrite .logTake v) s) (fun t =>
    t = { s with svc := { s.svc with log := s.svc.log.drop v.toNat } }) := by
  simp only [exec, execRegisterWrite, gives_next, State.takeRecords, h, List.foldl]

end

/-! ### The setting of a partition -/

section
variable {s : State} {n w : Nat} {x : BitVec 32}

theorem pctlWrite_refused (h : s.pctlOk n (pctlStored x.toNat) = false) : exec (.pctlWrite n x) s = .next s := by
  simp [exec, execPctlWrite, h]

theorem wake_frame (s : State) (p : Nat) : (s.wake p).ctl = s.ctl ∧ (s.wake p).svc = s.svc ∧
    (s.wake p).cohorts = s.cohorts ∧ (s.wake p).mem = s.mem := by
  unfold State.wake
  dsimp only
  (repeat' split) <;> exact ⟨rfl, rfl, rfl, rfl⟩

/-- A setting that is made at once: the record of what was measured starts anew where the partition comes to be. -/
theorem setPctl_gives (hw : w < 2 ^ 32) :
    (s.setPctl n w).pctlOf n = w ∧ (∀ k, k ≠ n → (s.setPctl n w).pctlOf k = s.pctlOf k) ∧
    (s.setPctl n w).cohorts = s.cohorts ∧ (s.setPctl n w).mem = s.mem ∧
    (pte w 7 1 = 1 → pte (s.pctlOf n) 7 1 = 0 →
      ((s.setPctl n w).attest n).record = 0 ∧ ((s.setPctl n w).attest n).count = 0) := by
  unfold State.setPctl
  extract_lets old here _ s₁ s₂
  obtain ⟨hctl, hsvc, hcoh, hmem⟩ : (if here then s₂.wake n else s₂).ctl = s₁.ctl ∧
      (if here then s₂.wake n else s₂).svc = s₂.svc ∧ (if here then s₂.wake n else s₂).cohorts = s.cohorts ∧
      (if here then s₂.wake n else s₂).mem = s.mem := by
    have h₂ : s₂.ctl = s₁.ctl ∧ s₂.cohorts = s.cohorts ∧ s₂.mem = s.mem := by
      unfold s₂
      split <;> exact ⟨rfl, rfl, rfl⟩
    obtain ⟨hctl, hsvc, hcoh, hmem⟩ := wake_frame s₂ n
    obtain ⟨hctl', hcoh', hmem'⟩ := h₂
    split
    · exact ⟨hctl.trans hctl', hsvc, hcoh.trans hcoh', hmem.trans hmem'⟩
    · exact ⟨hctl', rfl, hcoh', hmem'⟩
  refine ⟨?_, fun k hk => ?_, hcoh, hmem, fun hw7 hold => ?_⟩
  · rw [State.pctlOf, hctl]
    exact toNat_getD_put _ _ hw
  · rw [State.pctlOf, hctl, State.pctlOf]
    exact congrArg BitVec.toNat (getD_put_other _ _ _ hk)
  · have h₂ : s₂ = s₁.modAttest n (fun a => { a with record := 0, count := 0 }) :=
      if_pos ⟨by simp [here, hw7], hold⟩
    rw [State.attest, hsvc, h₂]
    simp [State.modAttest]

theorem endTurn_gives {share p : Nat} {next : Option Nat} : 
    ((s.endTurn share p next).share share).running = none ∧ ((s.endTurn share p next).share share).phase = .halt ∧
    ((s.endTurn share p next).share share).out = p ∧
    getD (s.endTurn share p next).ctl.acct p 0 = (getD s.ctl.acct p 0 + (s.time - (s.share share).since)) % 2 ^ 64 := by
  simp [State.endTurn, State.modShare, State.share, State.chargeTime, getD_set]

theorem leaveShare_frame (s : State) (share p : Nat) : (s.leaveShare share p).ctl.pctl = s.ctl.pctl ∧
    (s.leaveShare share p).ctl.pctlHold = s.ctl.pctlHold ∧ (s.leaveShare share p).cohorts = s.cohorts ∧
    (s.leaveShare share p).mem = s.mem := by
  unfold State.leaveShare
  dsimp only
  split <;> exact ⟨rfl, rfl, rfl, rfl⟩

/-- A partition whose setting waits, and that has its turn, ends it: the time is charged, the slice is over (R409, R410). -/
theorem leaveShare_gives {share p : Nat} (hph : (s.share share).phase = .idle) (hrun : (s.share share).running = some p)
    (hhold : (look s.ctl.pctlHold p).isSome) :
    ((s.leaveShare share p).share share).running = none ∧ ((s.leaveShare share p).share share).phase = .halt ∧
    ((s.leaveShare share p).share share).out = p ∧ getD (s.leaveShare share p).ctl.acct p 0 =
      (getD s.ctl.acct p 0 + ((s.leaveShare share p).time - (s.share share).since)) % 2 ^ 64 := by
  have h : s.leaveShare share p = s.tick.endTurn share p (s.tick.follower share p) := if_pos ⟨hph, hrun, hhold⟩
  rw [h]
  exact endTurn_gives

/-- The setting takes the partition from the share where it has its turn, or ends its existence there. -/
def State.pctlLeaves (s : State) (n w : Nat) : Prop :=
  s.onShare (s.shareOf n) n = true ∧ (pte w 7 1 = 0 ∨ pte w 0 5 ≠ s.shareOf n)

theorem pctlWrite_now (hn : n < Config.parts) (hok : s.pctlOk n (pctlStored x.toNat) = true)
    (hl : ¬ s.pctlLeaves n x.toNat) : exec (.pctlWrite n x) s = .next (s.setPctl n (pctlStored x.toNat)) := by
  change execPctlWrite n x s = _
  unfold execPctlWrite
  dsimp only
  rw [if_neg (not_or.2 ⟨Nat.not_le.2 hn, by rw [hok]; decide⟩), pte_pctlStored_share, pte_pctlStored_here]
  exact congrArg _ (if_neg hl)

theorem pctlWrite_leaves (hn : n < Config.parts) (hok : s.pctlOk n (pctlStored x.toNat) = true)
    (hl : s.pctlLeaves n x.toNat) : exec (.pctlWrite n x) s = .next (({ s with ctl := { s.ctl with
      pctlHold := set s.ctl.pctlHold n (BitVec.ofNat 32 (pctlStored x.toNat)) } } : State).leaveShare (s.shareOf n) n) := by
  change execPctlWrite n x s = _
  unfold execPctlWrite
  dsimp only
  rw [if_neg (not_or.2 ⟨Nat.not_le.2 hn, by rw [hok]; decide⟩), pte_pctlStored_share, pte_pctlStored_here]
  exact congrArg _ (if_pos hl)

theorem pctlWrite_now_gives (hn : n < Config.parts) (hok : s.pctlOk n (pctlStored x.toNat) = true)
    (hl : ¬ s.pctlLeaves n x.toNat) : Gives (exec (.pctlWrite n x) s) (fun t =>
      t.pctlOf n = pctlStored x.toNat ∧ (∀ k, k ≠ n → t.pctlOf k = s.pctlOf k) ∧
      t.cohorts = s.cohorts ∧ t.mem = s.mem ∧
      (pte x.toNat 7 1 = 1 → pte (s.pctlOf n) 7 1 = 0 → (t.attest n).record = 0 ∧ (t.attest n).count = 0)) := by
  rw [pctlWrite_now hn hok hl, gives_next, ← pte_pctlStored_here]
  exact setPctl_gives (pctlStored_lt _)

theorem pctlWrite_leaves_gives (hn : n < Config.parts) (hok : s.pctlOk n (pctlStored x.toNat) = true)
    (hl : s.pctlLeaves n x.toNat) : Gives (exec (.pctlWrite n x) s) (fun t => t.ctl.pctl = s.ctl.pctl ∧
      look t.ctl.pctlHold n = some (BitVec.ofNat 32 (pctlStored x.toNat)) ∧ t.cohorts = s.cohorts ∧ t.mem = s.mem ∧
      ((s.share (s.shareOf n)).phase = .idle → (s.share (s.shareOf n)).running = some n →
        (t.share (s.shareOf n)).running = none ∧ (t.share (s.shareOf n)).phase = .halt ∧ (t.share (s.shareOf n)).out = n ∧
        getD t.ctl.acct n 0 = (getD s.ctl.acct n 0 + (t.time - (s.share (s.shareOf n)).since)) % 2 ^ 64)) := by
  rw [pctlWrite_leaves hn hok hl, gives_next]
  obtain ⟨hpctl, hhold, hcoh, hmem⟩ := leaveShare_frame ({ s with ctl := { s.ctl with
    pctlHold := set s.ctl.pctlHold n (BitVec.ofNat 32 (pctlStored x.toNat)) } } : State) (s.shareOf n) n
  refine ⟨hpctl, ?_, hcoh, hmem, fun hph hrun => leaveShare_gives hph hrun (by simp)⟩
  rw [hhold, look_set_same]

end

/-! ### The setting of a core share -/

section
variable {s : State} {n : Nat} {v : BitVec 64}

theorem cshareWrite_refused (h : s.cshareOk n (v.toNat % 2 ^ 60) = false) : exec (.cshareWrite n v) s = .next s := by
  change execCshareWrite n v s = _
  unfold execCshareWrite
  extract_lets w _ u ps
  rw [if_pos (Or.inr (by rw [h]; rfl))]

theorem cshareWrite_gives (hn : n < 20) (h : s.cshareOk n (v.toNat % 2 ^ 60) = true) :
    Gives (exec (.cshareWrite n v) s) (fun t => t.cshareOf n = v.toNat % 2 ^ 60 ∧
      (∀ k, k ≠ n → t.cshareOf k = s.cshareOf k) ∧ s.SameRegs t) := by
  change Gives (execCshareWrite n v s) _
  unfold execCshareWrite
  extract_lets w _ u ps
  rw [gives_next, if_neg (not_or.2 ⟨Nat.not_le.2 hn, by rw [h]; decide⟩)]
  generalize hc : u.cores.foldl (fun s e => ps.foldl (fun s p => s.l1Trim ⟨0, e.1, p⟩) s) u = t
  have hctl : t.ctl.cshare = u.ctl.cshare := by
    rw [← State.controls_cshare, ← State.controls_cshare, ← hc]
    simp
  have hcoh : t.cohorts = s.cohorts := by
    rw [← hc]
    simp [u]
  refine ⟨?_, fun k hk => ?_, fun j => by simp only [State.coh, hcoh, and_self]⟩
  · rw [State.cshareOf, hctl]
    exact toNat_getD_put _ _ (by omega)
  · rw [State.cshareOf, hctl, State.cshareOf]
    exact congrArg BitVec.toNat (getD_put_other _ _ _ hk)
end

/-- Settles O47, register by register. -/
theorem controlRegisters : Obligations.ControlRegisters := by
  unfold Obligations.ControlRegisters
  intro s n v x f a w
  refine ⟨registerWrite_tctx, fun hn => ⟨registerWrite_tierctl hn, registerWrite_txctl hn, registerWrite_stallctl hn,
    registerWrite_schedctl hn, registerWrite_saveArea hn, registerWrite_evictArea hn, ?_, registerWrite_logTake,
    registerWrite_logRing, fun h => ?_⟩, registerWrite_defPoint,
    fun hn => ⟨cshareWrite_gives hn, cshareWrite_refused⟩⟩
  · intro here leaves stored hok
    have hs : pctlStored w = stored := pctlStored_eq w
    rw [← hs] at hok ⊢
    exact ⟨pctlWrite_now_gives hn hok, pctlWrite_leaves_gives hn hok⟩
  · exact pctlWrite_refused (by rw [pctlStored_eq]; exact h)

end Sys2Proof.Machine
end

section
/-! PROOF. The state at reset (O55), and the points that dies run at (O41). -/

namespace Sys2Proof.Machine

/-- Settles O55: an empty register file reads the reset value at every number. -/
theorem resetState : Obligations.ResetState := by
  unfold Obligations.ResetState
  extract_lets s
  have disabled : ∀ n, s.pctlOf n / 2 ^ 7 % 2 = 0 := fun n => by
    change (0x0003E800#32).toNat / 2 ^ 7 % 2 = 0
    decide
  exact ⟨reset_memWf, rfl, rfl, rfl, rfl, rfl, rfl, fun _ => rfl, fun _ => rfl, disabled, fun _ => rfl,
    fun _ => ⟨rfl, rfl, rfl, rfl⟩, rfl, rfl, rfl, rfl, rfl, rfl, rfl, rfl, rfl⟩

/-! ### Operating points -/

@[simp] theorem State.event_ctl (s : State) (part kind source m : Nat) (arg0 arg1 : DWord) :
    (s.event part kind source m arg0 arg1).ctl = s.ctl :=
  foldl_invariant (fun t : State => t.ctl = s.ctl) rfl fun _ _ ht => ht

@[simp] theorem State.event_cohorts (s : State) (part kind source m : Nat) (arg0 arg1 : DWord) :
    (s.event part kind source m arg0 arg1).cohorts = s.cohorts :=
  foldl_invariant (fun t : State => t.cohorts = s.cohorts) rfl fun _ _ ht => ht

@[simp] theorem State.pointEvent_ctl (s : State) (die new : Nat) : (s.pointEvent die new).ctl = s.ctl :=
  foldl_invariant (fun t : State => t.ctl = s.ctl) rfl fun _ _ ht => (State.event_ctl ..).trans ht

@[simp] theorem State.pointEvent_cohorts (s : State) (die new : Nat) : (s.pointEvent die new).cohorts = s.cohorts :=
  foldl_invariant (fun t : State => t.cohorts = s.cohorts) rfl fun _ _ ht => (State.event_cohorts ..).trans ht

theorem State.launchRun_point (s : State) : s.launchRun.ctl.point = s.ctl.point :=
  show s.launchRun.controls.point = _ by rw [State.launchRun_controls]; rfl

theorem State.launchRun_limit (s : State) : s.launchRun.ctl.limit = s.ctl.limit :=
  show s.launchRun.controls.limit = _ by rw [State.launchRun_controls]; rfl

/-- What a pass over numbers leaves at each of them, where the pass at one number changes what is read there and nowhere else. -/
theorem foldl_reads {β : Type} {read : State → Nat → β} {f : State → Nat → State} {g : Nat → β → β}
    (same : ∀ s d, read (f s d) d = g d (read s d)) (other : ∀ s d j, j ≠ d → read (f s d) j = read s j) {l : List Nat}
    (nodup : l.Nodup) (s : State) (j : Nat) : read (l.foldl f s) j = if j ∈ l then g j (read s j) else read s j := by
  induction l generalizing s with
  | nil => simp
  | cons d l ih =>
    obtain ⟨hd, hl⟩ := List.nodup_cons.1 nodup
    rw [List.foldl_cons, ih hl]
    by_cases hj : j = d
    · subst hj
      simp [hd, same]
    · simp [hj, other]

/-- The least number of a pass lies below a bound just where one of them does. -/
theorem foldl_min_lt {f : Nat → Nat} {l : List Nat} {m p : Nat} :
    l.foldl (fun m d => min m (f d)) m < p ↔ m < p ∨ ∃ d ∈ l, f d < p := by
  induction l generalizing m with
  | nil => simp
  | cons d l ih => simp [ih, or_assoc]

/-- The point of a die and how far the power controller holds it down (R14, R17). -/
def State.rail (s : State) (d : Nat) : Nat × Nat := (getD s.ctl.point d 0, getD s.ctl.limit d 0)

/-- One die at a step down, `low` being the lowest point that is asked for. -/
def State.dieDown (low : Nat) (s : State) (d : Nat) : State :=
  let p := getD s.ctl.point d 0
  if low < p then
    let s := s.setLimit d (15 - (p - 1))
    ({ s with ctl := { s.ctl with point := put s.ctl.point d (p - 1) 0 } } : State).pointEvent d (p - 1)
  else s

/-- One die at a step up. -/
def State.dieUp (s : State) (d : Nat) : State :=
  let l := getD s.ctl.limit d 0
  let p := getD s.ctl.point d 0
  if l = 0 then s
  else
    let t := s.setLimit d (l - 1)
    if p = s.capOf d ∧ p < getD s.ctl.want d 0 then t.pointEvent d (p + 1) else t

theorem stepDown_eq (s : State) : exec .powerLimitStepDown s = .next ((List.range Config.dies).foldl
    (State.dieDown ((List.range Config.dies).foldl (fun m d => min m (getD s.ctl.want d 0)) 15)) s) := rfl

theorem stepUp_eq (s : State) : exec .powerLimitStepUp s = .next ((List.range Config.dies).foldl State.dieUp s) := rfl

theorem rail_dieDown (low : Nat) (s : State) (d : Nat) : (s.dieDown low d).rail d =
    if low < (s.rail d).1 then ((s.rail d).1 - 1, 15 - ((s.rail d).1 - 1)) else s.rail d := by
  unfold State.dieDown State.rail
  dsimp only
  split <;> simp [State.setLimit]

theorem rail_dieDown_other (low : Nat) (s : State) (d j : Nat) (h : j ≠ d) : (s.dieDown low d).rail j = s.rail j := by
  unfold State.dieDown State.rail
  dsimp only
  split <;> simp [State.setLimit, getD_put_other _ _ _ h]

theorem dieDown_frame (low : Nat) (s : State) (d : Nat) : (s.dieDown low d).ctl.want = s.ctl.want ∧
    (s.dieDown low d).cohorts = s.cohorts := by
  unfold State.dieDown
  dsimp only
  split <;> simp [State.setLimit]

theorem dieUp_frame (s : State) (d : Nat) : (s.dieUp d).ctl = { s.ctl with limit := (s.dieUp d).ctl.limit } ∧
    (s.dieUp d).cohorts = s.cohorts := by
  unfold State.dieUp
  dsimp only
  (repeat' split) <;> simp [State.setLimit]

theorem limit_dieUp (s : State) (d : Nat) : getD (s.dieUp d).ctl.limit d 0 = getD s.ctl.limit d 0 - 1 := by
  unfold State.dieUp
  dsimp only
  split
  · omega
  · split <;> simp [State.setLimit]

theorem limit_dieUp_other (s : State) (d j : Nat) (h : j ≠ d) :
    getD (s.dieUp d).ctl.limit j 0 = getD s.ctl.limit j 0 := by
  unfold State.dieUp
  dsimp only
  (repeat' split) <;> simp [State.setLimit, getD_put_other _ _ _ h]

theorem railsSettled_gives {s : State} {die : Nat} (h : die < Config.dies) : Gives (exec (.railsSettled die) s) (fun t =>
    getD t.ctl.point die 0 = min (getD s.ctl.want die 0) (15 - getD s.ctl.limit die 0) ∧
    (∀ d, d ≠ die → getD t.ctl.point d 0 = getD s.ctl.point d 0) ∧ t.ctl.limit = s.ctl.limit) := by
  change Gives (execRailsSettled die s) _
  rw [execRailsSettled, if_neg (Nat.not_le.2 h), gives_next, State.launchRun_point, State.launchRun_limit]
  exact ⟨getD_put_same .., fun d hd => getD_put_other _ _ _ hd, rfl⟩

theorem stepDown_gives {s : State} (hw : ∀ d < Config.dies, getD s.ctl.want d 0 ≤ 15) :
    Gives (exec .powerLimitStepDown s) (fun t => (∀ d < Config.dies,
      ((∃ e < Config.dies, getD s.ctl.want e 0 < getD s.ctl.point d 0) →
        getD t.ctl.point d 0 = getD s.ctl.point d 0 - 1 ∧ getD t.ctl.limit d 0 = 15 - getD t.ctl.point d 0) ∧
      ((∀ e < Config.dies, getD s.ctl.point d 0 ≤ getD s.ctl.want e 0) →
        getD t.ctl.point d 0 = getD s.ctl.point d 0 ∧ getD t.ctl.limit d 0 = getD s.ctl.limit d 0)) ∧
      t.ctl.want = s.ctl.want ∧ t.cohorts = s.cohorts ∧ t.mem = s.mem) := by
  have hmem := execPowerLimitStepDown_leaves s _ (stepDown_eq s)
  rw [stepDown_eq, gives_next]
  have hlow (p : Nat) : (List.range Config.dies).foldl (fun m d => min m (getD s.ctl.want d 0)) 15 < p ↔
      ∃ e < Config.dies, getD s.ctl.want e 0 < p := by
    simp only [foldl_min_lt, List.mem_range, or_iff_right_iff_imp]
    exact fun hp => ⟨0, by decide, by have := hw 0 (by decide); omega⟩
  generalize (List.range Config.dies).foldl (fun m d => min m (getD s.ctl.want d 0)) 15 = low at hlow hmem
  obtain ⟨hwant, hcoh⟩ := foldl_invariant (fun t : State => t.ctl.want = s.ctl.want ∧ t.cohorts = s.cohorts)
    (l := List.range Config.dies) (f := State.dieDown low) ⟨rfl, rfl⟩ fun t d ⟨h1, h2⟩ =>
      ⟨(dieDown_frame low t d).1.trans h1, (dieDown_frame low t d).2.trans h2⟩
  refine ⟨fun d hd => ?_, hwant, hcoh, congrArg Prod.fst hmem⟩
  have hr := foldl_reads (g := fun _ r => if low < r.1 then (r.1 - 1, 15 - (r.1 - 1)) else r) (rail_dieDown low)
    (rail_dieDown_other low) (List.nodup_range (n := Config.dies)) s d
  rw [if_pos (List.mem_range.2 hd)] at hr
  generalize (List.range Config.dies).foldl (State.dieDown low) s = t at hr
  refine ⟨fun above => ?_, fun below => ?_⟩
  · rw [if_pos (show low < (s.rail d).1 from (hlow _).2 above)] at hr
    obtain ⟨hp, hl⟩ := Prod.mk.inj (hr : (_, _) = (_, _))
    exact ⟨hp, hl.trans (congrArg (15 - ·) hp.symm)⟩
  · rw [if_neg (show ¬ low < (s.rail d).1 from mt (hlow _).1 fun ⟨e, he, hlt⟩ => Nat.not_le.2 hlt (below e he))] at hr
    exact Prod.mk.inj (hr : (_, _) = (_, _))

theorem stepUp_gives (s : State) : Gives (exec .powerLimitStepUp s) (fun t =>
    (∀ d < Config.dies, getD t.ctl.limit d 0 = getD s.ctl.limit d 0 - 1) ∧ t.ctl.point = s.ctl.point ∧
    t.ctl.want = s.ctl.want ∧ t.cohorts = s.cohorts ∧ t.mem = s.mem) := by
  have hmem := execPowerLimitStepUp_leaves s _ (stepUp_eq s)
  rw [stepUp_eq, gives_next]
  obtain ⟨hpoint, hwant, hcoh⟩ := foldl_invariant (l := List.range Config.dies) (f := State.dieUp)
    (fun t : State => t.ctl.point = s.ctl.point ∧ t.ctl.want = s.ctl.want ∧ t.cohorts = s.cohorts) ⟨rfl, rfl, rfl⟩
    fun t d ⟨h1, h2, h3⟩ => by
      obtain ⟨hctl, hcoh⟩ := dieUp_frame t d
      exact ⟨(congrArg Ctl.point hctl).trans h1, (congrArg Ctl.want hctl).trans h2, hcoh.trans h3⟩
  refine ⟨fun d hd => ?_, hpoint, hwant, hcoh, congrArg Prod.fst hmem⟩
  have hr := foldl_reads (read := fun s d => getD s.ctl.limit d 0) (g := fun _ l => l - 1) limit_dieUp limit_dieUp_other
    (List.nodup_range (n := Config.dies)) s d
  rw [hr, if_pos (List.mem_range.2 hd)]

/-- Settles O41: each die is read and changed by itself. -/
theorem operatingPoints : Obligations.OperatingPoints := by
  unfold Obligations.OperatingPoints
  intro s die
  exact ⟨railsSettled_gives, stepDown_gives, stepUp_gives s⟩

end Sys2Proof.Machine
end

section
/-! PROOF. What writes of memory at its home, caches and aborted transactions leave as it is. -/

namespace Sys2Proof.Machine

/-- What the service side keeps through reads and writes of memory: all but the lists of damaged words. -/
def Svc.kept (v : Svc) : Svc := { v with bad := [], badL2 := [], badBank := [], badOper := [] }

/-- The register files of each cohort. -/
def filesOf (m : List (Nat × Cohort)) (j : Nat) : SMap Word × SMap DWord × SMap LaneMask :=
  ((getD m j .blank).regs, (getD m j .blank).sregs, (getD m j .blank).preds)

/-- Where each cohort stands: its place and its block. -/
def standsOf (m : List (Nat × Cohort)) (j : Nat) : Place × Nat := ((getD m j .blank).place, (getD m j .blank).block)

/-- A block has a cohort that has not ended. -/
def livelyOf (m : List (Nat × Cohort)) (b : Nat) : Prop := ∃ e ∈ m, e.2.block = b ∧ e.2.isOver = false

/-- The op table of each core. -/
def optsOf (m : List (Nat × Core)) (k : Nat) : List (Nat × Opt) := (getD m k .blank).opt

/-- What memory writes at their homes, caches, and aborted transactions leave as it is. -/
structure Steady where
  files : Nat → SMap Word × SMap DWord × SMap LaneMask
  stands : Nat → Place × Nat
  lively : Nat → Prop
  opts : Nat → List (Nat × Opt)
  bank : List Host.Cell
  blocks : List (Nat × Block)
  grids : List (Nat × Grid)
  own : List (Nat × Own)
  tier : Tier
  late : List LateWrite
  fab : Fab
  traps : Traps
  ctl : Ctl
  svc : Svc
  time : Nat

def State.steady (s : State) : Steady :=
  ⟨filesOf s.cohorts, standsOf s.cohorts, livelyOf s.cohorts, optsOf s.cores, s.bank, s.blocks, s.grids, s.own, s.tier, s.late,
    s.fab, s.traps, s.controls, s.svc.kept, s.time⟩

/-- A change of what is not kept track of. -/
theorem steady_rest (s : State) {mem placed cluTlb constC l2 walkC mvWaits ewr ops pulls transit walks invals kiosk harts queues
    qwaits shares serials cur agenda fresh} : (State.mk s.ctl mem s.own s.bank s.cohorts s.blocks placed s.grids s.cores cluTlb
      constC l2 walkC s.late mvWaits ewr ops pulls transit walks invals kiosk harts s.traps queues qwaits s.tier s.fab s.svc
      shares serials cur agenda s.time fresh).steady = s.steady := rfl

theorem steady_ite (c : Prop) [Decidable c] (s t : State) :
    (if c then s else t).steady = if c then s.steady else t.steady := apply_ite _ _ _ _

theorem snd_steady_ite {α : Type} (c : Prop) [Decidable c] (s t : α × State) :
    (if c then s else t).2.steady = if c then s.2.steady else t.2.steady := by split <;> rfl

theorem foldl_steady {α : Type} (f : State → α → State) (hf : ∀ s x, (f s x).steady = s.steady) (l : List α)
    (s : State) : (l.foldl f s).steady = s.steady :=
  foldl_invariant (fun t => t.steady = s.steady) rfl fun t x ht => (hf t x).trans ht

theorem steady_badL2 (s : State) (l : List Nat) :
    ({ s with svc := { s.svc with badL2 := l } } : State).steady = s.steady := rfl

theorem steady_granted (s : State) (g : SMap Nat) :
    ({ s with ctl := { s.ctl with granted := g } } : State).steady = s.steady := rfl

/-! ### Memory, slices and caches -/

theorem State.next_steady (s : State) : s.next.steady = s.steady := rfl

theorem State.charge_steady (s : State) (part pa n : Nat) : (s.charge part pa n).steady = s.steady := by
  simp only [State.charge]
  split <;> rfl

theorem State.chargeOwner_steady (s : State) (pa n : Nat) : (s.chargeOwner pa n).steady = s.steady := by
  unfold State.chargeOwner
  split
  · exact State.charge_steady ..
  · rfl

theorem State.markBad_steady (s : State) (w : Nat) : (s.markBad w).steady = s.steady := by
  unfold State.markBad
  split <;> rfl

theorem State.l2Bad_steady (s : State) (x : Nat) (held write : Bool) : (s.l2Bad x held write).steady = s.steady := by
  simp only [State.l2Bad, steady_ite, foldl_steady, State.markBad_steady, steady_badL2, ite_self, implies_true]

theorem State.l2Room_steady (s : State) (line : Nat) (ls : List L2Line) : (s.l2Room line ls).2.steady = s.steady := by
  simp only [State.l2Room]
  (repeat' split) <;> simp only [State.next_steady, State.chargeOwner_steady]

theorem State.l2Sector_steady (s : State) (x : Nat) (write free : Bool) : (s.l2Sector x write free).steady = s.steady := by
  simp only [State.l2Sector, steady_ite, steady_rest, snd_steady_ite, State.l2Room_steady, State.l2Bad_steady,
    State.chargeOwner_steady, ite_self]

theorem State.l2Read_steady (s : State) (pa n : Nat) : (s.l2Read pa n).steady = s.steady :=
  foldl_steady _ (fun _ _ => State.l2Sector_steady ..) _ _

theorem State.l2Write_steady (s : State) (pa n : Nat) : (s.l2Write pa n).steady = s.steady :=
  foldl_steady _ (fun _ _ => State.l2Sector_steady ..) _ _

theorem State.atomicAt_steady (s : State) (pa n : Nat) : (s.atomicAt pa n).steady = s.steady :=
  (foldl_steady _ (fun _ _ => State.l2Sector_steady ..) _ _).trans (State.chargeOwner_steady ..)

theorem State.hartAbort_steady (s : State) (h : Nat) (code sub : BitVec 8) : (s.hartAbort h code sub).steady = s.steady := by
  unfold State.hartAbort
  split <;> rfl

theorem State.conflictWrite_steady (s : State) (pa n : Nat) (except : Option Nat) :
    (s.conflictWrite pa n except).steady = s.steady := by
  simp only [State.conflictWrite, steady_ite, steady_rest, foldl_steady, State.hartAbort_steady, State.next_steady, ite_self,
    implies_true]

theorem State.repair_steady (s : State) (pa n : Nat) : (s.repair pa n).steady = s.steady := by
  unfold State.repair
  split <;> rfl

theorem State.repairBank_steady (s : State) (b n : Nat) : (s.repairBank b n).steady = s.steady := by
  unfold State.repairBank
  split <;> rfl

theorem State.homePut_steady (s : State) (pa n v : Nat) (except : Option Nat) :
    (s.homePut pa n v except).steady = s.steady := by
  simp only [State.homePut, State.repair_steady, steady_rest, State.conflictWrite_steady]

theorem State.homeWrite_steady (s : State) (pa n v : Nat) (except : Option Nat) :
    (s.homeWrite pa n v except).steady = s.steady := by
  simp only [State.homeWrite, State.l2Write_steady, State.homePut_steady]

/-- A core changes that keeps its op table. -/
theorem State.modCore_steady (s : State) (k : Nat) {f : Core → Core} (hf : ∀ c, (f c).opt = c.opt) :
    (s.modCore k f).steady = s.steady := by
  have h : optsOf (s.modCore k f).cores = optsOf s.cores := by
    funext j
    simp only [optsOf, State.modCore, State.core, getD_set]
    split
    · next hj => rw [hj, hf]
    · rfl
  exact congrArg (fun x => Steady.mk _ _ _ x _ _ _ _ _ _ _ _ _ _ _) h

theorem State.l1Stale_steady (s : State) (core part : Nat) (ss : List Nat) : (s.l1Stale core part ss).steady = s.steady :=
  State.modCore_steady _ _ fun _ => rfl

theorem State.l1Upd_steady (s : State) (core part sec : Nat) (f : L1Sec → L1Sec) : (s.l1Upd core part sec f).steady = s.steady :=
  State.modCore_steady _ _ fun _ => rfl

theorem State.leaveSets_steady (s : State) (core part sec : Nat) : (s.leaveSets core part sec).steady = s.steady :=
  State.modCore_steady _ _ fun _ => rfl

theorem State.drainWrites_steady (s : State) (f : EngWrite → Bool) : (s.drainWrites f).steady = s.steady := by
  simp only [State.drainWrites, foldl_steady, State.l1Stale_steady, State.homeWrite_steady, steady_rest, implies_true]

theorem State.wbSector_steady (s : State) (core part sec : Nat) : (s.wbSector core part sec).steady = s.steady := by
  unfold State.wbSector
  split
  · exact State.leaveSets_steady ..
  · simp only [State.leaveSets_steady, State.l1Upd_steady, foldl_steady, steady_ite, State.markBad_steady, State.repair_steady,
      State.l2Sector_steady, State.homePut_steady, ite_self, implies_true]

theorem State.wbSectors_steady (s : State) (core part : Nat) (l : List Nat) : (s.wbSectors core part l).steady = s.steady :=
  foldl_steady _ (fun _ _ => State.wbSector_steady ..) _ _

theorem State.wbAll_steady (s : State) (core part : Nat) : (s.wbAll core part).steady = s.steady := State.wbSectors_steady ..

theorem State.wbDrop_steady (s : State) (core part : Nat) (l : List Nat) : (s.wbDrop core part l).steady = s.steady := by
  unfold State.wbDrop
  exact (State.modCore_steady _ _ (by exact fun _ => rfl)).trans (State.wbSectors_steady ..)

theorem State.pullSet_steady (s : State) (core id : Nat) : (s.pullSet core id).steady = s.steady := by
  unfold State.pullSet
  split
  · rfl
  · exact State.wbSectors_steady ..

theorem State.pullAll_steady (s : State) (ts : List (Nat × Nat)) : (s.pullAll ts).steady = s.steady :=
  foldl_steady _ (fun _ _ => State.pullSet_steady ..) _ _

theorem State.l2Clean_steady (s : State) (f : Nat) : (s.l2Clean f).steady = s.steady := by
  simp only [State.l2Clean, steady_rest, foldl_steady, State.chargeOwner_steady, implies_true]

theorem State.l2Drop_steady (s : State) (f : Nat) : (s.l2Drop f).steady = s.steady := by
  simp only [State.l2Drop, steady_rest, State.l2Clean_steady]

theorem State.l2Empty_steady (s : State) (k : Nat) : (s.l2Empty k).steady = s.steady := by
  simp only [State.l2Empty, steady_rest, foldl_steady, State.chargeOwner_steady, implies_true]

theorem State.chargeFrame_steady (s : State) (part f : Nat) : (s.chargeFrame part f).steady = s.steady := by
  unfold State.chargeFrame
  exact foldl_steady _ (by exact fun _ _ => steady_granted _ _) _ _

/-! ### Cohorts whose transactions abort -/

/-- What an aborted attempt leaves of a cohort. -/
def Cohort.kept (k : Cohort) : (SMap Word × SMap DWord × SMap LaneMask) × (Place × Nat) × Bool :=
  ((k.regs, k.sregs, k.preds), (k.place, k.block), k.isOver)

theorem mem_of_look {α : Type} {m : List (Nat × α)} {k : Nat} {v : α} (h : look m k = some v) : (k, v) ∈ m := by
  induction m with
  | nil => exact nomatch h
  | cons e t ih =>
    simp only [look] at h
    split at h
    · next hk =>
      obtain rfl := Option.some.inj h
      exact hk ▸ List.mem_cons_self
    · exact List.mem_cons_of_mem _ (ih h)

theorem mem_set_self {α : Type} (m : List (Nat × α)) (k : Nat) (v : α) : (k, v) ∈ set m k v := by
  induction m with
  | nil => exact List.mem_cons_self
  | cons e t ih =>
    simp only [set]
    split
    · exact List.mem_cons_self
    · split
      · exact List.mem_cons_self
      · exact List.mem_cons_of_mem _ ih

/-- What a new value does not replace stays listed. -/
theorem mem_set_of_mem {α : Type} {m : List (Nat × α)} {k : Nat} {v : α} {e : Nat × α} (h : e ∈ m) :
    e ∈ set m k v ∨ look m k = some e.2 := by
  induction m with
  | nil => exact nomatch h
  | cons x t ih =>
    simp only [set, look]
    obtain rfl | he := List.mem_cons.mp h
    · split
      · exact Or.inl (List.mem_cons_of_mem _ List.mem_cons_self)
      · split
        · exact Or.inr rfl
        · exact Or.inl List.mem_cons_self
    · split
      · exact Or.inl (List.mem_cons_of_mem _ h)
      · split
        · exact Or.inl (List.mem_cons_of_mem _ he)
        · exact (ih he).imp (List.mem_cons_of_mem _) id

theorem livelyOf_upd {m : List (Nat × Cohort)} {c : Nat} {f : Cohort → Cohort}
    (hf : ∀ k, (f k).block = k.block ∧ (f k).isOver = k.isOver) (b : Nat) :
    livelyOf (upd m c f) b ↔ livelyOf m b := by
  unfold upd
  split
  · next v hv =>
    constructor
    · rintro ⟨e, he, h1, h2⟩
      obtain rfl | he := mem_set he
      · exact ⟨_, mem_of_look hv, (hf v).1 ▸ h1, (hf v).2 ▸ h2⟩
      · exact ⟨e, he, h1, h2⟩
    · rintro ⟨e, he, h1, h2⟩
      obtain he | he := mem_set_of_mem (k := c) (v := f v) he
      · exact ⟨e, he, h1, h2⟩
      · obtain rfl := Option.some.inj (hv.symm.trans he)
        exact ⟨_, mem_set_self _ _ _, (hf _).1.trans h1, (hf _).2.trans h2⟩
  · exact Iff.rfl

/-- A cohort changes in what is not kept track of. -/
theorem State.modCoh_steady (s : State) (c : Nat) {f : Cohort → Cohort} (hf : ∀ k, (f k).kept = k.kept) :
    (s.modCoh c f).steady = s.steady := by
  have h : ∀ j, (getD (upd s.cohorts c f) j .blank).kept = (getD s.cohorts j .blank).kept := fun j => by
    rw [getD_upd]
    split
    · next hj => rw [hf, hj.1]
    · rfl
  have hb : ∀ k, (f k).block = k.block ∧ (f k).isOver = k.isOver := fun k =>
    ⟨congrArg (·.2.1.2) (hf k), congrArg (·.2.2) (hf k)⟩
  have h1 : filesOf (upd s.cohorts c f) = filesOf s.cohorts := funext fun j => congrArg (·.1) (h j)
  have h2 : standsOf (upd s.cohorts c f) = standsOf s.cohorts := funext fun j => congrArg (·.2.1) (h j)
  have h3 : livelyOf (upd s.cohorts c f) = livelyOf s.cohorts := funext fun b => propext (livelyOf_upd hb b)
  simp only [State.steady, State.modCoh, h1, h2, h3]
  rfl

theorem Cohort.kept_of_bare {k j : Cohort} (h : k.bare = j.bare) : k.kept = j.kept :=
  show k.bare.kept = j.bare.kept from congrArg Cohort.kept h

theorem State.unwait_steady (s : State) (c : Nat) (m : LaneMask) : (s.unwait c m).steady = s.steady := by
  unfold State.unwait
  split <;> rfl

theorem State.arrive_steady (s : State) (c : Nat) (ls : List (Nat × DWord)) (fall : Bool) :
    (s.arrive c ls fall).steady = s.steady :=
  State.modCoh_steady _ _ fun _ => Cohort.kept_of_bare (by rw [Cohort.bare_settle, Cohort.bare_foldl_arriveLane])

theorem State.drop_steady (s : State) (m : LaneMask) : (s.drop m).steady = s.steady := rfl

theorem State.txAbort_steady (s : State) (c l : Nat) (code sub : BitVec 8) : (s.txAbort c l code sub).steady = s.steady := by
  have h : ∀ (t : State) (r : Tx), (t.modCoh c (fun k => { k.leaveRegion (oneLane l) with tx := set k.tx l r })).steady = t.steady :=
    fun _ _ => State.modCoh_steady _ _ (by exact fun _ => rfl)
  simp only [State.txAbort, steady_ite, State.drop_steady, State.arrive_steady, h, State.unwait_steady, ite_self]

theorem State.clearFrame_steady (s : State) (f : Nat) : (s.clearFrame f).steady = s.steady := by
  simp only [State.clearFrame, foldl_steady, State.txAbort_steady, State.hartAbort_steady, State.next_steady, steady_rest,
    State.l2Clean_steady, State.wbDrop_steady, State.drainWrites_steady, implies_true]

theorem State.damageL1_steady (s : State) (core pa : Nat) : (s.damageL1 core pa).steady = s.steady := by
  unfold State.damageL1
  refine (foldl_steady _ (by exact fun _ _ => foldl_steady _ (fun _ _ => State.txAbort_steady ..) _ _) _ _).trans ?_
  exact State.modCore_steady _ _ (by exact fun _ => rfl)

theorem State.damage_steady (s : State) (unit : BitVec 8) (src pa : Nat) : (s.damage unit src pa).steady = s.steady := by
  unfold State.damage
  dsimp only
  cases arrayKey pa with
  | some k =>
    dsimp only
    (repeat' split) <;> rfl
  | none =>
    dsimp only
    rw [steady_ite, State.damageL1_steady, steady_ite, steady_ite, steady_ite, steady_ite, State.markBad_steady,
      steady_badL2 s (s.svc.badL2 ++ [pa / 8 * 8])]
    simp only [ite_self]

theorem State.sliceAbort_steady (s : State) (die k : Nat) : (s.sliceAbort die k).steady = s.steady :=
  foldl_steady _ (fun _ _ => State.hartAbort_steady ..) _ _

theorem sameRegs_of_steady {s t : State} (h : t.steady = s.steady) : s.SameRegs t := fun j => by
  have := congrFun (congrArg Steady.files h) j
  simp only [State.steady, filesOf, Prod.mk.injEq] at this
  exact this

end Sys2Proof.Machine
end

section
/-! PROOF. The error log (R439): what a record changes, and what it leaves. -/

namespace Sys2Proof.Machine

/-! ### Writes at home -/

theorem State.homePut_mem (s : State) (pa n v : Nat) (except : Option Nat) :
    (s.homePut pa n v except).mem = putBytes s.mem pa n v := by
  have hc : (s.conflictWrite pa n except).mem = s.mem := congrArg Prod.fst (State.conflictWrite_bytes ..)
  have hr : ∀ t : State, (t.repair pa n).mem = t.mem := fun t => congrArg Prod.fst (State.repair_bytes ..)
  unfold State.homePut
  rw [hr]
  exact congrArg (putBytes · pa n v) hc

theorem State.homeWrite_mem (s : State) (pa n v : Nat) (except : Option Nat) :
    (s.homeWrite pa n v except).mem = putBytes s.mem pa n v :=
  (congrArg Prod.fst (State.l2Write_bytes ..)).trans (State.homePut_mem ..)

theorem bytesAt_of_mem {s t : State} {a n v : Nat} (h : t.mem = putBytes s.mem a n v) : s.BytesAt t a n v := fun x => by
  rw [h, getD_putBytes]

theorem State.norm_congr {s t : State} (h : t.controls = s.controls) (pa : Nat) : t.norm pa = s.norm pa := by
  have : t.ctl.pkg = s.ctl.pkg := show t.controls.pkg = s.controls.pkg by rw [h]
  simp only [State.norm, this]

/-! ### Events of a partition -/

theorem State.lt_tick_time (s : State) : s.time < s.tick.time := by
  simp only [State.tick]
  omega

/-- The state with other virtual functions. -/
def State.withVfs (s : State) (l : List (Nat × Vf)) : State := { s with svc := { s.svc with vfs := l } }

/-- An event changes the virtual functions and the clock. -/
theorem State.event_eq (s : State) (part kind source m : Nat) (arg0 arg1 : DWord) :
    ∃ l, s.event part kind source m arg0 arg1 = s.tick.withVfs l :=
  foldl_invariant (fun t : State => ∃ l, t = s.tick.withVfs l) ⟨s.svc.vfs, rfl⟩ fun _ _ ⟨l, ht⟩ => by
    subst ht
    exact ⟨_, rfl⟩

theorem State.event_time (s : State) (part kind source m : Nat) (arg0 arg1 : DWord) :
    (s.event part kind source m arg0 arg1).time = s.tick.time := by
  obtain ⟨l, hl⟩ := s.event_eq part kind source m arg0 arg1
  rw [hl]
  rfl

theorem vf_modVf (s : State) (n j : Nat) (f : Vf → Vf) : (s.modVf n f).vf j = if j = n then f (s.vf n) else s.vf j :=
  getD_set ..

theorem vf_foldl_modVf (f : Vf → Vf) (l : List Nat) (hl : l.Nodup) (s : State) (j : Nat) :
    (l.foldl (fun s n => s.modVf n f) s).vf j = if j ∈ l then f (s.vf j) else s.vf j :=
  foldl_reads (read := State.vf) (f := fun s n => s.modVf n f) (g := fun _ => f) (fun s d => by rw [vf_modVf, if_pos rfl])
    (fun s d j h => by rw [vf_modVf, if_neg h]) hl s j

theorem State.vf_event (s : State) (part kind source m : Nat) (arg0 arg1 : DWord) {n : Nat} (hn : n ∈ s.vfsOf part) :
    (s.event part kind source m arg0 arg1).vf n =
      (s.vf n).addEvent ⟨kind, 0, source, m, s.tick.time % 2 ^ 64, arg0, arg1⟩ := by
  have nodup : (s.tick.vfsOf part).Nodup := List.Nodup.filter _ List.nodup_range
  have fixed : ∀ (l : List Nat) (u : State),
      l.foldl (fun (s : State) n => s.modVf n (fun v => v.addEvent ⟨kind, 0, source, m, s.time % 2 ^ 64, arg0, arg1⟩)) u =
      l.foldl (fun s n => s.modVf n (fun v => v.addEvent ⟨kind, 0, source, m, u.time % 2 ^ 64, arg0, arg1⟩)) u := by
    intro l
    induction l with
    | nil => exact fun _ => rfl
    | cons x l ih => exact fun u => ih _
  unfold State.event
  dsimp only
  rw [fixed, vf_foldl_modVf _ _ nodup, if_pos (show n ∈ s.tick.vfsOf part from hn)]
  rfl

theorem Vf.addEvent_events {v : Vf} (h : v.events.length < 256) (e : Event) : (v.addEvent e).events = v.events ++ [e] := by
  rw [Vf.addEvent, if_pos h]

/-! ### A record -/

/-- The corrected errors of a unit in the last second, n more among them. -/
def State.recent (s : State) (y : Byte) (z : BitVec 16) (n at_ : Nat) : BitVec 32 :=
  BitVec.ofNat 32 (n + ((s.svc.corrected.filter (fun q =>
    q.1 == y.toNat && q.2.1 == z.toNat && at_ < q.2.2.1 + 1000000000)).map (fun q => q.2.2.2)).sum)

/-- What a record of an error says. -/
def State.Tells (s : State) (e : ErrRec) (x y : Byte) (z : BitVec 16) (p : BitVec 5) (a : BitVec 64) (n : Nat) : Prop :=
  ∃ at_, s.time < at_ ∧ e.tstamp = at_ % 2 ^ 64 ∧ e.kind = x ∧ e.unit = y ∧ e.source = z ∧ e.part = p ∧ e.pa = a ∧
    e.count = s.recent y z n at_

/-- The clock has gone on, and the corrected errors are counted. -/
def State.counted (s : State) (kind unit : Byte) (source : BitVec 16) (n : Nat) : State :=
  let s := s.tick
  let recent := s.svc.corrected.filter (fun c => s.time < c.2.2.1 + 1000000000)
  { s with svc := { s.svc with
    corrected := if kind = 1 then recent ++ [(unit.toNat, source.toNat, s.time, max 1 n)] else recent
    failed := s.svc.failed || kind == 4 } }

/-- The record of an error, before it has a number and a place. -/
def State.newRec (s : State) (kind unit : Byte) (source : BitVec 16) (part : BitVec 5) (pa : BitVec 64) (n : Nat) : ErrRec :=
  ⟨kind, unit, source, part, s.tick.time % 2 ^ 64, pa, 0,
    BitVec.ofNat 32 ((s.counted kind unit source n).correctedOf unit.toNat source.toNat), 0⟩

theorem State.logError_eq {s : State} (h : s.svc.logWait = []) (kind unit : Byte) (source : BitVec 16) (part : BitVec 5)
    (pa : BitVec 64) (n : Nat) :
    s.logError kind unit source part pa n = (s.counted kind unit source n).logPut (s.newRec kind unit source part pa n) := by
  have hw : (s.counted kind unit source n).svc.logWait.isEmpty = true := by
    rw [show (s.counted kind unit source n).svc.logWait = [] from h]
    rfl
  show (if (s.counted kind unit source n).svc.logWait.isEmpty = true then _ else _) = _
  rw [if_pos hw]
  rfl

theorem foldl_add_eq_sum {α : Type} (f : α → Nat) (l : List α) : l.foldl (fun n c => n + f c) 0 = (l.map f).sum := by
  rw [List.sum_eq_foldl, List.foldl_map]

theorem State.correctedOf_counted (s : State) (kind unit : Byte) (source : BitVec 16) (n : Nat) :
    BitVec.ofNat 32 ((s.counted kind unit source n).correctedOf unit.toNat source.toNat) =
      s.recent unit source (if kind = 1 then max 1 n else 0) s.tick.time := by
  have old : (s.svc.corrected.filter (fun c => s.tick.time < c.2.2.1 + 1000000000)).filter (fun c =>
      c.1 == unit.toNat && c.2.1 == source.toNat && s.tick.time < c.2.2.1 + 1000000000) =
      s.svc.corrected.filter (fun c => c.1 == unit.toNat && c.2.1 == source.toNat && s.tick.time < c.2.2.1 + 1000000000) := by
    rw [List.filter_filter]
    congr 1
    funext c
    simp only [Bool.and_assoc, Bool.and_self]
  simp only [State.correctedOf, State.recent, foldl_add_eq_sum (fun c : Nat × Nat × Nat × Nat => c.2.2.2)]
  congr 1
  simp only [State.counted]
  split
  · rw [List.filter_append, List.map_append, List.sum_append]
    erw [old]
    have : s.tick.time < s.tick.time + 1000000000 := by omega
    simp only [List.filter_cons, List.filter_nil, beq_self_eq_true, Bool.true_and, this, decide_true, if_true,
      List.map_cons, List.map_nil, List.sum_cons, List.sum_nil]
    omega
  · erw [old]
    rw [Nat.zero_add]

theorem State.newRec_tells (s : State) (kind unit : Byte) (source : BitVec 16) (part : BitVec 5) (pa : BitVec 64) (n seq slot : Nat) :
    s.Tells { s.newRec kind unit source part pa n with
      seq := seq
      slot := slot } kind unit source part pa (if kind = 1 then max 1 n else 0) :=
  ⟨s.tick.time, s.lt_tick_time, rfl, rfl, rfl, rfl, rfl, rfl, s.correctedOf_counted kind unit source n⟩

/-! ### The ring -/

/-- The record with the next number at a place of the ring. -/
def State.placed_ (s : State) (r : ErrRec) (slot : Nat) : ErrRec := { r with
  seq := s.svc.logSeq
  slot := slot }

/-- The log with a record more. -/
def State.withRec (s : State) (r : ErrRec) (slot : Nat) : State := { s with svc := { s.svc with
  log := s.svc.log ++ [s.placed_ r slot]
  logSeq := (s.svc.logSeq + 1) % 2 ^ 32 } }

/-- A record in memory, where the ring has a place there. -/
def State.ringWrite (s : State) (r : ErrRec) : State :=
  if s.ctl.logRing = 0 then s else s.homeWrite (s.norm s.ctl.logRing + 64 * r.slot) 64 r.bytes none

theorem State.logEnter_eq (s : State) (r : ErrRec) (slot : Nat) : s.logEnter r slot =
    let u := (s.withRec r slot).ringWrite (s.placed_ r slot)
    if r.kind = 2 ∧ r.part ≠ 31 then u.event r.part.toNat 4 r.source.toNat 0 (BitVec.ofNat 64 s.svc.logSeq) r.pa else u := rfl

/-- Beside the ring, a record changes the virtual functions and the clock. -/
theorem State.logEnter_cases (s : State) (r : ErrRec) (slot : Nat) :
    ∃ l, s.logEnter r slot = ((s.withRec r slot).ringWrite (s.placed_ r slot)).withVfs l ∨
      s.logEnter r slot = ((s.withRec r slot).ringWrite (s.placed_ r slot)).tick.withVfs l := by
  rw [State.logEnter_eq]
  dsimp only
  split
  · obtain ⟨l, hl⟩ := State.event_eq ((s.withRec r slot).ringWrite (s.placed_ r slot)) r.part.toNat 4 r.source.toNat 0
      (BitVec.ofNat 64 s.svc.logSeq) r.pa
    exact ⟨l, Or.inr hl⟩
  · exact ⟨_, Or.inl rfl⟩

theorem State.ringWrite_steady (s : State) (r : ErrRec) : (s.ringWrite r).steady = s.steady := by
  unfold State.ringWrite
  split
  · rfl
  · exact State.homeWrite_steady ..

/-- What records leave: registers, and all of the service side but the virtual functions, and the damage that they repair. -/
structure State.Journal (s t : State) : Prop where
  regs : s.SameRegs t
  bank : t.bank = s.bank
  controls : t.controls = s.controls
  svc : { t.svc.kept with vfs := [] } = { s.svc.kept with vfs := [] }

theorem State.Journal.log {s t : State} (h : s.Journal t) : t.svc.log = s.svc.log := by
  injection h.svc

theorem State.Journal.logSeq {s t : State} (h : s.Journal t) : t.svc.logSeq = s.svc.logSeq := by
  injection h.svc

theorem State.Journal.spares {s t : State} (h : s.Journal t) :
    t.svc.swapping = s.svc.swapping ∧ t.svc.spares = s.svc.spares ∧ t.svc.retire = s.svc.retire := by
  have h := h.svc
  simp only [Svc.kept, Svc.mk.injEq] at h
  simp only [h, and_self]

theorem State.Journal.failed {s t : State} (h : s.Journal t) : t.svc.failed = s.svc.failed := by
  injection h.svc

theorem State.logEnter_journal (s : State) (r : ErrRec) (slot : Nat) : (s.withRec r slot).Journal (s.logEnter r slot) := by
  have hu := State.ringWrite_steady (s.withRec r slot) (s.placed_ r slot)
  obtain ⟨l, h | h⟩ := s.logEnter_cases r slot <;> rw [h] <;>
    exact ⟨sameRegs_of_steady (t := (s.withRec r slot).ringWrite (s.placed_ r slot)) hu, congrArg Steady.bank hu, congrArg Steady.ctl hu,
      congrArg (fun x : Steady => { x.svc with vfs := [] }) hu⟩

theorem State.logEnter_mem_ring {s : State} (h : s.ctl.logRing ≠ 0) (r : ErrRec) (slot : Nat) :
    s.BytesAt (s.logEnter r slot) (s.norm s.ctl.logRing + 64 * slot) 64 (s.placed_ r slot).bytes := by
  have hm : ((s.withRec r slot).ringWrite (s.placed_ r slot)).mem =
      putBytes s.mem (s.norm s.ctl.logRing + 64 * slot) 64 (s.placed_ r slot).bytes := by
    unfold State.ringWrite
    rw [if_neg (show ¬ (s.withRec r slot).ctl.logRing = 0 from h), State.homeWrite_mem]
    rfl
  obtain ⟨l, he | he⟩ := s.logEnter_cases r slot <;> rw [he] <;> exact bytesAt_of_mem hm

/-- What a record leaves where the ring has no place in memory. -/
structure State.Unwritten (s t : State) : Prop where
  mem : t.mem = s.mem
  cores : t.cores = s.cores
  bad : t.svc.bad = s.svc.bad
  badL2 : t.svc.badL2 = s.svc.badL2
  badBank : t.svc.badBank = s.svc.badBank
  badOper : t.svc.badOper = s.svc.badOper

theorem State.Unwritten.trans {s t u : State} (h : s.Unwritten t) (k : t.Unwritten u) : s.Unwritten u :=
  ⟨k.mem.trans h.mem, k.cores.trans h.cores, k.bad.trans h.bad, k.badL2.trans h.badL2, k.badBank.trans h.badBank,
    k.badOper.trans h.badOper⟩

theorem State.tick_unwritten (s : State) : s.Unwritten s.tick := ⟨rfl, rfl, rfl, rfl, rfl, rfl⟩

theorem State.withVfs_unwritten (s : State) (l : List (Nat × Vf)) : s.Unwritten (s.withVfs l) := ⟨rfl, rfl, rfl, rfl, rfl, rfl⟩

theorem State.withRec_unwritten (s : State) (r : ErrRec) (slot : Nat) : s.Unwritten (s.withRec r slot) :=
  ⟨rfl, rfl, rfl, rfl, rfl, rfl⟩

theorem State.counted_unwritten (s : State) (kind unit : Byte) (source : BitVec 16) (n : Nat) :
    s.Unwritten (s.counted kind unit source n) := s.tick_unwritten.trans ⟨rfl, rfl, rfl, rfl, rfl, rfl⟩

theorem State.logEnter_unwritten {s : State} (h : s.ctl.logRing = 0) (r : ErrRec) (slot : Nat) : s.Unwritten (s.logEnter r slot) := by
  have hu : (s.withRec r slot).ringWrite (s.placed_ r slot) = s.withRec r slot := if_pos h
  obtain ⟨l, he | he⟩ := s.logEnter_cases r slot <;> rw [he, hu]
  · exact (s.withRec_unwritten r slot).trans (State.withVfs_unwritten _ l)
  · exact ((s.withRec_unwritten r slot).trans (State.tick_unwritten _)).trans (State.withVfs_unwritten _ l)

/-- The record of an error of KIND 2 is an event of its partition. -/
theorem State.logEnter_vf {s : State} {r : ErrRec} {slot : Nat} (h : r.kind = 2 ∧ r.part ≠ 31) {n : Nat}
    (hn : n ∈ s.vfsOf r.part.toNat) : (s.logEnter r slot).vf n = (s.vf n).addEvent
      ⟨4, 0, r.source.toNat, 0, (s.logEnter r slot).time % 2 ^ 64, BitVec.ofNat 64 s.svc.logSeq, r.pa⟩ := by
  have hu := State.ringWrite_steady (s.withRec r slot) (s.placed_ r slot)
  have hc : ((s.withRec r slot).ringWrite (s.placed_ r slot)).ctl.tctx = s.ctl.tctx :=
    congrArg (fun x : Steady => x.ctl.tctx) hu
  have hv : ((s.withRec r slot).ringWrite (s.placed_ r slot)).svc.vfs = s.svc.vfs :=
    congrArg (fun x : Steady => x.svc.vfs) hu
  have hm : n ∈ ((s.withRec r slot).ringWrite (s.placed_ r slot)).vfsOf r.part.toNat := by
    unfold State.vfsOf State.tctxEn State.tctxPart State.tctxOf at hn ⊢
    rw [hc]
    exact hn
  rw [State.logEnter_eq]
  dsimp only
  rw [if_pos h, State.vf_event _ _ _ _ _ _ _ hm, State.event_time]
  simp only [State.vf, hv]

/-- A ring that has room has a free place among its first ones. -/
theorem State.logPut_room {s : State} (h : s.svc.log.length < logSize) (r : ErrRec) :
    ∃ slot, s.logPut r = s.logEnter r slot ∧ slot ≤ s.svc.log.length ∧ ∀ o ∈ s.svc.log, o.slot ≠ slot := by
  have free : ((List.range (s.svc.log.length + 1)).find? (fun n => !s.svc.log.any (fun x => x.slot == n))).isSome = true := by
    by_contra hno
    simp only [Bool.not_eq_true, Option.isSome_eq_false_iff, Option.isNone_iff_eq_none, List.find?_eq_none, Bool.not_eq_eq_eq_not,
      Bool.not_true, Bool.not_eq_false, List.any_eq_true, beq_iff_eq] at hno
    have sub : List.range (s.svc.log.length + 1) ⊆ s.svc.log.map (·.slot) := fun n hn => by
      obtain ⟨x, hx, e⟩ := hno n hn
      exact List.mem_map.2 ⟨x, hx, e⟩
    have := (List.subperm_of_subset List.nodup_range sub).length_le
    simp only [List.length_range, List.length_map] at this
    omega
  obtain ⟨n, hn⟩ := Option.isSome_iff_exists.1 free
  refine ⟨n, ?_, ?_, ?_⟩
  · unfold State.logPut
    dsimp only
    rw [if_pos h, hn]
    rfl
  · have := List.mem_of_find?_eq_some hn
    rw [List.mem_range] at this
    omega
  · have := List.find?_some hn
    simp only [Bool.not_eq_eq_eq_not, Bool.not_true, List.any_eq_false, beq_iff_eq] at this
    exact this

end Sys2Proof.Machine
end

section
/-! PROOF. Damaged words and the records of errors (R438 to R440). -/

namespace Sys2Proof.Machine

/-- A record has entered a free place of the ring, and memory where the ring has been given its place. -/
def State.Logged (s t : State) (x y : Byte) (z : BitVec 16) (p : BitVec 5) (a : BitVec 64) (n : Nat) : Prop :=
  t.svc.logSeq = (s.svc.logSeq + 1) % 2 ^ 32 ∧ ∃ e, t.svc.log = s.svc.log ++ [e] ∧ s.Tells e x y z p a n ∧
    e.seq = s.svc.logSeq ∧ e.slot ≤ s.svc.log.length ∧ (∀ o ∈ s.svc.log, o.slot ≠ e.slot) ∧
    (s.ctl.logRing = 0 → t.mem = s.mem) ∧
    (s.ctl.logRing ≠ 0 → s.BytesAt t (s.norm s.ctl.logRing + 64 * e.slot) 64 e.bytes)

/-- The ring takes records at once. -/
def State.LogRoom (s : State) : Prop := s.svc.log.length < logSize ∧ s.svc.logWait = []

/-- What a record of an error depends on. -/
structure State.SameLog (s d : State) : Prop where
  log : d.svc.log = s.svc.log
  wait : d.svc.logWait = s.svc.logWait
  seq : d.svc.logSeq = s.svc.logSeq
  corrected : d.svc.corrected = s.svc.corrected
  time : d.time = s.time
  ring : d.ctl.logRing = s.ctl.logRing
  pkg : d.ctl.pkg = s.ctl.pkg
  mem : d.mem = s.mem

theorem sameLog_of_steady {s d : State} (h : d.steady = s.steady) (hm : d.bytes = s.bytes) : s.SameLog d where
  log := congrArg (fun x : Steady => x.svc.log) h
  wait := congrArg (fun x : Steady => x.svc.logWait) h
  seq := congrArg (fun x : Steady => x.svc.logSeq) h
  corrected := congrArg (fun x : Steady => x.svc.corrected) h
  time := congrArg Steady.time h
  ring := congrArg (fun x : Steady => x.ctl.logRing) h
  pkg := congrArg (fun x : Steady => x.ctl.pkg) h
  mem := congrArg Prod.fst hm

theorem State.SameLog.tells {s d : State} (h : s.SameLog d) {e : ErrRec} {x y : Byte} {z : BitVec 16} {p : BitVec 5} {a : BitVec 64}
    {n : Nat} (he : d.Tells e x y z p a n) : s.Tells e x y z p a n := by
  simp only [State.Tells, State.recent, h.time, h.corrected] at he ⊢
  exact he

theorem State.SameLog.logged {s d t : State} (h : s.SameLog d) {x y : Byte} {z : BitVec 16} {p : BitVec 5} {a : BitVec 64} {n : Nat}
    (ht : d.Logged t x y z p a n) : s.Logged t x y z p a n := by
  obtain ⟨hs, e, hl, htells, hrest⟩ := ht
  simp only [h.seq, h.log, h.mem, h.ring, State.norm, h.pkg, State.BytesAt] at hs hl hrest
  exact ⟨hs, e, hl, h.tells htells, hrest⟩

theorem State.SameLog.room {s d : State} (h : s.SameLog d) (r : s.LogRoom) : d.LogRoom := by
  rw [State.LogRoom, h.log, h.wait]
  exact r

/-- Where there is room, a record enters the log. -/
theorem State.logError_room {s : State} (room : s.LogRoom) (kind unit : Byte) (src : BitVec 16) (part : BitVec 5) (pa : BitVec 64)
    (n : Nat) : ∃ slot, s.logError kind unit src part pa n =
        (s.counted kind unit src n).logEnter (s.newRec kind unit src part pa n) slot ∧
      slot ≤ s.svc.log.length ∧ ∀ o ∈ s.svc.log, o.slot ≠ slot := by
  rw [State.logError_eq room.2]
  exact State.logPut_room (s := s.counted kind unit src n) room.1 _

theorem State.logError_logged {s : State} (room : s.LogRoom) (kind unit : Byte) (src : BitVec 16) (part : BitVec 5) (pa : BitVec 64)
    (n : Nat) : s.Logged (s.logError kind unit src part pa n) kind unit src part pa (if kind = 1 then max 1 n else 0) := by
  obtain ⟨slot, he, hle, hfree⟩ := State.logError_room room kind unit src part pa n
  rw [he]
  have j := State.logEnter_journal (s.counted kind unit src n) (s.newRec kind unit src part pa n) slot
  refine ⟨j.logSeq, (s.counted kind unit src n).placed_ (s.newRec kind unit src part pa n) slot, j.log,
    s.newRec_tells kind unit src part pa n s.svc.logSeq slot, rfl, hle, hfree,
    fun hr => ((s.counted_unwritten kind unit src n).trans (State.logEnter_unwritten (s := s.counted kind unit src n) hr _ _)).mem,
    fun hr => State.logEnter_mem_ring (s := s.counted kind unit src n) hr _ slot⟩

/-- The spares' books stay as they are in records. -/
theorem State.logError_spares {s : State} (room : s.LogRoom) (kind unit : Byte) (src : BitVec 16) (part : BitVec 5) (pa : BitVec 64)
    (n : Nat) : let t := s.logError kind unit src part pa n
    t.svc.swapping = s.svc.swapping ∧ t.svc.spares = s.svc.spares ∧ t.svc.retire = s.svc.retire := by
  obtain ⟨slot, he, -⟩ := State.logError_room room kind unit src part pa n
  dsimp only
  rw [he]
  exact (State.logEnter_journal (s.counted kind unit src n) (s.newRec kind unit src part pa n) slot).spares

/-- The package has failed once a unit has no spare. -/
theorem State.logError_failed {s : State} (room : s.LogRoom) (kind unit : Byte) (src : BitVec 16) (part : BitVec 5) (pa : BitVec 64)
    (n : Nat) : (s.logError kind unit src part pa n).svc.failed = (s.svc.failed || kind == 4) := by
  obtain ⟨slot, he, -⟩ := State.logError_room room kind unit src part pa n
  rw [he]
  exact (State.logEnter_journal (s.counted kind unit src n) (s.newRec kind unit src part pa n) slot).failed

/-- Registers and the bank store stay. -/
def State.Still (s t : State) : Prop := s.SameRegs t ∧ t.bank = s.bank

theorem State.logError_still {s : State} (room : s.LogRoom) (kind unit : Byte) (src : BitVec 16) (part : BitVec 5) (pa : BitVec 64)
    (n : Nat) : s.Still (s.logError kind unit src part pa n) := by
  obtain ⟨slot, he, -⟩ := State.logError_room room kind unit src part pa n
  have j := State.logEnter_journal (s.counted kind unit src n) (s.newRec kind unit src part pa n) slot
  rw [he]
  exact ⟨j.regs, j.bank⟩

theorem still_of_steady {s t : State} (h : t.steady = s.steady) : s.Still t := ⟨sameRegs_of_steady h, congrArg Steady.bank h⟩

theorem State.Still.trans {s t u : State} (h : s.Still t) (k : t.Still u) : s.Still u :=
  ⟨fun j => ⟨(k.1 j).1.trans (h.1 j).1, (k.1 j).2.1.trans (h.1 j).2.1, (k.1 j).2.2.trans (h.1 j).2.2⟩, k.2.trans h.2⟩

/-! ### Damaged words -/

/-- The word of an address is damaged in the array of a unit. -/
def State.DamagedAt (s t : State) (unit : Byte) (src pa : Nat) : Prop :=
  (∀ n, arrayKey pa = some n → src < Config.cores →
    (unit = 1 → src * 0x180000 + n % 0x180000 / 8 * 8 ∈ t.svc.badBank) ∧ (unit = 2 → (src, n) ∈ t.svc.badOper)) ∧
  (pa < 2 ^ 52 →
    (unit = 4 ∨ unit = 5 ∨ unit = 6 → pa / 8 * 8 ∈ t.svc.bad) ∧
    (unit = 3 → s.l2Holds (pa / 8 * 8) = true → if s.l2Dirty (pa / 8 * 8) then pa / 8 * 8 ∈ t.svc.bad else pa / 8 * 8 ∈ t.svc.badL2) ∧
    (unit = 1 → src < Config.cores → ∀ x ∈ (t.core src).l1, x.sector = pa / 64 → x.bad.getLsbD (pa % 64 / 8) = true))

theorem State.mem_markBad (s : State) (w : Nat) : w ∈ (s.markBad w).svc.bad := by
  unfold State.markBad
  split
  · next h => exact List.contains_iff_mem.1 h
  · exact List.mem_append_right _ (List.mem_singleton.2 rfl)

theorem State.txAbort_cores (s : State) (c l : Nat) (code sub : BitVec 8) : (s.txAbort c l code sub).cores = s.cores := by
  have h : ∀ (c : Nat) (m : LaneMask), (s.unwait c m).cores = s.cores := fun c m => by
    unfold State.unwait
    split <;> rfl
  have k : ∀ (P : Prop) [Decidable P] (t : State) (m : LaneMask), (if P then t.drop m else t).cores = t.cores := fun P _ t m => by
    split <;> rfl
  exact (k _ _ _).trans (h _ _)

theorem damagedBit (b : BitVec 8) (pa : Nat) : (b ||| (1#8 <<< (pa % 64 / 8))).getLsbD (pa % 64 / 8) = true := by
  have : pa % 64 / 8 < 8 := by omega
  simp [this]

theorem State.damageL1_bad (s : State) (core pa : Nat) {x : L1Sec} (hx : x ∈ ((s.damageL1 core pa).core core).l1)
    (hs : x.sector = pa / 64) : x.bad.getLsbD (pa % 64 / 8) = true := by
  have hc : (s.damageL1 core pa).cores = (s.modCore core (fun k => { k with
      l1 := k.l1.map (fun e => if e.sector = pa / 64 then { e with bad := e.bad ||| (1#8 <<< (pa % 64 / 8)) } else e) })).cores :=
    foldl_invariant (fun t : State => t.cores = _) rfl fun t _ ht =>
      foldl_invariant (fun t : State => t.cores = _) ht fun _ _ h => (State.txAbort_cores ..).trans h
  simp only [State.core, hc] at hx
  simp only [State.modCore, getD_set, if_true, List.mem_map] at hx
  obtain ⟨e, -, rfl⟩ := hx
  split at hs
  · next h =>
    rw [if_pos h]
    exact damagedBit ..
  · next h => exact absurd hs h

theorem arrayKey_none {pa : Nat} : arrayKey pa = none ↔ pa < 2 ^ 52 := by
  unfold arrayKey
  split <;> simp <;> omega

theorem State.damage_damagedAt (s : State) (unit : Byte) (src pa : Nat) : s.DamagedAt (s.damage unit src pa) unit src pa := by
  constructor
  · intro n hn hsrc
    simp only [State.damage, hn, if_neg (Nat.not_le.2 hsrc)]
    constructor
    · rintro rfl
      rw [if_pos rfl]
      split
      · next h => exact List.contains_iff_mem.1 h
      · exact List.mem_append_right _ (List.mem_singleton.2 rfl)
    · rintro rfl
      rw [if_neg (by decide)]
      split
      · exact List.mem_append_right _ (List.mem_singleton.2 rfl)
      · next h =>
        simp only [true_and, Bool.not_eq_true, Bool.not_eq_false'] at h
        exact List.contains_iff_mem.1 h
  · intro hpa
    simp only [State.damage, arrayKey_none.2 hpa]
    refine ⟨fun hu => ?_, ?_, ?_⟩
    · have h1 : ¬ (unit = 1 ∧ src < Config.cores) := by rintro ⟨rfl, -⟩; revert hu; decide
      have h3 : ¬ (unit = 3 ∧ s.l2Holds (pa / 8 * 8) = true) := by rintro ⟨rfl, -⟩; revert hu; decide
      rw [if_neg h1, if_neg h3, if_pos hu]
      exact s.mem_markBad _
    · rintro rfl hh
      have h1 : ¬ ((3 : Byte) = 1 ∧ src < Config.cores) := fun h => absurd h.1 (by decide)
      have h3 : (3 : Byte) = 3 ∧ s.l2Holds (pa / 8 * 8) = true := ⟨rfl, hh⟩
      rw [if_neg h1, if_pos h3]
      by_cases hd : s.l2Dirty (pa / 8 * 8) = true
      · rw [if_pos hd, if_pos hd]
        exact s.mem_markBad _
      · rw [if_neg hd, if_neg hd]
        split
        · next h => exact List.contains_iff_mem.1 h
        · exact List.mem_append_right _ (List.mem_singleton.2 rfl)
    · rintro rfl hsrc x hx hs
      rw [if_pos ⟨rfl, hsrc⟩] at hx
      exact s.damageL1_bad src pa hx hs

theorem recordPa_toNat (pa : BitVec 64) : recordPa pa.toNat = if pa.toNat < 2 ^ 52 then pa else 0 := by
  unfold recordPa
  cases h : arrayKey pa.toNat with
  | none =>
    rw [if_neg (by simp), if_pos (arrayKey_none.1 h), BitVec.ofNat_toNat, BitVec.setWidth_eq]
  | some n =>
    have hp : ¬ pa.toNat < 2 ^ 52 := fun hp => by
      rw [arrayKey_none.2 hp] at h
      exact nomatch h
    rw [if_pos Option.isSome_some, if_neg hp]

/-- Without a ring in memory what a record leaves damaged is as before. -/
theorem State.DamagedAt.logError {s d : State} {unit : Byte} {src pa : Nat} (h : s.DamagedAt d unit src pa) (room : d.LogRoom)
    (hr : d.ctl.logRing = 0) (kind u : Byte) (z : BitVec 16) (part : BitVec 5) (a : BitVec 64) (n : Nat) :
    s.DamagedAt (d.logError kind u z part a n) unit src pa := by
  obtain ⟨slot, he, -⟩ := State.logError_room room kind u z part a n
  have k := (d.counted_unwritten kind u z n).trans
    (State.logEnter_unwritten (s := d.counted kind u z n) hr (d.newRec kind u z part a n) slot)
  rw [State.DamagedAt, he, State.core, k.cores, k.bad, k.badL2, k.badBank, k.badOper]
  exact h

/-- An uncorrectable error: the word is damaged, and a record tells of it. -/
theorem State.damage_logError {s : State} (room : s.LogRoom) (kind unit : Byte) (src : BitVec 16) (part : BitVec 5) (pa : Nat)
    (a : BitVec 64) (n : Nat) : let t := (s.damage unit src.toNat pa).logError kind unit src part a n
    s.Logged t kind unit src part a (if kind = 1 then max 1 n else 0) ∧
      (s.ctl.logRing = 0 → s.DamagedAt t unit src.toNat pa) ∧ s.Still t := by
  have hs := s.damage_steady unit src.toNat pa
  have hl := sameLog_of_steady hs (s.damage_bytes unit src.toNat pa)
  exact ⟨hl.logged (State.logError_logged (hl.room room) ..),
    fun hr => (s.damage_damagedAt unit src.toNat pa).logError (hl.room room) (hl.ring.trans hr) ..,
    (still_of_steady hs).trans (State.logError_still (hl.room room) ..)⟩

end Sys2Proof.Machine
end

section
/-! PROOF. Scrubbing, the record of an error, and spares (R439 to R442). -/

namespace Sys2Proof.Machine

/-! ### Records of errors -/

theorem State.vfsOf_congr {s t : State} (h : t.ctl.tctx = s.ctl.tctx) (part : Nat) : t.vfsOf part = s.vfsOf part := by
  unfold State.vfsOf State.tctxEn State.tctxPart State.tctxOf
  rw [h]

/-- The record of an uncorrectable error is an event of its partition. -/
theorem State.logError_events {s : State} (room : s.LogRoom) (unit : Byte) (src : BitVec 16) {part : BitVec 5} (hp : part ≠ 31)
    (pa : BitVec 64) (k : Nat) {n : Nat} (hn : n ∈ s.vfsOf part.toNat) (hl : (s.vf n).events.length < 256) :
    let t := s.logError 2 unit src part pa k
    (t.vf n).events = (s.vf n).events ++ [⟨4, 0, src.toNat, 0, t.time % 2 ^ 64, BitVec.ofNat 64 s.svc.logSeq, pa⟩] := by
  obtain ⟨slot, he, -⟩ := State.logError_room room 2 unit src part pa k
  dsimp only
  rw [he, State.logEnter_vf (s := s.counted 2 unit src k) (r := s.newRec 2 unit src part pa k) ⟨rfl, hp⟩ hn]
  exact Vf.addEvent_events hl _

theorem isSource_not {n : Nat} (h : isSource n = false) : (!isSource n) = true := by rw [h]; rfl

theorem execArrayScrubPass_one {s : State} {unit : Byte} {src : BitVec 16} (h : isSource src.toNat = true) (pa : Nat) :
    execArrayScrubPass unit src [pa] s =
      .next ((s.damage unit src.toNat pa).logError 2 unit src 31 (recordPa pa) 0) := by
  unfold execArrayScrubPass
  rw [h]
  rfl

/-- The state in which the record of an error is made: the word is damaged where the error is uncorrectable. -/
def State.damagedBy (s : State) (kind unit : Byte) (src : BitVec 16) (pa : Nat) : State :=
  if kind = 2 then s.damage unit src.toNat pa else s

theorem execErrorLogRecord_eq {s : State} {src : BitVec 16} (h : isSource src.toNat = true) (kind unit : Byte) (part : BitVec 5)
    (pa : BitVec 64) (count : BitVec 32) : execErrorLogRecord kind unit src part pa count s =
      .next ((s.damagedBy kind unit src pa.toNat).logError kind unit src part (recordPa pa.toNat) count.toNat) := by
  unfold execErrorLogRecord
  rw [h]
  rfl

theorem State.damagedBy_steady (s : State) (kind unit : Byte) (src : BitVec 16) (pa : Nat) :
    (s.damagedBy kind unit src pa).steady = s.steady := by
  unfold State.damagedBy
  rw [steady_ite, State.damage_steady, ite_self]

theorem State.damagedBy_sameLog (s : State) (kind unit : Byte) (src : BitVec 16) (pa : Nat) :
    s.SameLog (s.damagedBy kind unit src pa) := by
  refine sameLog_of_steady (s.damagedBy_steady ..) ?_
  unfold State.damagedBy
  split
  · exact State.damage_bytes ..
  · rfl

/-- A reserved source number is never written. -/
theorem reservedSource_noRecord (s : State) {src : BitVec 16} (h : isSource src.toNat = false) (kind unit : Byte) (part : BitVec 5)
    (pa : BitVec 64) (count : BitVec 32) : exec (.arrayScrubPass unit src [pa.toNat]) s = .next s ∧
      exec (.errorLogRecord kind unit src part pa count) s = .next s :=
  ⟨congrArg Host.Outcome.next (if_pos (isSource_not h)), congrArg Host.Outcome.next (if_pos (isSource_not h))⟩

theorem arrayScrubPass_logs {s : State} (room : s.LogRoom) {src : BitVec 16} (h : isSource src.toNat = true) (unit : Byte)
    (pa : BitVec 64) : Gives (exec (.arrayScrubPass unit src [pa.toNat]) s) (fun t =>
      s.Logged t 2 unit src 31 (if pa.toNat < 2 ^ 52 then pa else 0) 0 ∧
      (s.ctl.logRing = 0 → s.DamagedAt t unit src.toNat pa.toNat) ∧ s.Still t) := by
  refine ⟨_, execArrayScrubPass_one h pa.toNat, ?_⟩
  rw [← recordPa_toNat]
  exact State.damage_logError room 2 unit src 31 pa.toNat _ 0

theorem errorLogRecord_logs {s : State} (room : s.LogRoom) {src : BitVec 16} (h : isSource src.toNat = true) (kind unit : Byte)
    (part : BitVec 5) (pa : BitVec 64) (count : BitVec 32) :
    let named := if pa.toNat < 2 ^ 52 then pa else 0
    Gives (exec (.errorLogRecord kind unit src part pa count) s) (fun t =>
      s.Logged t kind unit src part named (if kind = 1 then max 1 count.toNat else 0) ∧ s.Still t ∧
      (kind = 2 → s.ctl.logRing = 0 → s.DamagedAt t unit src.toNat pa.toNat) ∧
      ∀ n, kind = 2 → part ≠ 31 → n ∈ s.vfsOf part.toNat → (s.vf n).events.length < 256 →
        (t.vf n).events = (s.vf n).events ++
          [⟨4, 0, src.toNat, 0, t.time % 2 ^ 64, BitVec.ofNat 64 s.svc.logSeq, named⟩]) := by
  dsimp only
  refine ⟨_, execErrorLogRecord_eq h kind unit part pa count, ?_⟩
  rw [← recordPa_toNat]
  have hs := s.damagedBy_steady kind unit src pa.toNat
  have hl := s.damagedBy_sameLog kind unit src pa.toNat
  refine ⟨hl.logged (State.logError_logged (hl.room room) ..), (still_of_steady hs).trans (State.logError_still (hl.room room) ..), ?_,
    ?_⟩
  · rintro rfl
    exact (State.damage_logError room 2 unit src part pa.toNat _ count.toNat).2.1
  · rintro n rfl hp hn hlen
    have hv : (s.damagedBy 2 unit src pa.toNat).vf n = s.vf n := congrArg (fun x : Steady => getD x.svc.vfs n .blank) hs
    have ht : (s.damagedBy 2 unit src pa.toNat).ctl.tctx = s.ctl.tctx := congrArg (fun x : Steady => x.ctl.tctx) hs
    rw [← hv, ← hl.seq]
    exact State.logError_events (hl.room room) unit src hp _ _ (State.vfsOf_congr ht _ ▸ hn) (hv ▸ hlen)

/-! ### A full ring -/

/-- The state with another log. -/
def State.withLog (s : State) (l : List ErrRec) : State := { s with svc := { s.svc with log := l } }

theorem State.logPut_full {s : State} (h : s.svc.log.length = logSize) {o : ErrRec} (ho : s.svc.log.find? (fun x => x.kind == 1) = some o)
    (r : ErrRec) : s.logPut r =
      (s.withLog (s.svc.log.filter (fun y => y.slot != o.slot))).logEnter r o.slot := by
  unfold State.logPut
  dsimp only
  rw [if_neg (by omega), ho]
  rfl

theorem State.logPut_waits {s : State} (h : s.svc.log.length = logSize) (hn : ∀ o ∈ s.svc.log, o.kind ≠ 1) (r : ErrRec) :
    s.logPut r = { s with svc := { s.svc with logWait := s.svc.logWait ++ [r] } } := by
  have ho : s.svc.log.find? (fun x => x.kind == 1) = none := List.find?_eq_none.2 fun o ho => by simpa using hn o ho
  unfold State.logPut
  dsimp only
  rw [if_neg (by omega), ho]

/-- A full ring gives up its oldest record of a corrected error. -/
theorem errorLogRecord_full {s : State} (full : s.svc.log.length = logSize) {src : BitVec 16} (h : isSource src.toNat = true)
    (wait : s.svc.logWait = []) (kind unit : Byte) (part : BitVec 5) (pa : BitVec 64) (count : BitVec 32) {o : ErrRec}
    (ho : s.svc.log.find? (fun x => x.kind == 1) = some o) :
    Gives (exec (.errorLogRecord kind unit src part pa count) s) (fun t => ∃ e, e.slot = o.slot ∧ e.seq = s.svc.logSeq ∧
      t.svc.log = s.svc.log.filter (fun x => x.slot != o.slot) ++ [e] ∧
      s.Tells e kind unit src part (if pa.toNat < 2 ^ 52 then pa else 0) (if kind = 1 then max 1 count.toNat else 0)) := by
  refine ⟨_, execErrorLogRecord_eq h kind unit part pa count, ?_⟩
  rw [← recordPa_toNat]
  have hl := s.damagedBy_sameLog kind unit src pa.toNat
  generalize s.damagedBy kind unit src pa.toNat = d at hl
  rw [← hl.log] at full ho ⊢
  rw [← hl.seq, State.logError_eq (hl.wait.trans wait), State.logPut_full (s := d.counted kind unit src count.toNat) full ho]
  exact ⟨(d.counted kind unit src count.toNat).placed_ (d.newRec kind unit src part (recordPa pa.toNat) count.toNat) o.slot, rfl, rfl,
    (State.logEnter_journal ((d.counted kind unit src count.toNat).withLog _) _ o.slot).log, hl.tells (d.newRec_tells ..)⟩

/-- Where a full ring has no record of a corrected error, a record waits. -/
theorem errorLogRecord_waits {s : State} (full : s.svc.log.length = logSize) {src : BitVec 16} (h : isSource src.toNat = true)
    (wait : s.svc.logWait = []) (kind unit : Byte) (part : BitVec 5) (pa : BitVec 64) (count : BitVec 32)
    (hn : ∀ o ∈ s.svc.log, o.kind ≠ 1) :
    Gives (exec (.errorLogRecord kind unit src part pa count) s) (fun t => t.svc.log = s.svc.log ∧ ∃ e, t.svc.logWait = [e] ∧
      s.Tells e kind unit src part (if pa.toNat < 2 ^ 52 then pa else 0) (if kind = 1 then max 1 count.toNat else 0)) := by
  refine ⟨_, execErrorLogRecord_eq h kind unit part pa count, ?_⟩
  rw [← recordPa_toNat]
  have hl := s.damagedBy_sameLog kind unit src pa.toNat
  generalize s.damagedBy kind unit src pa.toNat = d at hl
  rw [← hl.log] at full hn ⊢
  rw [State.logError_eq (hl.wait.trans wait), State.logPut_waits (s := d.counted kind unit src count.toNat) full hn]
  refine ⟨rfl, d.newRec kind unit src part (recordPa pa.toNat) count.toNat, ?_, hl.tells (d.newRec_tells _ _ _ _ _ _ 0 0)⟩
  exact congrArg (· ++ [_]) (hl.wait.trans wait)

/-! ### Spares -/

/-- A spare is taken from its pool. -/
def State.spareTaken (s : State) (u : SpareUnit) : State := { s with svc := { s.svc with
  spares := put s.svc.spares (sparePool u).1 (getD s.svc.spares (sparePool u).1 0 + 1) 0
  swapping := s.svc.swapping ++ [u] } }

/-- A slice that goes out of service ends transactions and gives up its lines. -/
def State.sliceLeft (s : State) : SpareUnit → State
  | .slice d k => (s.sliceAbort d k).l2Empty (160 * d + k)
  | _ => s

theorem State.sliceLeft_steady (s : State) (u : SpareUnit) : (s.sliceLeft u).steady = s.steady := by
  cases u with
  | slice d k => exact (State.l2Empty_steady ..).trans (State.sliceAbort_steady ..)
  | _ => rfl

theorem State.sliceLeft_bytes (s : State) (u : SpareUnit) : (s.sliceLeft u).bytes = s.bytes := by
  cases u with
  | slice d k => exact (State.l2Empty_bytes ..).trans (State.sliceAbort_bytes ..)
  | _ => rfl

/-- The unit is in service. -/
structure State.InService (s : State) (u : SpareUnit) : Prop where
  here : unitHere u = true
  swapping : u ∉ s.svc.swapping
  retire : u ∉ s.svc.retire

theorem State.InService.goesOn {s : State} {u : SpareUnit} (h : s.InService u) :
    ¬ ((!unitHere u) = true ∨ s.svc.swapping.contains u = true ∨ s.svc.retire.contains u = true) := by
  rintro (h1 | h1 | h1)
  · rw [h.here] at h1
    exact absurd h1 (by decide)
  · exact h.swapping (List.contains_iff_mem.1 h1)
  · exact h.retire (List.contains_iff_mem.1 h1)

theorem execSpareBringIn_left {s : State} {u : SpareUnit} (h : s.InService u)
    (left : getD s.svc.spares (sparePool u).1 0 < (sparePool u).2.1) : execSpareBringIn u s =
      .next (((s.spareTaken u).sliceLeft u).logError 3 (BitVec.ofNat 8 (sparePool u).2.2.1)
        (BitVec.ofNat 16 (sparePool u).2.2.2) 31 0 0) := by
  unfold execSpareBringIn
  dsimp only
  rw [if_neg h.goesOn, if_neg (Nat.not_le.2 left)]
  cases u <;> rfl

theorem execSpareBringIn_none {s : State} {u : SpareUnit} (h : s.InService u)
    (none : (sparePool u).2.1 ≤ getD s.svc.spares (sparePool u).1 0) : execSpareBringIn u s =
      .next (({ s with svc := { s.svc with retire := s.svc.retire ++ [u] } } : State).logError 4
        (BitVec.ofNat 8 (sparePool u).2.2.1) (BitVec.ofNat 16 (sparePool u).2.2.2) 31 0 0) := by
  unfold execSpareBringIn
  dsimp only
  rw [if_neg h.goesOn, if_pos none]

/-- A spare comes in. -/
theorem spareBringIn_left {s : State} (room : s.LogRoom) {u : SpareUnit} (h : s.InService u)
    (left : getD s.svc.spares (sparePool u).1 0 < (sparePool u).2.1) : Gives (exec (.spareBringIn u) s) (fun t =>
      s.Logged t 3 (BitVec.ofNat 8 (sparePool u).2.2.1) (BitVec.ofNat 16 (sparePool u).2.2.2) 31 0 0 ∧
      t.svc.swapping = s.svc.swapping ++ [u] ∧
      getD t.svc.spares (sparePool u).1 0 = getD s.svc.spares (sparePool u).1 0 + 1 ∧ s.Still t) := by
  refine ⟨_, execSpareBringIn_left h left, ?_⟩
  have hs := (s.spareTaken u).sliceLeft_steady u
  have hl := sameLog_of_steady hs ((s.spareTaken u).sliceLeft_bytes u)
  have k := State.logError_spares (hl.room room) 3 (BitVec.ofNat 8 (sparePool u).2.2.1) (BitVec.ofNat 16 (sparePool u).2.2.2) 31 0 0
  have still := (still_of_steady hs).trans (State.logError_still (hl.room room) 3 (BitVec.ofNat 8 (sparePool u).2.2.1)
    (BitVec.ofNat 16 (sparePool u).2.2.2) 31 0 0)
  refine ⟨hl.logged (State.logError_logged (hl.room room) ..), k.1.trans (congrArg (fun x : Steady => x.svc.swapping) hs), ?_, still⟩
  rw [k.2.1, show ((s.spareTaken u).sliceLeft u).svc.spares = (s.spareTaken u).svc.spares from
    congrArg (fun x : Steady => x.svc.spares) hs]
  exact getD_put_same s.svc.spares (sparePool u).1 (getD s.svc.spares (sparePool u).1 0 + 1) 0

/-- No spare is left: the unit stays. -/
theorem spareBringIn_none {s : State} (room : s.LogRoom) {u : SpareUnit} (h : s.InService u)
    (none : (sparePool u).2.1 ≤ getD s.svc.spares (sparePool u).1 0) : Gives (exec (.spareBringIn u) s) (fun t =>
      s.Logged t 4 (BitVec.ofNat 8 (sparePool u).2.2.1) (BitVec.ofNat 16 (sparePool u).2.2.2) 31 0 0 ∧
      t.svc.retire = s.svc.retire ++ [u] ∧ t.svc.swapping = s.svc.swapping ∧ s.Still t) := by
  let d : State := { s with svc := { s.svc with retire := s.svc.retire ++ [u] } }
  have k := State.logError_spares (s := d) room 4 (BitVec.ofNat 8 (sparePool u).2.2.1) (BitVec.ofNat 16 (sparePool u).2.2.2) 31 0 0
  exact ⟨_, execSpareBringIn_none h none, State.logError_logged (s := d) room .., k.2.2, k.1, State.logError_still (s := d) room ..⟩

end Sys2Proof.Machine
end

section
/-! PROOF. The dirty bytes of L1s reach memory (R77, R441). -/

namespace Sys2Proof.Machine

/-! ### What writes at home leave of the cores -/

/-- The cores, and the engine writes on their way. -/
def State.sides (s : State) : List (Nat × Core) × List EngWrite := (s.cores, s.ewr)

theorem sides_rest (s : State) {ctl mem own bank cohorts blocks placed grids cluTlb constC l2 walkC late mvWaits ops pulls transit
    walks invals kiosk harts traps queues qwaits tier fab svc shares serials cur agenda time fresh} : (State.mk ctl mem own bank
      cohorts blocks placed grids s.cores cluTlb constC l2 walkC late mvWaits s.ewr ops pulls transit walks invals kiosk harts traps
      queues qwaits tier fab svc shares serials cur agenda time fresh).sides = s.sides := rfl

theorem sides_ite (c : Prop) [Decidable c] (s t : State) : (if c then s else t).sides = if c then s.sides else t.sides :=
  apply_ite _ _ _ _

theorem snd_sides_ite {α : Type} (c : Prop) [Decidable c] (s t : α × State) :
    (if c then s else t).2.sides = if c then s.2.sides else t.2.sides := by split <;> rfl

theorem foldl_sides {α : Type} (f : State → α → State) (hf : ∀ s x, (f s x).sides = s.sides) (l : List α) (s : State) :
    (l.foldl f s).sides = s.sides :=
  foldl_invariant (fun t => t.sides = s.sides) rfl fun t x ht => (hf t x).trans ht

theorem State.next_sides (s : State) : s.next.sides = s.sides := rfl

theorem State.charge_sides (s : State) (part pa n : Nat) : (s.charge part pa n).sides = s.sides := by
  simp only [State.charge]
  split <;> rfl

theorem State.chargeOwner_sides (s : State) (pa n : Nat) : (s.chargeOwner pa n).sides = s.sides := by
  unfold State.chargeOwner
  split
  · exact State.charge_sides ..
  · rfl

theorem State.markBad_sides (s : State) (w : Nat) : (s.markBad w).sides = s.sides := by
  unfold State.markBad
  split <;> rfl

theorem State.l2Bad_sides (s : State) (x : Nat) (held write : Bool) : (s.l2Bad x held write).sides = s.sides := by
  simp only [State.l2Bad, sides_ite, foldl_sides, State.markBad_sides, sides_rest, ite_self, implies_true]

theorem State.l2Room_sides (s : State) (line : Nat) (ls : List L2Line) : (s.l2Room line ls).2.sides = s.sides := by
  simp only [State.l2Room]
  (repeat' split) <;> simp only [State.next_sides, State.chargeOwner_sides]

theorem State.l2Sector_sides (s : State) (x : Nat) (write free : Bool) : (s.l2Sector x write free).sides = s.sides := by
  simp only [State.l2Sector, sides_ite, sides_rest, snd_sides_ite, State.l2Room_sides, State.l2Bad_sides,
    State.chargeOwner_sides, ite_self]

theorem State.l2Write_sides (s : State) (pa n : Nat) : (s.l2Write pa n).sides = s.sides :=
  foldl_sides _ (fun _ _ => State.l2Sector_sides ..) _ _

theorem State.hartAbort_sides (s : State) (h : Nat) (code sub : BitVec 8) : (s.hartAbort h code sub).sides = s.sides := by
  unfold State.hartAbort
  split <;> rfl

theorem State.conflictWrite_sides (s : State) (pa n : Nat) (except : Option Nat) :
    (s.conflictWrite pa n except).sides = s.sides := by
  simp only [State.conflictWrite, sides_ite, sides_rest, foldl_sides, State.hartAbort_sides, State.next_sides, ite_self,
    implies_true]

theorem State.repair_sides (s : State) (pa n : Nat) : (s.repair pa n).sides = s.sides := by
  unfold State.repair
  split <;> rfl

theorem State.homePut_sides (s : State) (pa n v : Nat) (except : Option Nat) : (s.homePut pa n v except).sides = s.sides := by
  simp only [State.homePut, State.repair_sides, sides_rest, State.conflictWrite_sides]

theorem State.homeWrite_sides (s : State) (pa n v : Nat) (except : Option Nat) : (s.homeWrite pa n v except).sides = s.sides :=
  (State.l2Write_sides ..).trans (State.homePut_sides ..)

theorem State.homeWrite_ewr (s : State) (pa n v : Nat) (except : Option Nat) : (s.homeWrite pa n v except).ewr = s.ewr :=
  congrArg Prod.snd (State.homeWrite_sides ..)

/-! ### Dirty bytes -/

/-- A byte that a partition's L1 on a core holds dirty. -/
def State.owes (s : State) (core part x : Nat) : Option Byte :=
  (s.l1Find core part (x / 64)).bind (fun e => if e.mask.getLsbD (x % 64) then some (secByte e.data (x % 64)) else none)

theorem State.owes_congr {s t : State} {core : Nat} (h : (t.core core).l1 = (s.core core).l1) (part x : Nat) :
    t.owes core part x = s.owes core part x := by
  simp only [State.owes, State.l1Find, h]

/-- The masked bytes of a sector at their homes. -/
def State.putSector (s : State) (sec : Nat) (e : L1Sec) : State :=
  (List.range 64).foldl (fun s i => if e.mask.getLsbD i then s.homePut (64 * sec + i) 1 (secByte e.data i).toNat none else s) s

theorem State.putSector_sides (s : State) (sec : Nat) (e : L1Sec) : (s.putSector sec e).sides = s.sides :=
  foldl_sides _ (fun _ _ => by rw [sides_ite, State.homePut_sides, ite_self]) _ _

theorem getD_homePut_byte (s : State) (a : Nat) (b : Byte) (x : Nat) :
    getD (s.homePut a 1 b.toNat none).mem x 0 = if x = a then b else getD s.mem x 0 := by
  rw [State.homePut_mem, getD_putBytes]
  by_cases h : x = a
  · subst h
    rw [if_pos ⟨Nat.le_refl _, by omega⟩, if_pos rfl]
    simp
  · rw [if_neg (by omega), if_neg h]

theorem getD_putSector (s : State) (sec : Nat) (e : L1Sec) (x : Nat) : getD (s.putSector sec e).mem x 0 =
    if x / 64 = sec ∧ e.mask.getLsbD (x % 64) = true then secByte e.data (x % 64) else getD s.mem x 0 := by
  have gen : ∀ n ≤ 64, getD ((List.range n).foldl (fun (s : State) i =>
      if e.mask.getLsbD i then s.homePut (64 * sec + i) 1 (secByte e.data i).toNat none else s) s).mem x 0 =
      if (x / 64 = sec ∧ x % 64 < n) ∧ e.mask.getLsbD (x % 64) = true then secByte e.data (x % 64) else getD s.mem x 0 := by
    intro n
    induction n with
    | zero => exact fun _ => (if_neg fun h => Nat.not_lt_zero _ h.1.2).symm
    | succ n ih =>
      intro hn
      rw [List.range_succ, List.foldl_append, List.foldl_cons, List.foldl_nil]
      have := ih (by omega)
      by_cases hx : x = 64 * sec + n
      · have hd : x / 64 = sec ∧ x % 64 = n := by omega
        obtain ⟨h1, h2⟩ := hd
        by_cases hm : e.mask.getLsbD n = true
        · rw [if_pos hm, getD_homePut_byte, if_pos hx, if_pos ⟨⟨h1, by omega⟩, h2 ▸ hm⟩, h2]
        · rw [if_neg hm, this, if_neg (by omega), if_neg (fun h => hm (h2 ▸ h.2))]
      · have hc : (x / 64 = sec ∧ x % 64 < n + 1) ↔ (x / 64 = sec ∧ x % 64 < n) := by omega
        simp only [hc]
        rw [← this]
        split
        · rw [getD_homePut_byte, if_neg hx]
        · rfl
  have h64 : (x / 64 = sec ∧ x % 64 < 64) ↔ x / 64 = sec := by omega
  rw [State.putSector, gen 64 (Nat.le_refl _)]
  simp only [h64]

/-- What a slice and the damaged words see of a written-back sector. -/
def State.wbNote (s : State) (sec : Nat) (e : L1Sec) : State :=
  let s := if e.mask = 0 then s else s.l2Sector sec true (e.mask == 0xFFFFFFFFFFFFFFFF#64)
  (List.range 8).foldl (fun s w =>
    if e.bad.getLsbD w ∧ (upto (8 * w) 8).any e.mask.getLsbD then s.markBad (64 * sec + 8 * w)
    else if (upto (8 * w) 8).all e.mask.getLsbD then s.repair (64 * sec + 8 * w) 8
    else s) s

theorem State.wbNote_sides (s : State) (sec : Nat) (e : L1Sec) : (s.wbNote sec e).sides = s.sides := by
  simp only [State.wbNote, foldl_sides, sides_ite, State.markBad_sides, State.repair_sides, State.l2Sector_sides, ite_self,
    implies_true]

theorem State.wbNote_mem (s : State) (sec : Nat) (e : L1Sec) : (s.wbNote sec e).mem = s.mem := by
  refine congrArg Prod.fst (show (s.wbNote sec e).bytes = s.bytes from ?_)
  simp [State.wbNote]

theorem State.wbSector_some {s : State} {core part sec : Nat} {e : L1Sec} (h : s.l1Find core part sec = some e) :
    s.wbSector core part sec =
      ((((s.putSector sec e).wbNote sec e).l1Upd core part sec (fun e => { e with mask := 0 })).leaveSets core part sec) := by
  unfold State.wbSector
  rw [h]
  rfl

theorem State.wbSector_none {s : State} {core part sec : Nat} (h : s.l1Find core part sec = none) :
    s.wbSector core part sec = s.leaveSets core part sec := by
  unfold State.wbSector
  rw [h]

theorem State.core_modCore (s : State) (k j : Nat) (f : Core → Core) :
    (s.modCore k f).core j = if j = k then f (s.core k) else s.core j := getD_set ..

theorem State.leaveSets_l1 (s : State) (core part sec j : Nat) : ((s.leaveSets core part sec).core j).l1 = (s.core j).l1 := by
  rw [State.leaveSets, State.core_modCore]
  split
  · next h => rw [h]
  · rfl

theorem State.l1Upd_l1 (s : State) (core part sec j : Nat) (f : L1Sec → L1Sec) : ((s.l1Upd core part sec f).core j).l1 =
    if j = core then (s.core j).l1.map (fun e => if e.part = part ∧ e.sector = sec then f e else e) else (s.core j).l1 := by
  rw [State.l1Upd, State.core_modCore]
  split
  · next h => rw [h]
  · rfl

/-- A sector that is written back stays, with its mask cleared, and every other one as it is. -/
theorem State.wbSector_l1 (s : State) (core part sec j : Nat) : ((s.wbSector core part sec).core j).l1 =
    if j = core then (s.core j).l1.map (fun e => if e.part = part ∧ e.sector = sec then { e with mask := 0 } else e)
    else (s.core j).l1 := by
  cases h : s.l1Find core part sec with
  | none =>
    rw [State.wbSector_none h, State.leaveSets_l1]
    split
    · next hj =>
      subst hj
      refine (List.map_id'' (fun e => rfl) _).symm.trans (List.map_congr_left fun e he => ?_)
      have := List.find?_eq_none.1 h e he
      rw [if_neg]
      rintro ⟨h1, h2⟩
      simp [h1, h2] at this
    · rfl
  | some e =>
    have hc : ((s.putSector sec e).wbNote sec e).core j = s.core j :=
      congrArg (fun x : List (Nat × Core) × List EngWrite => getD x.1 j Core.blank) ((State.wbNote_sides ..).trans (State.putSector_sides ..))
    rw [State.wbSector_some h, State.leaveSets_l1, State.l1Upd_l1, hc]

theorem find?_map_of_iff {α : Type} {p : α → Bool} {f : α → α} (h : ∀ x, p (f x) = p x) (l : List α) :
    (l.map f).find? p = (l.find? p).map f := by
  induction l with
  | nil => rfl
  | cons x t ih => rw [List.map_cons, List.find?_cons, List.find?_cons, h]; cases p x <;> simp [ih]

/-- What a written-back sector owed it owes no more. -/
theorem State.owes_wbSector (s : State) (core part sec j q x : Nat) : (s.wbSector core part sec).owes j q x =
    if j = core ∧ q = part ∧ x / 64 = sec then none else s.owes j q x := by
  by_cases hj : j = core
  · subst hj
    have hp : ∀ e : L1Sec, (fun e : L1Sec => e.part == q && e.sector == x / 64)
        (if e.part = part ∧ e.sector = sec then { e with mask := 0 } else e) =
        (fun e : L1Sec => e.part == q && e.sector == x / 64) e := fun e => by
      dsimp only
      split <;> rfl
    simp only [State.owes, State.l1Find, State.wbSector_l1, if_true]
    rw [find?_map_of_iff hp]
    cases hf : (s.core j).l1.find? (fun e => e.part == q && e.sector == x / 64) with
    | none => simp
    | some e =>
      have he := List.find?_some hf
      simp only [Bool.and_eq_true, beq_iff_eq] at he
      simp only [Option.map_some, Option.bind_some, he.1, he.2, true_and]
      split
      · simp
      · rfl
  · have hl : ((s.wbSector core part sec).core j).l1 = (s.core j).l1 := by rw [State.wbSector_l1, if_neg hj]
    rw [State.owes_congr hl, if_neg (fun h => hj h.1)]

/-- The bytes that a sector owes are in memory once it is written back. -/
theorem State.getD_wbSector (s : State) (core part sec x : Nat) : getD (s.wbSector core part sec).mem x 0 =
    if x / 64 = sec then (s.owes core part x).getD (getD s.mem x 0) else getD s.mem x 0 := by
  cases h : s.l1Find core part sec with
  | none =>
    rw [State.wbSector_none h]
    split
    · next hx =>
      rw [State.owes, hx, h]
      rfl
    · rfl
  | some e =>
    rw [State.wbSector_some h]
    show getD ((s.putSector sec e).wbNote sec e).mem x 0 = _
    rw [State.wbNote_mem, getD_putSector]
    by_cases hx : x / 64 = sec
    · rw [if_pos hx, State.owes, hx, h, Option.bind_some]
      by_cases hm : e.mask.getLsbD (x % 64) = true
      · rw [if_pos ⟨rfl, hm⟩, if_pos hm]
        rfl
      · rw [if_neg (fun c => hm c.2), if_neg hm]
        rfl
    · rw [if_neg (fun c => hx c.1), if_neg hx]

theorem State.wbSectors_cons (s : State) (core part a : Nat) (t : List Nat) :
    s.wbSectors core part (a :: t) = (s.wbSector core part a).wbSectors core part t := rfl

/-- The same of several sectors. -/
theorem State.owes_wbSectors (core part j q x : Nat) (l : List Nat) (s : State) : (s.wbSectors core part l).owes j q x =
    if j = core ∧ q = part ∧ x / 64 ∈ l then none else s.owes j q x := by
  induction l generalizing s with
  | nil => simp [State.wbSectors]
  | cons a t ih =>
    rw [State.wbSectors_cons, ih, State.owes_wbSector]
    by_cases h : j = core ∧ q = part
    · by_cases h1 : x / 64 ∈ t
      · rw [if_pos ⟨h.1, h.2, h1⟩, if_pos ⟨h.1, h.2, List.mem_cons_of_mem _ h1⟩]
      · rw [if_neg (fun c => h1 c.2.2)]
        simp only [List.mem_cons, h1, or_false]
    · rw [if_neg (fun c => h ⟨c.1, c.2.1⟩), if_neg (fun c => h ⟨c.1, c.2.1⟩), if_neg (fun c => h ⟨c.1, c.2.1⟩)]

theorem State.getD_wbSectors (core part x : Nat) (l : List Nat) (s : State) : getD (s.wbSectors core part l).mem x 0 =
    if x / 64 ∈ l then (s.owes core part x).getD (getD s.mem x 0) else getD s.mem x 0 := by
  induction l generalizing s with
  | nil => simp [State.wbSectors]
  | cons a t ih =>
    rw [State.wbSectors_cons, ih, State.owes_wbSector, State.getD_wbSector]
    by_cases ha : x / 64 = a
    · simp [ha]
    · simp [ha]

theorem State.dirty_of_owes {s : State} {core part x : Nat} {b : Byte} (h : s.owes core part x = some b) :
    x / 64 ∈ s.dirtySectors core part := by
  obtain ⟨e, he, hm⟩ := Option.bind_eq_some_iff.1 h
  have hp := List.find?_some he
  simp only [Bool.and_eq_true, beq_iff_eq] at hp
  have hne : e.mask ≠ 0 := fun hz => by
    rw [hz] at hm
    simp at hm
  refine List.mem_map.2 ⟨e, List.mem_filter.2 ⟨List.mem_of_find?_eq_some he, ?_⟩, hp.2⟩
  rw [hp.1, beq_self_eq_true, Bool.true_and, bne_iff_ne]
  exact hne

/-- All dirty bytes of a partition's L1 reach memory, and it owes nothing more. -/
theorem State.getD_wbAll (s : State) (core part x : Nat) :
    getD (s.wbAll core part).mem x 0 = (s.owes core part x).getD (getD s.mem x 0) := by
  rw [State.wbAll, State.getD_wbSectors]
  split
  · rfl
  · next h =>
    cases ho : s.owes core part x with
    | none => rfl
    | some b => exact absurd (State.dirty_of_owes ho) h

theorem State.owes_wbAll (s : State) (core part j q x : Nat) :
    (s.wbAll core part).owes j q x = if j = core ∧ q = part then none else s.owes j q x := by
  rw [State.wbAll, State.owes_wbSectors]
  by_cases h : j = core ∧ q = part
  · rw [if_pos h]
    split
    · rfl
    · next hn =>
      cases ho : s.owes j q x with
      | none => rfl
      | some b =>
        obtain ⟨rfl, rfl⟩ := h
        exact absurd ⟨rfl, rfl, State.dirty_of_owes ho⟩ hn
  · rw [if_neg (fun c => h ⟨c.1, c.2.1⟩), if_neg h]

/-- The L1s of several partitions are written back: a byte that none of them owes stays, and any other becomes one of theirs. -/
theorem State.getD_foldl_wbAll (core x : Nat) (l : List Nat) (s : State) :
    (∃ q ∈ l, s.owes core q x = some (getD (l.foldl (fun s p => s.wbAll core p) s).mem x 0)) ∨
      ((∀ q ∈ l, s.owes core q x = none) ∧ getD (l.foldl (fun s p => s.wbAll core p) s).mem x 0 = getD s.mem x 0) := by
  induction l generalizing s with
  | nil => exact Or.inr ⟨fun _ h => (nomatch h), rfl⟩
  | cons p t ih =>
    have hp : ∀ q, (s.wbAll core p).owes core q x = if q = p then none else s.owes core q x := fun q => by
      rw [State.owes_wbAll]
      simp only [true_and]
    rw [List.foldl_cons]
    obtain ⟨q, hq, ho⟩ | ⟨hn, hm⟩ := ih (s.wbAll core p)
    · rw [hp] at ho
      split at ho
      · exact nomatch ho
      · exact Or.inl ⟨q, List.mem_cons_of_mem _ hq, ho⟩
    · rw [hm, State.getD_wbAll]
      cases ho : s.owes core p x with
      | some b => exact Or.inl ⟨p, List.mem_cons_self, ho⟩
      | none =>
        refine Or.inr ⟨fun q hq => ?_, rfl⟩
        obtain rfl | hq := List.mem_cons.1 hq
        · exact ho
        · have := hn q hq
          rw [hp] at this
          split at this
          · next h => rw [h, ho]
          · exact this

/-- The state in which a core's L1s have been written back. -/
def State.coreWritten (s : State) (core : Nat) : State := (List.range Config.parts).foldl (fun s p => s.wbAll core p) s

theorem State.coreWritten_steady (s : State) (core : Nat) : (s.coreWritten core).steady = s.steady :=
  foldl_steady _ (fun _ _ => State.wbAll_steady ..) _ _

theorem State.coreWritten_home (s : State) (core : Nat) : s.AllHome (s.coreWritten core) (fun c q _ => c = core ∧ q < Config.parts) := by
  intro x
  obtain ⟨q, hq, ho⟩ | ⟨hn, hm⟩ := State.getD_foldl_wbAll core x (List.range Config.parts) s
  · obtain ⟨e, he, hb⟩ := Option.bind_eq_some_iff.1 ho
    split at hb
    · next hmask => exact Or.inl ⟨core, q, e, he, ⟨rfl, List.mem_range.1 hq⟩, hmask, (Option.some.inj hb).symm⟩
    · exact nomatch hb
  · refine Or.inr ⟨?_, hm⟩
    rintro c q e he ⟨rfl, hq⟩
    have := hn q (List.mem_range.2 hq)
    rw [State.owes, he, Option.bind_some] at this
    split at this
    · exact nomatch this
    · next h => exact Bool.eq_false_iff.2 h

/-! ### A core's unit is swapped -/

/-- The swap of a unit is over. -/
def State.swapDone (s : State) (u : SpareUnit) : State :=
  { s with svc := { s.svc with swapping := s.svc.swapping.filter (fun x => x != u) } }

/-- A core's caches and its damaged words go with the old unit. -/
def State.coreLeft (s : State) (n : Nat) : State :=
  ({ s with svc := { s.svc with
    badBank := s.svc.badBank.filter (fun b => b / 0x180000 != n)
    badOper := s.svc.badOper.filter (fun x => x.1 != n) } } : State).modCore n (fun k => { k with l1 := [], tlb := [], rel := [] })

theorem execSpareSwapComplete_core {s : State} {n : Nat} (h : SpareUnit.core n ∈ s.svc.swapping) (he : s.coreEmpty n = true) :
    execSpareSwapComplete (.core n) s = .next (((s.coreWritten n).coreLeft n).swapDone (.core n)) := by
  have h1 : ¬ (!s.svc.swapping.contains (.core n)) = true := by simp [h]
  have h2 : ¬ (!s.coreEmpty n) = true := by simp [he]
  unfold execSpareSwapComplete State.coreWritten
  generalize List.range Config.parts = l
  rw [if_neg h1]
  dsimp only
  rw [if_neg h2]
  rfl

theorem execSpareSwapComplete_other {s : State} {u : SpareUnit} (h : u ∈ s.svc.swapping) (hu : ∀ n, u ≠ .core n) :
    execSpareSwapComplete u s = .next (s.swapDone u) := by
  unfold execSpareSwapComplete
  rw [List.contains_iff_mem.2 h]
  cases u with
  | core n => exact absurd rfl (hu n)
  | _ => rfl

theorem spareSwapComplete_leaves {s : State} {u : SpareUnit} (h : u ∈ s.svc.swapping)
    (he : ∀ n, u = .core n → s.coreEmpty n = true) : Gives (exec (.spareSwapComplete u) s) (fun t =>
      t.svc.swapping = s.svc.swapping.filter (fun x => x != u) ∧ s.SameRegs t ∧
      ((∀ n, u ≠ .core n) → t.mem = s.mem) ∧
      ∀ n, u = .core n → (t.core n).l1 = [] ∧ (t.core n).tlb = [] ∧ (t.core n).rel = [] ∧
        s.AllHome t (fun c q _ => c = n ∧ q < Config.parts)) := by
  by_cases hu : ∀ n, u ≠ .core n
  · exact ⟨_, execSpareSwapComplete_other h hu, rfl, fun _ => ⟨rfl, rfl, rfl⟩, fun _ => rfl, fun n hn => absurd hn (hu n)⟩
  · obtain ⟨n, rfl⟩ : ∃ n, u = .core n := by simpa using hu
    have hs := s.coreWritten_steady n
    have hh := s.coreWritten_home n
    refine ⟨_, execSpareSwapComplete_core h (he n rfl), ?_⟩
    generalize s.coreWritten n = w at hs hh
    have hw : w.svc.swapping = s.svc.swapping := congrArg (fun x : Steady => x.svc.swapping) hs
    refine ⟨congrArg (List.filter _) hw, sameRegs_of_steady (t := w) hs, fun c => absurd rfl (c n), ?_⟩
    rintro m hm
    obtain rfl := SpareUnit.core.inj hm
    have hc : (w.coreLeft n).core n = { w.core n with l1 := [], tlb := [], rel := [] } := by
      rw [State.coreLeft, State.core_modCore, if_pos rfl]
      rfl
    exact ⟨congrArg Core.l1 hc, congrArg Core.tlb hc, congrArg Core.rel hc, hh⟩

end Sys2Proof.Machine
end

section
/-! PROOF. Cores that are gated and woken (R443). -/

namespace Sys2Proof.Machine

/-! ### What is known of cohorts and cores -/

/-- A core without the time since when it meets the conditions of gating. -/
def Core.unquiet (k : Core) : Core := { k with quiet := none }

/-- What bringing up to date what cohorts and cores wait for leaves. -/
structure State.NotedOnly (s t : State) : Prop where
  bytes : t.bytes = s.bytes
  blocks : t.blocks = s.blocks
  cohorts : ∀ c, (look t.cohorts c).map Cohort.kept = (look s.cohorts c).map Cohort.kept
  cores : ∀ k, (t.core k).unquiet = (s.core k).unquiet

theorem State.NotedOnly.refl (s : State) : s.NotedOnly s := ⟨rfl, rfl, fun _ => rfl, fun _ => rfl⟩

theorem State.NotedOnly.trans {s t u : State} (h : s.NotedOnly t) (k : t.NotedOnly u) : s.NotedOnly u :=
  ⟨k.bytes.trans h.bytes, k.blocks.trans h.blocks, fun c => (k.cohorts c).trans (h.cohorts c), fun c => (k.cores c).trans (h.cores c)⟩

theorem State.NotedOnly.regs {s t : State} (h : s.NotedOnly t) : s.SameRegs t := fun j => by
  have hk : (t.coh j).kept = (s.coh j).kept := by
    have e : ∀ o : Option Cohort, (o.getD .blank).kept = (o.map Cohort.kept).getD Cohort.blank.kept := fun o => by cases o <;> rfl
    rw [State.coh, getD, e, h.cohorts j, ← e]
    rfl
  exact ⟨congrArg (·.1.1) hk, congrArg (·.1.2.1) hk, congrArg (·.1.2.2) hk⟩

theorem State.modCoh_notedOnly (s : State) (c : Nat) {f : Cohort → Cohort} (hf : ∀ k, (f k).kept = k.kept) :
    s.NotedOnly (s.modCoh c f) := by
  refine ⟨rfl, rfl, fun j => ?_, fun _ => rfl⟩
  rw [look_modCoh]
  split
  · next h =>
    rw [h, Option.map_map]
    exact congrArg (Option.map · _) (funext hf)
  · rfl

theorem State.clearStall_notedOnly (s : State) (c : Nat) (m : LaneMask) : s.NotedOnly (s.clearStall c m) := by
  unfold State.clearStall
  dsimp only
  split
  · exact State.NotedOnly.refl s
  · have h : s.NotedOnly (s.modCoh c (fun k => { k with stalled := k.stalled &&& ~~~m })) :=
      State.modCoh_notedOnly _ _ fun _ => rfl
    exact ⟨h.bytes, h.blocks, h.cohorts, h.cores⟩

theorem State.noteCoh_notedOnly (s : State) (c : Nat) : s.NotedOnly (s.noteCoh c) := by
  unfold State.noteCoh
  dsimp only
  split
  · exact State.modCoh_notedOnly _ _ fun _ => rfl
  · split
    · exact (State.modCoh_notedOnly s c (by exact fun _ => rfl)).trans (State.clearStall_notedOnly ..)
    · exact State.modCoh_notedOnly _ _ fun _ => rfl

theorem State.modCore_notedOnly (s : State) (k : Nat) (q : Option Nat) :
    s.NotedOnly (s.modCore k (fun c => { c with quiet := q })) := by
  refine ⟨rfl, rfl, fun _ => rfl, fun j => ?_⟩
  rw [State.core_modCore]
  split
  · next h =>
    rw [h]
    rfl
  · rfl

/-- Since when the core has met the conditions of gating, as it is noted now. -/
def State.quietNow (s : State) (core : Nat) : Option Nat :=
  if s.gateReady core then some ((s.core core).quiet.getD s.time) else none

theorem State.noteCore_quiet (s : State) (core : Nat) : ((s.noteCore core).core core).quiet = s.quietNow core := by
  show ((if s.quietNow core = (s.core core).quiet then s
    else s.modCore core (fun k => { k with quiet := s.quietNow core })).core core).quiet = _
  split
  · next h => exact h.symm
  · rw [State.core_modCore, if_pos rfl]

theorem State.noteCore_notedOnly (s : State) (core : Nat) : s.NotedOnly (s.noteCore core) := by
  show s.NotedOnly (if s.quietNow core = (s.core core).quiet then s
    else s.modCore core (fun k => { k with quiet := s.quietNow core }))
  split
  · exact State.NotedOnly.refl s
  · exact State.modCore_notedOnly ..

theorem State.noted_notedOnly (s : State) : s.NotedOnly s.noted := by
  refine foldl_invariant (fun t => s.NotedOnly t) ?_ fun t x h => h.trans (State.noteCore_notedOnly ..)
  exact foldl_invariant (fun t => s.NotedOnly t) (State.NotedOnly.refl s) fun t x h => h.trans (State.noteCoh_notedOnly ..)

theorem State.NotedOnly.cohCore {s t : State} (h : s.NotedOnly t) {c : Nat} {x y : Cohort} (ht : look t.cohorts c = some x)
    (hs : look s.cohorts c = some y) : t.cohCore c = s.cohCore c ∧ x.kept = y.kept := by
  have hk := h.cohorts c
  rw [ht, hs] at hk
  have hk : x.kept = y.kept := Option.some.inj hk
  have hb : x.block = y.block := congrArg (·.2.1.2) hk
  refine ⟨?_, hk⟩
  simp only [State.cohCore, State.cohBlk, State.coh, getD, ht, hs, Option.getD_some, State.blk, hb, h.blocks]

/-! ### Gating -/

/-- The state in which the gate's conditions are judged. -/
def State.gateJudged (s : State) (core : Nat) : State := (s.noted.noteCore core).tick

theorem State.gateJudged_notedOnly (s : State) (core : Nat) : s.NotedOnly (s.gateJudged core) :=
  (s.noted_notedOnly.trans (State.noteCore_notedOnly ..)).trans ⟨rfl, rfl, fun _ => rfl, fun _ => rfl⟩

/-- The resident cohorts of a core. -/
def State.residents (s : State) (core : Nat) : List (Nat × Cohort) :=
  s.cohorts.filter (fun e => s.cohCore e.1 == core && e.2.place == .resident && !e.2.isOver)

/-- The operand caches of some cohorts are written back. -/
def State.flushed (s : State) (l : List (Nat × Cohort)) : State := l.foldl (fun s e => s.modCoh e.1 Cohort.flushRegs) s

theorem State.flushed_notedOnly (s : State) (l : List (Nat × Cohort)) : s.NotedOnly (s.flushed l) :=
  foldl_invariant (fun t => s.NotedOnly t) (State.NotedOnly.refl s) fun _ _ h =>
    h.trans (State.modCoh_notedOnly _ _ fun _ => rfl)

theorem State.look_flushed (l : List (Nat × Cohort)) (s : State) {c : Nat} {x : Cohort} (h : look s.cohorts c = some x)
    (hc : c ∈ l.map Prod.fst) : look (s.flushed l).cohorts c = some { x with dirty := [] } := by
  have step : ∀ (l : List (Nat × Cohort)) (s : State) (y : Cohort), look s.cohorts c = some y → { y with dirty := [] } = y →
      look (s.flushed l).cohorts c = some y := by
    intro l
    induction l with
    | nil => exact fun _ _ h _ => h
    | cons e t ih =>
      intro s y h hy
      refine ih (s.modCoh e.1 Cohort.flushRegs) y ?_ hy
      rw [look_modCoh]
      split
      · next he => rw [← he, h]; exact congrArg some hy
      · exact h
  induction l generalizing s with
  | nil => exact nomatch hc
  | cons e t ih =>
    by_cases he : c = e.1
    · refine step t (s.modCoh e.1 Cohort.flushRegs) _ ?_ rfl
      rw [look_modCoh, if_pos he, ← he, h]
      rfl
    · have hc : c ∈ t.map Prod.fst := (List.mem_cons.1 hc).resolve_left he
      refine ih (s.modCoh e.1 Cohort.flushRegs) ?_ hc
      rw [look_modCoh, if_neg he, h]

theorem execCorePowerGate_eq {s : State} {core : Nat} (hc : core < Config.cores) (hg : (s.core core).gated = false) :
    execCorePowerGate core s = .next (
      if !((s.gateJudged core).core core).quiet.any (· + 50000 ≤ (s.gateJudged core).time) then s.gateJudged core
      else ((s.gateJudged core).flushed (s.residents core)).modCore core (fun k => { k with gated := true })) := by
  have h : ¬ (Config.cores ≤ core ∨ (s.core core).gated = true) := by
    rw [hg]
    exact fun h => h.elim (Nat.not_le.2 hc) (by decide)
  unfold execCorePowerGate
  dsimp only
  rw [if_neg h]
  rfl

/-- A core that has met the conditions for 50 µs is gated. -/
theorem corePowerGate_gates {s : State} {core : Nat} (hc : core < Config.cores) (hg : (s.core core).gated = false) {q : Nat}
    (hq : ((s.gateJudged core).core core).quiet = some q) (ht : q + 50000 ≤ (s.gateJudged core).time) :
    Gives (exec (.corePowerGate core) s) (fun t => (t.core core) = { (s.gateJudged core).core core with gated := true } ∧
      s.Still t ∧ t.mem = s.mem ∧
      ∀ c x, look (s.gateJudged core).cohorts c = some x → (s.gateJudged core).cohCore c = core → x.place = .resident →
        x.isOver = false → t.coh c = { x with dirty := [] }) := by
  have n := s.gateJudged_notedOnly core
  have hn : ¬ (!((s.gateJudged core).core core).quiet.any (· + 50000 ≤ (s.gateJudged core).time)) = true := by
    rw [hq]
    simpa using ht
  refine ⟨_, (execCorePowerGate_eq hc hg).trans (congrArg _ (if_neg hn)), ?_⟩
  generalize s.gateJudged core = v at n
  have f := v.flushed_notedOnly (s.residents core)
  have hb := (n.trans f).bytes
  have hcores : (v.flushed (s.residents core)).cores = v.cores :=
    foldl_invariant (fun t : State => t.cores = v.cores) rfl fun _ _ h => h
  refine ⟨?_, ⟨(n.trans f).regs, congrArg Prod.snd hb⟩, congrArg Prod.fst hb, fun c x hx hcore hp ho => ?_⟩
  · rw [State.core_modCore, if_pos rfl, State.core, hcores, ← State.core]
  · obtain ⟨y, hy⟩ : ∃ y, look s.cohorts c = some y := by
      have := n.cohorts c
      rw [hx] at this
      cases h : look s.cohorts c with
      | none => rw [h] at this; exact nomatch this
      | some y => exact ⟨y, rfl⟩
    obtain ⟨hcc, hk⟩ := n.cohCore hx hy
    have hp' : y.place = .resident := (congrArg (·.2.1.1) hk).symm.trans hp
    have ho' : y.isOver = false := (congrArg (·.2.2) hk).symm.trans ho
    have mem : c ∈ (s.residents core).map Prod.fst := by
      refine List.mem_map.2 ⟨(c, y), List.mem_filter.2 ⟨mem_of_look hy, ?_⟩, rfl⟩
      simp [← hcc, hcore, hp', ho']
    show getD (v.flushed (s.residents core)).cohorts c .blank = _
    rw [getD, State.look_flushed _ _ hx mem]
    rfl

/-- A core that has not met them for so long is not. -/
theorem corePowerGate_waits {s : State} {core : Nat} (hc : core < Config.cores) (hg : (s.core core).gated = false)
    (h : ∀ q, ((s.gateJudged core).core core).quiet = some q → (s.gateJudged core).time < q + 50000) :
    Gives (exec (.corePowerGate core) s) (fun t => t = s.gateJudged core) := by
  have hn : (!((s.gateJudged core).core core).quiet.any (· + 50000 ≤ (s.gateJudged core).time)) = true := by
    cases hq : ((s.gateJudged core).core core).quiet with
    | none => rfl
    | some q =>
      have := h q hq
      simpa using this
  exact ⟨_, (execCorePowerGate_eq hc hg).trans (congrArg _ (if_pos hn)), rfl⟩

theorem State.gateReady_false {s : State} {core : Nat} (h : (s.core core).rel ≠ [] ∨ ∃ o ∈ (s.core core).opt, o.2.busy = true) :
    s.gateReady core = false := by
  unfold State.gateReady
  obtain h | ⟨o, ho, hb⟩ := h
  · have : (s.core core).rel.isEmpty = false := by simpa using h
    rw [this, Bool.and_false, Bool.false_and]
  · have : (s.core core).opt.any (fun o => o.2.busy) = true := List.any_eq_true.2 ⟨o, ho, hb⟩
    rw [this, Bool.not_true, Bool.and_false]

/-- A release set or a command in flight keeps a core from being gated. -/
theorem corePowerGate_kept {s : State} {core : Nat} (hc : core < Config.cores) (hg : (s.core core).gated = false)
    (h : (s.core core).rel ≠ [] ∨ ∃ o ∈ (s.core core).opt, o.2.busy = true) :
    Gives (exec (.corePowerGate core) s) (fun t => (t.core core).gated = false ∧ (t.core core).quiet = none ∧ s.Still t ∧
      t.mem = s.mem) := by
  have n := s.gateJudged_notedOnly core
  have hq : ((s.gateJudged core).core core).quiet = none := by
    have hn := s.noted_notedOnly.cores core
    have hrel : (s.noted.core core).rel = (s.core core).rel :=
      show (s.noted.core core).unquiet.rel = (s.core core).unquiet.rel by rw [hn]
    have hopt : (s.noted.core core).opt = (s.core core).opt :=
      show (s.noted.core core).unquiet.opt = (s.core core).unquiet.opt by rw [hn]
    refine (State.noteCore_quiet s.noted core).trans (if_neg ?_)
    rw [State.gateReady_false (hrel ▸ hopt ▸ h)]
    exact Bool.false_ne_true
  obtain ⟨t, ht, rfl⟩ := corePowerGate_waits hc hg fun q h => by rw [hq] at h; exact nomatch h
  have hgate : ((s.gateJudged core).core core).gated = (s.core core).gated :=
    show ((s.gateJudged core).core core).unquiet.gated = (s.core core).unquiet.gated by rw [n.cores core]
  exact ⟨_, ht, hgate.trans hg, hq, ⟨n.regs, congrArg Prod.snd n.bytes⟩, congrArg Prod.fst n.bytes⟩

/-- A woken core loses nothing. -/
theorem coreWake_restores (s : State) (core : Nat) :
    Gives (exec (.coreWake core) s) (fun t => s.Still t ∧ t.mem = s.mem ∧ (∀ j, j ≠ core → t.core j = s.core j) ∧
      (t.core core) = if (s.core core).gated then { s.core core with
        gated := false
        quiet := none } else s.core core) := by
  refine ⟨s.wakeCore core, rfl, ?_⟩
  unfold State.wakeCore
  split
  · exact ⟨⟨fun _ => ⟨rfl, rfl, rfl⟩, rfl⟩, rfl, fun j hj => (State.core_modCore ..).trans (if_neg hj),
      (State.core_modCore ..).trans (if_pos rfl)⟩
  · exact ⟨⟨fun _ => ⟨rfl, rfl, rfl⟩, rfl⟩, rfl, fun _ _ => rfl, rfl⟩

end Sys2Proof.Machine
end

section
/-! PROOF. What a reset leaves (R18, R442, R445). -/

namespace Sys2Proof.Machine

/-- What the records of a self-test leave as it is. -/
def State.begun (s : State) : Ctl × List Host.Cell × List (Nat × Cohort) × List (Nat × Grid) × Fab × List (Nat × Vf) × List Nat :=
  (s.ctl, s.mem, s.cohorts, s.grids, s.fab, s.svc.vfs, s.svc.bad)

theorem State.tick_begun (s : State) : s.tick.begun = s.begun := rfl

theorem State.counted_begun (s : State) (kind unit : Byte) (source : BitVec 16) (n : Nat) :
    (s.counted kind unit source n).begun = s.begun :=
  show State.begun { s.tick with svc := { s.svc with corrected := _, failed := _ } } = _ from s.tick_begun

theorem State.logEnter_begun {s : State} (h : s.ctl.logRing = 0) {r : ErrRec} (hr : r.kind ≠ 2) (slot : Nat) :
    (s.logEnter r slot).begun = s.begun := by
  rw [State.logEnter_eq]
  dsimp only
  rw [if_neg (fun c => hr c.1), State.ringWrite, if_pos (show (s.withRec r slot).ctl.logRing = 0 from h)]
  rfl

theorem State.logPut_begun {s : State} (h : s.ctl.logRing = 0) {r : ErrRec} (hr : r.kind ≠ 2) : (s.logPut r).begun = s.begun := by
  unfold State.logPut
  dsimp only
  split
  · exact State.logEnter_begun h hr _
  · split
    · next x _ => exact (State.logEnter_begun (s := s.withLog (s.svc.log.filter (fun y => y.slot != x.slot))) h hr _)
    · rfl

theorem State.logError_begun {s : State} (h : s.ctl.logRing = 0) {kind : Byte} (hk : kind ≠ 2) (unit : Byte) (src : BitVec 16)
    (part : BitVec 5) (pa : BitVec 64) (n : Nat) : (s.logError kind unit src part pa n).begun = s.begun := by
  show (if (s.counted kind unit src n).svc.logWait.isEmpty then
      (s.counted kind unit src n).logPut (s.newRec kind unit src part pa n)
    else { s.counted kind unit src n with svc := { (s.counted kind unit src n).svc with
      logWait := (s.counted kind unit src n).svc.logWait ++ [s.newRec kind unit src part pa n] } }).begun = _
  refine Eq.trans ?_ (s.counted_begun kind unit src n)
  split
  · exact State.logPut_begun (s := s.counted kind unit src n) h hk
  · rfl

/-- The state with other numbers of spares in use. -/
def State.withSpares (s : State) (l : List (Nat × Nat)) : State := { s with svc := { s.svc with spares := l } }

theorem State.selfTest_begun {s : State} (h : s.ctl.logRing = 0) (u : SpareUnit) : (s.selfTest u).begun = s.begun := by
  unfold State.selfTest
  dsimp only
  split
  · rfl
  · split
    · exact State.logError_begun (kind := 4) h (by decide) ..
    · exact State.logError_begun (s := s.withSpares (put s.svc.spares (sparePool u).1 (getD s.svc.spares (sparePool u).1 0 + 1) 0))
        (kind := 3) h (by decide) ..

theorem State.foldl_selfTest_begun {s : State} (h : s.ctl.logRing = 0) (l : List SpareUnit) :
    (l.foldl State.selfTest s).begun = s.begun := by
  refine foldl_invariant (fun t : State => t.begun = s.begun) rfl fun t u ht => ?_
  have hc : t.ctl = s.ctl := congrArg Prod.fst ht
  exact (State.selfTest_begun (by rw [hc]; exact h) u).trans ht

/-- The state in which the self-test of a package begins. -/
def State.resetBegun (s : State) (pkg : Nat) (ports : BitVec 18) : State := { State.reset with
  ctl := { Ctl.reset with
    pkg := pkg
    domain := s.ctl.domain
    epoch := s.time
    dtid := s.ctl.dtid.filter (fun e => e.1 / 65536 != pkg) }
  mem := s.mem
  own := s.own.filter (fun e => !(e.1 / 2 ^ 21 == pkg))
  fab := ⟨ports, [], []⟩
  svc := { State.reset.svc with bad := s.svc.bad, out := s.svc.out, spares := s.svc.spares }
  agenda := s.agenda
  time := s.time
  fresh := s.fresh }

/-- READY rises; a package without a spare that it needs is degraded. -/
def State.raised (s t : State) : State :=
  { t with ctl := { t.ctl with ready := true, degraded := t.svc.failed || s.svc.failed || !s.svc.retire.isEmpty } }

theorem execReset_eq {s : State} {pkg : Nat} (h : pkg < s.ctl.domain) (ports : BitVec 18) (failed : List SpareUnit) :
    execReset pkg ports failed s = .next (s.raised (failed.foldl State.selfTest (s.resetBegun pkg ports))) := by
  unfold execReset
  rw [if_neg (Nat.not_le.2 h)]
  rfl

theorem capability_of_full {t : State} (ready : t.ctl.ready = true) (pkg : t.ctl.pkg = 0) (domain : t.ctl.domain = 576)
    (degraded : t.ctl.degraded = false) (ports : t.fab.ports = 0x3FFFF#18) :
    t.capability0 = 0x0000041808120101#64 ∧ t.capability1 = 0x00A0020006000240#64 := by
  have count : t.portCount = 18 := by
    rw [State.portCount, ports]
    decide
  constructor
  · simp only [State.capability0, ready, degraded, count, pkg]
    decide
  · simp only [State.capability1, ready, domain]
    decide

/-- A spare comes in for a unit that the self-test finds failed, or the package is degraded. -/
theorem State.selfTest_one {s : State} (hl : s.svc.log = []) (hw : s.svc.logWait = []) (hq : s.svc.logSeq = 0) {u : SpareUnit}
    (here : unitHere u = true) :
    let left := getD s.svc.spares (sparePool u).1 0 < (sparePool u).2.1
    let t := s.selfTest u
    (∃ e, t.svc.log = [e] ∧ e.kind = (if left then 3 else 4) ∧ e.unit = BitVec.ofNat 8 (sparePool u).2.2.1 ∧
      e.source = BitVec.ofNat 16 (sparePool u).2.2.2 ∧ e.part = 31 ∧ e.seq = 0) ∧
    getD t.svc.spares (sparePool u).1 0 = getD s.svc.spares (sparePool u).1 0 + (if left then 1 else 0) ∧
    t.svc.failed = (s.svc.failed || !decide left) := by
  have room : ∀ d : State, d.svc.log = [] → d.svc.logWait = [] → d.LogRoom := fun d h k => by
    refine ⟨?_, k⟩
    rw [h]
    decide
  have logs : ∀ (d : State) (kind : Byte), d.svc.log = [] → d.svc.logWait = [] → d.svc.logSeq = 0 →
      let t := d.logError kind (BitVec.ofNat 8 (sparePool u).2.2.1) (BitVec.ofNat 16 (sparePool u).2.2.2) 31 0 0
      (∃ e, t.svc.log = [e] ∧ e.kind = kind ∧ e.unit = BitVec.ofNat 8 (sparePool u).2.2.1 ∧
        e.source = BitVec.ofNat 16 (sparePool u).2.2.2 ∧ e.part = 31 ∧ e.seq = 0) ∧ t.svc.spares = d.svc.spares ∧
      t.svc.failed = (d.svc.failed || kind == 4) := fun d kind h k q => by
    obtain ⟨-, e, he, ⟨_, -, -, hk, hu, hs, hp, -⟩, hseq, -⟩ := State.logError_logged (room d h k) kind
      (BitVec.ofNat 8 (sparePool u).2.2.1) (BitVec.ofNat 16 (sparePool u).2.2.2) 31 0 0
    rw [h] at he
    exact ⟨⟨e, he, hk, hu, hs, hp, hseq.trans q⟩, (State.logError_spares (room d h k) ..).2.1, State.logError_failed (room d h k) ..⟩
  unfold State.selfTest
  dsimp only
  rw [if_neg (by rw [here]; decide)]
  by_cases left : getD s.svc.spares (sparePool u).1 0 < (sparePool u).2.1
  · rw [if_neg (Nat.not_le.2 left)]
    simp only [left, if_true]
    obtain ⟨he, hs, hf⟩ := logs (s.withSpares (put s.svc.spares (sparePool u).1 (getD s.svc.spares (sparePool u).1 0 + 1) 0)) 3 hl hw hq
    exact ⟨he, (congrArg (getD · (sparePool u).1 0) hs).trans
      (getD_put_same s.svc.spares (sparePool u).1 (getD s.svc.spares (sparePool u).1 0 + 1) 0), hf⟩
  · rw [if_pos (Nat.not_lt.1 left)]
    simp only [left, if_false]
    obtain ⟨he, hs, hf⟩ := logs s 4 hl hw hq
    exact ⟨he, by rw [hs]; rfl, hf⟩

theorem reset_leaves (s : State) (u : SpareUnit) {pkg : Nat} (h : pkg < s.ctl.domain) (ports : BitVec 18) (failed : List SpareUnit) :
    Gives (exec (.reset pkg ports failed) s) (fun t =>
      t.ctl.pkg = pkg ∧ t.ctl.ready = true ∧ t.fab.ports = ports ∧
      (∀ n, t.tctxEn n = false) ∧ (∀ p, pte (t.pctlOf p) 7 1 = 0) ∧ (∀ n, (t.vf n).featuresOk = false) ∧ t.cohorts = [] ∧
      t.grids = [] ∧ t.mem = s.mem ∧ t.svc.bad = s.svc.bad ∧
      (failed = [] → t.svc.spares = s.svc.spares ∧ t.svc.log = [] ∧ t.time = s.time ∧
        t.ctl.degraded = (s.svc.failed || !s.svc.retire.isEmpty)) ∧
      (failed = [u] → unitHere u = true →
        let left := getD s.svc.spares (sparePool u).1 0 < (sparePool u).2.1
        (∃ e, t.svc.log = [e] ∧ e.kind = (if left then 3 else 4) ∧ e.unit = BitVec.ofNat 8 (sparePool u).2.2.1 ∧
          e.source = BitVec.ofNat 16 (sparePool u).2.2.2 ∧ e.part = 31 ∧ e.seq = 0) ∧
        getD t.svc.spares (sparePool u).1 0 = getD s.svc.spares (sparePool u).1 0 + (if left then 1 else 0) ∧
        t.ctl.degraded = (!decide left || s.svc.failed || !s.svc.retire.isEmpty)) ∧
      (pkg = 0 → s.ctl.domain = 576 → t.ctl.degraded = false → ports = 0x3FFFF#18 →
        t.capability0 = 0x0000041808120101#64 ∧ t.capability1 = 0x00A0020006000240#64)) := by
  refine ⟨_, execReset_eq h ports failed, ?_⟩
  have hb : (failed.foldl State.selfTest (s.resetBegun pkg ports)).begun = (s.resetBegun pkg ports).begun :=
    State.foldl_selfTest_begun rfl failed
  have none : failed = [] → failed.foldl State.selfTest (s.resetBegun pkg ports) = s.resetBegun pkg ports := fun h => by rw [h]; rfl
  have one : failed = [u] → failed.foldl State.selfTest (s.resetBegun pkg ports) = (s.resetBegun pkg ports).selfTest u :=
    fun h => by rw [h]; rfl
  generalize failed.foldl State.selfTest (s.resetBegun pkg ports) = t at hb none one
  simp only [State.begun, Prod.mk.injEq] at hb
  obtain ⟨hctl, hmem, hcoh, hgrd, hfab, hvfs, hbad⟩ := hb
  have tctx : (s.raised t).ctl.tctx = [] := congrArg Ctl.tctx hctl
  have pctl : (s.raised t).ctl.pctl = [] := congrArg Ctl.pctl hctl
  have vfs : (s.raised t).svc.vfs = [] := hvfs
  refine ⟨congrArg Ctl.pkg hctl, rfl, congrArg Fab.ports hfab, fun n => ?_, fun p => ?_, fun n => ?_, hcoh, hgrd, hmem, hbad, fun h => ?_,
    fun h here => ?_, fun hp hd hdeg hports => ?_⟩
  · rw [State.tctxEn, State.tctxOf, tctx]
    exact Bool.and_eq_false_iff.2 (Or.inl (show (pte (0#64).toNat 0 1 == 1) = false by decide))
  · rw [State.pctlOf, pctl]
    show pte (0x0003E800#32).toNat 7 1 = 0
    decide
  · rw [State.vf, vfs]
    rfl
  · rw [none h]
    exact ⟨rfl, rfl, rfl, rfl⟩
  · rw [one h]
    obtain ⟨he, hs, hf⟩ := State.selfTest_one (s := s.resetBegun pkg ports) rfl rfl rfl here
    refine ⟨he, hs, ?_⟩
    show (((s.resetBegun pkg ports).selfTest u).svc.failed || s.svc.failed || !s.svc.retire.isEmpty) = _
    rw [hf]
    rfl
  · exact capability_of_full rfl ((congrArg Ctl.pkg hctl).trans hp) ((congrArg Ctl.domain hctl).trans hd) hdeg
      ((congrArg Fab.ports hfab).trans hports)

end Sys2Proof.Machine
end

section
/-! PROOF. The end of a region's move (R86), and O54. -/

namespace Sys2Proof.Machine

/-! ### A frame that nothing on its way touches -/

/-- Where no engine writes and no L1 sectors lie in a frame, clearing it leaves memory as it is. -/
theorem State.clearFrame_mem {s : State} {f : Nat} (ewr : s.ewr = []) (l1 : ∀ c ∈ s.cores, ∀ x ∈ c.2.l1, x.sector / 2 ^ 15 ≠ f) :
    (s.clearFrame f).bytes = s.bytes := by
  have drain : ∀ p, (s.drainWrites p).bytes = s.bytes ∧ (s.drainWrites p).cores = s.cores := fun p => by
    unfold State.drainWrites
    rw [ewr]
    exact ⟨rfl, rfl⟩
  have caches : ∀ (l : List (Nat × Core)), (∀ c ∈ l, ∀ x ∈ c.2.l1, x.sector / 2 ^ 15 ≠ f) → ∀ t : State,
      l.foldl (fun s e => (((e.2.l1.filter (fun x => x.sector / 2 ^ 15 == f)).map (fun x => (x.part, x.sector)))).foldl
        (fun s x => s.wbDrop e.1 x.1 [x.2]) s) t = t := by
    intro l
    induction l with
    | nil => exact fun _ _ => rfl
    | cons e l ih =>
      intro h t
      have he : e.2.l1.filter (fun x => x.sector / 2 ^ 15 == f) = [] :=
        List.filter_eq_nil_iff.2 fun x hx => by simpa using h e List.mem_cons_self x hx
      rw [List.foldl_cons, he]
      exact ih (fun c hc => h c (List.mem_cons_of_mem _ hc)) t
  unfold State.clearFrame
  dsimp only
  rw [caches _ (by rw [(drain _).2]; exact l1)]
  simp [drain]

/-- A cell of a copied frame. -/
theorem look_filter_key {α : Type} (p : Nat → Bool) (m : List (Nat × α)) (k : Nat) :
    look (m.filter (fun c => p c.1)) k = if p k then look m k else none := by
  induction m with
  | nil => simp [look]
  | cons e t ih =>
    rw [List.filter_cons]
    by_cases he : k = e.1
    · subst he
      by_cases hp : p e.1 = true
      · rw [if_pos hp]
        simp [look, hp]
      · rw [if_neg hp, ih, if_neg hp, if_neg hp]
    · have hl : look (e :: t) k = look t k := if_neg he
      rw [hl, ← ih]
      split
      · exact if_neg he
      · rfl

theorem look_append {α : Type} (m n : List (Nat × α)) (k : Nat) : look (m ++ n) k = (look m k).or (look n k) := by
  induction m with
  | nil => rfl
  | cons e t ih =>
    rw [List.cons_append]
    by_cases he : k = e.1
    · simp [look, he]
    · simp only [look, if_neg he]
      exact ih

theorem look_shift {α : Type} (m : List (Nat × α)) (g : Nat → Nat) {k j : Nat} (hm : ∀ c ∈ m, k = g c.1 ↔ j = c.1) :
    look (m.map (fun c => (g c.1, c.2))) k = look m j := by
  induction m with
  | nil => rfl
  | cons e t ih =>
    have h := hm e List.mem_cons_self
    have ih := ih fun c hc => hm c (List.mem_cons_of_mem _ hc)
    rw [List.map_cons]
    by_cases he : j = e.1
    · have hk : k = g e.1 := h.2 he
      simp only [look]
      rw [if_pos hk, if_pos he]
    · have hk : ¬ k = g e.1 := fun c => he (h.1 c)
      simp only [look]
      rw [if_neg hk, if_neg he, ih]

theorem look_absent {α : Type} {m : List (Nat × α)} {k : Nat} (h : ∀ c ∈ m, k ≠ c.1) : look m k = none := by
  cases hl : look m k with
  | none => rfl
  | some v => exact absurd rfl (h _ (mem_of_look hl))

/-- Some cells replace those of a range. -/
theorem look_replaced (m : List Host.Cell) (o n z x : Nat) :
    look (m.filter (fun c => c.1 < n) ++ (m.filter (fun c => o ≤ c.1 && c.1 < o + z)).map (fun c => (n + (c.1 - o), c.2)) ++
      m.filter (fun c => n + z ≤ c.1)) x = if n ≤ x ∧ x < n + z then look m (o + (x - n)) else look m x := by
  have low := look_filter_key (fun a => decide (a < n)) m x
  have high := look_filter_key (fun a => decide (n + z ≤ a)) m x
  have mid := look_filter_key (fun a => decide (o ≤ a) && decide (a < o + z)) m
  have within : ∀ c ∈ m.filter (fun c => decide (o ≤ c.1) && decide (c.1 < o + z)), o ≤ c.1 ∧ c.1 < o + z := fun c hc => by
    simpa using (List.mem_filter.1 hc).2
  rw [look_append, look_append, low, high]
  by_cases hx : n ≤ x ∧ x < n + z
  · rw [if_pos hx, look_shift _ (fun a => n + (a - o)) (j := o + (x - n)) (fun c hc => by have := within c hc; omega), mid]
    have h1 : ¬ x < n := by omega
    have h2 : ¬ n + z ≤ x := by omega
    have h3 : x - n < z := by omega
    simp [h1, h2, h3]
  · rw [if_neg hx, look_absent (m := List.map _ _)]
    · by_cases h1 : x < n
      · have h2 : ¬ n + z ≤ x := by omega
        simp [h1, h2]
      · have h2 : n + z ≤ x := by omega
        simp [h1, h2]
    · intro c hc
      obtain ⟨e, he, rfl⟩ := List.mem_map.1 hc
      have := within e he
      dsimp only
      omega

/-- The new frame reads as the old one did, and every other byte as before. -/
theorem getD_copyFrame (m : List Host.Cell) (old new x : Nat) : getD (copyFrame m old new) x 0 =
    if new * 2 ^ 21 ≤ x ∧ x < new * 2 ^ 21 + 2 ^ 21 then getD m (old * 2 ^ 21 + (x - new * 2 ^ 21)) 0 else getD m x 0 := by
  unfold getD copyFrame
  dsimp only
  rw [look_replaced]
  split <;> rfl

/-! ### Leaves of a moved frame -/

/-- What a leaf of a frame that has moved becomes. -/
def movedLeaf (m : Move) (e : Nat) : Nat :=
  pte e 0 8 + (if m.promote then 0 else 1) * 2 ^ 8 + pte e 10 6 * 2 ^ 10 + (m.new * 32 + pte e 16 5) * 2 ^ 16 + pte e 53 11 * 2 ^ 53

theorem movedLeaf_fields {m : Move} (hm : m.new < 2 ^ 31) (e : Nat) : let q := movedLeaf m e % 2 ^ 64
    pte q 52 1 = 0 ∧ pte q 8 2 = (if m.promote then 0 else 1) ∧ pte q 16 5 = pte e 16 5 ∧ pte q 21 31 = m.new ∧ pte q 0 8 = pte e 0 8 := by
  have h0 : pte e 0 8 < 256 := Nat.mod_lt _ (by decide)
  have h1 : pte e 10 6 < 64 := Nat.mod_lt _ (by decide)
  have h2 : pte e 16 5 < 32 := Nat.mod_lt _ (by decide)
  have h3 : pte e 53 11 < 2048 := Nat.mod_lt _ (by decide)
  have h4 : (if m.promote then 0 else 1) < 2 := by split <;> decide
  unfold movedLeaf
  generalize (if m.promote then 0 else 1) = b at h4
  generalize pte e 0 8 = a at h0
  generalize pte e 10 6 = c at h1
  generalize pte e 16 5 = d at h2
  generalize pte e 53 11 = f at h3
  simp only [pte]
  omega

/-- The leaves of a frame that has moved are written anew. -/
def State.leavesMoved (s : State) (m : Move) (l : List Nat) : State :=
  l.foldl (fun s a => s.homeWrite a 8 (movedLeaf m (getBytes s.mem a 8)) none) s

theorem State.leavesMoved_steady (s : State) (m : Move) (l : List Nat) : (s.leavesMoved m l).steady = s.steady :=
  foldl_steady _ (fun _ _ => State.homeWrite_steady ..) _ _

theorem State.getD_leavesMoved (m : Move) (l : List Nat) (s : State) {x : Nat} (h : ∀ a ∈ l, x < a ∨ a + 8 ≤ x) :
    getD (s.leavesMoved m l).mem x 0 = getD s.mem x 0 := by
  induction l generalizing s with
  | nil => rfl
  | cons a l ih =>
    refine (ih _ fun a ha => h a (List.mem_cons_of_mem _ ha)).trans ?_
    rw [State.homeWrite_mem, getD_putBytes_outside _ (h a List.mem_cons_self)]

/-! ### Launches and swaps that have nothing to do -/

theorem State.retryLate_idle {s : State} (h : s.late = []) : s.retryLate = s := by
  unfold State.retryLate
  rw [h, List.foldl_nil, ← h]

theorem State.tierRun_idle {s : State} (h : s.tier.swaps = []) : s.tierRun = s := by
  have hf : (List.range 16).foldl (fun s _ => s.tier.swaps.foldl (fun s w => if s.swapen w.part then s.swapStep w else s) s) s = s :=
    foldl_invariant (fun t => t = s) rfl fun t _ ht => by rw [ht, h, List.foldl_nil]
  unfold State.tierRun
  rw [hf]
  dsimp only
  rw [h, List.filter_nil, ← h]

theorem State.grd_mem (s : State) (k : Nat) : s.grd k = .blank ∨ (k, s.grd k) ∈ s.grids := by
  unfold State.grd getD
  cases h : look s.grids k with
  | none => exact Or.inl rfl
  | some g => exact Or.inr (mem_of_look h)

/-- A launch that runs or has ended is not taken on again. -/
theorem State.launchRun_idle {s : State}
    (h : ∀ e ∈ s.grids, e.2.state = .placing ∨ e.2.state = .running ∨ e.2.state = .draining ∨ e.2.state = .retired) :
    s.launchRun = s := by
  have st : ∀ k, (s.grd k).state = .placing ∨ (s.grd k).state = .running ∨ (s.grd k).state = .draining ∨
      (s.grd k).state = .retired := fun k => by
    obtain hb | hm := s.grd_mem k
    · rw [hb]
      exact Or.inr (Or.inr (Or.inr rfl))
    · exact h _ hm
  have step : ∀ k, s.stepLaunch k = s := fun k => by
    unfold State.stepLaunch
    obtain hk | hk | hk | hk := st k <;> simp [hk]
  have letIn : ∀ k, s.letIn k = s := fun k => by
    have hk : (s.grd k).state ≠ .opwait := by obtain hk | hk | hk | hk := st k <;> rw [hk] <;> decide
    unfold State.letIn
    dsimp only
    rw [if_pos (Or.inl hk)]
  refine foldl_invariant (fun t => t = s) rfl fun t e ht => ?_
  subst ht
  refine foldl_invariant (fun u => u = t) ?_ fun u e hu => by rw [hu, letIn]
  exact foldl_invariant (fun u => u = t) rfl fun u e hu => by rw [hu, step]

/-! ### The end of a move -/

/-- The frame has been cleared, its bytes copied and its leaves written anew. -/
def State.moveCleared (s : State) (m : Move) : State :=
  ((s.clearFrame m.old).l2Drop m.old).chargeFrame m.reg.part (if m.promote then m.new else m.old)

def State.moveCopied (s : State) (m : Move) : State :=
  ({ s.moveCleared m with mem := copyFrame (s.moveCleared m).mem m.old m.new } : State).leavesMoved m
    ((s.moveCleared m).leavesOf m.reg.part m.old)

/-- Ownership, the tier engine and what holds addresses follow a move. -/
def State.moveFollowed (s : State) (k : Nat) (m : Move) : State := { s with
  own := del (set s.own m.new (getD s.own m.old .blank)) m.old
  svc := { s.svc with
    bad := s.svc.bad.filter (fun w => w / 2 ^ 21 != m.new) ++ (s.svc.bad.filter (fun w => w / 2 ^ 21 == m.old)).map m.at_
    loads := s.svc.loads.map (fun l => (l.1, l.2.moved m)) }
  queues := s.queues.map (fun q => (q.1, { q.2 with spillPages := q.2.spillPages.map m.at_ }))
  cores := s.cores.map (fun c => (c.1, { c.2 with
    rel := c.2.rel.map (fun t => { t with sector := m.at_ (64 * t.sector) / 64 })
    obuf := c.2.obuf.map (fun b => { b with pa := m.at_ b.pa })
    savedBuf := c.2.savedBuf.map (fun b => { b with pa := m.at_ b.pa }) }))
  tier := { s.tier with moves := del s.tier.moves k } }

theorem State.moveEnd_eq (s : State) (k : Nat) (m : Move) : s.moveEnd k m = ((s.moveCopied m).moveFollowed k m).retryLate := rfl

theorem controls_of_steady {s t : State} (h : t.steady = s.steady) : t.controls = s.controls := congrArg Steady.ctl h

theorem State.moveCleared_steady (s : State) (m : Move) : (s.moveCleared m).steady = s.steady :=
  (State.chargeFrame_steady ..).trans ((State.l2Drop_steady ..).trans (State.clearFrame_steady ..))

theorem State.moveCopied_steady (s : State) (m : Move) : (s.moveCopied m).steady = s.steady := by
  have h := s.moveCleared_steady m
  unfold State.moveCopied
  generalize s.moveCleared m = u at h
  exact (State.leavesMoved_steady ..).trans h

theorem State.tablesAt_congr {s t : State} (hm : t.mem = s.mem) (hc : t.controls = s.controls) :
    ∀ lvl a va, t.tablesAt lvl a va = s.tablesAt lvl a va
  | 0, _, _ => rfl
  | lvl + 1, a, va => by
    unfold State.tablesAt
    simp only [hm, State.norm_congr hc, State.tablesAt_congr hm hc lvl]

theorem State.leavesOf_congr {s t : State} (hm : t.mem = s.mem) (hc : t.controls = s.controls) (part f : Nat) :
    t.leavesOf part f = s.leavesOf part f := by
  have ht : t.ctl.tctx = s.ctl.tctx := show t.controls.tctx = s.controls.tctx by rw [hc]
  have hx : t.contextsOf part = s.contextsOf part := State.vfsOf_congr ht part
  have hn : ∀ n, t.tablesOf n = s.tablesOf n := fun n => by
    unfold State.tablesOf State.tctxOf
    rw [State.tablesAt_congr hm hc, ht, State.norm_congr hc]
  simp only [State.leavesOf, hx, hn, hm, State.norm_congr hc]

/-- What the bytes of a move depend on: nothing is on its way to the old frame. -/
structure State.MoveClear (s : State) (m : Move) : Prop where
  ewr : s.ewr = []
  l1 : ∀ c ∈ s.cores, ∀ x ∈ c.2.l1, x.sector / 2 ^ 15 ≠ m.old
  leaves : ∀ a ∈ s.leavesOf m.reg.part m.old, a / 2 ^ 21 ≠ m.old ∧ a / 2 ^ 21 ≠ m.new ∧ a % 8 = 0

theorem State.moveCopied_eq {s : State} {m : Move} (h : s.MoveClear m) : s.moveCopied m =
    ({ s.moveCleared m with mem := copyFrame s.mem m.old m.new } : State).leavesMoved m (s.leavesOf m.reg.part m.old) := by
  have hb : (s.moveCleared m).bytes = s.bytes :=
    (State.chargeFrame_bytes ..).trans ((State.l2Drop_bytes ..).trans (State.clearFrame_mem h.ewr h.l1))
  have hm : (s.moveCleared m).mem = s.mem := congrArg Prod.fst hb
  rw [State.moveCopied, State.leavesOf_congr hm (controls_of_steady (s.moveCleared_steady m)), hm]

theorem State.moveCopied_frame {s : State} {m : Move} (h : s.MoveClear m) {i : Nat} (hi : i < 2 ^ 21) :
    getD (s.moveCopied m).mem (m.new * 2 ^ 21 + i) 0 = getD s.mem (m.old * 2 ^ 21 + i) 0 := by
  have hx : m.new * 2 ^ 21 ≤ m.new * 2 ^ 21 + i ∧ m.new * 2 ^ 21 + i < m.new * 2 ^ 21 + 2 ^ 21 := by omega
  rw [State.moveCopied_eq h, State.getD_leavesMoved]
  · have hc := getD_copyFrame s.mem m.old m.new (m.new * 2 ^ 21 + i)
    rw [if_pos hx, Nat.add_sub_cancel_left] at hc
    exact hc
  · intro a ha
    obtain ⟨-, h1, h2⟩ := h.leaves a ha
    omega

theorem State.moveCopied_leaf {s : State} {m : Move} (h : s.MoveClear m) {a : Nat} (ha : s.leavesOf m.reg.part m.old = [a]) :
    getBytes (s.moveCopied m).mem a 8 = movedLeaf m (getBytes s.mem a 8) % 2 ^ 64 := by
  obtain ⟨-, h1, h2⟩ := h.leaves a (by rw [ha]; exact List.mem_singleton.2 rfl)
  have hg : getBytes (copyFrame s.mem m.old m.new) a 8 = getBytes s.mem a 8 := getBytes_congr fun i hi => by
    rw [getD_copyFrame, if_neg (by omega)]
  rw [State.moveCopied_eq h, ha]
  show getBytes (State.homeWrite _ a 8 (movedLeaf m (getBytes (copyFrame s.mem m.old m.new) a 8)) none).mem a 8 = _
  rw [State.homeWrite_mem, getBytes_putBytes, hg]

/-- What is left to do once a move has ended, where no swap is in progress and no launch waits: nothing. -/
theorem execRegionMoveComplete_idle {s : State} {k : Nat} {m : Move} (hm : look s.tier.moves k = some m) (hb : s.frameBusy m.old = false)
    (swaps : s.tier.swaps = []) (late : s.late = [])
    (grids : ∀ e ∈ s.grids, e.2.state = .placing ∨ e.2.state = .running ∨ e.2.state = .draining ∨ e.2.state = .retired) :
    execRegionMoveComplete k s = .next ((s.moveCopied m).moveFollowed k m) := by
  have hs := s.moveCopied_steady m
  have hl : ((s.moveCopied m).moveFollowed k m).late = [] := (congrArg Steady.late hs).trans late
  have hw : ((s.moveCopied m).moveFollowed k m).tier.swaps = [] := (congrArg (fun x : Steady => x.tier.swaps) hs).trans swaps
  have hg : ((s.moveCopied m).moveFollowed k m).grids = s.grids := congrArg Steady.grids hs
  have he := (s.moveEnd_eq k m).trans (State.retryLate_idle hl)
  unfold execRegionMoveComplete
  rw [hm]
  dsimp only
  rw [if_neg (by rw [hb]; decide), he]
  generalize (s.moveCopied m).moveFollowed k m = t at hw hg
  have hf : ({ t with tier := { t.tier with swaps := t.tier.swaps.filter (fun w => !(w.demand && w.part == m.reg.part)) } } : State) = t := by
    rw [hw, List.filter_nil, ← hw]
  rw [hf, ite_self, State.tierRun_idle hw, State.launchRun_idle (by rw [hg]; exact grids)]

theorem regionMoveComplete_moves {s : State} {k : Nat} {m : Move} (hm : look s.tier.moves k = some m) (ne : m.old ≠ m.new)
    (hn : m.new < 2 ^ 31) (hb : s.frameBusy m.old = false) (swaps : s.tier.swaps = []) (late : s.late = [])
    (grids : ∀ e ∈ s.grids, e.2.state = .placing ∨ e.2.state = .running ∨ e.2.state = .draining ∨ e.2.state = .retired)
    (h : s.MoveClear m) :
    Gives (exec (.regionMoveComplete k) s) (fun t => look t.tier.moves k = none ∧ look t.own m.old = none ∧
      look t.own m.new = some (getD s.own m.old .blank) ∧ s.SameRegs t ∧ t.bank = s.bank ∧
      (∀ i < 2 ^ 21, getD t.mem (m.new * 2 ^ 21 + i) 0 = getD s.mem (m.old * 2 ^ 21 + i) 0) ∧
      ∀ a, s.leavesOf m.reg.part m.old = [a] → let e := getBytes s.mem a 8
        let q := getBytes t.mem a 8
        pte q 52 1 = 0 ∧ pte q 8 2 = (if m.promote then 0 else 1) ∧ pte q 16 5 = pte e 16 5 ∧
          pte q 21 31 = m.new ∧ pte q 0 8 = pte e 0 8) := by
  have hs := s.moveCopied_steady m
  have ho : (s.moveCopied m).own = s.own := congrArg Steady.own hs
  have frame := fun (i : Nat) (hi : i < 2 ^ 21) => State.moveCopied_frame h hi
  have leaf := fun (a : Nat) ha => State.moveCopied_leaf (a := a) h ha
  refine ⟨_, execRegionMoveComplete_idle hm hb swaps late grids, ?_⟩
  generalize s.moveCopied m = w at hs ho frame leaf
  refine ⟨(look_del _ k k).trans (if_pos rfl), (look_del _ m.old m.old).trans (if_pos rfl), ?_, sameRegs_of_steady (t := w) hs,
    congrArg Steady.bank hs, frame, fun a ha => ?_⟩
  · refine (look_del _ m.old m.new).trans ((if_neg (Ne.symm ne)).trans ?_)
    rw [look_set_same, ho]
  · have hq := leaf a ha
    show pte (getBytes w.mem a 8) 52 1 = 0 ∧ pte (getBytes w.mem a 8) 8 2 = _ ∧ pte (getBytes w.mem a 8) 16 5 = _ ∧
      pte (getBytes w.mem a 8) 21 31 = _ ∧ pte (getBytes w.mem a 8) 0 8 = _
    rw [hq]
    exact movedLeaf_fields hn _

/-- Settles O54: each event by the lemmas about the log, the spares, the gate, the reset and the end of a move. -/
theorem reliabilityEvents : Obligations.ReliabilityEvents := by
  unfold Obligations.ReliabilityEvents
  intro s core k kind unit src part pa count u
  refine ⟨?_, fun h => reservedSource_noRecord s h kind unit part pa count, fun h => ?_, fun room h => ?_, fun full h wait => ?_,
    fun room here hs hr => ?_, fun h he => spareSwapComplete_leaves h he, fun hc hg => ?_, coreWake_restores s core,
    fun pkg ports failed h => reset_leaves s u h ports failed, fun m hm ne hn hb swaps ewr late grids l1 leaves => ?_⟩
  · exact congrArg Host.Outcome.next (ite_self _)
  · refine congrArg Host.Outcome.next (if_pos (Or.inl ?_))
    rw [h]
    rfl
  · obtain ⟨t, ht, hlog, hbad, hstill⟩ := arrayScrubPass_logs room h unit pa
    obtain ⟨v, hv, vlog, vstill, vbad, vevents⟩ := errorLogRecord_logs room h kind unit part pa count
    exact ⟨⟨t, ht, hlog, hbad, hstill⟩, ⟨v, hv, vlog, vstill, vbad, vevents⟩⟩
  · exact ⟨fun o ho => errorLogRecord_full full h wait kind unit part pa count ho,
      fun hn => errorLogRecord_waits full h wait kind unit part pa count hn⟩
  · exact ⟨fun left => spareBringIn_left room ⟨here, hs, hr⟩ left, fun none => spareBringIn_none room ⟨here, hs, hr⟩ none⟩
  · exact ⟨fun q hq ht => corePowerGate_gates hc hg hq ht, fun hw => corePowerGate_waits hc hg hw, fun hk => corePowerGate_kept hc hg hk⟩
  · exact regionMoveComplete_moves hm ne hn hb swaps late grids ⟨ewr, l1, leaves⟩

end Sys2Proof.Machine
end

section
/-! PROOF. Ports, and requests of other packages (R12, R389 to R391). -/

namespace Sys2Proof.Machine

/-! ### The value of an atomic operation (R318) -/

theorem intOf_toNat {w : Nat} (hw : 0 < w) (sg : Bool) (a : BitVec w) : intOf w sg a.toNat = if sg then a.toInt else (a.toNat : Int) := by
  have ha := a.isLt
  have hp : 2 ^ w = 2 * 2 ^ (w - 1) := by rw [← Nat.pow_succ']; congr 1; omega
  simp only [intOf, Nat.mod_eq_of_lt ha, BitVec.toInt_eq_toNat_cond]
  cases sg with
  | false => simp
  | true =>
    by_cases h : 2 ^ (w - 1) ≤ a.toNat
    · have h' : ¬ 2 * a.toNat < 2 ^ w := by omega
      simp [h, h']
    · have h' : 2 * a.toNat < 2 ^ w := by omega
      simp [h, h']

/-- Operands are compared as signed numbers, or as they stand. -/
theorem intOf_le {w : Nat} (hw : 0 < w) (sg : Bool) (a b : BitVec w) :
    intOf w sg a.toNat ≤ intOf w sg b.toNat ↔ (if sg then a.sle b else decide (a ≤ b)) = true := by
  rw [intOf_toNat hw, intOf_toNat hw]
  cases sg with
  | true => simp [BitVec.sle_iff_toInt_le]
  | false => simp [BitVec.le_def]

theorem aopVal_newValue (op : AOp) (ty : MType) (old x : Nat) : (aopVal op ty old x).1 % 2 ^ (8 * ty.bytes) =
    (newValue op ty (8 * ty.bytes) (BitVec.ofNat _ old) (BitVec.ofNat _ x)).toNat := by
  have ho : old % 2 ^ (8 * ty.bytes) = (BitVec.ofNat (8 * ty.bytes) old).toNat := (BitVec.toNat_ofNat ..).symm
  have hx : x % 2 ^ (8 * ty.bytes) = (BitVec.ofNat (8 * ty.bytes) x).toNat := (BitVec.toNat_ofNat ..).symm
  have hw : 0 < 8 * ty.bytes := by cases ty <;> decide
  have sg : (ty == .s8 || ty == .s16 || ty == .s32 || ty == .s64) = signedTy ty := by cases ty <;> rfl
  unfold aopVal newValue
  simp only [ho, hx, sg, intOf_le hw]
  generalize BitVec.ofNat (8 * ty.bytes) old = a
  generalize BitVec.ofNat (8 * ty.bytes) x = b
  generalize signedTy ty = c
  generalize 8 * ty.bytes = w at *
  have ha := Nat.mod_eq_of_lt a.isLt
  have hb := Nat.mod_eq_of_lt b.isLt
  cases op with
  | add => simp
  | min =>
    generalize (if c = true then a.sle b else decide (a ≤ b)) = d
    cases d with
    | false => exact hb
    | true => exact ha
  | max =>
    generalize (if c = true then a.sle b else decide (a ≤ b)) = d
    cases d with
    | false => exact ha
    | true => exact hb
  | and => rw [BitVec.toNat_and, Nat.mod_eq_of_lt (Nat.and_lt_two_pow _ b.isLt)]
  | or => rw [BitVec.toNat_or, Nat.mod_eq_of_lt (Nat.or_lt_two_pow a.isLt b.isLt)]
  | xor => rw [BitVec.toNat_xor, Nat.mod_eq_of_lt (Nat.xor_lt_two_pow a.isLt b.isLt)]
  | exch => exact hb
  | inc =>
    simp only [BitVec.le_def]
    split
    · simp
    · simp
  | dec =>
    have hz : a.toNat = 0 ↔ a = 0 := by simp [BitVec.toNat_eq]
    simp only [hz, BitVec.lt_def]
    split
    · exact hb
    · next h =>
      have h0 : a.toNat ≠ 0 := fun c => h (Or.inl (hz.1 c))
      have h1 := a.isLt
      have h2 : 1 < 2 ^ w := Nat.one_lt_two_pow (by omega)
      rw [BitVec.toNat_sub, show BitVec.toNat (1 : BitVec w) = 1 from BitVec.toNat_one hw]
      have : 2 ^ w - 1 + a.toNat = a.toNat - 1 + 2 ^ w := by omega
      rw [this, Nat.add_mod_right]
  | fadd => simp
  | fmin => simp
  | fmax => simp

/-! ### Ports -/

theorem State.drainWrites_ewr (s : State) (f : EngWrite → Bool) : (s.drainWrites f).ewr = s.ewr.filter (fun w => !f w) := by
  refine foldl_invariant (fun t : State => t.ewr = s.ewr.filter (fun w => !f w)) rfl fun t w h => ?_
  exact (State.homeWrite_ewr ..).trans h

/-- A port leaves service once what has been sent on it is delivered. -/
theorem portOutOfService_clears {s : State} {port : Nat} (h : s.portBusy port = false) :
    Gives (exec (.portOutOfService port) s) (fun t => t.fab.colls = s.fab.colls ∧ s.SameRegs t ∧
      (∀ i < 18, t.fab.ports.getLsbD i = (s.fab.ports.getLsbD i && i != port)) ∧ (∀ w ∈ t.ewr, w.route = none) ∧
      ((∀ w ∈ s.ewr, w.route = none) → t = { s with fab := t.fab })) := by
  have hs := s.drainWrites_steady (fun w => w.route.isSome)
  have hf : (s.drainWrites (fun w => w.route.isSome)).fab = s.fab := congrArg Steady.fab hs
  refine ⟨_, congrArg Host.Outcome.next (if_neg (by rw [h]; decide)), ?_,
    sameRegs_of_steady (t := s.drainWrites (fun w => w.route.isSome)) hs, fun i hi => ?_, fun w hw => ?_, fun hr => ?_⟩
  · show (s.drainWrites (fun w => w.route.isSome)).fab.colls = _
    rw [hf]
  · show ((s.drainWrites (fun w => w.route.isSome)).fab.ports &&& ~~~(1#18 <<< port)).getLsbD i = _
    rw [hf]
    by_cases hp : i = port
    · subst hp
      simp [hi]
    · have : (1#18 <<< port).getLsbD i = false := by
        simp only [BitVec.getLsbD_shiftLeft, BitVec.getLsbD_one]
        simp
        omega
      rw [BitVec.getLsbD_and, BitVec.getLsbD_not, this, bne_iff_ne.2 hp]
      simp [hi]
  · have hw : w ∈ (s.drainWrites (fun w => w.route.isSome)).ewr := hw
    rw [State.drainWrites_ewr] at hw
    have := (List.mem_filter.1 hw).2
    simpa using this
  · have hn : s.ewr.filter (fun w => w.route.isSome) = [] := List.filter_eq_nil_iff.2 fun w hw => by simp [hr w hw]
    have hk : s.ewr.filter (fun w => !w.route.isSome) = s.ewr := List.filter_eq_self.2 fun w hw => by simp [hr w hw]
    have hd : s.drainWrites (fun w => w.route.isSome) = s := by
      unfold State.drainWrites
      rw [hn, hk]
      rfl
    dsimp only
    rw [hd]

theorem portOutOfService_waits {s : State} {port : Nat} (h : s.portBusy port = true) :
    Gives (exec (.portOutOfService port) s) (fun t => t = s) := ⟨s, congrArg Host.Outcome.next (if_pos h), rfl⟩

/-! ### Requests of other packages -/

theorem said_of_steady {s t : State} (h : t.steady = s.steady) (o : Out) : s.Said (t.emit o) o :=
  congrArg (· ++ [o]) (congrArg (fun x : Steady => x.svc.out) h)

theorem remoteRequest_refused {s : State} {src : Nat} {dtid : BitVec 16} {k : RemoteKind} {off size : Nat} {data : BitVec 128} {c : Nat}
    (h : s.remoteCause dtid.toNat off size (remoteWrites k) = c) (hc : c ≠ 0) :
    Gives (exec (.remoteRequest src dtid k off size data) s) (fun t =>
      s.Said t (.remoteReply src c 0) ∧ t = { s with svc := t.svc }) := by
  subst h
  exact ⟨_, congrArg Host.Outcome.next (if_pos hc), rfl, rfl⟩

/-- No word of memory is damaged, and no release set is recorded. -/
structure State.Sound (s : State) : Prop where
  bad : s.svc.bad = []
  badL2 : s.svc.badL2 = []
  rel : ∀ e ∈ s.cores, e.2.rel = []

theorem State.Sound.badAt {s : State} (h : s.Sound) (pa n : Nat) : s.badAt pa n = false := by
  rw [State.badAt, h.bad, h.badL2]
  rfl

theorem State.Sound.tagsAt {s : State} (h : s.Sound) (ss : List Nat) (r : Reader) : s.tagsAt ss r = [] := by
  unfold State.tagsAt
  rw [List.flatMap_eq_nil_iff]
  intro e he
  rw [h.rel e he]
  rfl

/-- What a request that passes the checks does. -/
theorem execRemoteRequest_ok {s : State} (sound : s.Sound) {src : Nat} {dtid : BitVec 16} {k : RemoteKind} {off size : Nat}
    {data : BitVec 128} (h : s.remoteCause dtid.toNat off size (remoteWrites k) = 0) :
    exec (.remoteRequest src dtid k off size data) s = .next ((s.remoteDo k (s.ctl.pkg * 2 ^ 42 + off) size data).2.emit
      (.remoteReply src 0 (BitVec.ofNat 128 (s.remoteDo k (s.ctl.pkg * 2 ^ 42 + off) size data).1))) := by
  show execRemoteRequest src dtid k off size data s = _
  unfold execRemoteRequest
  dsimp only
  rw [if_neg (by rw [h]; exact fun c => c rfl), if_neg (by rw [sound.badAt]; exact fun c => Bool.false_ne_true c.2)]

theorem State.Sound.pulled {s : State} (h : s.Sound) (k : RemoteKind) (pa n : Nat) :
    (if k = .store then s else s.pullAll (s.tagsAt (sectors pa n) .remote)) = s := by
  rw [h.tagsAt]
  exact ite_self _

theorem State.atomicAt_mem (s : State) (pa n : Nat) : (s.atomicAt pa n).mem = s.mem := congrArg Prod.fst (State.atomicAt_bytes ..)

theorem remoteDo_load {s : State} (sound : s.Sound) (pa n : Nat) (x : BitVec 128) :
    s.remoteDo .load pa n x = (getBytes s.mem pa n, s.l2Read pa n) := by
  unfold State.remoteDo
  rw [sound.pulled]

theorem remoteDo_store (s : State) (pa n : Nat) (x : BitVec 128) :
    s.remoteDo .store pa n x = (0, s.homeWrite pa n (x.toNat % 2 ^ (8 * n)) none) := by
  unfold State.remoteDo
  rw [if_pos rfl]

theorem remoteDo_rmw {s : State} (sound : s.Sound) (op : AOp) (ty : MType) (pa n : Nat) (x : BitVec 128) :
    s.remoteDo (.rmw op ty) pa n x = (getBytes s.mem pa n,
      (s.atomicAt pa n).homeWrite pa n (aopVal op ty (getBytes s.mem pa n) x.toNat).1 none) := by
  unfold State.remoteDo
  rw [sound.pulled]

theorem remoteDo_cas {s : State} (sound : s.Sound) (pa n : Nat) (x : BitVec 128) :
    s.remoteDo .cas pa n x = (getBytes s.mem pa n, if getBytes s.mem pa n = x.toNat % 2 ^ 64 % 2 ^ (8 * n) then
      (s.atomicAt pa n).homeWrite pa n (x.toNat / 2 ^ 64 % 2 ^ (8 * n)) none else (s.atomicAt pa n).conflictWrite pa n none) := by
  unfold State.remoteDo
  rw [sound.pulled]

/-- Only the low bits of a stored value count. -/
theorem bytesAt_of_mod {s t : State} {a n v w : Nat} (h : t.mem = putBytes s.mem a n v) (e : v % 2 ^ (8 * n) = w % 2 ^ (8 * n)) :
    s.BytesAt t a n w := fun x => by
  have byte : ∀ v, a ≤ x ∧ x < a + n → BitVec.ofNat 8 (v >>> (8 * (x - a))) = BitVec.ofNat 8 ((v % 2 ^ (8 * n)) >>> (8 * (x - a))) :=
    fun v hx => by
      refine BitVec.eq_of_toNat_eq ?_
      have hp : 2 ^ (8 * n) = 2 ^ (8 * (x - a)) * 2 ^ (8 * n - 8 * (x - a)) := by rw [← Nat.pow_add]; congr 1; omega
      have hd : 2 ^ 8 ∣ 2 ^ (8 * n - 8 * (x - a)) := Nat.pow_dvd_pow 2 (by omega)
      rw [BitVec.toNat_ofNat, BitVec.toNat_ofNat, Nat.shiftRight_eq_div_pow, Nat.shiftRight_eq_div_pow, hp,
        Nat.mod_mul_right_div_self, Nat.mod_mod_of_dvd _ hd]
  rw [h, getD_putBytes]
  split
  · next hx => rw [byte v hx, byte w hx, e]
  · rfl

/-- The package has answered with the old value, and goes on from another state. -/
structure State.Answered (s : State) (src : Nat) (r : Nat × State) (t : State) (v : Nat) : Prop where
  said : s.Said t (.remoteReply src 0 (BitVec.ofNat 128 v))
  mem : t.mem = r.2.mem
  bank : t.bank = s.bank
  regs : s.SameRegs t

theorem answered_of_steady {s : State} {r : Nat × State} (h : r.2.steady = s.steady) (src : Nat) :
    s.Answered src r (r.2.emit (.remoteReply src 0 (BitVec.ofNat 128 r.1))) r.1 :=
  ⟨said_of_steady h _, rfl, congrArg Steady.bank h, sameRegs_of_steady (t := r.2) h⟩

theorem State.Sound.remoteDo_steady {s : State} (sound : s.Sound) (k : RemoteKind) (pa n : Nat) (x : BitVec 128) :
    (s.remoteDo k pa n x).2.steady = s.steady := by
  cases k with
  | load => rw [remoteDo_load sound]; exact State.l2Read_steady ..
  | store => rw [remoteDo_store]; exact State.homeWrite_steady ..
  | rmw op ty => rw [remoteDo_rmw sound]; exact (State.homeWrite_steady ..).trans (State.atomicAt_steady ..)
  | cas =>
    rw [remoteDo_cas sound]
    dsimp only
    rw [steady_ite, State.homeWrite_steady, State.conflictWrite_steady, State.atomicAt_steady, ite_self]

/-- A request that passes the checks is answered with what it has found. -/
theorem remoteRequest_answered {s : State} (sound : s.Sound) (src : Nat) {dtid : BitVec 16} {k : RemoteKind} {off size : Nat}
    (data : BitVec 128) (h : s.remoteCause dtid.toNat off size (remoteWrites k) = 0) (pa : Nat) (hp : pa = s.ctl.pkg * 2 ^ 42 + off) :
    Gives (exec (.remoteRequest src dtid k off size data) s) (fun t =>
      s.Answered src (s.remoteDo k pa size data) t (s.remoteDo k pa size data).1) := by
  subst hp
  exact ⟨_, execRemoteRequest_ok sound h, answered_of_steady (sound.remoteDo_steady k _ size data) src⟩

theorem State.Sound.remoteDo_rmw_mem {s : State} (sound : s.Sound) (op : AOp) {ty : MType} {n : Nat} (ht : ty.bytes = n) (pa : Nat)
    (x : BitVec 128) {t : State} (h : t.mem = (s.remoteDo (.rmw op ty) pa n x).2.mem) : s.BytesAt t pa n
      (newValue op ty (8 * n) (BitVec.ofNat (8 * n) (getBytes s.mem pa n)) (BitVec.ofNat (8 * n) x.toNat)).toNat := by
  subst ht
  rw [remoteDo_rmw sound, State.homeWrite_mem, State.atomicAt_mem] at h
  refine bytesAt_of_mod h ?_
  rw [aopVal_newValue, Nat.mod_eq_of_lt (BitVec.isLt _)]

theorem State.Sound.remoteDo_cas_mem {s : State} (sound : s.Sound) (pa n : Nat) (x : BitVec 128) {t : State}
    (h : t.mem = (s.remoteDo .cas pa n x).2.mem) (hr : s.SameRegs t) :
    if getBytes s.mem pa n = x.toNat % 2 ^ 64 % 2 ^ (8 * n) then s.BytesAt t pa n (x.toNat / 2 ^ 64) ∧ s.SameRegs t
    else t.mem = s.mem := by
  rw [remoteDo_cas sound] at h
  dsimp only at h
  split
  · next hc =>
    rw [if_pos hc, State.homeWrite_mem, State.atomicAt_mem] at h
    exact ⟨bytesAt_of_mod h (Nat.mod_mod _ _), hr⟩
  · next hc =>
    rw [if_neg hc] at h
    exact h.trans ((congrArg Prod.fst (State.conflictWrite_bytes ..)).trans (State.atomicAt_mem ..))

theorem State.remoteDo_store_mem {s : State} {pa n : Nat} {x : BitVec 128} {t : State}
    (h : t.mem = (s.remoteDo .store pa n x).2.mem) : s.BytesAt t pa n x.toNat := by
  rw [remoteDo_store, State.homeWrite_mem] at h
  exact bytesAt_of_mod h (Nat.mod_mod _ _)

section Answers
variable {s : State} (sound : s.Sound) (src : Nat) {dtid : BitVec 16} {off size : Nat} (data : BitVec 128)
include sound

theorem remoteRequest_loads (h : s.remoteCause dtid.toNat off size false = 0) (pa : Nat) (hp : pa = s.ctl.pkg * 2 ^ 42 + off) :
    Gives (exec (.remoteRequest src dtid .load off size data) s) (fun t =>
      s.Said t (.remoteReply src 0 (BitVec.ofNat 128 (getBytes s.mem pa size))) ∧ t.mem = s.mem ∧ t.bank = s.bank ∧ s.SameRegs t) := by
  obtain ⟨t, ht, ha⟩ := remoteRequest_answered sound src data (k := .load) h pa hp
  rw [remoteDo_load sound] at ha
  exact ⟨t, ht, ha.said, ha.mem.trans (congrArg Prod.fst (State.l2Read_bytes ..)), ha.bank, ha.regs⟩

theorem remoteRequest_stores (h : s.remoteCause dtid.toNat off size true = 0) (pa : Nat) (hp : pa = s.ctl.pkg * 2 ^ 42 + off) :
    Gives (exec (.remoteRequest src dtid .store off size data) s) (fun t =>
      s.Said t (.remoteReply src 0 0) ∧ s.BytesAt t pa size data.toNat ∧ s.SameRegs t) := by
  obtain ⟨t, ht, ha⟩ := remoteRequest_answered sound src data (k := .store) h pa hp
  exact ⟨t, ht, ha.said, State.remoteDo_store_mem ha.mem, ha.regs⟩

theorem remoteRequest_modifies (op : AOp) {ty : MType} (hty : ty.bytes = size) (h : s.remoteCause dtid.toNat off size true = 0)
    (pa : Nat) (hp : pa = s.ctl.pkg * 2 ^ 42 + off) :
    Gives (exec (.remoteRequest src dtid (.rmw op ty) off size data) s) (fun t =>
      s.Said t (.remoteReply src 0 (BitVec.ofNat 128 (getBytes s.mem pa size))) ∧
      s.BytesAt t pa size (newValue op ty (8 * size) (BitVec.ofNat (8 * size) (getBytes s.mem pa size))
        (BitVec.ofNat (8 * size) data.toNat)).toNat ∧ s.SameRegs t) := by
  obtain ⟨t, ht, ha⟩ := remoteRequest_answered sound src data (k := .rmw op ty) h pa hp
  have said := ha.said
  rw [remoteDo_rmw sound] at said
  exact ⟨t, ht, said, sound.remoteDo_rmw_mem op hty pa data ha.mem, ha.regs⟩

theorem remoteRequest_compares (h : s.remoteCause dtid.toNat off size true = 0) (pa : Nat) (hp : pa = s.ctl.pkg * 2 ^ 42 + off) :
    Gives (exec (.remoteRequest src dtid .cas off size data) s) (fun t =>
      s.Said t (.remoteReply src 0 (BitVec.ofNat 128 (getBytes s.mem pa size))) ∧
      if getBytes s.mem pa size = data.toNat % 2 ^ 64 % 2 ^ (8 * size) then s.BytesAt t pa size (data.toNat / 2 ^ 64) ∧ s.SameRegs t
      else t.mem = s.mem) := by
  obtain ⟨t, ht, ha⟩ := remoteRequest_answered sound src data (k := .cas) h pa hp
  have said := ha.said
  rw [remoteDo_cas sound] at said
  exact ⟨t, ht, said, sound.remoteDo_cas_mem pa size data ha.mem ha.regs⟩

end Answers

/-! ### Payloads and their records -/

theorem State.remoteCause_congr {s t : State} (hc : t.controls = s.controls) (ho : t.own = s.own) (dtid off n : Nat) (write : Bool) :
    t.remoteCause dtid off n write = s.remoteCause dtid off n write := by
  have hp : t.ctl.pkg = s.ctl.pkg := show t.controls.pkg = s.controls.pkg by rw [hc]
  have hd : t.ctl.dtid = s.ctl.dtid := show t.controls.dtid = s.controls.dtid by rw [hc]
  simp only [State.remoteCause, State.dtidPart, hp, hd, ho]

/-- Bytes are delivered one by one. -/
def State.deliver (s : State) (a : Nat) (l : List (Byte × Nat)) : State :=
  l.foldl (fun s b => s.homeWrite (a + b.2) 1 b.1.toNat none) s

theorem State.deliver_steady (s : State) (a : Nat) (l : List (Byte × Nat)) : (s.deliver a l).steady = s.steady :=
  foldl_steady _ (fun _ _ => State.homeWrite_steady ..) _ _

theorem State.getD_deliver (a x : Nat) (l : List Byte) (k : Nat) (s : State) : getD (s.deliver a (l.zipIdx k)).mem x 0 =
    if a + k ≤ x then (l[x - (a + k)]?).getD (getD s.mem x 0) else getD s.mem x 0 := by
  induction l generalizing k s with
  | nil => simp [State.deliver]
  | cons b l ih =>
    rw [List.zipIdx_cons, State.deliver, List.foldl_cons]
    refine (ih (k + 1) _).trans ?_
    have hb : getD (s.homeWrite (a + k) 1 b.toNat none).mem x 0 = if x = a + k then b else getD s.mem x 0 := by
      rw [State.homeWrite_mem, ← State.homePut_mem, getD_homePut_byte]
    dsimp only
    rw [hb]
    by_cases h : x = a + k
    · subst h
      simp
    · by_cases h1 : a + k ≤ x
      · have e : x - (a + k) = x - (a + (k + 1)) + 1 := by omega
        rw [if_pos h1, if_pos (by omega), if_neg h, e, List.getElem?_cons_succ]
      · rw [if_neg h1, if_neg (by omega), if_neg h]

/-- The word of a completion record (R393). -/
def recordWord (code detail : Byte) (time : Nat) : Nat :=
  (if code = 0 then 1 else 3) + 2 ^ 8 * code.toNat + 2 ^ 16 * detail.toNat + 2 ^ 64 * time

theorem recordWord_fields (code detail : Byte) (time : Nat) : let q := recordWord code detail time % 2 ^ (8 * 16)
    q % 2 ^ 64 = (if code = 0 then 1 else 3) + 2 ^ 8 * code.toNat + 2 ^ 16 * detail.toNat ∧ q / 2 ^ 64 = time % 2 ^ 64 := by
  have h1 := code.isLt
  have h2 := detail.isLt
  have h3 : (if code = 0 then 1 else 3) < 4 := by split <;> decide
  unfold recordWord
  generalize (if code = 0 then 1 else 3) = b at h3
  generalize code.toNat = c at h1
  generalize detail.toNat = d at h2
  dsimp only
  omega

theorem execPayloadDelivery_none {s : State} {src : Nat} {dtid : BitVec 16} {off : Nat} {bytes : List Byte} {code detail : Byte}
    (h : s.remoteCause dtid.toNat off bytes.length true = 0) (a : Nat) (ha : a = s.ctl.pkg * 2 ^ 42 + off) :
    exec (.payloadDelivery src dtid off bytes none code detail) s =
      .next ((s.deliver a bytes.zipIdx).emit (.remoteReply src 0 0)) := by
  subst ha
  show execPayloadDelivery src dtid off bytes none code detail s = _
  unfold execPayloadDelivery
  dsimp only
  rw [h, ite_self, if_neg (fun c => c rfl)]
  rfl

theorem execPayloadDelivery_some {s : State} {src : Nat} {dtid : BitVec 16} {off : Nat} {bytes : List Byte} {rec : Nat}
    {code detail : Byte} (h : s.remoteCause dtid.toNat off bytes.length true = 0) (hr : s.remoteCause dtid.toNat rec 16 true = 0)
    (a r : Nat) (ha : a = s.ctl.pkg * 2 ^ 42 + off) (hra : r = s.ctl.pkg * 2 ^ 42 + rec) :
    exec (.payloadDelivery src dtid off bytes (some rec) code detail) s = .next (((s.deliver a bytes.zipIdx).tick.homeWrite r 16
      (recordWord code detail (s.deliver a bytes.zipIdx).tick.time) none).emit (.remoteReply src 0 0)) := by
  have hs := s.deliver_steady a bytes.zipIdx
  have hc : (s.deliver a bytes.zipIdx).remoteCause dtid.toNat rec 16 true = 0 :=
    (State.remoteCause_congr (controls_of_steady hs) (congrArg Steady.own hs) ..).trans hr
  subst ha hra
  show execPayloadDelivery src dtid off bytes (some rec) code detail s = _
  unfold execPayloadDelivery
  dsimp only
  rw [h, ite_self, if_neg (fun c => c rfl)]
  exact congrArg Host.Outcome.next (if_neg (fun c => c hc))

theorem payloadDelivery_bytes {s : State} {src : Nat} {dtid : BitVec 16} {off : Nat} {bytes : List Byte} {code detail : Byte}
    (h : s.remoteCause dtid.toNat off bytes.length true = 0) (a : Nat) (ha : a = s.ctl.pkg * 2 ^ 42 + off) :
    Gives (exec (.payloadDelivery src dtid off bytes none code detail) s) (fun t =>
      s.Said t (.remoteReply src 0 0) ∧ s.SameRegs t ∧
      ∀ x, getD t.mem x 0 = if a ≤ x then (bytes[x - a]?).getD (getD s.mem x 0) else getD s.mem x 0) := by
  have hs := s.deliver_steady a bytes.zipIdx
  exact ⟨_, execPayloadDelivery_none h a ha, said_of_steady hs _, sameRegs_of_steady (t := s.deliver a bytes.zipIdx) hs,
    fun x => State.getD_deliver a x bytes 0 s⟩

theorem payloadDelivery_record {s : State} {src : Nat} {dtid : BitVec 16} {off : Nat} {bytes : List Byte} {rec : Nat}
    {code detail : Byte} (h : s.remoteCause dtid.toNat off bytes.length true = 0) (hr : s.remoteCause dtid.toNat rec 16 true = 0)
    (apart : rec + 16 ≤ off ∨ off + bytes.length ≤ rec) (b a r : Nat) (hb : b = s.ctl.pkg * 2 ^ 42) (ha : a = b + off) (hra : r = b + rec) :
    Gives (exec (.payloadDelivery src dtid off bytes (some rec) code detail) s) (fun t => s.Said t (.remoteReply src 0 0) ∧
      s.SameRegs t ∧ s.time < t.time ∧ (∀ i b, bytes[i]? = some b → getD t.mem (a + i) 0 = b) ∧
      getBytes t.mem r 16 % 2 ^ 64 = (if code = 0 then 1 else 3) + 2 ^ 8 * code.toNat + 2 ^ 16 * detail.toNat ∧
      getBytes t.mem r 16 / 2 ^ 64 = t.time % 2 ^ 64) := by
  refine ⟨_, execPayloadDelivery_some h hr a r (hb ▸ ha) (hb ▸ hra), ?_⟩
  have hs := s.deliver_steady a bytes.zipIdx
  have hd : ∀ x, getD (s.deliver a bytes.zipIdx).mem x 0 =
      if a ≤ x then (bytes[x - a]?).getD (getD s.mem x 0) else getD s.mem x 0 := fun x => State.getD_deliver a x bytes 0 s
  generalize s.deliver a bytes.zipIdx = d at hs hd
  have hw := State.homeWrite_steady d.tick r 16 (recordWord code detail d.tick.time) none
  have hwm := State.homeWrite_mem d.tick r 16 (recordWord code detail d.tick.time) none
  have ht : (d.tick.homeWrite r 16 (recordWord code detail d.tick.time) none).time = d.tick.time := congrArg Steady.time hw
  generalize d.tick.homeWrite r 16 (recordWord code detail d.tick.time) none = w at hw hwm ht
  have hq : getBytes w.mem r 16 = recordWord code detail d.tick.time % 2 ^ (8 * 16) := by rw [hwm, getBytes_putBytes]
  have hdt : d.time = s.time := congrArg Steady.time hs
  refine ⟨?_, ?_, ?_, fun i y hi => ?_, ?_, ?_⟩
  · have h1 : w.svc.out = d.tick.svc.out := congrArg (fun x : Steady => x.svc.out) hw
    have h2 : d.svc.out = s.svc.out := congrArg (fun x : Steady => x.svc.out) hs
    exact congrArg (· ++ [_]) (h1.trans h2)
  · have h1 : d.tick.SameRegs w := sameRegs_of_steady hw
    have h2 : s.SameRegs d := sameRegs_of_steady hs
    exact fun j => ⟨(h1 j).1.trans (h2 j).1, (h1 j).2.1.trans (h2 j).2.1, (h1 j).2.2.trans (h2 j).2.2⟩
  · show s.time < w.time
    rw [ht, ← hdt]
    exact d.lt_tick_time
  · have hl : i < bytes.length := (List.getElem?_eq_some_iff.1 hi).1
    show getD w.mem (a + i) 0 = y
    rw [hwm, getD_putBytes_outside _ (by omega)]
    refine (hd (a + i)).trans ?_
    rw [if_pos (Nat.le_add_right _ _), Nat.add_sub_cancel_left, hi]
    rfl
  · show getBytes w.mem r 16 % 2 ^ 64 = _
    rw [hq]
    exact (recordWord_fields code detail d.tick.time).1
  · show getBytes w.mem r 16 / 2 ^ 64 = w.time % 2 ^ 64
    rw [hq, ht]
    exact (recordWord_fields code detail d.tick.time).2

end Sys2Proof.Machine
end

section
/-! PROOF. What the accesses of engines leave as it is (R114, R115, R354, R393). -/

namespace Sys2Proof.Machine

/-- What writes of engines and units leave as it is: op tables, traps, the fabric, control registers, the partition of each grid, the
grid of each block, and where cohorts stand. -/
structure Held where
  opts : Nat → List (Nat × Opt)
  traps : Traps
  fab : Fab
  ctl : Ctl
  part : Nat → Nat
  grid : Nat → Nat
  stands : Nat → Place × Nat
  lively : Nat → Prop

def State.held (s : State) : Held :=
  ⟨optsOf s.cores, s.traps, s.fab, s.controls, fun g => (s.grd g).part, fun b => (s.blk b).grid, standsOf s.cohorts, livelyOf s.cohorts⟩

theorem held_of_steady {s t : State} (h : t.steady = s.steady) : t.held = s.held :=
  congrArg (fun x : Steady => Held.mk x.opts x.traps x.fab x.ctl (fun g => (getD x.grids g .blank).part)
    (fun b => (getD x.blocks b .blank).grid) x.stands x.lively) h

theorem held_rest (s : State) {mem own bank placed cluTlb constC l2 walkC late mvWaits ewr ops pulls transit walks invals kiosk
    harts queues qwaits tier svc shares serials cur agenda time fresh} : (State.mk s.ctl mem own bank s.cohorts s.blocks placed s.grids
      s.cores cluTlb constC l2 walkC late mvWaits ewr ops pulls transit walks invals kiosk harts s.traps queues qwaits tier s.fab svc
      shares serials cur agenda time fresh).held = s.held := rfl

theorem held_ite (c : Prop) [Decidable c] (s t : State) : (if c then s else t).held = if c then s.held else t.held :=
  apply_ite _ _ _ _

theorem State.tick_held (s : State) : s.tick.held = s.held := rfl

/-! ### Translations -/

theorem State.fillCore_steady (s : State) (core : Nat) (e : TlbE) : (s.fillCore core e).steady = s.steady := by
  unfold State.fillCore
  split
  · rfl
  · exact (State.next_steady _).trans (State.modCore_steady _ _ (by exact fun _ => rfl))

theorem State.fillHit_steady (s : State) (core tctx va : Nat) : (s.fillHit core tctx va).steady = s.steady := by
  unfold State.fillHit
  split
  · rfl
  · split
    · exact State.fillCore_steady ..
    · rfl

theorem State.fillBoth_steady (s : State) (core : Nat) (e : TlbE) : (s.fillBoth core e).steady = s.steady := by
  simp only [State.fillBoth, State.fillCore_steady, State.next_steady, steady_rest]

theorem State.fillPtrs_steady (s : State) (die tctx va : Nat) : (s.fillPtrs die tctx va).steady = s.steady := by
  unfold State.fillPtrs
  split <;> rfl

theorem State.l2Walk_steady (s : State) (die tctx va : Nat) : (s.l2Walk die tctx va).steady = s.steady := by
  unfold State.l2Walk
  split <;> simp only [foldl_steady, State.l2Read_steady, implies_true]

theorem State.bumpAcnt_held (s : State) (a part tctx va : Nat) : (s.bumpAcnt a part tctx va).held = s.held := by
  have h : ∀ pa n v, (s.homeWrite pa n v none).held = s.held := fun _ _ _ => held_of_steady (State.homeWrite_steady ..)
  simp only [State.bumpAcnt, held_ite, held_rest, h, ite_self]

theorem State.fillUnit_held (s : State) (core tctx va : Nat) : (s.fillUnit core tctx va).held = s.held := by
  unfold State.fillUnit
  dsimp only
  split
  · rfl
  · split
    · exact held_of_steady (State.fillHit_steady ..)
    · split
      · exact (State.bumpAcnt_held ..).trans (held_of_steady
          ((State.fillBoth_steady ..).trans ((State.fillPtrs_steady ..).trans (State.l2Walk_steady ..))))
      · rfl
      · rfl

theorem State.fillSpan_held (s : State) (core tctx va n : Nat) : (s.fillSpan core tctx va n).held = s.held := by
  simp only [State.fillSpan, held_ite, State.fillUnit_held, ite_self]

/-! ### Writes of engines -/

theorem State.drainFor_steady (s : State) (gs : List Seg) : (s.drainFor gs).steady = s.steady := by
  simp only [State.drainFor, steady_ite, State.drainWrites_steady, ite_self]

theorem State.drainRoutes_steady (s : State) (rs : List (Nat × Option Nat)) : (s.drainRoutes rs).steady = s.steady := by
  simp only [State.drainRoutes, steady_ite, State.drainWrites_steady, ite_self]

theorem State.l1Patch_steady (s : State) (core part pa n v : Nat) : (s.l1Patch core part pa n v).steady = s.steady :=
  foldl_steady _ (fun _ _ => State.l1Upd_steady ..) _ _

/-- A cohort stays where it is, and does not end. -/
def Cohort.Rests (k j : Cohort) : Prop := j.place = k.place ∧ j.block = k.block ∧ j.isOver = k.isOver

theorem Cohort.rests_foldl {α : Type} {f : Cohort → α → Cohort} (hf : ∀ (k : Cohort) x, k.Rests (f k x)) (l : List α) (k : Cohort) :
    k.Rests (l.foldl f k) :=
  foldl_invariant (fun j => k.Rests j) ⟨rfl, rfl, rfl⟩ fun j x h =>
    ⟨(hf j x).1.trans h.1, (hf j x).2.1.trans h.2.1, (hf j x).2.2.trans h.2.2⟩

theorem State.modCoh_held (s : State) (c : Nat) {f : Cohort → Cohort} (hf : ∀ k : Cohort, k.Rests (f k)) : (s.modCoh c f).held = s.held := by
  have h2 : standsOf (upd s.cohorts c f) = standsOf s.cohorts := funext fun j => by
    simp only [standsOf, getD_upd]
    split
    · next hj => rw [(hf _).1, (hf _).2.1, hj.1]
    · rfl
  have h3 : livelyOf (upd s.cohorts c f) = livelyOf s.cohorts := funext fun b => propext (livelyOf_upd (fun k => (hf k).2) b)
  simp only [State.held, State.modCoh, h2, h3]
  rfl

theorem Cohort.rests_winPut (k : Cohort) (own : Bool) (a n v : Nat) : k.Rests (k.winPut own a n v) := by
  unfold Cohort.winPut
  generalize hc : (List.range n).foldl _ k = c
  have hk : k.Rests c := by
    rw [← hc]
    refine Cohort.rests_foldl (fun _ _ => ?_) _ k
    exact ⟨rfl, rfl, rfl⟩
  dsimp only
  split <;> exact hk

theorem State.writeSeg_held (s : State) (w : Who) (g : Seg) (v : Nat) : (s.writeSeg w .pkg g v).held = s.held := by
  unfold State.writeSeg
  split
  · exact (held_of_steady (State.repairBank_steady ..)).trans rfl
  · exact (held_of_steady (State.repairBank_steady ..)).trans (State.modCoh_held _ _ fun _ => Cohort.rests_winPut ..)
  · refine held_of_steady ?_
    rw [if_neg (fun h => Scope.noConfusion h.2)]
    simp only [steady_ite, State.l1Patch_steady, State.homeWrite_steady, ite_self]

theorem State.writeSegs_held (s : State) (w : Who) (gs : List Seg) (v : Nat) : (s.writeSegs w .pkg gs v).held = s.held := by
  unfold State.writeSegs
  refine foldl_invariant (fun (r : Nat × State) => r.2.held = s.held) rfl fun r g h => ?_
  exact (State.writeSeg_held ..).trans h

theorem State.engSend_held (s : State) (core : Nat) (o : Opt) (va : Nat) (gs : List Seg) (v : Nat) :
    (s.engSend core o va gs v).held = s.held := by
  have h : ∀ l, ((s.drainFor gs).next.writeSegs ⟨o.coh, core, s.optPart o⟩ .pkg l v).held = s.held := fun l =>
    (State.writeSegs_held ..).trans (held_of_steady ((State.next_steady _).trans (State.drainFor_steady ..)))
  unfold State.engSend
  dsimp only
  split
  · split
    · rfl
    · exact h _
  · exact h _

theorem State.engPut_held (s : State) (core : Nat) (o : Opt) (remote : Bool) (va n v : Nat) :
    (s.engPut core o remote va n v).2.held = s.held := by
  unfold State.engPut
  dsimp only
  split
  · rfl
  · split
    · next x _ =>
      have hb : ∀ b, ((s.modBlk x.1 (fun b => { b with scr := putBytes b.scr x.2 n v })).blk b).grid = (s.blk b).grid := fun b => by
        rw [State.blk, State.modBlk, getD_upd]
        split
        · next hj => rw [hj.1]; rfl
        · rfl
      simp only [State.held, hb]
      rfl
    · exact (held_of_steady (State.l1Stale_steady ..)).trans ((State.engSend_held ..).trans
        ((held_of_steady (State.drainRoutes_steady ..)).trans (State.fillSpan_held ..)))

theorem State.engWrites_held (core : Nat) (o : Opt) (l : List (Nat × Nat × Nat)) (p : Nat) (s : State) :
    (State.engWrites core o l p s).2.2.held = s.held := by
  induction l generalizing p s with
  | nil => rfl
  | cons a l ih =>
    unfold State.engWrites
    dsimp only
    split
    · exact State.engPut_held ..
    · exact (ih ..).trans (State.engPut_held ..)

theorem State.fabWrite_held (s : State) (core : Nat) (o : Opt) (code detail : Nat) : (s.fabWrite core o code detail).2.held = s.held := by
  unfold State.fabWrite
  dsimp only
  split
  · rfl
  · exact (State.engPut_held ..).trans ((State.tick_held _).trans
      (held_of_steady (s.drainWrites_steady (fun w => w.core == core && w.part == s.optPart o))))

/-! ### Flags of grids -/

theorem State.modGrd_held (s : State) (g : Nat) {f : Grid → Grid} (hf : ∀ r, (f r).part = r.part) : (s.modGrd g f).held = s.held := by
  have h : ∀ j, ((s.modGrd g f).grd j).part = (s.grd j).part := fun j => by
    rw [State.grd, State.modGrd, getD_upd]
    split
    · next hj => rw [hf, hj.1]; rfl
    · rfl
  simp only [State.held, h]
  rfl

theorem State.putPieces_held (s : State) (l : List (Nat × Nat)) (v : Nat) : (s.putPieces l v).held = s.held :=
  foldl_invariant (fun (r : Nat × State) => r.2.held = s.held) rfl fun _ _ h =>
    (held_of_steady (State.homeWrite_steady ..)).trans h

theorem State.noteDone_held (s : State) (w : LateWrite) : (s.noteDone w).held = s.held := by
  unfold State.noteDone
  split <;> rfl

theorem State.unitPut_held (s : State) (w : LateWrite) : (s.unitPut w).held = s.held := by
  unfold State.unitPut
  dsimp only
  split
  · rfl
  · split
    · exact (State.noteDone_held ..).trans (State.putPieces_held ..)
    · simp only [held_ite, held_rest, State.noteDone_held, ite_self]

theorem State.putStat_held (s : State) (g : Nat) : (s.putStat g).held = s.held := by
  unfold State.putStat
  dsimp only
  split
  · rfl
  · exact State.unitPut_held ..

theorem State.raiseGrid_held (s : State) (g : Nat) (f : NFlags) (wxov : Bool) : (s.raiseGrid g f wxov).held = s.held := by
  unfold State.raiseGrid
  split
  · rfl
  · exact (State.putStat_held ..).trans (State.modGrd_held _ _ (by exact fun _ => rfl))

end Sys2Proof.Machine
end

section
/-! PROOF. The end of an engine command (R62 to R65, R342, R343): what blocks and barriers do then leaves its entry. -/

namespace Sys2Proof.Machine

/-- The op tables, and what waits at cores as records of traps. -/
def State.ending (s : State) : (Nat → List (Nat × Opt)) × Traps := (optsOf s.cores, s.traps)

theorem ending_of_held {s t : State} (h : t.held = s.held) : t.ending = s.ending :=
  congrArg (fun x : Held => (x.opts, x.traps)) h

theorem ending_of_steady {s t : State} (h : t.steady = s.steady) : t.ending = s.ending := ending_of_held (held_of_steady h)

theorem ending_ite (c : Prop) [Decidable c] (s t : State) : (if c then s else t).ending = if c then s.ending else t.ending :=
  apply_ite _ _ _ _

theorem foldl_ending {α : Type} (f : State → α → State) (hf : ∀ s x, (f s x).ending = s.ending) (l : List α) (s : State) :
    (l.foldl f s).ending = s.ending :=
  foldl_invariant (fun t => t.ending = s.ending) rfl fun t x ht => (hf t x).trans ht

theorem State.modCoh_ending (s : State) (c : Nat) (f : Cohort → Cohort) : (s.modCoh c f).ending = s.ending := rfl
theorem State.modBlk_ending (s : State) (b : Nat) (f : Block → Block) : (s.modBlk b f).ending = s.ending := rfl
theorem State.modBar_ending (s : State) (b i : Nat) (f : Bar → Bar) : (s.modBar b i f).ending = s.ending := rfl
theorem State.modCBar_ending (s : State) (p i : Nat) (f : CBar → CBar) : (s.modCBar p i f).ending = s.ending := rfl
theorem State.modGrd_ending (s : State) (g : Nat) (f : Grid → Grid) : (s.modGrd g f).ending = s.ending := rfl
theorem State.tick_ending (s : State) : s.tick.ending = s.ending := rfl

/-- A core changes that keeps its op table. -/
theorem State.modCore_ending (s : State) (k : Nat) {f : Core → Core} (hf : ∀ c, (f c).opt = c.opt) :
    (s.modCore k f).ending = s.ending := ending_of_steady (State.modCore_steady _ _ hf)

/-! ### Barriers -/

theorem State.acquireDrop_ending (s : State) (core part : Nat) : (s.acquireDrop core part).ending = s.ending :=
  State.modCore_ending _ _ fun _ => rfl

theorem State.homeSync_steady (s : State) (core part pa n : Nat) : (s.homeSync core part pa n).steady = s.steady :=
  foldl_steady _ (fun _ _ => by rw [steady_ite, State.wbSector_steady, ite_self]) _ _

theorem State.relRoom_steady (s : State) (core sec : Nat) : (s.relRoom core sec).steady = s.steady := by
  have room : (if Config.releaseEntries ≤ (s.core core).rel.length then
      match (s.core core).rel with | [] => s | t :: _ => s.wbSectors core t.part t.set
    else s).steady = s.steady := by
    split
    · split
      · rfl
      · exact State.wbSectors_steady ..
    · rfl
  unfold State.relRoom
  dsimp only
  generalize (if Config.releaseEntries ≤ (s.core core).rel.length then
    match (s.core core).rel with | [] => s | t :: _ => s.wbSectors core t.part t.set
    else s) = u at room ⊢
  split
  · split
    · exact room
    · exact (State.pullSet_steady ..).trans room
  · exact room

theorem State.addRelease_ending (s : State) (core part sec : Nat) (sc : Scope) (placed block : Nat) :
    (s.addRelease core part sec sc placed block).ending = s.ending := by
  have h : (s.relRoom core sec).tick.ending = s.ending := (State.tick_ending _).trans (ending_of_steady (State.relRoom_steady ..))
  unfold State.addRelease
  dsimp only
  split
  · rfl
  · split
    · exact h
    · exact (State.modCore_ending _ _ (by exact fun _ => rfl)).trans h

theorem State.bufApply_ending (s : State) (core : Nat) (e : BufEnt) : (s.bufApply core e).ending = s.ending := by
  have raised : ∀ (t : State) (g : Nat) (f : NFlags), (t.raiseGrid g f false).ending = t.ending := fun _ _ _ =>
    ending_of_held (State.raiseGrid_held ..)
  have written : ∀ (t : State) (part pa n v : Nat), ((t.homeWrite pa n v none).l1Patch core part pa n v).ending = t.ending :=
    fun _ _ _ _ _ => ending_of_steady ((State.l1Patch_steady ..).trans (State.homeWrite_steady ..))
  have synced : ∀ (t : State) (part pa n : Nat) (l : List (Nat × Nat)),
      (((t.pullAll l).homeSync core part pa n).atomicAt pa n).ending = t.ending := fun _ _ _ _ _ =>
    ending_of_steady ((State.atomicAt_steady ..).trans ((State.homeSync_steady ..).trans (State.pullAll_steady ..)))
  simp only [State.bufApply, ending_ite, State.acquireDrop_ending, State.addRelease_ending, raised, written, synced, ite_self]

theorem State.flushBuf_ending (s : State) (core : Nat) (f : BufEnt → Bool) : (s.flushBuf core f).ending = s.ending :=
  (foldl_ending _ (fun _ _ => State.bufApply_ending ..) _ _).trans (State.modCore_ending _ _ (by exact fun _ => rfl))

theorem State.refillPipes_ending (s : State) (b : Nat) : (s.refillPipes b).ending = s.ending := by
  unfold State.refillPipes
  split
  · refine foldl_ending _ (fun t p => ?_) _ _
    dsimp only
    split
    · rfl
    · split <;> rfl
  · rfl

theorem State.testBar_ending (s : State) (b i : Nat) : (s.testBar b i).ending = s.ending := by
  have released : ∀ (l : List (Nat × Cohort)) (t : State),
      (l.foldl (fun (s : State) e => s.modCoh e.1 (fun c => c.releaseBar i)) t).ending = t.ending :=
    foldl_ending _ fun _ _ => State.modCoh_ending ..
  have flushed : ∀ (c : Prop) [Decidable c] (t : State) (core : Nat) (f : BufEnt → Bool),
      (if c then t.flushBuf core f else t).ending = t.ending := fun c _ t core f => by
    rw [ending_ite, State.flushBuf_ending, ite_self]
  unfold State.testBar
  dsimp only
  split
  · exact (State.refillPipes_ending ..).trans ((released ..).trans ((flushed ..).trans (State.modBar_ending ..)))
  · rfl

theorem State.testCBar_ending (s : State) (p i : Nat) : (s.testCBar p i).ending = s.ending := by
  simp only [State.testCBar, ending_ite, State.refillPipes_ending, foldl_ending, State.modCoh_ending, State.acquireDrop_ending,
    State.modCBar_ending, ite_self, implies_true]

theorem State.testBars_ending (s : State) (b : Nat) : (s.testBars b).ending = s.ending := by
  simp only [State.testBars, foldl_ending, State.testBar_ending, State.testCBar_ending, implies_true]

/-! ### Blocks -/

theorem State.keepRows_ending (s : State) (core part : Nat) (rs : List Nat) : (s.keepRows core part rs).ending = s.ending := by
  unfold State.keepRows
  split
  · exact State.modCore_ending _ _ fun _ => rfl
  · rfl

theorem State.clearRows_ending (s : State) (core row n : Nat) : (s.clearRows core row n).ending = s.ending :=
  (ending_of_steady (State.repairBank_steady ..)).trans rfl

theorem State.leaveWindow_ending (s : State) (core : Nat) (k : Cohort) : (s.leaveWindow core k).ending = s.ending := by
  unfold State.leaveWindow
  split
  · rfl
  · exact (State.keepRows_ending ..).trans (State.clearRows_ending ..)

theorem State.leaveRows_ending (s : State) (b : Nat) : (s.leaveRows b).ending = s.ending := by
  have windows : ∀ (l : List (Nat × Cohort)) (core part : Nat) (rs : List Nat), ((l.foldl (fun (s : State) e =>
      if e.2.place = .resident then s.leaveWindow core e.2 else s) s).keepRows core part rs).ending = s.ending := fun _ _ _ _ =>
    (State.keepRows_ending ..).trans (foldl_ending _ (fun _ _ => by rw [ending_ite, State.leaveWindow_ending, ite_self]) _ _)
  unfold State.leaveRows
  dsimp only
  split
  · exact windows ..
  · exact (State.modCore_ending _ _ (by exact fun _ => rfl)).trans (windows ..)

theorem State.freeClaims_ending (s : State) (core c : Nat) : (s.freeClaims core c).ending = s.ending :=
  State.modCore_ending _ _ fun _ => rfl

theorem State.settleGrid_ending (s : State) (g : Nat) : (s.settleGrid g).ending = s.ending := by
  simp only [State.settleGrid, ending_ite, State.modGrd_ending, ite_self]

theorem State.settleBlk_ending (s : State) (b : Nat) : (s.settleBlk b).ending = s.ending := by
  simp only [State.settleBlk, ending_ite, State.settleGrid_ending, State.testBars_ending, State.modBlk_ending, State.leaveRows_ending,
    foldl_ending, State.freeClaims_ending, ite_self, implies_true]

/-! ### A command ends -/

theorem State.putImage_steady (s : State) (p base : Nat) (l : List ImgPart) : (s.putImage p base l).steady = s.steady := by
  simp only [State.putImage, foldl_steady, State.charge_steady, State.homeWrite_steady, implies_true]

theorem State.keepArea_steady (s : State) (c : Nat) : (s.keepArea c).steady = s.steady := by
  unfold State.keepArea
  dsimp only
  split
  · rfl
  · split
    · rfl
    · exact State.putImage_steady ..

theorem State.unpark_ending (s : State) : s.unpark.ending = s.ending := rfl

/-- A handle register takes a command's status, where it still is its handle. -/
def Cohort.takeStatus (k : Cohort) (o : Opt) (slot st : Nat) : Cohort :=
  if look k.handles o.dreg = some slot then
    { k.setS o.dreg (BitVec.ofNat 64 st) with relS := if o.relWide then o.dreg :: (k.setS o.dreg (BitVec.ofNat 64 st)).relS
      else (k.setS o.dreg (BitVec.ofNat 64 st)).relS }
  else k

/-- A command's entry, once it has ended with a status. -/
def Opt.ended (o : Opt) (st seq : Nat) : Opt := { o with
  busy := false
  st := .free
  status := BitVec.ofNat 32 st
  doneSeq := seq }

/-- The state in which a command's entry has ended, its handle register has its status, and its lines are present. -/
def State.cmdEnded (s : State) (core slot : Nat) (o : Opt) (st : Nat) : State :=
  (((s.modOpt core slot (fun o => o.ended st s.fresh)).next).modCoh o.coh (fun k => k.takeStatus o slot st)).modBlk o.block
    (fun b => { b with absent := b.absent.filter (fun e => e.2 ≠ o.seq) })

theorem State.finishCmd_eq {s : State} {core slot : Nat} {o : Opt} (h : s.optOf core slot = some o) (code detail : Nat) :
    s.finishCmd core slot code detail =
      (((s.cmdEnded core slot o (code * 256 + detail)).keepArea o.coh).unpark).settleBlk o.block := by
  unfold State.finishCmd
  rw [h]
  rfl

theorem State.optOf_modOpt (s : State) (core slot : Nat) (f : Opt → Opt) :
    (s.modOpt core slot f).optOf core slot = (s.optOf core slot).map f := by
  rw [State.optOf, State.modOpt, State.core_modCore, if_pos rfl, look_upd, if_pos rfl]
  rfl

theorem optOf_of_ending {s t : State} (h : t.ending = s.ending) (core slot : Nat) : t.optOf core slot = s.optOf core slot :=
  congrArg (fun x : (Nat → List (Nat × Opt)) × Traps => look (x.1 core) slot) h

theorem State.finishCmd_ending {s : State} {core slot : Nat} {o : Opt} (h : s.optOf core slot = some o) (code detail : Nat) :
    (s.finishCmd core slot code detail).ending = (s.modOpt core slot (fun o => o.ended (code * 256 + detail) s.fresh)).ending := by
  rw [State.finishCmd_eq h]
  exact (State.settleBlk_ending ..).trans ((State.unpark_ending _).trans ((ending_of_steady (State.keepArea_steady ..)).trans rfl))

/-- Where a finished command's entry stands. -/
theorem State.finishCmd_optOf {s : State} {core slot : Nat} {o : Opt} (h : s.optOf core slot = some o) (code detail : Nat) :
    (s.finishCmd core slot code detail).optOf core slot = some (o.ended (code * 256 + detail) s.fresh) := by
  rw [optOf_of_ending (State.finishCmd_ending h code detail), State.optOf_modOpt, h]
  rfl

theorem State.finishCmd_traps {s : State} {core slot : Nat} {o : Opt} (h : s.optOf core slot = some o) (code detail : Nat) :
    (s.finishCmd core slot code detail).traps = s.traps := congrArg Prod.snd (State.finishCmd_ending h code detail)

/-! ### Memory, where the block goes on -/

theorem Cohort.rests_takeStatus (k : Cohort) (o : Opt) (slot st : Nat) : k.Rests (k.takeStatus o slot st) := by
  have hs : ∀ v, k.Rests (k.setS o.dreg v) := fun v => by
    unfold Cohort.setS
    split <;> exact ⟨rfl, rfl, rfl⟩
  unfold Cohort.takeStatus
  split
  · exact hs _
  · exact ⟨rfl, rfl, rfl⟩

theorem livelyOf_map {m : List (Nat × Cohort)} {f : Nat × Cohort → Nat × Cohort}
    (hf : ∀ e, (f e).2.block = e.2.block ∧ (f e).2.isOver = e.2.isOver) (b : Nat) (h : livelyOf m b) : livelyOf (m.map f) b := by
  obtain ⟨e, he, h1, h2⟩ := h
  exact ⟨f e, List.mem_map_of_mem he, (hf e).1.trans h1, (hf e).2.trans h2⟩

theorem State.unpark_lively {s : State} {b : Nat} (h : livelyOf s.cohorts b) : livelyOf s.unpark.cohorts b := by
  refine livelyOf_map (fun e => ?_) b h
  split <;> exact ⟨rfl, rfl⟩

/-- A block with a cohort that has not ended goes on, and memory is as it was. -/
theorem State.settleBlk_mem {s : State} {b : Nat} (h : livelyOf s.cohorts b) : (s.settleBlk b).mem = s.mem := by
  have hf : ∀ (l : List (Nat × Cohort)) (core : Nat) (t : State), ((l.foldl (fun (s : State) e =>
      if e.2.isOver ∧ !s.engineBusy core e.1 then s.freeClaims core e.1 else s) t).cohorts,
      (l.foldl (fun (s : State) e => if e.2.isOver ∧ !s.engineBusy core e.1 then s.freeClaims core e.1 else s) t).mem) =
      (t.cohorts, t.mem) := fun l core t =>
    foldl_invariant (fun u : State => (u.cohorts, u.mem) = (t.cohorts, t.mem)) rfl fun u e hu => by
      split
      · exact hu
      · exact hu
  unfold State.settleBlk
  dsimp only
  have hw := hf (s.cohsOf b) (s.blk b).core s
  generalize (s.cohsOf b).foldl _ s = w at hw
  obtain ⟨hc, hm⟩ := Prod.mk.inj hw
  have go : (w.cohsOf b).all (fun e => e.2.isOver) = false := by
    obtain ⟨e, he, h1, h2⟩ := h
    refine List.all_eq_false.2 ⟨e, List.mem_filter.2 ⟨hc ▸ he, by simp [h1]⟩, by simp [h2]⟩
  rw [if_neg (fun c => by rw [go] at c; exact Bool.false_ne_true c.2.1)]
  exact hm

theorem State.keepArea_idle {s : State} {c : Nat} (h : s.NoArea c) : s.keepArea c = s := by
  unfold State.keepArea
  dsimp only
  split
  · rfl
  · next hp =>
    rw [h (by simpa using hp)]

theorem State.modBlk_held (s : State) (b : Nat) {f : Block → Block} (hf : ∀ k, (f k).grid = k.grid) : (s.modBlk b f).held = s.held := by
  have h : ∀ j, ((s.modBlk b f).blk j).grid = (s.blk j).grid := fun j => by
    rw [State.blk, State.modBlk, getD_upd]
    split
    · next hj => rw [hf, hj.1]; rfl
    · rfl
  simp only [State.held, h]
  rfl

theorem cohPart_of_held {s t : State} (h : t.held = s.held) (c : Nat) : t.cohPart c = s.cohPart c := by
  have hb : (t.coh c).block = (s.coh c).block := congrArg Prod.snd (congrFun (congrArg Held.stands h) c)
  have hg : ∀ b, (t.blk b).grid = (s.blk b).grid := fun b => congrFun (congrArg Held.grid h) b
  have hp : ∀ g, (t.grd g).part = (s.grd g).part := fun g => congrFun (congrArg Held.part h) g
  simp only [State.cohPart, State.cohGrd, State.cohBlk, hb, hg, hp]

theorem noArea_of_held {s t : State} (h : t.held = s.held) {c : Nat} (area : s.NoArea c) : t.NoArea c := by
  have hp : (t.coh c).place = (s.coh c).place := congrArg Prod.fst (congrFun (congrArg Held.stands h) c)
  have he : t.ctl.evictArea = s.ctl.evictArea := congrArg (fun x : Held => x.ctl.evictArea) h
  intro ht
  rw [he, cohPart_of_held h]
  exact area (hp ▸ ht)

theorem State.finishCmd_mem {s : State} {core slot : Nat} {o : Opt} (h : s.optOf core slot = some o) (code detail : Nat)
    (lively : livelyOf s.cohorts o.block) (area : s.NoArea o.coh) : (s.finishCmd core slot code detail).mem = s.mem := by
  have hc := State.modCoh_held (((s.modOpt core slot (fun p => p.ended (code * 256 + detail) s.fresh))).next) o.coh
    (fun k => Cohort.rests_takeStatus k o slot (code * 256 + detail))
  have hl : livelyOf (s.cmdEnded core slot o (code * 256 + detail)).cohorts o.block :=
    (congrFun (congrArg Held.lively hc) o.block).mpr lively
  have ha : (s.cmdEnded core slot o (code * 256 + detail)).NoArea o.coh :=
    noArea_of_held ((State.modBlk_held _ _ (by exact fun _ => rfl)).trans hc) area
  rw [State.finishCmd_eq h, State.keepArea_idle ha, State.settleBlk_mem (State.unpark_lively hl)]
  rfl

end Sys2Proof.Machine
end

section
/-! PROOF. Contributions and outcomes of collectives (R394 to R401), and the settling of O50. -/

namespace Sys2Proof.Machine

/-! ### The collectives that are open -/

theorem State.collAt_putColl (s : State) (c : Coll) : (s.putColl c).collAt c.dtid c.cid = some c := by
  unfold State.collAt State.putColl
  rw [List.find?_append, List.find?_eq_none.2 fun x hx => by simpa [imp_iff_not_or] using (List.mem_filter.1 hx).2]
  simp

theorem State.collAt_dropColl (s : State) (d : Nat) (i : BitVec 32) : (s.dropColl d i).collAt d i = none :=
  List.find?_eq_none.2 fun x hx => by simpa [imp_iff_not_or] using (List.mem_filter.1 hx).2

theorem collAt_names {s : State} {d : Nat} {i : BitVec 32} {c : Coll} (h : s.collAt d i = some c) : c.dtid = d ∧ c.cid = i := by
  simpa using List.find?_some h

theorem State.collDue_none {s : State} {d : Nat} {i : BitVec 32} (h : s.collAt d i = none) : s.collDue d i = s := by
  unfold State.collDue
  rw [h]

theorem State.collDue_early {s : State} {d : Nat} {i : BitVec 32} {c : Coll} (h : s.collAt d i = some c)
    (early : c.whole ∨ s.time < c.start + c.limit) : s.collDue d i = s := by
  unfold State.collDue
  rw [h]
  exact if_pos early

theorem State.collDue_late {s : State} {d : Nat} {i : BitVec 32} {c : Coll} (h : s.collAt d i = some c)
    (part : ∀ x ∈ c.heads, c.heads.length < x.2.nmem) (late : c.start + c.limit ≤ s.time) : s.collDue d i = s.collExpire c := by
  have hw : ¬ c.whole = true := fun w => by
    obtain ⟨x, hx, hn⟩ := List.any_eq_true.1 w
    exact absurd (part x hx) (by simpa using hn)
  unfold State.collDue
  rw [h]
  exact if_neg (not_or.2 ⟨hw, by omega⟩)

/-! ### A contribution arrives -/

/-- A collective as a member's contribution finds it: one that tells of a failed check fails it. -/
def Coll.marked (c : Coll) (head : CollHead) : Coll := if head.fail then { c with failed := some (c.failed.getD 3) } else c

/-- A collective once a member's contribution has arrived. -/
def Coll.joined (c : Coll) (rank : Nat) (head : CollHead) (elems : List Int) : Coll :=
  if (look (c.marked head).heads rank).isSome then c.marked head
  else { c.marked head with
    heads := set (c.marked head).heads rank head
    elems := if head.fail then (c.marked head).elems else set (c.marked head).elems rank elems }

/-- The collective that a contribution joins, or opens. -/
def State.collOrNew (s : State) (d : Nat) (i : BitVec 32) (head : CollHead) : Coll := (s.collAt d i).getD (s.newColl d i head.tmo)

theorem State.collOrNew_names (s : State) (d : Nat) (i : BitVec 32) (head : CollHead) :
    (s.collOrNew d i head).dtid = d ∧ (s.collOrNew d i head).cid = i := by
  unfold State.collOrNew
  cases h : s.collAt d i with
  | none => exact ⟨rfl, rfl⟩
  | some c => exact collAt_names h

theorem Coll.marked_good (c : Coll) {head : CollHead} (good : head.fail = false) : c.marked head = c :=
  if_neg (by rw [good]; exact Bool.false_ne_true)

theorem Coll.marked_bad (c : Coll) {head : CollHead} (bad : head.fail = true) :
    c.marked head = { c with failed := some (c.failed.getD 3) } := if_pos bad

theorem Coll.joined_names (c : Coll) (rank : Nat) (head : CollHead) (elems : List Int) :
    (c.joined rank head elems).dtid = c.dtid ∧ (c.joined rank head elems).cid = c.cid ∧ (c.joined rank head elems).own = c.own := by
  have hm : (c.marked head).dtid = c.dtid ∧ (c.marked head).cid = c.cid ∧ (c.marked head).own = c.own := by
    cases h : head.fail with
    | false => rw [c.marked_good h]; exact ⟨rfl, rfl, rfl⟩
    | true => rw [c.marked_bad h]; exact ⟨rfl, rfl, rfl⟩
  unfold Coll.joined
  split <;> exact hm

/-- A member's first contribution. -/
theorem Coll.joined_kept {c : Coll} {rank : Nat} {head : CollHead} (new : look c.heads rank = none) (good : head.fail = false)
    (elems : List Int) :
    c.joined rank head elems = { c with heads := set c.heads rank head, elems := set c.elems rank elems } := by
  rw [Coll.joined, c.marked_good good, new, good]
  rfl

/-- A member's word that it has failed a target check. -/
theorem Coll.joined_fails {c : Coll} {head : CollHead} (bad : head.fail = true) (well : c.failed = none) (rank : Nat) (elems : List Int) :
    (c.joined rank head elems).failed = some 3 ∧ (look (c.joined rank head elems).heads rank).isSome = true := by
  have hf : (c.marked head).failed = some 3 := by rw [c.marked_bad bad, well]; rfl
  unfold Coll.joined
  split
  · next h => exact ⟨hf, h⟩
  · exact ⟨hf, congrArg Option.isSome (look_set_same ..)⟩

/-- A contribution in time is kept, where the collective is not over on this package. -/
theorem execCollChunkArrival_keeps {s : State} {dtid : BitVec 16} {cid : BitVec 32} {rank : Nat} {head : CollHead} {elems : List Int}
    (due : s.tick.collDue dtid.toNat cid = s.tick) (inTime : s.tick.collExpired dtid.toNat cid = false)
    (on : ¬ (((s.tick.collOrNew dtid.toNat cid head).joined rank head elems).own.isNone = true ∧
      ((s.tick.collOrNew dtid.toNat cid head).joined rank head elems).failed.isSome = true)) :
    exec (.collChunkArrival dtid cid rank head elems) s =
      .next (s.tick.putColl ((s.tick.collOrNew dtid.toNat cid head).joined rank head elems)) := by
  refine congrArg Host.Outcome.next ?_
  rw [due]
  dsimp only
  rw [inTime, if_neg Bool.false_ne_true]
  exact if_neg fun h => on ⟨h.1, h.2.1⟩

theorem execCollChunkArrival_late {s : State} {dtid : BitVec 16} {cid : BitVec 32} {t : State} (due : s.tick.collDue dtid.toNat cid = t)
    (past : t.collExpired dtid.toNat cid = true) (rank : Nat) (head : CollHead) (elems : List Int) :
    exec (.collChunkArrival dtid cid rank head elems) s = .next t := by
  refine congrArg Host.Outcome.next ?_
  rw [due]
  exact if_pos past

theorem collChunkArrival_kept {s : State} {dtid : BitVec 16} {cid : BitVec 32} {rank : Nat} {head : CollHead}
    (inTime : s.tick.collExpired dtid.toNat cid = false) (good : head.fail = false)
    (well : ∀ c, s.collAt dtid.toNat cid = some c → look c.heads rank = none ∧ c.failed = none ∧
      ((∃ h ∈ c.heads, h.2.nmem ≤ c.heads.length) ∨ s.tick.time < c.start + c.limit)) (elems : List Int) :
    Gives (exec (.collChunkArrival dtid cid rank head elems) s) (fun t => ∃ c, t.collAt dtid.toNat cid = some c ∧
      look c.heads rank = some head ∧ look c.elems rank = some elems ∧ s.SameRegs t ∧ t.mem = s.mem) := by
  have due : s.tick.collDue dtid.toNat cid = s.tick := by
    cases h : s.collAt dtid.toNat cid with
    | none => exact State.collDue_none h
    | some c =>
      obtain ⟨-, -, ht⟩ := well c h
      refine State.collDue_early h (ht.imp (fun ⟨x, hx, hn⟩ => List.any_eq_true.2 ⟨x, hx, by simpa using hn⟩) id)
  have fresh : look (s.tick.collOrNew dtid.toNat cid head).heads rank = none ∧ (s.tick.collOrNew dtid.toNat cid head).failed = none := by
    cases h : s.collAt dtid.toNat cid with
    | none => rw [State.collOrNew, show s.tick.collAt dtid.toNat cid = none from h]; exact ⟨rfl, rfl⟩
    | some c =>
      rw [State.collOrNew, show s.tick.collAt dtid.toNat cid = some c from h]
      exact ⟨(well c h).1, (well c h).2.1⟩
  obtain ⟨hd, hi⟩ := s.tick.collOrNew_names dtid.toNat cid head
  have hx := execCollChunkArrival_keeps (rank := rank) (head := head) (elems := elems) due inTime
  generalize s.tick.collOrNew dtid.toNat cid head = c at hd hi fresh hx
  have hj := Coll.joined_kept fresh.1 good elems
  refine ⟨_, hx (by rw [hj, fresh.2]; exact fun h => Bool.false_ne_true h.2), c.joined rank head elems, ?_, ?_⟩
  · obtain ⟨jd, ji, -⟩ := c.joined_names rank head elems
    rw [← hd, ← hi, ← jd, ← ji]
    exact State.collAt_putColl ..
  · rw [hj]
    exact ⟨look_set_same .., look_set_same .., fun _ => ⟨rfl, rfl, rfl⟩, rfl⟩

theorem collChunkArrival_failed {s : State} {dtid : BitVec 16} {cid : BitVec 32} {c : Coll} {head : CollHead}
    (inTime : s.tick.collExpired dtid.toNat cid = false) (bad : head.fail = true) (there : s.collAt dtid.toNat cid = some c)
    (own : c.own ≠ none) (early : s.tick.time < c.start + c.limit) (well : c.failed = none) (rank : Nat) (elems : List Int) :
    Gives (exec (.collChunkArrival dtid cid rank head elems) s) (fun t => s.SameRegs t ∧ t.mem = s.mem ∧
      ∃ d, t.collAt dtid.toNat cid = some d ∧ d.failed = some 3 ∧ d.own = c.own ∧ (look d.heads rank).isSome = true) := by
  have hc : s.tick.collOrNew dtid.toNat cid head = c :=
    congrArg (fun x => x.getD (s.tick.newColl dtid.toNat cid head.tmo)) there
  have hx := execCollChunkArrival_keeps (rank := rank) (head := head) (elems := elems) (State.collDue_early there (.inr early)) inTime
  obtain ⟨jd, ji, jo⟩ := c.joined_names rank head elems
  obtain ⟨hd, hi⟩ := collAt_names there
  obtain ⟨jf, jh⟩ := Coll.joined_fails bad well rank elems
  rw [hc] at hx
  refine ⟨_, hx fun h => own (jo ▸ Option.isNone_iff_eq_none.1 h.1), fun _ => ⟨rfl, rfl, rfl⟩, rfl, c.joined rank head elems, ?_,
    jf, jo, jh⟩
  rw [← hd, ← hi, ← jd, ← ji]
  exact State.collAt_putColl ..

/-! ### A command of the fabric comes to its status -/

/-- The record of a command stands, or it asks for none: it ends with its status. -/
theorem fabEnd_ending {s w : State} {core slot : Nat} {o x : Opt} {code detail : Nat} (hx : s.optOf core slot = some x)
    (hs : x.seq = o.seq) (hw : s.fabWrite core o code detail = (.ok, w)) :
    w.optOf core slot = some x ∧ s.fabEnd core slot o code detail = w.finishCmd core slot code detail := by
  have held := s.fabWrite_held core o code detail
  have ho : w.optOf core slot = some x := by
    rw [hw] at held
    rw [optOf_of_ending (ending_of_held held), hx]
  refine ⟨ho, ?_⟩
  unfold State.fabEnd
  rw [hw]
  exact if_pos (by rw [State.isLive, ho]; simpa using hs)

theorem fabWrite_unnamed {s : State} {o : Opt} (h : namesRecord o.instr = false) (core code detail : Nat) :
    s.fabWrite core o code detail = (.ok, s) := if_pos (by rw [h]; rfl)

theorem State.dropColl_ending (s : State) (d : Nat) (i : BitVec 32) : (s.dropColl d i).ending = s.ending := rfl

theorem State.closeColl_ending (s : State) (c : Coll) (d : Nat) : (s.closeColl c d).ending = s.ending := by
  unfold State.closeColl
  split <;> rfl

theorem State.collFail_ending (s : State) (core slot : Nat) (o : Opt) (code detail : Nat) :
    (s.collFail core slot o code detail).ending = (s.fabEnd core slot o code detail).ending := by
  unfold State.collFail
  dsimp only
  split
  · rw [ending_ite, State.closeColl_ending, ite_self]
  · rfl

/-- A command has ended with a status. -/
def State.EndsWith (t : State) (core slot st : Nat) : Prop :=
  ∃ q, t.optOf core slot = some q ∧ q.busy = false ∧ q.status = BitVec.ofNat 32 st

theorem endsWith_of_ending {t u : State} (h : t.ending = u.ending) {core slot st : Nat} (hu : u.EndsWith core slot st) :
    t.EndsWith core slot st := by
  unfold State.EndsWith
  rw [optOf_of_ending h]
  exact hu

theorem State.finishCmd_endsWith {s : State} {core slot : Nat} {o : Opt} (h : s.optOf core slot = some o) (code detail : Nat) :
    (s.finishCmd core slot code detail).EndsWith core slot (code * 256 + detail) := ⟨_, State.finishCmd_optOf h .., rfl, rfl⟩

theorem collFail_ends {s w : State} {core slot : Nat} {o x : Opt} {code detail : Nat} (hx : s.optOf core slot = some x)
    (hs : x.seq = o.seq) (hw : s.fabWrite core o code detail = (.ok, w)) :
    (s.collFail core slot o code detail).EndsWith core slot (code * 256 + detail) ∧
    (s.collFail core slot o code detail).traps = s.traps := by
  obtain ⟨ho, hf⟩ := fabEnd_ending hx hs hw
  have he := s.collFail_ending core slot o code detail
  have held := s.fabWrite_held core o code detail
  rw [hf] at he
  rw [hw] at held
  refine ⟨endsWith_of_ending he (State.finishCmd_endsWith ho ..), ?_⟩
  calc (s.collFail core slot o code detail).traps
    _ = (w.finishCmd core slot code detail).traps := congrArg Prod.snd he
    _ = w.traps := State.finishCmd_traps ho ..
    _ = s.traps := congrArg Held.traps held

theorem State.fits_of_traps {s t : State} (h : t.traps = s.traps) (core : Nat) : s.fits core t = t :=
  if_neg fun hw => Nat.lt_irrefl _ (show s.waitingAt core < s.waitingAt core by
    have := hw.2
    rwa [State.waitingAt, State.waitingAt, h] at this)

/-! ### The time of a collective runs out -/

/-- The state in which the expiry of a collective is noted. -/
def State.noteExpired (s : State) (c : Coll) : State := { s with fab := { s.fab with
  expired := s.fab.expired.filter (fun (e : Nat × BitVec 32 × Nat) => s.time ≤ e.2.2) ++ [(c.dtid, c.cid, c.start + 3 * c.limit)] } }

theorem collExpire_alone {s : State} {c : Coll} (h : c.own = none) : s.collExpire c = (s.noteExpired c).dropColl c.dtid c.cid := by
  have ho : (s.noteExpired c).collOpt c = none := by rw [State.collOpt, h]; rfl
  unfold State.collExpire
  dsimp only
  split
  · rfl
  · next hc => cases hc.symm.trans ho

theorem collExpired_noteExpired {s : State} {c : Coll} (h : s.time ≤ c.start + 3 * c.limit) :
    ((s.noteExpired c).dropColl c.dtid c.cid).collExpired c.dtid c.cid = true :=
  List.any_eq_true.2 ⟨(c.dtid, c.cid, c.start + 3 * c.limit), List.mem_append_right _ (List.mem_singleton_self _), by
    simp only [beq_self_eq_true, Bool.true_and]
    exact decide_eq_true h⟩

/-- What holds once the time of a collective without an own command has run out. -/
theorem collDue_finished {s : State} {d : Nat} {i : BitVec 32} {c : Coll} (there : s.collAt d i = some c)
    (part : ∀ x ∈ c.heads, c.heads.length < x.2.nmem) (late : c.start + c.limit ≤ s.time) (lately : s.time ≤ c.start + 3 * c.limit)
    (own : c.own = none) : (s.collDue d i).collAt d i = none ∧ (s.collDue d i).collExpired d i = true := by
  obtain ⟨rfl, rfl⟩ := collAt_names there
  rw [State.collDue_late there part late, collExpire_alone own]
  exact ⟨State.collAt_dropColl .., collExpired_noteExpired lately⟩

theorem collPartial_reduction (s : State) (core : Nat) (o : Opt) (f : Nat) {kind : Nat} (h : kind ≤ 1) (c : Coll) :
    s.collPartial core o f kind c = s := by
  unfold State.collPartial
  dsimp only
  rw [if_neg (by omega), if_neg (by omega)]
  rfl

/-- The time of a reduction runs out that a command of this package takes part in, without a record. -/
theorem collDue_ends {s : State} {d : Nat} {i : BitVec 32} {c : Coll} {core slot : Nat} {o : Opt} {e : EArgs} {a : BitVec 6}
    {kind : BitVec 2} (there : s.collAt d i = some c) (part : ∀ x ∈ c.heads, c.heads.length < x.2.nmem)
    (late : c.start + c.limit ≤ s.time) (mine : s.collOpt c = some (core, slot, o)) (ho : s.optOf core slot = some o)
    (hi : o.instr = .coll e a 0 kind) (hk : kind.toNat ≤ 1) (fin : o.fin = none) :
    (s.collDue d i).EndsWith core slot 0x901 ∧ (s.collDue d i).collAt d i = none := by
  obtain ⟨rfl, rfl⟩ := collAt_names there
  have hn : (s.noteExpired c).collOpt c = some (core, slot, o) := mine
  have hx : s.collExpire c = ((s.noteExpired c).collFail core slot o 9 1).dropColl c.dtid c.cid := by
    unfold State.collExpire
    dsimp only
    split
    · next hc => cases hc.symm.trans hn
    · next hc =>
      cases hc.symm.trans hn
      rw [hi]
      dsimp only
      rw [fin, collPartial_reduction _ _ _ _ hk]
      rfl
  rw [State.collDue_late there part late, hx]
  have ho' : (s.noteExpired c).optOf core slot = some o := ho
  have noRecord : namesRecord o.instr = false := by rw [hi]; rfl
  obtain ⟨he, -⟩ := collFail_ends ho' rfl (fabWrite_unnamed noRecord core 9 1)
  exact ⟨endsWith_of_ending (State.dropColl_ending ..) he, State.collAt_dropColl ..⟩

/-! ### The result of a collective -/

theorem State.raiseGrid_none (s : State) (g : Nat) : s.raiseGrid g 0 false = s := if_pos ⟨rfl, rfl⟩

theorem collOpt_of_own {s : State} {core slot : Nat} {o : Opt} {c : Coll} {e : EArgs} {a b : BitVec 6} {kind : BitVec 2}
    (ho : s.optOf core slot = some o) (hi : o.instr = .coll e a b kind) (busy : o.busy = true)
    (hd : s.dtidOf (s.optPart o) = some c.dtid) (own : c.own = some (core, slot)) : s.collOpt c = some (core, slot, o) := by
  unfold State.collOpt
  simp only [own, Option.bind_some, ho, busy, hd, hi]
  simp

/-- The outcome of a collective that its own command awaits. -/
theorem execCollResult_awaited {s : State} {core slot : Nat} {o : Opt} {c : Coll} {e : EArgs} {a b : BitVec 6} {kind : BitVec 2}
    (ho : s.optOf core slot = some o) (hi : o.instr = .coll e a b kind) (busy : o.busy = true) (fin : o.fin = none)
    (hd : s.dtidOf (s.optPart o) = some c.dtid) (mine : s.fab.colls.filter (fun x => x.own == some (core, slot)) = [c])
    (st : o.st = .awaiting) {u : State} (hu : u = if o.mv.isSome then s.tick else s) :
    exec (.collResult core slot) s =
      .next (u.fits core (u.collFinish core slot o ((s.grd o.grid).fslot e.fs.toNat) kind.toNat c)) := by
  have own : c.own = some (core, slot) := by
    have hm : c ∈ s.fab.colls.filter (fun x => x.own == some (core, slot)) := mine ▸ List.mem_singleton_self _
    simpa using (List.mem_filter.1 hm).2
  have hg : u.grd o.grid = s.grd o.grid := by rw [hu]; split <;> rfl
  refine congrArg Host.Outcome.next ?_
  rw [mine, List.findSome?_cons, collOpt_of_own ho hi busy hd own]
  dsimp only [Option.map_some]
  rw [hi]
  dsimp only
  rw [← hu, hg, if_pos ⟨by rw [fin]; rfl, .inl st⟩]

/-- The head of this package's contribution. -/
theorem getD_of_look {m : List (Nat × CollHead)} {k : Nat} {x d : CollHead} (h : look m k = some x) : getD m k d = x := by
  rw [getD, h]
  rfl

theorem collFinish_failed {s : State} {c : Coll} {d : Nat} (h : c.failed = some d) (core slot : Nat) (o : Opt) (f kind : Nat) :
    s.collFinish core slot o f kind c = s.collFail core slot o 9 d := by
  unfold State.collFinish
  rw [h]

theorem collFinish_unequal {s : State} {c : Coll} {x : CollHead} {y : Nat × CollHead} (h : c.failed = none)
    (hx : look c.heads (c.members.findIdx (· == s.ctl.pkg)) = some x) (hy : y ∈ c.heads) (differ : sameHead y.2 x = false)
    (core slot : Nat) (o : Opt) (f kind : Nat) : s.collFinish core slot o f kind c = s.collFail core slot o 9 3 := by
  unfold State.collFinish
  rw [h]
  dsimp only
  rw [getD_of_look hx, if_pos (List.any_eq_true.2 ⟨y, hy, by rw [differ]; rfl⟩)]

/-- Every member has contributed, all agree, and the writes of the result have been made. -/
theorem collFinish_written {s v : State} {c : Coll} {x : CollHead} {core : Nat} {o : Opt} {f kind p : Nat} (h : c.failed = none)
    (hx : look c.heads (c.members.findIdx (· == s.ctl.pkg)) = some x) (agree : ∀ y ∈ c.heads, sameHead y.2 x = true)
    (all : x.nmem ≤ c.heads.length) {r : List Nat × NFlags × Bool}
    (hr : r = s.collElems o f c kind (c.members.findIdx (· == s.ctl.pkg)) x)
    (put : State.engWrites core o ((r.1.zipIdx.map (fun x => (addVa (o.d 1) (x.2 * elemSize (fsCode f) : Nat),
      elemSize (fsCode f), x.1))).drop o.prog) o.prog s = (.ok, p, v)) (slot : Nat) :
    s.collFinish core slot o f kind c = (v.raiseGrid o.grid r.2.1 r.2.2).collFail core slot { o with prog := p } 0 0 := by
  unfold State.collFinish
  rw [h]
  dsimp only
  rw [getD_of_look hx, ← hr, if_neg (fun ha => by
    obtain ⟨y, hy, hn⟩ := List.any_eq_true.1 ha
    rw [agree y hy] at hn
    exact Bool.false_ne_true hn), if_neg (Nat.not_lt.2 all), put]

theorem find?_of_filter_eq {α : Type} {l : List α} {p q : α → Bool} {c : α} (h : l.filter q = [c]) (hc : p c = true) :
    l.find? (fun x => p x && q x) = some c := by
  have hf : (l.filter q).find? p = some c := by rw [h, List.find?_cons_of_pos hc]
  rw [List.find?_filter] at hf
  rw [← hf]
  congr 1
  funext x
  cases p x <;> cases q x <;> rfl

/-- A command finds its collective, in any state with the same fabric, controls and partitions of grids. -/
theorem collOf_of_held {s t : State} (held : t.held = s.held) {core slot : Nat} {o : Opt} {c : Coll}
    (hd : s.dtidOf (s.optPart o) = some c.dtid) (mine : s.fab.colls.filter (fun x => x.own == some (core, slot)) = [c]) :
    t.collOf core slot o = some c := by
  have hf : t.fab = s.fab := congrArg Held.fab held
  have hp : t.optPart o = s.optPart o := congrFun (congrArg Held.part held) o.grid
  have hm : t.ctl.dtid = s.ctl.dtid := congrArg (fun x : Held => x.ctl.dtid) held
  have hk : t.ctl.pkg = s.ctl.pkg := congrArg (fun x : Held => x.ctl.pkg) held
  have hx : ∀ q, t.dtidOf q = s.dtidOf q := fun q => by rw [State.dtidOf, State.dtidOf, hm, hk]
  rw [State.collOf, hp, hx, hd, Option.bind_some, hf]
  exact find?_of_filter_eq mine (beq_self_eq_true _)

theorem put_held {core : Nat} {o : Opt} {l : List (Nat × Nat × Nat)} {i p : Nat} {s v : State} {r : EngOut}
    (h : State.engWrites core o l i s = (r, p, v)) : v.held = s.held := by
  have hs := State.engWrites_held core o l i s
  rwa [h] at hs

/-- A collective whose last member has contributed is forgotten with its command. -/
theorem collFail_drops {s w : State} {core slot : Nat} {o x : Opt} {code detail : Nat} {c : Coll} (hx : s.optOf core slot = some x)
    (hs : x.seq = o.seq) (hw : s.fabWrite core o code detail = (.ok, w)) (mine : s.collOf core slot o = some c)
    (all : c.members.length ≤ c.heads.length) :
    s.collFail core slot o code detail = (w.finishCmd core slot code detail).dropColl c.dtid c.cid := by
  obtain ⟨ho, hf⟩ := fabEnd_ending hx hs hw
  unfold State.collFail
  dsimp only
  rw [mine, hf, State.finishCmd_optOf ho]
  exact (if_pos (by simp [Opt.ended])).trans (if_pos all)

theorem collResult_fails {s : State} {core slot : Nat} {o : Opt} {e : EArgs} {a b : BitVec 6} {kind : BitVec 2} {c : Coll} {d : Nat}
    (ho : s.optOf core slot = some o) (hi : o.instr = .coll e a b kind) (busy : o.busy = true) (fin : o.fin = none)
    (hd : s.dtidOf (s.optPart o) = some c.dtid) (mine : s.fab.colls.filter (fun x => x.own == some (core, slot)) = [c])
    (st : o.st = .awaiting) {u : State} (hu : u = if o.mv.isSome then s.tick else s)
    (hc : ∀ f k, u.collFinish core slot o f k c = u.collFail core slot o 9 d) {w : State} (hw : u.fabWrite core o 9 d = (.ok, w)) :
    Gives (exec (.collResult core slot) s) (fun t => t.EndsWith core slot (0x900 + d)) := by
  have huo : u.optOf core slot = some o := by rw [hu]; split <;> exact ho
  obtain ⟨he, ht⟩ := collFail_ends huo rfl hw
  refine ⟨_, execCollResult_awaited ho hi busy fin hd mine st hu, ?_⟩
  rw [hc, State.fits_of_traps ht]
  exact he

/-- The result has been written, and its record stands or is not asked for: the command is done, and the collective is forgotten. -/
theorem collResult_done {s : State} {core slot : Nat} {o : Opt} {e : EArgs} {a b : BitVec 6} {kind : BitVec 2} {c : Coll}
    (ho : s.optOf core slot = some o) (hi : o.instr = .coll e a b kind) (busy : o.busy = true) (fin : o.fin = none)
    (hd : s.dtidOf (s.optPart o) = some c.dtid) (mine : s.fab.colls.filter (fun x => x.own == some (core, slot)) = [c])
    (st : o.st = .awaiting) {u : State} (hu : u = if o.mv.isSome then s.tick else s) {v : State} (hv : v.held = s.held)
    {q : Opt} (hq : o.seq = q.seq) (hg : q.grid = o.grid) (hc : u.collFinish core slot o ((s.grd o.grid).fslot e.fs.toNat) kind.toNat c = v.collFail core slot q 0 0)
    (all : c.members.length ≤ c.heads.length) {w : State} (hw : v.fabWrite core q 0 0 = (.ok, w)) :
    Gives (exec (.collResult core slot) s) (fun t => t.EndsWith core slot 0 ∧ t.collAt c.dtid c.cid = none ∧
      ((∃ x ∈ s.cohsOf o.block, x.2.isOver = false) → s.NoArea o.coh → t.mem = w.mem)) := by
  have hvo : v.optOf core slot = some o := (optOf_of_ending (ending_of_held hv) core slot).trans ho
  have hut : u.traps = s.traps := by rw [hu]; split <;> rfl
  have hwv : w.held = v.held := by
    have h := v.fabWrite_held core q 0 0
    rwa [hw] at h
  obtain ⟨hwo, -⟩ := fabEnd_ending hvo hq hw
  obtain ⟨-, ht⟩ := collFail_ends hvo hq hw
  have hdq : s.dtidOf (s.optPart q) = some c.dtid := by rw [State.optPart, hg]; exact hd
  have hvt : v.traps = s.traps := congrArg Held.traps hv
  have hx := collFail_drops hvo hq hw (collOf_of_held hv hdq mine) all
  refine ⟨_, execCollResult_awaited ho hi busy fin hd mine st hu, ?_⟩
  rw [hc, State.fits_of_traps (ht.trans (hvt.trans hut.symm)), hx]
  refine ⟨endsWith_of_ending (State.dropColl_ending ..) (State.finishCmd_endsWith hwo 0 0), State.collAt_dropColl .., fun on area => ?_⟩
  obtain ⟨x, hm, hover⟩ := on
  obtain ⟨hm, hb⟩ := List.mem_filter.1 hm
  have lively : livelyOf s.cohorts o.block := ⟨x, hm, by simpa using hb, hover⟩
  exact State.finishCmd_mem hwo 0 0 ((congrFun (congrArg Held.lively (hwv.trans hv)) o.block).mpr lively)
    (noArea_of_held (hwv.trans hv) area)

theorem flitReplayExhausted_ends {s : State} {core slot : Nat} {o : Opt} {e : EArgs} {a b : BitVec 6} {kind : BitVec 2}
    (ho : s.optOf core slot = some o) (hi : o.instr = .coll e a b kind) (busy : o.busy = true) (fin : o.fin = none) {w : State}
    (hw : s.fabWrite core o 9 6 = (.ok, w)) :
    Gives (exec (.flitReplayExhausted (.cmd core slot)) s) (fun t => t.EndsWith core slot (0x900 + 6)) := by
  refine ⟨s.collFail core slot o 9 6, congrArg Host.Outcome.next ?_, (collFail_ends ho rfl hw).1⟩
  dsimp only
  rw [ho]
  dsimp only
  rw [busy, fin, hi]
  rfl

/-- Settles O50: each event by the lemmas about the ports, what other packages ask, contributions, and the ends of commands. -/
theorem fabricEvents : Obligations.FabricEvents := by
  unfold Obligations.FabricEvents
  intro s src off size dtid data core slot
  refine ⟨portOutOfService_waits, portOutOfService_clears, fun k c => remoteRequest_refused, fun bad badL2 rel => ?_,
    fun bytes rec code detail ne here => ?_, fun cid rank head elems => ?_, fun o e a b kind ho hi busy fin => ?_⟩
  · have sound : s.Sound := ⟨bad, badL2, rel⟩
    exact ⟨fun here => remoteRequest_loads sound src data here _ rfl, fun here => ⟨remoteRequest_stores sound src data here _ rfl,
      fun op ty hty => remoteRequest_modifies sound src data op hty here _ rfl, remoteRequest_compares sound src data here _ rfl⟩⟩
  · exact ⟨fun _ apart hr => payloadDelivery_record here hr apart _ _ _ rfl rfl rfl, payloadDelivery_bytes here _ rfl⟩
  · refine ⟨fun inTime good well => collChunkArrival_kept inTime good well elems,
      fun c inTime bad there own early well => collChunkArrival_failed inTime bad there own early well rank elems,
      fun unknown past => ⟨_, execCollChunkArrival_late (State.collDue_none unknown) past rank head elems, rfl,
        fun _ => ⟨rfl, rfl, rfl⟩, rfl⟩,
      fun c there part late lately => ⟨fun own => ?_, fun o e a kind mine ho _ _ hi hk fin => ?_⟩⟩
    · obtain ⟨gone, past⟩ := collDue_finished (s := s.tick) there part (late.trans (State.lt_tick_time s).le) lately own
      exact ⟨⟨_, rfl, gone, past⟩, ⟨_, execCollChunkArrival_late rfl past rank head elems, gone, past⟩⟩
    · exact ⟨_, rfl, collDue_ends (s := s.tick) there part (late.trans (State.lt_tick_time s).le) mine ho hi hk fin⟩
  · have hu : (if o.mv.isSome then s.tick else s).held = s.held := by split <;> rfl
    have hp : (if o.mv.isSome then s.tick else s).ctl = s.ctl := by split <;> rfl
    refine ⟨fun c hd mine st => ⟨fun d hf w hw => ?_, fun x y hf hx hy differ w hw => ?_,
        fun h p v w hf hx agree every all put hw => ?_⟩, fun w hw => flitReplayExhausted_ends ho hi busy fin hw⟩
    · exact collResult_fails ho hi busy fin hd mine st rfl (collFinish_failed hf core slot o) hw
    · exact collResult_fails ho hi busy fin hd mine st rfl (collFinish_unequal hf (hp ▸ hx) hy differ core slot o) hw
    · obtain ⟨t, ht, done, gone, mem⟩ := collResult_done (q := { o with prog := p }) ho hi busy fin hd mine st rfl
        ((State.raiseGrid_held ..).trans ((put_held put).trans hu)) rfl rfl
        (collFinish_written hf (hp ▸ hx) agree every (by rw [hp]) put slot) all hw
      refine ⟨t, ht, done, gone, mem, fun plain within bare => ?_⟩
      rw [plain, within, State.raiseGrid_none, fabWrite_unnamed] at hw
      · exact (congrArg Prod.snd hw).symm
      · rw [hi, bare]
        rfl

end Sys2Proof.Machine
end

section
/-! PROOF. What reads and writes of memory at its home, and written-back sectors, leave of the tables beside memory. -/

namespace Sys2Proof.Machine

/-- The state without memory, slices, harts, damage, granted units, free values and cores; and the TLB of each core. -/
def State.afar (s : State) : State × (Nat → List TlbE) :=
  ({ s with
    mem := []
    ctl := { s.ctl with granted := [] }
    l2 := []
    harts := []
    svc := s.svc.kept
    fresh := 0
    cores := [] }, fun k => (s.core k).tlb)

theorem afar_ite (c : Prop) [Decidable c] (s t : State) : (if c then s else t).afar = if c then s.afar else t.afar :=
  apply_ite _ _ _ _

theorem snd_afar_ite {α : Type} (c : Prop) [Decidable c] (s t : α × State) :
    (if c then s else t).2.afar = if c then s.2.afar else t.2.afar := by split <;> rfl

theorem foldl_afar {α : Type} (f : State → α → State) (hf : ∀ s x, (f s x).afar = s.afar) (l : List α) (s : State) :
    (l.foldl f s).afar = s.afar :=
  foldl_invariant (fun t => t.afar = s.afar) rfl fun t x ht => (hf t x).trans ht

theorem afar_l2 (s : State) (l : List (Nat × List L2Line)) : ({ s with l2 := l } : State).afar = s.afar := rfl

theorem afar_badL2 (s : State) (l : List Nat) : ({ s with svc := { s.svc with badL2 := l } } : State).afar = s.afar := rfl

theorem afar_harts (s : State) (l : List (Nat × Hart)) : ({ s with harts := l } : State).afar = s.afar := rfl

theorem afar_mem (s : State) (m : List Host.Cell) : ({ s with mem := m } : State).afar = s.afar := rfl

theorem State.next_afar (s : State) : s.next.afar = s.afar := rfl

theorem State.charge_afar (s : State) (part pa n : Nat) : (s.charge part pa n).afar = s.afar := by
  simp only [State.charge]
  split <;> rfl

theorem State.chargeOwner_afar (s : State) (pa n : Nat) : (s.chargeOwner pa n).afar = s.afar := by
  unfold State.chargeOwner
  split
  · exact State.charge_afar ..
  · rfl

theorem State.markBad_afar (s : State) (w : Nat) : (s.markBad w).afar = s.afar := by
  unfold State.markBad
  split <;> rfl

theorem State.l2Bad_afar (s : State) (x : Nat) (held write : Bool) : (s.l2Bad x held write).afar = s.afar := by
  simp only [State.l2Bad, afar_ite, foldl_afar, State.markBad_afar, afar_badL2, ite_self, implies_true]

theorem State.l2Room_afar (s : State) (line : Nat) (ls : List L2Line) : (s.l2Room line ls).2.afar = s.afar := by
  simp only [State.l2Room]
  (repeat' split) <;> simp only [State.next_afar, State.chargeOwner_afar]

theorem State.l2Sector_afar (s : State) (x : Nat) (write free : Bool) : (s.l2Sector x write free).afar = s.afar := by
  simp only [State.l2Sector, afar_ite, afar_l2, snd_afar_ite, State.l2Room_afar, State.l2Bad_afar, State.chargeOwner_afar,
    ite_self]

theorem State.l2Read_afar (s : State) (pa n : Nat) : (s.l2Read pa n).afar = s.afar :=
  foldl_afar _ (fun _ _ => State.l2Sector_afar ..) _ _

theorem State.l2Write_afar (s : State) (pa n : Nat) : (s.l2Write pa n).afar = s.afar :=
  foldl_afar _ (fun _ _ => State.l2Sector_afar ..) _ _

theorem State.hartAbort_afar (s : State) (h : Nat) (code sub : BitVec 8) : (s.hartAbort h code sub).afar = s.afar := by
  unfold State.hartAbort
  split <;> rfl

theorem State.conflictWrite_afar (s : State) (pa n : Nat) (except : Option Nat) :
    (s.conflictWrite pa n except).afar = s.afar := by
  simp only [State.conflictWrite, afar_ite, afar_harts, foldl_afar, State.hartAbort_afar, State.next_afar, ite_self,
    implies_true]

theorem State.repair_afar (s : State) (pa n : Nat) : (s.repair pa n).afar = s.afar := by
  unfold State.repair
  split <;> rfl

theorem State.homePut_afar (s : State) (pa n v : Nat) (except : Option Nat) : (s.homePut pa n v except).afar = s.afar := by
  simp only [State.homePut, State.repair_afar, afar_mem, State.conflictWrite_afar]

theorem State.homeWrite_afar (s : State) (pa n v : Nat) (except : Option Nat) : (s.homeWrite pa n v except).afar = s.afar :=
  (State.l2Write_afar ..).trans (State.homePut_afar ..)

/-- A core changes in what is not kept track of. -/
theorem State.modCore_afar (s : State) (k : Nat) {f : Core → Core} (hf : ∀ c, (f c).tlb = c.tlb) :
    (s.modCore k f).afar = s.afar := by
  refine Prod.ext rfl (funext fun j => ?_)
  show ((s.modCore k f).core j).tlb = (s.core j).tlb
  rw [State.core_modCore]
  split
  · next h => rw [hf, h]
  · rfl

theorem State.l1Stale_afar (s : State) (core part : Nat) (ss : List Nat) : (s.l1Stale core part ss).afar = s.afar :=
  State.modCore_afar _ _ (by exact fun _ => rfl)

theorem State.l1Upd_afar (s : State) (core part sec : Nat) (f : L1Sec → L1Sec) : (s.l1Upd core part sec f).afar = s.afar :=
  State.modCore_afar _ _ (by exact fun _ => rfl)

theorem State.leaveSets_afar (s : State) (core part sec : Nat) : (s.leaveSets core part sec).afar = s.afar :=
  State.modCore_afar _ _ (by exact fun _ => rfl)

theorem State.wbSector_afar (s : State) (core part sec : Nat) : (s.wbSector core part sec).afar = s.afar := by
  simp only [State.wbSector]
  split <;> simp only [State.leaveSets_afar, State.l1Upd_afar, foldl_afar, afar_ite, State.markBad_afar, State.repair_afar,
    State.homePut_afar, State.l2Sector_afar, ite_self, implies_true]

theorem State.l2Walk_afar (s : State) (die tctx va : Nat) : (s.l2Walk die tctx va).afar = s.afar := by
  unfold State.l2Walk
  split <;> simp only [foldl_afar, State.l2Read_afar, implies_true]

/-- Engine writes on their way are performed: those that are left are the others. -/
theorem State.drainWrites_afar (s : State) (f : EngWrite → Bool) :
    (s.drainWrites f).afar = ({ s with ewr := s.ewr.filter (fun w => !f w) } : State).afar :=
  foldl_afar _ (fun _ _ => (State.l1Stale_afar ..).trans (State.homeWrite_afar ..)) _ _

end Sys2Proof.Machine
end

section
/-! PROOF. The ends of walks (R36, R37, R39, R40, R154), and O35. -/

namespace Sys2Proof.Machine

/-! ### Lists by key -/

theorem look_map {α β : Type} (m : List (Nat × α)) (f : Nat × α → β) (k : Nat) :
    look (m.map (fun e => (e.1, f e))) k = (look m k).map (fun v => f (k, v)) := by
  induction m with
  | nil => rfl
  | cons e t ih =>
    obtain ⟨j, v⟩ := e
    simp only [List.map_cons, look]
    split
    · next h => rw [h]; rfl
    · exact ih

/-- Some entries change, each at its own key. -/
theorem look_map_if {α : Type} (m : List (Nat × α)) (p : Nat × α → Bool) (f : α → α) (k : Nat) :
    look (m.map (fun e => if p e then (e.1, f e.2) else e)) k = (look m k).map (fun v => if p (k, v) then f v else v) := by
  rw [← look_map m (fun e => if p e then f e.2 else e.2)]
  congr 1
  refine List.map_congr_left fun e _ => ?_
  split <;> rfl

/-! ### Entries of the TLBs -/

theorem mem_tlbAdd (ways fresh : Nat) (same : TlbE → Bool) (l : List TlbE) (e : TlbE) : e ∈ tlbAdd ways fresh same l e := by
  unfold tlbAdd
  split
  · next h => exact List.contains_iff_mem.mp h
  · split
    · exact List.mem_cons_self
    · dsimp only
      split
      · exact List.mem_cons_self
      · split <;> exact List.mem_cons_self

/-- The TLBs of a core and of its cluster hold an entry. -/
def State.HoldsTlb (s : State) (core : Nat) (e : TlbE) : Prop :=
  e ∈ (s.core core).tlb ∧ e ∈ getD s.cluTlb (clusterOf core) []

theorem holdsTlb_of_afar {s t : State} (h : t.afar = s.afar) {core : Nat} {e : TlbE} (hs : s.HoldsTlb core e) :
    t.HoldsTlb core e := by
  have h1 : (t.core core).tlb = (s.core core).tlb := congrFun (congrArg Prod.snd h) core
  have h2 : t.cluTlb = s.cluTlb := congrArg (fun p => p.1.cluTlb) h
  exact ⟨h1 ▸ hs.1, h2 ▸ hs.2⟩

theorem State.fillCore_cluTlb (s : State) (core : Nat) (e : TlbE) : (s.fillCore core e).cluTlb = s.cluTlb := by
  unfold State.fillCore
  split <;> rfl

theorem State.fillCore_walks (s : State) (core : Nat) (e : TlbE) : (s.fillCore core e).walks = s.walks := by
  unfold State.fillCore
  split <;> rfl

theorem State.core_next (s : State) (j : Nat) : s.next.core j = s.core j := rfl

theorem State.fillCore_tlb (s : State) (core : Nat) (e : TlbE) : e ∈ ((s.fillCore core e).core core).tlb := by
  unfold State.fillCore
  split
  · next h => exact List.contains_iff_mem.mp h
  · rw [State.core_next, State.core_modCore, if_pos rfl]
    exact mem_tlbAdd ..

/-- A core that holds the entry keeps it as another one takes it. -/
theorem State.fillCore_keeps {s : State} {j : Nat} {e : TlbE} (h : e ∈ (s.core j).tlb) (core : Nat) :
    e ∈ ((s.fillCore core e).core j).tlb := by
  unfold State.fillCore
  split
  · exact h
  · rw [State.core_next, State.core_modCore]
    split
    · exact mem_tlbAdd ..
    · exact h

theorem State.fillBoth_holds (s : State) (core : Nat) (e : TlbE) : (s.fillBoth core e).HoldsTlb core e := by
  refine ⟨State.fillCore_tlb _ _ _, ?_⟩
  simp only [State.fillBoth, State.fillCore_cluTlb, State.next, getD_set, if_true]
  exact mem_tlbAdd ..

theorem State.fillBoth_keeps {s : State} {j : Nat} {e : TlbE} (h : s.HoldsTlb j e) (core : Nat) :
    (s.fillBoth core e).HoldsTlb j e := by
  refine ⟨State.fillCore_keeps (by exact h.1) core, ?_⟩
  simp only [State.fillBoth, State.fillCore_cluTlb, State.next, getD_set]
  split
  · exact mem_tlbAdd ..
  · exact h.2

theorem State.fillBoth_walks (s : State) (core : Nat) (e : TlbE) : (s.fillBoth core e).walks = s.walks :=
  State.fillCore_walks _ _ _

/-! ### Access counters -/

/-- The access counter of a page rises: a write at its home, and the tier engine's list may grow. -/
theorem State.bumpAcnt_eq (s : State) (a part tctx va : Nat) :
    ∃ (u : State) (r : Tier), s.bumpAcnt a part tctx va = { u with tier := r } ∧ u.steady = s.steady ∧ u.afar = s.afar := by
  have join : ∀ (u : State) (c : Prop) [Decidable c] (r : Tier), u.steady = s.steady → u.afar = s.afar →
      ∃ (w : State) (q : Tier), (if c then { u with tier := r } else u) = { w with tier := q } ∧ w.steady = s.steady ∧
        w.afar = s.afar := fun u c _ r h1 h2 => by
    split
    · exact ⟨u, r, rfl, h1, h2⟩
    · exact ⟨u, u.tier, rfl, h1, h2⟩
  refine join _ _ _ ?_ ?_
  · rw [steady_ite, State.homeWrite_steady, ite_self]
  · rw [afar_ite, State.homeWrite_afar, ite_self]

theorem State.bumpAcnt_still (s : State) (a part tctx va : Nat) : s.Still (s.bumpAcnt a part tctx va) := by
  obtain ⟨u, r, e, h, -⟩ := s.bumpAcnt_eq a part tctx va
  rw [e]
  exact (still_of_steady h : s.Still u)

theorem State.bumpAcnt_walks (s : State) (a part tctx va : Nat) : (s.bumpAcnt a part tctx va).walks = s.walks := by
  obtain ⟨u, r, e, -, h⟩ := s.bumpAcnt_eq a part tctx va
  rw [e]
  exact congrArg (fun p => p.1.walks) h

theorem State.bumpAcnt_holds {s : State} {core : Nat} {e : TlbE} (hs : s.HoldsTlb core e) (a part tctx va : Nat) :
    (s.bumpAcnt a part tctx va).HoldsTlb core e := by
  obtain ⟨u, r, eq, -, h⟩ := s.bumpAcnt_eq a part tctx va
  rw [eq]
  exact (holdsTlb_of_afar h hs : u.HoldsTlb core e)

/-! ### A translation enters the TLBs of the misses that it serves -/

theorem still_foldl {α : Type} {f : State → α → State} (hf : ∀ (s : State) x, s.Still (f s x)) (l : List α) (s : State) :
    s.Still (l.foldl f s) :=
  foldl_invariant (fun t => s.Still t) (still_of_steady rfl) fun t x ht => ht.trans (hf t x)

theorem State.cohCore_fillBoth (s : State) (core : Nat) (e : TlbE) (c : Nat) :
    (s.fillBoth core e).cohCore c = s.cohCore c := by
  unfold State.fillBoth State.fillCore
  dsimp only
  split <;> rfl

/-- The TLBs of some cohorts' cores take a translation, one after the other. -/
def State.fillEach (s : State) (e : TlbE) (ws : List (Nat × Walk)) : State :=
  ws.foldl (fun s w => s.fillBoth (s.cohCore w.2.coh) e) s

theorem State.fillEach_holds (e : TlbE) {c : Nat} : ∀ (ws : List (Nat × Walk)) (s : State),
    ((∃ w ∈ ws, w.2.coh = c) ∨ s.HoldsTlb (s.cohCore c) e) → (s.fillEach e ws).HoldsTlb (s.cohCore c) e
  | [], _, h => h.resolve_left fun ⟨_, hw, _⟩ => List.not_mem_nil hw
  | x :: t, s, h => by
    have ih := State.fillEach_holds e t (s.fillBoth (s.cohCore x.2.coh) e) (c := c)
    rw [State.cohCore_fillBoth] at ih
    refine ih ?_
    obtain ⟨w, hw, rfl⟩ | h := h
    · obtain rfl | hw := List.mem_cons.mp hw
      · exact Or.inr (State.fillBoth_holds ..)
      · exact Or.inl ⟨w, hw, rfl⟩
    · exact Or.inr (State.fillBoth_keeps h _)

theorem State.fillEach_walks (s : State) (e : TlbE) (ws : List (Nat × Walk)) : (s.fillEach e ws).walks = s.walks :=
  foldl_invariant (fun (t : State) => t.walks = s.walks) rfl fun _ _ ht => (State.fillBoth_walks ..).trans ht

theorem State.fillEach_still (s : State) (e : TlbE) (ws : List (Nat × Walk)) : s.Still (s.fillEach e ws) :=
  still_foldl (fun _ _ => still_of_steady (State.fillBoth_steady ..)) _ _

/-- After that each cluster's fill is counted: what the fills have left in the TLBs stays. -/
theorem State.fillAll_after (s : State) (e : TlbE) (acnt : Nat) (ws : List (Nat × Walk)) {P : State → Prop}
    (hP : ∀ u a part tctx va, P u → P (u.bumpAcnt a part tctx va)) (h : P (s.fillEach e ws)) : P (s.fillAll e acnt ws) := by
  unfold State.fillAll
  dsimp only
  split
  · exact h
  · exact foldl_invariant P h fun _ _ ht => hP _ _ _ _ _ ht

theorem State.fillAll_holds (s : State) (e : TlbE) (acnt : Nat) {ws : List (Nat × Walk)} {w : Nat × Walk} (h : w ∈ ws) :
    (s.fillAll e acnt ws).HoldsTlb (s.cohCore w.2.coh) e :=
  s.fillAll_after e acnt ws (P := fun t => t.HoldsTlb _ e) (fun _ _ _ _ _ hu => State.bumpAcnt_holds hu ..)
    (State.fillEach_holds e ws s (Or.inl ⟨w, h, rfl⟩))

theorem State.fillAll_walks (s : State) (e : TlbE) (acnt : Nat) (ws : List (Nat × Walk)) :
    (s.fillAll e acnt ws).walks = s.walks :=
  s.fillAll_after e acnt ws (P := fun t => t.walks = s.walks) (fun _ _ _ _ _ hu => (State.bumpAcnt_walks ..).trans hu)
    (State.fillEach_walks ..)

theorem State.fillAll_still (s : State) (e : TlbE) (acnt : Nat) (ws : List (Nat × Walk)) : s.Still (s.fillAll e acnt ws) :=
  s.fillAll_after e acnt ws (P := fun t => s.Still t) (fun _ _ _ _ _ hu => hu.trans (State.bumpAcnt_still ..))
    (State.fillEach_still ..)

/-! ### The ends of a walk -/

/-- A miss that a leaf of a level has served. -/
def Walk.ended (w : Walk) (lvl : Nat) : Walk := { w with lvl := some lvl }

/-- The misses of a state become others. -/
def State.withWalks (s : State) (l : List (Nat × Walk)) : State := { s with walks := l }

/-- A waiting miss of a die that a page serves. -/
def State.serves (s : State) (die : Nat) (e : TlbE) (x : Nat × Walk) : Bool :=
  e.has x.2.tctx x.2.va && x.2.bad.isNone && x.2.lvl.isNone && dieOf (s.cohCore x.2.coh) == die

/-- The state in which the misses that a walk's page serves have filled their TLBs. -/
def State.walked (s : State) (w : Walk) (e : TlbE) (a : Nat) : State :=
  let die := dieOf (s.cohCore w.coh)
  ((s.l2Walk die w.tctx w.va).fillPtrs die w.tctx w.va).fillAll e a (s.walks.filter (s.serves die e))

theorem State.fillPtrs_eq (s : State) (die tctx va : Nat) :
    s.fillPtrs die tctx va = { s with walkC := (s.fillPtrs die tctx va).walkC } := by
  unfold State.fillPtrs
  split <;> rfl

theorem State.fillPtrs_walks (s : State) (die tctx va : Nat) : (s.fillPtrs die tctx va).walks = s.walks := by
  rw [State.fillPtrs_eq]

theorem State.fillPtrs_cohCore (s : State) (die tctx va c : Nat) : (s.fillPtrs die tctx va).cohCore c = s.cohCore c := by
  rw [State.fillPtrs_eq]
  rfl

theorem cohCore_of_afar {s t : State} (h : t.afar = s.afar) (c : Nat) : t.cohCore c = s.cohCore c :=
  congrArg (fun p => p.1.cohCore c) h

theorem State.walked_walks (s : State) (w : Walk) (e : TlbE) (a : Nat) : (s.walked w e a).walks = s.walks :=
  (State.fillAll_walks ..).trans ((State.fillPtrs_walks ..).trans (congrArg (fun p => p.1.walks) (State.l2Walk_afar ..)))

theorem State.walked_still (s : State) (w : Walk) (e : TlbE) (a : Nat) : s.Still (s.walked w e a) :=
  (still_of_steady ((State.fillPtrs_steady ..).trans (State.l2Walk_steady ..))).trans (State.fillAll_still ..)

theorem State.walked_holds {s : State} {k : Nat} {w : Walk} (hw : (k, w) ∈ s.walks) (e : TlbE) (a : Nat)
    (h : s.serves (dieOf (s.cohCore w.coh)) e (k, w) = true) : (s.walked w e a).HoldsTlb (s.cohCore w.coh) e := by
  have := State.fillAll_holds ((s.l2Walk (dieOf (s.cohCore w.coh)) w.tctx w.va).fillPtrs (dieOf (s.cohCore w.coh)) w.tctx w.va) e a
    (List.mem_filter.mpr ⟨hw, h⟩)
  rwa [State.fillPtrs_cohCore, cohCore_of_afar (State.l2Walk_afar ..)] at this

section
variable {s : State} {k : Nat} {w : Walk} (hw : look s.walks k = some w) (hb : w.bad = none) (hl : w.lvl = none)
include hw hb hl

theorem endWalk_ok {e : TlbE} {a : Nat} (h : s.walkOn (dieOf (s.cohCore w.coh)) w.tctx w.va = .ok e a) :
    s.endWalk k = (s.walked w e a).withWalks (s.walks.map (fun x =>
      if s.serves (dieOf (s.cohCore w.coh)) e x then (x.1, x.2.ended e.lvl) else x)) := by
  simp only [State.endWalk, hw, hb, hl, h, Option.isSome_none, Bool.false_eq_true, or_self, if_false]
  exact congrArg (fun l : List (Nat × Walk) => (s.walked w e a).withWalks (l.map (fun x =>
    if s.serves (dieOf (s.cohCore w.coh)) e x then (x.1, x.2.ended e.lvl) else x))) (s.walked_walks w e a)

/-- The walk finds its page: every waiting miss of the die that the page serves completes (R39, R40). -/
theorem endWalk_fills {e : TlbE} {a : Nat} (h : s.walkOn (dieOf (s.cohCore w.coh)) w.tctx w.va = .ok e a)
    (he : e.has w.tctx w.va = true) :
    look (s.endWalk k).walks k = some { w with lvl := some e.lvl } ∧
    e ∈ ((s.endWalk k).core (s.cohCore w.coh)).tlb ∧ e ∈ getD (s.endWalk k).cluTlb (clusterOf (s.cohCore w.coh)) [] ∧
    (∀ j x, look s.walks j = some x → x.bad = none → x.lvl = none →
      dieOf (s.cohCore x.coh) = dieOf (s.cohCore w.coh) → e.has x.tctx x.va = true →
      look (s.endWalk k).walks j = some { x with lvl := some e.lvl }) ∧
    s.SameRegs (s.endWalk k) ∧ (s.endWalk k).bank = s.bank := by
  have served : ∀ j x, x.bad = none → x.lvl = none → dieOf (s.cohCore x.coh) = dieOf (s.cohCore w.coh) →
      e.has x.tctx x.va = true → s.serves (dieOf (s.cohCore w.coh)) e (j, x) = true := fun j x h1 h2 h3 h4 => by
    simp only [State.serves, h1, h2, h3, h4, Option.isNone_none, Bool.and_self, beq_self_eq_true]
  have marked : ∀ j x, look s.walks j = some x → x.bad = none → x.lvl = none →
      dieOf (s.cohCore x.coh) = dieOf (s.cohCore w.coh) → e.has x.tctx x.va = true →
      look (s.endWalk k).walks j = some { x with lvl := some e.lvl } := fun j x hx h1 h2 h3 h4 => by
    rw [endWalk_ok hw hb hl h]
    refine (look_map_if s.walks _ (fun x => x.ended e.lvl) j).trans ?_
    rw [hx, Option.map_some, if_pos (served j x h1 h2 h3 h4)]
    rfl
  obtain ⟨hcore, hclu⟩ := State.walked_holds (mem_of_look hw) e a (served k w hb hl rfl he)
  obtain ⟨hregs, hbank⟩ := s.walked_still w e a
  refine ⟨marked k w hw hb hl rfl he, ?_, ?_, marked, ?_, ?_⟩ <;> rw [endWalk_ok hw hb hl h]
  · exact hcore
  · exact hclu
  · exact hregs
  · exact hbank

/-- The walk fails: the words that wait for it take its cause. -/
theorem endWalk_fails {c l : Nat} (h : s.walkOn (dieOf (s.cohCore w.coh)) w.tctx w.va = .bad c l) :
    look (s.endWalk k).walks k = some { w with bad := some (c, l) } ∧ s.endWalk k = { s with walks := (s.endWalk k).walks } := by
  simp only [State.endWalk, hw, hb, hl, h, Option.isSome_none, Bool.false_eq_true, or_self, if_false, and_true]
  rw [look_map_if s.walks (fun x => x.2.tctx == w.tctx && x.2.va / 2 ^ 16 == w.va / 2 ^ 16 && x.2.lvl.isNone &&
    dieOf (s.cohCore x.2.coh) == dieOf (s.cohCore w.coh)) (fun x => { x with bad := some (c, l) }), hw]
  simp only [hl, Option.map_some, Option.isNone_none, beq_self_eq_true, Bool.and_self, if_true]

/-- The walk meets MV = 1: its wait starts (R37). -/
theorem endWalk_waits {l : Nat} (h : s.walkOn (dieOf (s.cohCore w.coh)) w.tctx w.va = .mv l) (hm : w.mv = none) :
    s.endWalk k = { s.tick with walks := upd s.walks k (fun w => { w with mv := some s.tick.time }) } := by
  simp only [State.endWalk, hw, hb, hl, h, hm, Option.isSome_none, Bool.false_eq_true, or_self, if_false]
  rfl

end

/-- The wait at MV = 1 comes to its limit, or goes on (R37). -/
theorem execMvWaitTimeout_eq {s : State} {k : Nat} {w : Walk} (hw : look s.walks k = some w) (hb : w.bad = none)
    (hl : w.lvl = none) {l x : Nat} (h : s.walkOn (dieOf (s.cohCore w.coh)) w.tctx w.va = .mv l) (hm : w.mv = some x) :
    execMvWaitTimeout k s = .next (if x + 40000 ≤ s.tick.time ∧ s.moving w.tctx w.va = false then
      { s.tick with walks := upd s.walks k (fun w => { w with bad := some (0x15, l) }) } else s.tick) := by
  have still : s.tick.moving w.tctx w.va = s.moving w.tctx w.va := rfl
  simp only [execMvWaitTimeout, hw, hm, h, hb, hl, still, Option.isNone_none, Bool.not_eq_true', true_and]
  rfl

theorem mvWaitTimeout_gives {s : State} {k : Nat} {w : Walk} (hw : look s.walks k = some w) (hb : w.bad = none)
    (hl : w.lvl = none) {l x : Nat} (h : s.walkOn (dieOf (s.cohCore w.coh)) w.tctx w.va = .mv l) (hm : w.mv = some x) :
    Gives (exec (.mvWaitTimeout k) s) (fun t => s.time < t.time ∧
      look t.walks k = some (if x + 40000 ≤ t.time ∧ s.moving w.tctx w.va = false then { w with bad := some (0x15, l) } else w) ∧
      (∀ j, j ≠ k → look t.walks j = look s.walks j) ∧
      t = { s with
        time := t.time
        fresh := t.fresh
        walks := t.walks }) := by
  refine ⟨_, execMvWaitTimeout_eq hw hb hl h hm, ?_⟩
  split
  · refine ⟨s.lt_tick_time, ?_, fun j hj => ?_, rfl⟩
    · refine (look_upd ..).trans ?_
      rw [if_pos rfl, hw]
      rfl
    · exact (look_upd ..).trans (if_neg hj)
  · exact ⟨s.lt_tick_time, hw, fun _ _ => rfl, rfl⟩

/-- A fetch of a group that waits for one walk alone ends as that walk does (R154). -/
theorem execInstructionCacheFill_one {s : State} {k : Nat} {w : Walk} (hc : clauseAt w.pc = clauseAt (BitVec.ofNat 64 w.va))
    (one : s.walks.filter (fun e => e.2.coh == w.coh && e.2.pc == w.pc) = [(k, w)]) :
    execInstructionCacheFill w.coh w.pc s = .next (s.endWalk k) := by
  have : s.walks.filter (fun e => e.2.coh == w.coh && e.2.pc == w.pc && clauseAt w.pc == clauseAt (BitVec.ofNat 64 e.2.va)) =
      [(k, w)] := by
    rw [← List.filter_filter, List.filter_comm, one]
    simp [hc]
  simp only [execInstructionCacheFill, this, List.foldl_cons, List.foldl_nil]

/-- Settles O35: a walk by the way it ends, a fetch by the one walk it waits for. -/
theorem walksEnd : Obligations.WalksEnd := by
  unfold Obligations.WalksEnd
  intro s k w core end_ hw hb hl
  refine ⟨fun i hi => ?_, fun l x h hm => mvWaitTimeout_gives hw hb hl h hm, fun hm => ⟨s, ?_, rfl⟩⟩
  · have run : exec i s = .next (s.endWalk k) := by
      obtain rfl | ⟨rfl, hc, one⟩ := hi
      · rfl
      · exact execInstructionCacheFill_one hc one
    rw [run]
    refine ⟨fun e a h he => ⟨_, rfl, endWalk_fills hw hb hl h he⟩, fun c l h => ⟨_, rfl, endWalk_fails hw hb hl h⟩,
      fun l h hm => ⟨_, rfl, ?_⟩⟩
    rw [endWalk_waits hw hb hl h hm]
    refine ⟨?_, s.lt_tick_time, (still_of_steady rfl : s.Still s).1, rfl, rfl⟩
    rw [look_upd, if_pos rfl, hw]
    rfl
  · show execMvWaitTimeout k s = .next s
    simp only [execMvWaitTimeout, hw, hm]

end Sys2Proof.Machine
end

section
/-! PROOF. TLB invalidations (R42), and O36. -/

namespace Sys2Proof.Machine

/-! ### Sectors of several cores are written back -/

/-- Sectors named by core, partition and number are written back, one after the other. -/
def State.wbEach (s : State) (l : List (Nat × Nat × Nat)) : State := l.foldl (fun s x => s.wbSector x.1 x.2.1 x.2.2) s

theorem State.wbEach_cons (s : State) (x : Nat × Nat × Nat) (l : List (Nat × Nat × Nat)) :
    s.wbEach (x :: l) = (s.wbSector x.1 x.2.1 x.2.2).wbEach l := rfl

theorem State.wbEach_steady (s : State) (l : List (Nat × Nat × Nat)) : (s.wbEach l).steady = s.steady :=
  foldl_steady _ (fun _ _ => State.wbSector_steady ..) _ _

theorem State.wbEach_afar (s : State) (l : List (Nat × Nat × Nat)) : (s.wbEach l).afar = s.afar :=
  foldl_afar _ (fun _ _ => State.wbSector_afar ..) _ _

/-- A byte of a named sector that is dirty becomes that of one of the L1s that owe it; any other stays. -/
theorem State.getD_wbEach (x : Nat) (l : List (Nat × Nat × Nat)) (s : State) :
    (∃ y ∈ l, y.2.2 = x / 64 ∧ s.owes y.1 y.2.1 x = some (getD (s.wbEach l).mem x 0)) ∨
      ((∀ y ∈ l, y.2.2 = x / 64 → s.owes y.1 y.2.1 x = none) ∧ getD (s.wbEach l).mem x 0 = getD s.mem x 0) := by
  induction l generalizing s with
  | nil => exact Or.inr ⟨fun _ h => (nomatch h), rfl⟩
  | cons a t ih =>
    rw [State.wbEach_cons]
    obtain ⟨y, hy, hx, ho⟩ | ⟨hn, hm⟩ := ih (s.wbSector a.1 a.2.1 a.2.2)
    · rw [State.owes_wbSector] at ho
      split at ho
      · exact nomatch ho
      · exact Or.inl ⟨y, List.mem_cons_of_mem _ hy, hx, ho⟩
    · rw [hm, State.getD_wbSector]
      have later : ∀ y ∈ t, y.2.2 = x / 64 → (y.1 = a.1 ∧ y.2.1 = a.2.1 ∧ x / 64 = a.2.2) ∨ s.owes y.1 y.2.1 x = none :=
        fun y hy hx => by
          have := hn y hy hx
          rw [State.owes_wbSector] at this
          split at this
          · next h => exact Or.inl h
          · exact Or.inr this
      by_cases hx : x / 64 = a.2.2
      · rw [if_pos hx]
        cases ho : s.owes a.1 a.2.1 x with
        | some b => exact Or.inl ⟨a, List.mem_cons_self, hx.symm, ho⟩
        | none =>
          refine Or.inr ⟨fun y hy hyx => ?_, rfl⟩
          obtain rfl | hy := List.mem_cons.1 hy
          · exact ho
          · obtain ⟨h1, h2, -⟩ | h := later y hy hyx
            · rw [h1, h2, ho]
            · exact h
      · rw [if_neg hx]
        refine Or.inr ⟨fun y hy hyx => ?_, rfl⟩
        obtain rfl | hy := List.mem_cons.1 hy
        · exact absurd hyx.symm hx
        · exact (later y hy hyx).resolve_left fun h => hx h.2.2

/-- A sector of an L1 after that: it has come from one that lay there, and is clean where it is named. -/
theorem State.l1_wbEach (c : Nat) {e : L1Sec} (l : List (Nat × Nat × Nat)) (s : State)
    (h : e ∈ ((s.wbEach l).core c).l1) : e.mask = 0 ∨ (e ∈ (s.core c).l1 ∧ (c, e.part, e.sector) ∉ l) := by
  induction l generalizing s with
  | nil => exact Or.inr ⟨h, List.not_mem_nil⟩
  | cons a t ih =>
    obtain h | ⟨h, hn⟩ := ih _ h
    · exact Or.inl h
    · rw [State.wbSector_l1] at h
      split at h
      · next hc =>
        obtain ⟨x, hx, rfl⟩ := List.mem_map.1 h
        split
        · exact Or.inl rfl
        · next hne =>
          rw [if_neg hne] at hn
          refine Or.inr ⟨hx, fun hmem => ?_⟩
          obtain h | h := List.mem_cons.1 hmem
          · exact hne ⟨congrArg (·.2.1) h, congrArg (·.2.2) h⟩
          · exact hn h
      · next hc =>
        refine Or.inr ⟨h, fun hmem => ?_⟩
        obtain h | h := List.mem_cons.1 hmem
        · exact hc (congrArg (·.1) h)
        · exact hn h

/-! ### Dirty sectors at addresses of some entries -/

/-- The dirty sectors of all L1s at addresses to which some entries translate: core, partition, number. -/
def State.owedAt (s : State) (l : List TlbE) : List (Nat × Nat × Nat) :=
  s.cores.flatMap (fun k => (k.2.l1.filter (fun x => x.mask != 0 && inEntries l (64 * x.sector))).map
    (fun x => (k.1, x.part, x.sector)))

theorem State.wbEntries_eq (s : State) (l : List TlbE) : s.wbEntries l = s.wbEach (s.owedAt l) := by
  have e : s.wbEach (s.owedAt l) = s.cores.foldl (fun s k => (k.2.l1.filter (fun x => x.mask != 0 && inEntries l (64 * x.sector))).foldl
      (fun s x => s.wbSector k.1 x.part x.sector) s) s := by
    simp only [State.wbEach, State.owedAt, List.foldl_flatMap, List.foldl_map]
  unfold State.wbEntries
  split
  · next h =>
    obtain rfl := List.isEmpty_iff.1 h
    have none : s.owedAt [] = [] := by simp [State.owedAt, inEntries]
    rw [none]
    rfl
  · exact e.symm

theorem mem_owedAt {s : State} {l : List TlbE} {c : Nat} {x : L1Sec} (hx : x ∈ (s.core c).l1) (hm : x.mask ≠ 0)
    (hl : inEntries l (64 * x.sector) = true) : (c, x.part, x.sector) ∈ s.owedAt l := by
  have there : (c, s.core c) ∈ s.cores := by
    unfold State.core getD at hx ⊢
    cases h : look s.cores c with
    | some k => exact mem_of_look h
    | none =>
      rw [h] at hx
      exact nomatch hx
  refine List.mem_flatMap.2 ⟨_, there, List.mem_map.2 ⟨x, List.mem_filter.2 ⟨hx, ?_⟩, rfl⟩⟩
  rw [hl, Bool.and_true, bne_iff_ne]
  exact hm

theorem owedAt_named {s : State} {l : List TlbE} {y : Nat × Nat × Nat} (h : y ∈ s.owedAt l) : inEntries l (64 * y.2.2) = true := by
  obtain ⟨k, -, h⟩ := List.mem_flatMap.1 h
  obtain ⟨x, hx, rfl⟩ := List.mem_map.1 h
  exact (Bool.and_eq_true_iff.1 (List.mem_filter.1 hx).2).2

/-- What the L1s held dirty at those addresses is in memory, and every other byte of memory is as before. -/
theorem State.wbEntries_home (s : State) (l : List TlbE) :
    s.AllHome (s.wbEntries l) (fun _ _ x => inEntries l (64 * x) = true) := by
  intro x
  rw [State.wbEntries_eq]
  obtain ⟨y, hy, hx, ho⟩ | ⟨hn, hm⟩ := State.getD_wbEach x (s.owedAt l) s
  · obtain ⟨e, he, hb⟩ := Option.bind_eq_some_iff.1 ho
    split at hb
    · next hmask => exact Or.inl ⟨y.1, y.2.1, e, he, hx ▸ owedAt_named hy, hmask, (Option.some.inj hb).symm⟩
    · exact nomatch hb
  · refine Or.inr ⟨fun c q e he hin => ?_, hm⟩
    refine Bool.eq_false_iff.2 fun hmask => ?_
    have hp := List.find?_some he
    simp only [Bool.and_eq_true, beq_iff_eq] at hp
    have hne : e.mask ≠ 0 := fun hz => by
      rw [hz] at hmask
      simp at hmask
    have := hn _ (mem_owedAt (List.mem_of_find?_eq_some he) hne (hp.2.symm ▸ hin)) hp.2
    rw [hp.1, State.owes, he, Option.bind_some, if_pos hmask] at this
    exact nomatch this

theorem State.wbEntries_clean {s : State} {l : List TlbE} {c : Nat} {x : L1Sec} (hx : x ∈ ((s.wbEntries l).core c).l1)
    (hl : inEntries l (64 * x.sector) = true) : x.mask = 0 := by
  rw [State.wbEntries_eq] at hx
  obtain h | ⟨h, hn⟩ := State.l1_wbEach c _ _ hx
  · exact h
  · exact Decidable.not_not.1 fun hm => hn (mem_owedAt h hm hl)

/-! ### Entries that are dropped -/

theorem Inval.hits_iff {v : Inval} {e : TlbE} : v.hits e = true ↔ v.Names e := by
  unfold Inval.hits Inval.Names
  cases v.what <;> simp

theorem State.core_dropTlb (s : State) (f : TlbE → Bool) (c : Nat) :
    (s.dropTlb f).core c = { s.core c with tlb := (s.core c).tlb.filter (fun e => !f e) } := by
  refine (congrArg (fun o : Option Core => o.getD .blank)
    (look_map s.cores (fun k : Nat × Core => { k.2 with tlb := k.2.tlb.filter (fun e => !f e) }) c)).trans ?_
  unfold State.core getD
  cases look s.cores c <;> rfl

/-- The entries listed at a key after some are dropped at every key. -/
theorem mem_getD_filtered {α : Type} (m : List (Nat × List α)) (p : α → Bool) (k : Nat) (e : α) :
    e ∈ getD (m.map (fun c => (c.1, c.2.filter p))) k [] ↔ e ∈ getD m k [] ∧ p e = true := by
  unfold getD
  rw [look_map m (fun c => c.2.filter p)]
  cases look m k <;> simp

theorem look_freshKey {α : Type} (m : List (Nat × α)) : look m (freshKey m) = none := by
  have above : ∀ (m : List (Nat × α)) k, freshKey m ≤ k → look m k = none := fun m => by
    induction m with
    | nil => exact fun _ _ => rfl
    | cons e t ih =>
      intro k hk
      obtain ⟨j, v⟩ := e
      simp only [freshKey] at hk
      simp only [look]
      rw [if_neg (by omega), ih k (by omega)]
  exact above m _ le_rfl

/-- The state in which an invalidation can end: its partition's engine writes are performed, and what the L1s owe. -/
def State.invalHome (s : State) (v : Inval) : State :=
  (s.drainWrites (fun w => w.part == v.part)).wbEntries (s.dropped v)

theorem execTlbInvalidateComplete_eq {s : State} {k : Nat} {v : Inval} (hv : look s.invals k = some v)
    (hf : s.inFlight v.tctx (s.dropped v) = false) :
    execTlbInvalidateComplete k s = .next (((({ s.invalHome v with invals := del (s.invalHome v).invals k } : State).dropTlb
      v.hits).dropPtrs v.tctx).emit (.mail v.part 0)) := by
  simp only [execTlbInvalidateComplete, hv, hf, Bool.false_eq_true, if_false]
  rfl

theorem State.invalHome_steady (s : State) (v : Inval) : (s.invalHome v).steady = s.steady := by
  rw [State.invalHome, State.wbEntries_eq, State.wbEach_steady, State.drainWrites_steady]

theorem State.invalHome_afar (s : State) (v : Inval) :
    (s.invalHome v).afar = ({ s with ewr := s.ewr.filter (fun w => !(w.part == v.part)) } : State).afar := by
  rw [State.invalHome, State.wbEntries_eq, State.wbEach_afar, State.drainWrites_afar]

/-- With no write of the partition on its way there is none to perform. -/
theorem State.drainWrites_none {s : State} {f : EngWrite → Bool} (h : ∀ w ∈ s.ewr, f w = false) : s.drainWrites f = s := by
  have h1 : s.ewr.filter f = [] := List.filter_eq_nil_iff.2 fun w hw => by simp [h w hw]
  have h2 : s.ewr.filter (fun w => !f w) = s.ewr := List.filter_eq_self.2 fun w hw => by simp [h w hw]
  rw [State.drainWrites, h1, h2]
  rfl

/-- R42: an invalidation ends. -/
theorem tlbInvalidateComplete_ends {s : State} {k : Nat} {v : Inval} (hv : look s.invals k = some v)
    (hf : s.inFlight v.tctx (s.dropped v) = false) : Gives (exec (.tlbInvalidateComplete k) s) (fun t =>
    look t.invals k = none ∧ s.Said t (.mail v.part 0) ∧ s.SameRegs t ∧ t.bank = s.bank ∧
    (∀ c e, e ∈ (t.core c).tlb ↔ e ∈ (s.core c).tlb ∧ ¬ v.Names e) ∧
    (∀ c e, e ∈ getD t.cluTlb c [] ↔ e ∈ getD s.cluTlb c [] ∧ ¬ v.Names e) ∧
    (∀ d e, e ∈ getD t.walkC d [] ↔ e ∈ getD s.walkC d [] ∧ e.tctx ≠ v.tctx) ∧
    (∀ c x, x ∈ (t.core c).l1 → inEntries (s.dropped v) (64 * x.sector) = true → x.mask = 0) ∧
    (∀ w ∈ t.ewr, w.part ≠ v.part) ∧
    ((∀ w ∈ s.ewr, w.part ≠ v.part) → s.AllHome t (fun _ _ x => inEntries (s.dropped v) (64 * x) = true))) := by
  refine ⟨_, execTlbInvalidateComplete_eq hv hf, ?_⟩
  have steady := s.invalHome_steady v
  have afar := s.invalHome_afar v
  have tlb : ∀ c, ((s.invalHome v).core c).tlb = (s.core c).tlb := fun c => congrFun (congrArg Prod.snd afar) c
  have clu : (s.invalHome v).cluTlb = s.cluTlb := congrArg (fun p => p.1.cluTlb) afar
  have ptr : (s.invalHome v).walkC = s.walkC := congrArg (fun p => p.1.walkC) afar
  have ewr : (s.invalHome v).ewr = s.ewr.filter (fun w => !(w.part == v.part)) := congrArg (fun p => p.1.ewr) afar
  have out : (s.invalHome v).svc.out = s.svc.out := congrArg (fun p => p.svc.out) steady
  have still := still_of_steady steady
  have kept : ∀ e : TlbE, (!v.hits e) = true ↔ ¬ v.Names e := fun e => by
    rw [← Inval.hits_iff, Bool.not_eq_true', Bool.not_eq_true]
  have clean : ∀ c x, x ∈ ((s.invalHome v).core c).l1 → inEntries (s.dropped v) (64 * x.sector) = true → x.mask = 0 :=
    fun c x hx hin => State.wbEntries_clean hx hin
  have home : (∀ w ∈ s.ewr, w.part ≠ v.part) → s.AllHome (s.invalHome v) (fun _ _ x => inEntries (s.dropped v) (64 * x) = true) :=
    fun hn => by
      rw [State.invalHome, State.drainWrites_none fun w hw => beq_eq_false_iff_ne.2 (hn w hw)]
      exact s.wbEntries_home (s.dropped v)
  generalize s.invalHome v = u at *
  have core : ∀ (u : State) c, (((u.dropTlb v.hits).dropPtrs v.tctx).emit (.mail v.part 0)).core c = (u.dropTlb v.hits).core c :=
    fun _ _ => rfl
  refine ⟨(look_del _ _ _).trans (if_pos rfl), congrArg (· ++ [Out.mail v.part 0]) out, still.1, still.2,
    fun c e => ?_, fun c e => ?_, fun d e => ?_, fun c x hx hin => ?_, fun w hw => ?_, home⟩
  · rw [core, State.core_dropTlb, List.mem_filter, kept]
    exact and_congr_left' (by rw [← tlb c]; rfl)
  · rw [← clu, ← kept]
    exact mem_getD_filtered ..
  · rw [← ptr, ← bne_iff_ne]
    exact mem_getD_filtered ..
  · rw [core, State.core_dropTlb] at hx
    exact clean c x hx hin
  · have := (List.mem_filter.1 (ewr ▸ hw)).2
    simpa using this

/-- Settles O36: the posting, the end, and the wait for what is in flight. -/
theorem tlbInvalidations : Obligations.TlbInvalidations := by
  unfold Obligations.TlbInvalidations
  intro s k n what v
  refine ⟨fun he hr => ⟨{ s with invals := set s.invals (freshKey s.invals) ⟨s.tctxPart n, n, what⟩ }, ?_, rfl,
    freshKey s.invals, look_freshKey _, look_set_same _ _ _, fun i hi => look_set_other _ _ hi⟩,
    tlbInvalidateComplete_ends, fun hv hf => ⟨s, ?_, rfl⟩⟩
  · show execTlbInvalidate n what s = _
    rw [execTlbInvalidate, if_pos ⟨he, hr⟩]
  · show execTlbInvalidateComplete k s = _
    simp only [execTlbInvalidateComplete, hv, hf, if_true]

end Sys2Proof.Machine
end

section
/-! PROOF. The calls of the service code: exports, grants, floors and queues (R80, R91, R92, R195, R415), and O46. -/

namespace Sys2Proof.Machine

/-! ### Memory outside a frame -/

/-- Memory outside a frame is as before. -/
def State.SameOutside (f : Nat) (s t : State) : Prop := ∀ a, a / 2 ^ 21 ≠ f → getD t.mem a 0 = getD s.mem a 0

theorem State.SameOutside.trans {f : Nat} {s t u : State} (h : s.SameOutside f t) (k : t.SameOutside f u) : s.SameOutside f u :=
  fun a ha => (k a ha).trans (h a ha)

theorem State.SameOutside.of_mem {f : Nat} {s t : State} (h : t.mem = s.mem) : s.SameOutside f t := fun _ _ => by rw [h]

theorem State.SameOutside.of_bytes {f : Nat} {s t : State} (h : t.bytes = s.bytes) : s.SameOutside f t :=
  .of_mem (congrArg Prod.fst h)

theorem foldl_sameOutside {α : Type} {f : Nat} {g : State → α → State} {l : List α}
    (h : ∀ t, ∀ x ∈ l, State.SameOutside f t (g t x)) (s : State) : s.SameOutside f (l.foldl g s) :=
  List.foldlRecOn l g (motive := fun t : State => s.SameOutside f t) (.of_mem rfl) fun t ht x hx => ht.trans (h t x hx)

/-- A write whose bytes lie in one frame, at its home. -/
theorem State.homeWrite_sameOutside {f pa n : Nat} (h : ∀ i < n, (pa + i) / 2 ^ 21 = f) (s : State) (v : Nat) (except : Option Nat) :
    s.SameOutside f (s.homeWrite pa n v except) := fun a ha => by
  rw [State.homeWrite_mem, getD_putBytes, if_neg]
  rintro ⟨h1, h2⟩
  have := h (a - pa) (by omega)
  rw [Nat.add_sub_cancel' h1] at this
  exact ha this

/-- The engine writes into a frame are performed: each of them lies in one frame. -/
theorem State.drainWrites_sameOutside {s : State} {f : Nat}
    (h : ∀ w ∈ s.ewr, ∀ i < w.n, (w.pa + i) / 2 ^ 21 = w.pa / 2 ^ 21) :
    s.SameOutside f (s.drainWrites (fun w => w.pa / 2 ^ 21 == f || (w.pa + w.n - 1) / 2 ^ 21 == f)) := by
  refine .trans (.of_mem rfl) (foldl_sameOutside (fun t w hw => ?_) _)
  obtain ⟨hw, hf⟩ := List.mem_filter.1 hw
  have inside : ∀ i < w.n, (w.pa + i) / 2 ^ 21 = f := fun i hi => by
    rw [h w hw i hi]
    simp only [Bool.or_eq_true, beq_iff_eq] at hf
    obtain hf | hf := hf
    · exact hf
    · rw [Nat.add_sub_assoc (by omega)] at hf
      rw [← h w hw (w.n - 1) (by omega), hf]
  exact (State.homeWrite_sameOutside inside t w.v none).trans (.of_mem rfl)

/-- A sector of the frame is written back and dropped. -/
theorem State.wbDrop_sameOutside {f sec : Nat} (h : sec / 2 ^ 15 = f) (s : State) (core part : Nat) :
    s.SameOutside f (s.wbDrop core part [sec]) := fun a ha => by
  refine (State.getD_wbSectors core part a [sec] s).trans (if_neg fun hm => ha ?_)
  rw [List.mem_singleton] at hm
  rw [← h, ← hm, Nat.div_div_eq_div_mul, ← Nat.pow_add' 2 15 6]

theorem State.clearFrame_sameOutside {s : State} {f : Nat}
    (h : ∀ w ∈ s.ewr, ∀ i < w.n, (w.pa + i) / 2 ^ 21 = w.pa / 2 ^ 21) : s.SameOutside f (s.clearFrame f) := by
  have drained := State.drainWrites_sameOutside (f := f) h
  have written : ∀ u : State, ∀ e : Nat × Core, u.SameOutside f
      (((e.2.l1.filter (fun x => x.sector / 2 ^ 15 == f)).map (fun x => (x.part, x.sector))).foldl
        (fun s x => s.wbDrop e.1 x.1 [x.2]) u) := fun u e => foldl_sameOutside (fun t x hx => by
    obtain ⟨y, hy, rfl⟩ := List.mem_map.1 hx
    exact State.wbDrop_sameOutside (by simpa using (List.mem_filter.1 hy).2) t e.1 y.part) u
  unfold State.clearFrame
  dsimp only
  generalize s.drainWrites (fun w => w.pa / 2 ^ 21 == f || (w.pa + w.n - 1) / 2 ^ 21 == f) = u at *
  have caches := foldl_sameOutside (fun t e (_ : e ∈ u.cores) => written t e) u
  refine (drained.trans caches).trans (.of_bytes ?_)
  simp

/-! ### Regions: exports and grants -/

theorem execExportRegion_ok {s : State} {part n : Nat} (room : s.callRoom part = true)
    (ho : (getD s.own n .blank).owner = some part) (hm : s.frameMoves n = false) :
    execExportRegion part n s =
      .next (({ s with own := set s.own n { getD s.own n .blank with exported := true } } : State).emit (.mail part 0)) := by
  simp [execExportRegion, room, ho, hm]

theorem execExportRegion_no {s : State} {part n : Nat} (room : s.callRoom part = true)
    (ho : (getD s.own n .blank).owner ≠ some part) : execExportRegion part n s = .next (s.emit (.mail part 1)) := by
  simp [execExportRegion, room, ho]

theorem execMemoryGrant_unowned {s : State} {part n : Nat} {on : Bool} (room : s.callRoom part = true)
    (ho : s.ownable n = false) : execMemoryGrant part n on s = .next (s.emit (.mail part 1)) := by
  simp [execMemoryGrant, room, ho]

section
variable {s : State} {part n : Nat} (room : s.callRoom part = true) (hp : part < Config.parts) (hn : s.ownable n = true)
  (hm : s.frameMoves n = false)
include room hp hn hm

theorem execMemoryGrant_on : execMemoryGrant part n true s =
    .next (if (getD s.own n .blank).owner.isSome ∨ 0x100000 ≤ s.grantedRegions then s.emit (.mail part 1)
      else ({ s with own := set s.own n { getD s.own n .blank with owner := some part } } : State).emit (.mail part 0)) := by
  simp [execMemoryGrant, room, hn, hm, Nat.not_le.2 hp, mostGranted]
  rfl

theorem execMemoryGrant_off : execMemoryGrant part n false s =
    .next (if (getD s.own n .blank).owner ≠ some part ∨ s.frameBusy n = true then s.emit (.mail part 1)
      else ({ s.clearFrame n with own := del s.own n } : State).emit (.mail part 0)) := by
  simp [execMemoryGrant, room, hn, hm, Nat.not_le.2 hp]

end

/-! ### Floors -/

/-- A sum over partitions is one of them and the others. -/
theorem sum_range_eq_rest_add (g : Nat → Nat) {n p : Nat} (h : p < n) : (List.range n).foldl (fun a p => a + g p) 0 =
    ((List.range n).filter (fun q => q != p)).foldl (fun a p => a + g p) 0 + g p := by
  have total : ∀ l : List Nat, l.foldl (fun a p => a + g p) 0 = (l.map g).sum := fun l => by
    rw [List.sum_eq_foldl, List.foldl_map]
  rw [total, total, ← List.nodup_range.erase_eq_filter, Nat.add_comm]
  exact (List.sum_map_erase g (List.mem_range.2 h)).symm

theorem execFloorRequest_eq {s : State} {part ch : Nat} {units : BitVec 9} (room : s.callRoom part = true)
    (hp : part < Config.parts) (hc : ch < 1024) : execFloorRequest part ch units s = .next
      (if 351 < ((List.range Config.parts).filter (fun p => p != part)).foldl
          (fun a p => a + (getD s.ctl.floor (1024 * p + ch) 0).toNat) 0 + units.toNat then s.emit (.mail part 1)
      else ({ s with ctl := { s.ctl with floor := put s.ctl.floor (1024 * part + ch) units 0 } } : State).emit (.mail part 0)) := by
  have hsum := sum_range_eq_rest_add (fun p => (getD s.ctl.floor (1024 * p + ch) 0).toNat) hp
  have hno : ¬ (Config.parts ≤ part ∨ 1024 ≤ ch ∨ !s.callRoom part) := by
    simp [room, Nat.not_le.2 hp, Nat.not_le.2 hc]
  unfold execFloorRequest State.floorSum
  dsimp only
  rw [if_neg hno, hsum, Nat.add_sub_cancel]

/-! ### Queues -/

/-- A page that is being moved leaves the whole access without its pieces. -/
theorem okPieces_of_moving {l : List (Page × Nat × Nat)} (h : ∃ p ∈ l, p.1 = .mv) : okPieces l = none := by
  obtain ⟨p, hp, hm⟩ := h
  induction l with
  | nil => exact nomatch hp
  | cons a t ih =>
    obtain rfl | ht := List.mem_cons.1 hp
    · simp only [okPieces, List.foldr_cons, hm]
    · have := ih ht
      simp only [okPieces] at this
      simp only [okPieces, List.foldr_cons, this]
      cases a.1 <;> rfl

theorem mv_of_pagesMove {l : List (Page × Nat × Nat)} (h : pagesMove l = true) : ∃ p ∈ l, p.1 = .mv := by
  obtain ⟨p, hp, hm⟩ := List.any_eq_true.1 (Bool.and_eq_true_iff.1 h).1
  exact ⟨p, hp, by cases hq : p.1 <;> simp_all⟩

/-- A unit that waits has its wait on record, and nothing changes beside the waits and the clock. -/
theorem mvMeet_waits {s : State} {u : MvUnit} {n : Nat} {l : List (Page × Nat × Nat)} (h : (s.mvMeet u n l).1 = true) :
    (∃ w ∈ (s.mvMeet u n l).2.mvWaits, w.who = u) ∧
      (s.mvMeet u n l).2 = { s.tick with mvWaits := (s.mvMeet u n l).2.mvWaits } := by
  unfold State.mvMeet at h ⊢
  cases hf : l.find? (fun p => p.1 == .mv) with
  | none =>
    rw [hf] at h
    exact nomatch h
  | some p =>
    rw [hf] at h
    dsimp only at h ⊢
    split
    · next hc =>
      rw [if_pos hc] at h
      exact nomatch h
    · exact ⟨⟨_, List.mem_append_right _ List.mem_cons_self, rfl⟩, rfl⟩

section
variable {s : State} {part q : Nat} {ring spill : BitVec 64} {scap : BitVec 32} (room : s.callRoom part = true)
  (hp : part < Config.parts) (hq : q < 256)
include room hp hq

/-- A named queue of a partition that may call. -/
theorem queueSetup_named : ¬ (Config.parts ≤ part ∨ 256 ≤ q ∨ !s.callRoom part) := by
  simp [room, Nat.not_le.2 hp, Nat.not_le.2 hq]

theorem execQueueSetup_no (h : (s.queue part q).bound = true ∨ (s.queue part q).head ≠ (s.queue part q).tail ∨
    ring.toNat % 2 ^ 16 ≠ 0 ∨ spill.toNat % 16 ≠ 0) :
    execQueueSetup part q ring spill scap s = .next (s.emit (.mail part 1)) :=
  congrArg Host.Outcome.next ((if_neg (queueSetup_named room hp hq)).trans (if_pos h))

theorem execQueueSetup_off (h : ¬ ((s.queue part q).bound = true ∨ (s.queue part q).head ≠ (s.queue part q).tail ∨
    ring.toNat % 2 ^ 16 ≠ 0 ∨ spill.toNat % 16 ≠ 0)) (hr : ring = 0) : execQueueSetup part q ring spill scap s =
      .next ((s.modQueue part q (fun _ => { QDesc.blank with spill := spill, scap := scap.toNat })).emit (.mail part 0)) :=
  congrArg Host.Outcome.next ((if_neg (queueSetup_named room hp hq)).trans ((if_neg h).trans (if_pos hr)))

section
variable (h : ¬ ((s.queue part q).bound = true ∨ (s.queue part q).head ≠ (s.queue part q).tail ∨
    ring.toNat % 2 ^ 16 ≠ 0 ∨ spill.toNat % 16 ≠ 0)) (hr : ring ≠ 0) {n : Nat} (hn : s.callCtx part = some n)
include h hr hn

theorem execQueueSetup_ok {pa : Nat} {l ps : List Nat} (hl : s.ringPages part n ring.toNat 65536 = some (pa :: l))
    (hs : (if spill = 0 then some [] else s.ringPages part n spill.toNat (16 * scap.toNat)) = some ps)
    (hv : s.isLocal pa = true ∧ regionOf (paOff pa) = .vault)
    (hm : ∀ a ∈ ps, s.isLocal a = true ∧ (regionOf (paOff a) = .hbm ∨ regionOf (paOff a) = .cap)) :
    execQueueSetup part q ring spill scap s = .next (((s.mvOver (.queue part q)).modQueue part q
      (fun _ => ⟨ring, spill, scap.toNat, false, 0, 0, pa, ps, []⟩)).emit (.mail part 0)) := by
  have vault : ((s.mvOver (.queue part q)).isLocal pa && regionOf (paOff pa) == .vault) = true := by
    rw [show (s.mvOver (.queue part q)).isLocal pa = true from hv.1, hv.2]
    rfl
  have mem : ps.all (fun a => (s.mvOver (.queue part q)).isLocal a &&
      (regionOf (paOff a) == .hbm || regionOf (paOff a) == .cap)) = true := List.all_eq_true.2 fun a ha => by
    obtain ⟨h1, h2 | h2⟩ := hm a ha
    · rw [show (s.mvOver (.queue part q)).isLocal a = true from h1, h2]
      rfl
    · rw [show (s.mvOver (.queue part q)).isLocal a = true from h1, h2]
      rfl
  -- a name for the pages, or the kernel computes what 65536 bytes of a ring cover
  obtain ⟨pages, hpages⟩ : ∃ f, s.ringPages part = f := ⟨_, rfl⟩
  rw [hpages] at hl hs
  unfold execQueueSetup
  rw [hpages]
  dsimp only
  rw [if_neg (queueSetup_named room hp hq), if_neg h, if_neg hr, hn]
  dsimp only
  rw [hl, hs]
  dsimp only
  rw [vault, mem]
  rfl

/-- R37: the call waits at a page that is being moved. -/
theorem execQueueSetup_wait (hm : pagesMove (s.ringParts part n ring.toNat 65536 ++
      (if spill = 0 then [] else s.ringParts part n spill.toNat (16 * scap.toNat))) = true)
    (hw : (s.mvMeet (.queue part q) n (s.ringParts part n ring.toNat 65536 ++
      (if spill = 0 then [] else s.ringParts part n spill.toNat (16 * scap.toNat)))).1 = true) :
    execQueueSetup part q ring spill scap s = .next (s.mvMeet (.queue part q) n (s.ringParts part n ring.toNat 65536 ++
      (if spill = 0 then [] else s.ringParts part n spill.toNat (16 * scap.toNat)))).2 := by
  have unmapped : s.ringPages part n ring.toNat 65536 = none ∨
      (if spill = 0 then some [] else s.ringPages part n spill.toNat (16 * scap.toNat)) = none := by
    obtain ⟨p, hp, hv⟩ := mv_of_pagesMove hm
    obtain hp | hp := List.mem_append.1 hp
    · exact Or.inl (congrArg _ (okPieces_of_moving ⟨p, hp, hv⟩))
    · split at hp
      · exact nomatch hp
      · next hs =>
        rw [if_neg hs]
        exact Or.inr (congrArg _ (okPieces_of_moving ⟨p, hp, hv⟩))
  -- a name for the pages, as above
  obtain ⟨pages, hpages⟩ : ∃ f, s.ringPages part = f := ⟨_, rfl⟩
  obtain ⟨parts, hparts⟩ : ∃ f, s.ringParts part = f := ⟨_, rfl⟩
  rw [hpages] at unmapped
  rw [hparts] at hm hw
  unfold execQueueSetup
  rw [hpages, hparts]
  dsimp only
  rw [if_neg (queueSetup_named room hp hq), if_neg h, if_neg hr, hn]
  dsimp only
  split
  · next hl hs =>
    obtain hu | hu := unmapped
    · rw [hl] at hu
      exact nomatch hu
    · rw [hs] at hu
      exact nomatch hu
  · rw [if_pos hm, if_pos hw]

end
end

/-! ### The obligation -/

/-- A call is refused, and nothing else changes. -/
theorem gives_refused {i : Instr} {s : State} {part : Nat} (h : exec i s = .next (s.emit (.mail part 1))) :
    Gives (exec i s) (fun t => s.Said t (.mail part 1) ∧ t = { s with svc := t.svc }) := ⟨_, h, rfl, rfl⟩

/-- A region that is granted, or marked, is recorded, and no other. -/
theorem gives_owned {i : Instr} {s : State} {part n : Nat} {v : Own}
    (h : exec i s = .next (({ s with own := set s.own n v } : State).emit (.mail part 0))) :
    Gives (exec i s) (fun t => s.Said t (.mail part 0) ∧ look t.own n = some v ∧
      (∀ f, f ≠ n → look t.own f = look s.own f) ∧ t.cohorts = s.cohorts ∧ t.mem = s.mem) :=
  ⟨_, h, rfl, look_set_same _ _ _, fun _ hf => look_set_other _ _ hf, rfl, rfl⟩

theorem memoryGrant_takesBack {s : State} {part n : Nat} (room : s.callRoom part = true) (hp : part < Config.parts)
    (hn : s.ownable n = true) (hm : s.frameMoves n = false) (ho : (getD s.own n .blank).owner = some part)
    (hb : s.frameBusy n = false) (hw : ∀ w ∈ s.ewr, ∀ i < w.n, (w.pa + i) / 2 ^ 21 = w.pa / 2 ^ 21) :
    Gives (exec (.memoryGrant part n false) s) (fun t =>
      s.Said t (.mail part 0) ∧ look t.own n = none ∧ (∀ f, f ≠ n → look t.own f = look s.own f) ∧ s.SameRegs t ∧
      ∀ a, a / 2 ^ 21 ≠ n → getD t.mem a 0 = getD s.mem a 0) := by
  refine ⟨_, (execMemoryGrant_off room hp hn hm).trans (congrArg _ (if_neg (by simp [ho, hb]))), ?_⟩
  have steady := s.clearFrame_steady n
  have mem : s.SameOutside n (s.clearFrame n) := State.clearFrame_sameOutside hw
  have out : (s.clearFrame n).svc.out = s.svc.out := congrArg (fun p => p.svc.out) steady
  have regs := sameRegs_of_steady steady
  generalize s.clearFrame n = u at *
  exact ⟨congrArg (· ++ [Out.mail part 0]) out, (look_del _ _ _).trans (if_pos rfl),
    fun f hf => (look_del _ _ _).trans (if_neg hf), regs, mem⟩

/-- The floor of a partition on a channel. -/
def State.floorOf (s : State) (p c : Nat) : Nat := (getD s.ctl.floor (1024 * p + c) 0).toNat

theorem floorRequest_settles {s : State} {part ch : Nat} (room : s.callRoom part = true) (units : BitVec 9)
    (hp : part < Config.parts) (hc : ch < 1024) :
    let rest := ((List.range Config.parts).filter (fun p => p != part)).foldl (fun a p => a + s.floorOf p ch) 0
    (rest + units.toNat ≤ 351 → Gives (exec (.floorRequest part ch units) s) (fun t => s.Said t (.mail part 0) ∧
      t.floorOf part ch = units.toNat ∧ (∀ p c, p ≠ part ∨ c ≠ ch → c < 1024 → t.floorOf p c = s.floorOf p c) ∧
      t.cohorts = s.cohorts ∧ t.mem = s.mem)) ∧
    (351 < rest + units.toNat → Gives (exec (.floorRequest part ch units) s)
      (fun t => s.Said t (.mail part 1) ∧ t = { s with svc := t.svc })) := by
  have eq := execFloorRequest_eq (units := units) room hp hc
  refine ⟨fun hle => ⟨_, eq.trans (congrArg _ (if_neg (Nat.not_lt.2 hle))), rfl, ?_, fun p c hpc h => ?_, rfl, rfl⟩,
    fun hlt => gives_refused (eq.trans (congrArg _ (if_pos hlt)))⟩
  · exact congrArg BitVec.toNat (getD_put_same _ _ _ _)
  · exact congrArg BitVec.toNat (getD_put_other _ _ _ (by omega))

/-- A queue becomes what the call describes. -/
theorem gives_queue {i : Instr} {s : State} {part n : Nat} {d : QDesc} {l : List MvWait} (hl : ∀ w ∈ l, w ∈ s.mvWaits)
    (h : exec i s = .next ((({ s with mvWaits := l } : State).modQueue part n (fun _ => d)).emit (.mail part 0))) :
    Gives (exec i s) (fun t => t.queue part n = d ∧ s.Said t (.mail part 0) ∧
      (∀ w ∈ t.mvWaits, w ∈ s.mvWaits) ∧ t = { s with queues := t.queues, svc := t.svc, mvWaits := t.mvWaits }) :=
  ⟨_, h, congrArg (fun o : Option QDesc => o.getD .blank) (look_set_same _ _ _), rfl, hl, rfl⟩

/-- A call waits at a page that is being moved. -/
theorem gives_waits {i : Instr} {s : State} {u : MvUnit} {n : Nat} {l : List (Page × Nat × Nat)}
    (hw : (s.mvMeet u n l).1 = true) (h : exec i s = .next (s.mvMeet u n l).2) : Gives (exec i s) (fun t =>
      t.queues = s.queues ∧ t.svc = s.svc ∧ t.mem = s.mem ∧ t.cohorts = s.cohorts ∧ ∃ w ∈ t.mvWaits, w.who = u) := by
  obtain ⟨who, same⟩ := mvMeet_waits hw
  refine ⟨_, h, ?_⟩
  generalize (s.mvMeet u n l).2 = t at *
  rw [same]
  exact ⟨rfl, rfl, rfl, rfl, who⟩

theorem exec_queueSetup (part q : Nat) (ring spill : BitVec 64) (scap : BitVec 32) (s : State) :
    exec (.queueSetup part q ring spill scap) s = execQueueSetup part q ring spill scap s := rfl

theorem queueSetup_settles {s : State} {part n : Nat} {ring spill : BitVec 64} {scap : BitVec 32} (room : s.callRoom part = true)
    (hp : part < Config.parts) (hq : n < 256) (hb : (s.queue part n).bound = false)
    (ht : (s.queue part n).head = (s.queue part n).tail) (hs : spill.toNat % 16 = 0) :
    let set_ := exec (.queueSetup part n ring spill scap) s
    let becomes := fun (e : QDesc) => Gives set_ (fun t => t.queue part n = e ∧ s.Said t (.mail part 0) ∧
      (∀ w ∈ t.mvWaits, w ∈ s.mvWaits) ∧ t = { s with queues := t.queues, svc := t.svc, mvWaits := t.mvWaits })
    (ring = 0 → becomes ⟨0, spill, scap.toNat, false, 0, 0, 0, [], []⟩) ∧
    (∀ ctx pa l, ring ≠ 0 → ring.toNat % 2 ^ 16 = 0 → s.callCtx part = some ctx →
      s.ringPages part ctx ring.toNat 65536 = some (pa :: l) → s.isLocal pa = true → regionOf (paOff pa) = .vault →
      (spill = 0 → becomes ⟨ring, 0, scap.toNat, false, 0, 0, pa, [], []⟩) ∧
      (∀ ps, spill ≠ 0 → s.ringPages part ctx spill.toNat (16 * scap.toNat) = some ps →
        (∀ a ∈ ps, s.isLocal a = true ∧ (regionOf (paOff a) = .hbm ∨ regionOf (paOff a) = .cap)) →
        becomes ⟨ring, spill, scap.toNat, false, 0, 0, pa, ps, []⟩)) ∧
    (∀ ctx, ring ≠ 0 → ring.toNat % 2 ^ 16 = 0 → s.callCtx part = some ctx →
      let pages := s.ringParts part ctx ring.toNat 65536 ++
        (if spill = 0 then [] else s.ringParts part ctx spill.toNat (16 * scap.toNat))
      pagesMove pages = true → (s.mvMeet (.queue part n) ctx pages).1 = true → Gives set_ (fun t =>
        t.queues = s.queues ∧ t.svc = s.svc ∧ t.mem = s.mem ∧ t.cohorts = s.cohorts ∧ ∃ w ∈ t.mvWaits, w.who = .queue part n)) := by
  have fit : ring.toNat % 2 ^ 16 = 0 → ¬ ((s.queue part n).bound = true ∨ (s.queue part n).head ≠ (s.queue part n).tail ∨
      ring.toNat % 2 ^ 16 ≠ 0 ∨ spill.toNat % 16 ≠ 0) := fun hr => by simpa [hb, ht, hs] using hr
  have eq := exec_queueSetup part n ring spill scap s
  refine ⟨fun hr => ?_, fun ctx pa l hr hr0 hn hl hloc hv => ⟨fun hsp => ?_, fun ps hsp hps hm => ?_⟩,
    fun ctx hr hr0 hn hm hw => ?_⟩
  · subst hr
    exact gives_queue (fun _ h => h) (eq.trans (execQueueSetup_off room hp hq (fit rfl) rfl))
  · subst hsp
    exact gives_queue (fun _ h => List.mem_of_mem_filter h) (eq.trans (execQueueSetup_ok room hp hq (fit hr0) hr hn hl
      (if_pos rfl) ⟨hloc, hv⟩ fun _ h => nomatch h))
  · exact gives_queue (fun _ h => List.mem_of_mem_filter h) (eq.trans (execQueueSetup_ok room hp hq (fit hr0) hr hn hl
      ((if_neg hsp).trans hps) ⟨hloc, hv⟩ hm))
  · exact gives_waits hw (eq.trans (execQueueSetup_wait room hp hq (fit hr0) hr hn hm hw))

/-- Settles O46: each call by its conditions. -/
theorem serviceCalls : Obligations.ServiceCalls := by
  unfold Obligations.ServiceCalls
  intro s part n
  refine ⟨⟨_, rfl, rfl⟩, fun room => ⟨fun ho hm => gives_owned (execExportRegion_ok room ho hm),
    fun ho => gives_refused (execExportRegion_no room ho), fun hp hn hm => ⟨fun ho hg => ?_, fun h => ?_,
      memoryGrant_takesBack room hp hn hm, fun ho => ?_⟩,
    fun hn on => gives_refused (execMemoryGrant_unowned room hn),
    fun units hp hc => floorRequest_settles room units hp hc, fun ring spill scap hp hq => ⟨fun h => ?_,
      queueSetup_settles room hp hq⟩⟩⟩
  · exact gives_owned ((execMemoryGrant_on room hp hn hm).trans (congrArg _ (if_neg (by simp [ho, hg]))))
  · refine gives_refused ((execMemoryGrant_on room hp hn hm).trans (congrArg _ (if_pos ?_)))
    exact h.imp_left Option.isSome_iff_ne_none.2
  · exact gives_refused ((execMemoryGrant_off room hp hn hm).trans (congrArg _ (if_pos (Or.inl ho))))
  · exact gives_refused ((exec_queueSetup ..).trans (execQueueSetup_no room hp hq h))

end Sys2Proof.Machine
end

section
/-! PROOF. Where lanes of a memory word fail, the names of the others' registers may change before they are read: O18, O20.

The obligations take the destination words and the data of the lanes that go on by the names that registers have before the
word. The lanes that fail are parked, and parking a lane withdraws the cohort's waiting lanes from their operations; the
group of such an operation goes on, and meetings and the region are settled again. A region closes when all its lanes have
exited (R295), and its renaming (R157) ends. Where the issuing lane itself is one that has exited, which no hypothesis shuts
out, the word therefore names other registers than before it. -/

namespace Sys2Proof.Machine

/-- Lanes 0 and 1 issue. Lane 0 has exited and is the one lane of the open region, which renames v3 to v5; lane 5 waits at
a queue, and lane 4 of its group with it. v6 and v7 hold addresses: lane 0's is the scratchpad's first byte, lane 1's lies
beyond the scratchpad. -/
def exitedMember : State := { State.reset with
  grids := [(0, { Grid.blank with rcd := [0, 0, 0x0004000800800001] })]
  cohorts := [(0, { Cohort.blank with
    live := allLanes
    exited := oneLane 0
    regs := [(192, 0), (193, 0x1000000), (224, 0x00F00000), (225, 0x00F00000)]
    regionOpen := true
    memb := oneLane 0
    rnt0 := 0x8305 })]
  ops := [(0, ⟨0, 0, 0, oneLane 5, 0, none, .qpop 0, .b32, .rlx, .blk, [], [], oneLane 4, 0, 0, 0⟩)]
  cur := ⟨0, 3, 0, 1, 0, 1, false, 0, false⟩ }

/-- Memory words whose base is v6, of a type. -/
def viaV6 (ty : MType) : MArgs := ⟨⟨7, false⟩, .v 6, ty, .rlx, .blk, .off, .gen⟩

/-- The destination words of the operation that an instruction starts last. -/
def startedDst (i : Instr) (s : State) : Option (List (Dst × Nat × Nat)) :=
  match exec i s with
  | .next t => (look t.ops (t.fresh - 1)).map (·.dst)
  | _ => none

theorem startedDst_of_next {i : Instr} {s t : State} {o : Op} (h : exec i s = .next t) (ho : look t.ops (t.fresh - 1) = some o) :
    startedDst i s = some o.dst := by
  rw [startedDst, h]
  exact congrArg (Option.map (·.dst)) ho

/-- A lane's access passes, or fails with a cause of R45's order, as a test. -/
def settles (s : State) (r : LaneRes) : Bool :=
  r.walks.isEmpty && r.peers.isEmpty && !r.cross && causeOrder.contains r.cause ||
  r.cause == 0 && r.walks.isEmpty && r.peers.isEmpty && !r.cross &&
    r.segs.all (fun g => (s.absentLines g).isEmpty && g.loc != .reg s.cur.coh)

theorem settled_of_settles {s : State} {r : LaneRes} (h : settles s r = true) : s.Settled r := by
  simp only [settles, Bool.or_eq_true, Bool.and_eq_true, List.isEmpty_iff, Bool.not_eq_true', List.contains_iff_mem,
    beq_iff_eq, List.all_eq_true, bne_iff_ne] at h
  obtain ⟨⟨⟨hw, hp⟩, hx⟩, hc⟩ | ⟨⟨⟨⟨hc, hw⟩, hp⟩, hx⟩, hg⟩ := h
  · exact ⟨fun h0 => absurd (h0 ▸ hc) (by decide), fun _ => ⟨hc, hw, hp, hx⟩⟩
  · exact ⟨fun _ => ⟨⟨hc, hw, hp, hx, fun g h => (hg g h).1⟩, fun g h => (hg g h).2⟩, fun h0 => absurd hc h0⟩

/-- The lanes may trap: none of them waits, and none is in a speculative attempt. -/
theorem exitedMember_mayTrap : exitedMember.MayTrap 3 := ⟨by decide, by decide, by decide, by decide⟩

/-- Refutes O18: lane 1 of a load into v3 is parked, the region closes, and lane 0's result goes to v3 and not to v5. -/
theorem not_loadsAndStoresStart : ¬ Obligations.LoadsAndStoresStart := by
  unfold Obligations.LoadsAndStoresStart
  intro h
  obtain ⟨-, split, -⟩ := h (viaV6 .b32) (.v 3) (.i 0) (.i 0) 0 exitedMember
  have can : exitedMember.CanIssue (memNeed (viaV6 .b32) [regTy (.v 3) .b32, (.i 0, 1)] [.i 0]) :=
    ⟨by decide, by decide, by decide, by decide, by decide, by decide, by decide, by decide, by decide⟩
  have settled := fun l hl hr => settled_of_settles ((by decide : ∀ l < 32, (exitedMember.active ⟨7, false⟩).getLsbD l = true →
    settles exitedMember (exitedMember.seek 1 (exitedMember.addr (viaV6 .b32) (some (.i 0)) 0 l) 4 [] (fun _ _ => []) l) = true) l hl hr)
  obtain ⟨t, ht, -, began⟩ := split can rfl exitedMember_mayTrap settled
  obtain ⟨o, ho, -, -, -, -, hd, -⟩ := began (by decide)
  have started := startedDst_of_next ht ho
  rw [hd] at started
  exact absurd started (by decide)

/-- Refutes O20: lane 1 of an atomic with its result in v3 is parked, the region closes, and lane 0's result goes to v3 and
not to v5. -/
theorem not_atomicsStart : ¬ Obligations.AtomicsStart := by
  unfold Obligations.AtomicsStart
  intro h
  obtain ⟨-, -, -, -, split⟩ := h (viaV6 .z32) .add (.v 3) (.i 0) 0 0 exitedMember (by decide)
  have can : exitedMember.CanIssue (memNeed (viaV6 .z32) [regTy (.v 3) .z32, regTy (.i 0) .z32] [.i 0]) :=
    ⟨by decide, by decide, by decide, by decide, by decide, by decide, by decide, by decide, by decide⟩
  have settled := fun l hl hr => settled_of_settles ((by decide : ∀ l < 32, (exitedMember.active ⟨7, false⟩).getLsbD l = true →
    settles exitedMember (exitedMember.seek 3 (exitedMember.addr (viaV6 .z32) none 0 l) 4
      (aligned 4 (exitedMember.addr (viaV6 .z32) none 0 l)) (kindPost exitedMember false) l) = true) l hl hr)
  obtain ⟨t, ht, -, began⟩ := (split exitedMember_mayTrap settled).1 rfl can
  obtain ⟨o, ho, -, -, -, -, hd, -⟩ := began (by decide)
  have started := startedDst_of_next ht ho
  rw [hd] at started
  exact absurd started (by decide)

end Sys2Proof.Machine
end

section
/-! PROOF. Lanes are parked with their record (R46, R306, R370, R371), and O16. -/

namespace Sys2Proof.Machine

/-! ### Lanes that wait for operations are let go (R336) -/

/-- What a cohort holds beyond where its lanes stand and the counts of its flags. -/
def Cohort.lasting (k : Cohort) : Cohort := { k.bare with cf := [] }

/-- No lane of m waits for an operation of cohort c. -/
def State.FreeOf (s : State) (c : Nat) (m : LaneMask) : Prop :=
  ∀ e ∈ s.ops, e.2.coh = c → ∀ l, m.getLsbD l = true → e.2.hold.getLsbD l = false

theorem opHeld_getLsbD (ops : List (Nat × Op)) (c l : Nat) (a : LaneMask) :
    (ops.foldl (fun m o => if o.2.coh = c then m ||| o.2.hold else m) a).getLsbD l =
      (a.getLsbD l || ops.any (fun o => o.2.coh == c && o.2.hold.getLsbD l)) := by
  induction ops generalizing a with
  | nil => simp
  | cons o t ih =>
    rw [List.foldl_cons, ih, List.any_cons]
    by_cases h : o.2.coh = c
    · simp [h, Bool.or_assoc]
    · simp [h, beq_eq_false_iff_ne.2 h]

theorem State.freeOf_of_opHeld {s : State} {c : Nat} {m : LaneMask} (h : s.opHeld c &&& m = 0) : s.FreeOf c m := by
  intro e he hc l hl
  have bit := congrArg (·.getLsbD l) h
  simp only [BitVec.getLsbD_and, hl, Bool.and_true, State.opHeld, opHeld_getLsbD, BitVec.ofNat_eq_ofNat,
    BitVec.getLsbD_zero, Bool.false_or, List.any_eq_false] at bit
  simpa [hc] using bit e he

/-- Waiting lanes of a cohort have been let go, none of them one of m: only where other lanes stand has changed, the flags'
counts, and which operations wait for whom. -/
structure State.LetGo (s t : State) (c : Nat) (m : LaneMask) : Prop where
  rest : t = { s with
    cohorts := t.cohorts
    ops := t.ops
    qwaits := t.qwaits }
  lasting : ∀ j, (t.coh j).lasting = (s.coh j).lasting
  there : ∀ j, (look t.cohorts j).isSome = (look s.cohorts j).isSome
  stay : ∀ l, m.getLsbD l = true → (t.coh c).pcOf l = (s.coh c).pcOf l
  free : t.FreeOf c m

theorem State.LetGo.trans {s t u : State} {c : Nat} {m : LaneMask} (h : s.LetGo t c m) (k : t.LetGo u c m) : s.LetGo u c m := by
  refine ⟨?_, fun j => (k.lasting j).trans (h.lasting j), fun j => (k.there j).trans (h.there j),
    fun l hl => (k.stay l hl).trans (h.stay l hl), k.free⟩
  have e := k.rest
  rw [h.rest] at e
  exact e

/-- Operations that wait for no more lanes than before. -/
theorem State.LetGo.of_ops {s : State} {c : Nat} {m : LaneMask} {ops : List (Nat × Op)} {ws : List QWait}
    (h : ({ s with ops := ops, qwaits := ws } : State).FreeOf c m) : s.LetGo { s with ops := ops, qwaits := ws } c m :=
  ⟨rfl, fun _ => rfl, fun _ => rfl, fun _ _ => rfl, h⟩

theorem mem_upd {α : Type} {l : List (Nat × α)} {k : Nat} {f : α → α} {e : Nat × α} (h : e ∈ upd l k f) :
    e ∈ l ∨ ∃ v, (k, v) ∈ l ∧ e = (k, f v) := by
  unfold upd at h
  split at h
  · next v hv =>
    obtain rfl | h := mem_set h
    · exact Or.inr ⟨v, mem_of_look hv, rfl⟩
    · exact Or.inl h
  · exact Or.inl h

theorem State.LetGo.modOp {s : State} {c : Nat} {m : LaneMask} (h : s.FreeOf c m) (i : Nat) {f : Op → Op}
    (coh : ∀ o, (f o).coh = o.coh) (hold : ∀ o l, (f o).hold.getLsbD l = true → o.hold.getLsbD l = true) :
    s.LetGo (s.modOp i f) c m := by
  refine .of_ops (s := s) (ws := s.qwaits) fun e he hc l hl => ?_
  obtain he | ⟨o, ho, rfl⟩ := mem_upd he
  · exact h e he hc l hl
  · exact Bool.eq_false_iff.2 fun hh => Bool.eq_false_iff.1 (h _ ho ((coh o).symm.trans hc) l hl) (hold o l hh)

theorem coh_flagDown_lasting (s : State) (d : Nat) (f : Option Nat) (j : Nat) :
    ((s.flagDown d f).coh j).lasting = (s.coh j).lasting ∧ ((s.flagDown d f).coh j).pc = (s.coh j).pc := by
  unfold State.flagDown
  split
  · rw [coh_modCoh]
    split
    · next h =>
      rw [h.1]
      exact ⟨rfl, rfl⟩
    · exact ⟨rfl, rfl⟩
  · exact ⟨rfl, rfl⟩

theorem State.LetGo.flagDown {s : State} {c : Nat} {m : LaneMask} (h : s.FreeOf c m) (d : Nat) (f : Option Nat) :
    s.LetGo (s.flagDown d f) c m := by
  have same : ∀ j, (look (s.flagDown d f).cohorts j).isSome = (look s.cohorts j).isSome := fun j => by
    unfold State.flagDown
    split
    · exact isSome_modCoh ..
    · rfl
  have ops : (s.flagDown d f).ops = s.ops := by
    unfold State.flagDown
    split <;> rfl
  refine ⟨?_, fun j => (coh_flagDown_lasting s d f j).1, same,
    fun l _ => congrArg (fun pc => getD pc l 0) (coh_flagDown_lasting s d f c).2, ?_⟩
  · unfold State.flagDown
    split <;> rfl
  · rw [State.FreeOf, ops]
    exact h

/-- Lanes that arrive elsewhere leave the others where they are. -/
theorem pcOf_arrive_off (s : State) (d c : Nat) {m : List Nat} (p : DWord) (b : Bool) {l : Nat} (h : d = c → l ∉ m) :
    ((s.arrive d (m.map (fun l => (l, p))) b).coh c).pcOf l = (s.coh c).pcOf l := by
  by_cases hd : d = c
  · subst hd
    by_cases there : (look s.cohorts d).isSome
    · rw [pcOf_arrive _ _ _ _ _ there, if_neg (h rfl)]
    · unfold State.arrive
      rw [coh_modCoh, if_neg (fun hc => there hc.2)]
  · rw [coh_arrive_other _ _ _ (Ne.symm hd)]

theorem State.LetGo.arrive {s : State} {c : Nat} {m : LaneMask} (h : s.FreeOf c m) (d : Nat) {ls : List Nat} (p : DWord) (b : Bool)
    (off : d = c → ∀ l ∈ ls, m.getLsbD l = false) : s.LetGo (s.arrive d (ls.map (fun l => (l, p))) b) c m := by
  refine ⟨rfl, fun j => ?_, fun j => isSome_arrive .., fun l hl => pcOf_arrive_off s d c p b fun hd hm => ?_, h⟩
  · by_cases hj : j = d
    · rw [hj]
      exact congrArg (fun k : Cohort => ({ k with cf := [] } : Cohort)) (bare_arrive s d _ b)
    · rw [coh_arrive_other _ _ _ hj]
  · rw [off hd l hm] at hl
    exact nomatch hl

/-- Lanes of an operation are done; with the last one, those that waited for it go on. -/
theorem State.LetGo.opDone {s : State} {c : Nat} {m : LaneMask} (h : s.FreeOf c m) (i : Nat) (d : LaneMask) :
    s.LetGo (s.opDone i d) c m := by
  unfold State.opDone
  split
  · exact .of_ops (s := s) (ws := s.qwaits) h
  · next o ho =>
    dsimp only
    split
    · have fewer : ({ s with ops := del s.ops i } : State).FreeOf c m := fun e he => h e (mem_del he)
      have fell := (State.LetGo.of_ops (s := s) (ws := s.qwaits) fewer).trans (.flagDown fewer o.coh o.flag)
      split
      · exact fell
      · refine fell.trans (.arrive fell.free o.coh o.next true fun hc l hl => Bool.eq_false_iff.2 fun hm => ?_)
        have held := (mem_lanesOf.1 hl).2
        rw [BitVec.getLsbD_and, h _ (mem_of_look ho) hc l hm] at held
        exact nomatch held
    · exact .modOp h i (fun _ => rfl) fun _ _ h => h

/-- A cohort's waiting lanes are withdrawn: no other lane is moved. -/
theorem State.LetGo.withdraw {s : State} {c : Nat} {m : LaneMask} (h : s.FreeOf c m) : s.LetGo (s.withdraw c) c m := by
  unfold State.withdraw
  refine foldl_invariant (fun t : State => s.LetGo t c m) (.of_ops (s := s) (ws := s.qwaits) h) fun t o ht => ht.trans ?_
  have fewer : t.LetGo { t with qwaits := t.qwaits.filter (fun w => w.op != o.1) } c m := .of_ops (s := t) (ops := t.ops) ht.free
  have shrunk := fewer.trans (.modOp fewer.free o.1 (f := fun q =>
    { q with hold := q.hold &&& ~~~(if o.2.grp = 0 then o.2.lanes else o.2.grp) }) (fun _ => rfl) fun q l hl => by
      rw [BitVec.getLsbD_and, Bool.and_eq_true] at hl
      exact hl.1)
  exact shrunk.trans (.opDone shrunk.free o.1 o.2.lanes)

/-! ### The words of a record (R371) -/

theorem extractLsb'_ofNat_64 {lo k : Nat} (n : Nat) (h : lo + k ≤ 64) :
    (BitVec.ofNat 64 n).extractLsb' lo k = BitVec.ofNat k (n >>> lo) := by
  apply BitVec.eq_of_getLsbD_eq
  intro i hi
  simp only [BitVec.getLsbD_extractLsb', BitVec.getLsbD_ofNat, Nat.testBit_shiftRight, hi, decide_true, Bool.true_and,
    show lo + i < 64 by omega]

/-- A field of a word that is a sum of fields. -/
theorem extractLsb'_ofNat_eq {lo k n x : Nat} (h : lo + k ≤ 64) (e : n / 2 ^ lo % 2 ^ k = x % 2 ^ k) :
    (BitVec.ofNat 64 n).extractLsb' lo k = BitVec.ofNat k x := by
  rw [extractLsb'_ofNat_64 n h, Nat.shiftRight_eq_div_pow]
  apply BitVec.eq_of_toNat_eq
  rw [BitVec.toNat_ofNat, BitVec.toNat_ofNat, e]

theorem recordWords_eq (a : TrapArgs) (source tid blk time : Nat) (pc : DWord) (lanes path memb coh core tctx serial : Nat) :
    recordWords a source tid blk time pc lanes path memb coh core tctx serial =
      [BitVec.ofNat 64 (a.kind + a.cause * 2 ^ 8 + a.sub % 256 * 2 ^ 16 + a.access * 2 ^ 24 + a.level * 2 ^ 32 + source * 2 ^ 40),
        BitVec.ofNat 64 (tid + blk * 2 ^ 32), BitVec.ofNat 64 time, pc, BitVec.ofNat 64 (lanes + path * 2 ^ 32),
        BitVec.ofNat 64 (memb + (coh + core * 2 ^ 10 + tctx * 2 ^ 20) * 2 ^ 32), a.va,
        BitVec.ofNat 64 (a.detail % 2 ^ 32 + serial * 2 ^ 32)] := by
  simp only [recordWords, List.map_cons, List.map_nil, BitVec.ofNat_toNat, BitVec.setWidth_eq]

/-- The fields of a lane record without access that the service code reads. -/
theorem recordWords_fields (cause sub : Nat) (va : DWord) (detail source tid blk time : Nat) (pc : DWord) (lanes : LaneMask)
    (path memb coh core tctx serial : Nat) (hc : cause < 256) (ht : tid < 2 ^ 32) :
    ∃ w0 w1 w2 w4 w5 w7, recordWords ⟨1, cause, sub, 0, 15, va, detail⟩ source tid blk time pc lanes.toNat path memb coh core tctx
        serial = [w0, w1, w2, pc, w4, w5, va, w7] ∧
      w0.extractLsb' 0 8 = 1 ∧ w0.extractLsb' 8 8 = BitVec.ofNat 8 cause ∧ w0.extractLsb' 16 8 = BitVec.ofNat 8 sub ∧
      w0.extractLsb' 40 16 = BitVec.ofNat 16 source ∧
      w1.extractLsb' 0 32 = BitVec.ofNat 32 tid ∧ w1.extractLsb' 32 32 = BitVec.ofNat 32 blk ∧
      w4.extractLsb' 0 32 = lanes ∧ w7.extractLsb' 0 32 = BitVec.ofNat 32 detail ∧
      w7.extractLsb' 32 32 = BitVec.ofNat 32 serial := by
  have hl : lanes.toNat < 2 ^ 32 := lanes.isLt
  have hm : BitVec.ofNat 32 lanes.toNat = lanes := by simp
  have words := recordWords_eq ⟨1, cause, sub, 0, 15, va, detail⟩ source tid blk time pc lanes.toNat path memb coh core tctx serial
  dsimp only at words
  refine ⟨_, _, _, _, _, _, words, extractLsb'_ofNat_eq (x := 1) (by decide) ?_, extractLsb'_ofNat_eq (by decide) ?_,
    extractLsb'_ofNat_eq (by decide) ?_, extractLsb'_ofNat_eq (by decide) ?_, extractLsb'_ofNat_eq (by decide) ?_,
    extractLsb'_ofNat_eq (by decide) ?_, (extractLsb'_ofNat_eq (by decide) ?_).trans hm,
    extractLsb'_ofNat_eq (by decide) ?_, extractLsb'_ofNat_eq (by decide) ?_⟩
  all_goals omega

/-! ### Parking -/

theorem look_foldl_set {α : Type} (v : α) (ls : List Nat) (m : List (Nat × α)) (k : Nat) :
    look (ls.foldl (fun m l => set m l v) m) k = if k ∈ ls then some v else look m k := by
  induction ls generalizing m with
  | nil => simp
  | cons l t ih =>
    rw [List.foldl_cons, ih, look_set]
    by_cases ht : k ∈ t
    · simp [ht]
    · simp [ht]

/-- What a cohort is after some of its lanes have been parked with an identifier. -/
def Cohort.parkedAs (k : Cohort) (lanes : LaneMask) (tid : Nat) : Cohort := { k.flushRegs with
  parked := k.parked ||| lanes
  tid := (lanesOf lanes).foldl (fun m l => set m l tid) k.tid }

section
variable {s t : State} {c : Nat} {m : LaneMask} (h : s.LetGo t c m)
include h

theorem State.LetGo.traps : t.traps = s.traps := by rw [h.rest]

theorem State.LetGo.cur : t.cur = s.cur := by rw [h.rest]

theorem State.LetGo.blk (b : Nat) : t.blk b = s.blk b := by
  have blocks : t.blocks = s.blocks := by rw [h.rest]
  rw [State.blk, State.blk, blocks]

theorem State.LetGo.grd (g : Nat) : t.grd g = s.grd g := by
  have grids : t.grids = s.grids := by rw [h.rest]
  rw [State.grd, State.grd, grids]

theorem State.LetGo.cohBlk (j : Nat) : t.cohBlk j = s.cohBlk j := by
  have block := congrArg Cohort.block (h.lasting j)
  exact (h.blk _).trans (congrArg s.blk block)

theorem State.LetGo.cohGrd (j : Nat) : t.cohGrd j = s.cohGrd j := by
  rw [State.cohGrd, State.cohGrd, h.cohBlk, h.grd]

end

/-- The state in which waiting lanes have been let go and a record written, once it parks its lanes. -/
theorem park_eq {s : State} {c : Nat} {lanes : LaneMask} (h : lanes ≠ 0) (pc : DWord) (a : TrapArgs) :
    s.park c lanes pc a = ((((s.withdraw c).record c lanes pc a lanes.toNat (s.cohCore c) 0).2.modCoh c
      (fun k => k.parkedAs lanes (getD (s.withdraw c).traps.nextTid ((s.withdraw c).cohGrd c).part 0))).drop lanes) :=
  if_neg h

/-- Lanes of the issuing word take a trap. -/
theorem park_trapped {s : State} {lanes : LaneMask} {cause sub detail : Nat} {va pc : DWord}
    (there : (look s.cohorts s.cur.coh).isSome = true) (hne : lanes ≠ 0) (free : s.FreeOf s.cur.coh lanes) (hc : cause < 256)
    (ht : getD s.traps.nextTid (s.cohPart s.cur.coh) 0 < 2 ^ 32) :
    s.Trapped (s.park s.cur.coh lanes pc ⟨1, cause, sub, 0, 15, va, detail⟩) lanes pc cause sub va detail ∧
    (look (s.park s.cur.coh lanes pc ⟨1, cause, sub, 0, 15, va, detail⟩).cohorts s.cur.coh).isSome = true ∧
    (s.park s.cur.coh lanes pc ⟨1, cause, sub, 0, 15, va, detail⟩).cur = { s.cur with lanes := s.cur.lanes &&& ~~~lanes } := by
  have bytes := State.park_bytes s s.cur.coh lanes pc ⟨1, cause, sub, 0, 15, va, detail⟩
  rw [park_eq hne] at bytes ⊢
  have go := State.LetGo.withdraw free
  have blk := go.cohBlk s.cur.coh
  have grd := go.cohGrd s.cur.coh
  have traps := go.traps
  have cur := go.cur
  have same : (look (s.withdraw s.cur.coh).cohorts s.cur.coh).isSome = true := (go.there _).trans there
  have stay := go.stay
  have lasting := go.lasting
  generalize s.withdraw s.cur.coh = w at *
  rw [grd, traps]
  have coh : ∀ (u : State) (f : Cohort → Cohort) (j : Nat), u.cohorts = w.cohorts →
      ((u.modCoh s.cur.coh f).drop lanes).coh j = if j = s.cur.coh then f (w.coh j) else w.coh j := fun u f j hu => by
    have e : u.coh = w.coh := by
      unfold State.coh
      rw [hu]
    rw [coh_drop, coh_modCoh, hu, e]
    by_cases hj : j = s.cur.coh
    · rw [if_pos ⟨hj, same⟩, if_pos hj, hj]
    · rw [if_neg (fun h => hj h.1), if_neg hj]
  have coh := fun f j => coh (w.record s.cur.coh lanes pc ⟨1, cause, sub, 0, 15, va, detail⟩ lanes.toNat (s.cohCore s.cur.coh) 0).2
    f j rfl
  refine ⟨⟨?_, fun l hl hm => ?_, fun l _ hm => ?_, ?_, fun j => ?_, ?_, ?_⟩, ?_, ?_⟩
  · rw [coh, if_pos rfl]
    have parked := congrArg Cohort.parked (lasting s.cur.coh)
    exact congrArg (· ||| lanes) parked
  · rw [coh, if_pos rfl]
    exact (look_foldl_set ..).trans (if_pos (mem_lanesOf.2 ⟨hl, hm⟩))
  · rw [coh, if_pos rfl]
    exact stay l hm
  · show getD (put w.traps.nextTid (w.cohGrd s.cur.coh).part ((getD w.traps.nextTid (w.cohGrd s.cur.coh).part 0 + 1) % 2 ^ 32) 0) _ 0 = _
    rw [grd, traps]
    exact getD_put_same ..
  · have regs := congrArg Cohort.regs (lasting j)
    have sregs := congrArg Cohort.sregs (lasting j)
    have preds := congrArg Cohort.preds (lasting j)
    rw [coh]
    split <;> exact ⟨regs, sregs, preds⟩
  · exact ⟨congrArg Prod.fst bytes, congrArg Prod.snd bytes⟩
  · obtain ⟨w0, w1, w2, w4, w5, w7, words, fields⟩ := recordWords_fields cause sub va detail (s.cohCore s.cur.coh)
      (getD s.traps.nextTid (s.cohPart s.cur.coh) 0) (s.cohBlk s.cur.coh).blk w.tick.time pc lanes
      ((w.coh s.cur.coh).path &&& (if (w.coh s.cur.coh).regionOpen then (w.coh s.cur.coh).memb &&& lanes else 0#32)).toNat
      (if (w.coh s.cur.coh).regionOpen then (w.coh s.cur.coh).memb &&& lanes else 0#32).toNat
      (w.coh s.cur.coh).idx (s.cohBlk s.cur.coh).core (s.cohGrd s.cur.coh).tctx (s.cohGrd s.cur.coh).serial hc ht
    refine ⟨⟨s.cohPart s.cur.coh, getD s.traps.nextTid (s.cohPart s.cur.coh) 0, s.cohCore s.cur.coh, _⟩, ?_, rfl, rfl, rfl,
      w0, w1, w2, w4, w5, w7, words, fields⟩
    rw [← traps, State.cohPart, ← grd, ← blk]
    rfl
  · rw [← same]
    exact isSome_modCoh ..
  · rw [← cur]
    rfl

/-- The lanes of the group that did not trap go on. -/
theorem State.Trapped.advance {s t : State} {m : LaneMask} {pc va : DWord} {cause sub detail : Nat}
    (h : s.Trapped t m pc cause sub va detail) (there : (look t.cohorts t.cur.coh).isSome = true) (cur : t.cur.coh = s.cur.coh)
    (off : ∀ l < 32, m.getLsbD l = true → t.cur.lanes.getLsbD l = false) : s.Trapped t.advance m pc cause sub va detail := by
  obtain ⟨parked, tids, stay, next, regs, mem, wrote⟩ := h
  have bare := bare_advance t
  have others := fun j (hj : j ≠ t.cur.coh) => coh_advance_other t hj
  have pcs := pcOf_advance t there
  rw [cur] at bare others pcs
  have bareParked := congrArg Cohort.parked bare
  have bareTid := congrArg Cohort.tid bare
  refine ⟨bareParked.trans parked, fun l hl hm => ?_, fun l hl hm => ?_, next, fun j => ?_, mem, wrote⟩
  · exact (congrArg (fun m => look m l) bareTid).trans (tids l hl hm)
  · rw [pcs l hl, off l hl hm, if_neg Bool.false_ne_true]
    exact stay l hl hm
  · by_cases hj : j = s.cur.coh
    · subst hj
      have bareRegs := congrArg Cohort.regs bare
      have bareSregs := congrArg Cohort.sregs bare
      have barePreds := congrArg Cohort.preds bare
      obtain ⟨h1, h2, h3⟩ := regs s.cur.coh
      exact ⟨bareRegs.trans h1, bareSregs.trans h2, barePreds.trans h3⟩
    · rw [others j hj]
      exact regs j

theorem State.Trapped.of_used {s t : State} {n : Need} {m : LaneMask} {pc va : DWord} {cause sub detail : Nat}
    (h : (s.used n).Trapped t m pc cause sub va detail) : s.Trapped t m pc cause sub va detail := by
  obtain ⟨parked, tids, stay, next, regs, mem, wrote⟩ := h
  simp only [cur_used, State.cohPart, State.cohCore, cohGrd_used, cohBlk_used] at parked tids stay next wrote
  refine ⟨parked.trans ?_, tids, fun l hl hm => (stay l hl hm).trans ?_, next, fun j => ?_, mem, wrote⟩
  · rw [coh_used]
  · rw [coh_used]
    rfl
  · have same := regs j
    rw [coh_used] at same
    exact same

/-- A word that parks its active lanes with one record. -/
theorem issue_parks {s : State} {n : Need} {cause sub detail : Nat} {va : DWord} (can : s.CanIssue n)
    (free : s.opHeld s.cur.coh &&& s.cur.lanes = 0) (hc : cause < 256)
    (ht : getD s.traps.nextTid (s.cohPart s.cur.coh) 0 < 2 ^ 32) {body : State → LaneMask → State}
    (hb : body (s.used n) (s.active n.g) =
      (s.used n).park s.cur.coh (s.active n.g) s.cur.pc ⟨1, cause, sub, 0, 15, va, detail⟩) :
    s.Trapped (s.issue n body) (s.active n.g) s.cur.pc cause sub va detail ∧
    ∀ l < 32, s.cur.lanes.getLsbD l = true → (s.active n.g).getLsbD l = false →
      ((s.issue n body).coh s.cur.coh).pcOf l = nextPc s.cur.pc s.cur.nw := by
  have inGroup : ∀ l < 32, (s.active n.g).getLsbD l = true → s.cur.lanes.getLsbD l = true := fun l hl ha => by
    rw [State.active, maskOf_getLsbD, Bool.and_eq_true, Bool.and_eq_true] at ha
    exact ha.2.1
  have free := State.freeOf_of_opHeld free
  have freeRun : (s.used n).FreeOf (s.used n).cur.coh (s.active n.g) := fun e he hj l hl =>
    free e he hj l (inGroup l (BitVec.lt_of_getLsbD hl) hl)
  obtain ⟨trapped, there, cur⟩ := park_trapped (pc := s.cur.pc) (sub := sub) (detail := detail) (va := va)
    ((isSome_used s n _).trans can.there) can.act freeRun hc (by rw [State.cohPart, cohGrd_used]; exact ht)
  rw [issue_run body can, hb]
  rw [cur_used] at trapped there cur
  generalize (s.used n).park s.cur.coh (s.active n.g) s.cur.pc ⟨1, cause, sub, 0, 15, va, detail⟩ = t at *
  have fresh : t.cur.stall = false := by rw [cur]; exact can.fresh
  have same : t.cur.coh = s.cur.coh := by rw [cur]
  rw [fresh, if_neg Bool.false_ne_true]
  have off : ∀ l < 32, t.cur.lanes.getLsbD l = (s.cur.lanes.getLsbD l && !(s.active n.g).getLsbD l) := fun l hl => by
    rw [cur]
    simp only [BitVec.getLsbD_and, BitVec.getLsbD_not, hl, decide_true, Bool.true_and]
  refine ⟨(trapped.advance (same ▸ there) same fun l hl hm => ?_).of_used, fun l hl hg hn => ?_⟩
  · rw [off l hl, hm, Bool.not_true, Bool.and_false]
  · have next := pcOf_advance t (same ▸ there) l hl
    rw [same, if_pos (by rw [off l hl, hg, hn]; rfl), cur] at next
    exact next

theorem plainLanes_used (s : State) (n : Need) (m : LaneMask) : (s.used n).plainLanes m = s.plainLanes m := by
  unfold State.plainLanes
  rw [cur_used, coh_used]
  rfl

theorem plainLanes_eq_self {s : State} {m : LaneMask} (h : ∀ l < 32, m.getLsbD l = true → (s.coh s.cur.coh).spec l = false) :
    s.plainLanes m = m := by
  apply BitVec.eq_of_getLsbD_eq
  intro l hl
  rw [State.plainLanes, maskOf_getLsbD]
  cases hm : m.getLsbD l with
  | false => simp
  | true => simp [h l hl hm, hl]

theorem plainLanes_eq_zero {s : State} {m : LaneMask} (h : ∀ l < 32, m.getLsbD l = true → (s.coh s.cur.coh).spec l = true) :
    s.plainLanes m = 0 := maskOf_eq_zero fun l hl => by
  cases hm : m.getLsbD l with
  | false => rfl
  | true => simp [h l hl hm]

/-- A word whose body does nothing has no effect but that its group goes on. -/
theorem issue_quiet {s : State} {n : Need} (can : s.CanIssue n) {body : State → LaneMask → State}
    (hb : body (s.used n) (s.active n.g) = s.used n) : s.Quiet (s.issue n body) := by
  rw [issue_body can hb rfl]
  refine ⟨rfl, fun j hj => (coh_advance_other (s.used n) hj).trans (coh_modCoh_other _ _ hj), fun l hl => ?_, ?_⟩
  · refine (pcOf_advance (s.used n) ((isSome_used s n _).trans can.there) l hl).trans ?_
    rw [cur_used, coh_used]
    rfl
  · refine (bare_advance (s.used n)).trans ?_
    rw [cur_used, coh_used]
    rfl

/-- Settles O16: TRAP and BRKP park the active lanes; with no lane to park BRKP changes nothing. -/
theorem trapsPark : Obligations.TrapsPark := by
  unfold Obligations.TrapsPark
  intro g a code s
  refine fun _ free _ ht => ⟨fun can => ⟨_, rfl, issue_parks can free (by decide) ht ?_⟩, fun can hs =>
    ⟨_, rfl, issue_parks can free (by decide) ht ?_⟩, fun can hs => ⟨_, rfl, issue_quiet can ?_⟩⟩
  · rw [cur_used, val_used]
    rfl
  · rw [cur_used, plainLanes_used, Need.of, plainLanes_eq_self hs]
  · rw [plainLanes_used, Need.of, plainLanes_eq_zero hs]
    exact if_pos rfl

end Sys2Proof.Machine
end

section
/-! PROOF. What is done beside the grids: memory writes, write-backs, moves, events and waiting pops leave the grids, the serial
numbers and the blocks as they are, send no engine write, dirty no L1 and start no cohort. -/

namespace Sys2Proof.Machine

/-- An L1 holds nothing of a partition dirty. -/
def Core.Clean (k : Core) (part : Nat) : Prop := ∀ x ∈ k.l1, x.part = part → x.mask = 0

/-- Beside the grids: no grid, serial number or block has changed, no engine write is new, no L1 is dirtier, and no cohort of
another block is there. -/
structure State.Calm (s t : State) : Prop where
  grids : t.grids = s.grids
  serials : t.serials = s.serials
  blocks : t.blocks = s.blocks
  ewr : ∀ w ∈ t.ewr, w ∈ s.ewr
  clean : ∀ c p, (s.core c).Clean p → (t.core c).Clean p
  cohorts : ∀ e ∈ t.cohorts, ∃ e' ∈ s.cohorts, e'.2.block = e.2.block

theorem State.Calm.trans {s t u : State} (h : s.Calm t) (k : t.Calm u) : s.Calm u := by
  refine ⟨k.grids.trans h.grids, k.serials.trans h.serials, k.blocks.trans h.blocks, fun w hw => h.ewr w (k.ewr w hw),
    fun c p hc => k.clean c p (h.clean c p hc), fun e he => ?_⟩
  obtain ⟨e', he', h1⟩ := k.cohorts e he
  obtain ⟨e'', he'', h2⟩ := h.cohorts e' he'
  exact ⟨e'', he'', h2.trans h1⟩

/-- What `Calm` speaks of. -/
def State.beside (s : State) : SMap Grid × SMap Nat × SMap Block × List EngWrite × SMap Core × SMap Cohort :=
  (s.grids, s.serials, s.blocks, s.ewr, s.cores, s.cohorts)

theorem State.Calm.of_beside {s t : State} (h : t.beside = s.beside) : s.Calm t := by
  have grids : t.grids = s.grids := congrArg (·.1) h
  have serials : t.serials = s.serials := congrArg (·.2.1) h
  have blocks : t.blocks = s.blocks := congrArg (·.2.2.1) h
  have ewr : t.ewr = s.ewr := congrArg (·.2.2.2.1) h
  have cores : t.cores = s.cores := congrArg (·.2.2.2.2.1) h
  have cohorts : t.cohorts = s.cohorts := congrArg (·.2.2.2.2.2) h
  refine ⟨grids, serials, blocks, fun w hw => ewr ▸ hw, fun c p hc => ?_, fun e he => ⟨e, cohorts ▸ he, rfl⟩⟩
  rw [State.core, cores]
  exact hc

theorem State.Calm.refl (s : State) : s.Calm s := .of_beside rfl

theorem State.Calm.foldl {α : Type} {f : State → α → State} (hf : ∀ t x, State.Calm t (f t x)) (l : List α) (s : State) :
    s.Calm (l.foldl f s) :=
  foldl_invariant (fun t : State => s.Calm t) (.refl s) fun t x ht => ht.trans (hf t x)

theorem State.Calm.ite {s t u : State} {c : Prop} [Decidable c] (ht : s.Calm t) (hu : s.Calm u) : s.Calm (if c then t else u) := by
  split
  · exact ht
  · exact hu

/-! ### Memory and slices -/

/-- What keeps the cores, and all that lies far from memory. -/
theorem beside_of_afar {s t : State} (h : t.afar = s.afar) (hs : t.sides = s.sides) : t.beside = s.beside := by
  have grids : t.grids = s.grids := congrArg (fun p => p.1.grids) h
  have serials : t.serials = s.serials := congrArg (fun p => p.1.serials) h
  have blocks : t.blocks = s.blocks := congrArg (fun p => p.1.blocks) h
  have cohorts : t.cohorts = s.cohorts := congrArg (fun p => p.1.cohorts) h
  have cores : t.cores = s.cores := congrArg Prod.fst hs
  have ewr : t.ewr = s.ewr := congrArg Prod.snd hs
  simp only [State.beside, grids, serials, blocks, cohorts, cores, ewr]

theorem State.Calm.homeWrite (s : State) (pa n v : Nat) (except : Option Nat) : s.Calm (s.homeWrite pa n v except) :=
  .of_beside (beside_of_afar (State.homeWrite_afar ..) (State.homeWrite_sides ..))

theorem State.Calm.hartAbort (s : State) (h : Nat) (code sub : BitVec 8) : s.Calm (s.hartAbort h code sub) :=
  .of_beside (beside_of_afar (State.hartAbort_afar ..) (State.hartAbort_sides ..))

theorem State.Calm.l2Clean (s : State) (f : Nat) : s.Calm (s.l2Clean f) :=
  (State.Calm.foldl (fun _ _ => .foldl (fun _ _ => .of_beside (beside_of_afar (State.chargeOwner_afar ..)
    (State.chargeOwner_sides ..))) _ _) _ _).trans (.of_beside rfl)

theorem State.Calm.putPieces (s : State) (l : List (Nat × Nat)) (v : Nat) : s.Calm (s.putPieces l v) :=
  foldl_invariant (fun r : Nat × State => s.Calm r.2) (.refl s) fun _ _ hr => hr.trans (.homeWrite ..)

/-! ### Caches -/

theorem State.core_modCore_of {s : State} {k : Nat} {f : Core → Core} {P : Core → Prop} {c : Nat} (h : P (s.core c))
    (hf : ∀ x, P x → P (f x)) : P ((s.modCore k f).core c) := by
  rw [State.core_modCore]
  split
  · next hc =>
    subst hc
    exact hf _ h
  · exact h

/-- An L1 whose sectors are no dirtier than those of another one. -/
theorem Core.Clean.of_l1 {k k' : Core} {p : Nat} (h : k.Clean p)
    (sub : ∀ y ∈ k'.l1, y.mask = 0 ∨ ∃ e ∈ k.l1, e.part = y.part ∧ e.mask = y.mask) : k'.Clean p := fun y hy hp => by
  obtain h0 | ⟨e, he, h1, h2⟩ := sub y hy
  · exact h0
  · exact h2 ▸ h e he (h1.trans hp)

/-- A core changes so that its L1 gets no dirtier. -/
theorem State.Calm.modCore (s : State) (k : Nat) {f : Core → Core} (hf : ∀ x p, Core.Clean x p → Core.Clean (f x) p) :
    s.Calm (s.modCore k f) :=
  ⟨rfl, rfl, rfl, fun _ h => h, fun _ p hc => State.core_modCore_of (P := fun x => x.Clean p) hc fun x hx => hf x p hx,
    fun e he => ⟨e, he, rfl⟩⟩

theorem State.Calm.l1Stale (s : State) (core part : Nat) (ss : List Nat) : s.Calm (s.l1Stale core part ss) :=
  .modCore s core fun x p hx => hx.of_l1 fun y hy => by
    obtain ⟨e, he, rfl⟩ := List.mem_map.1 hy
    exact Or.inr ⟨e, he, by split <;> exact ⟨rfl, rfl⟩⟩

theorem State.Calm.acquireDrop (s : State) (core part : Nat) : s.Calm (s.acquireDrop core part) :=
  .modCore s core fun x p hx => hx.of_l1 fun y hy => by
    obtain ⟨e, he, rfl⟩ := List.mem_map.1 hy
    exact Or.inr ⟨e, List.mem_of_mem_filter he, by split <;> exact ⟨rfl, rfl⟩⟩

theorem State.Calm.wbSector (s : State) (core part sec : Nat) : s.Calm (s.wbSector core part sec) := by
  have afar := State.wbSector_afar s core part sec
  have grids : (s.wbSector core part sec).grids = s.grids := congrArg (fun p => p.1.grids) afar
  have serials : (s.wbSector core part sec).serials = s.serials := congrArg (fun p => p.1.serials) afar
  have blocks : (s.wbSector core part sec).blocks = s.blocks := congrArg (fun p => p.1.blocks) afar
  have cohorts : (s.wbSector core part sec).cohorts = s.cohorts := congrArg (fun p => p.1.cohorts) afar
  have ewr : (s.wbSector core part sec).ewr = s.ewr := congrArg (fun p => p.1.ewr) afar
  refine ⟨grids, serials, blocks, fun w hw => ewr ▸ hw, fun c p hc => hc.of_l1 fun x hx => ?_, fun e he => ⟨e, cohorts ▸ he, rfl⟩⟩
  rw [State.wbSector_l1] at hx
  split at hx
  · obtain ⟨y, hy, rfl⟩ := List.mem_map.1 hx
    split
    · exact Or.inl rfl
    · exact Or.inr ⟨y, hy, rfl, rfl⟩
  · exact Or.inr ⟨x, hx, rfl, rfl⟩

theorem State.Calm.wbSectors (s : State) (core part : Nat) (l : List Nat) : s.Calm (s.wbSectors core part l) :=
  .foldl (fun _ _ => .wbSector ..) _ _

theorem State.Calm.pullSet (s : State) (core id : Nat) : s.Calm (s.pullSet core id) := by
  unfold State.pullSet
  split
  · exact .refl s
  · exact .wbSectors ..

theorem State.Calm.pullAll (s : State) (ts : List (Nat × Nat)) : s.Calm (s.pullAll ts) := .foldl (fun _ _ => .pullSet ..) _ _

theorem State.Calm.drainWrites (s : State) (f : EngWrite → Bool) : s.Calm (s.drainWrites f) := by
  have fewer : s.Calm ({ s with ewr := s.ewr.filter (fun w => !f w) } : State) :=
    ⟨rfl, rfl, rfl, fun _ h => List.mem_of_mem_filter h, fun _ _ h => h, fun e he => ⟨e, he, rfl⟩⟩
  exact fewer.trans (.foldl (fun _ _ => (State.Calm.homeWrite ..).trans (.l1Stale ..)) _ _)

theorem State.Calm.wbDrop (s : State) (core part : Nat) (l : List Nat) : s.Calm (s.wbDrop core part l) := by
  unfold State.wbDrop
  exact (State.Calm.wbSectors ..).trans (.modCore _ _ fun _ _ hx =>
    hx.of_l1 fun y hy => Or.inr ⟨y, List.mem_of_mem_filter hy, rfl, rfl⟩)

theorem State.Calm.dropTlb (s : State) (f : TlbE → Bool) : s.Calm (s.dropTlb f) :=
  ⟨rfl, rfl, rfl, fun _ h => h, fun c p hc => by
    rw [State.core_dropTlb]
    exact hc, fun e he => ⟨e, he, rfl⟩⟩

/-! ### Cohorts -/

/-- A cohort changes, and its block does not. -/
theorem State.Calm.modCoh (s : State) (c : Nat) {f : Cohort → Cohort} (hf : ∀ k, (f k).block = k.block) : s.Calm (s.modCoh c f) :=
  ⟨rfl, rfl, rfl, fun _ h => h, fun _ _ h => h, fun e he => by
    obtain he | ⟨k, hk, rfl⟩ := mem_upd he
    · exact ⟨e, he, rfl⟩
    · exact ⟨_, hk, (hf k).symm⟩⟩

theorem State.Calm.arrive (s : State) (c : Nat) (ls : List (Nat × DWord)) (b : Bool) : s.Calm (s.arrive c ls b) :=
  .modCoh s c fun k => by
    have bare := (Cohort.bare_settle (ls.foldl (fun k e => k.arriveLane e.1 e.2 b) k)).trans (Cohort.bare_foldl_arriveLane ls b k)
    have block := congrArg Cohort.block bare
    exact block

theorem State.Calm.txAbort (s : State) (c l : Nat) (code sub : BitVec 8) : s.Calm (s.txAbort c l code sub) := by
  have waits : s.Calm (s.unwait c (oneLane l)) := by
    unfold State.unwait
    exact .ite (.refl s) (.of_beside rfl)
  unfold State.txAbort
  dsimp only
  exact (waits.trans ((State.Calm.modCoh _ _ (by exact fun _ => rfl)).trans (.arrive ..))).trans (.ite (.of_beside rfl) (.refl _))

theorem State.Calm.flagDown (s : State) (c : Nat) (f : Option Nat) : s.Calm (s.flagDown c f) := by
  unfold State.flagDown
  split
  · exact .modCoh _ _ (by exact fun _ => rfl)
  · exact .refl s

theorem State.Calm.opDone (s : State) (i : Nat) (m : LaneMask) : s.Calm (s.opDone i m) := by
  unfold State.opDone
  split
  · exact .refl s
  · dsimp only
    have fell := fun (o : Op) => (State.Calm.of_beside (s := s) (t := { s with ops := del s.ops i }) rfl).trans
      (.flagDown _ o.coh o.flag)
    exact .ite (.ite (fell _) ((fell _).trans (.arrive ..))) (.of_beside rfl)

theorem State.Calm.bindSel (s : State) (i l : Nat) (w : BitVec 160) (ws : Nat → Bool) : s.Calm (s.bindSel i l w ws) := by
  unfold State.bindSel
  split
  · exact .refl s
  · next o ho =>
    have taken : s.Calm (s.takeDst o.coh i (((o.dst.filter (fun e => e.2.1 == l)).filter (fun e => ws e.2.2)).map (fun e => e.1))) :=
      .of_beside rfl
    refine taken.trans (.trans (.modCoh _ _ fun k => ?_) (.of_beside rfl))
    refine foldl_invariant (fun k' : Cohort => k'.block = k.block) rfl fun k' e hk => ?_
    split
    · split
      · exact hk
      · exact (Cohort.setS_block ..).trans hk
    · exact hk

theorem State.Calm.popBind (s : State) (i l : Nat) (t : MType) (v : BitVec 128) (st : Nat) : s.Calm (s.popBind i l t v st) := by
  unfold State.popBind
  exact .bindSel ..

/-! ### Queues -/

theorem State.Calm.qTake (s : State) (part q : Nat) (r : Reader) : s.Calm (s.qTake part q r).2 := by
  unfold State.qTake
  dsimp only
  have pulled := State.Calm.pullAll s (s.tagsAt [sectorOf ((s.queue part q).ringAt (s.queue part q).head)] r)
  generalize s.pullAll (s.tagsAt [sectorOf ((s.queue part q).ringAt (s.queue part q).head)] r) = u at *
  have drawn : ∀ c : Prop, [Decidable c] → s.Calm (if c then u else { u with fresh := u.fresh + 16 }) := fun c _ =>
    .ite pulled (pulled.trans (.of_beside rfl))
  exact ((drawn _).trans (.ite (.homeWrite ..) (.refl _))).trans (.of_beside rfl)

theorem State.Calm.qpopLane (s : State) (i : Nat) (o : Op) (q l : Nat) : s.Calm (s.qpopLane i o q l) := by
  have ends : ∀ (t : State) (ls : List Nat) (v : BitVec 128) (st : Nat),
      t.Calm ((ls.foldl (fun s j => s.popBind i j o.ty v st) t).opDone i (oneLane l)) := fun t ls v st =>
    (State.Calm.foldl (fun _ _ => .popBind ..) ls t).trans (.opDone ..)
  have taken : ∀ r : Reader, s.Calm ((s.qTake o.part q r).2.acqAfter o 0) := fun r =>
    (State.Calm.qTake s o.part q r).trans (.ite (.acquireDrop ..) (.refl _))
  unfold State.qpopLane
  dsimp only
  exact .ite (ends ..) (.ite (ends ..) (.ite ((taken _).trans (ends ..)) (.ite (.ite (.refl s) (.of_beside rfl)) (ends ..))))

theorem State.Calm.serveWaits (s : State) (part q : Nat) : s.Calm (s.serveWaits part q) := by
  unfold State.serveWaits
  refine .foldl (fun t w => ?_) _ _
  dsimp only
  refine .ite ?_ (.refl t)
  split
  · exact .of_beside rfl
  · next o _ =>
    exact .trans (t := { t with qwaits := t.qwaits.filter (fun x => !(x.op == w.op && x.lane == w.lane)) }) (.of_beside rfl)
      (.qpopLane _ w.op o q w.lane)

/-! ### Moves of regions -/

theorem State.Calm.clearFrame (s : State) (f : Nat) : s.Calm (s.clearFrame f) := by
  have caches : ∀ (l : List (Nat × Core)) (u : State), u.Calm (l.foldl (fun s e =>
      (((e.2.l1.filter (fun x => x.sector / 2 ^ 15 == f)).map (fun x => (x.part, x.sector)))).foldl
        (fun s x => s.wbDrop e.1 x.1 [x.2]) s) u) := fun l u => .foldl (fun _ _ => .foldl (fun _ _ => .wbDrop ..) _ _) l u
  unfold State.clearFrame
  dsimp only
  refine .trans ?_ (.foldl (fun _ _ => .txAbort ..) _ _)
  refine .trans ?_ (.foldl (fun _ _ => .hartAbort ..) _ _)
  refine .trans (t := State.l2Clean _ f) ?_ (.of_beside rfl)
  exact ((State.Calm.drainWrites ..).trans (caches ..)).trans (.l2Clean ..)

theorem State.Calm.withTier (s : State) (t : Tier) : s.Calm { s with tier := t } := .of_beside rfl

theorem State.Calm.withOwn (s : State) (o : SMap Own) (t : Tier) : s.Calm { s.tick with own := o, tier := t } := .of_beside rfl

theorem State.Calm.moveStart (s : State) (g : TReg) (old new : Nat) (promote : Bool) : s.Calm (s.moveStart g old new promote) := by
  have leaves : ∀ l : List Nat, s.Calm (l.foldl (fun s a =>
      if pte (getBytes s.mem a 8) 52 1 = 1 then s else s.homeWrite a 8 (getBytes s.mem a 8 + 2 ^ 52) none) s) := fun l =>
    .foldl (fun _ _ => .ite (.refl _) (.homeWrite ..)) l s
  unfold State.moveStart
  dsimp only
  refine .trans ?_ (.withOwn ..)
  exact ((leaves _).trans (.dropTlb ..)).trans (.clearFrame ..)

theorem State.Calm.swapStep (s : State) (w : Swap) : s.Calm (s.swapStep w) := by
  unfold State.swapStep
  split
  · exact .refl s
  · split
    · exact .moveStart ..
    · refine .ite (.refl s) ?_
      split
      · exact .refl s
      · split
        · exact .refl s
        · exact .moveStart ..

theorem State.Calm.tierRun (s : State) : s.Calm s.tierRun := by
  have passes : s.Calm ((List.range 16).foldl (fun s _ =>
      s.tier.swaps.foldl (fun s w => if s.swapen w.part then s.swapStep w else s) s) s) :=
    .foldl (fun _ _ => .foldl (fun _ _ => .ite (.swapStep ..) (.refl _)) _ _) _ _
  unfold State.tierRun
  dsimp only
  exact passes.trans (.withTier ..)

theorem State.Calm.demandStart (s : State) (g : Grid) : s.Calm (s.demandStart g) := by
  unfold State.demandStart
  exact (State.Calm.withTier ..).trans (.tierRun ..)

/-! ### Units, events and reads of the scheduler -/

theorem State.Calm.event (s : State) (part kind source m : Nat) (arg0 arg1 : DWord) :
    s.Calm (s.event part kind source m arg0 arg1) := by
  obtain ⟨l, hl⟩ := s.event_eq part kind source m arg0 arg1
  rw [hl]
  exact .of_beside rfl

theorem State.Calm.noteDone (s : State) (w : LateWrite) : s.Calm (s.noteDone w) := by
  unfold State.noteDone
  split
  · exact .of_beside rfl
  · exact .refl s

theorem State.Calm.unitPut (s : State) (w : LateWrite) : s.Calm (s.unitPut w) := by
  unfold State.unitPut
  dsimp only
  refine .ite (.of_beside rfl) ?_
  split
  · exact (State.Calm.putPieces ..).trans (.noteDone ..)
  · exact .ite (.of_beside rfl) (.noteDone ..)

theorem State.Calm.putStat (s : State) (g : Nat) : s.Calm (s.putStat g) := by
  unfold State.putStat
  exact .ite (.refl s) (.unitPut ..)

theorem State.Calm.mvMeet (s : State) (u : MvUnit) (n : Nat) (l : List (Page × Nat × Nat)) : s.Calm (s.mvMeet u n l).2 := by
  unfold State.mvMeet
  split
  · exact .refl s
  · dsimp only
    split <;> exact .of_beside rfl

theorem State.Calm.schedRead (s : State) (u : MvUnit) (part tctx va n : Nat) : s.Calm (s.schedRead u part tctx va n).2 := by
  have past : s.Calm (s.mvOver u) := .of_beside rfl
  unfold State.schedRead
  dsimp only
  split
  · exact past.trans (.pullAll ..)
  · split
    · exact .mvMeet ..
    · exact past

theorem State.Calm.junkArea (s : State) (g : Grid) : s.Calm (s.junkArea g) := by
  unfold State.junkArea
  refine .ite (.refl s) ?_
  dsimp only
  split
  · exact .refl s
  · refine .foldl (fun t i => ?_) _ _
    split
    · exact .of_beside rfl
    · exact .refl t
    · exact .refl t

theorem State.Calm.unbind (s : State) (g : Grid) : s.Calm (s.unbind g) := .ite (.of_beside rfl) (.refl s)

theorem State.Calm.request (s : State) : s.Calm s.request := .of_beside rfl

end Sys2Proof.Machine
end

section
/-! PROOF. Launches: what acceptance, retirement and the launch state machine do to the grids (R173, R174, R177, R180 to
R184). -/

namespace Sys2Proof.Machine

/-! ### Grids only go on -/

/-- A grid some steps of the launch state machine later: its record stays, it is not queued again, its dependences are read only
in DEPWAIT, and once it has retired its outcome stands. -/
structure Grid.Onward (g g' : Grid) : Prop where
  same : g'.rcd = g.rcd ∧ g'.tag = g.tag ∧ g'.part = g.part ∧ g'.serial = g.serial
  started : g.state ≠ .queued → g'.state ≠ .queued
  left : g.state ≠ .depwait → g'.state ≠ .depwait ∧ g'.deps = g.deps
  ended : g.state = .retired → g'.state = .retired ∧ g'.code = g.code ∧ g'.cause = g.cause

theorem Grid.Onward.refl (g : Grid) : g.Onward g := ⟨⟨rfl, rfl, rfl, rfl⟩, id, fun h => ⟨h, rfl⟩, fun h => ⟨h, rfl, rfl⟩⟩

theorem Grid.Onward.trans {g h k : Grid} (a : g.Onward h) (b : h.Onward k) : g.Onward k := by
  obtain ⟨a1, a2, a3, a4⟩ := a.same
  obtain ⟨b1, b2, b3, b4⟩ := b.same
  refine ⟨⟨b1.trans a1, b2.trans a2, b3.trans a3, b4.trans a4⟩, fun hq => b.started (a.started hq), fun hd => ?_, fun hr => ?_⟩
  · obtain ⟨c1, c2⟩ := a.left hd
    obtain ⟨d1, d2⟩ := b.left c1
    exact ⟨d1, d2.trans c2⟩
  · obtain ⟨c1, c2, c3⟩ := a.ended hr
    obtain ⟨d1, d2, d3⟩ := b.ended c1
    exact ⟨d1, d2.trans c2, d3.trans c3⟩

/-- Launches have been taken on: every grid has gone on, and beside the grids little has happened. -/
structure State.Onward (s t : State) : Prop where
  grids : ∀ j g, look s.grids j = some g → ∃ g', look t.grids j = some g' ∧ g.Onward g'
  serials : t.serials = s.serials
  blocks : ∀ b ∈ t.blocks, b ∈ s.blocks
  ewr : ∀ w ∈ t.ewr, w ∈ s.ewr
  clean : ∀ c p, (s.core c).Clean p → (t.core c).Clean p
  cohorts : ∀ e ∈ t.cohorts, ∃ e' ∈ s.cohorts, e'.2.block = e.2.block

theorem State.Calm.onward {s t : State} (h : s.Calm t) : s.Onward t :=
  ⟨fun _ g hg => ⟨g, h.grids ▸ hg, .refl g⟩, h.serials, fun _ hb => h.blocks ▸ hb, h.ewr, h.clean, h.cohorts⟩

theorem State.Onward.refl (s : State) : s.Onward s := (State.Calm.refl s).onward

theorem State.Onward.trans {s t u : State} (h : s.Onward t) (k : t.Onward u) : s.Onward u := by
  refine ⟨fun j g hg => ?_, k.serials.trans h.serials, fun b hb => h.blocks b (k.blocks b hb), fun w hw => h.ewr w (k.ewr w hw),
    fun c p hc => k.clean c p (h.clean c p hc), fun e he => ?_⟩
  · obtain ⟨g', hg', a⟩ := h.grids j g hg
    obtain ⟨g'', hg'', b⟩ := k.grids j g' hg'
    exact ⟨g'', hg'', a.trans b⟩
  · obtain ⟨e', he', h1⟩ := k.cohorts e he
    obtain ⟨e'', he'', h2⟩ := h.cohorts e' he'
    exact ⟨e'', he'', h2.trans h1⟩

theorem State.Onward.ite {s t u : State} {c : Prop} [Decidable c] (ht : c → s.Onward t) (hu : ¬ c → s.Onward u) :
    s.Onward (if c then t else u) := by
  split
  · next h => exact ht h
  · next h => exact hu h

theorem State.Onward.foldl {α : Type} {f : State → α → State} (hf : ∀ t x, State.Onward t (f t x)) (l : List α) (s : State) :
    s.Onward (l.foldl f s) :=
  foldl_invariant (fun t : State => s.Onward t) (.refl s) fun t x ht => ht.trans (hf t x)

theorem State.grd_of_look {s : State} {k : Nat} {g : Grid} (h : look s.grids k = some g) : s.grd k = g := by
  rw [State.grd, getD, h]
  rfl

/-- A grid that has not retired is there. -/
theorem State.look_of_live {s : State} {k : Nat} (h : (s.grd k).state ≠ .retired) : look s.grids k = some (s.grd k) := by
  cases hk : look s.grids k with
  | none =>
    rw [State.grd, getD, hk] at h
    exact absurd rfl h
  | some g => rw [State.grd_of_look hk]

theorem State.Calm.grd {s t : State} (h : s.Calm t) (k : Nat) : t.grd k = s.grd k := by
  rw [State.grd, State.grd, h.grids]

/-- What a grid that was there has come to. -/
theorem State.Onward.grd {s t : State} (h : s.Onward t) {k : Nat} (there : (look s.grids k).isSome = true) :
    (s.grd k).Onward (t.grd k) := by
  obtain ⟨g, hg⟩ := Option.isSome_iff_exists.1 there
  obtain ⟨g', hg', on⟩ := h.grids k g hg
  rw [State.grd_of_look hg, State.grd_of_look hg']
  exact on

theorem look_modGrd (s : State) (k j : Nat) (f : Grid → Grid) :
    look (s.modGrd k f).grids j = if j = k then (look s.grids k).map f else look s.grids j := look_upd _ _ _ _

theorem grd_modGrd {s : State} {k : Nat} {f : Grid → Grid} (h : (look s.grids k).isSome = true) :
    (s.modGrd k f).grd k = f (s.grd k) := by
  obtain ⟨g, hg⟩ := Option.isSome_iff_exists.1 h
  rw [State.grd_of_look hg]
  exact State.grd_of_look ((look_modGrd ..).trans (by rw [if_pos rfl, hg]; rfl))

/-- One grid goes on. -/
theorem State.Onward.modGrd {s : State} {k : Nat} {f : Grid → Grid} (h : ∀ g, look s.grids k = some g → g.Onward (f g)) :
    s.Onward (s.modGrd k f) := by
  refine ⟨fun j g hg => ?_, rfl, fun _ hb => hb, fun _ hw => hw, fun _ _ hc => hc, fun e he => ⟨e, he, rfl⟩⟩
  rw [look_modGrd]
  by_cases hj : j = k
  · subst hj
    rw [if_pos rfl, hg]
    exact ⟨f g, rfl, h g hg⟩
  · rw [if_neg hj]
    exact ⟨g, hg, .refl g⟩

/-! ### Retirement (R184) -/

/-- A grid that has retired. -/
def Grid.end_ (g : Grid) (code cause time : Nat) : Grid := { g with
  state := .retired
  code := code
  cause := cause
  tend := time
  bound := false
  gang := g.gang.map (fun (q : Gang) => { q with reserved := none }) }

/-- What retiring takes away: the grid's blocks and cohorts, its constants and its records. -/
def State.without (s : State) (k : Nat) : State := { s with
  cohorts := s.cohorts.filter (fun e => !((s.blksOf k).map Prod.fst).contains e.2.block)
  blocks := s.blocks.filter (fun e => e.2.grid != k)
  placed := s.placed.filter (fun e => e.2.grid != k)
  constC := s.constC.map (fun (c : Nat × List CLine) => (c.1, c.2.filter (fun l => l.grid != k)))
  traps := { s.traps with info := s.traps.info.filter (fun t => t.grid != k) } }

theorem retire_eq (s : State) (k code cause : Nat) (stat : Bool) :
    ∃ v, (s.tick.modGrd k (·.end_ code cause s.tick.time)).Calm v ∧ s.retire k code cause stat = (v.without k).request := by
  have kept : ∀ (c : Prop) [Decidable c] (u : State) (f : State → State), (∀ x, State.Calm x (f x)) → u.Calm (if c then f u else u) :=
    fun c _ u f hf => .ite (hf u) (.refl u)
  unfold State.retire
  dsimp only
  refine ⟨_, ?_, rfl⟩
  refine .trans ?_ (.unbind ..)
  refine .trans ?_ (kept _ _ (fun u => u.unitPut _) fun _ => .unitPut ..)
  refine .trans ?_ (kept _ _ (fun u => u.junkArea _) fun _ => .junkArea ..)
  exact kept _ _ (fun u => u.putStat k) fun _ => .putStat ..

theorem look_retire (s : State) (k code cause : Nat) (stat : Bool) (j : Nat) : look (s.retire k code cause stat).grids j =
    if j = k then (look s.grids k).map (·.end_ code cause s.tick.time) else look s.grids j := by
  obtain ⟨v, hv, eq⟩ := retire_eq s k code cause stat
  rw [eq]
  exact (congrArg (fun m => look m j) hv.grids).trans (look_modGrd ..)

/-- A grid has retired with an outcome. -/
def State.Retired (s : State) (k code cause : Nat) : Prop :=
  ∃ g, look s.grids k = some g ∧ g.state = .retired ∧ g.code = code ∧ g.cause = cause

theorem retire_retired {s : State} {k : Nat} (there : (look s.grids k).isSome = true) (code cause : Nat) (stat : Bool) :
    (s.retire k code cause stat).Retired k code cause := by
  obtain ⟨g, hg⟩ := Option.isSome_iff_exists.1 there
  exact ⟨g.end_ code cause s.tick.time, by rw [look_retire, if_pos rfl, hg]; rfl, rfl, rfl, rfl⟩

theorem State.Onward.retired {s t : State} (h : s.Onward t) {k code cause : Nat} (r : s.Retired k code cause) :
    t.Retired k code cause := by
  obtain ⟨g, hg, h1, h2, h3⟩ := r
  obtain ⟨g', hg', on⟩ := h.grids k g hg
  obtain ⟨a1, a2, a3⟩ := on.ended h1
  exact ⟨g', hg', a1, a2.trans h2, a3.trans h3⟩

theorem State.Retired.grd {s : State} {k code cause : Nat} (h : s.Retired k code cause) :
    (s.grd k).state = .retired ∧ (s.grd k).code = code ∧ (s.grd k).cause = cause := by
  obtain ⟨g, hg, hr⟩ := h
  rw [State.grd_of_look hg]
  exact hr

/-- A grid that has not retired does so. -/
theorem State.Onward.retire {s : State} {k : Nat} (live : (s.grd k).state ≠ .retired) (code cause : Nat) (stat : Bool) :
    s.Onward (s.retire k code cause stat) := by
  obtain ⟨v, hv, eq⟩ := retire_eq s k code cause stat
  have ends : s.tick.Onward (s.tick.modGrd k (·.end_ code cause s.tick.time)) := .modGrd fun g hg =>
    ⟨⟨rfl, rfl, rfl, rfl⟩, fun _ => (nomatch ·), fun _ => ⟨(nomatch ·), rfl⟩, fun hr => by
      rw [State.grd_of_look (s := s) hg] at live
      exact absurd hr live⟩
  have fewer : v.Onward (v.without k) := ⟨fun j g hg => ⟨g, hg, .refl g⟩, rfl, fun b hb => List.mem_of_mem_filter hb,
    fun _ hw => hw, fun _ _ hc => hc, fun e he => ⟨e, List.mem_of_mem_filter he, rfl⟩⟩
  rw [eq]
  exact ((State.Calm.of_beside (s := s) (t := s.tick) rfl).onward.trans (ends.trans hv.onward)).trans
    (fewer.trans (State.Calm.request _).onward)

/-! ### The launch state machine (R182) -/

/-- A live grid changes its state, not back to QUEUED or DEPWAIT. -/
theorem Grid.Onward.of_live {g g' : Grid} (live : g.state ≠ .retired)
    (same : g'.rcd = g.rcd ∧ g'.tag = g.tag ∧ g'.part = g.part ∧ g'.serial = g.serial)
    (deps : g'.deps = g.deps) (hq : g'.state ≠ .queued) (hd : g'.state ≠ .depwait) : g.Onward g' :=
  ⟨same, fun _ => hq, fun _ => ⟨hd, deps⟩, fun h => absurd h live⟩

theorem State.Onward.setState {s : State} {k : Nat} (live : (s.grd k).state ≠ .retired) {f : Grid → Grid}
    (same : ∀ g, (f g).rcd = g.rcd ∧ (f g).tag = g.tag ∧ (f g).part = g.part ∧ (f g).serial = g.serial)
    (deps : ∀ g, (f g).deps = g.deps) (hq : ∀ g, (f g).state ≠ .queued) (hd : ∀ g, (f g).state ≠ .depwait) :
    s.Onward (s.modGrd k f) :=
  .modGrd fun g hg => .of_live (State.grd_of_look hg ▸ live) (same g) (deps g) (hq g) (hd g)

theorem State.Onward.toOpwait {s : State} {k : Nat} (live : (s.grd k).state ≠ .retired) : s.Onward (s.toOpwait k) := by
  unfold State.toOpwait
  dsimp only
  refine .trans (.setState live ?_ ?_ ?_ ?_) (State.Calm.request _).onward
  · exact fun _ => ⟨rfl, rfl, rfl, rfl⟩
  · exact fun _ => rfl
  · exact fun _ h => nomatch h
  · exact fun _ h => nomatch h

/-- A dependence is read: only the clock, the waits and the caches change. -/
theorem State.Calm.depState (s : State) (k : Nat) (g : Grid) (va : Nat) : s.Calm (s.depState k g va).2 := by
  have read := State.Calm.schedRead s (.grid k) g.part g.tctx va 8
  unfold State.depState
  dsimp only
  split <;> exact read

/-- Dependences are read while the grid waits for them. -/
theorem depRead_onward {s : State} {k : Nat} (wait : (s.grd k).state = .depwait) :
    s.Onward (s.depRead k).2 ∧ ((s.depRead k).2.grd k).state = .depwait := by
  unfold State.depRead
  refine foldl_invariant (fun a : Nat × State => s.Onward a.2 ∧ (a.2.grd k).state = .depwait) ⟨.refl s, wait⟩ fun a va ⟨on, hw⟩ => ?_
  have read := State.Calm.depState a.2 k (s.grd k) va.toNat
  have state : ((a.2.depState k (s.grd k) va.toNat).2.grd k).state = .depwait := by rw [read.grd, hw]
  have read := on.trans read.onward
  dsimp only
  generalize a.2.depState k (s.grd k) va.toNat = d at *
  have there : (look d.2.grids k).isSome = true := by
    rw [State.look_of_live (state ▸ fun h => nomatch h)]
    rfl
  split
  · exact ⟨on, hw⟩
  · split
    · exact ⟨read, state⟩
    · split
      · exact ⟨read, state⟩
      · split
        · refine ⟨read.trans (.modGrd fun g hg => ?_), ?_⟩
          · rw [State.grd_of_look hg] at state
            exact ⟨⟨rfl, rfl, rfl, rfl⟩, id, fun h => absurd state h, fun h => ⟨h, rfl, rfl⟩⟩
          · rw [grd_modGrd there]
            exact state
        · exact ⟨read, state⟩

theorem State.Onward.stepCount {s : State} {k : Nat} (live : (s.grd k).state ≠ .retired) : s.Onward (s.stepCount k) := by
  have sets : ∀ (u : State) (n : Nat → Nat), (u.grd k).state ≠ .retired →
      u.Onward (u.modGrd k (fun r => { r with cpd := n r.cpd, state := .reswait })) :=
    fun u n hu => .setState hu (fun _ => ⟨rfl, rfl, rfl, rfl⟩) (fun _ => rfl) (fun _ h => nomatch h) fun _ h => nomatch h
  have read := State.Calm.schedRead s (.grid k) (s.grd k).part (s.grd k).tctx (s.grd k).indir 4
  have still : ((s.schedRead (.grid k) (s.grd k).part (s.grd k).tctx (s.grd k).indir 4).2.grd k).state ≠ .retired := by
    rw [read.grd]
    exact live
  unfold State.stepCount
  dsimp only
  refine .ite (fun _ => sets s id live) fun _ => ?_
  split
  · exact read.onward
  · exact read.onward.trans (.retire still ..)
  · next v _ =>
    refine .ite (fun _ => read.onward.trans (.retire still ..)) fun _ => .ite (fun _ => read.onward.trans (.retire still ..)) fun _ => ?_
    exact read.onward.trans (sets _ (fun _ => v) still)

theorem State.Onward.stepReswait {s : State} {k : Nat} (live : (s.grd k).state ≠ .retired) : s.Onward (s.stepReswait k) := by
  have tries : s.Calm (if s.tier.swaps.any (fun w => w.part == (s.grd k).part && !w.demand) then s else s.demandStart (s.grd k)) :=
    .ite (.refl s) (.demandStart ..)
  unfold State.stepReswait
  dsimp only
  generalize (if s.tier.swaps.any (fun w => w.part == (s.grd k).part && !w.demand) then s else s.demandStart (s.grd k)) = u at *
  have still : (u.grd k).state ≠ .retired := by
    rw [tries.grd]
    exact live
  have short : u.Onward (u.modGrd k (fun x => { x with rshort := true })) :=
    .modGrd fun g _ => ⟨⟨rfl, rfl, rfl, rfl⟩, id, fun h => ⟨h, rfl⟩, fun h => ⟨h, rfl, rfl⟩⟩
  have shortLive : ((u.modGrd k (fun x => { x with rshort := true })).grd k).state ≠ .retired := by
    rw [grd_modGrd (by rw [State.look_of_live still]; rfl)]
    exact still
  refine .ite (fun _ => .refl s) fun _ => .ite (fun _ => .toOpwait live) fun _ => .ite (fun _ => tries.onward.trans (.toOpwait still))
    fun _ => .ite (fun _ => tries.onward) fun _ => ?_
  generalize u.modGrd k (fun x => { x with rshort := true }) = w at *
  have told : ∀ a b c d e f, w.Calm ((w.putStat k).event a b c d e f) := fun _ _ _ _ _ _ =>
    (State.Calm.putStat w k).trans (.event ..)
  exact ((tries.onward.trans short).trans (told ..).onward).trans (.toOpwait (by rw [(told ..).grd]; exact shortLive))

/-- DEPWAIT in a pass (R180). -/
def State.depStep (s : State) (k : Nat) : State :=
  if (s.grd k).state = .depwait then
    (if (s.depRead k).1 = 1 then (s.depRead k).2.modGrd k (fun r => { r with state := .count })
    else if 10 ≤ (s.depRead k).1 then (s.depRead k).2.retire k 3 ((s.depRead k).1 - 10) true
    else (s.depRead k).2)
  else s

/-- COUNT in a pass (R181). -/
def State.countStep (s : State) (k : Nat) : State := if (s.grd k).state = .count then s.stepCount k else s

/-- RESWAIT in a pass (R88 to R90). -/
def State.resStep (s : State) (k : Nat) : State := if (s.grd k).state = .reswait then s.stepReswait k else s

theorem State.stepLaunch_eq (s : State) (k : Nat) : s.stepLaunch k = ((s.depStep k).countStep k).resStep k := rfl

theorem State.Onward.depStep (s : State) (k : Nat) : s.Onward (s.depStep k) := by
  unfold State.depStep
  refine .ite (fun wait => ?_) fun _ => .refl s
  obtain ⟨on, state⟩ := depRead_onward wait
  have live : ((s.depRead k).2.grd k).state ≠ .retired := fun h => nomatch state.symm.trans h
  refine .ite (fun _ => on.trans (.setState live ?_ ?_ ?_ ?_)) fun _ => .ite (fun _ => on.trans (.retire live ..)) fun _ => on
  · exact fun _ => ⟨rfl, rfl, rfl, rfl⟩
  · exact fun _ => rfl
  · exact fun _ => (nomatch ·)
  · exact fun _ => (nomatch ·)

theorem State.Onward.pastDeps (s : State) (k : Nat) : s.Onward ((s.countStep k).resStep k) := by
  have count : s.Onward (s.countStep k) := .ite (fun h => .stepCount fun hr => nomatch h.symm.trans hr) fun _ => .refl s
  refine count.trans ?_
  generalize s.countStep k = u
  exact .ite (fun h => .stepReswait fun hr => nomatch h.symm.trans hr) fun _ => .refl u

theorem State.Onward.stepLaunch (s : State) (k : Nat) : s.Onward (s.stepLaunch k) :=
  (State.Onward.depStep s k).trans (.pastDeps _ k)

theorem State.Onward.letIn (s : State) (k : Nat) : s.Onward (s.letIn k) := by
  unfold State.letIn
  dsimp only
  refine .ite (fun _ => .refl s) fun hc => ?_
  have state : (s.grd k).state = .opwait := Decidable.not_not.1 fun h => hc (Or.inl h)
  have live : (s.grd k).state ≠ .retired := fun h => nomatch state.symm.trans h
  have sets : ∀ (u : State) (b : Bool → Bool), (u.grd k).state ≠ .retired →
      u.Onward (u.modGrd k (fun r => { r with state := .placing, bound := b r.bound })) := fun u b hu =>
    .setState hu (fun _ => ⟨rfl, rfl, rfl, rfl⟩) (fun _ => rfl) (fun _ => (nomatch ·)) fun _ => (nomatch ·)
  have served : ∀ f, s.Calm ((s.modQueue (s.grd k).part (s.grd k).lqn f).serveWaits (s.grd k).part (s.grd k).lqn) := fun f =>
    .trans (t := s.modQueue (s.grd k).part (s.grd k).lqn f) (.of_beside rfl) (.serveWaits ..)
  refine .ite (fun _ => .ite (fun _ => ?_) fun _ => ?_) fun _ => sets s id live
  · exact (State.Onward.retire live ..).trans (State.Calm.event ..).onward
  · exact (served _).onward.trans (sets _ (fun _ => true) (by rw [(served _).grd]; exact live))

/-- One pass over the launches. -/
def State.launchPass (s : State) : State :=
  let t := s.grids.foldl (fun s e => s.stepLaunch e.1) s
  (sortOn (fun (e : Nat × Grid) => 7 - e.2.prio) t.grids).foldl (fun s e => s.letIn e.1) t

theorem State.launchRun_eq (s : State) : s.launchRun = s.grids.foldl (fun s _ => s.launchPass) s := rfl

theorem State.Onward.steps (s : State) (l : List (Nat × Grid)) : s.Onward (l.foldl (fun s e => s.stepLaunch e.1) s) :=
  .foldl (f := fun u (e : Nat × Grid) => u.stepLaunch e.1) (fun u e => .stepLaunch u e.1) l s

theorem State.Onward.letsIn (s : State) (l : List (Nat × Grid)) : s.Onward (l.foldl (fun s e => s.letIn e.1) s) :=
  .foldl (f := fun u (e : Nat × Grid) => u.letIn e.1) (fun u e => .letIn u e.1) l s

theorem State.Onward.launchRun (s : State) : s.Onward s.launchRun := by
  rw [State.launchRun_eq]
  exact .foldl (f := fun u (_ : Nat × Grid) => u.launchPass) (fun u _ => (State.Onward.steps u _).trans (.letsIn ..)) _ s

/-- No launch is under way before PLACING. -/
def State.NoneWaits (s : State) : Prop := ∀ k, (s.grd k).state ∉ [.depwait, .count, .reswait, .opwait]

theorem State.NoneWaits.of_mem {s : State} (h : ∀ e ∈ s.grids, e.2.state ∉ [.depwait, .count, .reswait, .opwait]) : s.NoneWaits := fun k => by
  obtain hb | hm := s.grd_mem k
  · rw [hb]
    decide
  · exact h _ hm

/-- Where no launch is under way, none is taken on. -/
theorem State.NoneWaits.launchRun {s : State} (h : s.NoneWaits) : s.launchRun = s := by
  simp only [State.NoneWaits, List.mem_cons, List.not_mem_nil, or_false, not_or] at h
  have step : ∀ k, s.stepLaunch k = s := fun k => by
    obtain ⟨h1, h2, h3, -⟩ := h k
    simp [State.stepLaunch, h1, h2, h3]
  have letIn : ∀ k, s.letIn k = s := fun k => by
    obtain ⟨-, -, -, h4⟩ := h k
    exact if_pos (Or.inl h4)
  refine foldl_invariant (fun t => t = s) rfl fun t e ht => ?_
  subst ht
  refine foldl_invariant (fun u => u = t) ?_ fun u e hu => by rw [hu, letIn]
  exact foldl_invariant (fun u => u = t) rfl fun u e hu => by rw [hu, step]

theorem grd_retire {s : State} {k : Nat} (there : (look s.grids k).isSome = true) (code cause : Nat) (stat : Bool) (j : Nat) :
    (s.retire k code cause stat).grd j = if j = k then (s.grd k).end_ code cause s.tick.time else s.grd j := by
  obtain ⟨g, hg⟩ := Option.isSome_iff_exists.1 there
  have h := look_retire s k code cause stat j
  split
  · next hj => rw [State.grd_of_look hg, State.grd_of_look (h.trans (by rw [if_pos hj, hg]; rfl))]
  · next hj => rw [State.grd, State.grd, getD, getD, h, if_neg hj]

/-! ### Acceptance (R173, R174) -/

/-- What acceptance finds belongs to the submission; while it waits nothing has happened to the grids. -/
def LaunchRead (s : State) (part : Nat) (tag : BitVec 64) : Except State (Grid × Nat × State) → Prop
  | .error u => s.Calm u
  | .ok r => r.1.tag = tag ∧ r.1.part = part

/-- A read that may be left out. -/
theorem State.Calm.readIf {s u : State} (h : s.Calm u) (c : Prop) [Decidable c] (w : MvUnit) (part tctx va n : Nat) :
    s.Calm (if c then (Got.val 0, u) else u.schedRead w part tctx va n).2 := by
  split
  · exact h
  · exact h.trans (.schedRead ..)

section
variable {s : State} {part : Nat} {tag : BitVec 64}

theorem LaunchRead.ite {a b : Except State (Grid × Nat × State)} {c : Prop} [Decidable c] (ha : LaunchRead s part tag a)
    (hb : LaunchRead s part tag b) : LaunchRead s part tag (if c then a else b) := by
  split
  · exact ha
  · exact hb

/-- What follows a read: a wait, an invalid launch, or the rest. -/
theorem LaunchRead.read {r : Got × State} (calm : s.Calm r.2) {g : Grid} (hg : g.tag = tag ∧ g.part = part)
    {f : Nat → Except State (Grid × Nat × State)} (val : ∀ v, LaunchRead s part tag (f v)) :
    LaunchRead s part tag (match r.1 with
      | .wait => .error r.2
      | .bad => .ok (g, 6, r.2)
      | .val v => f v) := by
  split
  · exact calm
  · exact hg
  · exact val _

end

theorem readLaunch_reads (s : State) (vf : Nat) (record gang flags : Nat) (tag : BitVec 64) :
    LaunchRead s (s.tctxPart vf) tag (s.readLaunch vf record gang tag.toNat flags) := by
  have named : BitVec.ofNat 64 tag.toNat = tag := by simp
  have first := State.Calm.schedRead s (.submit vf) (s.tctxPart vf) vf record 256
  have deps := first.readIf
  have desc := fun c [Decidable c] w part tctx va n => (deps c w part tctx va n).trans (.schedRead _ w part tctx gang 64)
  unfold State.readLaunch
  refine .ite ⟨named, rfl⟩ (.read first ⟨named, rfl⟩ fun v => ?_)
  refine .ite ⟨named, rfl⟩ (.read (deps ..) ⟨named, rfl⟩ fun w => ?_)
  refine .ite (.ite ⟨named, rfl⟩ ⟨named, rfl⟩) (.ite ⟨named, rfl⟩ (.read (desc ..) ⟨named, rfl⟩ fun x => ?_))
  exact .read ((desc ..).readIf ..) ⟨named, rfl⟩ fun y => .ite ⟨named, rfl⟩ ⟨named, rfl⟩

end Sys2Proof.Machine
end

section
/-! PROOF. Submission of a launch (R173, R174): refused at once, accepted with a serial number, or waiting at a page that is being moved. -/

namespace Sys2Proof.Machine


/-- A refused launch tells its host by a completion entry at most: the events stand. -/
theorem retire_refused_events {s : State} {k : Nat} (idle : (s.grd k).done = []) (crec : (s.grd k).crec = 0) (code cause n : Nat) :
    ((s.retire k code cause false).vf n).events = (s.vf n).events := by
  have done : ∀ (u : State) (w : LateWrite), ((u.noteDone w).vf n).events = (u.vf n).events := fun u w => by
    unfold State.noteDone
    split
    · rw [vf_modVf]
      split
      · next h => rw [h]
      · rfl
    · rfl
  have put : ∀ (u : State) (w : LateWrite), w.n = 0 → ((u.unitPut w).vf n).events = (u.vf n).events := fun u w hw => by
    unfold State.unitPut
    dsimp only
    rw [if_pos hw]
    split
    · rfl
    · exact done ..
  have outer : ∀ (v : State) (g : Grid), (((v.unbind g).without k).request.vf n).events = (v.vf n).events := fun v g => by
    unfold State.unbind
    split <;> rfl
  unfold State.retire
  dsimp only
  refine (outer _ _).trans ?_
  rw [if_neg (not_not.2 idle : ¬ (s.tick.grd k).done ≠ []), if_neg (by decide : ¬ (false = true))]
  split
  · refine (put _ _ (if_neg fun h => h.1 crec)).trans rfl
  · rfl

/-- A record that is not 64-byte aligned is refused unread. -/
theorem readLaunch_misaligned {record : Nat} (h : record % 64 ≠ 0) (s : State) (vf gang flags : Nat) (tag : BitVec 64) :
    ∃ g, s.readLaunch vf record gang tag.toNat flags = .ok (g, 1, s) ∧ (g.tag = tag ∧ g.part = s.tctxPart vf) ∧ g.done = [] ∧
      g.crec = 0 := by
  have read := readLaunch_reads s vf record gang flags tag
  have eq : ∃ g, s.readLaunch vf record gang tag.toNat flags = .ok (g, 1, s) ∧ g.done = [] ∧ g.crec = 0 :=
    ⟨_, if_pos (Or.inl h), rfl, rfl⟩
  obtain ⟨g, hg, hd, hc⟩ := eq
  rw [hg] at read
  exact ⟨g, hg, read, hd, hc⟩

/-- The state in which a submitted launch has a place among the grids. -/
def State.withGrid (s : State) (k : Nat) (g : Grid) : State := { s with grids := set s.grids k g }

/-- A refused launch retires, and its partition hears of it (R174). -/
theorem refuse_noneWaits {s : State} (nobody : s.NoneWaits) {k : Nat} (g : Grid) (cause part : Nat) (tag arg : DWord) :
    (((s.withGrid k g).retire k 3 cause false).event part 1 0x0870 0 tag arg).NoneWaits := fun j => by
  have grids := fun (u : State) => (State.Calm.event u part 1 0x0870 0 tag arg).grd j
  have there : (look (s.withGrid k g).grids k).isSome = true := by simp [State.withGrid]
  rw [grids, grd_retire there]
  split
  · exact fun h => nomatch h
  · next hj =>
    have old : (s.withGrid k g).grd j = s.grd j := by simp [State.withGrid, State.grd, getD, look_set_other _ _ hj]
    rw [old]
    exact nobody j

theorem submit_misaligned {s : State} {vf : Nat} {record gang tag flags : BitVec 64} (hf : (s.vf vf).featuresOk = true)
    (he : s.tctxEn vf = true) (nobody : s.NoneWaits) (h : record.toNat % 64 ≠ 0) (hv : vf ∈ s.vfsOf (s.tctxPart vf))
    (room : (s.vf vf).events.length < 256) :
    Gives (exec (.submitEntry vf record gang tag flags) s) (fun t =>
      ∃ j g, look s.grids j = none ∧ look t.grids j = some g ∧ g.state = .retired ∧ g.code = 3 ∧ g.cause = 1 ∧ g.tag = tag ∧
        t.serials = s.serials ∧
        (t.vf vf).events = (s.vf vf).events ++ [⟨1, 0, 0x0870, 0, t.time % 2 ^ 64, tag, 1⟩]) := by
  obtain ⟨g, read, ⟨htag, hpart⟩, idle, crec⟩ := readLaunch_misaligned h s vf gang.toNat flags.toNat tag
  have done : exec (.submitEntry vf record gang tag flags) s = .next
      ((((s.withGrid (freshKey s.grids) g).retire (freshKey s.grids) 3 1 false).event g.part 1 0x0870 0 tag 1).launchRun) := by
    refine congrArg Host.Outcome.next ((if_neg (by simp [hf, he])).trans ?_)
    rw [read]
    rfl
  rw [State.NoneWaits.launchRun (refuse_noneWaits nobody g 1 g.part tag 1), hpart] at done
  have fresh := look_freshKey s.grids
  generalize freshKey s.grids = k at *
  have grd : (s.withGrid k g).grd k = g := by simp [State.withGrid, State.grd, getD]
  have there : look (s.withGrid k g).grids k = some g := look_set_same ..
  have gone := (look_retire (s.withGrid k g) k 3 1 false k).trans (if_pos rfl)
  rw [there] at gone
  have events := retire_refused_events (n := vf) (grd.symm ▸ idle) (grd.symm ▸ crec) 3 1
  have serials : ((s.withGrid k g).retire k 3 1 false).serials = s.serials := by
    obtain ⟨v, hv, eq⟩ := retire_eq (s.withGrid k g) k 3 1 false
    rw [eq]
    exact hv.serials
  have tctx : ((s.withGrid k g).retire k 3 1 false).ctl.tctx = s.ctl.tctx := by
    have kept := congrArg Ctl.tctx (State.retire_controls (s.withGrid k g) k 3 1 false)
    exact kept
  generalize (s.withGrid k g).retire k 3 1 false = u at *
  have calm := State.Calm.event u (s.tctxPart vf) 1 0x0870 0 tag 1
  have told : ((u.event (s.tctxPart vf) 1 0x0870 0 tag 1).vf vf).events = (s.vf vf).events ++
      [⟨1, 0, 0x0870, 0, (u.event (s.tctxPart vf) 1 0x0870 0 tag 1).time % 2 ^ 64, tag, 1⟩] := by
    rw [State.vf_event _ _ _ _ _ _ _ (State.vfsOf_congr tctx _ ▸ hv), Vf.addEvent_events (events ▸ room), events, State.event_time]
    rfl
  exact ⟨_, done, k, _, fresh, (congrArg (look · k) calm.grids).trans gone, rfl, rfl, rfl, htag, calm.serials.trans serials, told⟩

theorem State.Calm.wake (s : State) (part : Nat) : s.Calm (s.wake part) := by
  unfold State.wake
  dsimp only
  split
  · split <;> exact .of_beside rfl
  · exact .refl s

/-- The state in which a valid launch has its serial number and waits for its dependences (R173, R180). -/
def State.accepted (s : State) (k : Nat) (g : Grid) : State :=
  { s with
    serials := put s.serials g.part ((getD s.serials g.part 0 + 1) % 2 ^ 32) 0
    grids := set s.grids k { g with serial := getD s.serials g.part 0, state := .depwait } }

theorem submit_valid {s : State} {vf : Nat} {record gang tag flags : BitVec 64} (hf : (s.vf vf).featuresOk = true)
    (he : s.tctxEn vf = true) {g : Grid} {u : State}
    (read : s.readLaunch vf record.toNat gang.toNat tag.toNat flags.toNat = .ok (g, 0, u)) :
    Gives (exec (.submitEntry vf record gang tag flags) s) (fun t =>
      ∃ j q, look u.grids j = none ∧ look t.grids j = some q ∧ q.rcd = g.rcd ∧ q.tag = tag ∧ q.part = s.tctxPart vf ∧
        q.serial = getD u.serials (s.tctxPart vf) 0 ∧ q.state ≠ .queued ∧
        getD t.serials (s.tctxPart vf) 0 = (getD u.serials (s.tctxPart vf) 0 + 1) % 2 ^ 32 ∧
        ∀ i, i ≠ s.tctxPart vf → getD t.serials i 0 = getD u.serials i 0) := by
  have named : g.tag = tag ∧ g.part = s.tctxPart vf := by
    have reads := readLaunch_reads s vf record.toNat gang.toNat flags.toNat tag
    rw [read] at reads
    exact reads
  obtain ⟨htag, hpart⟩ := named
  have fresh := look_freshKey u.grids
  have done : exec (.submitEntry vf record gang tag flags) s =
      .next ((((u.accepted (freshKey u.grids) g).putStat (freshKey u.grids)).wake g.part).launchRun) := by
    refine congrArg Host.Outcome.next ((if_neg (by simp [hf, he])).trans ?_)
    rw [read]
    rfl
  generalize freshKey u.grids = k at *
  have on : (u.accepted k g).Onward ((((u.accepted k g).putStat k).wake g.part).launchRun) :=
    ((State.Calm.putStat ..).trans (.wake ..)).onward.trans (.launchRun _)
  obtain ⟨q, hq, onward⟩ := on.grids k _ (look_set_same ..)
  obtain ⟨rcd, qtag, part, serial⟩ := onward.same
  have counted : ∀ i, getD (u.accepted k g).serials i 0 = if i = g.part then (getD u.serials g.part 0 + 1) % 2 ^ 32 else getD u.serials i 0 :=
    fun i => getD_put ..
  rw [← on.serials] at counted
  refine ⟨_, done, k, q, fresh, hq, rcd, qtag.trans htag, part.trans hpart, hpart ▸ serial, onward.started (nomatch ·), ?_, fun i hi => ?_⟩
  · rw [counted, if_pos hpart.symm, hpart]
  · rw [counted, if_neg (hpart ▸ hi)]

theorem submit_waits {s : State} {vf : Nat} {record gang tag flags : BitVec 64} (hf : (s.vf vf).featuresOk = true)
    (he : s.tctxEn vf = true) {u : State} (read : s.readLaunch vf record.toNat gang.toNat tag.toNat flags.toNat = .error u) :
    Gives (exec (.submitEntry vf record gang tag flags) s) (fun t => t = u ∧ t.grids = s.grids) := by
  have calm : s.Calm u := by
    have reads := readLaunch_reads s vf record.toNat gang.toNat flags.toNat tag
    rw [read] at reads
    exact reads
  have done : exec (.submitEntry vf record gang tag flags) s = .next u := by
    refine congrArg Host.Outcome.next ((if_neg (by simp [hf, he])).trans ?_)
    rw [read]
  exact ⟨u, done, rfl, calm.grids⟩

end Sys2Proof.Machine
end

section
/-! PROOF. Launches that wait for a dependence, retire and are cancelled (R180, R182, R184), and O40. -/

namespace Sys2Proof.Machine

/-! ### DEPENDENCE_POLL (R180) -/

section
variable {s u : State} {k : Nat} {g : Grid} {va : DWord} {r : Got}

/-- The pass over the only launch, once its dependence has been read. -/
theorem launchRun_one (hg : s.grids = [(k, g)]) : (s.depStep k).Onward s.launchRun := by
  have run : s.launchRun = s.launchPass := by rw [State.launchRun_eq, hg]; rfl
  have pass : s.launchPass = (sortOn (fun (e : Nat × Grid) => 7 - e.2.prio) (s.stepLaunch k).grids).foldl (fun s e => s.letIn e.1)
      (s.stepLaunch k) := by rw [State.launchPass, hg]; rfl
  rw [run, pass]
  exact (State.Onward.pastDeps _ k).trans (.letsIn ..)

/-- A launch that still waits for its dependence is not taken on. -/
theorem launchRun_waits (hg : s.grids = [(k, g)]) (same : (s.depStep k).grids = s.grids) (wait : g.state = .depwait) :
    s.launchRun.grids = s.grids := by
  have run : s.launchRun = s.launchPass := by rw [State.launchRun_eq, hg]; rfl
  have pass : s.launchPass = (sortOn (fun (e : Nat × Grid) => 7 - e.2.prio) (s.stepLaunch k).grids).foldl (fun s e => s.letIn e.1)
      (s.stepLaunch k) := by rw [State.launchPass, hg]; rfl
  rw [run, pass, State.stepLaunch_eq]
  generalize s.depStep k = t at *
  have state : (t.grd k).state = .depwait := by rw [State.grd, same, hg, getD, look, if_pos rfl]; exact wait
  have count : t.countStep k = t := if_neg (state ▸ (nomatch ·))
  have res : t.resStep k = t := if_neg (state ▸ (nomatch ·))
  have letIn : t.letIn k = t := if_pos (Or.inl fun h => nomatch state.symm.trans h)
  rw [count, res, same, hg]
  exact (congrArg State.grids letIn).trans (same.trans hg)

/-- What the byte at a dependence says: failed (6 where it cannot be read, 2 where it has failed), satisfied (1), or pending. -/
def Got.dep : Got → Nat
  | .bad => 6
  | .wait => 0
  | .val v => if v % 256 = 3 then 2 else if v % 256 = 1 ∨ v % 256 = 2 then 1 else 0

theorem depState_one (read : s.schedRead (.grid k) g.part g.tctx va.toNat 8 = (r, u)) :
    s.depState k g va.toNat = (r.dep, u) := by
  unfold State.depState
  dsimp only
  rw [read]
  cases r <;> rfl

theorem depRead_one (hg : s.grd k = g) (hd : g.deps = [va]) (read : s.schedRead (.grid k) g.part g.tctx va.toNat 8 = (r, u)) :
    s.depRead k = (if r.dep = 6 then (16, u)
      else if r.dep = 2 then (12, u)
      else if r.dep = 1 then (1, u.modGrd k (fun r => { r with deps := r.deps.filter (· != va) }))
      else (0, u)) := by
  have one := depState_one read
  unfold State.depRead
  dsimp only
  rw [hg, hd, List.foldl_cons, List.foldl_nil, one]
  rfl

theorem grd_one (hg : s.grids = [(k, g)]) : s.grd k = g := State.grd_of_look (by rw [hg, look, if_pos rfl])

theorem depStep_of_wait (hg : s.grids = [(k, g)]) (wait : g.state = .depwait) : s.depStep k =
    (if (s.depRead k).1 = 1 then (s.depRead k).2.modGrd k (fun r => { r with state := .count })
    else if 10 ≤ (s.depRead k).1 then (s.depRead k).2.retire k 3 ((s.depRead k).1 - 10) true
    else (s.depRead k).2) :=
  if_pos (grd_one hg ▸ wait)

theorem grids_of_read (read : s.schedRead (.grid k) g.part g.tctx va.toNat 8 = (r, u)) : u.grids = s.grids := by
  have calm := State.Calm.schedRead s (.grid k) g.part g.tctx va.toNat 8
  rw [read] at calm
  exact calm.grids

variable (hg : s.grids = [(k, g)]) (wait : g.state = .depwait) (hd : g.deps = [va])
  (read : s.schedRead (.grid k) g.part g.tctx va.toNat 8 = (r, u))
include hg wait hd read

/-- A dependence that has failed, or cannot be read, ends the launch. -/
theorem poll_fails {cause : Nat} (fails : r.dep = 6 ∧ cause = 6 ∨ r.dep = 2 ∧ cause = 2) :
    (s.launchRun.grd k).state = .retired ∧ (s.launchRun.grd k).code = 3 ∧ (s.launchRun.grd k).cause = cause := by
  have there : (look u.grids k).isSome = true := by
    rw [grids_of_read read, hg, look, if_pos rfl]
    rfl
  have step : s.depStep k = u.retire k 3 cause true := by
    rw [depStep_of_wait hg wait, depRead_one (grd_one hg) hd read]
    obtain ⟨h, rfl⟩ | ⟨h, rfl⟩ := fails <;> rw [h] <;> rfl
  exact ((launchRun_one hg).retired (step ▸ retire_retired there ..)).grd

/-- A dependence that is satisfied is dropped, and the launch goes on. -/
theorem poll_satisfied (sat : r.dep = 1) : (s.launchRun.grd k).deps = [] ∧ (s.launchRun.grd k).state ≠ .depwait := by
  have step : s.depStep k = (u.modGrd k (fun r => { r with deps := r.deps.filter (· != va) })).modGrd k
      (fun r => { r with state := .count }) := by
    rw [depStep_of_wait hg wait, depRead_one (grd_one hg) hd read, sat]
    rfl
  have there : look u.grids k = some g := by rw [grids_of_read read, hg, look, if_pos rfl]
  have counted : look (s.depStep k).grids k = some { g with deps := g.deps.filter (· != va), state := .count } := by
    rw [step, look_modGrd, if_pos rfl, look_modGrd, if_pos rfl, there]
    rfl
  have on := (launchRun_one hg).grd (k := k) (by rw [counted]; rfl)
  rw [State.grd_of_look counted] at on
  obtain ⟨left, deps⟩ := on.left (nomatch ·)
  exact ⟨deps.trans (by simp [hd]), left⟩

/-- A dependence that is pending, or lies on a page that is being moved, leaves the launch as it is. -/
theorem poll_pending (pending : r.dep = 0) : s.launchRun.grids = s.grids := by
  have step : s.depStep k = u := by
    rw [depStep_of_wait hg wait, depRead_one (grd_one hg) hd read, pending]
    rfl
  exact launchRun_waits hg (step ▸ grids_of_read read) wait

end

/-! ### CANCEL_LAUNCH (R182, R413) -/

/-- The launches that a cancellation finds. -/
def Grid.cancelled (f : Grid → Bool) (g : Grid) : Bool :=
  (g.state == .queued || g.state == .depwait || g.state == .count || g.state == .reswait || g.state == .opwait || g.state == .placing) && f g

theorem Grid.cancelled_iff (f : Grid → Bool) (g : Grid) :
    g.cancelled f = true ↔ (g.state ≠ .running ∧ g.state ≠ .draining ∧ g.state ≠ .retired) ∧ f g = true := by
  have early : (g.state == .queued || g.state == .depwait || g.state == .count || g.state == .reswait || g.state == .opwait ||
      g.state == .placing) = true ↔ g.state ≠ .running ∧ g.state ≠ .draining ∧ g.state ≠ .retired := by
    cases g.state <;> decide
  rw [Grid.cancelled, Bool.and_eq_true, early]

theorem cancelIf_eq (s : State) (f : Grid → Bool) : s.cancelIf f =
    ((s.grids.filter (fun e => e.2.cancelled f)).length,
      ((s.grids.filter (fun e => e.2.cancelled f)).foldl (fun s e => s.retire e.1 3 4 true) s).launchRun) := rfl

theorem isSome_look_of_mem {α : Type} {m : List (Nat × α)} {e : Nat × α} (h : e ∈ m) : (look m e.1).isSome = true := by
  induction m with
  | nil => exact absurd h List.not_mem_nil
  | cons x m ih =>
    rw [look]
    split
    · rfl
    · next hx =>
      obtain rfl | h := List.mem_cons.1 h
      · exact absurd rfl hx
      · exact ih h

theorem isSome_look_retire {s : State} {j : Nat} (there : (look s.grids j).isSome = true) (k code cause : Nat) (stat : Bool) :
    (look (s.retire k code cause stat).grids j).isSome = true := by
  rw [look_retire]
  split
  · next h =>
    subst h
    rw [Option.isSome_map]
    exact there
  · exact there

/-- Retiring one launch leaves another one, or the same, retired with that outcome. -/
theorem retire_keeps {s : State} {j code cause : Nat} (h : s.Retired j code cause) (k : Nat) (stat : Bool) :
    (s.retire k code cause stat).Retired j code cause := by
  obtain ⟨g, hg, hr⟩ := h
  by_cases hj : j = k
  · subst hj
    exact retire_retired (by rw [hg]; rfl) ..
  · exact ⟨g, by rw [look_retire, if_neg hj, hg], hr⟩

theorem foldl_retire_retired {α : Type} (l : List (Nat × α)) (s : State)
    (there : ∀ e ∈ l, (look s.grids e.1).isSome = true) {k code cause : Nat} {stat : Bool} (hk : s.Retired k code cause ∨ k ∈ l.map Prod.fst) :
    (l.foldl (fun s e => s.retire e.1 code cause stat) s).Retired k code cause := by
  induction l generalizing s with
  | nil => exact hk.resolve_right (List.not_mem_nil)
  | cons e l ih =>
    refine ih _ (fun x hx => isSome_look_retire (there x (List.mem_cons_of_mem _ hx)) ..) ?_
    obtain h | h := hk
    · exact Or.inl (retire_keeps h ..)
    · obtain rfl | h := List.mem_cons.1 h
      · exact Or.inl (retire_retired (there e List.mem_cons_self) ..)
      · exact Or.inr h

/-- Every launch that a cancellation finds retires with STATE 3 and cause 4. -/
theorem cancelIf_retired {s : State} {f : Grid → Bool} {k : Nat} {g : Grid} (hk : look s.grids k = some g) (hit : g.cancelled f = true) :
    (s.cancelIf f).2.Retired k 3 4 := by
  have there : ∀ e ∈ s.grids.filter (fun e => e.2.cancelled f), (look s.grids e.1).isSome = true := fun e he =>
    isSome_look_of_mem (List.mem_of_mem_filter he)
  have mem : k ∈ (s.grids.filter (fun e => e.2.cancelled f)).map Prod.fst :=
    List.mem_map_of_mem (f := Prod.fst) (List.mem_filter.2 ⟨mem_of_look hk, hit⟩)
  rw [cancelIf_eq]
  exact (State.Onward.launchRun _).retired (foldl_retire_retired _ s there (Or.inr mem))

theorem cancelLaunch_retires {s : State} {vf : Nat} (tag : BitVec 64) (hf : (s.vf vf).featuresOk = true)
    (room : s.callRoom (s.tctxPart vf) = true) :
    let hit := fun (g : Grid) => g.vf = vf ∧ g.tag = tag ∧ g.state ≠ .running ∧ g.state ≠ .draining ∧ g.state ≠ .retired
    Gives (exec (.cancelLaunch vf tag) s) (fun t =>
      ((∃ e ∈ s.grids, hit e.2) → t.LastSaid (.ctl vf 0 [])) ∧
      ((∀ e ∈ s.grids, ¬ hit e.2) → t.LastSaid (.ctl vf 1 [])) ∧
      ∀ j g, look s.grids j = some g → hit g → (t.grd j).state = .retired ∧ (t.grd j).code = 3 ∧ (t.grd j).cause = 4) := by
  intro hit
  let f : Grid → Bool := fun g => g.vf == vf && g.tag == tag
  have hits : ∀ g : Grid, g.cancelled f = true ↔ hit g := fun g => by
    rw [Grid.cancelled_iff]
    simp only [f, Bool.and_eq_true, beq_iff_eq, hit]
    tauto
  have done : exec (.cancelLaunch vf tag) s = .next ((s.cancelIf f).2.emit (.ctl vf (if (s.cancelIf f).1 = 0 then 1 else 0) [])) :=
    congrArg Host.Outcome.next (if_neg (by simp [hf, room]))
  have count : (s.cancelIf f).1 = 0 ↔ ∀ e ∈ s.grids, ¬ hit e.2 := by
    rw [cancelIf_eq]
    simp only [List.length_eq_zero_iff, List.filter_eq_nil_iff, hits]
  refine ⟨_, done, fun ⟨e, he, h⟩ => ?_, fun h => ?_, fun j g hj h => ?_⟩
  · rw [if_neg fun h0 => count.1 h0 e he h]
    exact List.getLast?_concat
  · rw [if_pos (count.2 h)]
    exact List.getLast?_concat
  · exact (cancelIf_retired hj ((hits g).2 h)).grd

/-! ### GRID_RETIRE (R184, R194, R115) -/

theorem Core.Clean.dirtySectors {s : State} {c p : Nat} (h : (s.core c).Clean p) : s.dirtySectors c p = [] := by
  rw [State.dirtySectors, List.map_eq_nil_iff, List.filter_eq_nil_iff]
  intro x hx
  simp only [Bool.and_eq_true, beq_iff_eq, bne_iff_ne, not_and, not_not]
  exact h x hx

theorem wbSectors_eq (s : State) (c p : Nat) (l : List Nat) : s.wbSectors c p l = s.wbEach (l.map fun x => (c, p, x)) :=
  (List.foldl_map (f := fun x => (c, p, x)) (g := fun (s : State) (x : Nat × Nat × Nat) => s.wbSector x.1 x.2.1 x.2.2)).symm

/-- Writing back all of a partition leaves its L1 clean. -/
theorem wbAll_clean (s : State) (c p : Nat) : ((s.wbAll c p).core c).Clean p := fun x hx hp => by
  rw [State.wbAll, wbSectors_eq] at hx
  obtain h | ⟨hx, hn⟩ := State.l1_wbEach c _ s hx
  · exact h
  · by_contra dirty
    refine hn (List.mem_map.2 ⟨x.sector, List.mem_map.2 ⟨x, List.mem_filter.2 ⟨hx, ?_⟩, rfl⟩, by rw [hp]⟩)
    rw [Bool.and_eq_true, beq_iff_eq, bne_iff_ne]
    exact ⟨hp, dirty⟩

/-- The L1s of some cores write back all of a partition. -/
def State.wbCores (s : State) (l : List Nat) (p : Nat) : State := l.foldl (fun s c => s.wbAll c p) s

theorem State.Calm.wbCores (s : State) (l : List Nat) (p : Nat) : s.Calm (s.wbCores l p) :=
  .foldl (f := fun (s : State) c => s.wbAll c p) (fun _ _ => .wbSectors ..) l s

theorem wbCores_clean (l : List Nat) (s : State) (p : Nat) {c : Nat} (hc : (s.core c).Clean p ∨ c ∈ l) :
    ((s.wbCores l p).core c).Clean p := by
  have keeps : ∀ (t : State) x, t.Calm (t.wbAll x p) := fun t x => .wbSectors ..
  induction l generalizing s with
  | nil => exact hc.resolve_right List.not_mem_nil
  | cons x l ih =>
    refine ih (s.wbAll x p) ?_
    obtain h | h := hc
    · exact Or.inl ((keeps s x).clean c p h)
    · obtain rfl | h := List.mem_cons.1 h
      · exact Or.inl (wbAll_clean s c p)
      · exact Or.inr h

/-- Nothing of a partition is on its way from an engine once its writes are drained. -/
theorem drainWrites_ewr (s : State) (p : Nat) : ∀ w ∈ (s.drainWrites (fun w => w.part == p)).ewr, w.part ≠ p := by
  have ewr : (s.drainWrites (fun w => w.part == p)).ewr = s.ewr.filter (fun w => !(w.part == p)) :=
    congrArg (fun q => q.1.ewr) (State.drainWrites_afar s _)
  rw [ewr]
  intro w hw hp
  simpa [hp] using (List.mem_filter.1 hw).2

/-- No core has a buffered store. -/
def State.Unbuffered (s : State) : Prop := ∀ c, (s.core c).obuf = []

theorem flushBuf_unbuffered {s : State} (h : s.Unbuffered) (c : Nat) (f : BufEnt → Bool) :
    s.Calm (s.flushBuf c f) ∧ (s.flushBuf c f).Unbuffered := by
  have eq : s.flushBuf c f = s.modCore c (fun k => { k with obuf := [] }) := by
    unfold State.flushBuf
    dsimp only
    rw [h c]
    rfl
  rw [eq]
  refine ⟨.modCore s c fun _ _ hx => hx, fun j => ?_⟩
  exact State.core_modCore_of (P := fun k => k.obuf = []) (h j) fun _ _ => rfl

/-- The order buffers of some blocks drain. -/
def State.flushBlocks (s : State) (l : List (Nat × Block)) : State :=
  l.foldl (fun s b => s.flushBuf b.2.core (fun e => e.block == b.1)) s

theorem flushBlocks_calm {s : State} (h : s.Unbuffered) (l : List (Nat × Block)) : s.Calm (s.flushBlocks l) := by
  suffices both : s.Calm (s.flushBlocks l) ∧ (s.flushBlocks l).Unbuffered from both.1
  refine foldl_invariant (fun t : State => s.Calm t ∧ t.Unbuffered) ⟨.refl s, h⟩ fun t b ⟨calm, un⟩ => ?_
  obtain ⟨calm', un'⟩ := flushBuf_unbuffered un b.2.core (fun e => e.block == b.1)
  exact ⟨calm.trans calm', un'⟩

theorem State.Unbuffered.of_mem {s : State} (h : ∀ c ∈ s.cores, c.2.obuf = []) : s.Unbuffered := fun c => by
  rw [State.core, getD]
  cases hc : look s.cores c with
  | none => rfl
  | some k => exact h _ (mem_of_look hc)

/-- What a grid has written is brought home before it retires: its buffered stores, the engine writes of its partition, and what
the L1s of its cores hold dirty. -/
def State.broughtHome (s : State) (k p : Nat) : State :=
  ((s.flushBlocks (sortOn (fun (b : Nat × Block) => b.2.blk) (s.blksOf k))).drainWrites (fun w => w.part == p)).wbCores
    (((s.blksOf k).map (fun b => b.2.core)).eraseDups) p

theorem broughtHome_calm {s : State} (h : s.Unbuffered) (k p : Nat) : s.Calm (s.broughtHome k p) :=
  ((flushBlocks_calm h _).trans (.drainWrites ..)).trans (.wbCores ..)

theorem broughtHome_ewr (s : State) (k p : Nat) : ∀ w ∈ (s.broughtHome k p).ewr, w.part ≠ p := fun w hw =>
  drainWrites_ewr _ p w ((State.Calm.wbCores ..).ewr w hw)

theorem broughtHome_clean (s : State) (k p : Nat) : ∀ b ∈ s.blocks, b.2.grid = k → ((s.broughtHome k p).core b.2.core).Clean p :=
  fun b hb hk => wbCores_clean _ _ _ (Or.inr (List.mem_eraseDups.2
    (List.mem_map.2 ⟨b, List.mem_filter.2 ⟨hb, beq_iff_eq.2 hk⟩, rfl⟩)))

/-- Retirement takes the grid's blocks and their cohorts with it. -/
theorem retire_takes (s : State) (k code cause : Nat) (stat : Bool) :
    (∀ b ∈ (s.retire k code cause stat).blocks, b.2.grid ≠ k) ∧
    (∀ c ∈ (s.retire k code cause stat).cohorts, ∀ b ∈ s.blocks, b.2.grid = k → c.2.block ≠ b.1) := by
  obtain ⟨v, hv, eq⟩ := retire_eq s k code cause stat
  have blocks : v.blocks = s.blocks := hv.blocks
  rw [eq]
  refine ⟨fun b hb => ?_, fun c hc b hb hk he => ?_⟩
  · exact bne_iff_ne.1 (List.mem_filter.1 hb).2
  · have left : (!((v.blksOf k).map Prod.fst).contains c.2.block) = true := (List.mem_filter.1 hc).2
    have gone : c.2.block ∈ (v.blksOf k).map Prod.fst :=
      List.mem_map.2 ⟨b, List.mem_filter.2 ⟨blocks ▸ hb, beq_iff_eq.2 hk⟩, he.symm⟩
    rw [List.contains_iff_mem.2 gone] at left
    exact nomatch left

/-- The outcome of a grid that has drained. -/
def Grid.outcome (g : Grid) : Nat × Nat := if g.aborted then (3, 5) else if g.traps = 0 then (1, 0) else (2, 0)

theorem retire_outcome (s : State) (k : Nat) (g : Grid) :
    (if g.aborted then s.retire k 3 5 true else s.retire k (if g.traps = 0 then 1 else 2) 0 true) =
      s.retire k g.outcome.1 g.outcome.2 true := by
  unfold Grid.outcome
  split
  · rfl
  · split <;> rfl

section
variable {s : State} {k : Nat} {g : Grid} (hg : look s.grids k = some g) (state : g.state = .draining)
  (runs : s.running g.part = true)
include hg state runs

theorem gridRetire_waits (wait : ∃ x ∈ s.traps.info, x.grid = k ∧ x.written = false) :
    Gives (exec (.gridRetire k) s) (fun t => t = s) := by
  obtain ⟨x, hx, hk, hw⟩ := wait
  have unwritten : s.traps.info.any (fun t => t.grid == k && !t.written) = true :=
    List.any_eq_true.2 ⟨x, hx, by simp [hk, hw]⟩
  refine ⟨s, congrArg Host.Outcome.next ?_, rfl⟩
  rw [State.grd_of_look hg]
  exact (if_neg (by simp [state, runs])).trans (if_pos (by simp [unwritten]))

variable (ops : s.ops = []) (transit : s.transit = []) (idle : ∀ c ∈ s.cores, ∀ e ∈ c.2.opt, e.2.busy = true → e.2.grid ≠ k)
  (written : ∀ x ∈ s.traps.info, x.grid = k → x.written = true)
include ops transit idle written

theorem execGridRetire_eq : exec (.gridRetire k) s = .next
    (((s.broughtHome k g.part).retire k ((s.broughtHome k g.part).grd k).outcome.1 ((s.broughtHome k g.part).grd k).outcome.2 true).launchRun) := by
  have records : s.traps.info.any (fun t => t.grid == k && !t.written) = false := by
    simp only [List.any_eq_false, Bool.and_eq_true, beq_iff_eq, Bool.not_eq_true', not_and, Bool.not_eq_false]
    exact written
  have engines : s.cores.any (fun c => c.2.opt.any (fun e => e.2.busy && e.2.grid == k)) = false := by
    simp only [List.any_eq_false, Bool.and_eq_true, beq_iff_eq, not_and, List.any_eq_true, not_exists]
    exact idle
  have peers : ∀ b, s.peerBusy b = false := fun b => by simp [State.peerBusy, ops, transit]
  refine congrArg Host.Outcome.next ?_
  rw [State.grd_of_look hg, ← retire_outcome]
  exact (if_neg (by simp [state, runs])).trans (if_neg (by simp [ops, records, engines, peers]))

variable (buffers : ∀ c ∈ s.cores, c.2.obuf = [])
include buffers

theorem gridRetire_retires :
    Gives (exec (.gridRetire k) s) (fun t => (t.grd k).state = .retired ∧
      (∀ w ∈ t.ewr, w.part ≠ g.part) ∧
      (∀ b ∈ s.blocks, b.2.grid = k → t.dirtySectors b.2.core g.part = []) ∧
      ((t.grd k).code, (t.grd k).cause) = (if g.aborted then (3, 5) else if g.traps = 0 then (1, 0) else (2, 0)) ∧
      (∀ b ∈ t.blocks, b.2.grid ≠ k) ∧
      (∀ c ∈ t.cohorts, ∀ b ∈ s.blocks, b.2.grid = k → c.2.block ≠ b.1)) := by
  have done := execGridRetire_eq hg state runs ops transit idle written
  have calm := broughtHome_calm (.of_mem buffers) k g.part
  have ewr := broughtHome_ewr s k g.part
  have clean := broughtHome_clean s k g.part
  have blocks : (s.broughtHome k g.part).blocks = s.blocks := calm.blocks
  have there : look (s.broughtHome k g.part).grids k = some g := calm.grids ▸ hg
  generalize s.broughtHome k g.part = u at *
  have grd : u.grd k = g := State.grd_of_look there
  rw [grd] at done
  obtain ⟨noBlock, noCohort⟩ := retire_takes u k g.outcome.1 g.outcome.2 true
  have on : u.Onward (u.retire k g.outcome.1 g.outcome.2 true) := .retire (by rw [grd, state]; exact (nomatch ·)) ..
  have gone := retire_retired (s := u) (k := k) (by rw [there]; rfl) g.outcome.1 g.outcome.2 true
  generalize u.retire k g.outcome.1 g.outcome.2 true = v at *
  have run := State.Onward.launchRun v
  obtain ⟨retired, code, cause⟩ := (run.retired gone).grd
  refine ⟨_, done, retired, fun w hw => ewr w (on.ewr w (run.ewr w hw)), fun b hb hk => ?_, ?_,
    fun b hb => noBlock b (run.blocks b hb), fun c hc b hb hk => ?_⟩
  · exact (run.clean _ _ (on.clean _ _ (clean b hb hk))).dirtySectors
  · rw [code, cause]
    rfl
  · obtain ⟨c', hc', he⟩ := run.cohorts c hc
    exact he ▸ noCohort c' hc' b (blocks ▸ hb) hk

end

/-- Settles O40: acceptance appends a grid in DEPWAIT or retires it, everything the launch state machine does takes grids on without
undoing an outcome (`State.Onward`), and what is done beside the grids leaves them alone (`State.Calm`). -/
theorem launchesAcceptedAndRetired : Obligations.LaunchesAcceptedAndRetired := by
  unfold Obligations.LaunchesAcceptedAndRetired
  intro s k vf record gang tag flags submit part
  refine ⟨fun hf he => ⟨fun nobody misaligned hv room => ?_, fun g u read => ?_, fun u read => ?_⟩, ?_, ?_, ?_⟩
  · exact submit_misaligned hf he (.of_mem nobody) misaligned hv room
  · exact submit_valid hf he read
  · exact submit_waits hf he read
  · intro g va r u hg wait hd read
    refine ⟨fun hr => ?_, fun hr => ?_, fun v hr => ⟨fun hv => ?_, fun hv => ?_, fun hv => ?_⟩⟩ <;> subst hr
    · exact ⟨_, rfl, poll_fails hg wait hd read (Or.inl ⟨rfl, rfl⟩)⟩
    · exact ⟨_, rfl, poll_pending hg wait hd read rfl⟩
    · exact ⟨_, rfl, poll_fails hg wait hd read (Or.inr ⟨if_pos hv, rfl⟩)⟩
    · exact ⟨_, rfl, poll_satisfied hg wait hd read ((if_neg (by omega)).trans (if_pos hv))⟩
    · exact ⟨_, rfl, poll_pending hg wait hd read ((if_neg (by omega)).trans (if_neg (by omega)))⟩
  · intro g hg state runs ops transit cores
    refine ⟨fun wait => gridRetire_waits hg state runs wait, fun written => ?_⟩
    exact gridRetire_retires hg state runs ops transit (fun c hc => (cores c hc).2) written fun c hc => (cores c hc).1
  · intro hf room
    exact cancelLaunch_retires tag hf room

end Sys2Proof.Machine
end

section
/-! PROOF. A write at its home does not see which units wait at MV = 1. -/

namespace Sys2Proof.Machine

/-- The state with other waits of units at MV = 1. -/
def State.withWaits (s : State) (w : List MvWait) : State := { s with mvWaits := w }

section
variable (s : State) (w : List MvWait)

theorem withWaits_ite (c : Prop) [Decidable c] (t : State) : (if c then s else t).withWaits w = if c then s.withWaits w else t.withWaits w :=
  apply_ite (State.withWaits · w) c s t

theorem foldl_withWaits {α : Type} {f : State → α → State} (hf : ∀ t x, f (t.withWaits w) x = (f t x).withWaits w) (l : List α) :
    l.foldl f (s.withWaits w) = (l.foldl f s).withWaits w :=
  List.foldl_hom (State.withWaits · w) hf

theorem charge_withWaits (part pa n : Nat) : (s.withWaits w).charge part pa n = (s.charge part pa n).withWaits w := by
  unfold State.charge
  rw [withWaits_ite]
  rfl

theorem chargeOwner_withWaits (pa n : Nat) : (s.withWaits w).chargeOwner pa n = (s.chargeOwner pa n).withWaits w := by
  have owner : (s.withWaits w).ownAt pa = s.ownAt pa := rfl
  unfold State.chargeOwner
  rw [owner]
  cases (s.ownAt pa).owner with
  | none => rfl
  | some p => exact charge_withWaits ..

theorem markBad_withWaits (x : Nat) : (s.withWaits w).markBad x = (s.markBad x).withWaits w := by
  unfold State.markBad
  rw [withWaits_ite]
  rfl

theorem l2Bad_withWaits (x : Nat) (held write : Bool) : (s.withWaits w).l2Bad x held write = (s.l2Bad x held write).withWaits w := by
  unfold State.l2Bad
  dsimp only
  rw [withWaits_ite, withWaits_ite, ← foldl_withWaits _ _ fun t x => markBad_withWaits t w x]
  rfl

theorem l2Room_withWaits (line : Nat) (ls : List L2Line) :
    (s.withWaits w).l2Room line ls = ((s.l2Room line ls).1, (s.l2Room line ls).2.withWaits w) := by
  have fresh : (s.withWaits w).fresh = s.fresh := rfl
  have pkg : (s.withWaits w).ctl = s.ctl := rfl
  unfold State.l2Room
  dsimp only
  rw [fresh, pkg]
  split
  · rfl
  split
  · rfl
  split
  · rw [chargeOwner_withWaits]
    rfl
  · rfl

theorem l2Sector_withWaits (x : Nat) (write free : Bool) :
    (s.withWaits w).l2Sector x write free = (s.l2Sector x write free).withWaits w := by
  have sliced : (s.withWaits w).sliced (64 * x) = s.sliced (64 * x) := rfl
  have l2 : (s.withWaits w).l2 = s.l2 := rfl
  unfold State.l2Sector
  dsimp only
  rw [sliced, l2]
  split
  · rfl
  rw [chargeOwner_withWaits, ← withWaits_ite, l2Bad_withWaits]
  generalize State.l2Bad _ x _ write = t
  split
  · rfl
  · rw [l2Room_withWaits]
    rfl

theorem l2Write_withWaits (pa n : Nat) : (s.withWaits w).l2Write pa n = (s.l2Write pa n).withWaits w :=
  foldl_withWaits s w (fun t _ => l2Sector_withWaits t w ..) _

theorem hartAbort_withWaits (h : Nat) (code sub : BitVec 8) : (s.withWaits w).hartAbort h code sub = (s.hartAbort h code sub).withWaits w := by
  have hart : (s.withWaits w).hart h = s.hart h := rfl
  unfold State.hartAbort
  rw [hart]
  cases (s.hart h).tx <;> rfl

theorem conflictWrite_withWaits (pa n : Nat) (except : Option Nat) :
    (s.withWaits w).conflictWrite pa n except = (s.conflictWrite pa n except).withWaits w := by
  have harts : (s.withWaits w).harts = s.harts := rfl
  have fresh : (s.withWaits w).fresh = s.fresh := rfl
  have next : (s.withWaits w).next = s.next.withWaits w := rfl
  unfold State.conflictWrite
  dsimp only
  rw [harts, fresh, next, ← withWaits_ite, foldl_withWaits _ w fun t e => hartAbort_withWaits t w e.1 0x02 0, withWaits_ite]
  rfl

theorem repair_withWaits (pa n : Nat) : (s.withWaits w).repair pa n = (s.repair pa n).withWaits w := by
  unfold State.repair
  rw [withWaits_ite]
  rfl

theorem homeWrite_withWaits (pa n v : Nat) (except : Option Nat) :
    (s.withWaits w).homeWrite pa n v except = (s.homeWrite pa n v except).withWaits w := by
  unfold State.homeWrite State.homePut
  dsimp only
  rw [← l2Write_withWaits, ← repair_withWaits, conflictWrite_withWaits]
  rfl

theorem putParts_withWaits (ps : List (Nat × Nat)) (bs : List Byte) :
    (s.withWaits w).putParts ps bs = (s.putParts ps bs).withWaits w :=
  foldl_withWaits s w (fun t _ => homeWrite_withWaits t w ..) _

end

end Sys2Proof.Machine
end

section
/-! PROOF. Loads of GKX images: what the loader reads, where it waits, how a load begins and a segment ends (R37, R418 to R420). -/

namespace Sys2Proof.Machine

/-! ### Pages that the loader reads -/

/-- What an engine's reads through a context depend on stands. -/
structure State.SeesAs (s t : State) : Prop where
  mem : t.mem = s.mem
  controls : t.controls = s.controls
  fresh : t.fresh = s.fresh
  owners : ∀ f, (getD t.own f .blank).owner = (getD s.own f .blank).owner ∧
    (getD t.own f .blank).exported = (getD s.own f .blank).exported

section
variable {s t : State} (h : s.SeesAs t)
include h

theorem State.SeesAs.pkg : t.ctl.pkg = s.ctl.pkg := show t.controls.pkg = s.controls.pkg by rw [h.controls]

theorem State.SeesAs.isLocal (pa : Nat) : t.isLocal pa = s.isLocal pa := by rw [State.isLocal, State.isLocal, h.pkg]

theorem State.SeesAs.owner (pa : Nat) : (t.ownAt pa).owner = (s.ownAt pa).owner := (h.owners _).1

theorem State.SeesAs.exported (pa : Nat) : (t.ownAt pa).exported = (s.ownAt pa).exported := (h.owners _).2

theorem State.SeesAs.leaf (part tctx va lvl table e : Nat) : t.leaf part tctx va lvl table e = s.leaf part tctx va lvl table e := by
  have tier : ∀ pa, t.tierOf pa = s.tierOf pa := fun pa => by
    unfold State.tierOf
    rw [h.isLocal]
  unfold State.leaf
  simp only [State.norm_congr h.controls, tier]

theorem State.SeesAs.walkFrom (part tctx va : Nat) : ∀ lvl table, t.walkFrom part tctx va lvl table = s.walkFrom part tctx va lvl table := by
  have table : ∀ pa, t.tableOk part pa = s.tableOk part pa := fun pa => by
    rw [State.tableOk, State.tableOk, h.isLocal, h.owner]
  intro lvl
  induction lvl with
  | zero => exact fun tb => by simp only [State.walkFrom, table, h.mem, h.leaf]
  | succ lvl ih => exact fun tb => by simp only [State.walkFrom, table, h.mem, h.leaf, State.norm_congr h.controls, ih]

theorem State.SeesAs.walk (tctx va : Nat) : t.walk tctx va = s.walk tctx va := by
  have ctx : t.tctxOf tctx = s.tctxOf tctx := by
    have tctx : t.ctl.tctx = s.ctl.tctx := show t.controls.tctx = s.controls.tctx by rw [h.controls]
    rw [State.tctxOf, State.tctxOf, tctx]
  rw [State.walk, State.walk, h.walkFrom, State.tctxPart, State.tctxPart, ctx, State.norm_congr h.controls]

/-- An engine's read is allowed or not as before. -/
theorem State.SeesAs.entryCause (part : Nat) (e : TlbE) (va : Nat) : t.entryCause part 5 e va = s.entryCause part 5 e va := by
  have dtid : t.ctl.dtid = s.ctl.dtid := show t.controls.dtid = s.controls.dtid by rw [h.controls]
  have names : ∀ p, t.dtidPart p = s.dtidPart p := fun p => funext fun d => by rw [State.dtidPart, State.dtidPart, dtid]
  have reads : isWrite 5 = false := rfl
  unfold State.entryCause State.physCause
  simp only [h.isLocal, h.owner, h.exported, State.dtidOf, names, h.pkg, dtid, h.fresh, reads, Bool.false_eq_true, false_and,
    if_false, (by decide : ¬ (5 : Nat) = 4)]

theorem State.SeesAs.page (part tctx va : Nat) : t.page none part tctx 5 va = s.page none part tctx 5 va := by
  unfold State.page
  simp only [Option.bind_none, h.walk, h.entryCause]

/-- The image reads as before. -/
theorem State.SeesAs.imageBytes (l : Load) (off n : Nat) : t.imageBytes l off n = s.imageBytes l off n := by
  unfold State.imageBytes
  simp only [h.page, h.mem]

theorem State.SeesAs.imageNat (l : Load) (off n : Nat) : t.imageNat l off n = s.imageNat l off n := by
  rw [State.imageNat, State.imageNat, h.imageBytes]

end

theorem State.SeesAs.trans {s t u : State} (h : s.SeesAs t) (k : t.SeesAs u) : s.SeesAs u :=
  ⟨k.mem.trans h.mem, k.controls.trans h.controls, k.fresh.trans h.fresh,
    fun f => ⟨(k.owners f).1.trans (h.owners f).1, (k.owners f).2.trans (h.owners f).2⟩⟩

/-- The waits of units are nothing that a read depends on. -/
theorem seesAs_withWaits (s : State) (w : List MvWait) : s.SeesAs (s.withWaits w) := ⟨rfl, rfl, rfl, fun _ => ⟨rfl, rfl⟩⟩

/-! ### Waiting at MV = 1 (R37) -/

/-- Parts that have all been resolved have each been. -/
theorem foldr_resolved {α β : Type} {f : α → Option β → Option β} {P : α → Prop}
    (hf : ∀ p acc, (f p acc).isSome = true → P p ∧ acc.isSome = true) {ps : List α} {b : Option β}
    (h : (ps.foldr f b).isSome = true) : ∀ p ∈ ps, P p := by
  induction ps with
  | nil => exact fun p hp => absurd hp List.not_mem_nil
  | cons a ps ih =>
    obtain ⟨ha, ht⟩ := hf _ _ h
    exact List.forall_mem_cons.2 ⟨ha, ih ht⟩

theorem loadMeets_none {s : State} {l : Load} {ps : List (Page × Nat × Nat)} (h : ∀ p ∈ ps, p.1 ≠ .mv) : s.loadMeets l ps = (false, s) :=
  if_neg fun hm => by
    obtain ⟨p, hp, hv⟩ := mv_of_pagesMove hm
    exact h p hp hv

theorem imageMeets_none {s : State} {l : Load} {off n : Nat} (h : (s.imageBytes l off n).isSome = true) :
    s.imageMeets l off n = (false, s) := by
  unfold State.imageBytes at h
  have pages : ∀ p ∈ pageParts (l.va.toNat + off) n, s.page none l.part l.tctx 5 p.1 ≠ .mv :=
    foldr_resolved (fun p acc hp => by
      cases hq : s.page none l.part l.tctx 5 p.1 <;> cases acc <;> simp [hq] at hp ⊢) h
  unfold State.imageMeets
  refine loadMeets_none fun p hp => ?_
  obtain ⟨q, hq, rfl⟩ := List.mem_map.1 hp
  exact pages q hq

theorem imageMeets_of_nat {s : State} {l : Load} {off n : Nat} (h : (s.imageNat l off n).isSome = true) :
    s.imageMeets l off n = (false, s) :=
  imageMeets_none (by rwa [State.imageNat, Option.isSome_map] at h)

theorem targetMeets_none {s : State} {l : Load} (h : (s.targetParts l).isSome = true) : s.targetMeets l = (false, s) := by
  unfold State.targetParts at h
  have pages : ∀ p ∈ pageParts l.target (segSpan l.entry), s.loadPage l p.1 ≠ .mv :=
    foldr_resolved (fun p acc hp => by cases hq : s.loadPage l p.1 <;> cases acc <;> simp [hq] at hp ⊢) h
  unfold State.targetMeets
  refine loadMeets_none fun p hp => ?_
  obtain ⟨q, hq, rfl⟩ := List.mem_map.1 hp
  exact pages q hq

/-- Two states that differ in the waits of units, the clock and the draws at most. -/
def State.Waited (s t : State) : Prop := ∃ w n f, t = { s with mvWaits := w, time := n, fresh := f }

theorem State.Waited.refl (s : State) : s.Waited s := ⟨s.mvWaits, s.time, s.fresh, rfl⟩

theorem State.Waited.trans {s t u : State} (h : s.Waited t) (k : t.Waited u) : s.Waited u := by
  obtain ⟨w, n, f, rfl⟩ := h
  obtain ⟨w', n', f', rfl⟩ := k
  exact ⟨w', n', f', rfl⟩

theorem waited_tick (s : State) (w : List MvWait) : s.Waited { s.tick with mvWaits := w } := ⟨w, s.tick.time, s.tick.fresh, rfl⟩

theorem mvMeet_waited (s : State) (u : MvUnit) (n : Nat) (l : List (Page × Nat × Nat)) : s.Waited (s.mvMeet u n l).2 := by
  unfold State.mvMeet
  split
  · exact .refl s
  · dsimp only
    split <;> exact waited_tick ..

theorem imageMeets_waited (s : State) (l : Load) (off n : Nat) : s.Waited (s.imageMeets l off n).2 := by
  unfold State.imageMeets State.loadMeets
  split
  · exact mvMeet_waited ..
  · exact .refl s

theorem segMeets_waited (s : State) (l : Load) : s.Waited (s.segMeets l).2 := by
  have bytes := imageMeets_waited s l (segOff l.entry) (segSize l.entry)
  by_cases h : (s.imageMeets l (segOff l.entry) (segSize l.entry)).1 = true
  · have first : s.segMeets l = s.imageMeets l (segOff l.entry) (segSize l.entry) := if_pos h
    rw [first]
    exact bytes
  · have both : s.segMeets l = (s.imageMeets l (segOff l.entry) (segSize l.entry)).2.imageMeets l (segSig l.entry) 4627 := if_neg h
    rw [both]
    exact bytes.trans (imageMeets_waited ..)

/-- What waits at a page that is being moved leaves no more than that. -/
theorem State.Waited.leaves {s t : State} (h : s.Waited t) :
    t.svc = s.svc ∧ t.own = s.own ∧ s.SameRegs t ∧ t.mem = s.mem ∧ t.bank = s.bank := by
  obtain ⟨w, n, f, rfl⟩ := h
  exact ⟨rfl, rfl, fun _ => ⟨rfl, rfl, rfl⟩, rfl, rfl⟩

end Sys2Proof.Machine
end

section
/-! PROOF. LOAD_IMAGE (R413, R418, R419): a load begins with its first segment. -/

namespace Sys2Proof.Machine

/-- The load with the header and the entry of its segment. -/
def Load.withEntry (l : Load) (h e : Nat) : Load := { l with header := h, entry := e }

/-- The state with a load on record. -/
def State.withLoad (s : State) (k : Nat) (l : Load) : State := { s with svc := { s.svc with loads := set s.svc.loads k l } }

/-- The state in which a load has begun a segment, with the frames that it writes marked. -/
def State.segBegun (s : State) (k : Nat) (l : Load) (ps : List (Nat × Nat)) : State :=
  ((((framesOf ps).foldl (fun s f => s.clearFrame f) s).modOwn (framesOf ps) (fun o => { o with loading := true })).mvOver
    (.load l.vf)).withLoad k { l with parts := ps }

section
variable {s : State} (k : Nat) {l : Load}

/-! ### Steps 1 and 2 of a segment -/

theorem openSeg_waits (h : (s.imageMeets l 0 32).1 = true) : s.openSeg k l = .error (s.imageMeets l 0 32).2 := if_pos h

variable {h : Nat} (hh : s.imageNat l 0 32 = some h)
include hh

/-- No entry is left: the load reports. -/
theorem openSeg_ends (magic : pte h 0 32 = 0x31584B47) (last : pte h 48 16 ≤ l.seg) : s.openSeg k l = .ok (s.endLoad k l 0) := by
  have meets : s.imageMeets l 0 32 = (false, s) := imageMeets_of_nat (by rw [hh]; rfl)
  unfold State.openSeg
  simp only [meets, Bool.false_eq_true, if_false, hh]
  exact if_pos ⟨magic, last⟩

variable {e : Nat} (he : s.imageNat l (32 + 96 * l.seg) 96 = some e) (more : ¬ (pte h 0 32 = 0x31584B47 ∧ pte h 48 16 ≤ l.seg))
include he more

theorem openSeg_bad (bad : s.segOk (l.withEntry h e) = false) :
    s.openSeg k l = .ok (s.endLoad k (l.withEntry h e) (loadStatus 1 l.seg)) := by
  have meets : s.imageMeets l 0 32 = (false, s) := imageMeets_of_nat (by rw [hh]; rfl)
  have entry : s.imageMeets l (32 + 96 * l.seg) 96 = (false, s) := imageMeets_of_nat (by rw [he]; rfl)
  unfold State.openSeg
  simp only [meets, Bool.false_eq_true, if_false, hh]
  refine (if_neg more).trans ?_
  simp only [entry, Bool.false_eq_true, if_false, he]
  exact if_pos (by rw [← Load.withEntry, bad]; rfl)

theorem openSeg_parts (good : s.segOk (l.withEntry h e) = true) {ps : List (Nat × Nat)} (hp : s.targetParts (l.withEntry h e) = some ps) :
    s.openSeg k l = .ok (if (framesOf ps).any (fun f => (getD s.own f .blank).sealed) then s.endLoad k (l.withEntry h e) (loadStatus 2 l.seg)
      else s.segBegun k (l.withEntry h e) ps) := by
  have meets : s.imageMeets l 0 32 = (false, s) := imageMeets_of_nat (by rw [hh]; rfl)
  have entry : s.imageMeets l (32 + 96 * l.seg) 96 = (false, s) := imageMeets_of_nat (by rw [he]; rfl)
  have target : s.targetMeets (l.withEntry h e) = (false, s) := targetMeets_none (by rw [hp]; rfl)
  unfold State.openSeg
  simp only [meets, Bool.false_eq_true, if_false, hh]
  refine (if_neg more).trans ?_
  simp only [entry, Bool.false_eq_true, if_false, he]
  refine (if_neg (by rw [← Load.withEntry, good]; decide)).trans ?_
  rewrite [← Load.withEntry]
  simp only [target, Bool.false_eq_true, if_false]
  simp only [hp]
  split <;> rfl

end

/-! ### Marks on frames (R29, R419) -/

/-- What a change of some frames leaves of every frame's owner record. -/
theorem modOwn_reads {β : Type} {r : Own → β} {f : Own → Own} (hf : ∀ o, r (f o) = r o) (s : State) (fs : List Nat) (x : Nat) :
    r (getD (s.modOwn fs f).own x .blank) = r (getD s.own x .blank) := by
  refine foldl_invariant (fun m : SMap Own => r (getD m x .blank) = r (getD s.own x .blank)) rfl fun m y h => ?_
  rw [getD_set]
  split
  · next hx => rw [hf, ← hx, h]
  · exact h

/-- What a change of some frames makes true of each of them. -/
theorem modOwn_sets {P : Own → Prop} {f : Own → Own} (hf : ∀ o, P (f o)) (s : State) (fs : List Nat) :
    ∀ x ∈ fs, P (getD (s.modOwn fs f).own x .blank) := by
  have sets : ∀ (fs : List Nat) (m : SMap Own) x, P (getD m x .blank) ∨ x ∈ fs →
      P (getD (fs.foldl (fun m y => set m y (f (getD m y .blank))) m) x .blank) := by
    intro fs
    induction fs with
    | nil => exact fun m x h => h.resolve_right List.not_mem_nil
    | cons y fs ih =>
      refine fun m x h => ih _ x ?_
      rw [getD_set]
      by_cases hx : x = y
      · exact Or.inl (by rw [if_pos hx]; exact hf _)
      · rw [if_neg hx]
        exact h.imp_right fun hm => (List.mem_cons.1 hm).resolve_left hx
  exact fun x hx => sets fs s.own x (Or.inr hx)

/-! ### LOAD_IMAGE -/

/-- The load that LOAD_IMAGE begins. -/
def Load.first (vf part : Nat) (va base : DWord) : Load := ⟨vf, part, vf, va, base, 0, 0, 0, [], []⟩

section
variable {s : State} {vf : Nat} (va base : DWord) (takes : s.takesRequest vf = true)
include takes

theorem exec_loadImage {r : Except State State} (h : s.openSeg (freshKey s.svc.loads) (.first vf (s.tctxPart vf) va base) = r) :
    exec (.loadImage vf va base) s = .next (match r with
      | .ok t => t
      | .error t => s.keepMeets t) := by
  obtain ⟨⟨hf, he⟩, room⟩ : ((s.vf vf).featuresOk = true ∧ s.tctxEn vf = true) ∧ s.callRoom (s.tctxPart vf) = true := by
    simpa only [State.takesRequest, Bool.and_eq_true] using takes
  have first : s.openSeg (freshKey s.svc.loads) ⟨vf, s.tctxPart vf, vf, va, base, 0, 0, 0, [], []⟩ = r := h
  refine congrArg Host.Outcome.next ((if_neg (by simp [hf, he, room])).trans ?_)
  simp only [first]
  cases r <;> rfl

theorem exec_loadImage_ok {t : State} (h : s.openSeg (freshKey s.svc.loads) (.first vf (s.tctxPart vf) va base) = .ok t) :
    exec (.loadImage vf va base) s = .next t := exec_loadImage va base takes h

theorem loadImage_waits (h : (s.imageMeets (.first vf (s.tctxPart vf) va base) 0 32).1 = true) :
    Gives (exec (.loadImage vf va base) s) (fun t =>
      t.svc = s.svc ∧ t.own = s.own ∧ s.SameRegs t ∧ t.mem = s.mem ∧ t.bank = s.bank) := by
  exact ⟨_, exec_loadImage va base takes (openSeg_waits _ h), State.Waited.leaves ⟨_, _, s.fresh, rfl⟩⟩

variable {h : Nat} (hh : s.imageNat (.first vf (s.tctxPart vf) va base) 0 32 = some h)
include hh

theorem loadImage_badHeader (magic : pte h 0 32 ≠ 0x31584B47)
    (entry : (s.imageNat (.first vf (s.tctxPart vf) va base) 32 96).isSome = true) :
    Gives (exec (.loadImage vf va base) s) (fun t =>
      s.Said t (.ctl vf 1 []) ∧ s.SameRegs t ∧ t.mem = s.mem ∧ t.own = s.own) := by
  obtain ⟨e, he⟩ := Option.isSome_iff_exists.1 entry
  have bad : s.segOk ((Load.first vf (s.tctxPart vf) va base).withEntry h e) = false := by
    have differs : (pte h 0 32 == 0x31584B47) = false := beq_eq_false_iff_ne.2 magic
    unfold State.segOk
    dsimp only [Load.withEntry]
    rw [differs]
    simp only [Bool.false_and]
  have opened := openSeg_bad (freshKey s.svc.loads) hh he (fun hc => magic hc.1) bad
  exact ⟨_, exec_loadImage_ok va base takes opened, rfl, fun _ => ⟨rfl, rfl, rfl⟩, rfl, rfl⟩

theorem loadImage_empty (magic : pte h 0 32 = 0x31584B47) (none_ : pte h 48 16 = 0) :
    Gives (exec (.loadImage vf va base) s) (fun t => s.Said t (.ctl vf 0 []) ∧ t.own = s.own) :=
  ⟨_, exec_loadImage_ok va base takes (openSeg_ends _ hh magic none_.le), rfl, rfl⟩

variable {e : Nat} {ps : List (Nat × Nat)} (he : s.imageNat (.first vf (s.tctxPart vf) va base) 32 96 = some e)
  (more : pte h 48 16 ≠ 0) (good : s.segOk ((Load.first vf (s.tctxPart vf) va base).withEntry h e) = true)
  (hp : s.targetParts ((Load.first vf (s.tctxPart vf) va base).withEntry h e) = some ps)
include he more good hp

theorem loadImage_begins (open_ : ∀ f ∈ framesOf ps, (getD s.own f .blank).sealed = false) :
    Gives (exec (.loadImage vf va base) s) (fun t =>
      look t.svc.loads (freshKey s.svc.loads) = some { (Load.first vf (s.tctxPart vf) va base).withEntry h e with parts := ps } ∧
      (∀ f ∈ framesOf ps, (getD t.own f .blank).loading = true) ∧ s.SameRegs t ∧ t.svc.out = s.svc.out) := by
  have opened := openSeg_parts (freshKey s.svc.loads) hh he (fun hc => more (Nat.le_zero.1 hc.2)) good hp
  have unsealed : ¬ (framesOf ps).any (fun f => (getD s.own f .blank).sealed) = true := by
    simpa only [List.any_eq_true, not_exists, not_and, Bool.not_eq_true] using open_
  rw [if_neg unsealed] at opened
  have cleared : ((framesOf ps).foldl (fun s f => s.clearFrame f) s).steady = s.steady :=
    foldl_steady _ (fun _ _ => State.clearFrame_steady ..) _ _
  have marks := modOwn_sets (P := fun o => o.loading = true) (f := fun o => { o with loading := true }) (fun _ => rfl)
    ((framesOf ps).foldl (fun s f => s.clearFrame f) s) (framesOf ps)
  refine ⟨_, exec_loadImage_ok va base takes opened, look_set_same .., marks, ?_, ?_⟩
  · have regs := sameRegs_of_steady cleared
    exact regs
  · exact congrArg (fun x : Steady => x.svc.out) cleared

theorem loadImage_sealed (closed : ∃ f ∈ framesOf ps, (getD s.own f .blank).sealed = true) :
    Gives (exec (.loadImage vf va base) s) (fun t => s.Said t (.ctl vf 2 []) ∧ t.own = s.own ∧ t.mem = s.mem) := by
  have opened := openSeg_parts (freshKey s.svc.loads) hh he (fun hc => more (Nat.le_zero.1 hc.2)) good hp
  rw [if_pos (List.any_eq_true.2 closed)] at opened
  exact ⟨_, exec_loadImage_ok va base takes opened, rfl, rfl, rfl⟩

end

end Sys2Proof.Machine
end

section
/-! PROOF. LOADER_COMPLETE (R419): a segment of data ends, and O53. -/

namespace Sys2Proof.Machine

/-! ### The bytes of a segment -/

theorem zip_upto {α : Type} (a : Nat) (l : List α) : (upto a l.length).zip l = l.zipIdx.map (fun b => (a + b.2, b.1)) := by
  refine List.ext_getElem (by simp [upto]) fun i h1 h2 => ?_
  simp [upto]

/-- One part takes its bytes in order. -/
theorem putParts_one (s : State) (pa : Nat) (bs : List Byte) : s.putParts [(pa, bs.length)] bs = s.deliver pa bs.zipIdx := by
  unfold State.putParts State.deliver
  rw [List.flatMap_cons, List.flatMap_nil, List.append_nil, zip_upto, List.foldl_map]

theorem getD_putParts (s : State) (pa : Nat) (bs : List Byte) (x : Nat) : getD (s.putParts [(pa, bs.length)] bs).mem x 0 =
    if pa ≤ x then (bs[x - pa]?).getD (getD s.mem x 0) else getD s.mem x 0 := by
  rw [putParts_one]
  exact State.getD_deliver pa x bs 0 s

theorem putParts_steady (s : State) (ps : List (Nat × Nat)) (bs : List Byte) : (s.putParts ps bs).steady = s.steady :=
  foldl_steady _ (fun _ _ => State.homeWrite_steady ..) _ _

/-- The part reads back as what was written. -/
theorem map_getD_putParts (s : State) (pa : Nat) (bs : List Byte) :
    (upto pa bs.length).map (fun a => getD (s.putParts [(pa, bs.length)] bs).mem a 0) = bs := by
  refine List.ext_getElem (by simp [upto]) fun i h1 h2 => ?_
  have byte := getD_putParts s pa bs (pa + i)
  rw [if_pos (Nat.le_add_right ..), Nat.add_sub_cancel_left, List.getElem?_eq_getElem h2, Option.getD_some] at byte
  rw [List.getElem_map]
  simp only [upto, List.getElem_map, List.getElem_range]
  exact byte

theorem framesOf_one (pa n : Nat) : framesOf [(pa, n)] = [pa / 2 ^ 21] := rfl

/-! ### Steps 3 to 8 of a segment of data -/

/-- A segment of data whose copy can be made: it lies in one part of the partition's memory, and its bytes and its signature can be
read. -/
structure Load.Data (s : State) (l : Load) (pa : Nat) (src : List Byte) : Prop where
  kind : segKind l.entry = 2
  parts : l.parts = [(pa, src.length)]
  size : segSize l.entry = src.length
  owner : (getD s.own (pa / 2 ^ 21) .blank).owner = some l.part
  bytes : s.imageBytes l (segOff l.entry) (segSize l.entry) = some src

section
variable {s : State} {l : Load} {pa : Nat} {src : List Byte} (d : l.Data s pa src)
include d

theorem Load.Data.owns : s.stillOwns l l.parts = true := by
  rw [State.stillOwns, d.parts, framesOf_one]
  refine List.all_eq_true.2 fun f hf => ?_
  rw [List.mem_singleton.1 hf, d.owner]
  exact beq_self_eq_true _

/-- A segment of data is not filled up. -/
theorem Load.Data.span : src ++ List.replicate (segSpan l.entry - segSize l.entry) 0 = src := by
  have kind := d.kind
  rw [segSpan, if_neg (by omega), if_neg (by omega), Nat.sub_self, List.replicate_zero, List.append_nil]

/-- What is hashed is what was copied. -/
theorem Load.Data.hashed : ((l.parts.flatMap (fun p => upto p.1 p.2)).take (segSize l.entry)).map
    (fun a => getD (s.putParts l.parts src).mem a 0) = src := by
  rw [d.parts, d.size, List.flatMap_cons, List.flatMap_nil, List.append_nil, List.take_of_length_le (by simp [upto])]
  exact map_getD_putParts s pa src

theorem runSeg_wrong (wrong : (Config.sha384 src).toNat ≠ segMeas l.entry) : s.runSeg l l.parts = (4, s.putParts l.parts src) := by
  have data : ¬ segKind l.entry = 4 := by rw [d.kind]; decide
  unfold State.runSeg
  simp only [d.bytes, d.owns, data, if_false, Bool.not_true, Bool.false_eq_true, d.span, d.hashed]
  exact if_pos wrong

theorem runSeg_signed (right : (Config.sha384 src).toNat = segMeas l.entry) {w : List Byte}
    (hw : (s.putParts l.parts src).imageBytes l (segSig l.entry) 4627 = some w)
    (signed : Config.mlDsaOk (((look (s.putParts l.parts src).svc.attest l.part).bind (fun a => look a.keys (pte l.header 64 32))).getD [])
      l.message w = true) : s.runSeg l l.parts =
    (0, ((s.putParts l.parts src).extend l.part (segMeas l.entry)).modOwn (framesOf l.parts) (fun o => { o with loading := false })) := by
  have data : ¬ segKind l.entry = 4 := by rw [d.kind]; decide
  have noCode : ¬ segKind l.entry = 1 := by rw [d.kind]; decide
  unfold State.runSeg
  simp only [d.bytes, d.owns, data, noCode, if_false, Bool.not_true, Bool.false_eq_true, d.span, d.hashed, right, ne_eq, not_true_eq_false,
    hw, signed]

end

/-! ### LOADER_COMPLETE -/

/-- The load goes on to its next segment; a relocation can patch what has been copied as data. -/
def Load.next (l : Load) : Load := { l with
  seg := l.seg + 1
  parts := []
  earlier := if segKind l.entry = 2 ∨ segKind l.entry = 3 then l.earlier ++ [(segVoff l.entry, segSize l.entry, l.parts)] else l.earlier }

/-- The frames that a load has marked are open again, those that belong to nobody left alone. -/
def State.unmarked (s : State) (l : Load) : State :=
  s.modOwn ((framesOf l.parts).filter (fun f => (getD s.own f .blank).owner.isSome)) (fun o => { o with loading := false })

section
variable {s : State} {k : Nat} {l : Load} (hl : look s.svc.loads k = some l)
include hl

theorem loaderComplete_busy (busy : s.segBusy l = true) : exec (.loaderComplete k) s = .next s := by
  refine congrArg Host.Outcome.next ?_
  rw [hl]
  exact if_pos busy

variable (free : s.segBusy l = false)
include free

theorem loaderComplete_waits (waits : (s.segMeets l).1 = true) : Gives (exec (.loaderComplete k) s) (fun t =>
    t.svc = s.svc ∧ t.own = s.own ∧ s.SameRegs t ∧ t.mem = s.mem ∧ t.bank = s.bank) := by
  have done : exec (.loaderComplete k) s = .next (s.segMeets l).2 := by
    refine congrArg Host.Outcome.next ?_
    rw [hl]
    exact (if_neg (by rw [free]; decide)).trans (if_pos waits)
  exact ⟨_, done, (segMeets_waited s l).leaves⟩

variable (meets : s.segMeets l = (false, s)) {r : State}
include meets

theorem loaderComplete_fails {c : Nat} (hr : (s.mvOver (.load l.vf)).runSeg l l.parts = (c, r)) (hc : c ≠ 0) :
    exec (.loaderComplete k) s = .next ((r.unmarked l).endLoad k l (loadStatus c l.seg)) := by
  refine congrArg Host.Outcome.next ?_
  rw [hl]
  refine (if_neg (by rw [free]; decide)).trans ?_
  simp only [meets, Bool.false_eq_true, if_false, hr]
  exact if_pos hc

theorem loaderComplete_ends {t : State} (hr : (s.mvOver (.load l.vf)).runSeg l l.parts = (0, r)) (ho : r.openSeg k l.next = .ok t) :
    exec (.loaderComplete k) s = .next t := by
  have opened := ho
  simp only [Load.next] at opened
  refine congrArg Host.Outcome.next ?_
  rw [hl]
  refine (if_neg (by rw [free]; decide)).trans ?_
  simp only [meets, Bool.false_eq_true, if_false, hr, ne_eq, not_true_eq_false, opened]

end

theorem segMeets_none {s : State} {l : Load} (bytes : (s.imageBytes l (segOff l.entry) (segSize l.entry)).isSome = true)
    (sig : (s.imageBytes l (segSig l.entry) 4627).isSome = true) : s.segMeets l = (false, s) := by
  have first := imageMeets_none bytes
  have second := imageMeets_none sig
  unfold State.segMeets
  simp only [first, second, Bool.false_eq_true, if_false]

/-- The measurement record and the marks are nothing that a read depends on. -/
theorem seesAs_extend (s : State) (part v : Nat) (fs : List Nat) :
    s.SeesAs ((s.extend part v).modOwn fs (fun o => { o with loading := false })) :=
  ⟨rfl, rfl, rfl, fun f => ⟨modOwn_reads (r := Own.owner) (f := fun o => { o with loading := false }) (fun _ => rfl) (s.extend part v) fs f,
    modOwn_reads (r := Own.exported) (f := fun o => { o with loading := false }) (fun _ => rfl) (s.extend part v) fs f⟩⟩

/-- What is left once a segment of data has been copied: nothing but the frames' bytes has changed for registers, stores and calls. -/
structure State.Copied (s t : State) (pa : Nat) (src : List Byte) : Prop where
  out : t.svc.out = s.svc.out
  attest : t.svc.attest = s.svc.attest
  own : t.own = s.own
  regs : s.SameRegs t
  bank : t.bank = s.bank
  mem : ∀ x, getD t.mem x 0 = if pa ≤ x then (src[x - pa]?).getD (getD s.mem x 0) else getD s.mem x 0

theorem putParts_copied (s : State) (w : List MvWait) (pa : Nat) (src : List Byte) :
    s.Copied ((s.putParts [(pa, src.length)] src).withWaits w) pa src := by
  have steady := putParts_steady s [(pa, src.length)] src
  exact ⟨congrArg (fun x : Steady => x.svc.out) steady, congrArg (fun x : Steady => x.svc.attest) steady, congrArg Steady.own steady,
    sameRegs_of_steady (t := (s.putParts [(pa, src.length)] src).withWaits w) steady, congrArg Steady.bank steady, getD_putParts s pa src⟩

section
variable {s : State} {k : Nat} {l : Load} {pa : Nat} {src : List Byte} (d : l.Data s pa src) (hl : look s.svc.loads k = some l)
  (free : s.segBusy l = false) (sig : (s.imageBytes l (segSig l.entry) 4627).isSome = true)
include d

/-- The segment can be copied as well once the loader has stopped waiting. -/
theorem Load.Data.past : l.Data (s.mvOver (.load l.vf)) pa src :=
  ⟨d.kind, d.parts, d.size, d.owner, ((seesAs_withWaits s _).imageBytes ..).trans d.bytes⟩

theorem putParts_past : (s.mvOver (.load l.vf)).putParts l.parts src =
    (s.putParts [(pa, src.length)] src).withWaits (s.mvOver (.load l.vf)).mvWaits := by
  have past := putParts_withWaits s (s.mvOver (.load l.vf)).mvWaits l.parts src
  rw [d.parts] at past ⊢
  exact past

include hl free sig

theorem loaderComplete_wrongHash (wrong : (Config.sha384 src).toNat ≠ segMeas l.entry) :
    Gives (exec (.loaderComplete k) s) (fun t =>
      s.Said t (.ctl l.vf (4 + 256 * l.seg) []) ∧ look t.svc.loads k = none ∧ t.svc.attest = s.svc.attest ∧
      (∀ f ∈ framesOf l.parts, (getD t.own f .blank).loading = false) ∧ s.SameRegs t ∧ t.bank = s.bank ∧
      ∀ x, getD t.mem x 0 = if pa ≤ x then (src[x - pa]?).getD (getD s.mem x 0) else getD s.mem x 0) := by
  have meets := segMeets_none (by rw [d.bytes]; rfl) sig
  have ran := runSeg_wrong d.past wrong
  rw [putParts_past d] at ran
  have done := loaderComplete_fails hl free meets ran (by decide)
  have copied := putParts_copied s (s.mvOver (.load l.vf)).mvWaits pa src
  generalize (s.putParts [(pa, src.length)] src).withWaits (s.mvOver (.load l.vf)).mvWaits = p at *
  have mine : ∀ f ∈ framesOf l.parts, f ∈ (framesOf l.parts).filter (fun f => (getD p.own f .blank).owner.isSome) := fun f hf => by
    refine List.mem_filter.2 ⟨hf, ?_⟩
    rw [d.parts, framesOf_one] at hf
    rw [List.mem_singleton.1 hf, copied.own, d.owner]
    rfl
  have marks := modOwn_sets (P := fun o => o.loading = false) (f := fun o => { o with loading := false }) (fun _ => rfl) p
    ((framesOf l.parts).filter (fun f => (getD p.own f .blank).owner.isSome))
  refine ⟨_, done, congrArg (· ++ [_]) copied.out, (look_del ..).trans (if_pos rfl), copied.attest, fun f hf => marks f (mine f hf),
    copied.regs, copied.bank, copied.mem⟩

theorem loaderComplete_last {w : List Byte} {h : Nat} (right : (Config.sha384 src).toNat = segMeas l.entry)
    (hw : (s.putParts [(pa, src.length)] src).imageBytes l (segSig l.entry) 4627 = some w)
    (signed : Config.mlDsaOk (((look s.svc.attest l.part).bind (fun x => look x.keys (pte l.header 64 32))).getD []) l.message w = true)
    (hh : (s.putParts [(pa, src.length)] src).imageNat l 0 32 = some h) (magic : pte h 0 32 = 0x31584B47)
    (last : pte h 48 16 ≤ l.seg + 1) :
    Gives (exec (.loaderComplete k) s) (fun t =>
      s.Said t (.ctl l.vf 0 []) ∧ look t.svc.loads k = none ∧ (∀ f ∈ framesOf l.parts, (getD t.own f .blank).loading = false) ∧
      s.SameRegs t ∧
      (t.attest l.part).record = Config.sha384 (leBytes 48 (s.attest l.part).record.toNat ++ leBytes 48 (segMeas l.entry)) ∧
      (t.attest l.part).count = (s.attest l.part).count + 1 ∧
      ∀ x, getD t.mem x 0 = if pa ≤ x then (src[x - pa]?).getD (getD s.mem x 0) else getD s.mem x 0) := by
  have meets := segMeets_none (by rw [d.bytes]; rfl) sig
  have ran := fun (w : List Byte) => runSeg_signed d.past right (w := w)
  rw [putParts_past d] at ran
  have sees := seesAs_withWaits (s.putParts [(pa, src.length)] src) (s.mvOver (.load l.vf)).mvWaits
  have copied := putParts_copied s (s.mvOver (.load l.vf)).mvWaits pa src
  rw [← sees.imageBytes] at hw
  rw [← sees.imageNat] at hh
  generalize (s.putParts [(pa, src.length)] src).withWaits (s.mvOver (.load l.vf)).mvWaits = p at *
  have ran := ran w hw (by rw [copied.attest]; exact signed)
  rw [← (seesAs_extend p l.part (segMeas l.entry) (framesOf l.parts)).imageNat] at hh
  have marks := modOwn_sets (P := fun o => o.loading = false) (f := fun o => { o with loading := false }) (fun _ => rfl)
    (p.extend l.part (segMeas l.entry)) (framesOf l.parts)
  have opened := openSeg_ends (l := l.next) k hh magic last
  have done := loaderComplete_ends hl free meets ran opened
  have record : ((look (p.extend l.part (segMeas l.entry)).svc.attest l.part).getD ⟨[], 0, 0⟩) = { s.attest l.part with
      record := Config.sha384 (leBytes 48 (s.attest l.part).record.toNat ++ leBytes 48 (segMeas l.entry))
      count := (s.attest l.part).count + 1 } := by
    unfold State.extend State.attest
    simp only [look_set_same, Option.getD_some, copied.attest]
  refine ⟨_, done, congrArg (· ++ [_]) copied.out, (look_del ..).trans (if_pos rfl), marks, copied.regs, ?_, ?_, copied.mem⟩
  · exact congrArg Attest.record record
  · exact congrArg Attest.count record

end

/-- Settles O53: pages that can be read do not make the loader wait, a copy leaves every page that the loader reads as readable as it
was (`State.SeesAs`), and the marks of the frames stand until the segment ends. -/
theorem imagesLoaded : Obligations.ImagesLoaded := by
  unfold Obligations.ImagesLoaded
  intro s vf k va base part l0 begin_ loading waits
  refine ⟨fun takes moves => loadImage_waits va base takes moves, fun takes h hh => ⟨fun magic entry => ?_, fun magic none_ => ?_, ?_⟩,
    fun l hl => ⟨loaderComplete_busy hl, loaderComplete_waits hl⟩, ?_⟩
  · exact loadImage_badHeader va base takes hh magic entry
  · exact loadImage_empty va base takes hh magic none_
  · intro e ps l he more good hp
    exact ⟨loadImage_begins va base takes hh he more good hp, loadImage_sealed va base takes hh he more good hp⟩
  · intro l src pa hl kind parts owner free bytes length sig ends a
    rw [← length] at parts
    have d : l.Data s pa src := ⟨kind, parts, length.symm, owner, bytes⟩
    refine ⟨loaderComplete_wrongHash d hl free sig, fun u w h hu right hw signed hh magic last => ?_⟩
    subst hu
    rw [← length] at hw hh
    exact loaderComplete_last d hl free sig right hw signed hh magic last

end Sys2Proof.Machine
end
